-- ==== Sys2Proof/Word.lean ====
section
/-! DEFINITION. The word types of the G9 (02_words.md R18, 04_reg_access.md R79, 06_reg_vector.md R132). -/

namespace Sys2Proof

/-- One byte of any memory (R3). -/
abbrev Byte := BitVec 8

/-- A 32-bit lane, accumulator word, m register or w entry. -/
abbrev W32 := BitVec 32

/-- A 64-bit scalar, CSR, queue entry or instruction word. -/
abbrev W64 := BitVec 64

/-- The three engine streams of a core (R11). -/
inductive StreamId where
  | a
  | m
  | v
  deriving DecidableEq, Repr

end Sys2Proof
end

