-- ==== Sys2Proof/Machine/Bits.lean ====
section
/-! DEFINITION. Bit fields, sign extension and byte order (02_words.md R3, R7, 03_numbers.md R55). -/

namespace Sys2Proof.Machine

/-- Bits [hi:lo] of a natural number (R3's notation). -/
def bits (hi lo x : Nat) : Nat := (x >>> lo) % 2 ^ (hi + 1 - lo)

/-- Bit [n] of a natural number. -/
def bit (n x : Nat) : Bool := x.testBit n

/-- The low `w` bits of `x` read as a signed `w`-bit integer (R55). -/
def sext (w x : Nat) : Int :=
  let y := x % 2 ^ w
  if 2 ^ (w - 1) ≤ y then (y : Int) - (2 ^ w : Nat) else (y : Int)

/-- An exact integer reduced to `w` bits. -/
def wrapN (w : Nat) (x : Int) : Nat := (x % ((2 ^ w : Nat) : Int)).toNat

/-- The bytes of `x`, `n` of them, least significant first (R3: little-endian). -/
def leBytes : Nat → Nat → List Byte
  | 0, _ => []
  | n + 1, x => BitVec.ofNat 8 (x % 256) :: leBytes n (x / 256)

/-- The number whose little-endian bytes are given (R3). -/
def leNat : List Byte → Nat
  | [] => 0
  | b :: bs => b.toNat + 256 * leNat bs

/-- ⌈a / b⌉. -/
def ceilDiv (a b : Nat) : Nat := (a + b - 1) / b

/-- `l` with its entry at `i` replaced by `x`; unchanged where there is none. -/
def setAt {α : Type} (l : List α) (i : Nat) (x : α) : List α := l.set i x

/-- The entry of a vector at a number, or the default given outside its range. -/
def vget {α : Type} {n : Nat} (v : Vector α n) (i : Nat) (d : α) : α :=
  if h : i < n then v[i] else d

/-- A vector with the entry at a number replaced; unchanged outside its range. -/
def vset {α : Type} {n : Nat} (v : Vector α n) (i : Nat) (x : α) : Vector α n :=
  if h : i < n then v.set i x else v

/-- SAT32 of R7. -/
def sat32 (x : Int) : Int :=
  if x < -(2 ^ 31) then -(2 ^ 31) else if 2 ^ 31 - 1 < x then 2 ^ 31 - 1 else x

/-- ROTL32 of R7. -/
def rotl32 (x : W32) (n : Nat) : W32 := x.rotateLeft (n % 32)

/-- Which of two serial numbers of 48 bits comes first or is the same (R264). -/
def esnLe (e1 e2 : Nat) : Bool :=
  e1 = e2 || e1 = 0 || (e2 ≠ 0 && (let d := (e2 + 2 ^ 48 - e1) % 2 ^ 48; 1 ≤ d && d ≤ 2 ^ 47 - 1))

end Sys2Proof.Machine
end

