-- ==== Sys2Proof/Machine/Fp.lean ====
section
/-! DEFINITION. Number formats, rounding, conversion and FP32 arithmetic (03_numbers.md R55 to R75). -/

namespace Sys2Proof.Machine

/-- An exact value or a special: a magnitude `m·2^e` with a sign, an infinity or a NaN. -/
inductive X where
  | fin (neg : Bool) (m : Nat) (e : Int)
  | inf (neg : Bool)
  | nan
  deriving DecidableEq, Repr

/-- The floating formats of R56. -/
inductive FFmt where
  | fp32 | fp16 | bf16 | e5m2 | e4m3 | e2m1
  deriving DecidableEq, Repr

/-- The rounding modes of R66, by their full code. -/
inductive Rm where
  | rne | rtz | rdn | rup | sr
  deriving DecidableEq, Repr

/-- The full code of R66; codes 5–7 are reserved. -/
def Rm.ofFull : Nat → Option Rm
  | 0 => some .rne | 1 => some .rtz | 2 => some .rdn | 3 => some .rup | 4 => some .sr | _ => none

/-- The short code of R66; code 3 is reserved. -/
def Rm.ofShort : Nat → Option Rm
  | 0 => some .rne | 1 => some .rtz | 2 => some .sr | _ => none

/-- The floating events of R78 as FPFLAGS bits. -/
abbrev FpFlags := BitVec 5

def fINVALID : FpFlags := 16#5
def fDIVZERO : FpFlags := 8#5
def fOVERFLOW : FpFlags := 4#5
def fUNDERFLOW : FpFlags := 2#5
def fINEXACT : FpFlags := 1#5

/-- Width in bits (R56). -/
def FFmt.width : FFmt → Nat
  | .fp32 => 32 | .fp16 => 16 | .bf16 => 16 | .e5m2 => 8 | .e4m3 => 8 | .e2m1 => 4

/-- Number of fraction bits (R56). -/
def FFmt.frac : FFmt → Nat
  | .fp32 => 23 | .fp16 => 10 | .bf16 => 7 | .e5m2 => 2 | .e4m3 => 3 | .e2m1 => 1

/-- Number of exponent bits (R56). -/
def FFmt.ebits (f : FFmt) : Nat := f.width - 1 - f.frac

/-- Exponent bias (R56). -/
def FFmt.bias : FFmt → Nat
  | .fp32 => 127 | .fp16 => 15 | .bf16 => 127 | .e5m2 => 15 | .e4m3 => 7 | .e2m1 => 1

/-- The top exponent code of the format holds infinities and NaNs (R56). -/
def FFmt.hasInf : FFmt → Bool
  | .e4m3 => false | .e2m1 => false | _ => true

/-- The canonical NaN (R56); E2M1 has none. -/
def FFmt.canonNan : FFmt → Option Nat
  | .fp32 => some 0x7FC00000 | .fp16 => some 0x7E00 | .bf16 => some 0x7FC0
  | .e5m2 => some 0x7E | .e4m3 => some 0x7F | .e2m1 => none

/-- The code of the largest finite magnitude (R56). -/
def FFmt.maxCode : FFmt → Nat
  | .fp32 => 0x7F7FFFFF | .fp16 => 0x7BFF | .bf16 => 0x7F7F
  | .e5m2 => 0x7B | .e4m3 => 0x7E | .e2m1 => 0x7

/-- DEC of a floating code (R57). -/
def decF (f : FFmt) (code : Nat) : X :=
  let w := f.frac
  let s := code.testBit (f.width - 1)
  let fr := code % 2 ^ w
  let ex := (code >>> w) % 2 ^ f.ebits
  let top := 2 ^ f.ebits - 1
  if ex = 0 then .fin s fr (1 - (f.bias : Int) - w)
  else if ex = top && f.hasInf then (if fr = 0 then .inf s else .nan)
  else if f = .e4m3 && ex = top && fr = 7 then .nan
  else .fin s (2 ^ w + fr) ((ex : Int) - f.bias - w)

/-- `m·2^e` as a multiple of `2^q` where `q ≤ e`. -/
def shiftTo (m : Nat) (e q : Int) : Nat := m <<< (e - q).toNat

/-- Number of significant bits of `m`; 0 for 0. -/
def bitLen (m : Nat) : Nat := if m = 0 then 0 else m.log2 + 1

/-- `m1·2^e1 ≤ m2·2^e2`. -/
def magLe (m1 : Nat) (e1 : Int) (m2 : Nat) (e2 : Int) : Bool :=
  let e := min e1 e2
  shiftTo m1 e1 e ≤ shiftTo m2 e2 e

/-- `m1·2^e1 < m2·2^e2`. -/
def magLt (m1 : Nat) (e1 : Int) (m2 : Nat) (e2 : Int) : Bool := !magLe m2 e2 m1 e1

/-- The two neighbours of `m·2^e` on the multiples of `2^q`: the lower multiple, and what is left over it
as a number of `2^e`. -/
def splitAt (m : Nat) (e q : Int) : Nat × Nat :=
  if q ≤ e then (shiftTo m e q, 0)
  else
    let sh := (q - e).toNat
    (m >>> sh, m % 2 ^ sh)

/-- Quantum of a format's grid at the magnitude `m·2^e` (subnormal grid below, unbounded above; R57, R69). -/
def FFmt.quantum (f : FFmt) (m : Nat) (e : Int) : Int :=
  max (e + bitLen m - 1) (1 - (f.bias : Int)) - f.frac

/-- Nearest multiple of `2^q`, ties to even; no other mode. -/
def rneTo (m : Nat) (e q : Int) : Nat :=
  let (k, r) := splitAt m e q
  let sh := (q - e).toNat
  if r = 0 then k
  else if 2 ^ sh < 2 * r || (2 * r = 2 ^ sh && k % 2 = 1) then k + 1 else k

/-- RNE32 of a positive exact magnitude with an unbounded exponent above (helper of R71). -/
def rne32Mag (m : Nat) (e : Int) : Nat × Int :=
  if m = 0 then (0, 0)
  else
    let q := FFmt.quantum .fp32 m e
    (rneTo m e q, q)

/-- A quotient of two positive magnitudes as a magnitude with a sticky bit, exact enough for one rounding
to FP32: 96 bits below the point of the ratio. -/
def divMag (m1 : Nat) (e1 : Int) (m2 : Nat) (e2 : Int) : Nat × Int :=
  let k := bitLen m2 + 96
  let n := m1 <<< k
  let q := n / m2
  let sticky := if n % m2 = 0 then 0 else 1
  (2 * q + sticky, e1 - e2 - k - 1)

/-- R71: stochastic rounding picks the upper neighbour, for a value `d` above the lower one on a gap `g`
(both as magnitudes) and the generator output `u`. -/
def srUp (dm : Nat) (de : Int) (gm : Nat) (ge : Int) (u : Nat) : Bool :=
  let (am, ae) := rne32Mag dm de
  let (bm, be) := rne32Mag gm ge
  let (qm, qe) := if bm = 0 then (0, 0) else divMag am ae bm be
  let (m, e) := rne32Mag qm qe
  let t := (splitAt m (e + 24) 0).1
  u >>> 8 < t

/-- Rounding of the magnitude `m·2^e` to a multiple of `2^q` by mode `rm`, for a value of the sign given:
the multiple, and whether the value changed (R66, R69, R71). -/
def roundTo (rm : Rm) (neg : Bool) (m : Nat) (e q : Int) (u : Nat) : Nat × Bool :=
  let (k, r) := splitAt m e q
  if r = 0 then (k, false)
  else
    match rm with
    | .rne => (rneTo m e q, true)
    | .rtz => (k, true)
    | .rdn => (if neg then k + 1 else k, true)
    | .rup => (if neg then k else k + 1, true)
    | .sr => (if srUp r e 1 q u then k + 1 else k, true)

/-- The code of a magnitude `k·2^q` that lies on the format's grid and within its range. -/
def FFmt.encode (f : FFmt) (neg : Bool) (k : Nat) (q : Int) : Nat :=
  let sgn := if neg then 2 ^ (f.width - 1) else 0
  if k = 0 then sgn
  else
    let top := q + bitLen k - 1
    if top < 1 - (f.bias : Int) then
      sgn + (splitAt k q (1 - (f.bias : Int) - f.frac)).1
    else
      let frac := (splitAt k q (top - f.frac)).1 - 2 ^ f.frac
      sgn + (top + f.bias).toNat * 2 ^ f.frac + frac

/-- ±∞ of a format that has infinities (R56). -/
def FFmt.infCode (f : FFmt) (neg : Bool) : Nat :=
  (if neg then 2 ^ (f.width - 1) else 0) + (2 ^ f.ebits - 1) * 2 ^ f.frac

/-- The largest finite code with a sign. -/
def FFmt.maxSigned (f : FFmt) (neg : Bool) : Nat :=
  (if neg then 2 ^ (f.width - 1) else 0) + f.maxCode

/-- The magnitude `m·2^e` exceeds the largest finite value of the format. -/
def FFmt.above (f : FFmt) (m : Nat) (e : Int) : Bool :=
  match decF f f.maxCode with
  | .fin _ mm me => magLt mm me m e
  | _ => false

/-- `0 < |x| <` the smallest normal of the format (R69). -/
def FFmt.belowNormal (f : FFmt) (m : Nat) (e : Int) : Bool :=
  m ≠ 0 && magLt m e 1 (1 - (f.bias : Int))

/-- CVT of R69 into a floating format: the code and the flags. `u` is the generator output of R71. -/
def cvtF (x : X) (f : FFmt) (rm : Rm) (sat : Bool) (u : Nat := 0) : Nat × FpFlags :=
  match x with
  | .nan =>
    match f.canonNan with
    | some c => (c, 0)
    | none => (0, fINVALID)
  | .inf s => if f.hasInf && !sat then (f.infCode s, 0) else (f.maxSigned s, fOVERFLOW)
  | .fin s m e =>
    let q := f.quantum m e
    if rm = .sr && f.above m e then (f.maxSigned s, fOVERFLOW ||| fINEXACT)
    else
      let (k, inexact) := roundTo rm s m e q u
      if f.above k q then
        let big := f.maxSigned s
        let code :=
          if !f.hasInf || sat || rm = .sr then big
          else match rm with
            | .rne => f.infCode s
            | .rtz => big
            | .rup => if s then big else f.infCode s
            | .rdn => if s then f.infCode s else big
            | .sr => big
        (code, fOVERFLOW ||| fINEXACT)
      else
        let fl : FpFlags :=
          if inexact then (if f.belowNormal m e then fINEXACT ||| fUNDERFLOW else fINEXACT) else 0
        (f.encode s k q, fl)

/-- CVT of R69 into an integer format of `w` bits: the exact integer result and the flags. -/
def cvtI (x : X) (w : Nat) (signed : Bool) (rm : Rm) (u : Nat := 0) : Int × FpFlags :=
  let lo : Int := if signed then -((2 ^ (w - 1) : Nat) : Int) else 0
  let hi : Int := if signed then ((2 ^ (w - 1) : Nat) : Int) - 1 else ((2 ^ w : Nat) : Int) - 1
  match x with
  | .nan => (0, fINVALID)
  | .inf s => (if s then lo else hi, fINVALID)
  | .fin s m e =>
    let (k, inexact) := roundTo rm s m e 0 u
    let y : Int := if s then -(k : Int) else (k : Int)
    if y < lo || hi < y then (if s then lo else hi, fINVALID)
    else (y, if inexact then fINEXACT else 0)

/-- An exact integer as a value. -/
def X.ofInt (i : Int) : X := .fin (i < 0) i.natAbs 0

/-- RNE32 of R7 with the flags of a conversion to FP32 (R69, R139). -/
def rne32 (x : X) : Nat × FpFlags := cvtF x .fp32 .rne false

/-- The value of an FP32 code. -/
def dec32 (c : Nat) : X := decF .fp32 c

def X.isNan : X → Bool
  | .nan => true
  | _ => false

def X.isZero : X → Bool
  | .fin _ m _ => m = 0
  | _ => false

def X.isFin : X → Bool
  | .fin _ _ _ => true
  | _ => false

def X.neg? : X → Bool
  | .fin s _ _ => s
  | .inf s => s
  | .nan => false

def X.negate : X → X
  | .fin s m e => .fin (!s) m e
  | .inf s => .inf (!s)
  | .nan => .nan

def X.abs : X → X
  | .fin _ m e => .fin false m e
  | .inf _ => .inf false
  | .nan => .nan

/-- Exact sum; a NaN made of non-NaN operands sets INVALID, an exact sum of opposite values is +0 (R70). -/
def X.add (x y : X) : X × FpFlags :=
  match x, y with
  | .nan, _ => (.nan, 0)
  | _, .nan => (.nan, 0)
  | .inf s, .inf t => if s = t then (.inf s, 0) else (.nan, fINVALID)
  | .inf s, _ => (.inf s, 0)
  | _, .inf t => (.inf t, 0)
  | .fin s m e, .fin t n f =>
    let q := min e f
    let a : Int := if s then -(shiftTo m e q : Int) else shiftTo m e q
    let b : Int := if t then -(shiftTo n f q : Int) else shiftTo n f q
    let r := a + b
    if r = 0 then (.fin (s && t && m = 0 && n = 0) 0 q, 0) else (.fin (r < 0) r.natAbs q, 0)

/-- Exact product (R70). -/
def X.mul (x y : X) : X × FpFlags :=
  match x, y with
  | .nan, _ => (.nan, 0)
  | _, .nan => (.nan, 0)
  | .inf s, .inf t => (.inf (s != t), 0)
  | .inf s, .fin t n _ => if n = 0 then (.nan, fINVALID) else (.inf (s != t), 0)
  | .fin s m _, .inf t => if m = 0 then (.nan, fINVALID) else (.inf (s != t), 0)
  | .fin s m e, .fin t n f => (.fin (s != t) (m * n) (e + f), 0)

/-- Exact comparison of two non-NaN values: the first is less, −0 and +0 equal. -/
def X.ltNum (x y : X) : Bool :=
  match x, y with
  | .nan, _ => false
  | _, .nan => false
  | .inf s, .inf t => s && !t
  | .inf s, _ => s
  | _, .inf t => !t
  | .fin s m e, .fin t n f =>
    if m = 0 && n = 0 then false
    else match s, t with
      | true, false => true
      | false, true => false
      | false, false => magLt m e n f
      | true, true => magLt n f m e

/-- The key order of R70: −∞ < negative < −0 < +0 < positive < +∞ < NaN; strict. -/
def X.keyLt (x y : X) : Bool :=
  match x, y with
  | .nan, _ => false
  | _, .nan => true
  | _, _ =>
    if x.ltNum y then true
    else if y.ltNum x then false
    else x.neg? && !y.neg?

/-- FP32 sum of two codes with one rounding (R139). -/
def fadd (a b : Nat) : Nat × FpFlags :=
  let (x, f) := (dec32 a).add (dec32 b)
  let (c, g) := rne32 x
  (c, f ||| g)

/-- FP32 difference. -/
def fsub (a b : Nat) : Nat × FpFlags :=
  let (x, f) := (dec32 a).add (dec32 b).negate
  let (c, g) := rne32 x
  (c, f ||| g)

/-- FP32 product. -/
def fmul (a b : Nat) : Nat × FpFlags :=
  let (x, f) := (dec32 a).mul (dec32 b)
  let (c, g) := rne32 x
  (c, f ||| g)

/-- A × B + C with an exact product and one rounding (R139). -/
def ffma (a b c : Nat) : Nat × FpFlags :=
  if (dec32 a).isNan || (dec32 b).isNan || (dec32 c).isNan then (0x7FC00000, 0)
  else
    let (p, f) := (dec32 a).mul (dec32 b)
    let (x, g) := p.add (dec32 c)
    let (r, h) := rne32 x
    (r, f ||| g ||| h)

/-- The canonical NaN of FP32. -/
def nan32 : Nat := 0x7FC00000

/-- Minimum of R70: the non-NaN operand, −0 below +0. -/
def fmin (a b : Nat) : Nat :=
  match (dec32 a).isNan, (dec32 b).isNan with
  | true, true => nan32
  | true, false => b
  | false, true => a
  | false, false => if (dec32 b).keyLt (dec32 a) then b else a

/-- Maximum of R70. -/
def fmax (a b : Nat) : Nat :=
  match (dec32 a).isNan, (dec32 b).isNan with
  | true, true => nan32
  | true, false => b
  | false, true => a
  | false, false => if (dec32 a).keyLt (dec32 b) then b else a

/-- Absolute value of R139: the sign bit cleared, a NaN canonical. -/
def fabs (a : Nat) : Nat := if (dec32 a).isNan then nan32 else a % 2 ^ 31

/-- Negation of R139: the sign bit flipped, a NaN canonical. -/
def fneg (a : Nat) : Nat :=
  if (dec32 a).isNan then nan32 else if a.testBit 31 then a - 2 ^ 31 else a + 2 ^ 31

/-- VDIV of R139, R140: A / B rounded once. -/
def fdiv (a b : Nat) : Nat × FpFlags :=
  match dec32 a, dec32 b with
  | .nan, _ => (nan32, 0)
  | _, .nan => (nan32, 0)
  | .inf _, .inf _ => (nan32, fINVALID)
  | .inf s, .fin t _ _ => (FFmt.infCode .fp32 (s != t), 0)
  | .fin s _ _, .inf t => (FFmt.encode .fp32 (s != t) 0 0, 0)
  | .fin s m e, .fin t n f =>
    if n = 0 then
      if m = 0 then (nan32, fINVALID) else (FFmt.infCode .fp32 (s != t), fDIVZERO)
    else
      let (q, g) := divMag m e n f
      rne32 (.fin (s != t) q g)

/-- Integer square root by bisection on bits: `n` bits are tried from the top. -/
def isqrtAux : Nat → Nat → Nat → Nat
  | 0, _, r => r
  | k + 1, x, r =>
    let c := r + 2 ^ k
    isqrtAux k x (if c * c ≤ x then c else r)

/-- ⌊√x⌋. -/
def isqrt (x : Nat) : Nat := isqrtAux (bitLen x / 2 + 1) x 0

/-- The square root of a positive magnitude with a sticky bit, 64 bits beyond FP32's precision. -/
def sqrtMag (m : Nat) (e : Int) : Nat × Int :=
  let (m, e) := if e % 2 = 0 then (m, e) else (2 * m, e - 1)
  let x := m <<< 192
  let r := isqrt x
  (2 * r + (if r * r = x then 0 else 1), e / 2 - 96 - 1)

/-- VSQRT of R139, R140. -/
def fsqrt (a : Nat) : Nat × FpFlags :=
  match dec32 a with
  | .nan => (nan32, 0)
  | .inf s => if s then (nan32, fINVALID) else (FFmt.infCode .fp32 false, 0)
  | .fin s m e =>
    if m = 0 then (a, 0)
    else if s then (nan32, fINVALID)
    else
      let (r, g) := sqrtMag m e
      rne32 (.fin false r g)

/-- VRSQ of R139, R140: 1/√A rounded once; √ of the exact reciprocal taken to 192 bits with a sticky bit. -/
def frsq (a : Nat) : Nat × FpFlags :=
  match dec32 a with
  | .nan => (nan32, 0)
  | .inf s => if s then (nan32, fINVALID) else (0, 0)
  | .fin s m e =>
    if m = 0 then (FFmt.infCode .fp32 s, fDIVZERO)
    else if s then (nan32, fINVALID)
    else
      let (m, e) := if e % 2 = 0 then (m, e) else (2 * m, e - 1)
      let x := 2 ^ 400 / m
      let r := isqrt x
      let exact := r * r * m = 2 ^ 400
      rne32 (.fin false (2 * r + (if exact then 0 else 1)) (-(e / 2) - 200 - 1))

/-- VRCP of R139, R140. -/
def frcp (a : Nat) : Nat × FpFlags :=
  match dec32 a with
  | .nan => (nan32, 0)
  | .inf s => (FFmt.encode .fp32 s 0 0, 0)
  | .fin s m e =>
    if m = 0 then (FFmt.infCode .fp32 s, fDIVZERO)
    else
      let (q, g) := divMag 1 0 m e
      rne32 (.fin s q g)

end Sys2Proof.Machine
end

