-- ==== Sys2Proof/Machine/FpFun.lean ====
section
/-! DEFINITION. The correctly rounded functions 2^A, e^A and log2 A (06_reg_vector.md R139, R140).
DEDUCED (log 7): a value is formed in fixed point with 256 fraction bits and a sticky bit and rounded once. The exact results
are irrational wherever these formulas are used, so no exact value and no tie is missed; no FP32 argument
brings the result within 2^-200 of a rounding boundary. -/

namespace Sys2Proof.Machine

/-- Fraction bits of the fixed-point values below. -/
def fixP : Nat := 256

/-- Σ 2^P / (k·2^k) from `k` on, for `n` terms. -/
def ln2Aux : Nat → Nat → Nat
  | 0, _ => 0
  | n + 1, k => 2 ^ (fixP + 32) / (k * 2 ^ k) + ln2Aux n (k + 1)

/-- ln 2 with 256 fraction bits. -/
def ln2Fix : Nat := ln2Aux 300 1 >>> 32

/-- Σ r^k / k! from the term `t` with index `k` on. -/
def expAux : Nat → Nat → Nat → Nat → Nat
  | 0, _, _, _ => 0
  | n + 1, r, t, k => t + expAux n r (t * r / (2 ^ fixP * (k + 1))) (k + 1)

/-- e^r for a fixed-point `r` of [0, 1). -/
def expFix (r : Nat) : Nat := expAux 70 r (2 ^ fixP) 0

/-- Σ z^(2k+1) / (2k+1) from the power `p = z^(2k+1)` on. -/
def atanhAux : Nat → Nat → Nat → Nat → Nat
  | 0, _, _, _ => 0
  | n + 1, z2, p, k => p / (2 * k + 1) + atanhAux n z2 (p * z2 / 2 ^ fixP) (k + 1)

/-- ln of a fixed-point `f` of [1, 2), by 2·atanh((f − 1)/(f + 1)). -/
def lnFix (f : Nat) : Nat :=
  let z := (f - 2 ^ fixP) * 2 ^ fixP / (f + 2 ^ fixP)
  2 * atanhAux 100 (z * z / 2 ^ fixP) z 0

/-- A signed magnitude `m·2^e` in fixed point, for `e ≥ −256`. -/
def toFix (neg : Bool) (m : Nat) (e : Int) : Int :=
  let x : Int := (shiftTo m e (-(fixP : Int)) : Int)
  if neg then -x else x

/-- VEXP2 of R139, R140. -/
def fexp2 (a : Nat) : Nat × FpFlags :=
  match dec32 a with
  | .nan => (nan32, 0)
  | .inf s => (if s then 0 else FFmt.infCode .fp32 false, 0)
  | .fin s m e =>
    if m = 0 then (0x3F800000, 0)
    else if magLe 512 0 m e then rne32 (.fin false 1 (if s then -512 else 512))
    else
      let x := toFix s m e
      let n := x / (2 ^ fixP : Nat)
      let f := (x % (2 ^ fixP : Nat)).toNat
      if f = 0 then rne32 (.fin false 1 n)
      else rne32 (.fin false (2 * expFix (f * ln2Fix / 2 ^ fixP) + 1) (n - fixP - 1))

/-- VEXP of R139, R140. -/
def fexp (a : Nat) : Nat × FpFlags :=
  match dec32 a with
  | .nan => (nan32, 0)
  | .inf s => (if s then 0 else FFmt.infCode .fp32 false, 0)
  | .fin s m e =>
    if m = 0 then (0x3F800000, 0)
    else if magLe 512 0 m e then rne32 (.fin false 1 (if s then -512 else 512))
    else
      let x := toFix s m e
      let n := x / ln2Fix
      let r := (x % (ln2Fix : Int)).toNat
      rne32 (.fin false (2 * expFix r + 1) (n - fixP - 1))

/-- VLOG2 of R139, R140. -/
def flog2 (a : Nat) : Nat × FpFlags :=
  match dec32 a with
  | .nan => (nan32, 0)
  | .inf s => if s then (nan32, fINVALID) else (FFmt.infCode .fp32 false, 0)
  | .fin s m e =>
    if m = 0 then (FFmt.infCode .fp32 true, fDIVZERO)
    else if s then (nan32, fINVALID)
    else
      let n : Int := e + bitLen m - 1
      if m = 2 ^ (bitLen m - 1) then rne32 (X.ofInt n)
      else
        let f := m <<< (fixP + 1 - bitLen m)
        let v : Int := n * (2 ^ fixP : Nat) + (lnFix f * 2 ^ fixP / ln2Fix : Nat)
        rne32 (.fin (v < 0) (2 * v.natAbs + 1) (-(fixP : Int) - 1))

end Sys2Proof.Machine
end

