-- ==== Sys2Proof/Syntax.lean ====
section
/-! DEFINITION. The instructions of the three streams and the steps of the device: one constructor per row of
spec/opcode_table.json (02_words.md R18 to R35; 95_what_each_step_holds.md). Register numbers stay numbers; every
code that selects a behaviour is an inductive type. -/

namespace Sys2Proof

/-- The wait and the signal of a word (R18, R20, R21). -/
structure Ctl where
  wq : BitVec 4
  wn : BitVec 4
  sq : BitVec 4
  sn : BitVec 4
  deriving DecidableEq, Repr

/-- Condition codes (R25). -/
inductive Cond where
  | eq | ne | lt | ge | ltu | geu | al
  deriving DecidableEq, Repr

/-- Operations of PLOG and KLOG (R95, R142); `not` is KLOG's alone. -/
inductive LogOp where
  | and | or | xor | andn | not
  deriving DecidableEq, Repr

/-- Handle fields of HSET and HGET (R102). -/
inductive HField where
  | addr | space | ext0 | ext1 | ext2 | ext3 | stride1 | stride2 | stride3 | et | win | layout
  | word0 | word1 | word2 | word3
  deriving DecidableEq, Repr

/-- Data queues (R30). -/
inductive DqId where
  | fq | dm | dv | bm | bv | ya | aq
  deriving DecidableEq, Repr

/-- Fields of RSTAT (R258). -/
inductive RField where
  | filled | free | opened | head | tail | claimed
  deriving DecidableEq, Repr

/-- Operations of ATOM, CATOM and host AtomicOps (R175, R237). -/
inductive AtomOp where
  | swap | add | and | or | xor | min | max | minu | maxu | cas | fadd
  deriving DecidableEq, Repr

/-- The control and status registers (R330), in the order of their image slots. -/
inductive Csr where
  | status | cause | epca | epcm | epcv | faddr | finfo | codea | codem | codev
  | heapbase | heaplim | heapoff | ptroot | wintab | winlen | dirtymap
  | seed | streamid | presmode | imgdesc | cls | divs | throttle
  | tick | issued | slice | breach | satflags | fpflags | tenant | ctxid | jobidx
  | trapvec | savevec | debug | replay
  deriving DecidableEq, Repr

/-- Engines of CLKDIV (R318). -/
inductive Eng where
  | a | m | v | c
  deriving DecidableEq, Repr

/-- Vector types (R27). -/
inductive VTy where
  | f | i | u
  deriving DecidableEq, Repr

/-- Sources of a VR word (R27). -/
inductive VSrc where
  | v (n : BitVec 4)
  | z (n : BitVec 3)
  | dv
  deriving DecidableEq, Repr

/-- Destinations of a VR word (R27). -/
inductive VDst where
  | v (n : BitVec 4)
  | z (n : BitVec 3)
  deriving DecidableEq, Repr

/-- Memory element types of a VM word (R28). -/
inductive MemTy where
  | f32 | i32 | ui32 | bf16 | fp16 | i16 | ui16 | i8 | ui8 | e4m3 | e5m2
  deriving DecidableEq, Repr

/-- Full rounding-mode codes (R66). -/
inductive RmFull where
  | rne | rtz | rdn | rup | sr
  deriving DecidableEq, Repr

/-- Short rounding-mode codes (R66). -/
inductive RmShort where
  | rne | rtz | sr
  deriving DecidableEq, Repr

/-- Where an uncorrectable soft error of a core lies (R351). -/
inductive SoftWhere where
  | block (n : BitVec 9)
  | state
  | supervisor
  deriving DecidableEq, Repr

/-- Which cluster a parking acts on: one, by its junction, or all, by the coolant flow (R329). -/
inductive ParkWhat where
  | cluster (n : BitVec 3)
  | flow
  deriving DecidableEq, Repr

/-- The instructions of the A, M and V streams and the steps of the device. A word constructor carries its
wait and signal first; a step's operands name what the rules leave open (which command, grain or station) and
what the environment supplies. -/
inductive Instr where
  -- A stream, format AR (R88)
  | add (c : Ctl) (d a b : BitVec 6)
  | sub (c : Ctl) (d a b : BitVec 6)
  | mul (c : Ctl) (d a b : BitVec 6)
  | mulhs (c : Ctl) (d a b : BitVec 6)
  | mulhu (c : Ctl) (d a b : BitVec 6)
  | div (c : Ctl) (d a b : BitVec 6)
  | divu (c : Ctl) (d a b : BitVec 6)
  | rem (c : Ctl) (d a b : BitVec 6)
  | remu (c : Ctl) (d a b : BitVec 6)
  | and (c : Ctl) (d a b : BitVec 6)
  | or (c : Ctl) (d a b : BitVec 6)
  | xor (c : Ctl) (d a b : BitVec 6)
  | andn (c : Ctl) (d a b : BitVec 6)
  | shl (c : Ctl) (d a b : BitVec 6)
  | shr (c : Ctl) (d a b : BitVec 6)
  | sar (c : Ctl) (d a b : BitVec 6)
  | rol (c : Ctl) (d a b : BitVec 6)
  | min (c : Ctl) (d a b : BitVec 6)
  | max (c : Ctl) (d a b : BitVec 6)
  | minu (c : Ctl) (d a b : BitVec 6)
  | maxu (c : Ctl) (d a b : BitVec 6)
  | clz (c : Ctl) (d a : BitVec 6)
  | popc (c : Ctl) (d a : BitVec 6)
  | sel (c : Ctl) (d a b : BitVec 6) (p : BitVec 3)
  | addx (c : Ctl) (d a b : BitVec 6) (n : BitVec 6)
  | clamp (c : Ctl) (d a b : BitVec 6)
  -- formats AI and AL (R91, R92)
  | addi (c : Ctl) (d a : BitVec 6) (imm : BitVec 28)
  | andi (c : Ctl) (d a : BitVec 6) (imm : BitVec 28)
  | ori (c : Ctl) (d a : BitVec 6) (imm : BitVec 28)
  | xori (c : Ctl) (d a : BitVec 6) (imm : BitVec 28)
  | shli (c : Ctl) (d a : BitVec 6) (n : BitVec 6)
  | shri (c : Ctl) (d a : BitVec 6) (n : BitVec 6)
  | sari (c : Ctl) (d a : BitVec 6) (n : BitVec 6)
  | muli (c : Ctl) (d a : BitVec 6) (imm : BitVec 28)
  | li (c : Ctl) (d : BitVec 6) (imm : BitVec 34)
  | lih (c : Ctl) (d : BitVec 6) (imm : BitVec 32)
  -- predicates (R93 to R95)
  | cmp (c : Ctl) (cc : Cond) (pd : BitVec 3) (a b : BitVec 6)
  | cmpi (c : Ctl) (cc : Cond) (pd : BitVec 3) (a : BitVec 6) (imm : BitVec 24)
  | plog (c : Ctl) (op : LogOp) (pd pa pb : BitVec 3)
  -- control flow (R96 to R101)
  | br (c : Ctl) (cc : Cond) (a b : BitVec 6) (off : BitVec 24)
  | bp (c : Ctl) (ne : Bool) (p : BitVec 3) (off : BitVec 24)
  | jmp (c : Ctl) (off : BitVec 24)
  | call (c : Ctl) (off : BitVec 24)
  | jr (c : Ctl) (d a : BitVec 6)
  | loop (c : Ctl) (a : BitVec 6) (off : BitVec 24)
  -- handles (R102 to R106)
  | hset (c : Ctl) (h : BitVec 4) (a : BitVec 6) (fld : HField)
  | hget (c : Ctl) (a : BitVec 6) (g : BitVec 4) (fld : HField)
  | hld (c : Ctl) (h : BitVec 4) (a : BitVec 6) (off : BitVec 8)
  | hst (c : Ctl) (g : BitVec 4) (a : BitVec 6) (off : BitVec 8)
  | hmov (c : Ctl) (h g : BitVec 4)
  | hadv (c : Ctl) (h g : BitVec 4) (a : BitVec 6) (dim : BitVec 2)
  | hdim (c : Ctl) (h g : BitVec 4) (a b : BitVec 6) (dim : BitVec 2)
  -- loads and stores (R172)
  | ld8 (c : Ctl) (d a : BitVec 6) (imm : BitVec 28)
  | ld16 (c : Ctl) (d a : BitVec 6) (imm : BitVec 28)
  | ld32 (c : Ctl) (d a : BitVec 6) (imm : BitVec 28)
  | ld64 (c : Ctl) (d a : BitVec 6) (imm : BitVec 28)
  | lds8 (c : Ctl) (d a : BitVec 6) (imm : BitVec 28)
  | lds16 (c : Ctl) (d a : BitVec 6) (imm : BitVec 28)
  | lds32 (c : Ctl) (d a : BitVec 6) (imm : BitVec 28)
  | st8 (c : Ctl) (d a : BitVec 6) (imm : BitVec 28)
  | st16 (c : Ctl) (d a : BitVec 6) (imm : BitVec 28)
  | st32 (c : Ctl) (d a : BitVec 6) (imm : BitVec 28)
  | st64 (c : Ctl) (d a : BitVec 6) (imm : BitVec 28)
  -- data queues (R255)
  | push (c : Ctl) (a : BitVec 6) (q : DqId)
  | fmt (c : Ctl) (a : BitVec 6)
  | pop (c : Ctl) (d : BitVec 6) (q : DqId)
  | bout (c : Ctl) (p : BitVec 3) (q : DqId)
  | qcnt (c : Ctl) (d : BitVec 6) (q : DqId)
  -- rings and barrier cells (R258, R262)
  | rclaim (c : Ctl) (d a : BitVec 6) (ring : BitVec 4)
  | rfill (c : Ctl) (a : BitVec 6) (ring : BitVec 4)
  | rwaitf (c : Ctl) (d a : BitVec 6) (ring : BitVec 4)
  | rfree (c : Ctl) (a : BitVec 6) (ring : BitVec 4)
  | rset (c : Ctl) (a : BitVec 6) (ring : BitVec 4)
  | rstat (c : Ctl) (f : RField) (d : BitVec 6) (ring : BitVec 4)
  | bset (c : Ctl) (bar : BitVec 3)
  | bexp (c : Ctl) (a : BitVec 6) (bar : BitVec 3)
  | barr (c : Ctl) (a : BitVec 6) (bar : BitVec 3)
  | bwait (c : Ctl) (a : BitVec 6) (bar : BitVec 3)
  -- scratchpad atomics (R175)
  | atom (c : Ctl) (op : AtomOp) (w64 : Bool) (a b cx : BitVec 6)
  -- copies (R215 to R243)
  | copy (c : Ctl) (hd hs : BitVec 4) (p : BitVec 6) (xf : BitVec 8) (tq : BitVec 4) (flags : BitVec 6) (aux : BitVec 8)
  | cred (c : Ctl) (hd hs : BitVec 4) (p : BitVec 6) (xf : BitVec 8) (tq : BitVec 4) (flags : BitVec 6) (aux : BitVec 8)
  | catom (c : Ctl) (op : AtomOp) (w64 acq : Bool) (h : BitVec 4) (a b cx : BitVec 6)
  | cclose (c : Ctl) (tq : BitVec 4)
  | cwait (c : Ctl) (n : BitVec 28)
  | xcfg (c : Ctl) (n : BitVec 4) (a : BitVec 6)
  | cpend (c : Ctl) (d : BitVec 6)
  | cpendCmd (c : Ctl) (d : BitVec 6)
  -- erg (R268, R269)
  | obput (c : Ctl) (a b : BitVec 6) (idx : BitVec 10)
  | obwait (c : Ctl) (cc : Cond) (d a b : BitVec 6) (idx : BitVec 10)
  | obadd (c : Ctl) (a b : BitVec 6) (idx : BitVec 10)
  | obbar (c : Ctl) (a b : BitVec 6) (idx : BitVec 10)
  | obseq (c : Ctl) (d : BitVec 6)
  | obseqOwn (c : Ctl) (d : BitVec 6)
  | frel (c : Ctl)
  | facq (c : Ctl)
  | obget (c : Ctl) (d a : BitVec 6) (idx : BitVec 10)
  -- format AS (R302, R315, R318, R320, R339, R343, R345, R346, R349, R285)
  | csrr (c : Ctl) (d : BitVec 6) (csr : Csr)
  | csrw (c : Ctl) (d a : BitVec 6) (csr : Csr)
  | csrs (c : Ctl) (d a : BitVec 6) (csr : Csr)
  | csrc (c : Ctl) (d a : BitVec 6) (csr : Csr)
  | eret (c : Ctl)
  | eretImg (c : Ctl)
  | yield (c : Ctl)
  | yieldKill (c : Ctl)
  | psave (c : Ctl) (a : BitVec 6) (n : BitVec 16)
  | ppull (c : Ctl) (a : BitVec 6) (n : BitVec 16)
  | pdrop (c : Ctl) (a : BitVec 6) (n : BitVec 16)
  | pstat (c : Ctl) (d a : BitVec 6)
  | clkdiv (c : Ctl) (e : Eng) (n : BitVec 4)
  | phase (c : Ctl)
  | tlbinv (c : Ctl) (a : BitVec 6)
  | tlbinvAll (c : Ctl)
  | launch (c : Ctl) (d a : BitVec 6) (q : BitVec 3)
  | rdtick (c : Ctl) (d : BitVec 6)
  | rdiss (c : Ctl) (d : BitVec 6)
  | lsave (c : Ctl)
  | lrest (c : Ctl)
  -- the common row (R35)
  | nop (st : StreamId) (c : Ctl)
  | join (st : StreamId) (c : Ctl)
  | trap (st : StreamId) (c : Ctl) (imm : BitVec 16)
  | brk (st : StreamId) (c : Ctl)
  | tfence (st : StreamId) (c : Ctl)
  | ill (st : StreamId) (rest : BitVec 56)
  -- M stream (R120, R129)
  | tld (c : Ctl) (t : BitVec 3) (m : BitVec 3) (pitch : BitVec 20)
  | tldb (c : Ctl) (t : BitVec 3) (m : BitVec 3) (pitch : BitVec 20)
  | mma (c : Ctl) (a : BitVec 3) (t1 t2 : BitVec 3)
  | rsum (c : Ctl) (w : BitVec 2) (t : BitVec 3)
  | csum (c : Ctl) (w : BitVec 2) (t : BitVec 3)
  | zpc (c : Ctl) (a : BitVec 3) (wr wc : BitVec 2)
  | drain (c : Ctl) (a : BitVec 3) (m m2 : BitVec 3) (pitch : BitVec 20)
  | aclr (c : Ctl) (a : BitVec 3)
  | amov (c : Ctl) (a b : BitVec 3)
  | tzero (c : Ctl) (t : BitVec 3)
  | mli (c : Ctl) (m : BitVec 3) (imm : BitVec 32)
  | maddi (c : Ctl) (m : BitVec 3) (imm : BitVec 32)
  | mpop (c : Ctl) (m : BitVec 3)
  | mloop (c : Ctl) (m : BitVec 3) (off : BitVec 24)
  | mbq (c : Ctl) (off : BitVec 24)
  | mjmp (c : Ctl) (off : BitVec 24)
  | msatc (c : Ctl) (m : BitVec 3)
  -- V stream, lane arithmetic (R139)
  | vadd (c : Ctl) (d : VDst) (a b : VSrc) (k : BitVec 3) (ty : VTy)
  | vsub (c : Ctl) (d : VDst) (a b : VSrc) (k : BitVec 3) (ty : VTy)
  | vmul (c : Ctl) (d : VDst) (a b : VSrc) (k : BitVec 3) (ty : VTy)
  | vfma (c : Ctl) (d : VDst) (a b x : VSrc) (k : BitVec 3) (ty : VTy)
  | vmin (c : Ctl) (d : VDst) (a b : VSrc) (k : BitVec 3) (ty : VTy)
  | vmax (c : Ctl) (d : VDst) (a b : VSrc) (k : BitVec 3) (ty : VTy)
  | vabs (c : Ctl) (d : VDst) (a : VSrc) (k : BitVec 3) (ty : VTy)
  | vneg (c : Ctl) (d : VDst) (a : VSrc) (k : BitVec 3) (ty : VTy)
  | vdiv (c : Ctl) (d : VDst) (a b : VSrc) (k : BitVec 3)
  | vsqrt (c : Ctl) (d : VDst) (a : VSrc) (k : BitVec 3)
  | vrsq (c : Ctl) (d : VDst) (a : VSrc) (k : BitVec 3)
  | vrcp (c : Ctl) (d : VDst) (a : VSrc) (k : BitVec 3)
  | vexp2 (c : Ctl) (d : VDst) (a : VSrc) (k : BitVec 3)
  | vlog2 (c : Ctl) (d : VDst) (a : VSrc) (k : BitVec 3)
  | vexp (c : Ctl) (d : VDst) (a : VSrc) (k : BitVec 3)
  -- logic, movement and masks (R141)
  | vand (c : Ctl) (d : VDst) (a b : VSrc) (k : BitVec 3) (ty : VTy)
  | vor (c : Ctl) (d : VDst) (a b : VSrc) (k : BitVec 3) (ty : VTy)
  | vxor (c : Ctl) (d : VDst) (a b : VSrc) (k : BitVec 3) (ty : VTy)
  | vshl (c : Ctl) (d : VDst) (a b : VSrc) (k : BitVec 3) (ty : VTy)
  | vshr (c : Ctl) (d : VDst) (a b : VSrc) (k : BitVec 3) (ty : VTy)
  | vsar (c : Ctl) (d : VDst) (a b : VSrc) (k : BitVec 3) (ty : VTy)
  | vcvt (c : Ctl) (d : VDst) (a x : VSrc) (k : BitVec 3) (ty : VTy) (dt : MemTy) (rm : RmFull) (sat : Bool)
  | vcmp (c : Ctl) (cc : Cond) (kd : BitVec 3) (a b : VSrc) (k : BitVec 3) (ty : VTy)
  | vsel (c : Ctl) (d : VDst) (a b : VSrc) (ks : BitVec 3) (k : BitVec 3) (ty : VTy)
  | vmov (c : Ctl) (d : VDst) (a : VSrc) (k : BitVec 3) (ty : VTy)
  | vbrd (c : Ctl) (d : VDst) (a : VSrc) (lane : BitVec 6) (k : BitVec 3) (ty : VTy)
  | viota (c : Ctl) (d : VDst) (k : BitVec 3) (ty : VTy)
  | vperm (c : Ctl) (d : VDst) (a b : VSrc) (k : BitVec 3) (ty : VTy)
  | vcomp (c : Ctl) (d : VDst) (a : VSrc) (k : BitVec 3) (ty : VTy)
  | vfirst (c : Ctl) (count : Bool) (d : VDst) (ka : BitVec 3) (k : BitVec 3) (ty : VTy)
  | klog (c : Ctl) (op : LogOp) (kd ka kb : BitVec 3)
  -- reductions, scans, sorts (R145 to R149)
  | vrsum (c : Ctl) (d : VDst) (a : VSrc) (k : BitVec 3) (ty : VTy)
  | vrmax (c : Ctl) (d : VDst) (a : VSrc) (k : BitVec 3) (ty : VTy)
  | vrmin (c : Ctl) (d : VDst) (a : VSrc) (k : BitVec 3) (ty : VTy)
  | vramax (c : Ctl) (d : VDst) (a : VSrc) (k : BitVec 3) (ty : VTy)
  | vscan (c : Ctl) (d : VDst) (a : VSrc) (xc : BitVec 4) (k : BitVec 3) (ty : VTy)
  | vscanx (c : Ctl) (d : VDst) (a : VSrc) (xc : BitVec 4) (k : BitVec 3) (ty : VTy)
  | vsort (c : Ctl) (desc : Bool) (d : VDst) (a : VSrc) (k : BitVec 3) (ty : VTy)
  | vsortk (c : Ctl) (desc : Bool) (d : BitVec 3) (a b : VSrc) (k : BitVec 3) (ty : VTy)
  | vmerge (c : Ctl) (desc : Bool) (d : BitVec 3) (a b : VSrc) (ty : VTy)
  | vrng (c : Ctl) (d : VDst) (a b : VSrc) (k : BitVec 3) (ty : VTy)
  -- memory access (R150 to R154)
  | vld (c : Ctl) (v : BitVec 4) (x : BitVec 4) (et : MemTy) (k : BitVec 3) (imm : BitVec 24)
  | vst (c : Ctl) (v : BitVec 4) (x : BitVec 4) (et : MemTy) (k : BitVec 3) (imm : BitVec 24)
  | vldx (c : Ctl) (v : BitVec 4) (x : BitVec 4) (et : MemTy) (k : BitVec 3) (vi : BitVec 4)
  | vstx (c : Ctl) (v : BitVec 4) (x : BitVec 4) (et : MemTy) (k : BitVec 3) (vi : BitVec 4)
  | qst (c : Ctl) (v : BitVec 2) (x xr : BitVec 4) (en : BitVec 4) (wc : Bool) (rm : RmShort) (had : BitVec 2)
  | qld (c : Ctl) (v : BitVec 2) (x : BitVec 4) (wc : Bool)
  | zbind (c : Ctl) (z : BitVec 3) (imm : BitVec 32)
  | zrst (c : Ctl) (z : BitVec 3)
  -- scalars and control (R158, R159)
  | xli (c : Ctl) (d : BitVec 4) (imm : BitVec 32)
  | xadd (c : Ctl) (d a b : BitVec 4)
  | xaddi (c : Ctl) (d a : BitVec 4) (imm : BitVec 32)
  | xmul (c : Ctl) (d a b : BitVec 4)
  | xpop (c : Ctl) (d : BitVec 4)
  | xpush (c : Ctl) (a : BitVec 4)
  | xget (c : Ctl) (d v : BitVec 4) (lane : BitVec 6)
  | xfadd (c : Ctl) (d a b : BitVec 4)
  | xfmul (c : Ctl) (d a b : BitVec 4)
  | vloop (c : Ctl) (a : BitVec 4) (off : BitVec 24)
  | vbq (c : Ctl) (off : BitVec 24)
  | vbr (c : Ctl) (cc : Cond) (a b : BitVec 4) (off : BitVec 24)
  | vjmp (c : Ctl) (off : BitVec 24)
  | vbrf (c : Ctl) (ne : Bool) (k : BitVec 3) (off : BitVec 24)
  -- steps of a core's tick
  | fetch (st : StreamId)
  | land
  -- steps of the copy engines; `core` is the posting core, `id` the command's number, `tr` the translation used
  -- (R301): 0 a fresh walk, n + 1 the n-th cached result
  | start (core : Nat)
  | read (core id space grain tr : Nat)
  | merge (core id grain tr : Nat)
  | write (core nth : Nat)
  | atomic (core id grain tr : Nat)
  | deliver (core id grain : Nat)
  | complete (core group : Nat)
  | rfHook (core id : Nat)
  | baHook (core id : Nat)
  | remoteAtom (core nth : Nat)
  | remoteAtomReply (core nth : Nat)
  | timedDeadline
  -- erg
  | transmit
  | ergPut (station : Nat)
  | ergAdd (station : Nat)
  | ergBar (station : Nat)
  | shootdown (station : Nat)
  | clock (station : Nat)
  | preempt (station : Nat)
  | config (station : Nat)
  | jobend (station : Nat)
  | barrierWaitEnd
  | replicaRepair (station : Nat)
  -- distributor and jobs
  | round
  | jobStart (core : Nat)
  | jobResume (core : Nat)
  | sliceExpiry
  | watchdog
  | trapDelivery
  -- errors and presence
  | softError (core : Nat) (place : SoftWhere)
  | memorySoftError (grain : Nat)
  | pull (nth : Nat)
  | tricklePull
  | blockDrain (core : Nat) (nth : Nat) (fails : Bool)
  -- host
  | hostTailWrite (fn q : Nat) (tail : W32)
  | queueEnable (fn q : Nat) (ctl : W32)
  | doorbell (fn : Nat)
  | eventRingEnable (fn : Nat) (ctl : W32)
  | tenantCreate (t : Nat)
  | tenantDisable (t : Nat)
  | apertureRead (fn off n : Nat)
  | apertureWrite (fn off : Nat) (bytes : List Byte)
  | checkpointFull
  | checkpointIncremental
  | checkpointEnd (status : Nat)
  | registerWrite (fn off size : Nat) (value : W64)
  -- power, clocks, heat
  | powerSample (draw idle inlet : Nat) (tdraw : List Nat)
  | throttlePeriod (cluster : Nat)
  | clockHoldEnd (cluster : Nat)
  | phaseTimeout (cluster : Nat)
  | thermalTrip (cluster : Nat)
  | park (w : ParkWhat)
  | unpark (cluster : Nat)
  -- links
  | flitReceive (link : Nat) (tagOk : Bool)
  | keyFlit (link : Nat) (effect : Bool)
  | keyHold (link : Nat)
  | linkDown (link : Nat)
  -- bring-up and security
  | reset
  | firmwareVerify (readable : Bool)
  | hbmTraining (bad : Option (BitVec 3))
  | linkTraining (hopns : List Nat)
  | ergCalibration (bad : Option (BitVec 4))
  | capabilityPublish
  | routineImageCheck (t : Nat)
  | getMeasurements (fn : Nat)
  -- ticks and errors of the device
  | referenceTick
  | replicaSoftError (station tenant word : Nat)
  | thermalTripRelease (cluster : Nat)
  | flowRestored
  | keylow (link : Nat)
  | spdmKeyExchange (fn : Nat) (key : BitVec 256)
  | apertureAtomic (fn off : Nat) (op : AtomOp) (w64 : Bool) (b cmp : W64)
  | launchSlotWrite (fn q : Nat)
  | hostWriteOneToClear (fn off : Nat) (value : W64)
  deriving DecidableEq, Repr

end Sys2Proof
end

