-- ==== Sys2Proof/Config.lean ====
section
/-! DEFINITION. What the rules leave open and what one implementation fixes, as opaque constants: nothing in Lean
can evaluate them (assumption log 2, 8, 11, 41, 50, 55, 57, 67). -/

namespace Sys2Proof.Config

/-- The moves the ordering machine may make next where no input names one (08_mem_order.md R184, R186: any order
the rules allow may be produced): the n-th one is a step of the device or the advance of a core; a word of a program
named here moves nothing (DESIGN CHOICE, log 2). -/
opaque freeMove : Nat → Instr ⊕ Nat

/-- Translation of a host virtual page of a tenant by ATS (09_mem_copy.md R249); `none` where the host has none
(DESIGN CHOICE of form, as for the constants below: log 8). -/
opaque ats : Nat → Nat → Option Nat

/-- The stepping of the device (12_tables_translation.md R311). -/
opaque stepping : BitVec 8

/-- Whether an image carries a valid ECDSA P-384 signature (15_host_fabric.md R363). -/
opaque ecdsaOk : List Byte → Bool

/-- Whether an image carries a valid LMS signature (R363). -/
opaque lmsOk : List Byte → Bool

/-- The security version of an image (R363). -/
opaque imageVersion : List Byte → Nat

/-- The fused security version (R363). -/
opaque fusedVersion : Nat

/-- The lane that the source input of a graph yields at a position of a packed source, which no rule states
(09_mem_copy.md R245, R247; DESIGN CHOICE of form, log 11). -/
opaque packedLane : Nat → W32

/-- Which of the results that the distributor keeps a translation uses, or none of them (12_tables_translation.md R301:
both are reachable), by the number of the free move and the page (DESIGN CHOICE of form, log 55). -/
opaque keptPick : Nat → Nat → Nat

/-- Replies that have reached the engines since their latest Reads, as far as they are on their way at all, by the number of the
free move (09_mem_copy.md R251: replies always sink, and no rule tells when; DESIGN CHOICE of form, log 41). -/
opaque sunk : Nat → Nat

/-- Which of the timed commands due on a tick is applied next where the rules allow several (08_mem_order.md R190: one at a
time, in any order), by the number of the free move (DESIGN CHOICE of form, log 67). -/
opaque duePick : Nat → Nat

/-- The lane of a RESID node of integer TYPE at a position whose held value is no integer: of the lane it is taken from
and the position (09_mem_copy.md R246 states no result there; DESIGN CHOICE of form, log 50). -/
opaque residLane : W32 → Nat → W32

/-- The SHA-384 digest of some bytes (R364). -/
opaque sha384 : List Byte → BitVec 384

/-- The SHA-384 digest of the boot ROM (R364). -/
opaque romDigest : BitVec 384

/-- The public keys of the device identity, ECDSA P-384 and LMS, derived from the fused secret and the firmware's digest
(R364; DESIGN CHOICE of form, log 57). -/
opaque identity : BitVec 384 → BitVec 384 × BitVec 384

/-- The ECDSA and the LMS signature of a response under the identity of a firmware digest (R364; log 57). -/
opaque signed : BitVec 384 → List (BitVec 384) → BitVec 768 × List (BitVec 8)

end Sys2Proof.Config
end

