-- ==== Sys2Proof/Machine/Mem.lean ====
section
/-! DEFINITION. Byte memories: lists of (address, byte) in one canonical form (08_mem_order.md R187, 15_host_fabric.md R365).
An address that is not listed reads 0: the SRAM of a core is cleared at reset (R365); for device and host memory
that is a DESIGN CHOICE (log 4). -/

namespace Sys2Proof.Machine

/-- A byte memory: addresses strictly rising, no listed zero byte. -/
abbrev Mem := List Host.Cell

/-- What an unlisted address reads as. (DESIGN CHOICE, log 4.) -/
def memInit : Byte := 0

/-- The canonical form: every address above `lo`, strictly rising, no entry equal to `memInit`. -/
def Mem.wfFrom : Nat → Mem → Bool
  | _, [] => true
  | lo, (k, b) :: r => decide (lo ≤ k) && (b != memInit) && Mem.wfFrom (k + 1) r

/-- The canonical form of a memory. -/
def Mem.wf (m : Mem) : Bool := Mem.wfFrom 0 m

/-- The byte at an address. -/
def Mem.get : Mem → Nat → Byte
  | [], _ => memInit
  | (k, b) :: r, a => if a < k then memInit else if a = k then b else Mem.get r a

/-- The memory with one byte replaced. -/
def Mem.set : Mem → Nat → Byte → Mem
  | [], a, b => if b = memInit then [] else [(a, b)]
  | (k, c) :: r, a, b =>
    if a < k then (if b = memInit then (k, c) :: r else (a, b) :: (k, c) :: r)
    else if a = k then (if b = memInit then r else (a, b) :: r)
    else (k, c) :: Mem.set r a b

/-- `n` bytes from an address on. -/
def Mem.getN (m : Mem) (a n : Nat) : List Byte := (List.range n).map fun i => m.get (a + i)

/-- The memory with bytes replaced from an address on. -/
def Mem.setN : Mem → Nat → List Byte → Mem
  | m, _, [] => m
  | m, a, b :: bs => Mem.setN (m.set a b) (a + 1) bs

/-- The memory with every address of `[lo, hi)` reading 0. -/
def Mem.clear (m : Mem) (lo hi : Nat) : Mem := m.filter fun p => p.1 < lo || hi ≤ p.1

/-- The memory with single bytes replaced. -/
def Mem.setAll (m : Mem) (l : List (Nat × Byte)) : Mem := l.foldl (fun m p => m.set p.1 p.2) m

end Sys2Proof.Machine
end

