-- ==== Sys2Proof/Machine/State.lean ====
section
/-! DEFINITION. The state of the G9-288 as plain data, and its value right after reset (15_host_fabric.md R365).
Every field cites the rule that names it. -/

namespace Sys2Proof.Machine

/-- Why a step stops. -/
inductive Fault where
  /-- Raised by `step` and by device steps that name a core outside 0 to 2,047 (01_device.md R8 to R10): no such
  core exists. Safe: no rule gives such a move an effect. -/
  | noSuchCore
  deriving DecidableEq, Repr

/-- Why a step has no meaning. -/
inductive Refusal where
  /-- Raised by `exec` for a constructor whose meaning is not written. Safe. -/
  | notModelled (mnemonic : String)
  deriving DecidableEq, Repr

/-! ## A core's registers -/

/-- Presence states of a block (07_mem_local.md R171). -/
inductive Pres where
  | present | absent | outgoing | poisoned
  deriving DecidableEq, Repr

/-- Register files of a core (04 R79, 05 R108, 06 R132, 14 R335); the scratchpad, tile and accumulator bytes by
their local address (07 R161). -/
structure Regs where
  /-- s0–s63 (R79); s0 is never read from here. -/
  s : Vector W64 64
  /-- The shadow scalars s56–s63 of supervisor mode (R335). -/
  sh : Vector W64 8
  /-- h0–h15 (R79). -/
  h : Vector (BitVec 256) 16
  /-- p0–p7; bit 0 is never read from here (R79). -/
  p : BitVec 8
  /-- m0–m7 (R108). -/
  m : Vector W32 8
  /-- w0–w3 (R108). -/
  w : Vector (Vector W32 128) 4
  /-- v0–v15 (R132). -/
  v : Vector (Vector W32 64) 16
  /-- k0–k7; k0 is never read from here (R134). -/
  k : Vector W64 8
  /-- x0–x15 (R132). -/
  x : Vector W64 16
  /-- z0–z7 states (R133). -/
  z : Vector (BitVec 512) 8
  /-- Scratchpad, tiles and accumulators (R161, R165). -/
  sram : Mem
  /-- The blocks that are not present, by number, ascending (R170, R171). -/
  pres : List (Nat × Pres)
  /-- The 37 CSRs, by slot (14 R330). -/
  csr : Vector W64 37
  /-- The supervisor code buffer, words from 0 on; a word beyond the list is 0 (R335). -/
  sup : List W64
  deriving DecidableEq, Repr

/-! ## Queues -/

/-- A token, with the status of its copy group (02 R23) and what the trap reports of a failure (09 R219). -/
structure Tok where
  status : BitVec 8
  faddr : W64
  poff : Option (BitVec 17)
  deriving DecidableEq, Repr

/-- An entry of a data queue; only aq entries carry a status (10 R252). -/
structure QEnt where
  val : W64
  status : BitVec 8
  faddr : W64
  deriving DecidableEq, Repr

/-- A ring counter set (10 R256). -/
structure Ring where
  head : W32
  tail : W32
  claimed : W32
  base : BitVec 22
  valid : Bool
  lcnt : BitVec 4
  slot : BitVec 16
  deriving DecidableEq, Repr

/-- A barrier cell (10 R260). -/
structure Bar where
  posted : Bool
  phase : Bool
  pending : W32
  deriving DecidableEq, Repr

/-- The queues and counters of a core (10 R252). -/
structure Queues where
  /-- Token FIFOs by id 1–9, oldest first (R22); index 0 is unused. -/
  fifo : Vector (List Tok) 10
  /-- Places reserved in each token FIFO (R21). -/
  fres : Vector Nat 10
  /-- Data queues by id 0–6, oldest first (R30). -/
  dq : Vector (List QEnt) 7
  /-- Places reserved in each data queue (R253). -/
  dres : Vector Nat 7
  /-- Ring counter sets as the instructions see them, and their views at 0x30_3000 (R256, R258). -/
  ring : Vector Ring 16
  ringV : Vector Ring 16
  /-- Barrier cells as the instructions see them, and their views at 0x30_3200 (R260, R262). -/
  bar : Vector Bar 8
  barV : Vector Bar 8
  deriving DecidableEq, Repr

/-! ## Streams and landing -/

/-- A stream's issue point (02 R19, R48, R52; 13 R318). -/
structure Stream where
  /-- Program counter, a word offset in the code window. -/
  pc : BitVec 17
  /-- The word read at the first boundary at which it is next (07 R164). -/
  word : Option W64
  /-- Reference ticks to the next engine-tick boundary; 0 at one. -/
  bound : Nat
  /-- Reference ticks before which the next word does not issue (R52, R53). -/
  hold : Nat
  /-- Divisor in force, and one that has landed and awaits its change boundary (R318). -/
  div : Nat
  newDiv : Option Nat
  /-- JOIN executed (11 R284). -/
  joined : Bool
  /-- The word was found waiting on a token FIFO, a queue, a ring, a barrier cell or CWAIT (11 R289). -/
  stalled : Bool
  deriving DecidableEq, Repr

/-- One item of a KIND 7 landing (14 R340): some bits of the bytes from an address on. -/
structure LItem where
  addr : Nat
  data : List Byte
  /-- Bits of the single byte that change; `none` for a whole write. -/
  mask : Option (BitVec 8)
  deriving DecidableEq, Repr

/-- Operations of a CSR landing (14 R340, KIND 10). -/
inductive CsrOp where
  | write | set | clear
  deriving DecidableEq, Repr

/-- What a result does when it lands (14 R340): the KINDs of the landing area, and the two view updates of rings and
barrier cells (10 R258, R262), which an image holds as stores to the view. -/
inductive LAct where
  /-- KIND 0: rows of equal length, a pitch apart. -/
  | write (dest rows pitch : Nat) (data : List Byte)
  /-- KIND 1. -/
  | mma (dest : Nat) (fmt : W64) (t1 t2 : List Byte)
  /-- KIND 2. -/
  | zpc (dest : Nat) (fmt : W64) (corr : List W64)
  /-- KIND 3. -/
  | sum (dest : Nat) (fmt : W64) (sums : List W32)
  /-- KIND 4. -/
  | queue (q : DqId) (val : W64)
  /-- KIND 5. -/
  | msatc (dest : Nat)
  /-- KIND 6. -/
  | azero (dest : Nat) (fmt : W64)
  /-- KIND 7. -/
  | list (items : List LItem)
  /-- KIND 8: the word, its operand address and the values read at issue. -/
  | atom (word : W64) (op : AtomOp) (w64 : Bool) (addr : Nat) (b c : W64)
  /-- KIND 9. -/
  | zstate (dest : Nat) (data : List Byte)
  /-- KIND 10: a CSR word; `res` names the scalar that receives the old value, a shadow scalar where the flag is
  set. -/
  | csr (n : Csr) (op : CsrOp) (val : W64) (res : Option (Bool × Nat))
  /-- KIND 10 with operation 3. -/
  | clkdiv (e : Eng) (n : BitVec 4)
  /-- A whole register of the A, M or V files, KIND 0 on saving: scalar, shadow scalar (R335), handle, m or x
  register. -/
  | scalar (n : Nat) (val : W64)
  | shadow (n : Nat) (val : W64)
  | handle (n : Nat) (val : BitVec 256)
  | mreg (n : Nat) (val : W32)
  | xreg (n : Nat) (val : W64)
  /-- The lanes of a v register that a mask selects, or the bits of a k register (all of them where there is no
  mask), KIND 0 or 7 on saving. -/
  | lanes (n : Nat) (mask : W64) (val : List W32)
  | kbits (n : Nat) (mask : Option W64) (val : W64)
  /-- One predicate, KIND 7 on saving. -/
  | pred (n : Nat) (val : Bool)
  /-- The change that a word made to a ring counter set, or to a barrier cell, appears in the view: counters as
  differences, the other fields as the bits that flip. -/
  | ringView (n : Nat) (d : Ring)
  | barView (n : Nat) (d : Bar)
  deriving DecidableEq, Repr

/-- A result issued and not yet landed (08 R185, 14 R336). -/
structure Land where
  st : StreamId
  rem : Nat
  age : Nat
  sq : BitVec 4
  sn : BitVec 4
  fp : BitVec 5
  sat : BitVec 2
  /-- Issued by the supervisor routine: lands on the routine's own ticks (R335). -/
  sup : Bool
  /-- Format word of a tile command; otherwise zero. -/
  fmt : W64
  acts : List LAct
  deriving DecidableEq, Repr

/-! ## Copy commands -/

/-- The four posting words (08 R186). -/
inductive CmdKind where
  | copy | cred | catom | close
  deriving DecidableEq, Repr

/-- What a group or an element reports of a failure (09 R218, R219). -/
structure Fail where
  status : BitVec 8
  faddr : W64
  poff : Option (BitVec 17)
  deriving DecidableEq, Repr

/-- A walk, or a window-table read, of an engine (0–127) or of the distributor (128), under way or finished (12 R295,
R301): of a walk under a root, or of an entry of the table at an address. -/
structure TlbEnt where
  eng : Nat
  tenant : BitVec 4
  win : Bool
  root : W64
  /-- Number of the 64 KiB page (16 MiB where `big`), or of the window entry. -/
  key : Nat
  big : Bool
  /-- Entries still to be read at most, and the address of the next table; 0 left once it has finished. -/
  left : Nat
  table : Nat
  /-- How it failed, 0 where it did not. -/
  err : BitVec 8
  /-- Address of the leaf, and the leaf or window entry. -/
  leaf : Nat
  word : BitVec 256
  /-- A SHOOTDOWN has met the walk under way that matches it only if it ends at a leaf of 16 MiB (12 R301). MODEL's own. -/
  stale : Bool := false
  deriving DecidableEq, Repr

/-- A posted command with everything it records at its Post move (09 R215, 08 R202, 12 R290). -/
structure Cmd where
  /-- Number of the command, in posting order of the core. -/
  id : Nat
  kind : CmdKind
  /-- The posting word and its code-window offset. -/
  word : W64
  poff : BitVec 17
  group : Nat
  hd : BitVec 256
  hs : BitVec 256
  /-- s[p] to s[p+3]; for CATOM s[a], s[b], s[c] and the address (14 R344). -/
  par : Vector W64 4
  /-- The graph the word names, header and nodes, as loaded at posting (R242). -/
  graph : List W64
  /-- Region and acquire ESN recorded at posting (08 R202). -/
  region : BitVec 20
  acq : Nat
  /-- The seven translation registers at posting (12 R290). -/
  xlat : Vector W64 7
  tenant : BitVec 4
  seed : W64
  sid : W32
  /-- Commands numbered below must be performed before it starts (FREL, R194). -/
  frel : Nat
  /-- Reads and atomics of commands numbered below must be performed before it starts (FACQ, R194). -/
  facq : Nat
  /-- Reference ticks to the deadline of a timed command (R234). -/
  due : Option Nat
  /-- The deadline found data missing and the domain froze (R235). -/
  late : Bool
  /-- Walks of a timed command's source pages, as they were made at its issue or its reissue (R233, 14 R344). -/
  walks : List TlbEnt
  /-- A timed command that is posted again and is translated at its reissue tick, which is still to come (14 R344). -/
  retime : Bool
  deriving DecidableEq, Repr

/-- A grain a command has read (08 R186, R209, R210): space, grain number, and for each of its 64 bytes the status
of an access to it and its value. -/
structure GotGrain where
  space : Nat
  grain : Nat
  got : List (BitVec 8 × Byte)
  deriving DecidableEq, Repr

/-- Where a grain has its home (08 R185). -/
inductive Home where
  | dev
  | host
  | peer (n : Nat)
  | core (n : Nat)
  deriving DecidableEq, Repr

/-- A grain as an access finds it: its home, its number there, the status of each of its bytes; for a core's own
storage, the core and local address under which presence is kept. -/
structure Grain where
  home : Home
  num : Nat
  stat : List (BitVec 8)
  /-- Covered by the race check, in device memory (08 R207); address of the leaf whose D bit a write sets (12 R298). -/
  checked : Bool := false
  leaf : Option Nat := none
  loc : Option (Nat × Nat) := none
  /-- The die it lies on, where links lead there; and whether one of them, or of those to the entries below, is in key hold
  (15 R362). -/
  way : Option (Nat × Nat × Nat) := none
  held : Bool := false
  /-- Grains of the table entries that the access reads to find it; and whether a link to one of them is in key hold. -/
  path : List Nat := []
  pheld : Bool := false
  deriving DecidableEq, Repr

/-- A started command (08 R186). -/
structure Active where
  cmd : Cmd
  got : List GotGrain
  /-- Grains that it may still read, as they stood before a later write of its stream (08 R194). MODEL's own (log 15). -/
  past : List GotGrain
  /-- When it wrote a grain: the grains still to be read for what comes before in its walk, as they stood; and the places of
  those still to be written before it (09 R219). MODEL's own (log 15). -/
  spare : List GotGrain
  pins : List (Nat × Grain)
  /-- Destination grains that were merged, delivered or reduced: twice the grain's number, or one more for a grain of
  residuals. -/
  done : List Nat
  /-- Its moves' first failing element, by unit of the walk and grain of the unit, and how it failed (R219). -/
  fail : Option ((Nat × Nat) × Fail)
  /-- The first racing grain of its writes, with its place and address (08 R210). -/
  race : Option ((Nat × Nat) × W64)
  /-- Translations under way, or taken, of its grains (12 R301). -/
  took : List (Nat × TlbEnt)
  /-- Of those made ahead of their need, the grains of the entries. MODEL's own (log 15). -/
  ahead : List (Nat × List Nat)
  /-- The timed deliveries have been applied; the completion hooks have been applied. -/
  applied : Bool
  rfDone : Bool
  baDone : Bool
  deriving DecidableEq, Repr

/-- A copy group of the A stream (09 R217). -/
structure Group where
  id : Nat
  tq : BitVec 4
  closed : Bool
  /-- The failure of its earliest-posted failing command so far: command number and failure (R219). -/
  fail : Option (Nat × Fail)
  /-- For a group that CCLOSE opened: it completes once every command numbered below is performed (R239). -/
  after : Option Nat
  /-- FPFLAGS bits its commands set (03 R78). -/
  fp : BitVec 5
  deriving DecidableEq, Repr

/-- The part of a combine-buffer entry that one command merged. -/
structure CbPart where
  cmd : Nat
  /-- Address of the grain in the command's own space, for FADDR and the dirty log. -/
  va : Nat
  /-- Covered by the race check (R207); address of the leaf whose D bit the write sets (12 R298); coordinates of the die
  that the write goes to (15 R362). -/
  covered : Bool
  leaf : Option Nat
  way : Option (Nat × Nat × Nat)
  bytes : List (Nat × Byte)
  deriving DecidableEq, Repr

/-- A combine-buffer entry: write data of one stream for one grain (08 R185, R195). -/
structure CbEnt where
  home : Home
  grain : Nat
  /-- Kept alone: data of a REL command; and the number of FRELs before it (R195). -/
  lone : Bool
  epoch : Nat
  parts : List CbPart
  deriving DecidableEq, Repr

/-- A remote ATOM on its way, or its reply (07 R177). -/
structure RAtom where
  seq : Nat
  opa : Nat
  op : AtomOp
  w64 : Bool
  b : W64
  c : W64
  sq : BitVec 4
  sn : BitVec 4
  /-- Issued by the supervisor routine (14 R335). -/
  sup : Bool
  reply : Option (W64 × BitVec 8 × W64)
  deriving DecidableEq, Repr

/-- The copy side of a core: its places in the row engine, groups, graph slots (09 R215 to R217, R242). -/
structure Copies where
  cmds : List Cmd
  act : List Active
  groups : List Group
  cb : List CbEnt
  /-- Failing completed groups with tq = 0 that no CWAIT has observed, earliest posted first (R240). -/
  unobs : List (Nat × Fail)
  /-- FPFLAGS bits of the groups completed on this tick, set after its landings (03 R78). -/
  fpPend : BitVec 5
  nextCmd : Nat
  nextGroup : Nat
  /-- FREL and FACQ act on commands numbered below these (R194); FRELs so far (R195). -/
  frel : Nat
  facq : Nat
  epoch : Nat
  /-- Graph slots 0–15, header and nodes; empty when not loaded (R242). -/
  graph : Vector (List W64) 16
  ratoms : List RAtom
  nextAtom : Nat
  deriving DecidableEq, Repr

/-! ## Ordering, traps and the job -/

/-- The wait of an OBBAR (10 R269): its word, and its target once its message has been applied. -/
structure BarWait where
  word : BitVec 10
  target : Option W64
  deriving DecidableEq, Repr

/-- The A stream's place in erg order (08 R202, R204, R205; 10 R268). -/
structure Order where
  region : BitVec 20
  /-- The region in which the current job started (R209). -/
  region0 : BitVec 20
  acq : Nat
  /-- Position in the log of the latest own message of this job, 0 if none; own messages without a position yet
  (R264, R268). -/
  own : Nat
  unsent : Nat
  /-- Releases transmitted: the region that ended and the position, oldest first (R205). -/
  rel : List (BitVec 20 × Nat)
  barw : Option BarWait
  /-- The wait of an OBBAR of the supervisor routine. -/
  sbarw : Option BarWait
  /-- The applied prefix of the station as this tick sees it; OBADD replies, with their position, that the next tick
  will see (R48). -/
  seen : Nat
  replies : List (W64 × Nat)
  deriving DecidableEq, Repr

/-- When a cause of a trap is raised (14 R332). -/
inductive StopKind where
  | before | after | async
  deriving DecidableEq, Repr

/-- A cause present at the end of this tick (14 R331, R332). -/
structure Stop where
  kind : StopKind
  /-- Stream of the trapping word; `none` where no word trapped. -/
  st : Option StreamId
  code : BitVec 8
  imm : BitVec 16
  faddr : W64
  status : BitVec 8
  block : BitVec 9
  poff : Option (BitVec 17)
  deriving DecidableEq, Repr

/-- A page-fault stop under way: A's fault, and the engine ticks for which M and V may still run (14 R337). -/
structure PfStop where
  stop : Stop
  leftM : Nat
  leftV : Nat
  deriving DecidableEq, Repr

/-- A drain of a block (14 R342, R343): the block, its bytes as they stood when the core was released (`none`: still
in place), its location entry as PSAVE read it (`none`: unreadable), the image header, and the context's registers as they
stood at the release; and the save whose IDENT waits for it, by its number (MODEL's own). -/
structure Drain where
  block : Nat
  bytes : Option (List Byte)
  loc : Option W64
  img : W64
  xlat : Vector W64 7
  tenant : BitVec 4
  save : Option Nat
  deriving DecidableEq, Repr

/-- The IDENT word of a saved image, written once the drains of the blocks that the save made outgoing have finished
(20_prog_migration.md R368). -/
structure IdentW where
  no : Nat
  img : W64
  blocks : List Nat
  word : W64
  xlat : Vector W64 7
  tenant : BitVec 4
  deriving DecidableEq, Repr

/-- Traps, presence work and drains of a core (14 R333 to R343). -/
structure Traps where
  stops : List Stop
  pf : Option PfStop
  /-- Blocks whose pull the frozen domain waits for, and blocks whose pull could not be served (R341). -/
  pulls : List Nat
  pullFail : List Nat
  /-- Blocks that PPULL asked for, with their location entries (R342, R343). -/
  bg : List (Nat × Option W64)
  drains : List Drain
  /-- IDENT words still to be written, and a failed drain of the image being saved (R343, R368). -/
  idents : List IdentW
  damaged : Bool
  /-- Number of the next save. MODEL's own. -/
  saves : Nat
  /-- Consecutive stuck ticks (11 R289). -/
  stuck : Nat
  /-- A PREEMPT message, or a candidate of higher priority, asks for the PREEMPT trap (11 R287). -/
  preempt : Bool
  /-- The slice's end, or the ESN bound, asks for it, as the latest tick that tests them found (11 R286; 10 R264). -/
  expired : Bool
  /-- The A stream's distance to its boundary, its hold and whether it was stalled at the stop, for ERET (R346, R333). -/
  saved : Nat × Nat × Bool
  /-- A CSR write of SLICE landed on this tick (13 R314). -/
  sliced : Bool
  /-- ERET issued on this tick: M and V issue from the next one on (R346). -/
  ret : Bool
  deriving DecidableEq, Repr

/-- How far a placed job has come (11 R282, R284; 14 R335, R345). -/
inductive JobPhase where
  | placed | resuming | running | ending (killed preempted : Bool)
  deriving DecidableEq, Repr

/-- The job of a core (11 R278, R282, R287). -/
structure Job where
  tenant : BitVec 4
  queue : BitVec 3
  recId : W32
  /-- The sixteen words of its record (R270). -/
  words : List W64
  ord : Nat
  prio : Nat
  /-- Order of the start ticks, for the choice of a victim (R287). -/
  seq : Nat
  /-- CTXID as its save left it (15 R355, R357); 0 for a job that has not run. -/
  ctxid : W32
  /-- ESNs that must have been applied at the core's station before it starts (R203, R285). -/
  waitEsn : Nat
  /-- IMGDESC of its image when it is resumed (R287). -/
  img : W64
  /-- Position of its latest own message when it was saved; 0 for a fresh job (R264). -/
  own : Nat
  /-- Events of each replay kind so far (R352). -/
  rk : Vector Nat 6
  /-- Of a saved context: the numbers of its groups in the image's order, and the next number, as the log counts them
  (R352). MODEL's own. -/
  groups : Option (List Nat × Nat)
  phase : JobPhase
  deriving DecidableEq, Repr

/-- The steps of one reference tick of a core (02 R48; 11 R286, R289; 13 R313, R314; 14 R333). -/
inductive Phase where
  | arrive | land | fetch (st : StreamId) | touch | issue (st : StreamId) | watchdog | slice | trap | tickEnd
  deriving DecidableEq, Repr

/-- The copy interface's engine ticks (02 R48; 13 R316, R318): reference ticks to the next boundary, the divisor in force,
and one that has landed. -/
structure Iface where
  bound : Nat
  div : Nat
  newDiv : Option Nat
  deriving DecidableEq, Repr

/-- A core (01 R11). -/
structure Core where
  r : Regs
  q : Queues
  sa : Stream
  sm : Stream
  sv : Stream
  ci : Iface
  land : List Land
  /-- Reference ticks for which the matrix array stays occupied (05 R119). -/
  array : Nat
  cp : Copies
  o : Order
  t : Traps
  job : Option Job
  phase : Phase
  deriving DecidableEq, Repr

/-! ## The device -/

/-- A grain tag of device memory (07 R180). -/
structure Tag where
  grain : Nat
  writer : BitVec 12
  region : BitVec 20
  deriving DecidableEq, Repr

/-- A message of the erg (10 R265), with the core and region it releases, for the model's bookkeeping. -/
structure Msg where
  kind : BitVec 4
  tenant : BitVec 4
  word : BitVec 10
  source : BitVec 4
  arg : BitVec 42
  value : W64
  /-- The issuing core and, for a release, the region it ends (08 R205). -/
  origin : Option Nat
  rel : Option (BitVec 20)
  /-- The host function whose request it is (15 R356). -/
  fn : Option (BitVec 4)
  deriving DecidableEq, Repr

/-- An erg station (10 R263, R267). -/
structure Station where
  queue : List Msg
  /-- Messages of the log applied so far: the applied prefix. -/
  applied : Nat
  /-- The sync words that are not zero: tenant × 1,024 + word, ascending. -/
  words : List (Nat × W64)
  /-- The word under repair (R267). -/
  damaged : Option Nat
  deriving DecidableEq, Repr

/-- The erg (10 R263, R264): position n of the log carries ESN n + 1. -/
structure Erg where
  caravan : Nat
  log : List Msg
  st : Vector Station 10
  deriving DecidableEq, Repr

/-- The record at the head of a queue (11 R275, R277, R278). -/
structure Head where
  words : List W64
  next : Nat
  latched : Bool
  condEsn : Nat
  age : Nat
  deriving DecidableEq, Repr

/-- A record that has jobs, or awaits the retirement of earlier ones (11 R276). -/
structure Live where
  seq : W32
  left : Nat
  handed : Bool
  notify : Bool
  deriving DecidableEq, Repr

/-- A position reserved by LAUNCH, whose slot write is to come (11 R285). -/
structure Resv where
  pos : W32
  core : Nat
  bytes : List Byte
  esn : Nat
  xlat : Vector W64 7
  deriving DecidableEq, Repr

/-- A launch queue (11 R273). -/
structure LQueue where
  addr : W64
  devpost : Bool
  en : Bool
  tail : W32
  head : W32
  retired : W32
  cur : Option Head
  live : List Live
  resv : List Resv
  /-- Positions whose LAUNCH slot write failed, and the ESN each launched record waits for (R285). -/
  failed : List W32
  esns : List (W32 × Nat)
  deriving DecidableEq, Repr

/-- An event that waits for a link in key hold (15 R357, R362). -/
structure EvPost where
  ty : Nat
  code : Nat
  w1 : W64
  w2 : W64
  w3 : W64
  deriving DecidableEq, Repr

/-- A tenant: its function page and its tenant control area (15 R354 to R358). -/
structure Tenant where
  xlat : Vector W64 7
  supimg : W64
  replayset : W64
  apbase : W64
  ten : Bool
  imgOk : Bool
  weight : BitVec 8
  q : Vector LQueue 8
  reqLo : W64
  reqHi : W64
  busy : Bool
  refused : Bool
  reqEsn : Nat
  evbase : W64
  ovf : Bool
  even : Bool
  evlog2 : BitVec 4
  evtail : W32
  evhead : W32
  evseq : Nat
  /-- Events that wait for a link in key hold, oldest first (15 R362). -/
  evwait : List EvPost
  note : W32
  msix : Vector (BitVec 128) 32
  pba : W64
  /-- Held by a PREEMPT message with HOLD, or by an unreadable routine image (11 R282, R287). -/
  held : Bool
  floor : BitVec 12
  tdraw : BitVec 12
  /-- Grains moved by HBM stack since the latest sample (13 R324). -/
  moved : Vector Nat 8
  ide : Option (BitVec 256)
  /-- Erg messages and CRED contributions of the tenant since its creation, for replay (14 R352). -/
  msgs : Nat
  creds : Nat
  deriving DecidableEq, Repr

/-- A pre-empted job, or one that could not start for want of its routine image (11 R282, R287). -/
structure PreJob where
  job : Job
  /-- The core it was saved from; position of its pre-emption release, once transmitted, and of its latest own message
  (R200, R264). -/
  core : Nat
  esn : Option Nat
  own : Nat
  /-- Its streams' places between boundaries, which no image holds (02 R48). -/
  sa : Stream
  sm : Stream
  sv : Stream
  ci : Iface
  array : Nat
  deriving DecidableEq, Repr

/-- The distributor (11 R270, R278). -/
structure Dist where
  pre : List PreJob
  /-- The tenant under the service pointer, the rounds it still has, and each tenant's queue pointer (R278). -/
  ptr : BitVec 4
  left : Nat
  qptr : Vector (BitVec 3) 16
  started : Nat
  deriving DecidableEq, Repr

/-- Where a clock change of a cluster stands (13 R320, R321). -/
inductive ClockReq where
  | none
  | pending (k : BitVec 4)
  | boundary (k : BitVec 4)
  deriving DecidableEq, Repr

/-- The clock of a cluster (13 R319 to R323, R329). -/
structure Cluster where
  k : BitVec 4
  req : ClockReq
  /-- The hold of 1.5 µs, with the step it ends at. -/
  hold : Option (BitVec 4)
  /-- Throttle fraction in sixteenths, and whether the clock stands in the stopped part of the period. -/
  g : BitVec 4
  stopped : Bool
  tripped : Bool
  parked : Bool
  deriving DecidableEq, Repr

/-- Steps of the ladder that were taken, latest first (13 R325). -/
inductive Rung where
  | lower (cluster : Nat)
  | hot
  | hold
  | gate (clusters : BitVec 8)
  deriving DecidableEq, Repr

/-- The power manager (13 R324 to R327). -/
structure Power where
  cap : BitVec 12
  scaled : Bool
  unatt : Bool
  draw : BitVec 12
  idle : BitVec 12
  ladder : List Rung
  below : Nat
  /-- Tenants whose launches are held. -/
  held : BitVec 16
  /-- Tenants that have had their HOT notice since step 2 was taken. -/
  told : BitVec 16
  /-- What the sensors showed at the latest sample: inlet temperature and the clusters' junctions in °C, flow in tenths of a
  litre per minute (R329). -/
  inlet : Nat
  junction : Vector Nat 8
  flow : Nat
  deriving DecidableEq, Repr

/-- An entry of the exposure table (15 R355). -/
structure Expo where
  w0 : W64
  base : W64
  limit : W64
  key : W64
  deriving DecidableEq, Repr

/-- A fabric link (15 R360, R361). -/
structure Link where
  hopns : BitVec 8
  retries : BitVec 8
  keylow : Bool
  state : BitVec 2
  ctr : BitVec 40
  /-- Failures in a row, and the key agreed for the flit boundary to come (R360). -/
  bad : Nat
  keys : Nat
  deriving DecidableEq, Repr

/-- The checkpoint block and the device-wide dirty log (15 R366). -/
structure Ckpt where
  cmd : BitVec 2
  busy : Bool
  stat : BitVec 8
  recv : Bool
  logging : Bool
  /-- Marked 64 KiB granules, ascending. -/
  dirty : List Nat
  /-- The status with which the checkpoint under way ends if nothing else stops it, and the pages it copied. -/
  outcome : BitVec 8
  pages : Nat
  /-- Its pages are still to be copied: a link to the buddy was in key hold (15 R362). MODEL's own. -/
  todo : Bool
  deriving DecidableEq, Repr

/-- Bring-up (15 R363 to R365, 12 R309). -/
structure Boot where
  stage : BitVec 8
  err : BitVec 8
  addr : W64
  len : W64
  addrSet : Bool
  lenSet : Bool
  fwDigest : BitVec 384
  domain : W64
  /-- DOMAIN as the latest link training took it (R371). -/
  trained : W64
  caps : Bool
  flowLow : Bool
  /-- The device identity's public keys, ECDSA and LMS, derived at this boot (R364). -/
  ids : BitVec 384 × BitVec 384
  /-- The latest measurements, and the response's two signatures (R364). -/
  report : List (BitVec 384)
  sigs : BitVec 768 × List Byte
  deriving DecidableEq, Repr

/-- A peer device as windows and checkpoints reach it (12 R305, R306; 15 R366): its memory, its exposure table, its
CKRECV. -/
structure Peer where
  mem : Mem
  /-- Its grain tags, as this device's writes leave them (07 R180, 15 R366). -/
  tags : List Tag
  poison : List Nat
  expo : List Expo
  recv : Bool
  deriving DecidableEq, Repr

/-- The latest completion that the device sent to the host (15 R355): its data and its poisoned (EP) bit. -/
structure Answer where
  data : List Byte
  ep : Bool
  deriving DecidableEq, Repr

/-- What the Rilosteg is told, or tells the host (12 R299, R300; 13 R329; 14 R343; 15 R362). -/
inductive RilNote where
  /-- A dirty-log error event: the tenant whose log is unusable. -/
  | dirtyLog (tenant : BitVec 4)
  /-- A drain of a core's block failed. -/
  | drain (core block : Nat)
  /-- A link's counter is used up. -/
  | keyHold (link : Nat)
  /-- The report to the host that the coolant flow is too low. -/
  | lowFlow
  deriving DecidableEq, Repr

/-- A move of the ordering machine (08 R186) or a step of the device. -/
inductive Move where
  /-- A core goes through the next step of its reference tick (02 R48). -/
  | core (n : Nat)
  /-- A step of the device that the rules tie to no tick. -/
  | event (i : Instr)
  deriving DecidableEq, Repr

/-- The G9-288. -/
structure State where
  /-- Number of the selected core, 256 × cluster + core id; MODEL's own (log 1). -/
  cur : Nat
  /-- The selected core. -/
  core : Core
  /-- The other cores that differ from one at reset, by number, ascending. -/
  parked : List (Nat × Core)
  /-- Moves still to come; MODEL's own (log 2). -/
  agenda : List Move
  /-- Number of the next free move; MODEL's own (log 2). -/
  free : Nat
  /-- Device memory, its tags and poisoned grains, the grains each atomic unit caches, most recent first
  (07 R178 to R182). -/
  mem : Mem
  tags : List Tag
  poison : List Nat
  cache : Vector (List Nat) 4
  host : Mem
  peers : List (Nat × Peer)
  tlb : List TlbEnt
  /-- Column of the core that each copy engine looks at first (09 R215, 11 R288); 0 at reset: DESIGN CHOICE (log 62). -/
  eptr : Vector (BitVec 4) 128
  /-- Grains of replies on their way to each copy engine, as its latest Read left them (09 R251). -/
  reply : Vector Nat 128
  erg : Erg
  dist : Dist
  ten : Vector Tenant 16
  cl : Vector Cluster 8
  pw : Power
  expo : Vector Expo 256
  links : Vector Link 24
  ck : Ckpt
  boot : Boot
  answer : Answer
  /-- Events of the Rilosteg, oldest first. -/
  ril : List RilNote
  deriving DecidableEq, Repr

/-! ## Reset (15 R365; the reset columns of 13, 14 and 15) -/

/-- Reset value of a CSR slot (14 R330, R331). CLASS, SLICE, SEED, STREAMID, TENANT and JOBIDX have none without a
job: DESIGN CHOICE 0 (log 3). DIVS: CDIV 2 and ADIV 1 (13 R316); MDIV and VDIV go by class, here that of CLASS 0
(R282; log 3). -/
def csrReset : Vector W64 37 := (Vector.replicate 37 0).set 22 0x2441

/-- Registers after reset: all SRAM is cleared (R365). -/
def Regs.reset : Regs :=
  { s := .replicate 64 0, sh := .replicate 8 0, h := .replicate 16 0, p := 0, m := .replicate 8 0,
    w := .replicate 4 (.replicate 128 0), v := .replicate 16 (.replicate 64 0), k := .replicate 8 0,
    x := .replicate 16 0, z := .replicate 8 0, sram := [], pres := [], csr := csrReset, sup := [] }

def Ring.reset : Ring :=
  { head := 0, tail := 0, claimed := 0, base := 0, valid := false, lcnt := 0, slot := 0 }

def Bar.reset : Bar := { posted := false, phase := false, pending := 0 }

/-- Empty queues, invalid rings and zero cells (10 R254). -/
def Queues.reset : Queues :=
  { fifo := .replicate 10 [], fres := .replicate 10 0, dq := .replicate 7 [], dres := .replicate 7 0,
    ring := .replicate 16 .reset, ringV := .replicate 16 .reset, bar := .replicate 8 .reset,
    barV := .replicate 8 .reset }

def Stream.reset (n : Nat) : Stream :=
  { pc := 0, word := none, bound := 0, hold := 0, div := n, newDiv := none, joined := false, stalled := false }

def Copies.reset : Copies :=
  { cmds := [], act := [], groups := [], cb := [], unobs := [], fpPend := 0, nextCmd := 0, nextGroup := 0, frel := 0, facq := 0,
    epoch := 0, graph := .replicate 16 [], ratoms := [], nextAtom := 0 }

/-- Region counter zero after device reset (08 R204). -/
def Order.reset : Order :=
  { region := 0, region0 := 0, acq := 0, own := 0, unsent := 0, rel := [], barw := none, sbarw := none, seen := 0, replies := [] }

def Traps.reset : Traps :=
  { stops := [], pf := none, pulls := [], pullFail := [], bg := [], drains := [], idents := [],
    damaged := false, saves := 0, stuck := 0, preempt := false, expired := false,
    saved := (0, 0, false), sliced := false, ret := false }

/-- A core that has run no job since reset. -/
def Core.reset : Core :=
  { r := .reset, q := .reset, sa := .reset 1, sm := .reset 4, sv := .reset 4, ci := { bound := 0, div := 2, newDiv := none },
    land := [], array := 0,
    cp := .reset, o := .reset, t := .reset, job := none, phase := .arrive }

def Station.reset : Station := { queue := [], applied := 0, words := [], damaged := none }

def LQueue.reset : LQueue :=
  { addr := 0, devpost := false, en := false, tail := 0, head := 0, retired := 0, cur := none, live := [],
    resv := [], failed := [], esns := [] }

/-- A tenant that was never created (13 R324, 15 R354 to R358). (PRESUMED, log 6.) -/
def Tenant.reset : Tenant :=
  { xlat := .replicate 7 0, supimg := 0, replayset := 0, apbase := 0, ten := false, imgOk := false, weight := 1,
    q := .replicate 8 .reset, reqLo := 0, reqHi := 0, busy := false, refused := false, reqEsn := 0, evbase := 0,
    ovf := false, even := false, evlog2 := 0, evtail := 0, evhead := 0, evseq := 0, evwait := [], note := 0,
    msix := .replicate 32 (1 <<< 96), pba := 0, held := false, floor := 0, tdraw := 0, moved := .replicate 8 0, ide := none, msgs := 0,
    creds := 0 }

def Cluster.reset : Cluster :=
  { k := 12, req := .none, hold := none, g := 0, stopped := false, tripped := false, parked := false }

/-- CAP 2,200; IDLE is measured: DESIGN CHOICE 420 of "about 420" (log 5); inlet, junctions and flow
within their ranges (log 5). -/
def Power.reset : Power :=
  { cap := 2200, scaled := false, unatt := false, draw := 0, idle := 420, ladder := [], below := 0, held := 0,
    told := 0, inlet := 25, junction := .replicate 8 25, flow := 18 }

def Link.reset : Link :=
  { hopns := 0, retries := 0, keylow := false, state := 0, ctr := 0, bad := 0, keys := 0 }

def Ckpt.reset : Ckpt :=
  { cmd := 0, busy := false, stat := 0, recv := false, logging := false, dirty := [], outcome := 0, pages := 0, todo := false }

/-- Stage 0 has cleared the SRAM, and the boot ROM waits (R365; DEDUCED, log 34); EZ 1, EY 2, EX 2 (R371). -/
def Boot.reset : Boot :=
  { stage := 1, err := 0, addr := 0, len := 0, addrSet := false, lenSet := false, fwDigest := 0, domain := 0x122,
    trained := 0x122, caps := false, flowLow := false, ids := (0, 0), report := [], sigs := (0, []) }

/-- The machine right after reset. The service pointer stands before tenant 1, the queue pointers at queue 0. (DESIGN CHOICE,
log 24.) -/
def State.reset : State :=
  { cur := 0, core := .reset, parked := [], agenda := [], free := 0, mem := [], tags := [], poison := [],
    cache := .replicate 4 [], host := [], peers := [], tlb := [],
    eptr := .replicate 128 0, reply := .replicate 128 0, erg := { caravan := 0, log := [], st := .replicate 10 .reset },
    dist := { pre := [], ptr := 0, left := 0, qptr := .replicate 16 0, started := 0 },
    ten := .replicate 16 .reset, cl := .replicate 8 .reset, pw := .reset,
    expo := .replicate 256 { w0 := 0, base := 0, limit := 0, key := 0 }, links := .replicate 24 .reset,
    ck := .reset, boot := .reset, answer := { data := [], ep := false }, ril := [] }

end Sys2Proof.Machine
end

