-- ==== Sys2Proof/Machine/Ops.lean ====
section
/-! DEFINITION. The named operations over cores, registers, the local map, presence blocks and the landing list; the
issue of a word; taking a trap and returning from one (02 R18 to R54, 07 R161 to R171, 14 R330 to R346). -/

namespace Sys2Proof

/-! ## Names and numbers of operands -/

/-- Slot of a CSR (R330). -/
def Csr.slot : Csr → Nat
  | .status => 0 | .cause => 1 | .epca => 2 | .epcm => 3 | .epcv => 4 | .faddr => 5 | .finfo => 6
  | .codea => 7 | .codem => 8 | .codev => 9
  | .heapbase => 10 | .heaplim => 11 | .heapoff => 12 | .ptroot => 13 | .wintab => 14 | .winlen => 15
  | .dirtymap => 16 | .seed => 17 | .streamid => 18 | .presmode => 19 | .imgdesc => 20 | .cls => 21 | .divs => 22
  | .throttle => 23 | .tick => 24 | .issued => 25 | .slice => 26 | .breach => 27 | .satflags => 28
  | .fpflags => 29 | .tenant => 30 | .ctxid => 31 | .jobidx => 32 | .trapvec => 33 | .savevec => 34
  | .debug => 35 | .replay => 36

/-- All CSRs, by slot (R330). -/
def allCsrs : List Csr :=
  [.status, .cause, .epca, .epcm, .epcv, .faddr, .finfo, .codea, .codem, .codev, .heapbase, .heaplim, .heapoff, .ptroot,
    .wintab, .winlen, .dirtymap, .seed, .streamid]
    ++ [.presmode, .imgdesc, .cls, .divs, .throttle, .tick, .issued, .slice, .breach, .satflags, .fpflags, .tenant, .ctxid,
      .jobidx, .trapvec, .savevec, .debug, .replay]

/-- The bits of a CSR that are not reserved (R6, R112, R163, R291, R293, R299, R303, R312, R328, R331, R352). -/
def Csr.mask : Csr → W64
  | .status => 0xB | .cause => 0xFFFF07FF | .epca => 0x3FFFF | .epcm => 0x3FFFF | .epcv => 0x3FFFF
  | .faddr => 0xFFFFFFFFFFFFFFFF | .finfo => 0x000000FF1FF3FFFF
  | .codea => 0xFFFFFFFF003FFFFF | .codem => 0xFFFFFFFF003FFFFF | .codev => 0xFFFFFFFF003FFFFF
  | .heapbase => 0x0000FFFFFFFFFFFF | .heaplim => 0xE300FFFFFFFFFFFF | .heapoff => 0x0000FFFFFFFFFFFF
  | .ptroot => 0x8000FFFFFFFFF800 | .wintab => 0x0000FFFFFFFFFFE0 | .winlen => 0x1FFFF
  | .dirtymap => 0x8000FFFFFFFFFFC0
  | .seed => 0xFFFFFFFFFFFFFFFF | .streamid => 0xFFFFFFFF | .presmode => 1 | .imgdesc => 0x8000FFFFFFFFFFC0
  | .cls => 7 | .divs => 0xFFFF | .throttle => 0xFFFF001F
  | .tick => 0xFFFFFFFFFFFFFFFF | .issued => 0xFFFFFFFFFFFFFFFF | .slice => 0xFFFFFFFF | .breach => 0xFFFFFFFF
  | .satflags => 3 | .fpflags => 0x1F | .tenant => 0xF | .ctxid => 0xFFFFFFFF | .jobidx => 0xFFFFFFFF
  | .trapvec => 0x3FF | .savevec => 0x3FF | .debug => 1 | .replay => 0xC000FFFFFFFFFFC0

/-- CSRs that user mode may read (R330). -/
def Csr.userRead : Csr → Bool
  | .seed | .streamid | .cls | .divs | .throttle | .tick | .issued | .slice | .breach | .satflags | .fpflags
  | .tenant | .jobidx => true
  | _ => false

/-- CSRs that user mode may write (R330). -/
def Csr.userWrite : Csr → Bool
  | .satflags | .fpflags => true
  | _ => false

/-- CSRs that a CSR write in supervisor mode changes (R349). -/
def Csr.writable : Csr → Bool
  | .status | .cause | .faddr | .finfo | .seed | .streamid | .cls | .divs | .throttle | .tenant | .jobidx => false
  | _ => true

/-- Tokens a word pops. -/
def Ctl.pops (c : Ctl) : Nat := if c.wq = 0 then 0 else c.wn.toNat + 1

/-- Tokens a word reserves places for. -/
def Ctl.pushes (c : Ctl) : Nat := if c.sq = 0 then 0 else c.sn.toNat + 1

def DqId.no : DqId → Nat
  | .fq => 0 | .dm => 1 | .dv => 2 | .bm => 3 | .bv => 4 | .ya => 5 | .aq => 6

def DqId.depth : DqId → Nat
  | .aq => 32
  | _ => 64

end Sys2Proof

namespace Sys2Proof.Machine

/-- What a step answers. -/
abbrev Out := Host.Outcome State Fault Refusal

/-! ## Lists by key -/

/-- The entry of a key, or a default. -/
def alGet {α : Type} (d : α) : List (Nat × α) → Nat → α
  | [], _ => d
  | (k, x) :: r, n => if k = n then x else alGet d r n

/-- The list with the entry of a key replaced, keys ascending. -/
def alSet {α : Type} : List (Nat × α) → Nat → α → List (Nat × α)
  | [], n, x => [(n, x)]
  | (k, y) :: r, n, x =>
    if n < k then (n, x) :: (k, y) :: r else if k = n then (n, x) :: r else (k, y) :: alSet r n x

/-- The list without a key. -/
def alDel {α : Type} (l : List (Nat × α)) (n : Nat) : List (Nat × α) := l.filter fun p => p.1 ≠ n

/-! ## Cores (01 R9, R10) -/

def clusterOf (n : Nat) : Nat := n / 256
def coreX (n : Nat) : Nat := n % 16
def coreY (n : Nat) : Nat := n / 16 % 16
def parityOf (n : Nat) : Nat := (coreX n + coreY n) % 2
/-- Number of the copy engine that serves a core (R9). -/
def engineOf (n : Nat) : Nat := 16 * clusterOf n + coreY n

/-- The neighbour of a core in direction N 0, E 1, S 2, W 3 (R10). -/
def neighbour (n d : Nat) : Nat :=
  let x := coreX n
  let y := coreY n
  let (x', y') := if d = 0 then (x, (y + 15) % 16) else if d = 1 then ((x + 1) % 16, y)
    else if d = 2 then (x, (y + 1) % 16) else ((x + 15) % 16, y)
  256 * clusterOf n + 16 * y' + x'

/-- A core by its number. (DESIGN CHOICE, log 1.) -/
def State.getCore (s : State) (n : Nat) : Core := if n = s.cur then s.core else alGet Core.reset s.parked n

/-- The machine with one core replaced. -/
def State.putCore (s : State) (n : Nat) (c : Core) : State :=
  if n = s.cur then { s with core := c } else { s with parked := alSet s.parked n c }

/-- The machine with another core selected; nothing else changes. -/
def State.select (s : State) (n : Nat) : State :=
  if n = s.cur then s
  else { s with cur := n, core := s.getCore n, parked := alSet (alDel s.parked n) s.cur s.core }

/-- The machine with the selected core changed. -/
def State.onCore (s : State) (f : Core → Core) : State := { s with core := f s.core }

/-- The Rilosteg runs, its firmware verified (01 R13, 15 R363, R365). -/
def Boot.verified (b : Boot) : Bool := 3 ≤ b.stage.toNat

/-! ## CSRs (14 R330, R331) -/

/-- The value of a CSR. -/
def Core.csr (c : Core) (n : Csr) : W64 := vget c.r.csr n.slot 0

/-- The core with a CSR replaced. -/
def Core.setCsr (c : Core) (n : Csr) (x : W64) : Core := { c with r := { c.r with csr := vset c.r.csr n.slot x } }

/-- Supervisor mode: STATUS.SUP (R331). -/
def Core.inSup (c : Core) : Bool := (c.csr .status).getLsbD 0

/-- Hot class: CLASS.HEAT = 2 (13 R316). -/
def Core.hot (c : Core) : Bool := bits 1 0 (c.csr .cls).toNat = 2

/-- DEBUG.EARLY (08 R193). -/
def Core.early (c : Core) : Bool := (c.csr .debug).getLsbD 0

/-- IMGDESC.IV and the header's address (R331). -/
def Core.imgValid (c : Core) : Bool := (c.csr .imgdesc).getLsbD 63
def imgHdr (x : W64) : Nat := (x &&& 0x0000FFFFFFFFFFC0).toNat

/-! ## Streams -/

def Core.stream (c : Core) : StreamId → Stream
  | .a => c.sa
  | .m => c.sm
  | .v => c.sv

def Core.setStream (c : Core) (st : StreamId) (x : Stream) : Core :=
  match st with
  | .a => { c with sa := x }
  | .m => { c with sm := x }
  | .v => { c with sv := x }

/-- The code-window CSR of a stream (07 R163). -/
def codeCsr : StreamId → Csr
  | .a => .codea
  | .m => .codem
  | .v => .codev

def epcCsr : StreamId → Csr
  | .a => .epca
  | .m => .epcm
  | .v => .epcv

/-- Code of a stream in CAUSE and in the landing area (14 R331, R340). -/
def streamNo : StreamId → Nat
  | .a => 0
  | .m => 1
  | .v => 2

def winBase (x : W64) : Nat := bits 21 0 x.toNat
def winSize (x : W64) : Nat := bits 63 32 x.toNat

/-- A valid code window (07 R163). -/
def winValid (x : W64) : Bool := 1 ≤ winSize x && winBase x % 8 = 0 && winBase x + 8 * winSize x ≤ 0x100000

/-- The size a stream's program counter is taken modulo: the window's, or 1,024 words of the supervisor code buffer
(02 R19, 14 R335). -/
def Core.winSize (c : Core) (st : StreamId) : Nat :=
  if c.inSup then 1024 else Machine.winSize (c.csr (codeCsr st))

/-- A word offset moved by a number of words, modulo the window (02 R19, 04 R96). -/
def pcMove (size : Nat) (pc : BitVec 17) (k : Int) : BitVec 17 :=
  BitVec.ofNat 17 (if size = 0 then 0 else (((pc.toNat : Int) + k) % (size : Int)).toNat)

/-- Latency L of an A word at the A divisor (02 R51). -/
def Core.latA (c : Core) (l : Nat) : Nat := l * c.sa.div

/-- Latency L of an M or V word, given at divisor 2, at divisor n (02 R51). -/
def latHalf (n l : Nat) : Nat := ceilDiv (l * n) 2

/-- Latency of an issued word of a stream. -/
def Core.lat (c : Core) (st : StreamId) (l : Nat) : Nat :=
  match st with
  | .a => c.latA l
  | .m => latHalf c.sm.div l
  | .v => latHalf c.sv.div l

/-- The latency of a word that lands at issue + 1 (R283): a latency of 1, which scales by R51 like any other.
(DEDUCED, log 43.) -/
def Core.latOne (c : Core) (st : StreamId) : Nat := c.lat st 1

/-! ## Registers by name -/

/-- A scalar as a word names it: s0 is zero, and in supervisor mode s56–s63 are the shadow scalars (04 R80,
14 R335). -/
def Core.sreg (c : Core) (n : BitVec 6) : W64 :=
  if n = 0 then 0
  else if c.inSup && 56 ≤ n.toNat then vget c.r.sh (n.toNat - 56) 0
  else vget c.r.s n.toNat 0

/-- A predicate: p0 is true (R80). -/
def Core.preg (c : Core) (n : BitVec 3) : Bool := n = 0 || c.r.p.getLsbD n.toNat

def Core.hreg (c : Core) (n : BitVec 4) : BitVec 256 := vget c.r.h n.toNat 0
def Core.mreg (c : Core) (n : BitVec 3) : W32 := vget c.r.m n.toNat 0
def Core.xreg (c : Core) (n : BitVec 4) : W64 := vget c.r.x n.toNat 0
/-- A mask: k0 is all ones (06 R134). -/
def Core.kreg (c : Core) (n : BitVec 3) : W64 := if n = 0 then BitVec.allOnes 64 else vget c.r.k n.toNat 0

/-! ## The local map (07 R161 to R166) -/

def byteOf {w : Nat} (x : BitVec w) (i : Nat) : Byte := (x >>> (8 * i)).setWidth 8

def setByte {w : Nat} (x : BitVec w) (i : Nat) (b : Byte) : BitVec w :=
  (x &&& ~~~((255 : BitVec w) <<< (8 * i))) ||| (b.setWidth w <<< (8 * i))

/-- A tile address, data or header, or an accumulator address (R161). -/
def inTile (a : Nat) : Bool := 0x200000 ≤ a && a < 0x280000 && a % 0x10000 < 0x8200
def inAcc (a : Nat) : Bool := 0x280000 ≤ a && a < 0x300000 && a % 0x10000 < 0x8000

/-- Lent addresses (R161). -/
def lentAddr (a : Nat) : Bool :=
  (0x100000 ≤ a && a < 0x200000) || (inTile a && 0x240000 ≤ a) || (inAcc a && 0x2C0000 ≤ a)

/-- The read-only views: ring counter sets and barrier cells (R161, R162). -/
def viewAddr (a : Nat) : Bool := 0x303000 ≤ a && a < 0x303240

/-- The z states (R133). -/
def zAddr (a : Nat) : Bool := 0x301900 ≤ a && a < 0x301B00

/-- Mapped addresses (R161). -/
def mapped (a : Nat) : Bool :=
  a < 0x200000 || inTile a || inAcc a || (0x300000 ≤ a && a < 0x3018C0) || zAddr a
    || (0x301C00 ≤ a && a < 0x301C20) || (0x302000 ≤ a && a < 0x302408) || viewAddr a

/-- Where a lent address of core n lies: the neighbour and its own address (R166). -/
def lentTo (n a : Nat) : Nat × Nat :=
  if a < 0x200000 then
    let d := (a - 0x100000) / 0x40000
    (neighbour n d, 0x40000 * ((d + 2) % 4) + a % 0x40000)
  else
    let d := a / 0x10000 % 4
    let base := if a < 0x280000 then 0x200000 else 0x280000
    (neighbour n d, base + 0x10000 * ((d + 2) % 4) + a % 0x10000)

/-- The view word of a ring counter set (10 R256). -/
def Ring.view (r : Ring) : BitVec 256 :=
  BitVec.ofNat 256 (r.head.toNat + r.tail.toNat * 2 ^ 32 + r.claimed.toNat * 2 ^ 64 + r.base.toNat * 2 ^ 96
    + (r.slot.toNat + r.lcnt.toNat * 2 ^ 16 + r.valid.toNat * 2 ^ 20) * 2 ^ 128)

/-- The view word of a barrier cell (10 R260). -/
def Bar.view (b : Bar) : W64 :=
  BitVec.ofNat 64 (b.pending.toNat + b.phase.toNat * 2 ^ 32 + b.posted.toNat * 2 ^ 33)

/-- What changed from one counter set to another, and a set with such a change added: the counters modulo 2^32, of the other
fields the bits that flip. (DESIGN CHOICE, log 38.) -/
def Ring.minus (r old : Ring) : Ring :=
  { head := r.head - old.head, tail := r.tail - old.tail, claimed := r.claimed - old.claimed, base := r.base ^^^ old.base,
    valid := r.valid ^^ old.valid, lcnt := r.lcnt ^^^ old.lcnt, slot := r.slot ^^^ old.slot }
def Ring.plus (r d : Ring) : Ring :=
  { head := r.head + d.head, tail := r.tail + d.tail, claimed := r.claimed + d.claimed, base := r.base ^^^ d.base,
    valid := r.valid ^^ d.valid, lcnt := r.lcnt ^^^ d.lcnt, slot := r.slot ^^^ d.slot }

/-- The same of a barrier cell. -/
def Bar.minus (b old : Bar) : Bar :=
  { posted := b.posted ^^ old.posted, phase := b.phase ^^ old.phase, pending := b.pending - old.pending }
def Bar.plus (b d : Bar) : Bar :=
  { posted := b.posted ^^ d.posted, phase := b.phase ^^ d.phase, pending := b.pending + d.pending }

/-- A byte at a local address of the core that is not lent (R161, R162). -/
def Core.getB (c : Core) (a : Nat) : Byte :=
  if a < 0x300000 then c.r.sram.get a
  else if a < 0x301000 then byteOf (vget (vget c.r.v ((a - 0x300000) / 256) (.replicate 64 0)) (a % 256 / 4) 0) (a % 4)
  else if a < 0x301800 then
    byteOf (vget (vget c.r.w ((a - 0x301000) / 512) (.replicate 128 0)) (a % 512 / 4) 0) (a % 4)
  else if a < 0x301880 then byteOf (vget c.r.x ((a - 0x301800) / 8) 0) (a % 8)
  else if a < 0x301888 then 255
  else if a < 0x3018C0 then byteOf (vget c.r.k ((a - 0x301880) / 8) 0) (a % 8)
  else if a < 0x301900 then 0
  else if a < 0x301B00 then byteOf (vget c.r.z ((a - 0x301900) / 64) 0) (a % 64)
  else if a < 0x301C00 then 0
  else if a < 0x301C20 then byteOf (vget c.r.m ((a - 0x301C00) / 4) 0) (a % 4)
  else if a < 0x302008 then 0
  else if a < 0x302200 then byteOf (vget c.r.s ((a - 0x302000) / 8) 0) (a % 8)
  else if a < 0x302400 then byteOf (vget c.r.h ((a - 0x302200) / 32) 0) (a % 32)
  else if a = 0x302400 then c.r.p ||| 1
  else if a < 0x303000 then 0
  else if a < 0x303200 then byteOf (vget c.q.ringV ((a - 0x303000) / 32) .reset).view (a % 32)
  else if a < 0x303240 then byteOf (vget c.q.barV ((a - 0x303200) / 8) .reset).view (a % 8)
  else 0

/-- The bits of a byte of a z state that are not reserved: the descriptor, POS and BOUND (06 R133). -/
def zBits (i : Nat) : Byte := if i < 36 then 255 else if i = 36 then 1 else 0

/-- The core with a byte at a local address replaced; s0, k0, p0, the views, unmapped addresses and the reserved bits of a
z state ignore it (00 R6, R161, R162). The z states are written here for the landings that may (R133). -/
def Core.setB (c : Core) (a : Nat) (b : Byte) : Core :=
  let r := c.r
  if a < 0x300000 then { c with r := { r with sram := r.sram.set a b } }
  else if a < 0x301000 then
    let n := (a - 0x300000) / 256
    let x := vget r.v n (.replicate 64 0)
    { c with r := { r with v := vset r.v n (vset x (a % 256 / 4) (setByte (vget x (a % 256 / 4) 0) (a % 4) b)) } }
  else if a < 0x301800 then
    let n := (a - 0x301000) / 512
    let x := vget r.w n (.replicate 128 0)
    { c with r := { r with w := vset r.w n (vset x (a % 512 / 4) (setByte (vget x (a % 512 / 4) 0) (a % 4) b)) } }
  else if a < 0x301880 then
    let n := (a - 0x301800) / 8
    { c with r := { r with x := vset r.x n (setByte (vget r.x n 0) (a % 8) b) } }
  else if a < 0x301888 then c
  else if a < 0x3018C0 then
    let n := (a - 0x301880) / 8
    { c with r := { r with k := vset r.k n (setByte (vget r.k n 0) (a % 8) b) } }
  else if a < 0x301900 then c
  else if a < 0x301B00 then
    let n := (a - 0x301900) / 64
    { c with r := { r with z := vset r.z n (setByte (vget r.z n 0) (a % 64) (b &&& zBits (a % 64))) } }
  else if a < 0x301C00 then c
  else if a < 0x301C20 then
    let n := (a - 0x301C00) / 4
    { c with r := { r with m := vset r.m n (setByte (vget r.m n 0) (a % 4) b) } }
  else if a < 0x302008 then c
  else if a < 0x302200 then
    let n := (a - 0x302000) / 8
    { c with r := { r with s := vset r.s n (setByte (vget r.s n 0) (a % 8) b) } }
  else if a < 0x302400 then
    let n := (a - 0x302200) / 32
    { c with r := { r with h := vset r.h n (setByte (vget r.h n 0) (a % 32) b) } }
  else if a = 0x302400 then { c with r := { r with p := b } }
  else c

/-- A byte at a local address as core n sees it (R161, R166). -/
def State.getB (s : State) (n a : Nat) : Byte :=
  if lentAddr a then let t := lentTo n a; (s.getCore t.1).getB t.2 else (s.getCore n).getB a

/-- A byte at a local address of the selected core. -/
def State.getL (s : State) (a : Nat) : Byte :=
  if lentAddr a then let t := lentTo s.cur a; (s.getCore t.1).getB t.2 else s.core.getB a

/-- Bytes from a local address of the selected core on. -/
def State.getLs (s : State) (a n : Nat) : List Byte := (List.range n).map fun i => s.getL (a + i)

/-- The little-endian number at a local address of the selected core (00 R3). -/
def State.getLe (s : State) (a n : Nat) : Nat := leNat (s.getLs a n)

/-- The machine with a byte at a local address of core n replaced. -/
def State.setB (s : State) (n a : Nat) (b : Byte) : State :=
  if lentAddr a then let t := lentTo n a; s.putCore t.1 ((s.getCore t.1).setB t.2 b)
  else s.putCore n ((s.getCore n).setB a b)

/-- The machine with bytes replaced from a local address of core n on. -/
def State.setBs (s : State) (n : Nat) : Nat → List Byte → State
  | _, [] => s
  | a, b :: bs => State.setBs (s.setB n a b) n (a + 1) bs

/-! ## Presence blocks (07 R170, R171) -/

/-- The presence block that holds a local address (R170). -/
def blockOf (a : Nat) : Option Nat :=
  if a < 0x100000 then some (a / 0x1000)
  else if a < 0x200000 then some (320 + (a - 0x100000) / 0x4000)
  else if inTile a then
    let n := (a - 0x200000) / 0x10000
    some (if n < 4 then 256 + n else 380 + n)
  else if inAcc a then
    let n := (a - 0x280000) / 0x10000
    let q := a % 0x10000 / 0x2000
    some (if n < 4 then 260 + 4 * n + q else 388 + 4 * (n - 4) + q)
  else if 0x300000 ≤ a && a < 0x301000 then some (276 + (a - 0x300000) / 0x400)
  else if 0x301000 ≤ a && a < 0x301800 then some (291 + (a - 0x301000) / 0x200)
  else if 0x301800 ≤ a && a < 0x301B00 then some 290
  else if 0x301C00 ≤ a && a < 0x301C20 then some 289
  else if 0x302000 ≤ a && a < 0x302200 then some (280 + (a - 0x302000) / 128)
  else if 0x302200 ≤ a && a < 0x302400 then some (284 + (a - 0x302200) / 128)
  else if 0x302400 ≤ a && a < 0x302408 then some 288
  else none

/-- The local addresses of a block, in the order of an image's range (R170, R371's neighbour R370): pieces of
address and length. -/
def blockSpan (n : Nat) : List (Nat × Nat) :=
  if n < 256 then [(0x1000 * n, 0x1000)]
  else if n < 260 then [(0x200000 + 0x10000 * (n - 256), 0x8200)]
  else if n < 276 then [(0x280000 + 0x10000 * ((n - 260) / 4) + 0x2000 * ((n - 260) % 4), 0x2000)]
  else if n < 280 then [(0x300000 + 0x400 * (n - 276), 0x400)]
  else if n < 284 then [(0x302000 + 128 * (n - 280), 128)]
  else if n < 288 then [(0x302200 + 128 * (n - 284), 128)]
  else if n = 288 then [(0x302400, 8)]
  else if n = 289 then [(0x301C00, 32)]
  else if n = 290 then [(0x301800, 0xC0), (0x301900, 0x200)]
  else if n < 295 then [(0x301000 + 0x200 * (n - 291), 0x200)]
  else if n < 320 then []
  else if n < 384 then [(0x100000 + 0x4000 * (n - 320), 0x4000)]
  else if n < 388 then [(0x240000 + 0x10000 * (n - 384), 0x8200)]
  else if n < 404 then [(0x2C0000 + 0x10000 * ((n - 388) / 4) + 0x2000 * ((n - 388) % 4), 0x2000)]
  else []

/-- A block number that is not reserved (R170). -/
def blockReal (n : Nat) : Bool := n < 295 || (320 ≤ n && n < 404)

/-- The state of a block. -/
def Core.presOf (c : Core) (n : Nat) : Pres := alGet .present c.r.pres n

/-- The core with the state of a block replaced. -/
def Core.setPres (c : Core) (n : Nat) (p : Pres) : Core :=
  { c with r := { c.r with pres := if p = .present then alDel c.r.pres n else alSet c.r.pres n p } }

/-- The blocks of `n` bytes from a local address on, each once, ascending with the address. -/
def blocksIn (a n : Nat) : List Nat :=
  if n = 0 then [] else
    (((List.range ((n + 7) / 8)).map (fun i => a + 8 * i) ++ [a + n - 1]).filterMap blockOf).eraseDups

/-- Pieces of the local map: address and length. -/
abbrev Ranges := List (Nat × Nat)

/-- Whether some pieces, each whole, cover every byte of a block (R171). -/
def coversBlock (rs : Ranges) (b : Nat) : Bool :=
  (blockSpan b).all fun p => rs.any fun r => r.1 ≤ p.1 && p.1 + p.2 ≤ r.1 + r.2

/-- The blocks that pieces touch and that are in a given state. -/
def Core.blocksWith (c : Core) (p : Pres) (rs : Ranges) : List Nat :=
  if c.r.pres.isEmpty then []
  else (rs.flatMap fun r => (blocksIn r.1 r.2).filter fun b => c.presOf b = p).eraseDups

/-! ## The landing list -/

/-- The local addresses an action writes (14 R340). -/
def LAct.ranges : LAct → Ranges
  | .write dest rows pitch data =>
    (List.range rows).map fun r => (dest + r * pitch, data.length / (max rows 1))
  | .mma dest fmt _ _ => (List.range (bits 51 44 fmt.toNat)).map fun r => (dest + 256 * r, 4 * bits 43 37 fmt.toNat)
  | .zpc dest fmt _ => (List.range (bits 51 44 fmt.toNat)).map fun r => (dest + 256 * r, 4 * bits 43 37 fmt.toNat)
  | .sum dest _ sums => [(dest, 4 * sums.length)]
  | .queue .. => []
  | .msatc dest => [(dest, 4)]
  | .azero dest fmt => (List.range (bits 51 44 fmt.toNat)).map fun r => (dest + 256 * r, 4 * bits 43 37 fmt.toNat)
  | .list items => items.map fun i => (i.addr, i.data.length)
  | .atom _ _ w64 addr _ _ => [(addr, if w64 then 8 else 4)]
  | .zstate dest data => [(dest, data.length)]
  | .csr _ _ _ res => match res with
    | some (false, n) => [(0x302000 + 8 * n, 8)]
    | _ => []
  | .clkdiv .. => []
  | .scalar n _ => [(0x302000 + 8 * n, 8)]
  | .shadow .. => []
  | .handle n _ => [(0x302200 + 32 * n, 32)]
  | .mreg n _ => [(0x301C00 + 4 * n, 4)]
  | .xreg n _ => [(0x301800 + 8 * n, 8)]
  | .lanes n _ _ => [(0x300000 + 256 * n, 256)]
  | .kbits n _ _ => [(0x301880 + 8 * n, 8)]
  | .pred .. => [(0x302400, 1)]
  | .ringView .. => []
  | .barView .. => []

/-- A result that s0 or p0 discards: it lands and writes nothing (04 R80). -/
def LAct.discard : LAct := .write 0x302000 1 0 []

/-- Neighbouring pieces joined. -/
def joinRanges : Ranges → Ranges
  | [] => []
  | p :: r => match joinRanges r with
    | [] => [p]
    | q :: t => if p.1 + p.2 = q.1 then (p.1, p.2 + q.2) :: t else p :: q :: t

/-- The word that is pending at an address: a whole register of the files, else an aligned 4-byte word (08 R193); the eight
predicates at once, of which `LAct.preds` tells each; none in the views and where a window only reads as zero. -/
def wordAt (a : Nat) : Nat × Nat :=
  if a < 0x300000 then (a / 4 * 4, 4)
  else if a < 0x301000 then (a / 256 * 256, 256)
  else if a < 0x301800 then (0x301000 + (a - 0x301000) / 512 * 512, 512)
  else if a < 0x3018C0 then (a / 8 * 8, 8)
  else if a < 0x301B00 then (a / 64 * 64, 64)
  else if a < 0x302000 then (a / 4 * 4, 4)
  else if a < 0x302200 then (a / 8 * 8, 8)
  else if a < 0x302400 then (a / 32 * 32, 32)
  else if a = 0x302400 then (a, 1)
  else (a, 0)

/-- Whether two pieces meet. -/
def meets (a n b m : Nat) : Bool := a < b + m && b < a + n && 0 < n && 0 < m

/-- The lowest pending word among the words that pieces read (08 R193): entries landing later than `after` ticks
from now count. -/
def Core.pendingIn (c : Core) (rs : Ranges) (after : Nat) : Option Nat :=
  let pend := (c.land.filter fun e => after < e.rem).flatMap fun e => e.acts.flatMap LAct.ranges
  let words := rs.flatMap fun r => pend.flatMap fun p =>
    ((List.range ((r.2 + r.1 % 4 + 3) / 4)).map fun i => wordAt (max r.1 (r.1 / 4 * 4 + 4 * i))).filterMap fun w =>
      if 0 < r.2 && meets w.1 w.2 p.1 p.2 then some w.1 else none
  words.min?

/-- The predicates that an action will write, each a register of its own (08 R193). -/
def LAct.preds : LAct → BitVec 8
  | .pred n _ => BitVec.ofNat 8 (2 ^ n)
  | .list items => items.foldl (fun m i => m ||| if meets i.addr i.data.length 0x302400 1 then i.mask.getD 0xFF else 0) 0
  | a => if a.ranges.any fun r => meets r.1 r.2 0x302400 1 then 0xFF else 0

/-- One of some predicates other than p0 is pending. -/
def Core.predPending (c : Core) (l : List (BitVec 3)) : Bool :=
  c.land.any fun e => 0 < e.rem && e.acts.any fun a => l.any fun n => n ≠ 0 && a.preds.getLsbD n.toNat

/-! ## Issue (02 R20 to R23, R36 to R38, R48 to R54; 14 R341) -/

/-- A fault before issue: its cause and what FADDR and FINFO report (14 R331, R332). -/
structure Flt where
  code : BitVec 8
  faddr : W64 := 0
  status : BitVec 8 := 0
  block : BitVec 9 := 0
  poff : Option (BitVec 17) := none

/-- How the program counter moves. -/
inductive Next where
  | seq
  | rel (off : BitVec 24)
  | abs (off : Nat)

/-- What a word asks of the issue point: everything the meanings of the words share. -/
structure Plan where
  st : StreamId
  ctl : Ctl
  /-- Steps 2 and 3 of R37: a PRIVILEGED or TRANSFORM fault. -/
  decode : Option Flt := none
  /-- Registers that a wait itself reads (14 R341). -/
  waitRegs : Ranges := []
  /-- A fault decided before the word's own wait (RING with n > C, 10 R258). -/
  preWait : Option Flt := none
  /-- The word's own wait holds (R54). -/
  wait : Bool := false
  /-- Register pieces read at issue, and predicates. -/
  regs : Ranges := []
  preds : List (BitVec 3) := []
  /-- Further register pieces touched: the destinations. -/
  dst : Ranges := []
  /-- The description's faults, first one first. -/
  fault : Option Flt := none
  /-- Memory pieces that a COPY reads, not touched at issue; EARLY_READ asks for them (08 R193). -/
  rdCopy : Ranges := []
  /-- A tile command: POISON of its registers too comes last (05 R117). -/
  tile : Bool := false
  /-- Memory pieces read, and written (touched at issue). -/
  rd : Ranges := []
  wr : Ranges := []
  /-- Memory pieces read on the landing tick: touched and checked for POISON at issue, exempt from EARLY_READ
  (05 R113, 08 R193). -/
  rdLand : Ranges := []
  /-- Memory pieces a tile command writes and does not read: touched at issue, not checked for POISON (05 R117). -/
  wrLand : Ranges := []
  /-- A memory read waits for no landing before this many ticks (a local ATOM's perform tick, 08 R193). -/
  readAt : Nat := 0
  /-- Faults after the touches and before POISON: table contents and HEADER of the tile commands (05 R117). -/
  mid : Option Flt := none
  /-- Faults after POISON. -/
  late : Option Flt := none
  /-- Ticks to the landing tick, what lands, the flags it sets. -/
  lat : Nat := 1
  acts : List LAct := []
  /-- Format word of a tile command (14 R340). -/
  fmt : W64 := 0
  fp : BitVec 5 := 0
  sat : BitVec 2 := 0
  next : Next := .seq
  /-- Further engine ticks before the next issue (R53). -/
  extra : Nat := 0
  /-- A word that leaves no entry: its signal goes elsewhere (07 R177). -/
  noEntry : Bool := false

/-- The barrier wait that holds the A stream back: the job's, or in supervisor mode one of the routine's own
(10 R269). -/
def Core.barWait (c : Core) : Option BarWait := if c.inSup then c.o.sbarw else c.o.barw

/-- The window of the predicates; p0 touches no block (04 R80). -/
def pRange (n : BitVec 3) : Ranges := if n = 0 then [] else [(0x302400, 8)]

/-- What the issue point decides. -/
inductive Verdict where
  | fault (f : Flt)
  | wait
  | freeze (blocks : List Nat)
  | go

def Core.tokens (c : Core) (q : BitVec 4) : List Tok := vget c.q.fifo q.toNat []

/-- The oldest token of those a wait pops whose status is not success (02 R23). -/
def Core.badTok (c : Core) (k : Ctl) : Option Tok := ((c.tokens k.wq).take k.pops).find? fun t => t.status ≠ 0

/-- A poisoned block among pieces that are read, or partly written: POISON with the address read (07 R171, R174). -/
def Core.poisonIn (c : Core) (rd wr : Ranges) : Option Flt :=
  if c.r.pres.isEmpty then none
  else
    let one (whole : Bool) (r : Nat × Nat) : Option Flt :=
      ((blocksIn r.1 r.2).find? fun b => c.presOf b = .poisoned && !(whole && coversBlock wr b)).map fun b =>
        { code := 0x0C, faddr := BitVec.ofNat 64 (max r.1 ((blockSpan b).headD (0, 0)).1), block := BitVec.ofNat 9 b }
    (rd.findSome? (one false)).or (wr.findSome? (one true))

/-- EARLY_READ for pieces that are read (08 R193). -/
def Core.earlyIn (c : Core) (rs : Ranges) (after : Nat) : Option Flt :=
  if c.early then (c.pendingIn rs after).map fun a => { code := 0x0D, faddr := BitVec.ofNat 64 a } else none

/-- EARLY_READ for the predicates a word reads, all at the address of their window. -/
def Core.earlyPreds (c : Core) (l : List (BitVec 3)) : Option Flt :=
  if c.early && c.predPending l then some { code := 0x0D, faddr := 0x302400 } else none

/-- Of two faults the one with the lower address in FADDR. -/
def lowerFlt : Option Flt → Option Flt → Option Flt
  | some f, some g => some (if g.faddr.toNat < f.faddr.toNat then g else f)
  | f, g => f.or g

/-- EARLY_READ for the registers a word reads: FADDR is the lowest pending word among these and the memory pieces `rd`
that the word reads too (08 R193). -/
def Core.earlyRegs (c : Core) (regs : Ranges) (preds : List (BitVec 3)) (rd : Ranges) (after : Nat) : Option Flt :=
  (lowerFlt (c.earlyIn regs 0) (c.earlyPreds preds)).bind fun f => lowerFlt (some f) (c.earlyIn rd after)

/-- Absent blocks among pieces: a pull that could not be served raises PULL, else the domain freezes (14 R341). -/
def Core.absentIn (c : Core) (rs : Ranges) : Option (Verdict) :=
  match c.blocksWith .absent rs with
  | [] => none
  | b :: bs =>
    match (b :: bs).find? fun x => c.t.pullFail.contains x with
    | some x =>
      let a := (rs.find? fun r => (blocksIn r.1 r.2).contains x).map (·.1)
      some (.fault { code := 0x17, faddr := BitVec.ofNat 64 (a.getD 0), block := BitVec.ofNat 9 x })
    | none => some (.freeze (b :: bs))

/-- The word at the issue point is its stream's next one, and an earlier word holds it back: the spacing after a branch or
a bank conflict (02 R52, R53), or the barrier wait of an OBBAR (10 R269). (DEDUCED, log 63.) -/
def Core.held (c : Core) : Bool :=
  match c.phase with
  | .issue st => (c.stream st).hold != 0 || (st = .a && c.barWait.isSome)
  | _ => false

/-- Every register piece that a word reads. -/
def Plan.allRegs (p : Plan) : Ranges := p.regs ++ p.preds.flatMap pRange

/-- The decision of the issue point on a word, checks in the order of R37 and R341; every block that it reads or writes is
touched, also one that it writes whole (R117, R341). All pulls that a word needs and can
name are requested together: those of its registers with its memory pieces, where no register it reads is absent (R341).
EARLY_READ for registers, and POISON of the registers of other words than the tile commands, rank before the faults of the
word's description; EARLY_READ for memory after them and before HEADER and POISON. (DESIGN CHOICE, log 44.) A word that is
held back is judged for its decode faults alone (R38). (DEDUCED, log 63.) -/
def verdict (c : Core) (p : Plan) : Verdict :=
  match p.decode with
  | some f => .fault f
  | none =>
  if c.held then .wait else
  match c.absentIn p.waitRegs with
  | some v => v
  | none =>
  if (c.tokens p.ctl.wq).length < p.ctl.pops then .wait
  else match c.badTok p.ctl with
  | some t => .fault { code := t.status, faddr := t.faddr, status := t.status, poff := t.poff }
  | none =>
  if p.ctl.pushes ≠ 0 &&
      64 < (c.tokens p.ctl.sq).length + vget c.q.fres p.ctl.sq.toNat 0 + p.ctl.pushes then .wait
  else match p.preWait with
  | some f => .fault f
  | none =>
  if p.wait then .wait
  else match c.absentIn p.allRegs with
  | some v => v
  | none =>
  match (c.earlyRegs p.regs p.preds (p.rd ++ p.rdCopy) p.readAt).or (if p.tile then none else c.poisonIn p.allRegs []) with
  | some f => .fault f
  | none =>
  match p.fault with
  | some f => .fault f
  | none =>
  match c.absentIn (p.dst ++ p.rd ++ p.rdLand ++ p.wrLand ++ p.wr) with
  | some v => v
  | none =>
  match ((c.earlyIn (p.rd ++ p.rdCopy) p.readAt).or p.mid).or
      (c.poisonIn ((if p.tile then p.allRegs else []) ++ p.rd ++ p.rdLand) p.wr) with
  | some f => .fault f
  | none =>
  match p.late with
  | some f => .fault f
  | none => .go

/-- The word issues. -/
def Verdict.goes : Verdict → Bool
  | .go => true
  | _ => false

/-- The target of a word. -/
def Core.target (c : Core) (st : StreamId) : Next → BitVec 17
  | .seq => pcMove (c.winSize st) (c.stream st).pc 1
  | .rel off => pcMove (c.winSize st) (c.stream st).pc off.toInt
  | .abs k => BitVec.ofNat 17 (if c.winSize st = 0 then 0 else k % c.winSize st)

/-- Whether a word branches: its next issue comes 2 engine ticks later (02 R52). -/
def Next.taken : Next → Bool
  | .seq => false
  | _ => true

/-- The FIFOs after the pops and the reservation of a word (02 R20, R21). -/
def Queues.tokensAt (q : Queues) (k : Ctl) : Queues :=
  let q1 := if k.wq = 0 then q else { q with fifo := vset q.fifo k.wq.toNat ((vget q.fifo k.wq.toNat []).drop k.pops) }
  if k.sq = 0 then q1 else { q1 with fres := vset q1.fres k.sq.toNat (vget q1.fres k.sq.toNat 0 + k.pushes) }

/-- The entry a word leaves in the landing list. -/
def Plan.entry (p : Plan) (sup : Bool) : Land :=
  { st := p.st, rem := p.lat, age := 0, sq := p.ctl.sq, sn := p.ctl.sn, fp := p.fp, sat := p.sat, sup := sup,
    fmt := p.fmt, acts := p.acts }

/-- The stream after its word has issued (R19, R52, R53). -/
def Core.streamAt (c : Core) (p : Plan) : Stream :=
  let x := c.stream p.st
  { x with pc := c.target p.st p.next, word := none,
           hold := (1 + p.extra + p.next.taken.toNat) * x.div }

/-- The counters after a user word has issued (11 R286, 13 R313). -/
def Core.charge (c : Core) : Core :=
  if c.inSup then c
  else
    let c1 := c.setCsr .issued (c.csr .issued + 1)
    if c1.csr .slice = 0 then c1 else c1.setCsr .slice (c1.csr .slice - 1)

/-- A word without a result, a flag or a signal to come, whose landing tick is past before its stream can issue again,
leaves no entry (14 R336). -/
def Core.silent (c : Core) (p : Plan) : Bool :=
  p.noEntry || (p.acts.isEmpty && p.fp = 0 && p.sat = 0 && p.ctl.sq = 0 && decide (p.lat ≤ (c.stream p.st).div))

/-- The core after a word has issued: tokens popped, places reserved, result in flight, counters charged, the stream
at its next word. -/
def Core.issued (c : Core) (p : Plan) : Core :=
  let c1 := (c.setStream p.st (c.streamAt p)).charge
  { c1 with q := c.q.tokensAt p.ctl,
            land := if c.silent p then c.land else c.land ++ [p.entry c.inSup] }

/-- A cause is noted for the end of the tick (14 R333). -/
def Core.noteStop (c : Core) (x : Stop) : Core := { c with t := { c.t with stops := c.t.stops ++ [x] } }

/-- A fault before issue (02 R37): precise; a PAGE or PROTECTION fault of an A word begins a page-fault stop
(14 R337), in user mode. -/
def Core.raise (c : Core) (st : StreamId) (f : Flt) : Core :=
  let x : Stop := { kind := .before, st := some st, code := f.code, imm := 0, faddr := f.faddr, status := f.status,
                    block := f.block, poff := f.poff }
  if st = .a && (f.code = 0x08 || f.code = 0x09) && !c.inSup then
    { c with t := { c.t with pf := some { stop := x, leftM := 4096, leftV := 4096 } } }
  else c.noteStop x

/-- The domain freezes for pulls (14 R341). -/
def Core.freeze (c : Core) (bs : List Nat) : Core := { c with t := { c.t with pulls := (c.t.pulls ++ bs).eraseDups } }

/-- The issue of a word: the verdict, and the word's own further effect `eff` on the machine after it has issued. -/
def issue (p : Plan) (s : State) (eff : State → State := id) : Out :=
  match verdict s.core p with
  | .fault f => .next (s.onCore fun c => c.raise p.st f)
  | .wait => .next s
  | .freeze bs => .next (s.onCore fun c => c.freeze bs)
  | .go => .next (eff (s.onCore fun c => c.issued p))

/-- A simple fault. -/
def flt (code : BitVec 8) (faddr : Nat := 0) : Flt := { code := code, faddr := BitVec.ofNat 64 faddr }

/-- PRIVILEGED in user mode (R37 step 2). -/
def Core.privileged (c : Core) : Option Flt := if c.inSup then none else some (flt 0x02)

/-- A supervisor fault: in supervisor mode TRAP, BRK and the words of R339 end the job through it (14 R335). -/
def Core.superFault (c : Core) (code : BitVec 8) : Option Flt := if c.inSup then some (flt code) else none

/-- The piece of a scalar a word names; s0 and the shadow scalars touch no block (04 R80, 14 R335). -/
def Core.sRange (c : Core) (n : BitVec 6) : Ranges :=
  if n = 0 || (c.inSup && 56 ≤ n.toNat) then [] else [(0x302000 + 8 * n.toNat, 8)]

def hRange (n : BitVec 4) : Ranges := [(0x302200 + 32 * n.toNat, 32)]
def mRange (n : BitVec 3) : Ranges := [(0x301C00 + 4 * n.toNat, 4)]
def xRange (n : BitVec 4) : Ranges := [(0x301800 + 8 * n.toNat, 8)]
def kRange (n : BitVec 3) : Ranges := if n = 0 then [] else [(0x301880 + 8 * n.toNat, 8)]
def vRange (n : BitVec 4) : Ranges := [(0x300000 + 256 * n.toNat, 256)]
def zRange (n : BitVec 3) : Ranges := [(0x301900 + 64 * n.toNat, 64)]

/-- The landing of a scalar result: s0 discards it, and it still lands (04 R80). -/
def Core.sWrite (c : Core) (d : BitVec 6) (x : W64) : List LAct :=
  if d = 0 then [.discard]
  else if c.inSup && 56 ≤ d.toNat then [.shadow (d.toNat - 56) x]
  else [.scalar d.toNat x]

/-! ## Data queues (10 R253) -/

def Core.dq (c : Core) (q : DqId) : List QEnt := vget c.q.dq q.no []

/-- All places of a queue are filled or reserved (R253). -/
def Core.dqFull (c : Core) (q : DqId) : Bool := q.depth ≤ (c.dq q).length + vget c.q.dres q.no 0

def Core.dqReserve (c : Core) (q : DqId) : Core :=
  { c with q := { c.q with dres := vset c.q.dres q.no (vget c.q.dres q.no 0 + 1) } }

def Core.dqDrop (c : Core) (q : DqId) (n : Nat) : Core :=
  { c with q := { c.q with dq := vset c.q.dq q.no ((c.dq q).drop n) } }

/-- An entry is appended in a reserved place. -/
def Core.dqAppend (c : Core) (q : DqId) (e : QEnt) : Core :=
  { c with q := { c.q with dq := vset c.q.dq q.no (c.dq q ++ [e]),
                           dres := vset c.q.dres q.no (vget c.q.dres q.no 0 - 1) } }

/-- Tokens are pushed in reserved places (02 R21). -/
def Core.pushTokens (c : Core) (q : BitVec 4) (n : Nat) (t : Tok) : Core :=
  if q = 0 then c
  else { c with q := { c.q with fifo := vset c.q.fifo q.toNat (c.tokens q ++ List.replicate n t),
                                fres := vset c.q.fres q.toNat (vget c.q.fres q.toNat 0 - n) } }

def plainTok : Tok := { status := 0, faddr := 0, poff := none }

/-! ## Waits shared by words that post or transmit (08 R201, 10 R268) -/

/-- The core still has a command numbered below `k` to perform or to deliver: unstarted, started, or in the combine
buffer. -/
def Copies.unfinished (cp : Copies) (k : Nat) : Bool :=
  cp.cmds.any (·.id < k) || cp.act.any (·.cmd.id < k) || cp.cb.any fun e => e.parts.any (·.cmd < k)

/-- A remote ATOM of this mode has no reply in aq yet: its landing tick has not come (07 R177, 14 R335, R338). -/
def Core.atomFlight (c : Core) : Bool := c.cp.ratoms.any fun r => r.sup = c.inSup

/-- Results of a stream still in flight. -/
def Core.inFlight (c : Core) (st : StreamId) : Bool :=
  c.land.any (fun e => e.st = st && e.sup = c.inSup) || (st = .a && c.atomFlight)

/-- Actions that store to memory or to a register window by address. A discarded result writes nothing, and a list of
bits under masks is the result of a word (14 R340). A register result that the landing area gave back as a write by address
(KIND 0, or KIND 7 without masks) counts as a store. (DESIGN CHOICE, log 38.) -/
def LAct.isStore : LAct → Bool
  | .write _ _ _ data => !data.isEmpty
  | .list items => items.any (·.mask.isNone)
  | _ => false

/-- An own message of the stream has not been applied at its station yet, as this tick sees it (10 R268, 02 R48). -/
def Core.ownPending (c : Core) : Bool := c.o.unsent ≠ 0 || c.o.seen < c.o.own

/-- Under a wait for erg words, the station's replica cannot be read (10 R267). -/
def State.station (s : State) (n : Nat) : Station := vget s.erg.st n Station.reset
def State.repairing (s : State) : Bool := (s.station (clusterOf s.cur)).damaged.isSome

/-- R201's conditions for a transmission do not hold yet: an earlier command is not performed and delivered, an
earlier store of the A stream is not visible, or a remote ATOM has no reply in aq. -/
def Core.releaseWaits (c : Core) : Bool :=
  c.cp.unfinished c.cp.nextCmd || c.land.any (fun e => e.st = .a && e.sup = c.inSup && e.acts.any LAct.isStore)
    || !c.cp.ratoms.isEmpty

/-! ## Taking a trap (14 R333 to R337) and returning from one (R346) -/

/-- Rank of a cause in R333's choice. -/
def Stop.rank (x : Stop) : Nat :=
  match x.kind with
  | .before => (x.st.map streamNo).getD 3
  | .after => 4 + (x.st.map streamNo).getD 3
  | .async => 8 + x.code.toNat

/-- The first of the causes present that applies (R333). -/
def firstStop : List Stop → Option Stop
  | [] => none
  | x :: r => match firstStop r with
    | none => some x
    | some y => some (if y.rank < x.rank then y else x)

/-- EPC of a stream: the word it issues next, and JOINED (R331, R334). -/
def Stream.epc (x : Stream) : W64 := BitVec.ofNat 64 (x.pc.toNat + x.joined.toNat * 2 ^ 17)

/-- CAUSE of a stop (R331). -/
def Stop.cause (x : Stop) : W64 :=
  BitVec.ofNat 64 (x.code.toNat + ((x.st.map streamNo).getD 3) * 2 ^ 8
    + (if x.kind = .async then 2 ^ 10 else 0) + x.imm.toNat * 2 ^ 16)

/-- FINFO of a stop (R331). -/
def Stop.finfo (x : Stop) : W64 :=
  BitVec.ofNat 64 ((x.poff.map (·.toNat)).getD 0 + (if x.poff.isSome then 2 ^ 17 else 0) + x.block.toNat * 2 ^ 20
    + x.status.toNat * 2 ^ 32)

/-- STATUS at the entry of a routine: SUP, VEC for async causes, PSTOP for a page-fault stop (R331). -/
def Stop.status' (x : Stop) (pf : Bool) : W64 :=
  BitVec.ofNat 64 (1 + (if x.kind = .async then 2 else 0) + pf.toNat * 8)

/-- The entry of the routine that a stop takes (R334). -/
def Core.entryOf (c : Core) (x : Stop) : Nat :=
  bits 9 0 (c.csr (if x.kind = .async then .savevec else .trapvec)).toNat

/-- The open group of the stream. -/
def Copies.openGroup (cp : Copies) : Option Group := cp.groups.find? fun g => !g.closed

def Core.allJoined (c : Core) : Bool := c.sa.joined && c.sm.joined && c.sv.joined

/-- The open group, if there is one, has nothing left to do. -/
def Copies.openIdle (cp : Copies) : Bool :=
  match cp.openGroup with
  | none => true
  | some g => !(cp.cmds.any fun m => m.group = g.id) && !(cp.act.any fun a => a.cmd.group = g.id)

/-- The tick is stuck (11 R289). -/
def Core.stuckTick (c : Core) : Bool :=
  [c.sa, c.sm, c.sv].all (fun x => x.joined || x.stalled) && !c.allJoined && c.land.isEmpty
    && c.cp.groups.all (fun g => !g.closed) && c.cp.openIdle && vget c.q.dres 6 0 = 0

/-- The count of consecutive stuck ticks with this one; a lost WATCHDOG is so raised again after ERET (R333, 11 R289). -/
def Core.stuckNow (c : Core) : Nat := if c.stuckTick then c.t.stuck + 1 else 0

/-- The core is asked for the PREEMPT trap (11 R286, R287). -/
def Core.asked (c : Core) : Bool := c.t.preempt || c.t.expired

/-- TAKING A TRAP: the saved registers are written, supervisor mode begins, and the A stream goes to the routine
(R334). Results in flight stay in the landing list, whose countdown stops (R336). A word that a stream has taken up and
not issued is dropped, and fetched again after the return. (DESIGN CHOICE, log 54.) -/
def Core.takeTrap (c : Core) (x : Stop) (pf : Bool) : Core :=
  let c1 := ((((((c.setCsr .epca c.sa.epc).setCsr .epcm c.sm.epc).setCsr .epcv c.sv.epc).setCsr .cause x.cause).setCsr
    .faddr x.faddr).setCsr .finfo x.finfo).setCsr .status (x.status' pf)
  { c1 with
    sa := { c.sa with pc := BitVec.ofNat 17 (c.entryOf x), word := none, bound := 0, hold := 0, joined := false },
    sm := { c.sm with word := none }, sv := { c.sv with word := none },
    t := { c.t with stops := [], pf := none, sliced := false, stuck := if x.code = 0x18 then 0 else c.stuckNow,
                    preempt := c.t.preempt && x.code ≠ 0x14, expired := false, pullFail := [], pulls := [],
                    saved := (c.sa.bound, c.sa.hold, c.sa.stalled) } }

/-- RETURNING: SUP is cleared and the streams resume at EPCA, EPCM and EPCV on the next tick, except those with JOINED
set (R346). -/
def Core.returnTrap (c : Core) : Core :=
  let c1 := c.setCsr .status (c.csr .status &&& ~~~1)
  let pcOf (n : Csr) := BitVec.ofNat 17 (bits 16 0 (c.csr n).toNat)
  let joinOf (n : Csr) := (c.csr n).getLsbD 17
  { c1 with
    sa := { c1.sa with pc := pcOf .epca, joined := joinOf .epca, word := none, bound := c.t.saved.1,
                       hold := c.t.saved.2.1, stalled := c.t.saved.2.2 },
    sm := { c1.sm with pc := pcOf .epcm, joined := joinOf .epcm, word := none },
    sv := { c1.sv with pc := pcOf .epcv, joined := joinOf .epcv, word := none },
    t := { c1.t with ret := true, pullFail := [] } }

/-- The core's job is to end as YIELD.kill ends it (R335, R345): the landing list, the unstarted commands and the
queues are discarded. (DEDUCED, log 21.) -/
def Core.kill (c : Core) : Core :=
  { c with
    land := [], t := { Traps.reset with drains := c.t.drains, idents := c.t.idents, saves := c.t.saves },
    cp := { c.cp with cmds := [] },
    q := { Queues.reset with ring := c.q.ring, ringV := c.q.ringV, bar := c.q.bar, barV := c.q.barV },
    job := c.job.map fun j => { j with phase := .ending true false }, phase := .arrive }

end Sys2Proof.Machine
end

