-- ==== Sys2Proof/Machine/Quant.lean ====
section
/-! DEFINITION. Selector blocks, the generator, summation orders, the Hadamard step and QUANT
(03_numbers.md R59 to R65, R68, R71 to R77). -/

namespace Sys2Proof.Machine

/-- The element types of R28, by code. -/
inductive Et where
  | f32 | i32 | ui32 | bf16 | fp16 | i16 | ui16 | i8 | ui8 | e4m3 | e5m2 | sb8 | sb4 | zbp
  deriving DecidableEq, Repr

/-- R28: codes 11 and 15 are reserved. -/
def Et.ofCode : Nat → Option Et
  | 0 => some .f32 | 1 => some .i32 | 2 => some .ui32 | 3 => some .bf16 | 4 => some .fp16
  | 5 => some .i16 | 6 => some .ui16 | 7 => some .i8 | 8 => some .ui8 | 9 => some .e4m3
  | 10 => some .e5m2 | 12 => some .sb8 | 13 => some .sb4 | 14 => some .zbp | _ => none

def Et.code : Et → Nat
  | .f32 => 0 | .i32 => 1 | .ui32 => 2 | .bf16 => 3 | .fp16 => 4 | .i16 => 5 | .ui16 => 6
  | .i8 => 7 | .ui8 => 8 | .e4m3 => 9 | .e5m2 => 10 | .sb8 => 12 | .sb4 => 13 | .zbp => 14

/-- ESZ of R86, by code; SB8 and SB4 count as 1 outside layout 1. -/
def esz (et : Nat) : Nat := if et ≤ 2 then 4 else if et ≤ 6 then 2 else 1

/-- The floating format of an element type, if it has one. -/
def Et.float? : Et → Option FFmt
  | .f32 => some .fp32 | .bf16 => some .bf16 | .fp16 => some .fp16
  | .e4m3 => some .e4m3 | .e5m2 => some .e5m2 | _ => none

/-- The integer width and signedness of an element type, if it is an integer type. -/
def Et.int? : Et → Option (Nat × Bool)
  | .i32 => some (32, true) | .ui32 => some (32, false) | .i16 => some (16, true)
  | .ui16 => some (16, false) | .i8 => some (8, true) | .ui8 => some (8, false) | _ => none

/-- The exact value of a memory element (R57, R55); integers as values. -/
def decEt (et : Et) (code : Nat) : X :=
  match et.float?, et.int? with
  | some f, _ => decF f code
  | _, some (w, true) => X.ofInt (sext w code)
  | _, some (w, false) => X.ofInt (code % 2 ^ w : Nat)
  | _, _ => .fin false 0 0

/-- CVT of R69 into an element type: the code and the flags. -/
def cvtEt (x : X) (et : Et) (rm : Rm) (sat : Bool) (u : Nat := 0) : Nat × FpFlags :=
  match et.float?, et.int? with
  | some f, _ => cvtF x f rm sat u
  | _, some (w, sg) =>
    let (i, fl) := cvtI x w sg rm u
    (wrapN w i, fl)
  | _, _ => (0, 0)

/-! ### The generator of R72 -/

/-- One round of R72. -/
def genRound (x k : W32) : W32 :=
  let y := (x ^^^ k) * 0x2C9277B5#32
  y ^^^ (y >>> 15)

/-- G(seed, sid, i, j) of R72. -/
def gen (seed : W64) (sid i j : W32) : W32 :=
  let k0 := seed.extractLsb' 0 32
  let k1 := seed.extractLsb' 32 32
  let a := 0x5851F42D#32
  let b := 0x14057B7E#32
  let x0 := i ^^^ rotl32 j 16 ^^^ sid
  let x1 := genRound x0 k0
  let x2 := genRound x1 (k1 + b)
  let x3 := genRound x2 (k0 + a + a)
  genRound x3 (k1 + b + b + b)

/-! ### Summation orders -/

/-- One halving of R73: the sums of the two halves and their flags. -/
def halve (l : List Nat) : List Nat × FpFlags :=
  let w := l.length / 2
  let r := List.zipWith fadd (l.take w) (l.drop w)
  (r.map (·.1), r.foldl (fun f x => f ||| x.2) 0)

/-- TREESUM of R73 on 2^n terms. -/
def treeSum : Nat → List Nat → Nat × FpFlags
  | 0, l => (l.headD 0, 0)
  | n + 1, l =>
    let (h, f) := halve l
    let (r, g) := treeSum n h
    (r, f ||| g)

/-- One Hillis–Steele step of R74 at distance `d`, with the sum given. -/
def scanStep (op : Nat → Nat → Nat × FpFlags) (d : Nat) (l : List Nat) : List Nat × FpFlags :=
  let r := List.zipWith op l (l.drop d)
  (l.take d ++ r.map (·.1), r.foldl (fun f x => f ||| x.2) 0)

/-- The six steps of R74 without the carry. -/
def scanAll (op : Nat → Nat → Nat × FpFlags) (l : List Nat) : List Nat × FpFlags :=
  [1, 2, 4, 8, 16, 32].foldl (fun (p : List Nat × FpFlags) d =>
    let (r, f) := scanStep op d p.1
    (r, p.2 ||| f)) (l, 0)

/-! ### The Hadamard step of R75 -/

/-- Butterflies at distance `s`: element `j` of the result. -/
def hadStep (s : Nat) (l : List Nat) : List Nat × FpFlags :=
  let arr := l.toArray
  let r := (List.range l.length).map fun j =>
    if j &&& s = 0 then fadd (arr.getD j 0) (arr.getD (j + s) 0)
    else fsub (arr.getD (j - s) 0) (arr.getD j 0)
  (r.map (·.1), r.foldl (fun f x => f ||| x.2) 0)

/-- HAD of R75 on one run of `h` values; `h` is 16, 64 or 256. -/
def hadRun (h : Nat) (l : List Nat) : List Nat × FpFlags :=
  let steps := if h = 16 then [1, 2, 4, 8] else if h = 64 then [1, 2, 4, 8, 16, 32]
    else [1, 2, 4, 8, 16, 32, 64, 128]
  let c := if h = 16 then 0x3E800000 else if h = 64 then 0x3E000000 else 0x3D800000
  let (r, f) := steps.foldl (fun (p : List Nat × FpFlags) s =>
    let (q, g) := hadStep s p.1
    (q, p.2 ||| g)) (l, 0)
  let q := r.map (fmul · c)
  (q.map (·.1), q.foldl (fun f x => f ||| x.2) f)

/-- HAD on each run of `h` values of a block, for at most `n` runs. -/
def hadBlock (h : Nat) : Nat → List Nat → List Nat × FpFlags
  | 0, _ => ([], 0)
  | n + 1, l =>
    let (a, f) := hadRun h (l.take h)
    let (b, g) := hadBlock h n (l.drop h)
    (a ++ b, f ||| g)

/-- The Hadamard size of a had code of R27: 0 none. -/
def hadSize (code : Nat) : Nat := if code = 1 then 16 else if code = 2 then 64 else if code = 3 then 256 else 0

/-! ### Scales, headers and element encodings -/

/-- The value of a UE8M8 scale (R59). -/
def scaleVal (c : Nat) : X :=
  let e := bits 15 8 c
  let f := bits 7 0 c
  if e = 0 then .fin false f (-134) else .fin false (256 + f) ((e : Int) - 135)

/-- The nibble XOR of R61. -/
def hdrChk (h : Nat) : Nat :=
  bits 31 28 h ^^^ bits 27 24 h ^^^ bits 23 20 h ^^^ bits 19 16 h ^^^ bits 15 12 h

def hdrScale (h : Nat) : Nat := bits 31 16 h
def hdrSel (h : Nat) : Nat := bits 15 13 h
def hdrWc (h : Nat) : Bool := bit 12 h
def hdrTail (h : Nat) : Nat := bits 7 0 h

/-- The header with a scale, selector, width and tail, CHK included (R61). -/
def mkHdr (scale sel : Nat) (wc : Bool) (tail : Nat) : Nat :=
  let h := scale * 2 ^ 16 + sel * 2 ^ 13 + (if wc then 2 ^ 12 else 0)
  h + hdrChk h * 2 ^ 8 + tail

/-- The checks of R65, for the width the consumer expects (true = 8-bit); all of them report HEADER. -/
def hdrOk (h : Nat) (wc : Bool) : Bool :=
  bits 11 8 h = hdrChk h && hdrSel h ≤ 3 && hdrWc h = wc && bits 15 8 (hdrScale h) ≠ 255

/-- The table T8 of R63. -/
def t8 (i : Nat) : Nat := [32768, 35734, 38968, 42495, 46341, 50535, 55109, 60097].getD i 0

/-- 2^⌊x/8⌋·T8[x mod 8]/32768 for an eighths exponent (R63, R64). -/
def logMag (x : Int) : Nat × Int := (t8 (x % 8).toNat, x / 8 - 15)

/-- The eighths exponent of a non-zero log code (R64). -/
def eighths (wc : Bool) (code : Nat) : Int :=
  if wc then (code % 128 : Nat) - 127 else 4 * ((code % 8 : Nat) - 7)

/-- The N4 magnitudes of R63 in units of 1/32. -/
def n4Mag (i : Nat) : Nat := [0, 3, 6, 10, 14, 20, 28, 40].getD i 0

/-- DEC of a selector-block code (R63, R64): width, selector, code. -/
def decSel (wc : Bool) (sel code : Nat) : X :=
  match wc, sel with
  | true, 0 => X.ofInt (sext 8 code)
  | true, 1 => decF .e4m3 code
  | true, 2 => decF .e5m2 code
  | true, _ =>
    let c := code % 128
    if c = 0 then .fin false 0 0
    else
      let (m, e) := logMag (eighths true code)
      .fin (code.testBit 7) m e
  | false, 0 => X.ofInt (sext 4 code)
  | false, 1 => decF .e2m1 (code % 16)
  | false, 2 =>
    let m := n4Mag (code % 8)
    if m = 0 then .fin false 0 0 else .fin (code.testBit 3) m (-5)
  | false, _ =>
    let c := code % 8
    if c = 0 then .fin false 0 0
    else
      let (m, e) := logMag (eighths false code)
      .fin (code.testBit 3) m e

/-- Qmax of a selector (R62). -/
def qmax (wc : Bool) (sel : Nat) : Nat × Int :=
  match wc, sel with
  | true, 0 => (127, 0) | true, 1 => (448, 0) | true, 2 => (57344, 0) | true, _ => (1, 0)
  | false, 0 => (7, 0) | false, 1 => (6, 0) | false, 2 => (5, -2) | false, _ => (1, 0)

/-- The number of magnitude codes of a selector that the rounding of R68 may pick: codes 0 up to Qmax's. -/
def magCodes (wc : Bool) (sel : Nat) : Nat :=
  match wc, sel with
  | true, 0 => 128 | true, 1 => 127 | true, 2 => 124 | true, _ => 128
  | false, _ => 8

/-- The magnitude of a magnitude code. -/
def codeMag (wc : Bool) (sel c : Nat) : Nat × Int :=
  match decSel wc sel c with
  | .fin _ m e => (m, e)
  | _ => (0, 0)

/-- The largest magnitude code among `c, c−1, …, 0` whose magnitude does not exceed `m·2^e`. -/
def loCode (wc : Bool) (sel : Nat) (m : Nat) (e : Int) : Nat → Nat
  | 0 => 0
  | c + 1 =>
    let (a, f) := codeMag wc sel (c + 1)
    if magLe a f m e then c + 1 else loCode wc sel m e c

/-- The code with a sign applied to a magnitude code; a zero magnitude is code 0 (R68). -/
def signCode (wc : Bool) (sel : Nat) (neg : Bool) (c : Nat) : Nat :=
  if c = 0 then 0
  else if !neg then c
  else
    match wc, sel with
    | true, 0 => 256 - c
    | false, 0 => 16 - c
    | true, _ => 128 + c
    | false, _ => 8 + c

/-- Rounding of a finite value to a selector's grid by R68 and R71. -/
def roundSel (wc : Bool) (sel : Nat) (rm : Rm) (neg : Bool) (m : Nat) (e : Int) (u : Nat) : Nat :=
  let top := magCodes wc sel - 1
  let (qm, qe) := qmax wc sel
  if magLe qm qe m e then signCode wc sel neg top
  else
    let lo := loCode wc sel m e top
    let (lm, le) := codeMag wc sel lo
    let (hm, he) := codeMag wc sel (lo + 1)
    let b := min e (min le he)
    let y := shiftTo m e b
    let l := shiftTo lm le b
    let h := shiftTo hm he b
    if y = l then signCode wc sel neg lo
    else
      let up := match rm with
        | .rne => h - y < y - l || (h - y = y - l && lo % 2 = 1)
        | .rtz => false
        | .rdn => neg
        | .rup => !neg
        | .sr => srUp (y - l) b (h - l) b u
      signCode wc sel neg (if up then lo + 1 else lo)

/-- The code of the smallest UE8M8 value not below `amax / Qmax`, and whether it was clamped (R77). -/
def scaleFor (am : Nat) (ae : Int) (qm : Nat) (qe : Int) : Nat × Bool :=
  if am = 0 then (0, false)
  else
    -- s·qm·2^qe ≥ am·2^ae for the scale value s; both candidates near the quotient are tried upward
    let ok (c : Nat) : Bool :=
      match scaleVal c with
      | .fin _ m e => magLe am ae (m * qm) (e + qe)
      | _ => false
    let k := bitLen qm + 40
    let q := (am <<< k) / qm
    let e2 : Int := ae - qe - k + bitLen q - 1
    let e := (max 0 (e2 + 127)).toNat
    let f := (splitAt q (ae - qe - k) (if e = 0 then -134 else e2 - 8)).1 % 256
    let c0 := if e = 0 then f else e * 256 + f
    let c := if ok c0 then c0 else c0 + 1
    if c > 0xFEFF then (0xFEFF, true) else (c, false)

/-- One candidate of QUANT: its scale code, its clamping, the codes and E_s (R77). `u i` is the generator
output for element `i`. -/
def quantSel (xs : List Nat) (am : Nat) (ae : Int) (wc : Bool) (sel : Nat) (rm : Rm) (u : Nat → Nat) :
    Nat × Bool × List Nat × Nat × FpFlags :=
  let (qm, qe) := qmax wc sel
  let (sc, clamped) := scaleFor am ae qm qe
  let sv := scaleVal sc
  let enc (p : Nat × Nat) : Nat × Nat × FpFlags :=
    let (i, c) := p
    match dec32 c with
    | .fin s m e =>
      let y : X := match sv with
        | .fin _ n f => if n = 0 then .fin s 0 0 else
            let (q, g) := divMag m e n f
            dec32 (rne32 (.fin s q g)).1
        | _ => .fin s 0 0
      let code := match y with
        | .fin t n f => roundSel wc sel rm t n f (u i)
        | _ => signCode wc sel s (magCodes wc sel - 1)
      let d := (rne32 ((decSel wc sel code).mul sv).1).1
      let r := (fsub c d).1
      (code, (fmul r r).1, 0)
    | x =>
      let f : FFmt := if sel = 1 then .e4m3 else .e5m2
      if wc && (sel = 1 || sel = 2) then
        let (k, fl) := cvtF x f .rne false
        (k, 0, fl)
      else (0, 0, 0)
  let r := ((List.range xs.length).zip xs).map enc
  let err := (treeSum 8 (r.map (·.2.1))).1
  (sc, clamped, r.map (·.1), err, r.foldl (fun f x => f ||| x.2.2) 0)

/-- QUANT of R77: the header, the 256 codes and the flags of the block. The inputs are FP32 codes; padding
beyond `nValid` is +0. -/
def quant (xs0 : List Nat) (nValid : Nat) (wc : Bool) (en : Nat) (rm : Rm) (had : Nat) (u : Nat → Nat) :
    Nat × List Nat × FpFlags :=
  let xs1 := (xs0.take nValid) ++ List.replicate (256 - min nValid xs0.length) 0
  let tail := min 255 (256 - nValid)
  let h := hadSize had
  let (xs, hf) := if h = 0 then (xs1, 0) else hadBlock h (256 / h) xs1
  let fins := xs.filter fun c => (dec32 c).isFin
  let (am, ae) := fins.foldl (fun (p : Nat × Int) c =>
    match dec32 c with
    | .fin _ m e => if magLt p.1 p.2 m e then (m, e) else p
    | _ => p) (0, 0)
  let c0 := [0, 1, 2, 3].filter fun s => en.testBit s
  let allFin := fins.length = xs.length
  let c1 := if !allFin && wc && (en.testBit 1 || en.testBit 2) then c0.filter (fun s => s = 1 || s = 2) else c0
  let inval : FpFlags := if !allFin && !(wc && (en.testBit 1 || en.testBit 2)) then fINVALID else 0
  let cands := c1.map fun s => (s, quantSel xs am ae wc s rm u)
  let ovf : FpFlags := if cands.any (fun p => p.2.2.1) then fOVERFLOW else 0
  let best := cands.foldl (fun (b : Option (Nat × (Nat × Bool × List Nat × Nat × FpFlags))) p =>
    match b with
    | none => some p
    | some q => if (dec32 p.2.2.2.2.1).keyLt (dec32 q.2.2.2.2.1) then some p else some q) none
  match best with
  | none => (mkHdr 0 0 wc tail, List.replicate 256 0, hf)
  | some (s, sc, _, codes, _) =>
    (mkHdr sc s wc tail, codes, hf ||| inval ||| ovf ||| cands.foldl (fun f p => f ||| p.2.2.2.2.2) 0)

/-- The bytes of a block: header, then elements packed by R55, R60. -/
def blockBytes (hdr : Nat) (wc : Bool) (codes : List Nat) : List Byte :=
  let pay := if wc then codes.map (BitVec.ofNat 8 ·)
    else (List.range (codes.length / 2)).map fun i =>
      BitVec.ofNat 8 (codes.getD (2 * i) 0 % 16 + 16 * (codes.getD (2 * i + 1) 0 % 16))
  leBytes 4 hdr ++ pay

/-- The code of element `i` in a payload (R55, R60). -/
def elemCode (wc : Bool) (pay : List Byte) (i : Nat) : Nat :=
  if wc then (pay.getD i 0).toNat
  else
    let b := (pay.getD (i / 2) 0).toNat
    if i % 2 = 0 then b % 16 else b / 16

/-- Element `i` of a block with the flags of DEC × SCALE (R64, R70): infinity times scale 0 is a NaN made of no NaN. -/
def blockElemF (hdr : Nat) (pay : List Byte) (i : Nat) : X × FpFlags :=
  if 256 ≤ i + hdrTail hdr then (.fin false 0 0, 0)
  else (decSel (hdrWc hdr) (hdrSel hdr) (elemCode (hdrWc hdr) pay i)).mul (scaleVal (hdrScale hdr))

/-- The exact value of element `i` of a block (R64), tail elements +0. -/
def blockElem (hdr : Nat) (pay : List Byte) (i : Nat) : X := (blockElemF hdr pay i).1

/-- Bytes of a block (R60). -/
def blockSize (wc : Bool) : Nat := if wc then 260 else 132

end Sys2Proof.Machine
end

