-- ==== Sys2Proof/Machine/Flags.lean ====
section
/-! DEFINITION. Conditions and flags: condition codes (02_words.md R25), FPFLAGS (03_numbers.md R78), SATFLAGS
(05_reg_matrix.md R112). -/

namespace Sys2Proof.Machine

/-- A condition on two 64-bit values (R25). -/
def condHolds (cc : Cond) (a b : W64) : Bool :=
  match cc with
  | .eq => a = b
  | .ne => a != b
  | .lt => a.slt b
  | .ge => !a.slt b
  | .ltu => a.ult b
  | .geu => !a.ult b
  | .al => true

/-- A VCMP condition on two lanes under a type (06 R143): with a NaN only NE holds, and −0 equals +0. -/
def laneCond (cc : Cond) (ty : VTy) (a b : W32) : Bool :=
  match ty with
  | .f =>
    let x := dec32 a.toNat
    let y := dec32 b.toNat
    if x.isNan || y.isNan then decide (cc = .ne)
    else
      let lt := x.ltNum y
      let eq := !lt && !y.ltNum x
      match cc with
      | .eq => eq
      | .ne => !eq
      | .lt => lt
      | _ => !lt
  | .i => condHolds cc (a.signExtend 64) (b.signExtend 64)
  | .u =>
    match cc with
    | .lt => a.ult b
    | .ge => !a.ult b
    | _ => condHolds cc (a.setWidth 64) (b.setWidth 64)

/-- Flag bits are sticky: they are ORed into FPFLAGS when they land (R78). -/
def Core.orFp (c : Core) (f : FpFlags) : Core :=
  if f = 0 then c else c.setCsr .fpflags (c.csr .fpflags ||| f.setWidth 64)

/-- SATFLAGS M is bit 0 and D is bit 1 (R112). -/
def satM : BitVec 2 := 1
def satD : BitVec 2 := 2

def Core.orSat (c : Core) (f : BitVec 2) : Core :=
  if f = 0 then c else c.setCsr .satflags (c.csr .satflags ||| f.setWidth 64)

/-- The union of the flags of some results. -/
def orFlags (l : List FpFlags) : FpFlags := l.foldl (· ||| ·) 0

end Sys2Proof.Machine
end

