-- ==== Sys2Proof/Machine/Operands.lean ====
section
/-! DEFINITION. Operand forms: fields of handles (04 R84, R102), elements of the local map as VLD and VST move them
(06 R150, R151), stream registers (06 R133, R155, R157), and the operands of VR words (06 R136, R137; 02 R53). -/

namespace Sys2Proof.Machine

/-! ## Handles -/

/-- Place of a handle field: lowest bit, width, sign extension by HGET (04 R84, R102). -/
def hfPlace (f : HField) : Nat × Nat × Bool :=
  match f with
  | .addr => (0, 48, false)
  | .space => (60, 4, false)
  | .ext0 => (64, 16, false)
  | .ext1 => (80, 16, false)
  | .ext2 => (96, 16, false)
  | .ext3 => (112, 16, false)
  | .stride1 => (128, 32, true)
  | .stride2 => (160, 32, true)
  | .stride3 => (192, 24, true)
  | .et => (216, 4, false)
  | .win => (220, 16, false)
  | .layout => (236, 4, false)
  | .word0 => (0, 64, false)
  | .word1 => (64, 64, false)
  | .word2 => (128, 64, false)
  | .word3 => (192, 64, false)

/-- The bits of a handle field, as a number. -/
def hfBits (h : BitVec 256) (f : HField) : Nat :=
  let p := hfPlace f
  bits (p.1 + p.2.1 - 1) p.1 h.toNat

/-- A handle field as HGET returns it (R103). -/
def hfGet (h : BitVec 256) (f : HField) : W64 :=
  let p := hfPlace f
  if p.2.2 then BitVec.ofInt 64 (sext p.2.1 (hfBits h f)) else BitVec.ofNat 64 (hfBits h f)

/-- A handle with a field replaced from the low bits of a value (R103). -/
def hfSet (h : BitVec 256) (f : HField) (x : W64) : BitVec 256 :=
  let p := hfPlace f
  let m : BitVec 256 := BitVec.ofNat 256 ((2 ^ p.2.1 - 1) * 2 ^ p.1)
  (h &&& ~~~m) ||| (BitVec.ofNat 256 (x.toNat % 2 ^ p.2.1 * 2 ^ p.1))

/-- Extent of dimension d (R84). -/
def hExt (h : BitVec 256) (d : Nat) : Nat := bits (79 + 16 * d) (64 + 16 * d) h.toNat

/-- Signed stride of dimension d; dimension 0 has stride 1 (R84, R85). -/
def hStride (h : BitVec 256) (d : Nat) : Int :=
  if d = 0 then 1 else if d = 1 then sext 32 (hfBits h .stride1)
  else if d = 2 then sext 32 (hfBits h .stride2) else sext 24 (hfBits h .stride3)

def hEt (h : BitVec 256) : Nat := hfBits h .et
def hLayout (h : BitVec 256) : Nat := hfBits h .layout
def hSpace (h : BitVec 256) : Nat := hfBits h .space
def hAddr (h : BitVec 256) : Nat := hfBits h .addr
def hWin (h : BitVec 256) : Nat := hfBits h .win

/-- Bytes of a selector block of an element type in layout 1 (R86). -/
def etBlock (et : Nat) : Nat := if et = 13 then 132 else 260

/-! ## Elements of the local map -/

/-- The element type of a VM code (R28). -/
def memEt : MemTy → Et
  | .f32 => .f32 | .i32 => .i32 | .ui32 => .ui32 | .bf16 => .bf16 | .fp16 => .fp16 | .i16 => .i16
  | .ui16 => .ui16 | .i8 => .i8 | .ui8 => .ui8 | .e4m3 => .e4m3 | .e5m2 => .e5m2

/-- The lane a load delivers from a code (06 R151); the block types have no element codes. -/
def loadLane (et : Et) (code : Nat) : W32 :=
  match et with
  | .f32 | .i32 | .ui32 => BitVec.ofNat 32 code
  | .i16 => BitVec.ofInt 32 (sext 16 code)
  | .i8 => BitVec.ofInt 32 (sext 8 code)
  | .ui16 | .ui8 | .sb8 | .sb4 | .zbp => BitVec.ofNat 32 code
  | .bf16 | .fp16 | .e4m3 | .e5m2 =>
    let x := decEt et code
    if x.isNan then BitVec.ofNat 32 nan32 else BitVec.ofNat 32 (rne32 x).1

/-- The code a store writes from a lane, and its flags (06 R151). -/
def storeLane (et : Et) (x : W32) : Nat × FpFlags :=
  match et with
  | .f32 | .i32 | .ui32 | .sb8 | .sb4 | .zbp => (x.toNat, 0)
  | .i16 | .i8 => cvtEt (X.ofInt x.toInt) et .rne false
  | .ui16 | .ui8 => cvtEt (X.ofInt (x.toNat : Int)) et .rne false
  | .bf16 | .fp16 | .e4m3 | .e5m2 => cvtEt (dec32 x.toNat) et .rne false

/-- An element address that an access may use: mapped, aligned, and for a store no read-only view (06 R150). -/
def elemOk (esz : Nat) (store : Bool) (a : Int) : Bool :=
  0 ≤ a && a % (esz : Int) = 0 && (List.range esz).all fun i =>
    let b := a.toNat + i
    mapped b && !(store && viewAddr b)

/-- LOCAL_BOUNDS for the first failing element, then LENT outside hot class (06 R150). -/
def Core.elemFault (c : Core) (esz : Nat) (store : Bool) (as : List Int) : Option Flt :=
  match as.find? fun a => !elemOk esz store a with
  | some a => some { code := 0x07, faddr := BitVec.ofInt 64 a }
  | none =>
    if c.hot then none
    else (as.find? fun a => (List.range esz).any fun i => lentAddr (a.toNat + i)).map fun a => flt 0x06 a.toNat

/-- Some element lies in a lent range: 4 further ticks (06 R152). -/
def anyLent (esz : Nat) (as : List Int) : Bool := as.any fun a => lentAddr a.toNat || lentAddr (a.toNat + esz - 1)

def elemRanges (esz : Nat) (as : List Int) : Ranges := as.map fun a => (a.toNat, esz)

/-! ## Stream registers -/

def zBase (z : BitVec 512) : Nat := bits 21 0 z.toNat
def zEt (z : BitVec 512) : Nat := bits 27 24 z.toNat
def zDir (z : BitVec 512) : Bool := bit 28 z.toNat
def zCnt (z : BitVec 512) (d : Nat) : Nat := bits (79 + 16 * d) (64 + 16 * d) z.toNat
def zStr (z : BitVec 512) (d : Nat) : Int :=
  if d = 2 then sext 32 (bits 223 192 z.toNat) else sext 32 (bits (159 + 32 * d) (128 + 32 * d) z.toNat)
def zPos (z : BitVec 512) : Nat := bits 287 256 z.toNat
def zBound (z : BitVec 512) : Bool := bit 288 z.toNat

/-- Elements of the pattern (R155). -/
def zTotal (z : BitVec 512) : Nat := zCnt z 0 * zCnt z 1 * zCnt z 2

/-- Address of element n of the pattern, exact (R155). -/
def zAddrOf (z : BitVec 512) (n : Nat) : Int :=
  (zBase z : Int) + ((n % zCnt z 0 : Nat) : Int) * zStr z 0 + ((n / zCnt z 0 % zCnt z 1 : Nat) : Int) * zStr z 1
    + ((n / (zCnt z 0 * zCnt z 1) : Nat) : Int) * zStr z 2

/-- The state with POS replaced. -/
def zSetPos (z : BitVec 512) (p : Nat) : BitVec 512 :=
  (z &&& ~~~(BitVec.ofNat 512 ((2 ^ 32 - 1) * 2 ^ 256))) ||| BitVec.ofNat 512 (p % 2 ^ 32 * 2 ^ 256)

/-- POS after a naming (R157). -/
def zNext (z : BitVec 512) : BitVec 512 := zSetPos z (min (zPos z + 64) (zTotal z))

/-- QUEUE at a naming: unbound, the wrong direction, or the pattern is used up (R157); FADDR is 0. (DESIGN CHOICE,
log 46.) -/
def zFault (z : BitVec 512) (write : Bool) : Option Flt :=
  if !zBound z || zDir z != write || zPos z = zTotal z then some (flt 0x0F) else none

/-- The element type of a bound z; a reserved code cannot be bound (R156). -/
def zType (z : BitVec 512) : Et := (Et.ofCode (zEt z)).getD .f32

/-- The lanes and element addresses of the next run (R157). -/
def zRun (z : BitVec 512) : List (Nat × Int) :=
  ((List.range 64).filter fun l => zPos z + l < zTotal z).map fun l => (l, zAddrOf z (zPos z + l))

/-! ## Operands of VR words -/

/-- What reading the sources of a VR word gives: the lanes of each, the z states after the namings, the DV entries
popped, the pieces touched, and the first fault. -/
structure VRead where
  vals : List (List W32) := []
  z : Vector (BitVec 512) 8
  dv : Nat := 0
  regs : Ranges := []
  mem : Ranges := []
  fault : Option Flt := none
  lent : Bool := false

def vLanes (c : Core) (n : BitVec 4) : List W32 := (vget c.r.v n.toNat (.replicate 64 0)).toList

/-- One naming of a source (R136, R157); all faults of an earlier naming come before those of a later one. (DESIGN
CHOICE, log 46.) -/
def VRead.name (s : State) (r : VRead) (x : VSrc) : VRead :=
  match x with
  | .v n => { r with vals := r.vals ++ [vLanes s.core n], regs := r.regs ++ vRange n }
  | .dv =>
    let e := ((s.core.dq .dv).getD r.dv { val := 0, status := 0, faddr := 0 }).val.setWidth 32
    { r with vals := r.vals ++ [List.replicate 64 e], dv := r.dv + 1 }
  | .z n =>
    let z := vget r.z n.toNat 0
    let et := zType z
    let run := zRun z
    let esz := Machine.esz et.code
    let as := run.map (·.2)
    let f := (zFault z false).or (s.core.elemFault esz false as)
    let lane (l : Nat) : W32 := match run.find? fun p => p.1 = l with
      | some p => loadLane et (s.getLe p.2.toNat esz)
      | none => 0
    { r with
      vals := r.vals ++ [if f.isSome then List.replicate 64 0 else (List.range 64).map lane],
      z := vset r.z n.toNat (zNext z), regs := r.regs ++ zRange n,
      mem := r.mem ++ (if f.isSome then [] else elemRanges esz as), fault := r.fault.or f,
      lent := r.lent || anyLent esz as }

/-- The sources of a VR word in field order. -/
def readSrcs (s : State) (xs : List VSrc) : VRead := xs.foldl (VRead.name s) { z := s.core.r.z }

/-- Reads beyond two from one quarter of the vector file (02 R53). -/
def bankExtra (xs : List VSrc) : Nat :=
  let quarter (q : Nat) := (xs.filter fun x => match x with
    | .v n => n.toNat / 4 = q
    | _ => false).length
  (List.range 4).foldl (fun t q => t + (quarter q - 2)) 0

/-- The destination of a VR word: the actions that land, the z states after it, pieces and faults (R137, R157).
`mask` selects the lanes that receive a result. -/
structure VWrite where
  acts : List LAct := []
  z : Vector (BitVec 512) 8
  regs : Ranges := []
  /-- The z register whose state the naming reads. -/
  src : Ranges := []
  mem : Ranges := []
  fault : Option Flt := none
  fp : FpFlags := 0
  lent : Bool := false

def maskBit (m : W64) (l : Nat) : Bool := m.getLsbD l

/-- The results of a VR word go to their destination. -/
def writeDst (c : Core) (z0 : Vector (BitVec 512) 8) (d : VDst) (mask : W64) (val : List W32) : VWrite :=
  match d with
  | .v n => { acts := [.lanes n.toNat mask val], z := z0, regs := vRange n }
  | .z n =>
    let z := vget z0 n.toNat 0
    let et := zType z
    let esz := Machine.esz et.code
    let run := (zRun z).filter fun p => maskBit mask p.1
    let as := run.map (·.2)
    let outs := run.map fun p => (p.2, storeLane et (val.getD p.1 0))
    let items := outs.filterMap fun p =>
      if zAddr p.1.toNat then none
      else some { addr := p.1.toNat, data := leBytes esz p.2.1, mask := none : LItem }
    { acts := [.list items], z := vset z0 n.toNat (zNext z), regs := zRange n, src := zRange n,
      mem := if (zFault z true).isSome then [] else elemRanges esz as,
      fault := (zFault z true).or (c.elemFault esz true as), fp := orFlags (outs.map (·.2.2)),
      lent := anyLent esz as }

/-- The z states at issue are replaced at once (R157). -/
def setZ (z : Vector (BitVec 512) 8) (s : State) : State := s.onCore fun c => { c with r := { c.r with z := z } }

/-- DV entries are popped at issue (R136). -/
def popDv (n : Nat) (s : State) : State := if n = 0 then s else s.onCore fun c => c.dqDrop .dv n

/-- A VR word: sources in field order, `mask` for the lanes that receive a result, its latency at divisor 2, and the
results with their flags, lane by lane (R136, R137, 02 R53). -/
def vrWord (ctl : Ctl) (d : VDst) (xs : List VSrc) (k : BitVec 3) (mask : Core → W64) (l : Nat)
    (f : Core → List (List W32) → List W32 × List FpFlags) (s : State)
    (more : List LAct := []) (regs dst : Ranges := []) : Out :=
  let c := s.core
  let r := readSrcs s xs
  let m := mask c
  let res := f c r.vals
  let w := writeDst c r.z d m res.1
  let e := bankExtra xs
  let fl := orFlags (((List.range 64).filter (maskBit m)).map fun l => res.2.getD l 0)
  issue { st := .v, ctl := ctl, wait := (c.dq .dv).length < r.dv, regs := r.regs ++ w.src ++ kRange k ++ regs, dst := w.regs ++ dst,
          fault := r.fault.or w.fault, rd := r.mem, wr := w.mem, lat := c.lat .v (l + if r.lent || w.lent then 4 else 0) + e * c.sv.div,
          acts := w.acts ++ more, fp := fl ||| w.fp, extra := e } s
    fun s => setZ w.z (popDv r.dv s)

end Sys2Proof.Machine
end

