-- ==== Sys2Proof/Machine/Alu.lean ====
section
/-! DEFINITION. The integer instructions of the A stream: formats AR, AI and AL (04 R87 to R92). -/

namespace Sys2Proof.Machine

/-- A word with two scalar sources and a scalar result (R87, R88). -/
def aluWord (ctl : Ctl) (d a b : BitVec 6) (l : Nat) (f : W64 → W64 → W64) (s : State) : Out :=
  let c := s.core
  issue { st := .a, ctl := ctl, regs := c.sRange a ++ c.sRange b, dst := c.sRange d, lat := c.latA l,
          acts := c.sWrite d (f (c.sreg a) (c.sreg b)) } s

/-- A word with one scalar source, an immediate and a scalar result (R91). -/
def immWord (ctl : Ctl) (d a : BitVec 6) (l : Nat) (f : W64 → W64) (s : State) : Out :=
  let c := s.core
  issue { st := .a, ctl := ctl, regs := c.sRange a, dst := c.sRange d, lat := c.latA l,
          acts := c.sWrite d (f (c.sreg a)) } s

/-! ## Results (R88, R89) -/

def opMulhs (a b : W64) : W64 := BitVec.ofInt 64 ((a.toInt * b.toInt) / 2 ^ 64)
def opMulhu (a b : W64) : W64 := BitVec.ofNat 64 (a.toNat * b.toNat / 2 ^ 64)

/-- DIV truncates toward zero; −1 for a divisor 0 (R89). -/
def opDiv (a b : W64) : W64 := if b = 0 then -1 else BitVec.ofInt 64 (a.toInt.tdiv b.toInt)
def opDivu (a b : W64) : W64 := if b = 0 then -1 else BitVec.ofNat 64 (a.toNat / b.toNat)
/-- REM has the sign of A, or is zero (R89). -/
def opRem (a b : W64) : W64 := if b = 0 then a else BitVec.ofInt 64 (a.toInt.tmod b.toInt)
def opRemu (a b : W64) : W64 := if b = 0 then a else BitVec.ofNat 64 (a.toNat % b.toNat)

def opShl (a : W64) (n : Nat) : W64 := a <<< (n % 64)
def opShr (a : W64) (n : Nat) : W64 := a >>> (n % 64)
def opSar (a : W64) (n : Nat) : W64 := a.sshiftRight (n % 64)
def opMin (a b : W64) : W64 := if b.slt a then b else a
def opMax (a b : W64) : W64 := if a.slt b then b else a
def opMinu (a b : W64) : W64 := if b.ult a then b else a
def opMaxu (a b : W64) : W64 := if a.ult b then b else a

/-- Number of one bits. -/
def popCount (x : W64) : Nat := ((List.range 64).filter fun i => x.getLsbD i).length

/-- Number of leading zero bits, 64 for zero. -/
def leadZeros (x : W64) : Nat := if x = 0 then 64 else 63 - x.toNat.log2

/-- CLAMP (R88). -/
def opClamp (a b : W64) : W64 := if a.slt 0 || b.sle 0 then 0 else if b.sle a then b - 1 else a

/-! ## Format AR -/

def execAdd (c : Ctl) (d a b : BitVec 6) (s : State) : Out := aluWord c d a b 1 (· + ·) s
def execSub (c : Ctl) (d a b : BitVec 6) (s : State) : Out := aluWord c d a b 1 (· - ·) s
def execMul (c : Ctl) (d a b : BitVec 6) (s : State) : Out := aluWord c d a b 3 (· * ·) s
def execMulhs (c : Ctl) (d a b : BitVec 6) (s : State) : Out := aluWord c d a b 3 opMulhs s
def execMulhu (c : Ctl) (d a b : BitVec 6) (s : State) : Out := aluWord c d a b 3 opMulhu s
def execDiv (c : Ctl) (d a b : BitVec 6) (s : State) : Out := aluWord c d a b 20 opDiv s
def execDivu (c : Ctl) (d a b : BitVec 6) (s : State) : Out := aluWord c d a b 20 opDivu s
def execRem (c : Ctl) (d a b : BitVec 6) (s : State) : Out := aluWord c d a b 20 opRem s
def execRemu (c : Ctl) (d a b : BitVec 6) (s : State) : Out := aluWord c d a b 20 opRemu s
def execAnd (c : Ctl) (d a b : BitVec 6) (s : State) : Out := aluWord c d a b 1 (· &&& ·) s
def execOr (c : Ctl) (d a b : BitVec 6) (s : State) : Out := aluWord c d a b 1 (· ||| ·) s
def execXor (c : Ctl) (d a b : BitVec 6) (s : State) : Out := aluWord c d a b 1 (· ^^^ ·) s
def execAndn (c : Ctl) (d a b : BitVec 6) (s : State) : Out := aluWord c d a b 1 (fun x y => x &&& ~~~y) s
def execShl (c : Ctl) (d a b : BitVec 6) (s : State) : Out := aluWord c d a b 1 (fun x y => opShl x y.toNat) s
def execShr (c : Ctl) (d a b : BitVec 6) (s : State) : Out := aluWord c d a b 1 (fun x y => opShr x y.toNat) s
def execSar (c : Ctl) (d a b : BitVec 6) (s : State) : Out := aluWord c d a b 1 (fun x y => opSar x y.toNat) s
def execRol (c : Ctl) (d a b : BitVec 6) (s : State) : Out :=
  aluWord c d a b 1 (fun x y => x.rotateLeft (y.toNat % 64)) s
def execMin (c : Ctl) (d a b : BitVec 6) (s : State) : Out := aluWord c d a b 1 opMin s
def execMax (c : Ctl) (d a b : BitVec 6) (s : State) : Out := aluWord c d a b 1 opMax s
def execMinu (c : Ctl) (d a b : BitVec 6) (s : State) : Out := aluWord c d a b 1 opMinu s
def execMaxu (c : Ctl) (d a b : BitVec 6) (s : State) : Out := aluWord c d a b 1 opMaxu s
def execClz (c : Ctl) (d a : BitVec 6) (s : State) : Out := immWord c d a 1 (fun x => BitVec.ofNat 64 (leadZeros x)) s
def execPopc (c : Ctl) (d a : BitVec 6) (s : State) : Out := immWord c d a 1 (fun x => BitVec.ofNat 64 (popCount x)) s

/-- SEL chooses by a predicate (R90). -/
def execSel (ctl : Ctl) (d a b : BitVec 6) (p : BitVec 3) (s : State) : Out :=
  let c := s.core
  issue { st := .a, ctl := ctl, regs := c.sRange a ++ c.sRange b, preds := [p], dst := c.sRange d, lat := c.latA 1,
          acts := c.sWrite d (if c.preg p then c.sreg a else c.sreg b) } s

def execAddx (c : Ctl) (d a b : BitVec 6) (n : BitVec 6) (s : State) : Out :=
  aluWord c d a b 1 (fun x y => x + opShl y n.toNat) s
def execClamp (c : Ctl) (d a b : BitVec 6) (s : State) : Out := aluWord c d a b 1 opClamp s

/-! ## Formats AI and AL -/

def execAddi (c : Ctl) (d a : BitVec 6) (imm : BitVec 28) (s : State) : Out :=
  immWord c d a 1 (· + imm.signExtend 64) s
def execAndi (c : Ctl) (d a : BitVec 6) (imm : BitVec 28) (s : State) : Out :=
  immWord c d a 1 (· &&& imm.signExtend 64) s
def execOri (c : Ctl) (d a : BitVec 6) (imm : BitVec 28) (s : State) : Out :=
  immWord c d a 1 (· ||| imm.signExtend 64) s
def execXori (c : Ctl) (d a : BitVec 6) (imm : BitVec 28) (s : State) : Out :=
  immWord c d a 1 (· ^^^ imm.signExtend 64) s
def execShli (c : Ctl) (d a : BitVec 6) (n : BitVec 6) (s : State) : Out := immWord c d a 1 (opShl · n.toNat) s
def execShri (c : Ctl) (d a : BitVec 6) (n : BitVec 6) (s : State) : Out := immWord c d a 1 (opShr · n.toNat) s
def execSari (c : Ctl) (d a : BitVec 6) (n : BitVec 6) (s : State) : Out := immWord c d a 1 (opSar · n.toNat) s
def execMuli (c : Ctl) (d a : BitVec 6) (imm : BitVec 28) (s : State) : Out :=
  immWord c d a 3 (· * imm.signExtend 64) s

/-- LI (R92). -/
def execLi (ctl : Ctl) (d : BitVec 6) (imm : BitVec 34) (s : State) : Out :=
  let c := s.core
  issue { st := .a, ctl := ctl, dst := c.sRange d, lat := c.latA 1, acts := c.sWrite d (imm.signExtend 64) } s

/-- LIH keeps the low half of s[d] (R92). -/
def execLih (c : Ctl) (d : BitVec 6) (imm : BitVec 32) (s : State) : Out :=
  immWord c d d 1 (fun x => imm ++ x.setWidth 32) s

end Sys2Proof.Machine
end

