-- ==== Sys2Proof/WellFormed.lean ====
section
/-! DEFINITION. Which instruction terms are words of the architecture: the waits, signals and codes that R36
refuses, by name (02_words.md R20 to R29, R36; the field rules of each instruction's description). Device steps are
no words and meet every check. -/

namespace Sys2Proof

/-- Why a word raises ILLEGAL_WORD (R36). -/
inductive DecodeError where
  /-- R36 item 1. -/
  | unassigned
  /-- R36 item 2: WN without WQ, or SN without SQ. -/
  | badCount
  /-- R36 item 3. -/
  | badFifo
  /-- R36 item 4. -/
  | unusedField
  /-- R36 item 5. -/
  | reservedCode
  /-- The bits are no 64-bit word of a stream. -/
  | notAWord
  deriving DecidableEq, Repr

/-- FIFOs a stream may name in WQ (R22); 0 is none. -/
def mayPop (st : StreamId) (q : BitVec 4) : Bool :=
  match st with
  | .a => [0, 3, 5, 7].contains q
  | .m => [0, 1, 6, 8].contains q
  | .v => [0, 2, 4, 9].contains q

/-- FIFOs a stream may name in SQ (R22). -/
def mayPush (st : StreamId) (q : BitVec 4) : Bool :=
  match st with
  | .a => [0, 1, 2].contains q
  | .m => [0, 3, 4].contains q
  | .v => [0, 5, 6].contains q

/-- Items 2 and 3 of R36. -/
def ctlError (st : StreamId) (c : Ctl) : Option DecodeError :=
  if (c.wq = 0 && c.wn ≠ 0) || (c.sq = 0 && c.sn ≠ 0) then some .badCount
  else if mayPop st c.wq && mayPush st c.sq then none
  else some .badFifo

/-- The stream of a word and its wait and signal; `none` for ILL and for the steps of the device. -/
def Instr.ctl? : Instr → Option (StreamId × Ctl)
  | .add c .. | .sub c .. | .mul c .. | .mulhs c .. | .mulhu c .. | .div c .. | .divu c .. | .rem c ..
  | .remu c .. | .and c .. | .or c .. | .xor c .. | .andn c .. | .shl c .. | .shr c .. | .sar c .. | .rol c ..
  | .min c .. | .max c .. | .minu c .. | .maxu c .. | .clz c .. | .popc c .. | .sel c .. | .addx c .. | .clamp c ..
  | .addi c .. | .andi c .. | .ori c .. | .xori c .. | .shli c .. | .shri c .. | .sari c .. | .muli c ..
  | .li c .. | .lih c .. | .cmp c .. | .cmpi c .. | .plog c .. | .br c .. | .bp c .. | .jmp c .. | .call c ..
  | .jr c .. | .loop c .. | .hset c .. | .hget c .. | .hld c .. | .hst c .. | .hmov c .. | .hadv c .. | .hdim c ..
  | .ld8 c .. | .ld16 c .. | .ld32 c .. | .ld64 c .. | .lds8 c .. | .lds16 c .. | .lds32 c .. | .st8 c ..
  | .st16 c .. | .st32 c .. | .st64 c .. | .push c .. | .fmt c .. | .pop c .. | .bout c .. | .qcnt c ..
  | .rclaim c .. | .rfill c .. | .rwaitf c .. | .rfree c .. | .rset c .. | .rstat c .. | .bset c .. | .bexp c ..
  | .barr c .. | .bwait c .. | .atom c .. | .copy c .. | .cred c .. | .catom c .. | .cclose c .. | .cwait c ..
  | .xcfg c .. | .cpend c .. | .cpendCmd c .. | .obput c .. | .obwait c .. | .obadd c .. | .obbar c ..
  | .obseq c .. | .obseqOwn c .. | .frel c | .facq c | .obget c .. | .csrr c .. | .csrw c .. | .csrs c ..
  | .csrc c .. | .eret c | .eretImg c | .yield c | .yieldKill c | .psave c .. | .ppull c .. | .pdrop c ..
  | .pstat c .. | .clkdiv c .. | .phase c | .tlbinv c .. | .tlbinvAll c | .launch c .. | .rdtick c .. | .rdiss c ..
  | .lsave c | .lrest c => some (.a, c)
  | .nop st c | .join st c | .trap st c .. | .brk st c | .tfence st c => some (st, c)
  | .tld c .. | .tldb c .. | .mma c .. | .rsum c .. | .csum c .. | .zpc c .. | .drain c .. | .aclr c .. | .amov c ..
  | .tzero c .. | .mli c .. | .maddi c .. | .mpop c .. | .mloop c .. | .mbq c .. | .mjmp c .. | .msatc c .. =>
    some (.m, c)
  | .vadd c .. | .vsub c .. | .vmul c .. | .vfma c .. | .vmin c .. | .vmax c .. | .vabs c .. | .vneg c ..
  | .vdiv c .. | .vsqrt c .. | .vrsq c .. | .vrcp c .. | .vexp2 c .. | .vlog2 c .. | .vexp c .. | .vand c ..
  | .vor c .. | .vxor c .. | .vshl c .. | .vshr c .. | .vsar c .. | .vcvt c .. | .vcmp c .. | .vsel c .. | .vmov c ..
  | .vbrd c .. | .viota c .. | .vperm c .. | .vcomp c .. | .vfirst c .. | .klog c .. | .vrsum c .. | .vrmax c ..
  | .vrmin c .. | .vramax c .. | .vscan c .. | .vscanx c .. | .vsort c .. | .vsortk c .. | .vmerge c .. | .vrng c ..
  | .vld c .. | .vst c .. | .vldx c .. | .vstx c .. | .qst c .. | .qld c .. | .zbind c .. | .zrst c .. | .xli c ..
  | .xadd c .. | .xaddi c .. | .xmul c .. | .xpop c .. | .xpush c .. | .xget c .. | .xfadd c .. | .xfmul c ..
  | .vloop c .. | .vbq c .. | .vbr c .. | .vjmp c .. | .vbrf c .. => some (.v, c)
  | .ill .. => none
  | .fetch .. | .land | .start .. | .read .. | .merge .. | .write .. | .atomic .. | .deliver .. | .complete ..
  | .rfHook .. | .baHook .. | .remoteAtom .. | .remoteAtomReply .. | .timedDeadline | .transmit | .ergPut ..
  | .ergAdd .. | .ergBar .. | .shootdown .. | .clock .. | .preempt .. | .config .. | .jobend .. | .barrierWaitEnd
  | .replicaRepair .. | .round | .jobStart .. | .jobResume .. | .sliceExpiry | .watchdog | .trapDelivery
  | .softError .. | .memorySoftError .. | .pull .. | .tricklePull | .blockDrain .. | .hostTailWrite ..
  | .queueEnable .. | .doorbell .. | .eventRingEnable .. | .tenantCreate .. | .tenantDisable .. | .apertureRead ..
  | .apertureWrite .. | .checkpointFull | .checkpointIncremental | .checkpointEnd .. | .registerWrite ..
  | .powerSample .. | .throttlePeriod .. | .clockHoldEnd .. | .phaseTimeout .. | .thermalTrip .. | .park ..
  | .unpark .. | .flitReceive .. | .keyFlit .. | .keyHold .. | .linkDown .. | .reset | .firmwareVerify ..
  | .hbmTraining .. | .linkTraining .. | .ergCalibration .. | .capabilityPublish | .routineImageCheck ..
  | .getMeasurements .. | .referenceTick | .replicaSoftError .. | .thermalTripRelease .. | .flowRestored
  | .keylow .. | .spdmKeyExchange .. | .apertureAtomic .. | .launchSlotWrite .. | .hostWriteOneToClear .. => none

def isFloat : VTy → Bool
  | .f => true
  | _ => false

/-- With AL the compared fields are zero (R25). -/
def alOk (cc : Cond) (zero : Bool) : Bool := cc != .al || zero

/-- Operations of an atomic: fadd is 32-bit only, and c is used by cas alone (07 R175, 09 R237). -/
def atomOk (op : AtomOp) (w64 : Bool) (cx : BitVec 6) : Bool :=
  !(op = .fadd && w64) && (op = .cas || cx = 0)

/-- tq, p, the flags CL [0], REL [1], TM [2], EF [3], RF [4], BA [5], and aux (09 R217, R220; 02 R24, R36). -/
def copyOk (p : BitVec 6) (tq : BitVec 4) (flags : BitVec 6) (aux : BitVec 8) : Bool :=
  decide (p.toNat ≤ 60) && (if flags.getLsbD 0 then [0, 7, 8, 9].contains tq else tq = 0)
    && !aux.getLsbD 7 && (flags.getLsbD 4 || aux.extractLsb' 0 4 = 0) && (flags.getLsbD 5 || aux.extractLsb' 4 3 = 0)

/-- The conditions on the fields of each word beyond what the types say (R36 items 4 and 5). -/
def fieldsOk : Instr → Bool
  | .cmp _ cc _ a b => alOk cc (a = 0 && b = 0)
  | .cmpi _ cc _ a imm => alOk cc (a = 0 && imm = 0)
  | .plog _ op .. => op != .not
  | .br _ cc a b _ => alOk cc (a = 0 && b = 0)
  | .loop _ a _ => a != 0
  | .hdim _ _ _ _ b dim => dim != 0 || b = 0
  | .push _ _ q => q = .dm || q = .dv
  | .pop _ _ q => q = .ya || q = .aq
  | .bout _ _ q => q = .bm || q = .bv
  | .atom _ op w64 _ _ cx => atomOk op w64 cx
  | .catom _ op w64 _ _ _ _ cx => atomOk op w64 cx
  | .copy _ _ _ p _ tq flags aux => copyOk p tq flags aux
  | .cred _ _ _ p _ tq flags aux => copyOk p tq flags aux
  | .cclose _ tq => [0, 7, 8, 9].contains tq
  | .cwait _ n => decide (n.toNat ≤ 16)
  | .obwait _ cc .. => cc != .al
  | .psave _ _ n => decide (1 ≤ n.toNat ∧ n.toNat ≤ 512)
  | .ppull _ _ n => decide (1 ≤ n.toNat ∧ n.toNat ≤ 512)
  | .pdrop _ _ n => decide (1 ≤ n.toNat ∧ n.toNat ≤ 512)
  | .clkdiv _ _ n => decide (1 ≤ n.toNat ∧ n.toNat ≤ 8)
  | .vabs _ _ _ _ ty => ty != .u
  | .vneg _ _ _ _ ty => ty != .u
  | .vshl _ _ _ _ _ ty => ty != .f
  | .vshr _ _ _ _ _ ty => ty != .f
  | .vsar _ _ _ _ _ ty => ty != .f
  | .vcvt _ _ _ x _ _ _ rm _ => rm = .sr || x = .v 0
  | .vcmp _ cc .. => cc = .eq || cc = .ne || cc = .lt || cc = .ge
  | .viota _ _ _ ty => ty != .f
  | .vfirst _ _ _ _ _ ty => ty != .f
  | .klog _ op _ _ kb => op != .not || kb = 0
  | .vramax _ _ _ _ ty => ty != .u
  | .vrng _ _ _ _ _ ty => ty != .i
  | .qst _ _ _ _ en .. => en != 0
  | .vbr _ cc a b _ => alOk cc (a = 0 && b = 0)
  | _ => true

/-- The checks of R36 on an instruction term: the first that fails. -/
def wfError (i : Instr) : Option DecodeError :=
  match i.ctl? with
  | some (st, c) => (ctlError st c).or (if fieldsOk i then none else some .reservedCode)
  | none => none

/-- A word of the architecture, or a step of the device. -/
def wellFormed (i : Instr) : Bool := (wfError i).isNone

end Sys2Proof
end

