-- ==== Sys2Proof/Decode.lean ====
section
/-! DEFINITION. The decoder, one map per stream, total on any 64 bits and refusing by name (02_words.md R18, R24 to
R36), and after it the encoder, written from the same tables. -/

namespace Sys2Proof

/-! ## Codes of the fields -/
/-- Condition codes (R25). -/
def Cond.code : Cond → Nat
  | .eq => 0 | .ne => 1 | .lt => 2 | .ge => 3 | .ltu => 4 | .geu => 5 | .al => 6

/-- The inverse of `Cond.code`; reserved codes name nothing. -/
def Cond.ofCode : Nat → Option Cond
  | 0 => some .eq | 1 => some .ne | 2 => some .lt | 3 => some .ge | 4 => some .ltu | 5 => some .geu
  | 6 => some .al
  | _ => none

/-- PLOG and KLOG operations (R95, R142). -/
def LogOp.code : LogOp → Nat
  | .and => 0 | .or => 1 | .xor => 2 | .andn => 3 | .not => 4

/-- The inverse of `LogOp.code`; reserved codes name nothing. -/
def LogOp.ofCode : Nat → Option LogOp
  | 0 => some .and | 1 => some .or | 2 => some .xor | 3 => some .andn | 4 => some .not
  | _ => none

/-- Handle fields (R102). -/
def HField.code : HField → Nat
  | .addr => 0 | .space => 1 | .ext0 => 2 | .ext1 => 3 | .ext2 => 4 | .ext3 => 5 | .stride1 => 6
  | .stride2 => 7 | .stride3 => 8 | .et => 9 | .win => 10 | .layout => 11 | .word0 => 16 | .word1 => 17
  | .word2 => 18 | .word3 => 19

/-- The inverse of `HField.code`; reserved codes name nothing. -/
def HField.ofCode : Nat → Option HField
  | 0 => some .addr | 1 => some .space | 2 => some .ext0 | 3 => some .ext1 | 4 => some .ext2 | 5 => some .ext3
  | 6 => some .stride1 | 7 => some .stride2 | 8 => some .stride3 | 9 => some .et | 10 => some .win
  | 11 => some .layout | 16 => some .word0 | 17 => some .word1 | 18 => some .word2 | 19 => some .word3
  | _ => none

/-- Data queue ids (R30). -/
def DqId.code : DqId → Nat
  | .fq => 0 | .dm => 1 | .dv => 2 | .bm => 3 | .bv => 4 | .ya => 5 | .aq => 6

/-- The inverse of `DqId.code`; reserved codes name nothing. -/
def DqId.ofCode : Nat → Option DqId
  | 0 => some .fq | 1 => some .dm | 2 => some .dv | 3 => some .bm | 4 => some .bv | 5 => some .ya
  | 6 => some .aq
  | _ => none

/-- RSTAT fields (R258). -/
def RField.code : RField → Nat
  | .filled => 0 | .free => 1 | .opened => 2 | .head => 3 | .tail => 4 | .claimed => 5

/-- The inverse of `RField.code`; reserved codes name nothing. -/
def RField.ofCode : Nat → Option RField
  | 0 => some .filled | 1 => some .free | 2 => some .opened | 3 => some .head | 4 => some .tail
  | 5 => some .claimed
  | _ => none

/-- Atomic operations (R175). -/
def AtomOp.code : AtomOp → Nat
  | .swap => 0 | .add => 1 | .and => 2 | .or => 3 | .xor => 4 | .min => 5 | .max => 6 | .minu => 7 | .maxu => 8
  | .cas => 9 | .fadd => 10

/-- The inverse of `AtomOp.code`; reserved codes name nothing. -/
def AtomOp.ofCode : Nat → Option AtomOp
  | 0 => some .swap | 1 => some .add | 2 => some .and | 3 => some .or | 4 => some .xor | 5 => some .min
  | 6 => some .max | 7 => some .minu | 8 => some .maxu | 9 => some .cas | 10 => some .fadd
  | _ => none

/-- CSR numbers (R330). -/
def Csr.code : Csr → Nat
  | .status => 0 | .cause => 1 | .epca => 2 | .epcm => 3 | .epcv => 4 | .faddr => 5 | .finfo => 6
  | .codea => 0x10 | .codem => 0x11 | .codev => 0x12 | .heapbase => 0x20 | .heaplim => 0x21 | .heapoff => 0x22
  | .ptroot => 0x23 | .wintab => 0x24 | .winlen => 0x25 | .dirtymap => 0x26 | .seed => 0x30 | .streamid => 0x31
  | .presmode => 0x40 | .imgdesc => 0x41 | .cls => 0x50 | .divs => 0x51 | .throttle => 0x52 | .tick => 0x60
  | .issued => 0x61 | .slice => 0x62 | .breach => 0x63 | .satflags => 0x70 | .fpflags => 0x71 | .tenant => 0x80
  | .ctxid => 0x81 | .jobidx => 0x82 | .trapvec => 0x90 | .savevec => 0x91 | .debug => 0xA0 | .replay => 0xB0

/-- The inverse of `Csr.code`; reserved codes name nothing. -/
def Csr.ofCode : Nat → Option Csr
  | 0 => some .status | 1 => some .cause | 2 => some .epca | 3 => some .epcm | 4 => some .epcv
  | 5 => some .faddr | 6 => some .finfo | 0x10 => some .codea | 0x11 => some .codem | 0x12 => some .codev
  | 0x20 => some .heapbase | 0x21 => some .heaplim | 0x22 => some .heapoff | 0x23 => some .ptroot
  | 0x24 => some .wintab | 0x25 => some .winlen | 0x26 => some .dirtymap | 0x30 => some .seed
  | 0x31 => some .streamid | 0x40 => some .presmode | 0x41 => some .imgdesc | 0x50 => some .cls
  | 0x51 => some .divs | 0x52 => some .throttle | 0x60 => some .tick | 0x61 => some .issued
  | 0x62 => some .slice | 0x63 => some .breach | 0x70 => some .satflags | 0x71 => some .fpflags
  | 0x80 => some .tenant | 0x81 => some .ctxid | 0x82 => some .jobidx | 0x90 => some .trapvec
  | 0x91 => some .savevec | 0xA0 => some .debug | 0xB0 => some .replay
  | _ => none

/-- CLKDIV engines (R318). -/
def Eng.code : Eng → Nat
  | .a => 0 | .m => 1 | .v => 2 | .c => 3

/-- The inverse of `Eng.code`; reserved codes name nothing. -/
def Eng.ofCode : Nat → Option Eng
  | 0 => some .a | 1 => some .m | 2 => some .v | 3 => some .c
  | _ => none

/-- Vector types (R27). -/
def VTy.code : VTy → Nat
  | .f => 0 | .i => 1 | .u => 2

/-- The inverse of `VTy.code`; reserved codes name nothing. -/
def VTy.ofCode : Nat → Option VTy
  | 0 => some .f | 1 => some .i | 2 => some .u
  | _ => none

/-- Element types of a VM word (R28). -/
def MemTy.code : MemTy → Nat
  | .f32 => 0 | .i32 => 1 | .ui32 => 2 | .bf16 => 3 | .fp16 => 4 | .i16 => 5 | .ui16 => 6 | .i8 => 7
  | .ui8 => 8 | .e4m3 => 9 | .e5m2 => 10

/-- The inverse of `MemTy.code`; reserved codes name nothing. -/
def MemTy.ofCode : Nat → Option MemTy
  | 0 => some .f32 | 1 => some .i32 | 2 => some .ui32 | 3 => some .bf16 | 4 => some .fp16 | 5 => some .i16
  | 6 => some .ui16 | 7 => some .i8 | 8 => some .ui8 | 9 => some .e4m3 | 10 => some .e5m2
  | _ => none

/-- Full rounding-mode codes (R66). -/
def RmFull.code : RmFull → Nat
  | .rne => 0 | .rtz => 1 | .rdn => 2 | .rup => 3 | .sr => 4

/-- The inverse of `RmFull.code`; reserved codes name nothing. -/
def RmFull.ofCode : Nat → Option RmFull
  | 0 => some .rne | 1 => some .rtz | 2 => some .rdn | 3 => some .rup | 4 => some .sr
  | _ => none

/-- Short rounding-mode codes (R66). -/
def RmShort.code : RmShort → Nat
  | .rne => 0 | .rtz => 1 | .sr => 2

/-- The inverse of `RmShort.code`; reserved codes name nothing. -/
def RmShort.ofCode : Nat → Option RmShort
  | 0 => some .rne | 1 => some .rtz | 2 => some .sr
  | _ => none

/-- Operand codes of a VR word (R27). -/
def VSrc.code : VSrc → Nat
  | .v n => n.toNat
  | .z n => 16 + n.toNat
  | .dv => 24

/-- The inverse of `VSrc.code`. -/
def VSrc.ofCode (k : Nat) : Option VSrc :=
  if k < 16 then some (.v (BitVec.ofNat 4 k)) else if k < 24 then some (.z (BitVec.ofNat 3 (k - 16)))
  else if k = 24 then some .dv else none

/-- Destination codes of a VR word: code 24 is illegal (R27). -/
def VDst.code : VDst → Nat
  | .v n => n.toNat
  | .z n => 16 + n.toNat

/-- The inverse of `VDst.code`. -/
def VDst.ofCode (k : Nat) : Option VDst :=
  if k < 16 then some (.v (BitVec.ofNat 4 k)) else if k < 24 then some (.z (BitVec.ofNat 3 (k - 16))) else none

/-! ## The operand formats (R24, R26, R27) -/

/-- Format AR: the operand bits from their fields. -/
def packAR (d : BitVec 6) (a : BitVec 6) (b : BitVec 6) (c : BitVec 6) (fn : BitVec 16) :
    BitVec 40 := d ++ a ++ b ++ c ++ fn
def arD (x : BitVec 40) : BitVec 6 := x.extractLsb' 34 6
def arA (x : BitVec 40) : BitVec 6 := x.extractLsb' 28 6
def arB (x : BitVec 40) : BitVec 6 := x.extractLsb' 22 6
def arC (x : BitVec 40) : BitVec 6 := x.extractLsb' 16 6
def arFn (x : BitVec 40) : BitVec 16 := x.extractLsb' 0 16

/-- Format AI: the operand bits from their fields. -/
def packAI (d : BitVec 6) (a : BitVec 6) (imm : BitVec 28) :
    BitVec 40 := d ++ a ++ imm
def aiD (x : BitVec 40) : BitVec 6 := x.extractLsb' 34 6
def aiA (x : BitVec 40) : BitVec 6 := x.extractLsb' 28 6
def aiImm (x : BitVec 40) : BitVec 28 := x.extractLsb' 0 28

/-- Format AL: the operand bits from their fields. -/
def packAL (d : BitVec 6) (imm : BitVec 34) :
    BitVec 40 := d ++ imm
def alD (x : BitVec 40) : BitVec 6 := x.extractLsb' 34 6
def alImm (x : BitVec 40) : BitVec 34 := x.extractLsb' 0 34

/-- Format AB: the operand bits from their fields. -/
def packAB (a : BitVec 6) (b : BitVec 6) (cc : BitVec 4) (off : BitVec 24) :
    BitVec 40 := a ++ b ++ cc ++ off
def abA (x : BitVec 40) : BitVec 6 := x.extractLsb' 34 6
def abB (x : BitVec 40) : BitVec 6 := x.extractLsb' 28 6
def abCc (x : BitVec 40) : BitVec 4 := x.extractLsb' 24 4
def abOff (x : BitVec 40) : BitVec 24 := x.extractLsb' 0 24

/-- Format AH: the operand bits from their fields. -/
def packAH (h : BitVec 4) (g : BitVec 4) (a : BitVec 6) (b : BitVec 6) (fld : BitVec 8) (z : BitVec 12) :
    BitVec 40 := h ++ g ++ a ++ b ++ fld ++ z
def ahH (x : BitVec 40) : BitVec 4 := x.extractLsb' 36 4
def ahG (x : BitVec 40) : BitVec 4 := x.extractLsb' 32 4
def ahA (x : BitVec 40) : BitVec 6 := x.extractLsb' 26 6
def ahB (x : BitVec 40) : BitVec 6 := x.extractLsb' 20 6
def ahFld (x : BitVec 40) : BitVec 8 := x.extractLsb' 12 8
def ahZ (x : BitVec 40) : BitVec 12 := x.extractLsb' 0 12

/-- Format AC: the operand bits from their fields. -/
def packAC (hd : BitVec 4) (hs : BitVec 4) (p : BitVec 6) (xf : BitVec 8) (tq : BitVec 4) (flags : BitVec 6) (aux : BitVec 8) :
    BitVec 40 := hd ++ hs ++ p ++ xf ++ tq ++ flags ++ aux
def acHd (x : BitVec 40) : BitVec 4 := x.extractLsb' 36 4
def acHs (x : BitVec 40) : BitVec 4 := x.extractLsb' 32 4
def acP (x : BitVec 40) : BitVec 6 := x.extractLsb' 26 6
def acXf (x : BitVec 40) : BitVec 8 := x.extractLsb' 18 8
def acTq (x : BitVec 40) : BitVec 4 := x.extractLsb' 14 4
def acFlags (x : BitVec 40) : BitVec 6 := x.extractLsb' 8 6
def acAux (x : BitVec 40) : BitVec 8 := x.extractLsb' 0 8

/-- Format AS: the operand bits from their fields. -/
def packAS (d : BitVec 6) (a : BitVec 6) (csr : BitVec 12) (imm : BitVec 16) :
    BitVec 40 := d ++ a ++ csr ++ imm
def asD (x : BitVec 40) : BitVec 6 := x.extractLsb' 34 6
def asA (x : BitVec 40) : BitVec 6 := x.extractLsb' 28 6
def asCsr (x : BitVec 40) : BitVec 12 := x.extractLsb' 16 12
def asImm (x : BitVec 40) : BitVec 16 := x.extractLsb' 0 16

/-- Format CO: the operand bits from their fields. -/
def packCO (z : BitVec 24) (imm : BitVec 16) :
    BitVec 40 := z ++ imm
def coZ (x : BitVec 40) : BitVec 24 := x.extractLsb' 16 24
def coImm (x : BitVec 40) : BitVec 16 := x.extractLsb' 0 16

/-- Format MT: the operand bits from their fields. -/
def packMT (a : BitVec 3) (t1 : BitVec 3) (t2 : BitVec 3) (m : BitVec 3) (m2 : BitVec 3) (z : BitVec 5) (imm : BitVec 20) :
    BitVec 40 := a ++ t1 ++ t2 ++ m ++ m2 ++ z ++ imm
def mtA (x : BitVec 40) : BitVec 3 := x.extractLsb' 37 3
def mtT1 (x : BitVec 40) : BitVec 3 := x.extractLsb' 34 3
def mtT2 (x : BitVec 40) : BitVec 3 := x.extractLsb' 31 3
def mtM (x : BitVec 40) : BitVec 3 := x.extractLsb' 28 3
def mtM2 (x : BitVec 40) : BitVec 3 := x.extractLsb' 25 3
def mtZ (x : BitVec 40) : BitVec 5 := x.extractLsb' 20 5
def mtImm (x : BitVec 40) : BitVec 20 := x.extractLsb' 0 20

/-- Format MC: the operand bits from their fields. -/
def packMC (m : BitVec 3) (z : BitVec 5) (imm : BitVec 32) :
    BitVec 40 := m ++ z ++ imm
def mcM (x : BitVec 40) : BitVec 3 := x.extractLsb' 37 3
def mcZ (x : BitVec 40) : BitVec 5 := x.extractLsb' 32 5
def mcImm (x : BitVec 40) : BitVec 32 := x.extractLsb' 0 32

/-- Format MB: the operand bits from their fields. -/
def packMB (m : BitVec 3) (z : BitVec 13) (off : BitVec 24) :
    BitVec 40 := m ++ z ++ off
def mbM (x : BitVec 40) : BitVec 3 := x.extractLsb' 37 3
def mbZ (x : BitVec 40) : BitVec 13 := x.extractLsb' 24 13
def mbOff (x : BitVec 40) : BitVec 24 := x.extractLsb' 0 24

/-- Format VR: the operand bits from their fields. -/
def packVR (d : BitVec 5) (a : BitVec 5) (b : BitVec 5) (c : BitVec 5) (k : BitVec 3) (ty : BitVec 2) (fn : BitVec 15) :
    BitVec 40 := d ++ a ++ b ++ c ++ k ++ ty ++ fn
def vrD (x : BitVec 40) : BitVec 5 := x.extractLsb' 35 5
def vrA (x : BitVec 40) : BitVec 5 := x.extractLsb' 30 5
def vrB (x : BitVec 40) : BitVec 5 := x.extractLsb' 25 5
def vrC (x : BitVec 40) : BitVec 5 := x.extractLsb' 20 5
def vrK (x : BitVec 40) : BitVec 3 := x.extractLsb' 17 3
def vrTy (x : BitVec 40) : BitVec 2 := x.extractLsb' 15 2
def vrFn (x : BitVec 40) : BitVec 15 := x.extractLsb' 0 15

/-- Format VX: the operand bits from their fields. -/
def packVX (d : BitVec 4) (a : BitVec 4) (imm : BitVec 32) :
    BitVec 40 := d ++ a ++ imm
def vxD (x : BitVec 40) : BitVec 4 := x.extractLsb' 36 4
def vxA (x : BitVec 40) : BitVec 4 := x.extractLsb' 32 4
def vxImm (x : BitVec 40) : BitVec 32 := x.extractLsb' 0 32

/-- Format VM: the operand bits from their fields. -/
def packVM (v : BitVec 5) (x : BitVec 4) (et : BitVec 4) (k : BitVec 3) (imm : BitVec 24) :
    BitVec 40 := v ++ x ++ et ++ k ++ imm
def vmV (x : BitVec 40) : BitVec 5 := x.extractLsb' 35 5
def vmX (x : BitVec 40) : BitVec 4 := x.extractLsb' 31 4
def vmEt (x : BitVec 40) : BitVec 4 := x.extractLsb' 27 4
def vmK (x : BitVec 40) : BitVec 3 := x.extractLsb' 24 3
def vmImm (x : BitVec 40) : BitVec 24 := x.extractLsb' 0 24

/-- Format VQ: the operand bits from their fields. -/
def packVQ (v : BitVec 4) (x : BitVec 4) (xr : BitVec 4) (en : BitVec 8) (wc : BitVec 1) (rm : BitVec 2) (had : BitVec 2) (z : BitVec 15) :
    BitVec 40 := v ++ x ++ xr ++ en ++ wc ++ rm ++ had ++ z
def vqV (x : BitVec 40) : BitVec 4 := x.extractLsb' 36 4
def vqX (x : BitVec 40) : BitVec 4 := x.extractLsb' 32 4
def vqXr (x : BitVec 40) : BitVec 4 := x.extractLsb' 28 4
def vqEn (x : BitVec 40) : BitVec 8 := x.extractLsb' 20 8
def vqWc (x : BitVec 40) : BitVec 1 := x.extractLsb' 19 1
def vqRm (x : BitVec 40) : BitVec 2 := x.extractLsb' 17 2
def vqHad (x : BitVec 40) : BitVec 2 := x.extractLsb' 15 2
def vqZ (x : BitVec 40) : BitVec 15 := x.extractLsb' 0 15

/-- Format VB: the operand bits from their fields. -/
def packVB (a : BitVec 4) (b : BitVec 4) (cc : BitVec 4) (z : BitVec 4) (off : BitVec 24) :
    BitVec 40 := a ++ b ++ cc ++ z ++ off
def vbA (x : BitVec 40) : BitVec 4 := x.extractLsb' 36 4
def vbB (x : BitVec 40) : BitVec 4 := x.extractLsb' 32 4
def vbCc (x : BitVec 40) : BitVec 4 := x.extractLsb' 28 4
def vbZ (x : BitVec 40) : BitVec 4 := x.extractLsb' 24 4
def vbOff (x : BitVec 40) : BitVec 24 := x.extractLsb' 0 24

/-! ## The decoder -/

/-- An instruction, if its unused fields are zero (R29). -/
def need (b : Bool) (i : Instr) : Except DecodeError Instr := if b then .ok i else .error .unusedField

/-- A coded field: a reserved code is refused. -/
def opt {α : Type} (o : Option α) (f : α → Except DecodeError Instr) : Except DecodeError Instr :=
  match o with
  | some x => f x
  | none => .error .reservedCode

/-- A field whose value fits its low `n` bits. -/
def fits {w : Nat} (n : Nat) (x : BitVec w) : Bool := (x.setWidth n).setWidth w = x

/-- A destination pair names v0, v2, …, v14 (06 R137). -/
def pairCode (x : BitVec 5) : Bool := !x.getLsbD 0 && !x.getLsbD 4

/-- The A-stream map (R31, R32). -/
def decodeA (op : Nat) (c : Ctl) (y : BitVec 40) : Except DecodeError Instr :=
  match op with
  | 0x00 => need ((arC y) = 0 && (arFn y) = 0) (.add c (arD y) (arA y) (arB y))
  | 0x01 => need ((arC y) = 0 && (arFn y) = 0) (.sub c (arD y) (arA y) (arB y))
  | 0x02 => need ((arC y) = 0 && (arFn y) = 0) (.mul c (arD y) (arA y) (arB y))
  | 0x03 => need ((arC y) = 0 && (arFn y) = 0) (.mulhs c (arD y) (arA y) (arB y))
  | 0x04 => need ((arC y) = 0 && (arFn y) = 0) (.mulhu c (arD y) (arA y) (arB y))
  | 0x05 => need ((arC y) = 0 && (arFn y) = 0) (.div c (arD y) (arA y) (arB y))
  | 0x06 => need ((arC y) = 0 && (arFn y) = 0) (.divu c (arD y) (arA y) (arB y))
  | 0x07 => need ((arC y) = 0 && (arFn y) = 0) (.rem c (arD y) (arA y) (arB y))
  | 0x08 => need ((arC y) = 0 && (arFn y) = 0) (.remu c (arD y) (arA y) (arB y))
  | 0x09 => need ((arC y) = 0 && (arFn y) = 0) (.and c (arD y) (arA y) (arB y))
  | 0x0A => need ((arC y) = 0 && (arFn y) = 0) (.or c (arD y) (arA y) (arB y))
  | 0x0B => need ((arC y) = 0 && (arFn y) = 0) (.xor c (arD y) (arA y) (arB y))
  | 0x0C => need ((arC y) = 0 && (arFn y) = 0) (.andn c (arD y) (arA y) (arB y))
  | 0x0D => need ((arC y) = 0 && (arFn y) = 0) (.shl c (arD y) (arA y) (arB y))
  | 0x0E => need ((arC y) = 0 && (arFn y) = 0) (.shr c (arD y) (arA y) (arB y))
  | 0x0F => need ((arC y) = 0 && (arFn y) = 0) (.sar c (arD y) (arA y) (arB y))
  | 0x10 => need ((arC y) = 0 && (arFn y) = 0) (.rol c (arD y) (arA y) (arB y))
  | 0x11 => need ((arC y) = 0 && (arFn y) = 0) (.min c (arD y) (arA y) (arB y))
  | 0x12 => need ((arC y) = 0 && (arFn y) = 0) (.max c (arD y) (arA y) (arB y))
  | 0x13 => need ((arC y) = 0 && (arFn y) = 0) (.minu c (arD y) (arA y) (arB y))
  | 0x14 => need ((arC y) = 0 && (arFn y) = 0) (.maxu c (arD y) (arA y) (arB y))
  | 0x15 => need ((arB y) = 0 && (arC y) = 0 && (arFn y) = 0) (.clz c (arD y) (arA y))
  | 0x16 => need ((arB y) = 0 && (arC y) = 0 && (arFn y) = 0) (.popc c (arD y) (arA y))
  | 0x17 => need (fits 3 (arC y) && (arFn y) = 0) (.sel c (arD y) (arA y) (arB y) ((arC y).setWidth 3))
  | 0x18 => need ((arFn y) = 0) (.addx c (arD y) (arA y) (arB y) (arC y))
  | 0x19 => need ((arC y) = 0 && (arFn y) = 0) (.clamp c (arD y) (arA y) (arB y))
  | 0x20 => need (true) (.addi c (aiD y) (aiA y) (aiImm y))
  | 0x21 => need (true) (.andi c (aiD y) (aiA y) (aiImm y))
  | 0x22 => need (true) (.ori c (aiD y) (aiA y) (aiImm y))
  | 0x23 => need (true) (.xori c (aiD y) (aiA y) (aiImm y))
  | 0x24 => need (fits 6 (aiImm y)) (.shli c (aiD y) (aiA y) ((aiImm y).setWidth 6))
  | 0x25 => need (fits 6 (aiImm y)) (.shri c (aiD y) (aiA y) ((aiImm y).setWidth 6))
  | 0x26 => need (fits 6 (aiImm y)) (.sari c (aiD y) (aiA y) ((aiImm y).setWidth 6))
  | 0x27 => need (true) (.muli c (aiD y) (aiA y) (aiImm y))
  | 0x28 => need (true) (.li c (alD y) (alImm y))
  | 0x29 => need (fits 32 (alImm y)) (.lih c (alD y) ((alImm y).setWidth 32))
  | 0x2C => opt (Cond.ofCode (arFn y).toNat) fun cc => need (fits 3 (arD y) && (arC y) = 0) (.cmp c cc ((arD
      y).setWidth 3) (arA y) (arB y))
  | 0x2D => opt (Cond.ofCode ((aiImm y).extractLsb' 24 4).toNat) fun cc => need (fits 3 (aiD y)) (.cmpi c cc ((aiD
      y).setWidth 3) (aiA y) ((aiImm y).extractLsb' 0 24))
  | 0x2E => opt (LogOp.ofCode (arFn y).toNat) fun op => need (fits 3 (arD y) && fits 3 (arA y) && fits 3 (arB y) &&
      (arC y) = 0) (.plog c op ((arD y).setWidth 3) ((arA y).setWidth 3) ((arB y).setWidth 3))
  | 0x30 => opt (Cond.ofCode (abCc y).toNat) fun cc => need (true) (.br c cc (abA y) (abB y) (abOff y))
  | 0x31 => need (fits 1 (abCc y) && fits 3 (abA y) && (abB y) = 0) (.bp c ((abCc y).getLsbD 0) ((abA y).setWidth 3)
      (abOff y))
  | 0x32 => need ((abA y) = 0 && (abB y) = 0 && (abCc y) = 0) (.jmp c (abOff y))
  | 0x33 => need ((abA y) = 0 && (abB y) = 0 && (abCc y) = 0) (.call c (abOff y))
  | 0x34 => need ((arB y) = 0 && (arC y) = 0 && (arFn y) = 0) (.jr c (arD y) (arA y))
  | 0x35 => need ((abB y) = 0 && (abCc y) = 0) (.loop c (abA y) (abOff y))
  | 0x38 => opt (HField.ofCode (ahFld y).toNat) fun fld => need ((ahG y) = 0 && (ahB y) = 0 && (ahZ y) = 0) (.hset c
      (ahH y) (ahA y) fld)
  | 0x39 => opt (HField.ofCode (ahFld y).toNat) fun fld => need ((ahH y) = 0 && (ahB y) = 0 && (ahZ y) = 0) (.hget c
      (ahA y) (ahG y) fld)
  | 0x3A => need ((ahG y) = 0 && (ahB y) = 0 && (ahZ y) = 0) (.hld c (ahH y) (ahA y) (ahFld y))
  | 0x3B => need ((ahH y) = 0 && (ahB y) = 0 && (ahZ y) = 0) (.hst c (ahG y) (ahA y) (ahFld y))
  | 0x3C => need ((ahA y) = 0 && (ahB y) = 0 && (ahFld y) = 0 && (ahZ y) = 0) (.hmov c (ahH y) (ahG y))
  | 0x3D => need (fits 2 (ahFld y) && (ahB y) = 0 && (ahZ y) = 0) (.hadv c (ahH y) (ahG y) (ahA y) ((ahFld
      y).setWidth 2))
  | 0x3E => need (fits 2 (ahFld y) && (ahZ y) = 0) (.hdim c (ahH y) (ahG y) (ahA y) (ahB y) ((ahFld y).setWidth 2))
  | 0x40 => need (true) (.ld8 c (aiD y) (aiA y) (aiImm y))
  | 0x41 => need (true) (.ld16 c (aiD y) (aiA y) (aiImm y))
  | 0x42 => need (true) (.ld32 c (aiD y) (aiA y) (aiImm y))
  | 0x43 => need (true) (.ld64 c (aiD y) (aiA y) (aiImm y))
  | 0x44 => need (true) (.lds8 c (aiD y) (aiA y) (aiImm y))
  | 0x45 => need (true) (.lds16 c (aiD y) (aiA y) (aiImm y))
  | 0x46 => need (true) (.lds32 c (aiD y) (aiA y) (aiImm y))
  | 0x47 => need (true) (.st8 c (aiD y) (aiA y) (aiImm y))
  | 0x48 => need (true) (.st16 c (aiD y) (aiA y) (aiImm y))
  | 0x49 => need (true) (.st32 c (aiD y) (aiA y) (aiImm y))
  | 0x4A => need (true) (.st64 c (aiD y) (aiA y) (aiImm y))
  | 0x50 => opt (DqId.ofCode (arC y).toNat) fun q => need ((arD y) = 0 && (arB y) = 0 && (arFn y) = 0) (.push c (arA
      y) q)
  | 0x51 => need ((arD y) = 0 && (arB y) = 0 && (arC y) = 0 && (arFn y) = 0) (.fmt c (arA y))
  | 0x52 => opt (DqId.ofCode (arC y).toNat) fun q => need ((arA y) = 0 && (arB y) = 0 && (arFn y) = 0) (.pop c (arD
      y) q)
  | 0x53 => opt (DqId.ofCode (arC y).toNat) fun q => need (fits 3 (arA y) && (arD y) = 0 && (arB y) = 0 && (arFn y) =
      0) (.bout c ((arA y).setWidth 3) q)
  | 0x54 => opt (DqId.ofCode (arC y).toNat) fun q => need ((arA y) = 0 && (arB y) = 0 && (arFn y) = 0) (.qcnt c (arD
      y) q)
  | 0x58 => need (fits 4 (arC y) && (arB y) = 0 && (arFn y) = 0) (.rclaim c (arD y) (arA y) ((arC y).setWidth 4))
  | 0x59 => need (fits 4 (arC y) && (arD y) = 0 && (arB y) = 0 && (arFn y) = 0) (.rfill c (arA y) ((arC y).setWidth
      4))
  | 0x5A => need (fits 4 (arC y) && (arB y) = 0 && (arFn y) = 0) (.rwaitf c (arD y) (arA y) ((arC y).setWidth 4))
  | 0x5B => need (fits 4 (arC y) && (arD y) = 0 && (arB y) = 0 && (arFn y) = 0) (.rfree c (arA y) ((arC y).setWidth
      4))
  | 0x5C => need (fits 4 (arC y) && (arD y) = 0 && (arB y) = 0 && (arFn y) = 0) (.rset c (arA y) ((arC y).setWidth 4))
  | 0x5D => opt (RField.ofCode (arFn y).toNat) fun f => need (fits 4 (arC y) && (arA y) = 0 && (arB y) = 0) (.rstat c
      f (arD y) ((arC y).setWidth 4))
  | 0x60 => need (fits 3 (arC y) && (arD y) = 0 && (arA y) = 0 && (arB y) = 0 && (arFn y) = 0) (.bset c ((arC
      y).setWidth 3))
  | 0x61 => need (fits 3 (arC y) && (arD y) = 0 && (arB y) = 0 && (arFn y) = 0) (.bexp c (arA y) ((arC y).setWidth 3))
  | 0x62 => need (fits 3 (arC y) && (arD y) = 0 && (arB y) = 0 && (arFn y) = 0) (.barr c (arA y) ((arC y).setWidth 3))
  | 0x63 => need (fits 3 (arC y) && (arD y) = 0 && (arB y) = 0 && (arFn y) = 0) (.bwait c (arA y) ((arC y).setWidth
      3))
  | 0x68 => opt (AtomOp.ofCode ((arFn y).extractLsb' 0 4).toNat) fun op => need ((arFn y).extractLsb' 5 11 = 0 &&
      (arD y) = 0) (.atom c op ((arFn y).getLsbD 4) (arA y) (arB y) (arC y))
  | 0x70 => need (true) (.copy c (acHd y) (acHs y) (acP y) (acXf y) (acTq y) (acFlags y) (acAux y))
  | 0x71 => need (true) (.cred c (acHd y) (acHs y) (acP y) (acXf y) (acTq y) (acFlags y) (acAux y))
  | 0x72 => opt (AtomOp.ofCode ((arFn y).extractLsb' 0 4).toNat) fun op => need ((arFn y).extractLsb' 6 6 = 0 && (arD
      y) = 0) (.catom c op ((arFn y).getLsbD 4) ((arFn y).getLsbD 5) ((arFn y).extractLsb' 12 4) (arA y) (arB y) (arC
      y))
  | 0x73 => need ((acHd y) = 0 && (acHs y) = 0 && (acP y) = 0 && (acXf y) = 0 && (acFlags y) = 0 && (acAux y) = 0)
      (.cclose c (acTq y))
  | 0x74 => need ((aiD y) = 0 && (aiA y) = 0) (.cwait c (aiImm y))
  | 0x75 => need (fits 4 (aiImm y) && (aiD y) = 0) (.xcfg c ((aiImm y).setWidth 4) (aiA y))
  | 0x76 => if (arFn y) = 0 then need ((arA y) = 0 && (arB y) = 0 && (arC y) = 0) (.cpend c (arD y)) else if (arFn y)
      = 1 then need ((arA y) = 0 && (arB y) = 0 && (arC y) = 0) (.cpendCmd c (arD y)) else .error .reservedCode
  | 0x78 => need (fits 10 (arFn y) && (arD y) = 0 && (arC y) = 0) (.obput c (arA y) (arB y) ((arFn y).setWidth 10))
  | 0x79 => opt (Cond.ofCode (arC y).toNat) fun cc => need (fits 10 (arFn y)) (.obwait c cc (arD y) (arA y) (arB y)
      ((arFn y).setWidth 10))
  | 0x7A => need (fits 10 (arFn y) && (arD y) = 0 && (arC y) = 0) (.obadd c (arA y) (arB y) ((arFn y).setWidth 10))
  | 0x7B => need (fits 10 (arFn y) && (arD y) = 0 && (arC y) = 0) (.obbar c (arA y) (arB y) ((arFn y).setWidth 10))
  | 0x7C => if (arFn y) = 0 then need ((arA y) = 0 && (arB y) = 0 && (arC y) = 0) (.obseq c (arD y)) else if (arFn y)
      = 1 then need ((arA y) = 0 && (arB y) = 0 && (arC y) = 0) (.obseqOwn c (arD y)) else .error .reservedCode
  | 0x7D => need ((arD y) = 0 && (arA y) = 0 && (arB y) = 0 && (arC y) = 0 && (arFn y) = 0) (.frel c)
  | 0x7E => need ((arD y) = 0 && (arA y) = 0 && (arB y) = 0 && (arC y) = 0 && (arFn y) = 0) (.facq c)
  | 0x7F => need (fits 10 (arFn y) && (arB y) = 0 && (arC y) = 0) (.obget c (arD y) (arA y) ((arFn y).setWidth 10))
  | 0x80 => opt (Csr.ofCode (asCsr y).toNat) fun csr => need ((asA y) = 0 && (asImm y) = 0) (.csrr c (asD y) csr)
  | 0x81 => opt (Csr.ofCode (asCsr y).toNat) fun csr => need ((asImm y) = 0) (.csrw c (asD y) (asA y) csr)
  | 0x82 => opt (Csr.ofCode (asCsr y).toNat) fun csr => need ((asImm y) = 0) (.csrs c (asD y) (asA y) csr)
  | 0x83 => opt (Csr.ofCode (asCsr y).toNat) fun csr => need ((asImm y) = 0) (.csrc c (asD y) (asA y) csr)
  | 0x84 => if (asImm y) = 0 then need ((asD y) = 0 && (asA y) = 0 && (asCsr y) = 0) (.eret c) else if (asImm y) = 1
      then need ((asD y) = 0 && (asA y) = 0 && (asCsr y) = 0) (.eretImg c) else .error .reservedCode
  | 0x85 => if (asImm y) = 0 then need ((asD y) = 0 && (asA y) = 0 && (asCsr y) = 0) (.yield c) else if (asImm y) = 1
      then need ((asD y) = 0 && (asA y) = 0 && (asCsr y) = 0) (.yieldKill c) else .error .reservedCode
  | 0x86 => need ((asD y) = 0 && (asCsr y) = 0) (.psave c (asA y) (asImm y))
  | 0x87 => need ((asD y) = 0 && (asCsr y) = 0) (.ppull c (asA y) (asImm y))
  | 0x88 => need ((asD y) = 0 && (asCsr y) = 0) (.pdrop c (asA y) (asImm y))
  | 0x89 => need ((asCsr y) = 0 && (asImm y) = 0) (.pstat c (asD y) (asA y))
  | 0x8A => opt (Eng.ofCode ((asImm y).extractLsb' 4 2).toNat) fun e => need ((asImm y).extractLsb' 6 10 = 0 && (asD
      y) = 0 && (asA y) = 0 && (asCsr y) = 0) (.clkdiv c e ((asImm y).extractLsb' 0 4))
  | 0x8B => need ((asD y) = 0 && (asA y) = 0 && (asCsr y) = 0 && (asImm y) = 0) (.phase c)
  | 0x8C => if (asImm y) = 0 then need ((asD y) = 0 && (asCsr y) = 0) (.tlbinv c (asA y)) else if (asImm y) = 1 then
      need ((asD y) = 0 && (asA y) = 0 && (asCsr y) = 0) (.tlbinvAll c) else .error .reservedCode
  | 0x8D => need (fits 3 (asImm y) && (asCsr y) = 0) (.launch c (asD y) (asA y) ((asImm y).setWidth 3))
  | 0x8E => need ((asA y) = 0 && (asCsr y) = 0 && (asImm y) = 0) (.rdtick c (asD y))
  | 0x8F => need ((asA y) = 0 && (asCsr y) = 0 && (asImm y) = 0) (.rdiss c (asD y))
  | 0x90 => need ((asD y) = 0 && (asA y) = 0 && (asCsr y) = 0 && (asImm y) = 0) (.lsave c)
  | 0x91 => need ((asD y) = 0 && (asA y) = 0 && (asCsr y) = 0 && (asImm y) = 0) (.lrest c)
  | _ => .error .unassigned

/-- The M-stream map (R33). -/
def decodeM (op : Nat) (c : Ctl) (y : BitVec 40) : Except DecodeError Instr :=
  match op with
  | 0x00 => need ((mtA y) = 0 && (mtT2 y) = 0 && (mtM2 y) = 0 && (mtZ y) = 0) (.tld c (mtT1 y) (mtM y) (mtImm y))
  | 0x01 => need ((mtA y) = 0 && (mtT2 y) = 0 && (mtM2 y) = 0 && (mtZ y) = 0) (.tldb c (mtT1 y) (mtM y) (mtImm y))
  | 0x02 => need ((mtM y) = 0 && (mtM2 y) = 0 && (mtZ y) = 0 && (mtImm y) = 0) (.mma c (mtA y) (mtT1 y) (mtT2 y))
  | 0x03 => need (fits 2 (mtA y) && (mtT2 y) = 0 && (mtM y) = 0 && (mtM2 y) = 0 && (mtZ y) = 0 && (mtImm y) = 0)
      (.rsum c ((mtA y).setWidth 2) (mtT1 y))
  | 0x04 => need (fits 2 (mtA y) && (mtT2 y) = 0 && (mtM y) = 0 && (mtM2 y) = 0 && (mtZ y) = 0 && (mtImm y) = 0)
      (.csum c ((mtA y).setWidth 2) (mtT1 y))
  | 0x05 => need ((mtImm y).extractLsb' 4 16 = 0 && (mtT1 y) = 0 && (mtT2 y) = 0 && (mtM y) = 0 && (mtM2 y) = 0 &&
      (mtZ y) = 0) (.zpc c (mtA y) ((mtImm y).extractLsb' 0 2) ((mtImm y).extractLsb' 2 2))
  | 0x06 => need ((mtT1 y) = 0 && (mtT2 y) = 0 && (mtZ y) = 0) (.drain c (mtA y) (mtM y) (mtM2 y) (mtImm y))
  | 0x08 => need ((mtT1 y) = 0 && (mtT2 y) = 0 && (mtM y) = 0 && (mtM2 y) = 0 && (mtZ y) = 0 && (mtImm y) = 0) (.aclr
      c (mtA y))
  | 0x09 => need (fits 3 (mtImm y) && (mtT1 y) = 0 && (mtT2 y) = 0 && (mtM y) = 0 && (mtM2 y) = 0 && (mtZ y) = 0)
      (.amov c (mtA y) ((mtImm y).setWidth 3))
  | 0x0A => need ((mtA y) = 0 && (mtT2 y) = 0 && (mtM y) = 0 && (mtM2 y) = 0 && (mtZ y) = 0 && (mtImm y) = 0) (.tzero
      c (mtT1 y))
  | 0x10 => need ((mcZ y) = 0) (.mli c (mcM y) (mcImm y))
  | 0x11 => need ((mcZ y) = 0) (.maddi c (mcM y) (mcImm y))
  | 0x12 => need ((mcZ y) = 0 && (mcImm y) = 0) (.mpop c (mcM y))
  | 0x13 => need ((mbZ y) = 0) (.mloop c (mbM y) (mbOff y))
  | 0x14 => need ((mbM y) = 0 && (mbZ y) = 0) (.mbq c (mbOff y))
  | 0x15 => need ((mbM y) = 0 && (mbZ y) = 0) (.mjmp c (mbOff y))
  | 0x16 => need ((mcZ y) = 0 && (mcImm y) = 0) (.msatc c (mcM y))
  | _ => .error .unassigned

/-- The V-stream map (R34). -/
def decodeV (op : Nat) (c : Ctl) (y : BitVec 40) : Except DecodeError Instr :=
  match op with
  | 0x00 => opt (VDst.ofCode (vrD y).toNat) fun d => opt (VSrc.ofCode (vrA y).toNat) fun a => opt (VSrc.ofCode (vrB
      y).toNat) fun b => opt (VTy.ofCode (vrTy y).toNat) fun ty => need ((vrC y) = 0 && (vrFn y) = 0) (.vadd c d a b
      (vrK y) ty)
  | 0x01 => opt (VDst.ofCode (vrD y).toNat) fun d => opt (VSrc.ofCode (vrA y).toNat) fun a => opt (VSrc.ofCode (vrB
      y).toNat) fun b => opt (VTy.ofCode (vrTy y).toNat) fun ty => need ((vrC y) = 0 && (vrFn y) = 0) (.vsub c d a b
      (vrK y) ty)
  | 0x02 => opt (VDst.ofCode (vrD y).toNat) fun d => opt (VSrc.ofCode (vrA y).toNat) fun a => opt (VSrc.ofCode (vrB
      y).toNat) fun b => opt (VTy.ofCode (vrTy y).toNat) fun ty => need ((vrC y) = 0 && (vrFn y) = 0) (.vmul c d a b
      (vrK y) ty)
  | 0x03 => opt (VDst.ofCode (vrD y).toNat) fun d => opt (VSrc.ofCode (vrA y).toNat) fun a => opt (VSrc.ofCode (vrB
      y).toNat) fun b => opt (VSrc.ofCode (vrC y).toNat) fun x => opt (VTy.ofCode (vrTy y).toNat) fun ty => need
      ((vrFn y) = 0) (.vfma c d a b x (vrK y) ty)
  | 0x04 => opt (VDst.ofCode (vrD y).toNat) fun d => opt (VSrc.ofCode (vrA y).toNat) fun a => opt (VSrc.ofCode (vrB
      y).toNat) fun b => opt (VTy.ofCode (vrTy y).toNat) fun ty => need ((vrC y) = 0 && (vrFn y) = 0) (.vmin c d a b
      (vrK y) ty)
  | 0x05 => opt (VDst.ofCode (vrD y).toNat) fun d => opt (VSrc.ofCode (vrA y).toNat) fun a => opt (VSrc.ofCode (vrB
      y).toNat) fun b => opt (VTy.ofCode (vrTy y).toNat) fun ty => need ((vrC y) = 0 && (vrFn y) = 0) (.vmax c d a b
      (vrK y) ty)
  | 0x06 => opt (VDst.ofCode (vrD y).toNat) fun d => opt (VSrc.ofCode (vrA y).toNat) fun a => opt (VTy.ofCode (vrTy
      y).toNat) fun ty => need ((vrB y) = 0 && (vrC y) = 0 && (vrFn y) = 0) (.vabs c d a (vrK y) ty)
  | 0x07 => opt (VDst.ofCode (vrD y).toNat) fun d => opt (VSrc.ofCode (vrA y).toNat) fun a => opt (VTy.ofCode (vrTy
      y).toNat) fun ty => need ((vrB y) = 0 && (vrC y) = 0 && (vrFn y) = 0) (.vneg c d a (vrK y) ty)
  | 0x08 => opt (VDst.ofCode (vrD y).toNat) fun d => opt (VSrc.ofCode (vrA y).toNat) fun a => opt (VSrc.ofCode (vrB
      y).toNat) fun b => need ((vrC y) = 0 && (vrTy y) = 0 && (vrFn y) = 0) (.vdiv c d a b (vrK y))
  | 0x09 => opt (VDst.ofCode (vrD y).toNat) fun d => opt (VSrc.ofCode (vrA y).toNat) fun a => need ((vrB y) = 0 &&
      (vrC y) = 0 && (vrTy y) = 0 && (vrFn y) = 0) (.vsqrt c d a (vrK y))
  | 0x0A => opt (VDst.ofCode (vrD y).toNat) fun d => opt (VSrc.ofCode (vrA y).toNat) fun a => need ((vrB y) = 0 &&
      (vrC y) = 0 && (vrTy y) = 0 && (vrFn y) = 0) (.vrsq c d a (vrK y))
  | 0x0B => opt (VDst.ofCode (vrD y).toNat) fun d => opt (VSrc.ofCode (vrA y).toNat) fun a => need ((vrB y) = 0 &&
      (vrC y) = 0 && (vrTy y) = 0 && (vrFn y) = 0) (.vrcp c d a (vrK y))
  | 0x0C => opt (VDst.ofCode (vrD y).toNat) fun d => opt (VSrc.ofCode (vrA y).toNat) fun a => need ((vrB y) = 0 &&
      (vrC y) = 0 && (vrTy y) = 0 && (vrFn y) = 0) (.vexp2 c d a (vrK y))
  | 0x0D => opt (VDst.ofCode (vrD y).toNat) fun d => opt (VSrc.ofCode (vrA y).toNat) fun a => need ((vrB y) = 0 &&
      (vrC y) = 0 && (vrTy y) = 0 && (vrFn y) = 0) (.vlog2 c d a (vrK y))
  | 0x0E => opt (VDst.ofCode (vrD y).toNat) fun d => opt (VSrc.ofCode (vrA y).toNat) fun a => need ((vrB y) = 0 &&
      (vrC y) = 0 && (vrTy y) = 0 && (vrFn y) = 0) (.vexp c d a (vrK y))
  | 0x10 => opt (VDst.ofCode (vrD y).toNat) fun d => opt (VSrc.ofCode (vrA y).toNat) fun a => opt (VSrc.ofCode (vrB
      y).toNat) fun b => opt (VTy.ofCode (vrTy y).toNat) fun ty => need ((vrC y) = 0 && (vrFn y) = 0) (.vand c d a b
      (vrK y) ty)
  | 0x11 => opt (VDst.ofCode (vrD y).toNat) fun d => opt (VSrc.ofCode (vrA y).toNat) fun a => opt (VSrc.ofCode (vrB
      y).toNat) fun b => opt (VTy.ofCode (vrTy y).toNat) fun ty => need ((vrC y) = 0 && (vrFn y) = 0) (.vor c d a b
      (vrK y) ty)
  | 0x12 => opt (VDst.ofCode (vrD y).toNat) fun d => opt (VSrc.ofCode (vrA y).toNat) fun a => opt (VSrc.ofCode (vrB
      y).toNat) fun b => opt (VTy.ofCode (vrTy y).toNat) fun ty => need ((vrC y) = 0 && (vrFn y) = 0) (.vxor c d a b
      (vrK y) ty)
  | 0x13 => opt (VDst.ofCode (vrD y).toNat) fun d => opt (VSrc.ofCode (vrA y).toNat) fun a => opt (VSrc.ofCode (vrB
      y).toNat) fun b => opt (VTy.ofCode (vrTy y).toNat) fun ty => need ((vrC y) = 0 && (vrFn y) = 0) (.vshl c d a b
      (vrK y) ty)
  | 0x14 => opt (VDst.ofCode (vrD y).toNat) fun d => opt (VSrc.ofCode (vrA y).toNat) fun a => opt (VSrc.ofCode (vrB
      y).toNat) fun b => opt (VTy.ofCode (vrTy y).toNat) fun ty => need ((vrC y) = 0 && (vrFn y) = 0) (.vshr c d a b
      (vrK y) ty)
  | 0x15 => opt (VDst.ofCode (vrD y).toNat) fun d => opt (VSrc.ofCode (vrA y).toNat) fun a => opt (VSrc.ofCode (vrB
      y).toNat) fun b => opt (VTy.ofCode (vrTy y).toNat) fun ty => need ((vrC y) = 0 && (vrFn y) = 0) (.vsar c d a b
      (vrK y) ty)
  | 0x16 => opt (VDst.ofCode (vrD y).toNat) fun d => opt (VSrc.ofCode (vrA y).toNat) fun a => opt (VSrc.ofCode (vrC
      y).toNat) fun x => opt (VTy.ofCode (vrTy y).toNat) fun ty => opt (MemTy.ofCode ((vrFn y).extractLsb' 0
      4).toNat) fun dt => opt (RmFull.ofCode ((vrFn y).extractLsb' 4 3).toNat) fun rm => need ((vrFn y).extractLsb' 8
      7 = 0 && (vrB y) = 0) (.vcvt c d a x (vrK y) ty dt rm ((vrFn y).getLsbD 7))
  | 0x17 => opt (Cond.ofCode (vrFn y).toNat) fun cc => opt (VSrc.ofCode (vrA y).toNat) fun a => opt (VSrc.ofCode (vrB
      y).toNat) fun b => opt (VTy.ofCode (vrTy y).toNat) fun ty => need (fits 3 (vrD y) && (vrC y) = 0) (.vcmp c cc
      ((vrD y).setWidth 3) a b (vrK y) ty)
  | 0x18 => opt (VDst.ofCode (vrD y).toNat) fun d => opt (VSrc.ofCode (vrA y).toNat) fun a => opt (VSrc.ofCode (vrB
      y).toNat) fun b => opt (VTy.ofCode (vrTy y).toNat) fun ty => need (fits 3 (vrC y) && (vrFn y) = 0) (.vsel c d a
      b ((vrC y).setWidth 3) (vrK y) ty)
  | 0x19 => opt (VDst.ofCode (vrD y).toNat) fun d => opt (VSrc.ofCode (vrA y).toNat) fun a => opt (VTy.ofCode (vrTy
      y).toNat) fun ty => need ((vrB y) = 0 && (vrC y) = 0 && (vrFn y) = 0) (.vmov c d a (vrK y) ty)
  | 0x1A => opt (VDst.ofCode (vrD y).toNat) fun d => opt (VSrc.ofCode (vrA y).toNat) fun a => opt (VTy.ofCode (vrTy
      y).toNat) fun ty => need (fits 6 (vrFn y) && (vrB y) = 0 && (vrC y) = 0) (.vbrd c d a ((vrFn y).setWidth 6)
      (vrK y) ty)
  | 0x1B => opt (VDst.ofCode (vrD y).toNat) fun d => opt (VTy.ofCode (vrTy y).toNat) fun ty => need ((vrA y) = 0 &&
      (vrB y) = 0 && (vrC y) = 0 && (vrFn y) = 0) (.viota c d (vrK y) ty)
  | 0x1C => opt (VDst.ofCode (vrD y).toNat) fun d => opt (VSrc.ofCode (vrA y).toNat) fun a => opt (VSrc.ofCode (vrB
      y).toNat) fun b => opt (VTy.ofCode (vrTy y).toNat) fun ty => need ((vrC y) = 0 && (vrFn y) = 0) (.vperm c d a b
      (vrK y) ty)
  | 0x1D => opt (VDst.ofCode (vrD y).toNat) fun d => opt (VSrc.ofCode (vrA y).toNat) fun a => opt (VTy.ofCode (vrTy
      y).toNat) fun ty => need ((vrB y) = 0 && (vrC y) = 0 && (vrFn y) = 0) (.vcomp c d a (vrK y) ty)
  | 0x1E => opt (VDst.ofCode (vrD y).toNat) fun d => opt (VTy.ofCode (vrTy y).toNat) fun ty => need (fits 1 (vrFn y)
      && fits 3 (vrA y) && (vrB y) = 0 && (vrC y) = 0) (.vfirst c ((vrFn y).getLsbD 0) d ((vrA y).setWidth 3) (vrK y)
      ty)
  | 0x1F => opt (LogOp.ofCode (vrFn y).toNat) fun op => need (fits 3 (vrD y) && fits 3 (vrA y) && fits 3 (vrB y) &&
      (vrC y) = 0 && (vrK y) = 0 && (vrTy y) = 0) (.klog c op ((vrD y).setWidth 3) ((vrA y).setWidth 3) ((vrB
      y).setWidth 3))
  | 0x20 => opt (VDst.ofCode (vrD y).toNat) fun d => opt (VSrc.ofCode (vrA y).toNat) fun a => opt (VTy.ofCode (vrTy
      y).toNat) fun ty => need ((vrB y) = 0 && (vrC y) = 0 && (vrFn y) = 0) (.vrsum c d a (vrK y) ty)
  | 0x21 => opt (VDst.ofCode (vrD y).toNat) fun d => opt (VSrc.ofCode (vrA y).toNat) fun a => opt (VTy.ofCode (vrTy
      y).toNat) fun ty => need ((vrB y) = 0 && (vrC y) = 0 && (vrFn y) = 0) (.vrmax c d a (vrK y) ty)
  | 0x22 => opt (VDst.ofCode (vrD y).toNat) fun d => opt (VSrc.ofCode (vrA y).toNat) fun a => opt (VTy.ofCode (vrTy
      y).toNat) fun ty => need ((vrB y) = 0 && (vrC y) = 0 && (vrFn y) = 0) (.vrmin c d a (vrK y) ty)
  | 0x23 => opt (VDst.ofCode (vrD y).toNat) fun d => opt (VSrc.ofCode (vrA y).toNat) fun a => opt (VTy.ofCode (vrTy
      y).toNat) fun ty => need ((vrB y) = 0 && (vrC y) = 0 && (vrFn y) = 0) (.vramax c d a (vrK y) ty)
  | 0x24 => opt (VDst.ofCode (vrD y).toNat) fun d => opt (VSrc.ofCode (vrA y).toNat) fun a => opt (VTy.ofCode (vrTy
      y).toNat) fun ty => need (fits 4 (vrFn y) && (vrB y) = 0 && (vrC y) = 0) (.vscan c d a ((vrFn y).setWidth 4)
      (vrK y) ty)
  | 0x25 => opt (VDst.ofCode (vrD y).toNat) fun d => opt (VSrc.ofCode (vrA y).toNat) fun a => opt (VTy.ofCode (vrTy
      y).toNat) fun ty => need (fits 4 (vrFn y) && (vrB y) = 0 && (vrC y) = 0) (.vscanx c d a ((vrFn y).setWidth 4)
      (vrK y) ty)
  | 0x28 => opt (VDst.ofCode (vrD y).toNat) fun d => opt (VSrc.ofCode (vrA y).toNat) fun a => opt (VTy.ofCode (vrTy
      y).toNat) fun ty => need (fits 1 (vrFn y) && (vrB y) = 0 && (vrC y) = 0) (.vsort c ((vrFn y).getLsbD 0) d a
      (vrK y) ty)
  | 0x29 => opt (VSrc.ofCode (vrA y).toNat) fun a => opt (VSrc.ofCode (vrB y).toNat) fun b => opt (VTy.ofCode (vrTy
      y).toNat) fun ty => need (fits 1 (vrFn y) && pairCode (vrD y) && (vrC y) = 0) (.vsortk c ((vrFn y).getLsbD 0)
      ((vrD y).extractLsb' 1 3) a b (vrK y) ty)
  | 0x2A => opt (VSrc.ofCode (vrA y).toNat) fun a => opt (VSrc.ofCode (vrB y).toNat) fun b => opt (VTy.ofCode (vrTy
      y).toNat) fun ty => need (fits 1 (vrFn y) && pairCode (vrD y) && (vrC y) = 0 && (vrK y) = 0) (.vmerge c ((vrFn
      y).getLsbD 0) ((vrD y).extractLsb' 1 3) a b ty)
  | 0x2C => opt (VDst.ofCode (vrD y).toNat) fun d => opt (VSrc.ofCode (vrA y).toNat) fun a => opt (VSrc.ofCode (vrB
      y).toNat) fun b => opt (VTy.ofCode (vrTy y).toNat) fun ty => need ((vrC y) = 0 && (vrFn y) = 0) (.vrng c d a b
      (vrK y) ty)
  | 0x30 => opt (MemTy.ofCode (vmEt y).toNat) fun et => need (fits 4 (vmV y)) (.vld c ((vmV y).setWidth 4) (vmX y) et
      (vmK y) (vmImm y))
  | 0x31 => opt (MemTy.ofCode (vmEt y).toNat) fun et => need (fits 4 (vmV y)) (.vst c ((vmV y).setWidth 4) (vmX y) et
      (vmK y) (vmImm y))
  | 0x32 => opt (MemTy.ofCode (vmEt y).toNat) fun et => need (fits 4 (vmV y) && fits 4 (vmImm y)) (.vldx c ((vmV
      y).setWidth 4) (vmX y) et (vmK y) ((vmImm y).setWidth 4))
  | 0x33 => opt (MemTy.ofCode (vmEt y).toNat) fun et => need (fits 4 (vmV y) && fits 4 (vmImm y)) (.vstx c ((vmV
      y).setWidth 4) (vmX y) et (vmK y) ((vmImm y).setWidth 4))
  | 0x34 => opt (RmShort.ofCode (vqRm y).toNat) fun rm => need ((vqV y).extractLsb' 0 2 = 0 && fits 4 (vqEn y) &&
      (vqZ y) = 0) (.qst c ((vqV y).extractLsb' 2 2) (vqX y) (vqXr y) ((vqEn y).setWidth 4) ((vqWc y).getLsbD 0) rm
      (vqHad y))
  | 0x35 => need ((vqV y).extractLsb' 0 2 = 0 && (vqXr y) = 0 && (vqEn y) = 0 && (vqRm y) = 0 && (vqHad y) = 0 &&
      (vqZ y) = 0) (.qld c ((vqV y).extractLsb' 2 2) (vqX y) ((vqWc y).getLsbD 0))
  | 0x38 => need (fits 3 (vxD y) && (vxA y) = 0) (.zbind c ((vxD y).setWidth 3) (vxImm y))
  | 0x39 => need (fits 3 (vxD y) && (vxA y) = 0 && (vxImm y) = 0) (.zrst c ((vxD y).setWidth 3))
  | 0x40 => need ((vxA y) = 0) (.xli c (vxD y) (vxImm y))
  | 0x41 => need (fits 4 (vxImm y)) (.xadd c (vxD y) (vxA y) ((vxImm y).setWidth 4))
  | 0x42 => need (true) (.xaddi c (vxD y) (vxA y) (vxImm y))
  | 0x43 => need (fits 4 (vxImm y)) (.xmul c (vxD y) (vxA y) ((vxImm y).setWidth 4))
  | 0x44 => need ((vxA y) = 0 && (vxImm y) = 0) (.xpop c (vxD y))
  | 0x45 => need ((vxD y) = 0 && (vxImm y) = 0) (.xpush c (vxA y))
  | 0x46 => need (fits 6 (vxImm y)) (.xget c (vxD y) (vxA y) ((vxImm y).setWidth 6))
  | 0x48 => need (fits 4 (vxImm y)) (.xfadd c (vxD y) (vxA y) ((vxImm y).setWidth 4))
  | 0x49 => need (fits 4 (vxImm y)) (.xfmul c (vxD y) (vxA y) ((vxImm y).setWidth 4))
  | 0x50 => need ((vbB y) = 0 && (vbCc y) = 0 && (vbZ y) = 0) (.vloop c (vbA y) (vbOff y))
  | 0x51 => need ((vbA y) = 0 && (vbB y) = 0 && (vbCc y) = 0 && (vbZ y) = 0) (.vbq c (vbOff y))
  | 0x52 => opt (Cond.ofCode (vbCc y).toNat) fun cc => need ((vbZ y) = 0) (.vbr c cc (vbA y) (vbB y) (vbOff y))
  | 0x53 => need ((vbA y) = 0 && (vbB y) = 0 && (vbCc y) = 0 && (vbZ y) = 0) (.vjmp c (vbOff y))
  | 0x54 => need (fits 1 (vbCc y) && fits 3 (vbA y) && (vbB y) = 0 && (vbZ y) = 0) (.vbrf c ((vbCc y).getLsbD 0)
      ((vbA y).setWidth 3) (vbOff y))
  | _ => .error .unassigned

/-- The common row (R35). -/
def decodeCommon (st : StreamId) (op : Nat) (c : Ctl) (x : BitVec 40) : Except DecodeError Instr :=
  match op with
  | 0xF0 => need (x = 0) (.nop st c)
  | 0xF1 => need (x = 0) (.join st c)
  | 0xF2 => need (coZ x = 0) (.trap st c (coImm x))
  | 0xF3 => need (x = 0) (.brk st c)
  | 0xF4 => need (x = 0) (.tfence st c)
  | _ => .error .unassigned

/-- The wait and signal of a word (R18). -/
def wordCtl (w : W64) : Ctl :=
  { wq := w.extractLsb' 60 4, wn := w.extractLsb' 56 4, sq := w.extractLsb' 52 4, sn := w.extractLsb' 48 4 }

def wordOp (w : W64) : BitVec 8 := w.extractLsb' 40 8
def wordX (w : W64) : BitVec 40 := w.extractLsb' 0 40

/-- The fields of a word in the map of its stream. -/
def decodeFields (st : StreamId) (op : Nat) (c : Ctl) (x : BitVec 40) : Except DecodeError Instr :=
  if 0xF0 ≤ op then decodeCommon st op c x
  else match st with
    | .a => decodeA op c x
    | .m => decodeM op c x
    | .v => decodeV op c x

/-- The instruction that 64 bits are in a stream's map; ILL, opcode 0xFF, is one whatever its other bits hold
(R35, R36). -/
def decodeWord (st : StreamId) (w : W64) : Except DecodeError Instr :=
  if wordOp w = 0xFF then .ok (.ill st (w.extractLsb' 48 16 ++ wordX w))
  else match decodeFields st (wordOp w).toNat (wordCtl w) (wordX w) with
    | .error e => .error e
    | .ok i => match wfError i with
      | some e => .error e
      | none => .ok i

/-- Fetching: the eight bytes of a word, the first at the lowest address (00 R3), and the bytes after them. -/
def decodeBytes (st : StreamId) (bs : List Byte) : Except DecodeError (Instr × List Byte) :=
  if bs.length < 8 then .error .notAWord
  else match decodeWord st (BitVec.ofNat 64 (Machine.leNat (bs.take 8))) with
    | .ok i => .ok (i, bs.drop 8)
    | .error e => .error e

/-- The stream a table word is numbered for: bits [71:64], above the word, name it; a bare 64-bit word stands for
the A map (log 9). -/
def tagStream (w : Nat) : StreamId :=
  if w / 2 ^ 64 % 256 = 1 then .m else if w / 2 ^ 64 % 256 = 2 then .v else .a

/-- The instruction the decoder reads from a word given as a number (host interface, log 9). -/
def decodeTableWord (_nbits w : Nat) : Option Instr :=
  match decodeBytes (tagStream w) (Machine.leBytes 8 (w % 2 ^ 64)) with
  | .ok (i, _) => some i
  | .error _ => none

/-! ## The encoder -/

/-- A word from its wait, its signal, its opcode and its operand bits (R18). -/
def mkWord (c : Ctl) (op : BitVec 8) (x : BitVec 40) : W64 := c.wq ++ c.wn ++ c.sq ++ c.sn ++ op ++ x

/-- The word of an instruction, with its stream; the steps of the device have none. -/
def encode : Instr → Option W64
  | .add c d a b => some (mkWord c 0x00 (packAR d a b 0 0))
  | .sub c d a b => some (mkWord c 0x01 (packAR d a b 0 0))
  | .mul c d a b => some (mkWord c 0x02 (packAR d a b 0 0))
  | .mulhs c d a b => some (mkWord c 0x03 (packAR d a b 0 0))
  | .mulhu c d a b => some (mkWord c 0x04 (packAR d a b 0 0))
  | .div c d a b => some (mkWord c 0x05 (packAR d a b 0 0))
  | .divu c d a b => some (mkWord c 0x06 (packAR d a b 0 0))
  | .rem c d a b => some (mkWord c 0x07 (packAR d a b 0 0))
  | .remu c d a b => some (mkWord c 0x08 (packAR d a b 0 0))
  | .and c d a b => some (mkWord c 0x09 (packAR d a b 0 0))
  | .or c d a b => some (mkWord c 0x0A (packAR d a b 0 0))
  | .xor c d a b => some (mkWord c 0x0B (packAR d a b 0 0))
  | .andn c d a b => some (mkWord c 0x0C (packAR d a b 0 0))
  | .shl c d a b => some (mkWord c 0x0D (packAR d a b 0 0))
  | .shr c d a b => some (mkWord c 0x0E (packAR d a b 0 0))
  | .sar c d a b => some (mkWord c 0x0F (packAR d a b 0 0))
  | .rol c d a b => some (mkWord c 0x10 (packAR d a b 0 0))
  | .min c d a b => some (mkWord c 0x11 (packAR d a b 0 0))
  | .max c d a b => some (mkWord c 0x12 (packAR d a b 0 0))
  | .minu c d a b => some (mkWord c 0x13 (packAR d a b 0 0))
  | .maxu c d a b => some (mkWord c 0x14 (packAR d a b 0 0))
  | .clz c d a => some (mkWord c 0x15 (packAR d a 0 0 0))
  | .popc c d a => some (mkWord c 0x16 (packAR d a 0 0 0))
  | .sel c d a b p => some (mkWord c 0x17 (packAR d a b (p.setWidth 6) 0))
  | .addx c d a b n => some (mkWord c 0x18 (packAR d a b n 0))
  | .clamp c d a b => some (mkWord c 0x19 (packAR d a b 0 0))
  | .addi c d a imm => some (mkWord c 0x20 (packAI d a imm))
  | .andi c d a imm => some (mkWord c 0x21 (packAI d a imm))
  | .ori c d a imm => some (mkWord c 0x22 (packAI d a imm))
  | .xori c d a imm => some (mkWord c 0x23 (packAI d a imm))
  | .shli c d a n => some (mkWord c 0x24 (packAI d a (n.setWidth 28)))
  | .shri c d a n => some (mkWord c 0x25 (packAI d a (n.setWidth 28)))
  | .sari c d a n => some (mkWord c 0x26 (packAI d a (n.setWidth 28)))
  | .muli c d a imm => some (mkWord c 0x27 (packAI d a imm))
  | .li c d imm => some (mkWord c 0x28 (packAL d imm))
  | .lih c d imm => some (mkWord c 0x29 (packAL d (imm.setWidth 34)))
  | .cmp c cc pd a b => some (mkWord c 0x2C (packAR (pd.setWidth 6) a b 0 (BitVec.ofNat 16 cc.code)))
  | .cmpi c cc pd a imm => some (mkWord c 0x2D (packAI (pd.setWidth 6) a (BitVec.ofNat 4 cc.code ++ imm)))
  | .plog c op pd pa pb => some (mkWord c 0x2E (packAR (pd.setWidth 6) (pa.setWidth 6) (pb.setWidth 6) 0
      (BitVec.ofNat 16 op.code)))
  | .br c cc a b off => some (mkWord c 0x30 (packAB a b (BitVec.ofNat 4 cc.code) off))
  | .bp c ne p off => some (mkWord c 0x31 (packAB (p.setWidth 6) 0 ((BitVec.ofBool ne).setWidth 4) off))
  | .jmp c off => some (mkWord c 0x32 (packAB 0 0 0 off))
  | .call c off => some (mkWord c 0x33 (packAB 0 0 0 off))
  | .jr c d a => some (mkWord c 0x34 (packAR d a 0 0 0))
  | .loop c a off => some (mkWord c 0x35 (packAB a 0 0 off))
  | .hset c h a fld => some (mkWord c 0x38 (packAH h 0 a 0 (BitVec.ofNat 8 fld.code) 0))
  | .hget c a g fld => some (mkWord c 0x39 (packAH 0 g a 0 (BitVec.ofNat 8 fld.code) 0))
  | .hld c h a off => some (mkWord c 0x3A (packAH h 0 a 0 off 0))
  | .hst c g a off => some (mkWord c 0x3B (packAH 0 g a 0 off 0))
  | .hmov c h g => some (mkWord c 0x3C (packAH h g 0 0 0 0))
  | .hadv c h g a dim => some (mkWord c 0x3D (packAH h g a 0 (dim.setWidth 8) 0))
  | .hdim c h g a b dim => some (mkWord c 0x3E (packAH h g a b (dim.setWidth 8) 0))
  | .ld8 c d a imm => some (mkWord c 0x40 (packAI d a imm))
  | .ld16 c d a imm => some (mkWord c 0x41 (packAI d a imm))
  | .ld32 c d a imm => some (mkWord c 0x42 (packAI d a imm))
  | .ld64 c d a imm => some (mkWord c 0x43 (packAI d a imm))
  | .lds8 c d a imm => some (mkWord c 0x44 (packAI d a imm))
  | .lds16 c d a imm => some (mkWord c 0x45 (packAI d a imm))
  | .lds32 c d a imm => some (mkWord c 0x46 (packAI d a imm))
  | .st8 c d a imm => some (mkWord c 0x47 (packAI d a imm))
  | .st16 c d a imm => some (mkWord c 0x48 (packAI d a imm))
  | .st32 c d a imm => some (mkWord c 0x49 (packAI d a imm))
  | .st64 c d a imm => some (mkWord c 0x4A (packAI d a imm))
  | .push c a q => some (mkWord c 0x50 (packAR 0 a 0 (BitVec.ofNat 6 q.code) 0))
  | .fmt c a => some (mkWord c 0x51 (packAR 0 a 0 0 0))
  | .pop c d q => some (mkWord c 0x52 (packAR d 0 0 (BitVec.ofNat 6 q.code) 0))
  | .bout c p q => some (mkWord c 0x53 (packAR 0 (p.setWidth 6) 0 (BitVec.ofNat 6 q.code) 0))
  | .qcnt c d q => some (mkWord c 0x54 (packAR d 0 0 (BitVec.ofNat 6 q.code) 0))
  | .rclaim c d a ring => some (mkWord c 0x58 (packAR d a 0 (ring.setWidth 6) 0))
  | .rfill c a ring => some (mkWord c 0x59 (packAR 0 a 0 (ring.setWidth 6) 0))
  | .rwaitf c d a ring => some (mkWord c 0x5A (packAR d a 0 (ring.setWidth 6) 0))
  | .rfree c a ring => some (mkWord c 0x5B (packAR 0 a 0 (ring.setWidth 6) 0))
  | .rset c a ring => some (mkWord c 0x5C (packAR 0 a 0 (ring.setWidth 6) 0))
  | .rstat c f d ring => some (mkWord c 0x5D (packAR d 0 0 (ring.setWidth 6) (BitVec.ofNat 16 f.code)))
  | .bset c bar => some (mkWord c 0x60 (packAR 0 0 0 (bar.setWidth 6) 0))
  | .bexp c a bar => some (mkWord c 0x61 (packAR 0 a 0 (bar.setWidth 6) 0))
  | .barr c a bar => some (mkWord c 0x62 (packAR 0 a 0 (bar.setWidth 6) 0))
  | .bwait c a bar => some (mkWord c 0x63 (packAR 0 a 0 (bar.setWidth 6) 0))
  | .atom c op w64 a b cx => some (mkWord c 0x68 (packAR 0 a b cx (0#11 ++ BitVec.ofBool w64 ++ BitVec.ofNat 4
      op.code)))
  | .copy c hd hs p xf tq flags aux => some (mkWord c 0x70 (packAC hd hs p xf tq flags aux))
  | .cred c hd hs p xf tq flags aux => some (mkWord c 0x71 (packAC hd hs p xf tq flags aux))
  | .catom c op w64 acq h a b cx => some (mkWord c 0x72 (packAR 0 a b cx (h ++ 0#6 ++ BitVec.ofBool acq ++
      BitVec.ofBool w64 ++ BitVec.ofNat 4 op.code)))
  | .cclose c tq => some (mkWord c 0x73 (packAC 0 0 0 0 tq 0 0))
  | .cwait c n => some (mkWord c 0x74 (packAI 0 0 n))
  | .xcfg c n a => some (mkWord c 0x75 (packAI 0 a (n.setWidth 28)))
  | .cpend c d => some (mkWord c 0x76 (packAR d 0 0 0 0))
  | .cpendCmd c d => some (mkWord c 0x76 (packAR d 0 0 0 1))
  | .obput c a b idx => some (mkWord c 0x78 (packAR 0 a b 0 (idx.setWidth 16)))
  | .obwait c cc d a b idx => some (mkWord c 0x79 (packAR d a b (BitVec.ofNat 6 cc.code) (idx.setWidth 16)))
  | .obadd c a b idx => some (mkWord c 0x7A (packAR 0 a b 0 (idx.setWidth 16)))
  | .obbar c a b idx => some (mkWord c 0x7B (packAR 0 a b 0 (idx.setWidth 16)))
  | .obseq c d => some (mkWord c 0x7C (packAR d 0 0 0 0))
  | .obseqOwn c d => some (mkWord c 0x7C (packAR d 0 0 0 1))
  | .frel c => some (mkWord c 0x7D (packAR 0 0 0 0 0))
  | .facq c => some (mkWord c 0x7E (packAR 0 0 0 0 0))
  | .obget c d a idx => some (mkWord c 0x7F (packAR d a 0 0 (idx.setWidth 16)))
  | .csrr c d csr => some (mkWord c 0x80 (packAS d 0 (BitVec.ofNat 12 csr.code) 0))
  | .csrw c d a csr => some (mkWord c 0x81 (packAS d a (BitVec.ofNat 12 csr.code) 0))
  | .csrs c d a csr => some (mkWord c 0x82 (packAS d a (BitVec.ofNat 12 csr.code) 0))
  | .csrc c d a csr => some (mkWord c 0x83 (packAS d a (BitVec.ofNat 12 csr.code) 0))
  | .eret c => some (mkWord c 0x84 (packAS 0 0 0 0))
  | .eretImg c => some (mkWord c 0x84 (packAS 0 0 0 1))
  | .yield c => some (mkWord c 0x85 (packAS 0 0 0 0))
  | .yieldKill c => some (mkWord c 0x85 (packAS 0 0 0 1))
  | .psave c a n => some (mkWord c 0x86 (packAS 0 a 0 n))
  | .ppull c a n => some (mkWord c 0x87 (packAS 0 a 0 n))
  | .pdrop c a n => some (mkWord c 0x88 (packAS 0 a 0 n))
  | .pstat c d a => some (mkWord c 0x89 (packAS d a 0 0))
  | .clkdiv c e n => some (mkWord c 0x8A (packAS 0 0 0 (0#10 ++ BitVec.ofNat 2 e.code ++ n)))
  | .phase c => some (mkWord c 0x8B (packAS 0 0 0 0))
  | .tlbinv c a => some (mkWord c 0x8C (packAS 0 a 0 0))
  | .tlbinvAll c => some (mkWord c 0x8C (packAS 0 0 0 1))
  | .launch c d a q => some (mkWord c 0x8D (packAS d a 0 (q.setWidth 16)))
  | .rdtick c d => some (mkWord c 0x8E (packAS d 0 0 0))
  | .rdiss c d => some (mkWord c 0x8F (packAS d 0 0 0))
  | .lsave c => some (mkWord c 0x90 (packAS 0 0 0 0))
  | .lrest c => some (mkWord c 0x91 (packAS 0 0 0 0))
  | .tld c t m pitch => some (mkWord c 0x00 (packMT 0 t 0 m 0 0 pitch))
  | .tldb c t m pitch => some (mkWord c 0x01 (packMT 0 t 0 m 0 0 pitch))
  | .mma c a t1 t2 => some (mkWord c 0x02 (packMT a t1 t2 0 0 0 0))
  | .rsum c w t => some (mkWord c 0x03 (packMT (w.setWidth 3) t 0 0 0 0 0))
  | .csum c w t => some (mkWord c 0x04 (packMT (w.setWidth 3) t 0 0 0 0 0))
  | .zpc c a wr wc => some (mkWord c 0x05 (packMT a 0 0 0 0 0 (0#16 ++ wc ++ wr)))
  | .drain c a m m2 pitch => some (mkWord c 0x06 (packMT a 0 0 m m2 0 pitch))
  | .aclr c a => some (mkWord c 0x08 (packMT a 0 0 0 0 0 0))
  | .amov c a b => some (mkWord c 0x09 (packMT a 0 0 0 0 0 (b.setWidth 20)))
  | .tzero c t => some (mkWord c 0x0A (packMT 0 t 0 0 0 0 0))
  | .mli c m imm => some (mkWord c 0x10 (packMC m 0 imm))
  | .maddi c m imm => some (mkWord c 0x11 (packMC m 0 imm))
  | .mpop c m => some (mkWord c 0x12 (packMC m 0 0))
  | .mloop c m off => some (mkWord c 0x13 (packMB m 0 off))
  | .mbq c off => some (mkWord c 0x14 (packMB 0 0 off))
  | .mjmp c off => some (mkWord c 0x15 (packMB 0 0 off))
  | .msatc c m => some (mkWord c 0x16 (packMC m 0 0))
  | .vadd c d a b k ty => some (mkWord c 0x00 (packVR (BitVec.ofNat 5 d.code) (BitVec.ofNat 5 a.code) (BitVec.ofNat 5
      b.code) 0 k (BitVec.ofNat 2 ty.code) 0))
  | .vsub c d a b k ty => some (mkWord c 0x01 (packVR (BitVec.ofNat 5 d.code) (BitVec.ofNat 5 a.code) (BitVec.ofNat 5
      b.code) 0 k (BitVec.ofNat 2 ty.code) 0))
  | .vmul c d a b k ty => some (mkWord c 0x02 (packVR (BitVec.ofNat 5 d.code) (BitVec.ofNat 5 a.code) (BitVec.ofNat 5
      b.code) 0 k (BitVec.ofNat 2 ty.code) 0))
  | .vfma c d a b x k ty => some (mkWord c 0x03 (packVR (BitVec.ofNat 5 d.code) (BitVec.ofNat 5 a.code) (BitVec.ofNat
      5 b.code) (BitVec.ofNat 5 x.code) k (BitVec.ofNat 2 ty.code) 0))
  | .vmin c d a b k ty => some (mkWord c 0x04 (packVR (BitVec.ofNat 5 d.code) (BitVec.ofNat 5 a.code) (BitVec.ofNat 5
      b.code) 0 k (BitVec.ofNat 2 ty.code) 0))
  | .vmax c d a b k ty => some (mkWord c 0x05 (packVR (BitVec.ofNat 5 d.code) (BitVec.ofNat 5 a.code) (BitVec.ofNat 5
      b.code) 0 k (BitVec.ofNat 2 ty.code) 0))
  | .vabs c d a k ty => some (mkWord c 0x06 (packVR (BitVec.ofNat 5 d.code) (BitVec.ofNat 5 a.code) 0 0 k
      (BitVec.ofNat 2 ty.code) 0))
  | .vneg c d a k ty => some (mkWord c 0x07 (packVR (BitVec.ofNat 5 d.code) (BitVec.ofNat 5 a.code) 0 0 k
      (BitVec.ofNat 2 ty.code) 0))
  | .vdiv c d a b k => some (mkWord c 0x08 (packVR (BitVec.ofNat 5 d.code) (BitVec.ofNat 5 a.code) (BitVec.ofNat 5
      b.code) 0 k 0 0))
  | .vsqrt c d a k => some (mkWord c 0x09 (packVR (BitVec.ofNat 5 d.code) (BitVec.ofNat 5 a.code) 0 0 k 0 0))
  | .vrsq c d a k => some (mkWord c 0x0A (packVR (BitVec.ofNat 5 d.code) (BitVec.ofNat 5 a.code) 0 0 k 0 0))
  | .vrcp c d a k => some (mkWord c 0x0B (packVR (BitVec.ofNat 5 d.code) (BitVec.ofNat 5 a.code) 0 0 k 0 0))
  | .vexp2 c d a k => some (mkWord c 0x0C (packVR (BitVec.ofNat 5 d.code) (BitVec.ofNat 5 a.code) 0 0 k 0 0))
  | .vlog2 c d a k => some (mkWord c 0x0D (packVR (BitVec.ofNat 5 d.code) (BitVec.ofNat 5 a.code) 0 0 k 0 0))
  | .vexp c d a k => some (mkWord c 0x0E (packVR (BitVec.ofNat 5 d.code) (BitVec.ofNat 5 a.code) 0 0 k 0 0))
  | .vand c d a b k ty => some (mkWord c 0x10 (packVR (BitVec.ofNat 5 d.code) (BitVec.ofNat 5 a.code) (BitVec.ofNat 5
      b.code) 0 k (BitVec.ofNat 2 ty.code) 0))
  | .vor c d a b k ty => some (mkWord c 0x11 (packVR (BitVec.ofNat 5 d.code) (BitVec.ofNat 5 a.code) (BitVec.ofNat 5
      b.code) 0 k (BitVec.ofNat 2 ty.code) 0))
  | .vxor c d a b k ty => some (mkWord c 0x12 (packVR (BitVec.ofNat 5 d.code) (BitVec.ofNat 5 a.code) (BitVec.ofNat 5
      b.code) 0 k (BitVec.ofNat 2 ty.code) 0))
  | .vshl c d a b k ty => some (mkWord c 0x13 (packVR (BitVec.ofNat 5 d.code) (BitVec.ofNat 5 a.code) (BitVec.ofNat 5
      b.code) 0 k (BitVec.ofNat 2 ty.code) 0))
  | .vshr c d a b k ty => some (mkWord c 0x14 (packVR (BitVec.ofNat 5 d.code) (BitVec.ofNat 5 a.code) (BitVec.ofNat 5
      b.code) 0 k (BitVec.ofNat 2 ty.code) 0))
  | .vsar c d a b k ty => some (mkWord c 0x15 (packVR (BitVec.ofNat 5 d.code) (BitVec.ofNat 5 a.code) (BitVec.ofNat 5
      b.code) 0 k (BitVec.ofNat 2 ty.code) 0))
  | .vcvt c d a x k ty dt rm sat => some (mkWord c 0x16 (packVR (BitVec.ofNat 5 d.code) (BitVec.ofNat 5 a.code) 0
      (BitVec.ofNat 5 x.code) k (BitVec.ofNat 2 ty.code) (0#7 ++ BitVec.ofBool sat ++ BitVec.ofNat 3 rm.code ++
      BitVec.ofNat 4 dt.code)))
  | .vcmp c cc kd a b k ty => some (mkWord c 0x17 (packVR (kd.setWidth 5) (BitVec.ofNat 5 a.code) (BitVec.ofNat 5
      b.code) 0 k (BitVec.ofNat 2 ty.code) (BitVec.ofNat 15 cc.code)))
  | .vsel c d a b ks k ty => some (mkWord c 0x18 (packVR (BitVec.ofNat 5 d.code) (BitVec.ofNat 5 a.code)
      (BitVec.ofNat 5 b.code) (ks.setWidth 5) k (BitVec.ofNat 2 ty.code) 0))
  | .vmov c d a k ty => some (mkWord c 0x19 (packVR (BitVec.ofNat 5 d.code) (BitVec.ofNat 5 a.code) 0 0 k
      (BitVec.ofNat 2 ty.code) 0))
  | .vbrd c d a lane k ty => some (mkWord c 0x1A (packVR (BitVec.ofNat 5 d.code) (BitVec.ofNat 5 a.code) 0 0 k
      (BitVec.ofNat 2 ty.code) (lane.setWidth 15)))
  | .viota c d k ty => some (mkWord c 0x1B (packVR (BitVec.ofNat 5 d.code) 0 0 0 k (BitVec.ofNat 2 ty.code) 0))
  | .vperm c d a b k ty => some (mkWord c 0x1C (packVR (BitVec.ofNat 5 d.code) (BitVec.ofNat 5 a.code) (BitVec.ofNat
      5 b.code) 0 k (BitVec.ofNat 2 ty.code) 0))
  | .vcomp c d a k ty => some (mkWord c 0x1D (packVR (BitVec.ofNat 5 d.code) (BitVec.ofNat 5 a.code) 0 0 k
      (BitVec.ofNat 2 ty.code) 0))
  | .vfirst c count d ka k ty => some (mkWord c 0x1E (packVR (BitVec.ofNat 5 d.code) (ka.setWidth 5) 0 0 k
      (BitVec.ofNat 2 ty.code) ((BitVec.ofBool count).setWidth 15)))
  | .klog c op kd ka kb => some (mkWord c 0x1F (packVR (kd.setWidth 5) (ka.setWidth 5) (kb.setWidth 5) 0 0 0
      (BitVec.ofNat 15 op.code)))
  | .vrsum c d a k ty => some (mkWord c 0x20 (packVR (BitVec.ofNat 5 d.code) (BitVec.ofNat 5 a.code) 0 0 k
      (BitVec.ofNat 2 ty.code) 0))
  | .vrmax c d a k ty => some (mkWord c 0x21 (packVR (BitVec.ofNat 5 d.code) (BitVec.ofNat 5 a.code) 0 0 k
      (BitVec.ofNat 2 ty.code) 0))
  | .vrmin c d a k ty => some (mkWord c 0x22 (packVR (BitVec.ofNat 5 d.code) (BitVec.ofNat 5 a.code) 0 0 k
      (BitVec.ofNat 2 ty.code) 0))
  | .vramax c d a k ty => some (mkWord c 0x23 (packVR (BitVec.ofNat 5 d.code) (BitVec.ofNat 5 a.code) 0 0 k
      (BitVec.ofNat 2 ty.code) 0))
  | .vscan c d a xc k ty => some (mkWord c 0x24 (packVR (BitVec.ofNat 5 d.code) (BitVec.ofNat 5 a.code) 0 0 k
      (BitVec.ofNat 2 ty.code) (xc.setWidth 15)))
  | .vscanx c d a xc k ty => some (mkWord c 0x25 (packVR (BitVec.ofNat 5 d.code) (BitVec.ofNat 5 a.code) 0 0 k
      (BitVec.ofNat 2 ty.code) (xc.setWidth 15)))
  | .vsort c desc d a k ty => some (mkWord c 0x28 (packVR (BitVec.ofNat 5 d.code) (BitVec.ofNat 5 a.code) 0 0 k
      (BitVec.ofNat 2 ty.code) ((BitVec.ofBool desc).setWidth 15)))
  | .vsortk c desc d a b k ty => some (mkWord c 0x29 (packVR ((0#1 ++ d ++ 0#1).setWidth 5) (BitVec.ofNat 5 a.code)
      (BitVec.ofNat 5 b.code) 0 k (BitVec.ofNat 2 ty.code) ((BitVec.ofBool desc).setWidth 15)))
  | .vmerge c desc d a b ty => some (mkWord c 0x2A (packVR ((0#1 ++ d ++ 0#1).setWidth 5) (BitVec.ofNat 5 a.code)
      (BitVec.ofNat 5 b.code) 0 0 (BitVec.ofNat 2 ty.code) ((BitVec.ofBool desc).setWidth 15)))
  | .vrng c d a b k ty => some (mkWord c 0x2C (packVR (BitVec.ofNat 5 d.code) (BitVec.ofNat 5 a.code) (BitVec.ofNat 5
      b.code) 0 k (BitVec.ofNat 2 ty.code) 0))
  | .vld c v x et k imm => some (mkWord c 0x30 (packVM (v.setWidth 5) x (BitVec.ofNat 4 et.code) k imm))
  | .vst c v x et k imm => some (mkWord c 0x31 (packVM (v.setWidth 5) x (BitVec.ofNat 4 et.code) k imm))
  | .vldx c v x et k vi => some (mkWord c 0x32 (packVM (v.setWidth 5) x (BitVec.ofNat 4 et.code) k (vi.setWidth 24)))
  | .vstx c v x et k vi => some (mkWord c 0x33 (packVM (v.setWidth 5) x (BitVec.ofNat 4 et.code) k (vi.setWidth 24)))
  | .qst c v x xr en wc rm had => some (mkWord c 0x34 (packVQ (v ++ 0#2) x xr (en.setWidth 8) ((BitVec.ofBool
      wc).setWidth 1) (BitVec.ofNat 2 rm.code) had 0))
  | .qld c v x wc => some (mkWord c 0x35 (packVQ (v ++ 0#2) x 0 0 ((BitVec.ofBool wc).setWidth 1) 0 0 0))
  | .zbind c z imm => some (mkWord c 0x38 (packVX (z.setWidth 4) 0 imm))
  | .zrst c z => some (mkWord c 0x39 (packVX (z.setWidth 4) 0 0))
  | .xli c d imm => some (mkWord c 0x40 (packVX d 0 imm))
  | .xadd c d a b => some (mkWord c 0x41 (packVX d a (b.setWidth 32)))
  | .xaddi c d a imm => some (mkWord c 0x42 (packVX d a imm))
  | .xmul c d a b => some (mkWord c 0x43 (packVX d a (b.setWidth 32)))
  | .xpop c d => some (mkWord c 0x44 (packVX d 0 0))
  | .xpush c a => some (mkWord c 0x45 (packVX 0 a 0))
  | .xget c d v lane => some (mkWord c 0x46 (packVX d v (lane.setWidth 32)))
  | .xfadd c d a b => some (mkWord c 0x48 (packVX d a (b.setWidth 32)))
  | .xfmul c d a b => some (mkWord c 0x49 (packVX d a (b.setWidth 32)))
  | .vloop c a off => some (mkWord c 0x50 (packVB a 0 0 0 off))
  | .vbq c off => some (mkWord c 0x51 (packVB 0 0 0 0 off))
  | .vbr c cc a b off => some (mkWord c 0x52 (packVB a b (BitVec.ofNat 4 cc.code) 0 off))
  | .vjmp c off => some (mkWord c 0x53 (packVB 0 0 0 0 off))
  | .vbrf c ne k off => some (mkWord c 0x54 (packVB (k.setWidth 4) 0 ((BitVec.ofBool ne).setWidth 4) 0 off))
  | .nop _ c => some (mkWord c 0xF0 0)
  | .join _ c => some (mkWord c 0xF1 0)
  | .trap _ c imm => some (mkWord c 0xF2 (packCO 0 imm))
  | .brk _ c => some (mkWord c 0xF3 0)
  | .tfence _ c => some (mkWord c 0xF4 0)
  | .ill _ rest => some (rest.extractLsb' 40 16 ++ 0xFF#8 ++ rest.extractLsb' 0 40)
  | .fetch .. | .land .. | .start .. | .read .. | .merge .. | .write .. | .atomic .. | .deliver ..
  | .complete .. | .rfHook .. | .baHook .. | .remoteAtom .. | .remoteAtomReply .. | .timedDeadline ..
  | .transmit .. | .ergPut .. | .ergAdd .. | .ergBar .. | .shootdown .. | .clock .. | .preempt .. | .config ..
  | .jobend .. | .barrierWaitEnd .. | .replicaRepair .. | .round .. | .jobStart .. | .jobResume ..
  | .sliceExpiry .. | .watchdog .. | .trapDelivery .. | .softError .. | .memorySoftError .. | .pull ..
  | .tricklePull .. | .blockDrain .. | .hostTailWrite .. | .queueEnable .. | .doorbell .. | .eventRingEnable ..
  | .tenantCreate .. | .tenantDisable .. | .apertureRead .. | .apertureWrite .. | .checkpointFull ..
  | .checkpointIncremental .. | .checkpointEnd .. | .registerWrite .. | .powerSample .. | .throttlePeriod ..
  | .clockHoldEnd .. | .phaseTimeout .. | .thermalTrip .. | .park .. | .unpark .. | .flitReceive ..
  | .keyFlit .. | .keyHold .. | .linkDown .. | .reset .. | .firmwareVerify .. | .hbmTraining ..
  | .linkTraining .. | .ergCalibration .. | .capabilityPublish .. | .routineImageCheck .. | .getMeasurements ..
  | .referenceTick .. | .replicaSoftError .. | .thermalTripRelease .. | .flowRestored .. | .keylow ..
  | .spdmKeyExchange .. | .apertureAtomic .. | .launchSlotWrite .. | .hostWriteOneToClear .. => none

/-- The stream whose map an instruction belongs to. -/
def Instr.stream : Instr → StreamId
  | .ill st _ => st
  | i => match i.ctl? with
    | some (st, _) => st
    | none => .a

end Sys2Proof
end

