-- ==== Sys2Proof/Machine/Control.lean ====
section
/-! DEFINITION. Predicates and control flow of the A stream, and its handle instructions (04 R93 to R106). -/

namespace Sys2Proof.Machine

/-- The landing of a predicate: p0 discards it, and it still lands (R80). -/
def pWrite (d : BitVec 3) (x : Bool) : List LAct := if d = 0 then [.discard] else [.pred d.toNat x]

/-! ## Predicates (R93 to R95) -/

def execCmp (ctl : Ctl) (cc : Cond) (pd : BitVec 3) (a b : BitVec 6) (s : State) : Out :=
  let c := s.core
  issue { st := .a, ctl := ctl, regs := c.sRange a ++ c.sRange b, dst := pRange pd, lat := c.latA 1,
          acts := pWrite pd (condHolds cc (c.sreg a) (c.sreg b)) } s

def execCmpi (ctl : Ctl) (cc : Cond) (pd : BitVec 3) (a : BitVec 6) (imm : BitVec 24) (s : State) : Out :=
  let c := s.core
  issue { st := .a, ctl := ctl, regs := c.sRange a, dst := pRange pd, lat := c.latA 1,
          acts := pWrite pd (condHolds cc (c.sreg a) (imm.signExtend 64)) } s

/-- PLOG's operations (R95). -/
def plogOp (op : LogOp) (x y : Bool) : Bool :=
  match op with
  | .and => x && y
  | .or => x || y
  | .xor => x != y
  | .andn => x && !y
  | .not => !x

def execPlog (ctl : Ctl) (op : LogOp) (pd pa pb : BitVec 3) (s : State) : Out :=
  let c := s.core
  issue { st := .a, ctl := ctl, preds := [pa, pb], dst := pRange pd, lat := c.latA 1,
          acts := pWrite pd (plogOp op (c.preg pa) (c.preg pb)) } s

/-! ## Control flow (R96 to R101) -/

def branchIf (b : Bool) (off : BitVec 24) : Next := if b then .rel off else .seq

/-- The offset after the word: every link (R96). -/
def Core.link (c : Core) : W64 := (pcMove (c.winSize .a) c.sa.pc 1).setWidth 64

def execBr (ctl : Ctl) (cc : Cond) (a b : BitVec 6) (off : BitVec 24) (s : State) : Out :=
  let c := s.core
  issue { st := .a, ctl := ctl, regs := c.sRange a ++ c.sRange b, lat := c.latA 1,
          next := branchIf (condHolds cc (c.sreg a) (c.sreg b)) off } s

def execBp (ctl : Ctl) (ne : Bool) (p : BitVec 3) (off : BitVec 24) (s : State) : Out :=
  let c := s.core
  issue { st := .a, ctl := ctl, preds := [p], lat := c.latA 1, next := branchIf (c.preg p != ne) off } s

def execJmp (ctl : Ctl) (off : BitVec 24) (s : State) : Out :=
  issue { st := .a, ctl := ctl, lat := s.core.latA 1, next := .rel off } s

/-- CALL leaves the link in s63 (R99). -/
def execCall (ctl : Ctl) (off : BitVec 24) (s : State) : Out :=
  let c := s.core
  issue { st := .a, ctl := ctl, dst := c.sRange 63, lat := c.latA 1, acts := c.sWrite 63 c.link, next := .rel off } s

def execJr (ctl : Ctl) (d a : BitVec 6) (s : State) : Out :=
  let c := s.core
  issue { st := .a, ctl := ctl, regs := c.sRange a, dst := c.sRange d, lat := c.latA 1, acts := c.sWrite d c.link,
          next := .abs (c.sreg a).toNat } s

/-- LOOP decides from the decremented value (R100). -/
def execLoop (ctl : Ctl) (a : BitVec 6) (off : BitVec 24) (s : State) : Out :=
  let c := s.core
  let n := c.sreg a - 1
  issue { st := .a, ctl := ctl, regs := c.sRange a, lat := c.latA 1, acts := c.sWrite a n,
          next := branchIf (n != 0) off } s

/-! ## Handles (R102 to R106) -/

/-- A word that writes a handle register. -/
def handleWord (ctl : Ctl) (h : BitVec 4) (regs : Ranges) (val : BitVec 256) (s : State) : Out :=
  issue { st := .a, ctl := ctl, regs := regs, dst := hRange h, lat := s.core.latA 1,
          acts := [.handle h.toNat val] } s

/-- The landing of a field: under masks, the bits of one field of a handle change, and the others keep the values of the
landing tick (R103, 14 R340). (DEDUCED, log 45.) -/
def hfLand (h : BitVec 4) (fld : HField) (x : W64) : LAct :=
  let m := hfSet 0 fld (BitVec.allOnes 64)
  let v := hfSet 0 fld x
  .list (((List.range 32).filter fun i => byteOf m i ≠ 0).map fun i =>
    { addr := 0x302200 + 32 * h.toNat + i, data := [byteOf v i], mask := some (byteOf m i) })

def execHset (ctl : Ctl) (h : BitVec 4) (a : BitVec 6) (fld : HField) (s : State) : Out :=
  let c := s.core
  issue { st := .a, ctl := ctl, regs := c.sRange a, dst := hRange h, lat := c.latA 1,
          acts := [hfLand h fld (c.sreg a)] } s

def execHget (ctl : Ctl) (a : BitVec 6) (g : BitVec 4) (fld : HField) (s : State) : Out :=
  let c := s.core
  issue { st := .a, ctl := ctl, regs := hRange g, dst := c.sRange a, lat := c.latA 1,
          acts := c.sWrite a (hfGet (c.hreg g) fld) } s

def execHmov (ctl : Ctl) (h g : BitVec 4) (s : State) : Out :=
  handleWord ctl h (hRange g) (s.core.hreg g) s

/-- The address of a handle moved by a number of steps along a dimension (R105). -/
def hAdvance (h : BitVec 256) (n : Int) (dim : Nat) : W64 :=
  let q := n * hStride h dim
  let off := if hLayout h = 1 then q.tdiv 256 * (etBlock (hEt h) : Int) else q * (esz (hEt h) : Int)
  BitVec.ofInt 64 (((hAddr h : Int) + off) % 2 ^ 48)

def execHadv (ctl : Ctl) (h g : BitVec 4) (a : BitVec 6) (dim : BitVec 2) (s : State) : Out :=
  let c := s.core
  let x := c.hreg g
  handleWord ctl h (hRange g ++ c.sRange a) (hfSet x .addr (hAdvance x (c.sreg a).toInt dim.toNat)) s

/-- The extent field, and the stride field, of a dimension. -/
def extField (dim : BitVec 2) : HField :=
  match dim with
  | 0 => .ext0
  | 1 => .ext1
  | 2 => .ext2
  | _ => .ext3

def strideField (dim : BitVec 2) : HField :=
  match dim with
  | 2 => .stride2
  | 3 => .stride3
  | _ => .stride1

def execHdim (ctl : Ctl) (h g : BitVec 4) (a b : BitVec 6) (dim : BitVec 2) (s : State) : Out :=
  let c := s.core
  let x := hfSet (c.hreg g) (extField dim) (c.sreg a)
  handleWord ctl h (hRange g ++ c.sRange a ++ c.sRange b)
    (if dim = 0 then x else hfSet x (strideField dim) (c.sreg b)) s

/-- The address of HLD and HST (R106). -/
def Core.hEa (c : Core) (a : BitVec 6) (off : BitVec 8) : Nat :=
  ((c.sreg a + BitVec.ofNat 64 (32 * off.toNat)) &&& ~~~0x1F).toNat

/-- LOCAL_BOUNDS outside the scratchpad and the shade windows, then LENT (R106). -/
def Core.shadeFault (c : Core) (ok : Bool) (a : Nat) : Option Flt :=
  if !ok || 0x200000 ≤ a then some (flt 0x07 a)
  else if lentAddr a && !c.hot then some (flt 0x06 a) else none

/-- Four further ticks for a lent address (01 R17, 07 R166). -/
def lentTicks (a : Nat) : Nat := if lentAddr a then 4 else 0

def execHld (ctl : Ctl) (h : BitVec 4) (a : BitVec 6) (off : BitVec 8) (s : State) : Out :=
  let c := s.core
  let ea := c.hEa a off
  let f := c.shadeFault true ea
  issue { st := .a, ctl := ctl, regs := c.sRange a, dst := hRange h, fault := f,
          rd := if f.isSome then [] else [(ea, 32)], lat := c.latA (6 + lentTicks ea),
          acts := [.handle h.toNat (BitVec.ofNat 256 (if f.isSome then 0 else s.getLe ea 32))] } s

def execHst (ctl : Ctl) (g : BitVec 4) (a : BitVec 6) (off : BitVec 8) (s : State) : Out :=
  let c := s.core
  let ea := c.hEa a off
  let f := c.shadeFault true ea
  issue { st := .a, ctl := ctl, regs := c.sRange a ++ hRange g, fault := f,
          wr := if f.isSome then [] else [(ea, 32)], lat := c.latA (4 + lentTicks ea),
          acts := [.write ea 1 0 (leBytes 32 (c.hreg g).toNat)] } s

end Sys2Proof.Machine
end

