-- ==== Sys2Proof/Machine/Matrix.lean ====
section
/-! DEFINITION. The M stream: format words, tile commands and control (05 R108 to R131). -/

namespace Sys2Proof.Machine

/-! ## Format words (R114 to R116) -/

def fmtAF (x : Nat) : Nat := bits 63 60 x
def fmtAS (x : Nat) : Bool := bit 59 x
def fmtBF (x : Nat) : Nat := bits 58 55 x
def fmtBS (x : Nat) : Bool := bit 54 x
def fmtCF (x : Nat) : Nat := bits 53 52 x
def fmtM (x : Nat) : Nat := bits 51 44 x
def fmtN (x : Nat) : Nat := bits 43 37 x
def fmtK (x : Nat) : Nat := bits 36 28 x
def fmtZA (x : Nat) : Nat := bits 27 20 x
def fmtZB (x : Nat) : Nat := bits 19 12 x
def fmtZF (x : Nat) : Bool := bit 11 x
def fmtDF (x : Nat) : Nat := bits 10 7 x
def fmtRM (x : Nat) : Nat := bits 6 5 x
def fmtDS (x : Nat) : Bool := bit 4 x

/-- Roles by format code: integer formats 4 and 5; 16-bit formats 2 and 3; 4-bit formats 1 and 5 (R114, R116). -/
def isIntF (f : Nat) : Bool := f = 4 || f = 5
def is16 (f : Nat) : Bool := f = 2 || f = 3
def is4 (f : Nat) : Bool := f = 1 || f = 5

/-- A format word that every tile command accepts (R115). -/
def fmtOk (x : Nat) : Bool :=
  let af := fmtAF x
  let bf := fmtBF x
  let cf := fmtCF x
  let df := fmtDF x
  af < 8 && bf < 8 && df < 6 && cf < 3 && fmtRM x < 3 && bits 3 0 x = 0
    && fmtM x ≤ 128 && fmtN x ≤ 64 && fmtK x ≤ 256 && !((is16 af || is16 bf) && 128 < fmtK x)
    && !(cf = 0 && (isIntF af || isIntF bf)) && !(cf ≠ 0 && (!isIntF af || !isIntF bf))
    && !(fmtAS x && !isIntF af) && !(fmtBS x && !isIntF bf)
    && !(cf = 0 && (fmtZA x ≠ 0 || fmtZB x ≠ 0))
    && !(cf = 0 && (df = 3 || df = 4 || df = 5)) && !(cf ≠ 0 && (df = 1 || df = 2))

/-- The effective length (R116). -/
def kEff (x : Nat) : Nat :=
  if is16 (fmtAF x) || is16 (fmtBF x) then 4 * fmtK x
  else if !is4 (fmtAF x) || !is4 (fmtBF x) then fmtK x
  else ceilDiv (fmtK x) 2

/-- Bytes of a row in memory (R121). -/
def rowBytes (f k : Nat) : Nat :=
  if f = 0 then 260 else if f = 1 then 132 else if is16 f then 2 * k else if f = 5 then ceilDiv k 2 else k

/-- Addresses of registers of the M stream (R108). -/
def tileAddr (t : BitVec 3) : Nat := 0x200000 + 0x10000 * t.toNat
def accAddr (a : BitVec 3) : Nat := 0x280000 + 0x10000 * a.toNat
def wAddr (w : BitVec 2) : Nat := 0x301000 + 0x200 * w.toNat

/-- LENT for a lent register outside hot class, with the first address of the register's data in FADDR; of several fields the
first in the order a, t1, t2 (R117 step 1). (DESIGN CHOICE, log 64.) -/
def Core.lentReg (c : Core) (addr : Nat) (n : BitVec 3) : Option Flt :=
  if 4 ≤ n.toNat && !c.hot then some (flt 0x06 addr) else none

/-- A command names a lent tile or accumulator: 4 further ticks, once, at divisor 2 (01 R17, 07 R166). (DEDUCED, log 49.) -/
def namesLent (ns : List (BitVec 3)) : Nat := if ns.any fun n => 4 ≤ n.toNat then 4 else 0

def tileRows (t : BitVec 3) (n : Nat) : Ranges :=
  if n = 0 then [] else ((List.range n).map fun i => (tileAddr t + 256 * i, 256)) ++ [(tileAddr t + 0x8000, 4 * n)]

/-- Bytes that hold the first k codes of a row (R109). -/
def codeBytes (f k : Nat) : Nat := if is16 f then 2 * k else if is4 f then ceilDiv k 2 else k

/-- The pieces of the first n rows that a product or a sum reads: the codes of elements below K, but for those of a
block's tail, and the headers of block formats (R122, R124). -/
def tileReads (s : State) (t : BitVec 3) (f k n : Nat) : Ranges :=
  let len (i : Nat) := if f ≤ 1 then min k (256 - hdrTail (s.getLe (tileAddr t + 0x8000 + 4 * i) 4)) else k
  if n = 0 then []
  else ((List.range n).map fun i => (tileAddr t + 256 * i, codeBytes f (len i)))
    ++ (if f ≤ 1 then [(tileAddr t + 0x8000, 4 * n)] else [])

/-- Rows of 4·n bytes of an accumulator. -/
def accRows (a : BitVec 3) (m n : Nat) : Ranges :=
  if n = 0 then [] else (List.range m).map fun i => (accAddr a + 256 * i, 4 * n)

/-! ## Elements (R122) -/

/-- An element of a tile row: its exact value, and its sign and eighths exponent when it is a non-zero code of a log
selector. -/
structure Elem where
  val : X
  log : Option (Bool × Int)

/-- Code k of a row: bytes, nibbles or halfwords (R109). -/
def rowCode (f : Nat) (row : List Byte) (k : Nat) : Nat :=
  let b (i : Nat) := (row.getD i 0).toNat
  if is16 f then b (2 * k) + 256 * b (2 * k + 1)
  else if is4 f then (if k % 2 = 0 then b (k / 2) % 16 else b (k / 2) / 16)
  else b k

/-- EL of R122: element k of a row of 260 bytes, header first. -/
def elem (f : Nat) (sg : Bool) (row : List Byte) (k : Nat) : Elem :=
  let hdr := leNat (row.take 4)
  let code := rowCode f (row.drop 4) k
  if f ≤ 1 then
    let wc := f = 0
    if 256 - hdrTail hdr ≤ k then { val := .fin false 0 0, log := none }
    else
      let v := ((decSel wc (hdrSel hdr) code).mul (scaleVal (hdrScale hdr))).1
      let m := code % (if wc then 128 else 8)
      { val := v,
        log := if hdrSel hdr = 3 && m ≠ 0 then some (if wc then 128 ≤ code else 8 ≤ code, eighths wc code) else none }
  else if f = 2 then { val := decF .bf16 code, log := none }
  else if f = 3 then { val := decF .fp16 code, log := none }
  else if f = 6 then { val := decF .e4m3 code, log := none }
  else if f = 7 then { val := decF .e5m2 code, log := none }
  else
    let w := if f = 4 then 8 else 4
    { val := X.ofInt (if sg then sext w code else (code : Int)), log := none }

/-- P of R122: the log rule for two log codes, otherwise the exact product. -/
def elemProd (sa sb : X) (a b : Elem) : X :=
  match a.log, b.log with
  | some (na, ea), some (nb, eb) =>
    let q := ea + eb
    let m := t8 (q % 8).toNat
    ((((X.fin (na != nb) m (q / 8 - 15)).mul sa).1).mul sb).1
  | _, _ => (a.val.mul b.val).1

/-- Runs of indices whose products are summed exactly (R122). -/
def groupsOf (x : Nat) : List (List Nat) :=
  let k := fmtK x
  if k = 0 then []
  else if fmtAF x ≤ 1 || fmtBF x ≤ 1 then [List.range k]
  else (List.range (ceilDiv k 32)).map fun g => (List.range (min 32 (k - 32 * g))).map (32 * g + ·)

/-- The exact sum of some products, −0 only when all are (R122). -/
def sumProds : List X → X
  | [] => .fin false 0 0
  | p :: ps => ps.foldl (fun t x => (t.add x).1) p

/-- An integer element. -/
def elemInt (e : Elem) : Int :=
  match e.val with
  | .fin n m _ => if n then -(m : Int) else m
  | _ => 0

/-- One accumulator element after the product of two rows, and whether it clamped (R122). -/
def mmaElem (x : Nat) (ra rb : List Byte) (old : W32) : W32 × Bool :=
  let el (f : Nat) (sg : Bool) (row : List Byte) (k : Nat) := elem f sg row k
  let a := el (fmtAF x) (fmtAS x) ra
  let b := el (fmtBF x) (fmtBS x) rb
  let sa := scaleVal (hdrScale (leNat (ra.take 4)))
  let sb := scaleVal (hdrScale (leNat (rb.take 4)))
  let z : W32 := if fmtZF x then 0 else old
  (groupsOf x).foldl (fun (acc : W32 × Bool) g =>
    if fmtCF x = 0 then
      let t := sumProds (g.map fun k => elemProd sa sb (a k) (b k))
      (BitVec.ofNat 32 (rne32 ((dec32 acc.1.toNat).add t).1).1, acc.2)
    else
      let t := g.foldl (fun t k => t + elemInt (a k) * elemInt (b k)) (0 : Int)
      let r := acc.1.toInt + t
      if fmtCF x = 1 then (BitVec.ofInt 32 r, acc.2) else (BitVec.ofInt 32 (sat32 r), acc.2 || sat32 r ≠ r)) (z, false)

/-- The words of an M × N region after an update on the landing tick, row by row, and whether one clamped. -/
def updRegion (m n : Nat) (rd : Nat → W32) (f : Nat → Nat → W32 → W32 × Bool) : List (Nat × W32) × Bool :=
  let cells := (List.range m).flatMap fun i => (List.range n).map fun j => (64 * i + j, f i j (rd (64 * i + j)))
  (cells.map fun p => (p.1, p.2.1), cells.any fun p => p.2.2)

/-- MMA's update (R122). -/
def mmaLand (fmt : Nat) (t1 t2 : List Byte) (rd : Nat → W32) : List (Nat × W32) × Bool :=
  updRegion (fmtM fmt) (fmtN fmt) rd fun i j old =>
    mmaElem fmt ((t1.drop (260 * i)).take 260) ((t2.drop (260 * j)).take 260) old

/-- ZPC's update (R125). -/
def zpcLand (fmt : Nat) (corr : List W64) (rd : Nat → W32) : List (Nat × W32) × Bool :=
  updRegion (fmtM fmt) (fmtN fmt) rd fun i j old =>
    let r := old.toInt + (corr.getD (fmtN fmt * i + j) 0).toInt
    if fmtCF fmt = 1 then (BitVec.ofInt 32 r, false) else (BitVec.ofInt 32 (sat32 r), sat32 r ≠ r)

/-! ## Tile commands in common (R117, R118) -/

/-- The oldest value of a data queue. -/
def Core.headVal (c : Core) (q : DqId) : W64 := ((c.dq q).headD { val := 0, status := 0, faddr := 0 }).val

/-- The format word at the head of fq. -/
def Core.fmtWord (c : Core) : Nat := (c.headVal .fq).toNat

/-- Steps 1 to 3 of R117 for a command that names some lent-able registers and adds a check. -/
def Core.fmtFault (c : Core) (lent : Option Flt) (extra : Bool) : Option Flt :=
  lent.or (if (c.dq .fq).isEmpty then some (flt 0x03)
           else if fmtOk c.fmtWord && extra then none else some (flt 0x04))

/-- LOCAL_BOUNDS for pieces that must lie in the scratchpad or the shade windows, each aligned (R117 step 4). -/
def shadeBounds (ps : Ranges) (al : Nat) : Option Flt :=
  ps.findSome? fun p =>
    if p.1 % al ≠ 0 then some (flt 0x07 p.1)
    else if p.2 = 0 then none
    else if 0x200000 ≤ p.1 then some (flt 0x07 p.1)
    else if 0x200000 < p.1 + p.2 then some (flt 0x07 0x200000) else none

/-- LENT for pieces in a shade window outside hot class. -/
def Core.shadeLent (c : Core) (ps : Ranges) : Option Flt :=
  if c.hot then none
  else ps.findSome? fun p =>
    if p.2 = 0 then none else if lentAddr p.1 then some (flt 0x06 p.1)
    else if lentAddr (p.1 + p.2 - 1) then some (flt 0x06 0x100000) else none

def anyShade (ps : Ranges) : Bool := ps.any fun p => p.2 ≠ 0 && (lentAddr p.1 || lentAddr (p.1 + p.2 - 1))

/-- HEADER for the first of some header addresses whose header fails R65. -/
def headerFault (s : State) (wc : Bool) (as : List Nat) : Option Flt :=
  (as.find? fun a => !hdrOk (s.getLe a 4) wc).map fun a => flt 0x05 a

/-- A tile command pops its format word at issue (R117). -/
def popFmt (s : State) : State := s.onCore (·.dqDrop .fq 1)

/-- STREAMID of a stream: the A stream's value plus its number (11 R282). -/
def Core.sid (c : Core) (st : StreamId) : W32 := (c.csr .streamid).setWidth 32 + BitVec.ofNat 32 (streamNo st)

/-! ## TLD and TLDB (R121) -/

/-- A tile load: format code and rows of the role. -/
def tileLoad (ctl : Ctl) (t m : BitVec 3) (pitch : BitVec 20) (role : Nat → Nat) (rowsOf : Nat → Nat)
    (s : State) : Out :=
  let c := s.core
  let x := c.fmtWord
  let f := role x
  let rows := rowsOf x
  let rb := rowBytes f (fmtK x)
  let src (i : Nat) := (c.mreg m).toNat + i * pitch.toNat
  let ps : Ranges := (List.range rows).map fun i => (src i, rb)
  let flt1 := c.fmtFault (c.lentReg (tileAddr t) t) true
  let al := if f ≤ 1 then 4 else if is16 f then 2 else 1
  let fault := flt1.or ((shadeBounds ps al).or (c.shadeLent ps))
  let row (i : Nat) : List Byte := s.getLs (src i) rb
  let data := (List.range rows).flatMap fun i => (if f ≤ 1 then (row i).drop 4 else row i).takeD 256 0
  let hdrs := (List.range rows).flatMap fun i => if f ≤ 1 then (row i).take 4 else leBytes 4 0
  let ok := fault.isNone
  let extra := max (if anyShade ps then 4 else 0) (namesLent [t])
  issue { st := .m, ctl := ctl, tile := true, regs := mRange m, dst := if ok then tileRows t rows else [], fault := fault,
          rd := if ok then ps.filter (·.2 ≠ 0) else [],
          mid := if ok && f ≤ 1 then headerFault s (f = 0) (ps.map (·.1)) else none,
          lat := latHalf c.sm.div (16 + ceilDiv rows 2 + extra), fmt := BitVec.ofNat 64 x,
          acts := if rows = 0 || !ok then [] else [.write (tileAddr t) rows 256 data, .write (tileAddr t + 0x8000) 1 0 hdrs] } s
    popFmt

def execTld (ctl : Ctl) (t m : BitVec 3) (pitch : BitVec 20) (s : State) : Out := tileLoad ctl t m pitch fmtAF fmtM s
def execTldb (ctl : Ctl) (t m : BitVec 3) (pitch : BitVec 20) (s : State) : Out := tileLoad ctl t m pitch fmtBF fmtN s

/-! ## MMA (R119, R122) -/

/-- Rows of a tile, 260 bytes each: header, then data. -/
def tileBytes (s : State) (t : BitVec 3) (n : Nat) : List Byte :=
  (List.range n).flatMap fun i => s.getLs (tileAddr t + 0x8000 + 4 * i) 4 ++ s.getLs (tileAddr t + 256 * i) 256

def execMma (ctl : Ctl) (a t1 t2 : BitVec 3) (s : State) : Out :=
  let c := s.core
  let x := c.fmtWord
  let fault := c.fmtFault (((c.lentReg (accAddr a) a).or (c.lentReg (tileAddr t1) t1)).or (c.lentReg (tileAddr t2) t2)) true
  let live := fmtM x ≠ 0 && fmtN x ≠ 0
  let m := if live && fault.isNone then fmtM x else 0
  let n := if live && fault.isNone then fmtN x else 0
  let hdrA := if fmtAF x ≤ 1 then headerFault s (fmtAF x = 0) ((List.range m).map fun i => tileAddr t1 + 0x8000 + 4 * i) else none
  let hdrB := if fmtBF x ≤ 1 then headerFault s (fmtBF x = 0) ((List.range n).map fun i => tileAddr t2 + 0x8000 + 4 * i) else none
  issue { st := .m, ctl := ctl, wait := c.array ≠ 0, fault := fault,
          rd := tileReads s t1 (fmtAF x) (fmtK x) m ++ tileReads s t2 (fmtBF x) (fmtK x) n,
          rdLand := if fmtZF x then [] else accRows a m n, wrLand := accRows a m n, mid := hdrA.or hdrB,
          lat := kEff x * c.sm.div + 24 + namesLent [a, t1, t2], fmt := BitVec.ofNat 64 x,
          acts := if m = 0 then []
            else [.mma (accAddr a) (BitVec.ofNat 64 x) (tileBytes s t1 m) (tileBytes s t2 n)] } s
    fun s => (popFmt s).onCore fun c => { c with array := if m = 0 then c.array else kEff x * c.sm.div }

/-! ## RSUM, CSUM and ZPC (R124, R125) -/

/-- The exact sum of the first K codes of a tile row. -/
def rowSum (f : Nat) (sg : Bool) (k : Nat) (row : List Byte) : Int :=
  (List.range k).foldl (fun t i => t + elemInt (elem f sg row i)) (0 : Int)

def sumWord (ctl : Ctl) (w : BitVec 2) (t : BitVec 3) (role : Nat → Nat) (sign : Nat → Bool) (rowsOf : Nat → Nat)
    (s : State) : Out :=
  let c := s.core
  let x := c.fmtWord
  let f := role x
  let fault := c.fmtFault (c.lentReg (tileAddr t) t) (isIntF f)
  let rows := if fault.isSome then 0 else rowsOf x
  let row (i : Nat) := leBytes 4 0 ++ s.getLs (tileAddr t + 256 * i) 256
  let sums := (List.range rows).map fun i => BitVec.ofInt 32 (rowSum f (sign x) (fmtK x) (row i))
  let dest : Ranges := if rows = 0 then [] else [(wAddr w, 4 * rows)]
  issue { st := .m, ctl := ctl, fault := fault, rd := tileReads s t f (fmtK x) rows,
          rdLand := if fmtZF x then [] else dest, wrLand := dest, fmt := BitVec.ofNat 64 x,
          lat := latHalf c.sm.div (24 + ceilDiv rows 2 + namesLent [t]),
          acts := if rows = 0 then [] else [.sum (wAddr w) (BitVec.ofNat 64 x) sums] } s popFmt

def execRsum (ctl : Ctl) (w : BitVec 2) (t : BitVec 3) (s : State) : Out := sumWord ctl w t fmtAF fmtAS fmtM s
def execCsum (ctl : Ctl) (w : BitVec 2) (t : BitVec 3) (s : State) : Out := sumWord ctl w t fmtBF fmtBS fmtN s

def execZpc (ctl : Ctl) (a : BitVec 3) (wr wc : BitVec 2) (s : State) : Out :=
  let c := s.core
  let x := c.fmtWord
  let fault := c.fmtFault (c.lentReg (accAddr a) a) (fmtCF x ≠ 0)
  let live := fault.isNone && fmtM x ≠ 0 && fmtN x ≠ 0
  let m := if live then fmtM x else 0
  let n := if live then fmtN x else 0
  let za : Int := if fmtAS x then sext 8 (fmtZA x) else fmtZA x
  let zb : Int := if fmtBS x then sext 8 (fmtZB x) else fmtZB x
  let w (r : BitVec 2) (i : Nat) : Int := (vget (vget c.r.w r.toNat (.replicate 128 0)) i 0).toInt
  let corr := (List.range m).flatMap fun i => (List.range n).map fun j =>
    BitVec.ofInt 64 (-zb * w wr i - za * w wc j + (fmtK x : Int) * za * zb)
  issue { st := .m, ctl := ctl, fault := fault,
          rd := if live then [(wAddr wr, 4 * m), (wAddr wc, 4 * n)] else [], rdLand := accRows a m n,
          lat := latHalf c.sm.div (20 + namesLent [a]), fmt := BitVec.ofNat 64 x,
          acts := if live then [.zpc (accAddr a) (BitVec.ofNat 64 x) corr] else [] } s popFmt

/-! ## DRAIN (R126, R127) -/

/-- Bytes of a drained element. -/
def drainSize (df : Nat) : Nat := if df = 0 || df = 3 then 4 else if df = 1 || df = 2 then 2 else 1

/-- Requantisation (R127): multiplier, shift, zero point, and whether it clamped. -/
def requant (v : Int) (mult : Int) (sh : Nat) (zp : Int) (signed : Bool) : Int × Bool :=
  let p := v * mult
  let p := if 0 < sh then (p + 2 ^ (sh - 1)) / 2 ^ sh else p
  let q := p + zp
  let lo : Int := if signed then -128 else 0
  let hi : Int := if signed then 127 else 255
  let r := if q < lo then lo else if hi < q then hi else q
  (r, r ≠ q)

/-- One drained element: its code, and whether SATFLAGS.D is set (R126, R127). `u` is the draw of SR. -/
def drainElem (x : Nat) (v : W32) (ent : List Byte) (u : Nat) : Nat × Bool :=
  let rm := (Rm.ofShort (fmtRM x)).getD .rne
  let narrow (f : FFmt) : Nat × Bool :=
    let r := (cvtF (dec32 v.toNat) f rm (fmtDS x) u).1
    (r, fmtDS x && r ≠ (cvtF (dec32 v.toNat) f rm false u).1)
  match fmtDF x with
  | 0 => (if fmtCF x = 0 then v.toNat else (cvtF (X.ofInt v.toInt) .fp32 rm false u).1, false)
  | 1 => narrow .bf16
  | 2 => narrow .fp16
  | 3 => (v.toNat, false)
  | df =>
    let signed := df = 4
    let zp := (ent.getD 5 0).toNat
    let r := requant v.toInt (sext 32 (leNat (ent.take 4))) (ent.getD 4 0).toNat (if signed then sext 8 zp else zp) signed
    (wrapN 8 r.1, r.2)

def execDrain (ctl : Ctl) (a m m2 : BitVec 3) (pitch : BitVec 20) (s : State) : Out :=
  let c := s.core
  let x := c.fmtWord
  let f1 := c.fmtFault (c.lentReg (accAddr a) a) true
  let live := f1.isNone && fmtM x ≠ 0 && fmtN x ≠ 0
  let rows := if live then fmtM x else 0
  let n := if live then fmtN x else 0
  let sz := drainSize (fmtDF x)
  let quant := live && (fmtDF x = 4 || fmtDF x = 5)
  let tab : Ranges := if quant then [((c.mreg m2).toNat, 8 * n)] else []
  let dest (i : Nat) := (c.mreg m).toNat + i * pitch.toNat
  let ps : Ranges := (List.range rows).map fun i => (dest i, n * sz)
  let fault := f1.or ((((shadeBounds tab 1).or (shadeBounds ps sz)).or (c.shadeLent tab)).or (c.shadeLent ps))
  let ok := fault.isNone
  let ent (j : Nat) := s.getLs ((c.mreg m2).toNat + 8 * j) 8
  let badTab := ok && quant && (List.range n).any fun j =>
    63 < ((ent j).getD 4 0).toNat || (ent j).getD 6 0 ≠ 0 || (ent j).getD 7 0 ≠ 0
  let out (i j : Nat) : Nat × Bool :=
    drainElem x (BitVec.ofNat 32 (s.getLe (accAddr a + 4 * (64 * i + j)) 4)) (if quant then ent j else [])
      (gen (c.csr .seed) (c.sid .m) (BitVec.ofNat 32 i) (BitVec.ofNat 32 j)).toNat
  let cells := (List.range (if ok then rows else 0)).flatMap fun i => (List.range n).map fun j => out i j
  let data := cells.flatMap fun p => leBytes sz p.1
  let zf : List Land := if fmtZF x && live then
    [{ st := .m, rem := 1, age := 0, sq := 0, sn := 0, fp := 0, sat := 0, sup := c.inSup, fmt := BitVec.ofNat 64 x,
       acts := [.azero (accAddr a) (BitVec.ofNat 64 x)] }] else []
  issue { st := .m, ctl := ctl, tile := true, regs := mRange m ++ (if quant then mRange m2 else []), fault := fault,
          rd := if ok then tab ++ accRows a rows n else [], wrLand := if ok then ps else [],
          mid := if badTab then some (flt 0x04) else none, fmt := BitVec.ofNat 64 x,
          lat := latHalf c.sm.div (32 + ceilDiv rows 2 + max (if anyShade (tab ++ ps) then 4 else 0) (namesLent [a])),
          acts := if live then [.write (dest 0) rows pitch.toNat data] else [],
          sat := if cells.any (·.2) then satD else 0 } s
    fun s => (popFmt s).onCore fun c => { c with land := c.land ++ zf }

/-! ## Whole-register commands (R128) -/

def execAclr (ctl : Ctl) (a : BitVec 3) (s : State) : Out :=
  let c := s.core
  issue { st := .m, ctl := ctl, fault := c.lentReg (accAddr a) a, lat := latHalf c.sm.div (16 + namesLent [a]),
          wr := [(accAddr a, 0x8000)], acts := [.write (accAddr a) 128 256 (List.replicate 0x8000 0)] } s

def execAmov (ctl : Ctl) (a b : BitVec 3) (s : State) : Out :=
  let c := s.core
  let f := (c.lentReg (accAddr a) a).or (c.lentReg (accAddr b) b)
  issue { st := .m, ctl := ctl, fault := f, rd := if f.isSome then [] else [(accAddr b, 0x8000)],
          wr := [(accAddr a, 0x8000)], lat := latHalf c.sm.div (16 + namesLent [a, b]),
          acts := if f.isSome then [] else [.write (accAddr a) 128 256 (s.getLs (accAddr b) 0x8000)] } s

def execTzero (ctl : Ctl) (t : BitVec 3) (s : State) : Out :=
  let c := s.core
  issue { st := .m, ctl := ctl, fault := c.lentReg (tileAddr t) t, lat := latHalf c.sm.div (16 + namesLent [t]),
          wr := [(tileAddr t, 0x8200)],
          acts := [.write (tileAddr t) 1 0 (List.replicate 0x8200 0)] } s

/-! ## Control (R129, R130) -/

def mWord (ctl : Ctl) (m : BitVec 3) (regs : Ranges) (x : W32) (s : State) : Out :=
  issue { st := .m, ctl := ctl, regs := regs, dst := mRange m, lat := latHalf s.core.sm.div 2,
          acts := [.mreg m.toNat x] } s

def execMli (ctl : Ctl) (m : BitVec 3) (imm : BitVec 32) (s : State) : Out := mWord ctl m [] imm s
def execMaddi (ctl : Ctl) (m : BitVec 3) (imm : BitVec 32) (s : State) : Out :=
  mWord ctl m (mRange m) (s.core.mreg m + imm) s

def execMpop (ctl : Ctl) (m : BitVec 3) (s : State) : Out :=
  let c := s.core
  issue { st := .m, ctl := ctl, dst := mRange m, wait := (c.dq .dm).isEmpty, lat := latHalf c.sm.div 2,
          acts := [.mreg m.toNat ((c.headVal .dm).setWidth 32)] } s fun s => s.onCore (·.dqDrop .dm 1)

def execMloop (ctl : Ctl) (m : BitVec 3) (off : BitVec 24) (s : State) : Out :=
  let c := s.core
  let n := c.mreg m - 1
  issue { st := .m, ctl := ctl, regs := mRange m, lat := latHalf c.sm.div 2, acts := [.mreg m.toNat n],
          next := branchIf (n != 0) off } s

def execMbq (ctl : Ctl) (off : BitVec 24) (s : State) : Out :=
  let c := s.core
  issue { st := .m, ctl := ctl, wait := (c.dq .bm).isEmpty, lat := latHalf c.sm.div 2,
          next := branchIf (c.headVal .bm != 0) off } s fun s => s.onCore (·.dqDrop .bm 1)

def execMjmp (ctl : Ctl) (off : BitVec 24) (s : State) : Out :=
  issue { st := .m, ctl := ctl, lat := latHalf s.core.sm.div 2, next := .rel off } s

/-- MSATC captures and clears SATFLAGS when it lands (R130). -/
def execMsatc (ctl : Ctl) (m : BitVec 3) (s : State) : Out :=
  issue { st := .m, ctl := ctl, dst := mRange m, lat := latHalf s.core.sm.div 2,
          acts := [.msatc (0x301C00 + 4 * m.toNat)] } s

end Sys2Proof.Machine
end

