-- ==== Sys2Proof/Machine/LoadStore.lean ====
section
/-! DEFINITION. Scratchpad loads, stores and atomics of the A stream (07 R172 to R177). -/

namespace Sys2Proof.Machine

/-- The effective address (R172). -/
def Core.ea (c : Core) (a : BitVec 6) (imm : BitVec 28) : Nat := (c.sreg a + imm.signExtend 64).toNat

/-- The checks of R174 on an access: LOCAL_BOUNDS, then LENT. -/
def Core.accessFault (c : Core) (a n : Nat) (store : Bool) : Option Flt :=
  if !(a < 0x400000 && a % n = 0 && mapped a && mapped (a + n - 1) && !(store && viewAddr a)) then some (flt 0x07 a)
  else if lentAddr a && !c.hot then some (flt 0x06 a) else none

/-- A load of n bytes (R172, R173): `ext` extends them. -/
def loadWord (ctl : Ctl) (d a : BitVec 6) (imm : BitVec 28) (n : Nat) (ext : Nat → W64) (s : State) : Out :=
  let c := s.core
  let ea := c.ea a imm
  let f := c.accessFault ea n false
  issue { st := .a, ctl := ctl, regs := c.sRange a, dst := c.sRange d, fault := f,
          rd := if f.isSome then [] else [(ea, n)], lat := c.latA (6 + lentTicks ea),
          acts := c.sWrite d (ext (if f.isSome then 0 else s.getLe ea n)) } s

/-- A store of the low n bytes of s[d] (R172, R173); one into the z states is ignored (R162). -/
def storeWord (ctl : Ctl) (d a : BitVec 6) (imm : BitVec 28) (n : Nat) (s : State) : Out :=
  let c := s.core
  let ea := c.ea a imm
  let f := c.accessFault ea n true
  issue { st := .a, ctl := ctl, regs := c.sRange d ++ c.sRange a, fault := f,
          wr := if f.isSome then [] else [(ea, n)], lat := c.latA (4 + lentTicks ea),
          acts := if zAddr ea then [] else [.write ea 1 0 (leBytes n (c.sreg d).toNat)] } s

def zext (x : Nat) : W64 := BitVec.ofNat 64 x
def sextTo (w x : Nat) : W64 := BitVec.ofInt 64 (sext w x)

def execLd8 (c : Ctl) (d a : BitVec 6) (imm : BitVec 28) (s : State) : Out := loadWord c d a imm 1 zext s
def execLd16 (c : Ctl) (d a : BitVec 6) (imm : BitVec 28) (s : State) : Out := loadWord c d a imm 2 zext s
def execLd32 (c : Ctl) (d a : BitVec 6) (imm : BitVec 28) (s : State) : Out := loadWord c d a imm 4 zext s
def execLd64 (c : Ctl) (d a : BitVec 6) (imm : BitVec 28) (s : State) : Out := loadWord c d a imm 8 zext s
def execLds8 (c : Ctl) (d a : BitVec 6) (imm : BitVec 28) (s : State) : Out := loadWord c d a imm 1 (sextTo 8) s
def execLds16 (c : Ctl) (d a : BitVec 6) (imm : BitVec 28) (s : State) : Out := loadWord c d a imm 2 (sextTo 16) s
def execLds32 (c : Ctl) (d a : BitVec 6) (imm : BitVec 28) (s : State) : Out := loadWord c d a imm 4 (sextTo 32) s
def execSt8 (c : Ctl) (d a : BitVec 6) (imm : BitVec 28) (s : State) : Out := storeWord c d a imm 1 s
def execSt16 (c : Ctl) (d a : BitVec 6) (imm : BitVec 28) (s : State) : Out := storeWord c d a imm 2 s
def execSt32 (c : Ctl) (d a : BitVec 6) (imm : BitVec 28) (s : State) : Out := storeWord c d a imm 4 s
def execSt64 (c : Ctl) (d a : BitVec 6) (imm : BitVec 28) (s : State) : Out := storeWord c d a imm 8 s

/-! ## Atomics (R175 to R177) -/

/-- The new value of an atomic: old, B and C cut to the width w (R175). -/
def atomNew (op : AtomOp) (w : Nat) (old b c : Nat) : Nat :=
  let b := b % 2 ^ w
  match op with
  | .swap => b
  | .add => (old + b) % 2 ^ w
  | .and => old &&& b
  | .or => old ||| b
  | .xor => old ^^^ b
  | .min => if sext w b < sext w old then b else old
  | .max => if sext w old < sext w b then b else old
  | .minu => Nat.min old b
  | .maxu => Nat.max old b
  | .cas => if old = c % 2 ^ w then b else old
  | .fadd => (fadd old b).1

/-- The address of an ATOM: local, or an OPA in which the issuing core counts as local (R175). -/
inductive AtomAddr where
  | loc (a : Nat)
  | remote (opa : Nat)
  | bad

def atomAddr (cur : Nat) (x : W64) (n : Nat) : AtomAddr :=
  if x.toNat % n ≠ 0 then .bad
  else if x.getLsbD 63 then
    if bits 62 33 x.toNat ≠ 0 then .bad
    else if bits 32 22 x.toNat = cur then
      (let a := bits 21 0 x.toNat; if a < 0x200000 then .loc a else .bad)
    else .remote (bits 32 0 x.toNat)
  else if x.toNat < 0x200000 then .loc x.toNat else .bad

/-- ATOM (R175): a local one is performed on its landing tick, a remote one leaves as a message. -/
def execAtom (ctl : Ctl) (op : AtomOp) (w64 : Bool) (a b cx : BitVec 6) (s : State) : Out :=
  let c := s.core
  let n := if w64 then 8 else 4
  let x := c.sreg a
  let base : Plan :=
    { st := .a, ctl := ctl, wait := c.dqFull .aq,
      regs := c.sRange a ++ c.sRange b ++ (if op = .cas then c.sRange cx else []) }
  match atomAddr s.cur x n with
  | .bad => issue { base with fault := some { code := 0x07, faddr := x } } s
  | .loc ad =>
    let f := c.shadeFault true ad
    issue { base with fault := f, rd := if f.isSome then [] else [(ad, n)], readAt := c.latA (4 + lentTicks ad),
                      lat := c.latA (4 + lentTicks ad), acts := [.atom ((encode (.atom ctl op w64 a b cx)).getD 0) op w64 ad (c.sreg b) (c.sreg cx)] } s
      fun s => s.onCore (·.dqReserve .aq)
  | .remote opa =>
    issue { base with noEntry := true } s fun s => s.onCore fun c1 =>
      let c2 := c1.dqReserve .aq
      { c2 with cp := { c2.cp with
          ratoms := c2.cp.ratoms ++ [{ seq := c2.cp.nextAtom, opa := opa, op := op, w64 := w64, b := c.sreg b,
                                       c := c.sreg cx, sq := ctl.sq, sn := ctl.sn, sup := c.inSup, reply := none }],
          nextAtom := c2.cp.nextAtom + 1 } }

end Sys2Proof.Machine
end

