-- ==== Sys2Proof/Machine/Queue.lean ====
section
/-! DEFINITION. Data queues, rings and barrier cells (10 R252 to R262). -/

namespace Sys2Proof.Machine

/-! ## Data queues (R253, R255) -/

/-- A word that appends a value to a data queue: a place is reserved at issue, the entry lands (R253). -/
def pushWord (st : StreamId) (ctl : Ctl) (q : DqId) (regs : Ranges) (x : W64) (l : Nat) (s : State) : Out :=
  issue { st := st, ctl := ctl, regs := regs, wait := s.core.dqFull q, lat := s.core.lat st l,
          acts := [.queue q x] } s fun s => s.onCore (·.dqReserve q)

def execPush (ctl : Ctl) (a : BitVec 6) (q : DqId) (s : State) : Out :=
  pushWord .a ctl q (s.core.sRange a) (s.core.sreg a) 1 s

def execFmt (ctl : Ctl) (a : BitVec 6) (s : State) : Out :=
  pushWord .a ctl .fq (s.core.sRange a) (s.core.sreg a) 1 s

def execBout (ctl : Ctl) (p : BitVec 3) (q : DqId) (s : State) : Out :=
  issue { st := .a, ctl := ctl, preds := [p], wait := s.core.dqFull q, lat := s.core.latA 1,
          acts := [.queue q (if s.core.preg p then 1 else 0)] } s fun s => s.onCore (·.dqReserve q)

/-- The oldest entry of a queue. -/
def Core.oldest (c : Core) (q : DqId) : QEnt := (c.dq q).headD { val := 0, status := 0, faddr := 0 }

/-- The fault of an aq entry whose status is not success (07 R177, 09 R238). -/
def QEnt.fault? (e : QEnt) : Option Flt :=
  if e.status = 0 then none else some { code := e.status, faddr := e.faddr, status := e.status }

def execPop (ctl : Ctl) (d : BitVec 6) (q : DqId) (s : State) : Out :=
  let c := s.core
  let e := c.oldest q
  issue { st := .a, ctl := ctl, dst := c.sRange d, wait := (c.dq q).isEmpty, fault := e.fault?, lat := c.latA 1,
          acts := c.sWrite d e.val } s fun s => s.onCore (·.dqDrop q 1)

def execQcnt (ctl : Ctl) (d : BitVec 6) (q : DqId) (s : State) : Out :=
  let c := s.core
  issue { st := .a, ctl := ctl, dst := c.sRange d, lat := c.latA 1,
          acts := c.sWrite d (BitVec.ofNat 64 (c.dq q).length) } s

/-! ## Rings (R256 to R259) -/

def Core.ring (c : Core) (n : BitVec 4) : Ring := vget c.q.ring n.toNat .reset
def Ring.count (r : Ring) : Nat := 2 ^ r.lcnt.toNat
/-- TAIL − HEAD, CLAIMED − HEAD and CLAIMED − TAIL modulo 2^32 (R256). -/
def Ring.filled (r : Ring) : Nat := (r.tail - r.head).toNat
def Ring.held (r : Ring) : Nat := (r.claimed - r.head).toNat
def Ring.opened (r : Ring) : Nat := (r.claimed - r.tail).toNat
def Ring.free (r : Ring) : Nat := r.count - r.held

def Core.setRing (c : Core) (n : BitVec 4) (r : Ring) : Core := { c with q := { c.q with ring := vset c.q.ring n.toNat r } }

/-- A ring word: the counters change at issue, the view and the result from the landing tick on (R258). RING while
the ring is invalid; `excess` is RING for a count beyond the ring, `beyond` for one beyond the counters. -/
def ringWord (ctl : Ctl) (d : Option (BitVec 6)) (a : BitVec 6) (n : BitVec 4) (waitReg excess beyond wait : Bool)
    (res : W64) (upd : Ring → Ring) (s : State) : Out :=
  let c := s.core
  let r := c.ring n
  let rg := flt 0x10
  issue { st := .a, ctl := ctl, waitRegs := if waitReg then c.sRange a else [], regs := c.sRange a,
          dst := match d with
            | some d => c.sRange d
            | none => [],
          preWait := if !r.valid || excess then some rg else none, wait := wait, fault := if beyond then some rg else none,
          lat := c.latA 1,
          acts := (match d with
            | some d => c.sWrite d res
            | none => []) ++ [.ringView n.toNat ((upd r).minus r)] } s
    fun s => s.onCore fun c => c.setRing n (upd (c.ring n))

def execRclaim (ctl : Ctl) (d a : BitVec 6) (n : BitVec 4) (s : State) : Out :=
  let r := s.core.ring n
  let k := (s.core.sreg a).toNat
  ringWord ctl (some d) a n true (r.count < k) false (r.free < k) (BitVec.ofNat 64 (r.claimed.toNat % r.count))
    (fun r => { r with claimed := r.claimed + BitVec.ofNat 32 k }) s

def execRfill (ctl : Ctl) (a : BitVec 6) (n : BitVec 4) (s : State) : Out :=
  let k := (s.core.sreg a).toNat
  ringWord ctl none a n false false ((s.core.ring n).opened < k) false 0
    (fun r => { r with tail := r.tail + BitVec.ofNat 32 k }) s

def execRwaitf (ctl : Ctl) (d a : BitVec 6) (n : BitVec 4) (s : State) : Out :=
  let r := s.core.ring n
  let k := (s.core.sreg a).toNat
  ringWord ctl (some d) a n true (r.count < k) false (r.filled < k) (BitVec.ofNat 64 (r.head.toNat % r.count)) id s

def execRfree (ctl : Ctl) (a : BitVec 6) (n : BitVec 4) (s : State) : Out :=
  let k := (s.core.sreg a).toNat
  ringWord ctl none a n false false ((s.core.ring n).filled < k) false 0
    (fun r => { r with head := r.head + BitVec.ofNat 32 k }) s

/-- The set a ring descriptor describes; `none` for one that RSET refuses with RING (R257, R258). -/
def Ring.ofDesc (x : Nat) : Option Ring :=
  let base := bits 21 0 x
  let slot := bits 39 24 x
  let lcnt := bits 43 40 x
  if bits 23 22 x ≠ 0 || bits 63 44 x ≠ 0 || slot = 0 || 12 < lcnt || 0x100000 < base + slot * 2 ^ lcnt then none
  else some { head := 0, tail := 0, claimed := 0, base := BitVec.ofNat 22 base, valid := true,
              lcnt := BitVec.ofNat 4 lcnt, slot := BitVec.ofNat 16 slot }

def execRset (ctl : Ctl) (a : BitVec 6) (n : BitVec 4) (s : State) : Out :=
  let c := s.core
  let ad := (c.sreg a).toNat
  let bad := ad % 8 ≠ 0 || 0x100000 ≤ ad
  let r := if bad then none else Ring.ofDesc (s.getLe ad 8)
  issue { st := .a, ctl := ctl, regs := c.sRange a, fault := if bad then some (flt 0x07 ad) else none,
          rd := if bad then [] else [(ad, 8)], late := if r.isNone then some (flt 0x10) else none, lat := c.latA 1,
          acts := [.ringView n.toNat ((r.getD .reset).minus (c.ring n))] } s
    fun s => s.onCore fun c => c.setRing n (r.getD .reset)

/-- The field RSTAT reads; an invalid ring gives 0 (R258). -/
def Ring.field (r : Ring) (f : RField) : Nat :=
  if !r.valid then 0
  else match f with
    | .filled => r.filled
    | .free => r.free
    | .opened => r.opened
    | .head => r.head.toNat
    | .tail => r.tail.toNat
    | .claimed => r.claimed.toNat

def execRstat (ctl : Ctl) (f : RField) (d : BitVec 6) (n : BitVec 4) (s : State) : Out :=
  let c := s.core
  issue { st := .a, ctl := ctl, dst := c.sRange d, lat := c.latA 1,
          acts := c.sWrite d (BitVec.ofNat 64 ((c.ring n).field f)) } s

/-! ## Barrier cells (R260 to R262) -/

def Core.bar (c : Core) (n : BitVec 3) : Bar := vget c.q.bar n.toNat .reset
def Core.setBar (c : Core) (n : BitVec 3) (b : Bar) : Core := { c with q := { c.q with bar := vset c.q.bar n.toNat b } }

/-- A phase completes when its expectation is posted and nothing is pending (R261). -/
def Bar.settle (b : Bar) : Bar := if b.posted && b.pending = 0 then { b with phase := !b.phase, posted := false } else b

/-- An arrival of k bytes; `none` when the cell refuses it (R261). -/
def Bar.arrive (b : Bar) (k : Nat) : Option Bar :=
  if b.posted && b.pending.toInt < (k : Int) then none
  else if !b.posted && b.pending.toInt - (k : Int) < -(2 ^ 31) then none
  else some (Bar.settle { b with pending := b.pending - BitVec.ofNat 32 k })

/-- A barrier word: the cell changes at issue, its view from the landing tick on (R262). -/
def barWord (ctl : Ctl) (n : BitVec 3) (regs : Ranges) (bad : Bool) (upd : Bar → Bar) (s : State) : Out :=
  let b := s.core.bar n
  issue { st := .a, ctl := ctl, regs := regs, fault := if bad then some (flt 0x11) else none, lat := s.core.latA 1,
          acts := [.barView n.toNat ((upd b).minus b)] } s fun s => s.onCore fun c => c.setBar n (upd (c.bar n))

def execBset (ctl : Ctl) (n : BitVec 3) (s : State) : Out := barWord ctl n [] false (fun _ => .reset) s

def execBexp (ctl : Ctl) (a : BitVec 6) (n : BitVec 3) (s : State) : Out :=
  let b := s.core.bar n
  let k := (s.core.sreg a).toNat
  barWord ctl n (s.core.sRange a) (b.posted || 2 ^ 31 - 1 < k || 2 ^ 31 - 1 < b.pending.toInt + (k : Int))
    (fun b => Bar.settle { b with pending := b.pending + BitVec.ofNat 32 k, posted := true }) s

def execBarr (ctl : Ctl) (a : BitVec 6) (n : BitVec 3) (s : State) : Out :=
  let b := s.core.bar n
  let k := (s.core.sreg a).toNat
  barWord ctl n (s.core.sRange a) (2 ^ 32 ≤ k || (b.arrive k).isNone) (fun b => (b.arrive k).getD b) s

def execBwait (ctl : Ctl) (a : BitVec 6) (n : BitVec 3) (s : State) : Out :=
  let c := s.core
  issue { st := .a, ctl := ctl, waitRegs := c.sRange a, regs := c.sRange a,
          wait := (c.bar n).phase = (c.sreg a).getLsbD 0, lat := c.latA 1 } s

end Sys2Proof.Machine
end

