-- ==== Sys2Proof/Machine/Vector.lean ====
section
/-! DEFINITION. The VR words of the V stream: lane arithmetic, logic, masks, conversion, reductions, scans and sorts
(06 R136 to R149). -/

namespace Sys2Proof.Machine

/-! ## Lane operations -/

def allLanes (_ : Core) : W64 := BitVec.allOnes 64

/-- The k field as a write mask (R137). -/
def kMask (k : BitVec 3) (c : Core) : W64 := c.kreg k

/-- Lanes of source n. -/
def srcOf (vs : List (List W32)) (n : Nat) : List W32 := vs.getD n (List.replicate 64 0)

def w32 (p : Nat × FpFlags) : W32 × FpFlags := (BitVec.ofNat 32 p.1, p.2)

/-- A lane function of up to three operands, applied to every lane. -/
def lanewise (f : W32 → W32 → W32 → W32 × FpFlags) (_ : Core) (vs : List (List W32)) : List W32 × List FpFlags :=
  let a := srcOf vs 0
  let b := srcOf vs 1
  let x := srcOf vs 2
  let r := (List.range 64).map fun l => f (a.getD l 0) (b.getD l 0) (x.getD l 0)
  (r.map (·.1), r.map (·.2))

/-- An FP32 operation of one, two or three lanes as a lane function. -/
def fl1 (f : Nat → Nat × FpFlags) (a _ _ : W32) : W32 × FpFlags := w32 (f a.toNat)
def fl2 (f : Nat → Nat → Nat × FpFlags) (a b _ : W32) : W32 × FpFlags := w32 (f a.toNat b.toNat)
def fl3 (f : Nat → Nat → Nat → Nat × FpFlags) (a b c : W32) : W32 × FpFlags := w32 (f a.toNat b.toNat c.toNat)

/-- A flagless operation on lane bits. -/
def bw (f : W32 → W32 → W32 → W32) (a b c : W32) : W32 × FpFlags := (f a b c, 0)

/-- Under f the FP32 operation, under i and u the integer one. -/
def byTy (ty : VTy) (f g : W32 → W32 → W32 → W32 × FpFlags) : W32 → W32 → W32 → W32 × FpFlags :=
  match ty with
  | .f => f
  | _ => g

def minW (ty : VTy) (a b : W32) : W32 :=
  match ty with
  | .f => BitVec.ofNat 32 (fmin a.toNat b.toNat)
  | .i => if b.slt a then b else a
  | .u => if b.ult a then b else a

def maxW (ty : VTy) (a b : W32) : W32 :=
  match ty with
  | .f => BitVec.ofNat 32 (fmax a.toNat b.toNat)
  | .i => if a.slt b then b else a
  | .u => if a.ult b then b else a

def absI (a : W32) : W32 := if a.slt 0 then 0 - a else a

/-! ## Lane arithmetic (R139, R140) -/

def execVadd (c : Ctl) (d : VDst) (a b : VSrc) (k : BitVec 3) (ty : VTy) (s : State) : Out :=
  vrWord c d [a, b] k (kMask k) 8 (lanewise (byTy ty (fl2 fadd) (bw fun a b _ => a + b))) s

def execVsub (c : Ctl) (d : VDst) (a b : VSrc) (k : BitVec 3) (ty : VTy) (s : State) : Out :=
  vrWord c d [a, b] k (kMask k) 8 (lanewise (byTy ty (fl2 fsub) (bw fun a b _ => a - b))) s

def execVmul (c : Ctl) (d : VDst) (a b : VSrc) (k : BitVec 3) (ty : VTy) (s : State) : Out :=
  vrWord c d [a, b] k (kMask k) 8 (lanewise (byTy ty (fl2 fmul) (bw fun a b _ => a * b))) s

def execVfma (c : Ctl) (d : VDst) (a b x : VSrc) (k : BitVec 3) (ty : VTy) (s : State) : Out :=
  vrWord c d [a, b, x] k (kMask k) 8 (lanewise (byTy ty (fl3 ffma) (bw fun a b x => a * b + x))) s

def execVmin (c : Ctl) (d : VDst) (a b : VSrc) (k : BitVec 3) (ty : VTy) (s : State) : Out :=
  vrWord c d [a, b] k (kMask k) 8 (lanewise (bw fun a b _ => minW ty a b)) s

def execVmax (c : Ctl) (d : VDst) (a b : VSrc) (k : BitVec 3) (ty : VTy) (s : State) : Out :=
  vrWord c d [a, b] k (kMask k) 8 (lanewise (bw fun a b _ => maxW ty a b)) s

def execVabs (c : Ctl) (d : VDst) (a : VSrc) (k : BitVec 3) (ty : VTy) (s : State) : Out :=
  vrWord c d [a] k (kMask k) 8
    (lanewise (byTy ty (bw fun a _ _ => BitVec.ofNat 32 (fabs a.toNat)) (bw fun a _ _ => absI a))) s

def execVneg (c : Ctl) (d : VDst) (a : VSrc) (k : BitVec 3) (ty : VTy) (s : State) : Out :=
  vrWord c d [a] k (kMask k) 8
    (lanewise (byTy ty (bw fun a _ _ => BitVec.ofNat 32 (fneg a.toNat)) (bw fun a _ _ => 0 - a))) s

def execVdiv (c : Ctl) (d : VDst) (a b : VSrc) (k : BitVec 3) (s : State) : Out :=
  vrWord c d [a, b] k (kMask k) 24 (lanewise (fl2 fdiv)) s

def execVsqrt (c : Ctl) (d : VDst) (a : VSrc) (k : BitVec 3) (s : State) : Out :=
  vrWord c d [a] k (kMask k) 24 (lanewise (fl1 fsqrt)) s

def execVrsq (c : Ctl) (d : VDst) (a : VSrc) (k : BitVec 3) (s : State) : Out :=
  vrWord c d [a] k (kMask k) 24 (lanewise (fl1 frsq)) s

def execVrcp (c : Ctl) (d : VDst) (a : VSrc) (k : BitVec 3) (s : State) : Out :=
  vrWord c d [a] k (kMask k) 24 (lanewise (fl1 frcp)) s

def execVexp2 (c : Ctl) (d : VDst) (a : VSrc) (k : BitVec 3) (s : State) : Out :=
  vrWord c d [a] k (kMask k) 24 (lanewise (fl1 fexp2)) s

def execVlog2 (c : Ctl) (d : VDst) (a : VSrc) (k : BitVec 3) (s : State) : Out :=
  vrWord c d [a] k (kMask k) 24 (lanewise (fl1 flog2)) s

def execVexp (c : Ctl) (d : VDst) (a : VSrc) (k : BitVec 3) (s : State) : Out :=
  vrWord c d [a] k (kMask k) 24 (lanewise (fl1 fexp)) s

/-! ## Logic, movement and masks (R141 to R143) -/

def execVand (c : Ctl) (d : VDst) (a b : VSrc) (k : BitVec 3) (_ : VTy) (s : State) : Out :=
  vrWord c d [a, b] k (kMask k) 8 (lanewise (bw fun a b _ => a &&& b)) s

def execVor (c : Ctl) (d : VDst) (a b : VSrc) (k : BitVec 3) (_ : VTy) (s : State) : Out :=
  vrWord c d [a, b] k (kMask k) 8 (lanewise (bw fun a b _ => a ||| b)) s

def execVxor (c : Ctl) (d : VDst) (a b : VSrc) (k : BitVec 3) (_ : VTy) (s : State) : Out :=
  vrWord c d [a, b] k (kMask k) 8 (lanewise (bw fun a b _ => a ^^^ b)) s

def execVshl (c : Ctl) (d : VDst) (a b : VSrc) (k : BitVec 3) (_ : VTy) (s : State) : Out :=
  vrWord c d [a, b] k (kMask k) 8 (lanewise (bw fun a b _ => a <<< (b.toNat % 32))) s

def execVshr (c : Ctl) (d : VDst) (a b : VSrc) (k : BitVec 3) (_ : VTy) (s : State) : Out :=
  vrWord c d [a, b] k (kMask k) 8 (lanewise (bw fun a b _ => a >>> (b.toNat % 32))) s

def execVsar (c : Ctl) (d : VDst) (a b : VSrc) (k : BitVec 3) (_ : VTy) (s : State) : Out :=
  vrWord c d [a, b] k (kMask k) 8 (lanewise (bw fun a b _ => a.sshiftRight (b.toNat % 32))) s

/-- A lane under a type as an exact value (R144). -/
def laneVal (ty : VTy) (a : W32) : X :=
  match ty with
  | .f => dec32 a.toNat
  | .i => X.ofInt a.toInt
  | .u => X.ofInt (a.toNat : Int)

def rmOfFull : RmFull → Rm
  | .rne => .rne | .rtz => .rtz | .rdn => .rdn | .rup => .rup | .sr => .sr

def rmOfShort : RmShort → Rm
  | .rne => .rne | .rtz => .rtz | .sr => .sr

/-- A converted lane (R144). -/
def cvtLane (ty : VTy) (dt : MemTy) (rm : Rm) (sat : Bool) (u : Nat) (a : W32) : W32 × FpFlags :=
  let r := cvtEt (laneVal ty a) (memEt dt) rm sat u
  (loadLane (memEt dt) r.1, r.2)

/-- VCVT; SR draws from G(SEED, STREAMID, l, c[l]) (R144, 03 R72). -/
def execVcvt (ctl : Ctl) (d : VDst) (a x : VSrc) (k : BitVec 3) (ty : VTy) (dt : MemTy) (rm : RmFull) (sat : Bool)
    (s : State) : Out :=
  let f (c : Core) (vs : List (List W32)) : List W32 × List FpFlags :=
    let r := (List.range 64).map fun l =>
      let u := if rm = .sr then
        (gen (c.csr .seed) (c.sid .v) (BitVec.ofNat 32 l) ((srcOf vs 1).getD l 0)).toNat else 0
      cvtLane ty dt (rmOfFull rm) sat u ((srcOf vs 0).getD l 0)
    (r.map (·.1), r.map (·.2))
  vrWord ctl d (if rm = .sr then [a, x] else [a]) k (kMask k) 8 f s

/-- A word whose destination is a mask register: bits of `mask`, or all of them, are replaced; k0 discards them (R134, R143). -/
def maskWord (ctl : Ctl) (kd : BitVec 3) (xs : List VSrc) (regs : Ranges) (mask : Core → Option W64)
    (f : Core → List (List W32) → W64) (s : State) : Out :=
  let c := s.core
  let r := readSrcs s xs
  let e := bankExtra xs
  issue { st := .v, ctl := ctl, wait := (c.dq .dv).length < r.dv, regs := r.regs ++ regs, dst := kRange kd,
          fault := r.fault, rd := r.mem, lat := c.lat .v (8 + if r.lent then 4 else 0) + e * c.sv.div,
          acts := if kd = 0 then [] else [.kbits kd.toNat (mask c) (f c r.vals)], extra := e } s
    fun s => setZ r.z (popDv r.dv s)

/-- A 64-bit number from its bits. -/
def bitsToW64 (p : Nat → Bool) : W64 :=
  BitVec.ofNat 64 ((List.range 64).foldl (fun t l => if p l then t + 2 ^ l else t) 0)

def execVcmp (ctl : Ctl) (cc : Cond) (kd : BitVec 3) (a b : VSrc) (k : BitVec 3) (ty : VTy) (s : State) : Out :=
  maskWord ctl kd [a, b] (kRange k) (fun c => if k = 0 then none else some (c.kreg k))
    (fun _ vs => bitsToW64 fun l => laneCond cc ty ((srcOf vs 0).getD l 0) ((srcOf vs 1).getD l 0)) s

def execVsel (ctl : Ctl) (d : VDst) (a b : VSrc) (ks : BitVec 3) (k : BitVec 3) (_ : VTy) (s : State) : Out :=
  let f (c : Core) (vs : List (List W32)) : List W32 × List FpFlags :=
    ((List.range 64).map fun l => (srcOf vs (if maskBit (c.kreg ks) l then 0 else 1)).getD l 0, [])
  vrWord ctl d [a, b] k (kMask k) 8 f s (regs := kRange ks)

def execVmov (c : Ctl) (d : VDst) (a : VSrc) (k : BitVec 3) (_ : VTy) (s : State) : Out :=
  vrWord c d [a] k (kMask k) 8 (lanewise (bw fun a _ _ => a)) s

def execVbrd (c : Ctl) (d : VDst) (a : VSrc) (lane : BitVec 6) (k : BitVec 3) (_ : VTy) (s : State) : Out :=
  vrWord c d [a] k (kMask k) 8 (fun _ vs => (List.replicate 64 ((srcOf vs 0).getD lane.toNat 0), [])) s

def execViota (c : Ctl) (d : VDst) (k : BitVec 3) (_ : VTy) (s : State) : Out :=
  vrWord c d [] k (kMask k) 8 (fun _ _ => ((List.range 64).map (BitVec.ofNat 32 ·), [])) s

def execVperm (c : Ctl) (d : VDst) (a b : VSrc) (k : BitVec 3) (_ : VTy) (s : State) : Out :=
  vrWord c d [a, b] k (kMask k) 10
    (fun _ vs => ((srcOf vs 1).map fun i => (srcOf vs 0).getD (i.toNat % 64) 0, [])) s

/-- The lanes that a mask selects, in ascending order. -/
def selected {α : Type} (m : W64) (l : List α) : List α := (l.zipIdx.filter fun p => maskBit m p.2).map (·.1)

/-- VCOMP: the k field selects what takes part; all lanes are written (R142). -/
def execVcomp (ctl : Ctl) (d : VDst) (a : VSrc) (k : BitVec 3) (_ : VTy) (s : State) : Out :=
  vrWord ctl d [a] k allLanes 10
    (fun c vs => let r := selected (c.kreg k) (srcOf vs 0); (r ++ List.replicate (64 - r.length) 0, [])) s

/-- VFIRST: the lowest set bit, 64 if none, or the number of set bits (R142). -/
def execVfirst (ctl : Ctl) (count : Bool) (d : VDst) (ka : BitVec 3) (k : BitVec 3) (_ : VTy) (s : State) : Out :=
  let f (c : Core) (_ : List (List W32)) : List W32 × List FpFlags :=
    let m := c.kreg ka
    let n := if count then popCount m else ((List.range 64).find? (maskBit m)).getD 64
    (List.replicate 64 (BitVec.ofNat 32 n), [])
  vrWord ctl d [] k (kMask k) 10 f s (regs := kRange ka)

/-- KLOG's operations (R142). -/
def klogOp (op : LogOp) (a b : W64) : W64 :=
  match op with
  | .and => a &&& b
  | .or => a ||| b
  | .xor => a ^^^ b
  | .andn => a &&& ~~~b
  | .not => ~~~a

def execKlog (ctl : Ctl) (op : LogOp) (kd ka kb : BitVec 3) (s : State) : Out :=
  let regs := kRange ka ++ (if op = .not then [] else kRange kb)
  maskWord ctl kd [] regs (fun _ => none) (fun c _ => klogOp op (c.kreg ka) (c.kreg kb)) s

/-! ## Reductions and scans (R145, R146) -/

/-- The lanes that contribute, an identity elsewhere (R145). -/
def contrib (m : W64) (ident : W32) (l : List W32) : List W32 :=
  l.zipIdx.map fun p => if maskBit m p.2 then p.1 else ident

/-- A reduction: every lane of the destination receives the result (R145). -/
def redWord (ctl : Ctl) (d : VDst) (a : VSrc) (k : BitVec 3) (ident : W32) (f : List W32 → W32 × FpFlags)
    (s : State) : Out :=
  let g (c : Core) (vs : List (List W32)) : List W32 × List FpFlags :=
    let r := f (contrib (c.kreg k) ident (srcOf vs 0))
    (List.replicate 64 r.1, List.replicate 64 r.2)
  vrWord ctl d [a] k allLanes 14 g s

def foldLanes (f : W32 → W32 → W32) (l : List W32) : W32 := l.tail.foldl f (l.headD 0)

def execVrsum (c : Ctl) (d : VDst) (a : VSrc) (k : BitVec 3) (ty : VTy) (s : State) : Out :=
  redWord c d a k 0 (fun l => match ty with
    | .f => w32 (treeSum 6 (l.map (·.toNat)))
    | _ => (foldLanes (· + ·) l, 0)) s

/-- The identity of the maximum and of the minimum (R145). (DEDUCED, log 26.) -/
def maxIdent : VTy → W32
  | .f => 0xFF800000
  | .i => 0x80000000
  | .u => 0

def minIdent : VTy → W32
  | .f => 0x7F800000
  | .i => 0x7FFFFFFF
  | .u => 0xFFFFFFFF

def execVrmax (c : Ctl) (d : VDst) (a : VSrc) (k : BitVec 3) (ty : VTy) (s : State) : Out :=
  redWord c d a k (maxIdent ty) (fun l => (foldLanes (maxW ty) l, 0)) s

def execVrmin (c : Ctl) (d : VDst) (a : VSrc) (k : BitVec 3) (ty : VTy) (s : State) : Out :=
  redWord c d a k (minIdent ty) (fun l => (foldLanes (minW ty) l, 0)) s

def execVramax (c : Ctl) (d : VDst) (a : VSrc) (k : BitVec 3) (ty : VTy) (s : State) : Out :=
  redWord c d a k 0 (fun l => match ty with
    | .f => (foldLanes (maxW .f) (l.map fun x => BitVec.ofNat 32 (fabs x.toNat)), 0)
    | _ => (foldLanes (maxW .u) (l.map absI), 0)) s

/-- Sum of two lanes as a scan under a type adds them (R146). -/
def scanAdd (ty : VTy) (a b : Nat) : Nat × FpFlags :=
  match ty with
  | .f => fadd a b
  | _ => ((a + b) % 2 ^ 32, 0)

/-- A scan of lanes with a carry: results, carry out, flags (R74, R146). -/
def scanLanes (ty : VTy) (excl : Bool) (carry : Nat) (l : List Nat) : List Nat × Nat × FpFlags :=
  let u := scanAll (scanAdd ty) l
  let e := if excl then 0 :: u.1.take 63 else u.1
  let r := e.map fun x => scanAdd ty x carry
  let o := scanAdd ty (u.1.getD 63 0) carry
  (r.map (·.1), o.1, u.2 ||| orFlags (r.map (·.2)) ||| o.2)

/-- A scan word: the carry register is read at issue and written on the landing tick (R146). -/
def scanWord (ctl : Ctl) (d : VDst) (a : VSrc) (xc : BitVec 4) (k : BitVec 3) (ty : VTy) (excl : Bool)
    (s : State) : Out :=
  let carry := (s.core.xreg xc).toNat % 2 ^ 32
  let run (c : Core) (vs : List (List W32)) : List Nat × Nat × FpFlags :=
    scanLanes ty excl carry ((contrib (c.kreg k) 0 (srcOf vs 0)).map (·.toNat))
  let f (c : Core) (vs : List (List W32)) : List W32 × List FpFlags :=
    let r := run c vs
    (r.1.map (BitVec.ofNat 32 ·), List.replicate 64 r.2.2)
  let out := (run s.core (readSrcs s [a]).vals).2.1
  vrWord ctl d [a] k allLanes 16 f s (more := [.xreg xc.toNat (BitVec.ofNat 64 out)]) (regs := xRange xc)

def execVscan (c : Ctl) (d : VDst) (a : VSrc) (xc : BitVec 4) (k : BitVec 3) (ty : VTy) (s : State) : Out :=
  scanWord c d a xc k ty false s

def execVscanx (c : Ctl) (d : VDst) (a : VSrc) (xc : BitVec 4) (k : BitVec 3) (ty : VTy) (s : State) : Out :=
  scanWord c d a xc k ty true s

/-! ## Sorts (R147, R148) -/

/-- The first key comes strictly before the second (R147). -/
def keyBefore (ty : VTy) (desc : Bool) (a b : W32) : Bool :=
  let lt (x y : W32) : Bool := match ty with
    | .f => (dec32 x.toNat).keyLt (dec32 y.toNat)
    | .i => x.slt y
    | .u => x.ult y
  if desc then lt b a else lt a b

/-- A pair goes behind every pair that its key does not strictly precede. -/
def sortIns (ty : VTy) (desc : Bool) (x : W32 × W32) : List (W32 × W32) → List (W32 × W32)
  | [] => [x]
  | y :: r => if keyBefore ty desc x.1 y.1 then x :: y :: r else y :: sortIns ty desc x r

/-- Keys with their payloads: the selected lanes sorted, then the others (R147). -/
def sortLanes (ty : VTy) (desc : Bool) (m : W64) (l : List (W32 × W32)) : List (W32 × W32) :=
  (selected m l).foldl (fun r x => sortIns ty desc x r) [] ++ selected (~~~m) l

def execVsort (ctl : Ctl) (desc : Bool) (d : VDst) (a : VSrc) (k : BitVec 3) (ty : VTy) (s : State) : Out :=
  vrWord ctl d [a] k allLanes 40
    (fun c vs => ((sortLanes ty desc (c.kreg k) ((srcOf vs 0).map fun x => (x, 0))).map (·.1), [])) s

/-- A word that writes v(2d) and v(2d + 1) (R137). -/
def pairWord (ctl : Ctl) (d : BitVec 3) (xs : List VSrc) (k : BitVec 3) (l : Nat)
    (f : Core → List (List W32) → List W32 × List W32) (s : State) : Out :=
  let lo : BitVec 4 := d ++ 0#1
  let hi : BitVec 4 := d ++ 1#1
  let second := (f s.core (readSrcs s xs).vals).2
  vrWord ctl (.v lo) xs k allLanes l (fun c vs => ((f c vs).1, [])) s
    (more := [.lanes hi.toNat (BitVec.allOnes 64) second]) (dst := vRange hi)

def execVsortk (ctl : Ctl) (desc : Bool) (d : BitVec 3) (a b : VSrc) (k : BitVec 3) (ty : VTy) (s : State) : Out :=
  pairWord ctl d [a, b] k 40
    (fun c vs => (sortLanes ty desc (c.kreg k) ((srcOf vs 0).zip (srcOf vs 1))).unzip) s

/-- The merge of R148, for n elements to come. -/
def mergeRun (ty : VTy) (desc : Bool) : Nat → List W32 → List W32 → List W32
  | 0, _, _ => []
  | _, [], bs => bs
  | _, as, [] => as
  | n + 1, a :: as, b :: bs =>
    if keyBefore ty desc b a then b :: mergeRun ty desc n (a :: as) bs else a :: mergeRun ty desc n as (b :: bs)

def execVmerge (ctl : Ctl) (desc : Bool) (d : BitVec 3) (a b : VSrc) (ty : VTy) (s : State) : Out :=
  pairWord ctl d [a, b] 0 24
    (fun _ vs => let r := mergeRun ty desc 128 (srcOf vs 0) (srcOf vs 1); (r.take 64, r.drop 64)) s

/-- VRNG (R149). -/
def execVrng (ctl : Ctl) (d : VDst) (a b : VSrc) (k : BitVec 3) (ty : VTy) (s : State) : Out :=
  let g := gen (s.core.csr .seed) (s.core.sid .v)
  vrWord ctl d [a, b] k (kMask k) 12
    (lanewise (byTy ty (fun a b _ => ((w32 (rne32 (.fin false ((g a b).toNat / 256) (-24)))).1, 0))
      (bw fun a b _ => g a b))) s

end Sys2Proof.Machine
end

