-- ==== Sys2Proof/Machine/VectorMem.lean ====
section
/-! DEFINITION. Memory access, selector blocks, stream registers, scalars and control of the V stream
(06 R150 to R159). -/

namespace Sys2Proof.Machine

/-! ## VLD, VST, VLDX, VSTX (R150 to R152) -/

/-- Selected lanes and the addresses of their elements, exact (R150). -/
def Core.vmLanes (c : Core) (x : BitVec 4) (esz : Nat) (k : BitVec 3) (off : Nat → Int) : List (Nat × Int) :=
  ((List.range 64).filter (maskBit (c.kreg k))).map fun l => (l, ((c.xreg x).toNat : Int) + off l * esz)

/-- The offsets of VLD and VST, in elements and bytes. -/
def vmAt (imm : BitVec 24) (ls : List (Nat × Int)) : List (Nat × Int) := ls.map fun p => (p.1, p.2 + imm.toInt)

/-- A load into the selected lanes. -/
def vmLoad (ctl : Ctl) (v : BitVec 4) (et : MemTy) (regs : Ranges) (lanes : List (Nat × Int)) (l : Nat) (k : BitVec 3)
    (s : State) : Out :=
  let c := s.core
  let esz := Machine.esz (memEt et).code
  let as := lanes.map (·.2)
  let f := c.elemFault esz false as
  let val (i : Nat) : W32 := match lanes.find? fun p => p.1 = i with
    | some p => loadLane (memEt et) (s.getLe p.2.toNat esz)
    | none => 0
  issue { st := .v, ctl := ctl, regs := regs ++ kRange k, dst := vRange v, fault := f,
          rd := if f.isSome then [] else elemRanges esz as, lat := c.lat .v (l + if anyLent esz as then 4 else 0),
          acts := [.lanes v.toNat (c.kreg k) (if f.isSome then [] else (List.range 64).map val)] } s

/-- The landing of a store: where all 64 lanes go to one run of bytes, a single write (14 R340). -/
def storeAct (run : Bool) (items : List LItem) : LAct :=
  if run && decide (items.length = 64) then .write ((items.head?.map (·.addr)).getD 0) 1 0 (items.flatMap (·.data))
  else .list items

/-- A store of the selected lanes, the higher lane last (R152); bytes of the z states are ignored (R133). Each element is
a write of its own where blocks are poisoned at issue. (DESIGN CHOICE, log 47.) -/
def vmStore (ctl : Ctl) (v : BitVec 4) (et : MemTy) (regs : Ranges) (lanes : List (Nat × Int)) (l : Nat) (k : BitVec 3)
    (run : Bool) (s : State) : Out :=
  let c := s.core
  let esz := Machine.esz (memEt et).code
  let as := lanes.map (·.2)
  let f := c.elemFault esz true as
  let outs := lanes.map fun p => (p.2, storeLane (memEt et) ((vLanes c v).getD p.1 0))
  let items := (outs.filter fun p => !zAddr p.1.toNat).map fun p =>
    { addr := p.1.toNat, data := leBytes esz p.2.1, mask := none : LItem }
  issue { st := .v, ctl := ctl, regs := vRange v ++ regs ++ kRange k, fault := f,
          wr := if f.isSome then [] else elemRanges esz as, lat := c.lat .v (l + if anyLent esz as then 4 else 0),
          acts := [storeAct run items], fp := orFlags (outs.map (·.2.2)) } s

def execVld (c : Ctl) (v : BitVec 4) (x : BitVec 4) (et : MemTy) (k : BitVec 3) (imm : BitVec 24) (s : State) : Out :=
  vmLoad c v et (xRange x) (vmAt imm (s.core.vmLanes x (Machine.esz (memEt et).code) k (·))) 10 k s

def execVst (c : Ctl) (v : BitVec 4) (x : BitVec 4) (et : MemTy) (k : BitVec 3) (imm : BitVec 24) (s : State) : Out :=
  vmStore c v et (xRange x) (vmAt imm (s.core.vmLanes x (Machine.esz (memEt et).code) k (·))) 6 k true s

/-- The index lanes of a gather or scatter, unsigned (R150). -/
def Core.vIndex (c : Core) (vi : BitVec 4) (l : Nat) : Int := (((vLanes c vi).getD l 0).toNat : Int)

def execVldx (c : Ctl) (v : BitVec 4) (x : BitVec 4) (et : MemTy) (k : BitVec 3) (vi : BitVec 4) (s : State) : Out :=
  vmLoad c v et (xRange x ++ vRange vi) (s.core.vmLanes x (Machine.esz (memEt et).code) k (s.core.vIndex vi)) 12 k s

def execVstx (c : Ctl) (v : BitVec 4) (x : BitVec 4) (et : MemTy) (k : BitVec 3) (vi : BitVec 4) (s : State) : Out :=
  vmStore c v et (xRange x ++ vRange vi) (s.core.vmLanes x (Machine.esz (memEt et).code) k (s.core.vIndex vi)) 8 k false s

/-! ## Selector blocks (R153, R154) -/

/-- The pieces of the group of four registers from v(4g) on. -/
def groupRange (g : BitVec 2) : Ranges := [(0x300000 + 1024 * g.toNat, 1024)]

/-- The 256 lanes of a group of four registers. -/
def Core.groupLanes (c : Core) (g : BitVec 2) : List W32 :=
  (List.range 4).flatMap fun q => vLanes c (BitVec.ofNat 4 (4 * g.toNat + q))

/-- LOCAL_BOUNDS, then LENT, for a block (R153); one that ends beyond 0x1FFFFF is out of bounds as a whole, with its start
in FADDR. (DEDUCED, log 64.) -/
def Core.blockFault (c : Core) (a n : Nat) : Option Flt :=
  if a % 4 ≠ 0 || 0x200000 < a + n then some (flt 0x07 a) else c.shadeLent [(a, n)]

def execQst (ctl : Ctl) (v : BitVec 2) (x xr : BitVec 4) (en : BitVec 4) (wc : Bool) (rm : RmShort) (had : BitVec 2)
    (s : State) : Out :=
  let c := s.core
  let a := (c.xreg x).toNat
  let r := (c.xreg xr).toNat
  let n := blockSize wc
  let u (i : Nat) : Nat := (gen (c.csr .seed) (c.sid .v) (BitVec.ofNat 32 i) (BitVec.ofNat 32 (r / 2 ^ 32))).toNat
  let q := quant ((c.groupLanes v).map (·.toNat)) (min (r % 2 ^ 32) 256) wc en.toNat (rmOfShort rm) had.toNat u
  let f := c.blockFault a n
  issue { st := .v, ctl := ctl, regs := groupRange v ++ xRange x ++ xRange xr, fault := f,
          wr := if f.isSome then [] else [(a, n)], lat := c.lat .v (64 + if anyShade [(a, n)] then 4 else 0),
          acts := [.write a 1 0 (blockBytes q.1 wc q.2.1)], fp := q.2.2 } s

def execQld (ctl : Ctl) (v : BitVec 2) (x : BitVec 4) (wc : Bool) (s : State) : Out :=
  let c := s.core
  let a := (c.xreg x).toNat
  let n := blockSize wc
  let f := c.blockFault a n
  let b := if f.isSome then [] else s.getLs a n
  let hdr := leNat (b.take 4)
  let el := (List.range 256).map fun i =>
    let e := blockElemF hdr (b.drop 4) i
    let r := rne32 e.1
    (r.1, e.2 ||| r.2)
  let act (q : Nat) : LAct := .lanes (4 * v.toNat + q) (BitVec.allOnes 64)
    (((el.drop (64 * q)).take 64).map fun p => BitVec.ofNat 32 p.1)
  issue { st := .v, ctl := ctl, regs := xRange x, dst := groupRange v, fault := f,
          rd := if f.isSome then [] else [(a, n)], late := if hdrOk hdr wc then none else some (flt 0x05 a),
          lat := c.lat .v (20 + if anyShade [(a, n)] then 4 else 0), acts := (List.range 4).map act,
          fp := orFlags (el.map (·.2)) } s

/-! ## Stream registers (R155, R156) -/

/-- A stream descriptor that ZBIND refuses: a reserved bit, or an element type beyond 10. -/
def descBad (d : BitVec 256) : Bool :=
  let x := d.toNat
  bits 63 29 x ≠ 0 || bits 23 22 x ≠ 0 || 10 < bits 27 24 x || bits 127 112 x ≠ 0 || bits 255 224 x ≠ 0

/-- The address of zn's state. -/
def zAddr0 (z : BitVec 3) : Nat := 0x301900 + 64 * z.toNat

/-- ZBIND; LENT comes after alignment and range and before the descriptor's checks. (DESIGN CHOICE, log 46.) -/
def execZbind (ctl : Ctl) (z : BitVec 3) (imm : BitVec 32) (s : State) : Out :=
  let c := s.core
  let a := imm.toNat
  let q := flt 0x0F a
  let bad := a % 32 ≠ 0 || 0x200000 ≤ a
  let d := BitVec.ofNat 256 (if bad then 0 else s.getLe a 32)
  issue { st := .v, ctl := ctl, dst := zRange z,
          fault := if bad then some q else if lentAddr a && !c.hot then some (flt 0x06 a) else none,
          rd := if bad then [] else [(a, 32)], late := if descBad d then some q else none,
          lat := c.lat .v (2 + lentTicks a),
          acts := [.zstate (zAddr0 z) (leBytes 32 d.toNat ++ leBytes 4 0 ++ [1])] } s

/-- ZRST; FADDR of its QUEUE fault is 0. (DESIGN CHOICE, log 46.) -/
def execZrst (ctl : Ctl) (z : BitVec 3) (s : State) : Out :=
  let c := s.core
  issue { st := .v, ctl := ctl, regs := zRange z,
          fault := if zBound (vget c.r.z z.toNat 0) then none else some (flt 0x0F), lat := c.lat .v 2,
          acts := [.zstate (zAddr0 z + 32) (leBytes 4 0)] } s

/-! ## Scalars (R158) -/

/-- A word that writes an x register. -/
def xWord (ctl : Ctl) (d : BitVec 4) (regs : Ranges) (val : W64) (s : State) (fp : FpFlags := 0) : Out :=
  issue { st := .v, ctl := ctl, regs := regs, dst := xRange d, lat := s.core.lat .v 2,
          acts := [.xreg d.toNat val], fp := fp } s

def execXli (c : Ctl) (d : BitVec 4) (imm : BitVec 32) (s : State) : Out := xWord c d [] (imm.signExtend 64) s

def execXadd (c : Ctl) (d a b : BitVec 4) (s : State) : Out :=
  xWord c d (xRange a ++ xRange b) (s.core.xreg a + s.core.xreg b) s

def execXaddi (c : Ctl) (d a : BitVec 4) (imm : BitVec 32) (s : State) : Out :=
  xWord c d (xRange a) (s.core.xreg a + imm.signExtend 64) s

def execXmul (c : Ctl) (d a b : BitVec 4) (s : State) : Out :=
  xWord c d (xRange a ++ xRange b) (s.core.xreg a * s.core.xreg b) s

def execXpop (ctl : Ctl) (d : BitVec 4) (s : State) : Out :=
  let c := s.core
  issue { st := .v, ctl := ctl, dst := xRange d, wait := (c.dq .dv).isEmpty, lat := c.lat .v 2,
          acts := [.xreg d.toNat (c.oldest .dv).val] } s fun s => s.onCore (·.dqDrop .dv 1)

def execXpush (ctl : Ctl) (a : BitVec 4) (s : State) : Out :=
  pushWord .v ctl .ya (xRange a) (s.core.xreg a) 2 s

def execXget (c : Ctl) (d v : BitVec 4) (lane : BitVec 6) (s : State) : Out :=
  xWord c d (vRange v) (((vLanes s.core v).getD lane.toNat 0).setWidth 64) s

/-- An FP32 operation on the low halves of two x registers. -/
def xfWord (ctl : Ctl) (d a b : BitVec 4) (f : Nat → Nat → Nat × FpFlags) (s : State) : Out :=
  let r := f ((s.core.xreg a).toNat % 2 ^ 32) ((s.core.xreg b).toNat % 2 ^ 32)
  xWord ctl d (xRange a ++ xRange b) (BitVec.ofNat 64 r.1) s r.2

def execXfadd (c : Ctl) (d a b : BitVec 4) (s : State) : Out := xfWord c d a b fadd s
def execXfmul (c : Ctl) (d a b : BitVec 4) (s : State) : Out := xfWord c d a b fmul s

/-! ## Control (R159) -/

/-- VLOOP decides from the decremented value. -/
def execVloop (ctl : Ctl) (a : BitVec 4) (off : BitVec 24) (s : State) : Out :=
  let c := s.core
  let n := c.xreg a - 1
  issue { st := .v, ctl := ctl, regs := xRange a, lat := c.lat .v 2, acts := [.xreg a.toNat n],
          next := branchIf (n != 0) off } s

def execVbq (ctl : Ctl) (off : BitVec 24) (s : State) : Out :=
  let c := s.core
  issue { st := .v, ctl := ctl, wait := (c.dq .bv).isEmpty, lat := c.latOne .v,
          next := branchIf ((c.oldest .bv).val != 0) off } s fun s => s.onCore (·.dqDrop .bv 1)

def execVbr (ctl : Ctl) (cc : Cond) (a b : BitVec 4) (off : BitVec 24) (s : State) : Out :=
  let c := s.core
  issue { st := .v, ctl := ctl, regs := if cc = .al then [] else xRange a ++ xRange b, lat := c.latOne .v,
          next := branchIf (condHolds cc (c.xreg a) (c.xreg b)) off } s

def execVjmp (ctl : Ctl) (off : BitVec 24) (s : State) : Out :=
  issue { st := .v, ctl := ctl, lat := s.core.latOne .v, next := .rel off } s

def execVbrf (ctl : Ctl) (ne : Bool) (k : BitVec 3) (off : BitVec 24) (s : State) : Out :=
  let c := s.core
  issue { st := .v, ctl := ctl, regs := kRange k, lat := c.latOne .v, next := branchIf ((c.kreg k != 0) = ne) off } s

end Sys2Proof.Machine
end

