-- ==== Sys2Proof/Machine/Xform.lean ====
section
/-! DEFINITION. Tensor walks and the transforms of the copy engines, as functions from the source bytes a command has
read to the bytes it writes (09 R221 to R232, R244 to R248). -/

namespace Sys2Proof.Machine

/-! ## Walks (04 R85, R86; 09 R221) -/

/-- A position of a walk. -/
structure Pos where
  i0 : Nat
  i1 : Nat
  i2 : Nat
  i3 : Nat
  deriving DecidableEq, Repr

/-- Extent of dimension 0 and the number of dim0 runs of a handle. -/
def runLen (h : BitVec 256) : Nat := hExt h 0
def runs (h : BitVec 256) : Nat := hExt h 1 * hExt h 2 * hExt h 3

/-- Position e of dim0 run r of a handle's extents. -/
def posAt (h : BitVec 256) (r e : Nat) : Pos :=
  { i0 := e, i1 := r % hExt h 1, i2 := r / hExt h 1 % hExt h 2, i3 := r / (hExt h 1 * hExt h 2) }

/-- The linear index n(q) (R221). -/
def linear (h : BitVec 256) (p : Pos) : Nat := p.i0 + hExt h 0 * (p.i1 + hExt h 1 * (p.i2 + hExt h 2 * p.i3))

def Pos.transpose (p : Pos) : Pos := { p with i0 := p.i1, i1 := p.i0 }

/-- Inside the extents of a handle (R221). -/
def inExt (h : BitVec 256) (p : Pos) : Bool :=
  p.i0 < hExt h 0 && p.i1 < hExt h 1 && p.i2 < hExt h 2 && p.i3 < hExt h 3

/-- The element index of R86. -/
def elemIdx (h : BitVec 256) (p : Pos) : Int :=
  (p.i0 : Int) + p.i1 * hStride h 1 + p.i2 * hStride h 2 + p.i3 * hStride h 3

/-- Byte address of an element in layout 0, and of the block that holds a position in layout 1 (R86). -/
def elemAddr (h : BitVec 256) (p : Pos) : Int := (hAddr h : Int) + elemIdx h p * (esz (hEt h) : Int)
def blockAddr (h : BitVec 256) (p : Pos) : Int := (hAddr h : Int) + elemIdx h p / 256 * (etBlock (hEt h) : Int)
def blockOff (h : BitVec 256) (p : Pos) : Nat := (elemIdx h p % 256).toNat

/-- Blocks of a dim0 run (R60). -/
def runBlocks (e : Nat) : Nat := ceilDiv e 256

/-- The blocks of a walk over the runs of a handle: run, block of the run, valid positions. -/
def walkBlocks (h : BitVec 256) : List (Nat × Nat × Nat) :=
  (List.range (runs h)).flatMap fun r => (List.range (runBlocks (runLen h))).map fun b =>
    (r, b, min 256 (runLen h - 256 * b))

/-- The positions of a walk. -/
def walkPos (h : BitVec 256) : List Pos :=
  (List.range (runs h)).flatMap fun r => (List.range (runLen h)).map fun e => posAt h r e

/-! ## What an evaluation gives -/

/-- A value, the grains (space and number) still to be read for it, or a failure with its status and address. -/
inductive Ev (α : Type) where
  | val (a : α)
  | need (l : List (Nat × Nat))
  | err (status : BitVec 8) (faddr : W64)

def Ev.bind {α β : Type} (x : Ev α) (f : α → Ev β) : Ev β :=
  match x with
  | .val a => f a
  | .need l => .need l
  | .err s a => .err s a

/-- Two values; the grains needed are those of both, a failure of the first comes first. -/
def Ev.both {α β : Type} (x : Ev α) (y : Ev β) : Ev (α × β) :=
  match x, y with
  | .val a, .val b => .val (a, b)
  | .need l, .need m => .need (l ++ m)
  | .need l, _ => .need l
  | .err s a, _ => .err s a
  | .val _, .need m => .need m
  | .val _, .err s a => .err s a

/-- Values in order. -/
def Ev.all {α : Type} (l : List (Ev α)) : Ev (List α) :=
  l.foldr (fun x r => (x.both r).bind fun p => .val (p.1 :: p.2)) (.val [])

/-- The source bytes at hand: what a Read move took for a byte of a space; `none` where no move has read it. -/
abbrev Source := Nat → Nat → Option (BitVec 8 × Byte)

/-- An address outside its space's width (R85, R218). -/
def spaceFault (space : Nat) : BitVec 8 := if space ≤ 1 then 0x07 else if space = 4 then 0x0A else 0x08

/-- Bits of an address in a space (R85). -/
def spaceBits (space : Nat) : Nat := if space = 0 then 22 else if space = 1 then 33 else 48

/-- n bytes of a space from an address on; a failure reports the address of the element, or for RACE that of the
racing grain (R210, R219). -/
def fetchBytes (src : Source) (space : Nat) (a : Int) (n : Nat) : Ev (List Byte) :=
  if a < 0 || (2 ^ spaceBits space : Nat) < a + n then .err (spaceFault space) (BitVec.ofInt 64 a)
  else
    let b := (List.range n).map fun i => (a.toNat + i, src space (a.toNat + i))
    match b.filter (·.2.isNone) with
    | x :: xs => .need ((x :: xs).map fun p => (space, p.1 / 64)).eraseDups
    | [] =>
      let v := b.map fun p => (p.1, p.2.getD (0, 0))
      match v.find? fun p => p.2.1 ≠ 0 with
      | some p => .err p.2.1 (BitVec.ofNat 64 (if p.2.1 = 0x0B then p.1 / 64 * 64 else a.toNat))
      | none => .val (v.map (·.2.2))

/-- A little-endian number of a space. -/
def fetchNum (src : Source) (space : Nat) (a : Int) (n : Nat) : Ev Nat :=
  (fetchBytes src space a n).bind fun b => .val (leNat b)

/-- n bytes of a space from an address on for a transform that moves bytes: those that a racing grain held are missing, and
the first racing grain's address is told (R210). -/
def fetchMoved (src : Source) (space : Nat) (a : Int) (n : Nat) : Ev (List (Option Byte) × Option W64) :=
  match fetchBytes src space a n with
  | .val b => .val (b.map some, none)
  | .need l => .need l
  | .err st ad =>
    let v := (List.range n).map fun i => (src space (a.toNat + i)).getD (0, 0)
    if st = 0x0B && v.all fun p => p.1 = 0 || p.1 = 0x0B then
      .val (v.map fun p => if p.1 = 0 then some p.2 else none, some ad)
    else .err st ad

/-- One unit of a walk: its first position as a linear index, the bytes it writes, those it would have taken from a racing
grain and that grain's address, the contributions of a reduction, the residuals written back, its flags. -/
structure Piece where
  pos : Nat
  writes : List (Int × List Byte) := []
  raced : List Int := []
  race : Option W64 := none
  red : List (Int × X) := []
  resid : List (Nat × List Byte) := []
  fp : FpFlags := 0

/-- A unit before evaluation: first position, the destination addresses and lengths it may write as far as the source
bytes at hand tell, evaluation, and the residuals it may write back. -/
structure Unit' where
  pos : Nat
  dest : Source → List (Int × Nat)
  run : Source → Ev Piece
  resid : List (Nat × Nat) := []

/-! ## Parameters -/

/-- What every transform reads of its command: handles, parameters, the generator's seed and STREAMID. -/
structure XArgs where
  hd : BitVec 256
  hs : BitVec 256
  p0 : W64
  p1 : W64
  p2 : W64
  p3 : W64
  seed : W64
  sid : W32
  graph : List W64

def rmFull (n : Nat) : Rm := (Rm.ofFull n).getD .rne
def rmShort (n : Nat) : Rm := (Rm.ofShort n).getD .rne

/-- The generator's output for a linear index and a coordinate j (R223). -/
def XArgs.draw (x : XArgs) (n : Nat) (j : W64) : Nat :=
  (gen x.seed x.sid (BitVec.ofNat 32 n) (j.setWidth 32)).toNat

def XArgs.sEt (x : XArgs) : Et := (Et.ofCode (hEt x.hs)).getD .f32
def XArgs.dEt (x : XArgs) : Et := (Et.ofCode (hEt x.hd)).getD .f32
def XArgs.sSz (x : XArgs) : Nat := esz (hEt x.hs)
def XArgs.dSz (x : XArgs) : Nat := esz (hEt x.hd)

/-- The alignment that a handle's elements or blocks have in spaces 0 and 1: their element size, or 4 for blocks; none for the
bytes of a packed tensor (R222 step 3). -/
def hAlign (h : BitVec 256) : Int := if hLayout h = 0 then (esz (hEt h) : Int) else if hLayout h = 1 then 4 else 1

/-- An element or block of a handle that is not aligned in space 0 or 1, where its address depends on data or space 1 leaves
the check to its performance (R218, R222; DEDUCED, log 72). -/
def misplaced (h : BitVec 256) (a : Int) : Bool := hSpace h ≤ 1 && a % hAlign h ≠ 0

/-- What is read at a source address, if it may be read there. -/
def XArgs.atSrc {α : Type} (x : XArgs) (a : Int) (v : Ev α) : Ev α :=
  if misplaced x.hs a then .err 0x07 (BitVec.ofInt 64 a) else v

/-- The code of the source element at a position; outside the source extents it is +0 (R221). -/
def XArgs.code (x : XArgs) (src : Source) (p : Pos) : Ev Nat :=
  if inExt x.hs p then x.atSrc (elemAddr x.hs p) (fetchNum src (hSpace x.hs) (elemAddr x.hs p) x.sSz) else .val 0

/-- The number at word n of a table in the posting core's scratchpad (R223, R230). -/
def tableWord (src : Source) (base : W64) (n : Nat) : Ev Nat :=
  fetchNum src 0 ((bits 21 0 base.toNat + 4 * n : Nat) : Int) 4

def XArgs.out (x : XArgs) (n : Nat) (p : Pos) (code : Nat) (fp : FpFlags := 0) : Piece :=
  { pos := n, writes := [(elemAddr x.hd p, leBytes x.dSz code)], fp := fp }

/-- One unit per destination position (R221). -/
def XArgs.each (x : XArgs) (f : Source → Pos → Ev Piece) : List Unit' :=
  (walkPos x.hd).map fun p => { pos := linear x.hd p, dest := fun _ => [(elemAddr x.hd p, x.dSz)], run := fun s => f s p }

/-- Moved bytes at a destination address: all of them, or byte by byte those that no racing grain held (R210). -/
def movedPiece (n : Nat) (a : Int) (r : List (Option Byte) × Option W64) : Piece :=
  match r.2 with
  | none => { pos := n, writes := [(a, r.1.map (·.getD 0))] }
  | some ad =>
    { pos := n, race := some ad,
      writes := (r.1.zipIdx).filterMap fun p => p.1.map fun b => (a + (p.2 : Int), [b]),
      raced := (r.1.zipIdx).filterMap fun p => if p.1.isNone then some (a + (p.2 : Int)) else none }

/-- An element moved from a source position to a destination position; outside the source extents it is +0 (R221). -/
def XArgs.moved (x : XArgs) (src : Source) (n : Nat) (q p : Pos) : Ev Piece :=
  (if inExt x.hs q then x.atSrc (elemAddr x.hs q) (fetchMoved src (hSpace x.hs) (elemAddr x.hs q) x.sSz)
   else .val (List.replicate x.dSz (some 0), none)).bind fun r => .val (movedPiece n (elemAddr x.hd p) r)

/-! ## Element transforms (R225, R226, R230, R231) -/

def moveUnits (x : XArgs) (tr : Bool) : List Unit' :=
  x.each fun s p => x.moved s (linear x.hd p) (if tr then p.transpose else p) p

/-- MOVE in layout 1: whole blocks, headers unchecked. -/
def moveBlockUnits (x : XArgs) : List Unit' :=
  (walkBlocks x.hd).map fun w =>
    let p := posAt x.hd w.1 (256 * w.2.1)
    let n := etBlock (hEt x.hd)
    { pos := linear x.hd p, dest := fun _ => [(blockAddr x.hd p, n)],
      run := fun s => (x.atSrc (blockAddr x.hs p) (fetchMoved s (hSpace x.hs) (blockAddr x.hs p) n)).bind fun r =>
        .val (movedPiece (linear x.hd p) (blockAddr x.hd p) r) }

/-- The prescale of the options (R224). -/
def XArgs.scale (x : XArgs) (v : X) : X × FpFlags :=
  if bit 4 x.p0.toNat then v.mul (dec32 (x.p1.toNat % 2 ^ 32)) else (v, 0)

/-- CVT of a value to a destination element by the options (R226). -/
def XArgs.cvtOut (x : XArgs) (p : Pos) (v : X) : Piece :=
  let n := linear x.hd p
  let rm := rmFull (bits 2 0 x.p0.toNat)
  let w := x.scale v
  let r := cvtEt w.1 x.dEt rm (bit 3 x.p0.toNat) (if rm = .sr then x.draw n x.p2 else 0)
  x.out n p r.1 (w.2 ||| r.2)

def convertUnits (x : XArgs) (tr : Bool) : List Unit' :=
  x.each fun s p =>
    let q := if tr then p.transpose else p
    (x.code s q).bind fun c => .val (x.cvtOut p (if inExt x.hs q then decEt x.sEt c else .fin false 0 0))

/-- The destination element of a failing index has no source element: the failure reports the first element of the
row, in the handle that the position walks (R230; DESIGN CHOICE, log 10). -/
def gatherUnits (x : XArgs) : List Unit' :=
  x.each fun s p =>
    let n := p.i1 + hExt x.hd 1 * (p.i2 + hExt x.hd 2 * p.i3)
    (tableWord s x.p0 n).bind fun i =>
      if hExt x.hs 1 ≤ i then .err 0x0E (BitVec.ofInt 64 (elemAddr x.hd { p with i0 := 0 }))
      else x.moved s (linear x.hd p) { i0 := p.i0, i1 := i, i2 := 0, i3 := 0 } p

/-- SCATTER walks the source; a destination element written twice keeps the later row. (DESIGN CHOICE, log 10.) -/
def scatterUnits (x : XArgs) : List Unit' :=
  (walkPos x.hs).map fun p =>
    let n := p.i1 + hExt x.hs 1 * (p.i2 + hExt x.hs 2 * p.i3)
    let at' (i : Nat) : Int × Nat := (elemAddr x.hd { i0 := p.i0, i1 := i, i2 := 0, i3 := 0 }, x.dSz)
    let dest (s : Source) : List (Int × Nat) := match tableWord s x.p0 n with
      | .val i => if hExt x.hd 1 ≤ i then [] else [at' i]
      | .need _ => (List.range (hExt x.hd 1)).map at'
      | .err _ _ => []
    { pos := linear x.hs p, dest := dest,
      run := fun s => (tableWord s x.p0 n).bind fun i =>
        if hExt x.hd 1 ≤ i then .err 0x0E (BitVec.ofInt 64 (elemAddr x.hs { p with i0 := 0 }))
        else x.moved s (linear x.hs p) p { i0 := p.i0, i1 := i, i2 := 0, i3 := 0 } }

def fillUnits (x : XArgs) : List Unit' := x.each fun _ p => .val (x.out (linear x.hd p) p x.p0.toNat)

/-! ## Selector blocks (R227) -/

/-- The FP32 codes of m positions of a run from a position on. -/
def XArgs.runF32 (x : XArgs) (s : Source) (r b m : Nat) : Ev (List Nat) :=
  Ev.all ((List.range m).map fun e =>
    let p := posAt x.hs r (256 * b + e)
    (x.code s p).bind fun c => .val (if inExt x.hs p then (loadLane x.sEt c).toNat else 0))

/-- The generator for the elements of a block whose first position has linear index n. -/
def XArgs.drawAt (x : XArgs) (n : Nat) (j : W64) (i : Nat) : Nat := x.draw (n + i) j

def qblockUnits (x : XArgs) : List Unit' :=
  let wc := decide (hEt x.hd = 12)
  let o := x.p0.toNat
  (walkBlocks x.hd).map fun w =>
    let p := posAt x.hd w.1 (256 * w.2.1)
    let n := linear x.hd p
    { pos := n, dest := fun _ => [(blockAddr x.hd p, blockSize wc)],
      run := fun s => (x.runF32 s w.1 w.2.1 w.2.2).bind fun v =>
        let q := quant v w.2.2 wc (bits 3 0 o) (rmShort (bits 5 4 o)) (bits 7 6 o) (x.drawAt n x.p1)
        .val { pos := n, writes := [(blockAddr x.hd p, blockBytes q.1 wc q.2.1)], fp := q.2.2 } }

/-- The header of the block of a source position, checked by R65; HEADER reports the block's address. -/
def XArgs.header (x : XArgs) (s : Source) (p : Pos) : Ev Nat :=
  (x.atSrc (blockAddr x.hs p) (fetchNum s (hSpace x.hs) (blockAddr x.hs p) 4)).bind fun h =>
    if hdrOk h (hEt x.hs = 12) then .val h else .err 0x05 (BitVec.ofInt 64 (blockAddr x.hs p))

/-- The exact value of an element of a layout-1 source (03 R64), with the flags of DEC × SCALE (R70). -/
def XArgs.blockVal (x : XArgs) (s : Source) (p : Pos) : Ev (X × FpFlags) :=
  (x.header s p).bind fun h =>
    let wc := decide (hEt x.hs = 12)
    let i := blockOff x.hs p
    (fetchNum s (hSpace x.hs) (blockAddr x.hs p + 4 + ((if wc then i else i / 2 : Nat) : Int)) 1).bind fun b =>
      let code := if wc then b else if i % 2 = 0 then b % 16 else b / 16
      .val (if 256 ≤ i + hdrTail h then (.fin false 0 0, 0)
        else (decSel wc (hdrSel h) code).mul (scaleVal (hdrScale h)))

def xblockUnits (x : XArgs) : List Unit' :=
  x.each fun s p => (x.blockVal s p).bind fun v =>
    let o := x.cvtOut p v.1
    .val { o with fp := o.fp ||| v.2 }

/-! ## Zero-block packing (R228) -/

/-- Number of bitmap words and offset of the stored blocks for NB blocks. -/
def packHead (nb : Nat) : Nat := 8 + 8 * ceilDiv nb 64

/-- A zero block: every value is ±0. -/
def zeroBlock (h : Nat) (pay : List Byte) : Bool := (List.range 256).all fun i => (blockElem h pay i).isZero

/-- A source block, its header checked. -/
def XArgs.block (x : XArgs) (s : Source) (p : Pos) : Ev (List Byte) :=
  (x.header s p).bind fun _ => fetchBytes s (hSpace x.hs) (blockAddr x.hs p) (etBlock (hEt x.hs))

def isZeroBlock (b : List Byte) : Bool := zeroBlock (leNat (b.take 4)) (b.drop 4)

/-- Header word and bitmap of a packed tensor, from which blocks are stored. -/
def packHeader (wc : Bool) (stored : List Bool) : List Byte :=
  let nb := stored.length
  leBytes 4 nb ++ leBytes 4 wc.toNat ++
    (List.range (ceilDiv nb 64)).flatMap fun w =>
      leBytes 8 ((List.range 64).foldl (fun t i => if stored.getD (64 * w + i) false then t + 2 ^ i else t) 0)

/-- ZPACK: each non-zero block behind those before it; header and bitmap once every block is known (DEDUCED, log 17);
nothing with a zero extent (R221). -/
def zpackUnits (x : XArgs) : List Unit' :=
  let wc := decide (hEt x.hs = 12)
  let ws := walkBlocks x.hs
  let nb := ws.length
  let sz := blockSize wc
  let at' (w : Nat × Nat × Nat) : Pos := posAt x.hs w.1 (256 * w.2.1)
  let slot (i : Nat) : Int × Nat := (((hAddr x.hd + packHead nb + i * sz : Nat) : Int), sz)
  let body := ws.zipIdx.map fun (w, k) =>
    let dest (s : Source) : List (Int × Nat) := match Ev.all ((ws.take k).map fun w => x.block s (at' w)) with
      | .val bs =>
        let one := [slot (bs.filter fun b => !isZeroBlock b).length]
        (match x.block s (at' w) with
        | .val b => if isZeroBlock b then [] else one
        | _ => one)
      | .need _ => (List.range (k + 1)).map slot
      | .err _ _ => []
    ({ pos := linear x.hd (at' w), dest := dest,
       run := fun s => (Ev.all ((ws.take (k + 1)).map fun w => x.block s (at' w))).bind fun bs =>
         let before := ((bs.take k).filter fun b => !isZeroBlock b).length
         let b := bs.getD k []
         .val { pos := linear x.hd (at' w),
                writes := if isZeroBlock b then []
                  else [(((hAddr x.hd + packHead nb + before * sz : Nat) : Int), b)] } } : Unit')
  if nb = 0 then [] else
  body ++ [{ pos := runs x.hd * runLen x.hd, dest := fun _ => [((hAddr x.hd : Nat), packHead nb)],
             run := fun s => (Ev.all (ws.map fun w => x.block s (at' w))).bind fun bs =>
               .val { pos := runs x.hd * runLen x.hd,
                      writes := [((hAddr x.hd : Nat), packHeader wc (bs.map fun b => !isZeroBlock b))] } }]

/-- A zero block as ZUNPACK writes it (R228): its TAIL is that of its place in the run. -/
def emptyBlock (wc : Bool) (valid : Nat) : List Byte :=
  blockBytes (mkHdr 0 0 wc (min 255 (256 - valid))) wc (List.replicate 256 0)

/-- Where a block of a layout-2 source is stored, by header word and bitmap, its own header checked; none for a zero
block. -/
def XArgs.packedAt (x : XArgs) (wc : Bool) (nb k : Nat) (s : Source) : Ev (Option Int) :=
  let sp := hSpace x.hs
  let a : Int := (hAddr x.hs : Int)
  let sz := blockSize wc
  (fetchNum s sp a 8).bind fun h =>
    if bits 31 0 h ≠ nb || bit 32 h != wc || bits 63 33 h ≠ 0 then .err 0x05 (BitVec.ofInt 64 a)
    else (Ev.all ((List.range (k / 64 + 1)).map fun (w : Nat) => fetchNum s sp (a + 8 + 8 * (w : Int)) 8)).bind fun bm =>
      let has (b : Nat) : Bool := bit (b % 64) (bm.getD (b / 64) 0)
      if has k then
        let ba := a + ((packHead nb + sz * ((List.range k).filter has).length : Nat) : Int)
        (fetchNum s sp ba 4).bind fun hd =>
          if hdrOk hd wc then .val (some ba) else .err 0x05 (BitVec.ofInt 64 ba)
      else .val none

/-- A block of a layout-2 source. -/
def XArgs.packed (x : XArgs) (wc : Bool) (nb k valid : Nat) (s : Source) : Ev (List Byte) :=
  (x.packedAt wc nb k s).bind fun r => match r with
    | some ba => fetchBytes s (hSpace x.hs) ba (blockSize wc)
    | none => .val (emptyBlock wc valid)

def zunpackUnits (x : XArgs) : List Unit' :=
  let wc := decide (hEt x.hd = 12)
  let ws := walkBlocks x.hd
  ws.zipIdx.map fun (w, k) =>
    let p := posAt x.hd w.1 (256 * w.2.1)
    { pos := linear x.hd p, dest := fun _ => [(blockAddr x.hd p, blockSize wc)],
      run := fun s => (x.packedAt wc ws.length k s).bind fun r =>
        (match r with
         | some ba => fetchMoved s (hSpace x.hs) ba (blockSize wc)
         | none => .val ((emptyBlock wc w.2.2).map some, none)).bind fun b =>
          .val (movedPiece (linear x.hd p) (blockAddr x.hd p) b) }

/-! ## TOPK (R229) -/

/-- |y| comes before |z| in the choice: larger by the key order of R70. -/
def magBefore (y z : Nat) : Bool := (dec32 (fabs z)).keyLt (dec32 (fabs y))

/-- The c positions of largest |y|, in ascending order; on equal |y| the lower position. -/
def topOf (c : Nat) (ys : List Nat) : List Nat :=
  let ins (l : List (Nat × Nat)) (x : Nat × Nat) : List (Nat × Nat) :=
    (l.takeWhile fun z => !magBefore x.1 z.1) ++ x :: l.dropWhile fun z => !magBefore x.1 z.1
  let top := ((ys.zipIdx.foldl ins []).take c).map (·.2)
  (List.range ys.length).filter fun e => top.contains e

/-- The record of a block, and the value kept at each kept position (as FP32). -/
def topRecord (k : Nat) (ys : List Nat) : List Byte × List (Nat × Nat) × FpFlags :=
  let c := min k ys.length
  let ps := topOf c ys
  let conv := ps.map fun e => (e, cvtEt (dec32 (ys.getD e 0)) .bf16 .rne false)
  let entries := conv.flatMap fun p => leBytes 1 p.1 ++ [0] ++ leBytes 2 p.2.1
  (leBytes 2 c ++ leBytes 2 0 ++ entries ++ List.replicate (4 * (k - c)) 0,
   conv.map fun p => (p.1, (loadLane .bf16 p.2.1).toNat), orFlags (conv.map (·.2.2)))

/-- Residuals of positions of a run of the source, and where they stand (R223). -/
def XArgs.resAddr (x : XArgs) (base : W64) (p : Pos) : Nat := bits 21 0 base.toNat + 4 * linear x.hs p
def XArgs.residuals (x : XArgs) (s : Source) (base : W64) (r b m : Nat) : Ev (List Nat) :=
  Ev.all ((List.range m).map fun e =>
    fetchNum s 0 ((x.resAddr base (posAt x.hs r (256 * b + e)) : Nat) : Int) 4)

/-- Two lists added lane by lane as FP32, with the flags. -/
def addAll (a b : List Nat) : List Nat × FpFlags :=
  let r := List.zipWith fadd a b
  (r.map (·.1), orFlags (r.map (·.2)))

/-- The residual of a position: y less the value kept there (R229). -/
def resOf (y : Nat) (kept : Option Nat) : Nat × FpFlags :=
  match kept with
  | some v => fsub y v
  | none => (y, 0)

def topkUnits (x : XArgs) (withRes : Bool) : List Unit' :=
  let k := bits 7 0 x.p0.toNat
  (walkBlocks x.hs).zipIdx.map fun (w, i) =>
    let n := i * (4 + 4 * k)
    let a : Int := ((hAddr x.hd + n : Nat) : Int)
    { pos := n, dest := fun _ => [(a, 4 + 4 * k)],
      resid := if withRes then (List.range w.2.2).map fun e => (x.resAddr x.p1 (posAt x.hs w.1 (256 * w.2.1 + e)), 4) else [],
      run := fun s =>
        let res := if withRes then x.residuals s x.p1 w.1 w.2.1 w.2.2 else .val []
        ((x.runF32 s w.1 w.2.1 w.2.2).both res).bind fun (v, rs) =>
          let y : List Nat × FpFlags := if withRes then addAll v rs else (v, 0)
          let t := topRecord k y.1
          let back := y.1.zipIdx.map fun (yv, e) =>
            (x.resAddr x.p1 (posAt x.hs w.1 (256 * w.2.1 + e)),
              resOf yv ((t.2.1.find? fun (q : Nat × Nat) => decide (q.1 = e)).map fun (q : Nat × Nat) => q.2))
          .val { pos := n, writes := [(a, t.1)],
                 resid := if withRes then back.map fun q => (q.1, leBytes 4 q.2.1) else [],
                 fp := y.2 ||| t.2.2 ||| (if withRes then orFlags (back.map (·.2.2)) else 0) } }

/-! ## Reductions (R232) -/

def reduceUnits (x : XArgs) : List Unit' :=
  (walkPos x.hd).map fun p =>
    { pos := linear x.hd p, dest := fun _ => [(elemAddr x.hd p, x.dSz)],
      run := fun s => (x.code s p).bind fun c =>
        .val { pos := linear x.hd p, red := [(elemAddr x.hd p, decEt x.sEt c)] } }

def reduceQUnits (x : XArgs) : List Unit' :=
  let o := x.p0.toNat
  let wc := bit 4 o
  (walkBlocks x.hs).map fun w =>
    let at' (e : Nat) : Pos := posAt x.hs w.1 (256 * w.2.1 + e)
    let n := linear x.hd (at' 0)
    { pos := n, dest := fun _ => (List.range w.2.2).map fun e => (elemAddr x.hd (at' e), x.dSz),
      resid := (List.range w.2.2).map fun e => (x.resAddr x.p2 (at' e), 4),
      run := fun s => ((x.runF32 s w.1 w.2.1 w.2.2).both (x.residuals s x.p2 w.1 w.2.1 w.2.2)).bind fun (v, rs) =>
        let y := addAll v rs
        let q := quant y.1 w.2.2 wc (bits 3 0 o) (rmShort (bits 6 5 o)) 0 (x.drawAt n x.p1)
        let pay := (blockBytes q.1 wc q.2.1).drop 4
        let back := y.1.zipIdx.map fun (yv, e) =>
          (x.resAddr x.p2 (at' e), fsub yv (rne32 (blockElem q.1 pay e)).1)
        .val { pos := n,
               red := (List.range w.2.2).map fun e => (elemAddr x.hd (at' e), blockElem q.1 pay e),
               resid := back.map fun r => (r.1, leBytes 4 r.2.1), fp := q.2.2 } }

/-! ## Graphs (R244 to R248) -/

def ghNN (h : W64) : Nat := bits 63 60 h.toNat
def ghOut (h : W64) : Nat := bits 59 56 h.toNat
def ghRv (h : W64) : Bool := bit 55 h.toNat
def ghRn (h : W64) : Nat := bits 54 51 h.toNat

def gnOp (w : W64) : Nat := bits 63 58 w.toNat
def gnIn (w : W64) (i : Nat) : Nat :=
  if i = 0 then bits 57 53 w.toNat else if i = 1 then bits 52 48 w.toNat else bits 47 43 w.toNat
def gnType (w : W64) : Nat := bits 42 40 w.toNat
def gnAux (w : W64) : Nat := bits 39 32 w.toNat
def gnImm (w : W64) : Nat := bits 31 0 w.toNat

def gnTy (w : W64) : VTy := if gnType w = 1 then .i else if gnType w = 2 then .u else .f

def isPacked (op : Nat) : Bool := op = 20 || op = 22 || op = 24 || op = 25

/-- What a node yields for a block of a run: a lane for each position, or a packed block with the value it holds for
each position (exact, with the flags of DEC × SCALE; none where a TOPK record keeps none). -/
structure NodeOut where
  lanes : List W32 := []
  bytes : List Byte := []
  held : List (Option (X × FpFlags)) := []
  fp : FpFlags := 0

/-- The inputs of a node for a block: lanes of source, residual and parameters. -/
structure GraphIn where
  source : List W32
  resid : List W32
  x : XArgs
  m : Nat

def GraphIn.lane (g : GraphIn) (nodes : List NodeOut) (code imm : Nat) : List W32 :=
  if code < 16 then (nodes.getD code {}).lanes
  else if code = 16 then g.source
  else if code = 17 then g.resid
  else if code = 18 then List.replicate g.m (g.x.p0.setWidth 32)
  else if code = 19 then List.replicate g.m (g.x.p1.setWidth 32)
  else if code = 20 then List.replicate g.m (g.x.p2.setWidth 32)
  else if code = 21 then List.replicate g.m (g.x.p3.setWidth 32)
  else List.replicate g.m (BitVec.ofNat 32 imm)

/-- CMPSEL's condition code (R246). -/
def cmpCc (n : Nat) : Cond := if n = 0 then .eq else if n = 1 then .ne else if n = 2 then .lt else .ge

/-- An element type of R28 as a conversion destination. -/
def memTyOf (n : Nat) : MemTy :=
  [MemTy.f32, .i32, .ui32, .bf16, .fp16, .i16, .ui16, .i8, .ui8, .e4m3, .e5m2].getD n .f32

/-- The integer that an exact value is, if it is one. -/
def X.int? : X → Option Int
  | .fin s m e =>
    let k := (-e).toNat
    if m % 2 ^ k ≠ 0 then none
    else
      let v : Int := if 0 ≤ e then m * 2 ^ e.toNat else m / 2 ^ k
      some (if s then -v else v)
  | _ => none

/-- RESID at one position: the lane less the value held there, exact, rounded or wrapped once (R246); under an integer
TYPE a held value that is no integer gives a free value. (DESIGN CHOICE, log 50.) -/
def residNode (ty : VTy) (e : Nat) (x : W32) (v : X) : W32 × FpFlags :=
  match ty with
  | .f =>
    let d := (dec32 x.toNat).add v.negate
    let r := rne32 d.1
    (BitVec.ofNat 32 r.1, d.2 ||| r.2)
  | _ => match v.int? with
    | some i => (BitVec.ofInt 32 ((if ty = .i then x.toInt else (x.toNat : Int)) - i), 0)
    | none => (Config.residLane x e, 0)

/-- One node of a graph on a block of m positions whose first has linear index n (R246). -/
def evalNode (g : GraphIn) (n : Nat) (nodes : List NodeOut) (w : W64) : NodeOut :=
  let ty := gnTy w
  let a := g.lane nodes (gnIn w 0) 0
  let b := g.lane nodes (gnIn w 1) (gnImm w)
  let c := g.lane nodes (gnIn w 2) 0
  let un (f : W32 → W32 × FpFlags) : NodeOut := let r := a.map f; { lanes := r.map (·.1), fp := orFlags (r.map (·.2)) }
  let bin (f : W32 → W32 → W32 × FpFlags) : NodeOut :=
    let r := List.zipWith f a b; { lanes := r.map (·.1), fp := orFlags (r.map (·.2)) }
  let tri (f : W32 → W32 → W32 → W32 × FpFlags) : NodeOut :=
    let r := List.zipWith (fun (p : W32 × W32) z => f p.1 p.2 z) (a.zip b) c
    { lanes := r.map (·.1), fp := orFlags (r.map (·.2)) }
  let aux := gnAux w
  let src := nodes.getD (gnIn w 0) {}
  match gnOp w with
  | 1 => bin fun x y => byTy ty (fl2 fadd) (bw fun x y _ => x + y) x y 0
  | 2 => bin fun x y => byTy ty (fl2 fsub) (bw fun x y _ => x - y) x y 0
  | 3 => bin fun x y => byTy ty (fl2 fmul) (bw fun x y _ => x * y) x y 0
  | 4 => tri fun x y z => byTy ty (fl3 ffma) (bw fun x y z => x * y + z) x y z
  | 5 => bin fun x y => (maxW ty x y, 0)
  | 6 => bin fun x y => (minW ty x y, 0)
  | 7 => un fun x => byTy ty (bw fun x _ _ => BitVec.ofNat 32 (fabs x.toNat)) (bw fun x _ _ => absI x) x 0 0
  | 8 => un fun x => byTy ty (bw fun x _ _ => BitVec.ofNat 32 (fneg x.toNat)) (bw fun x _ _ => 0 - x) x 0 0
  | 9 =>
    let rm := rmFull (bits 6 4 aux)
    let r := a.zipIdx.map fun p => cvtLane ty (memTyOf (bits 3 0 aux)) rm (bit 7 aux)
      (if rm = .sr then g.x.draw (n + p.2) (BitVec.ofNat 64 (gnImm w)) else 0) p.1
    { lanes := r.map (·.1), fp := orFlags (r.map (·.2)) }
  | 10 => un fun x =>
    let v := (dec32 x.toNat).mul (scaleVal (gnImm w % 2 ^ 16))
    let r := rne32 v.1
    (BitVec.ofNat 32 r.1, v.2 ||| r.2)
  | 11 => tri fun x y z => (minW ty (maxW ty x y) z, 0)
  | 12 => tri fun x y z => (if laneCond (cmpCc (bits 1 0 aux)) ty x (BitVec.ofNat 32 (gnImm w)) then y else z, 0)
  | 13 => bin fun x y => (x <<< (y.toNat % 32), 0)
  | 14 => bin fun x y => (if ty = .i then x.sshiftRight (y.toNat % 32) else x >>> (y.toNat % 32), 0)
  | 15 => bin fun x y => (x &&& y, 0)
  | 16 => bin fun x y => (x ||| y, 0)
  | 17 => bin fun x y => (x ^^^ y, 0)
  | 19 =>
    let h := hadSize (bits 1 0 aux)
    let r := hadBlock h (256 / h) (a.map (·.toNat) ++ List.replicate (256 - a.length) 0)
    { lanes := (r.1.take g.m).map (BitVec.ofNat 32 ·), fp := r.2 }
  | 20 =>
    let wc := bit 4 aux
    let q := quant (a.map (·.toNat)) g.m wc (bits 3 0 aux) (rmShort (bits 6 5 aux)) 0
      (g.x.drawAt n (BitVec.ofNat 64 (gnImm w)))
    let by' := blockBytes q.1 wc q.2.1
    { bytes := by', fp := q.2.2,
      held := (List.range g.m).map fun e => some (blockElemF q.1 (by'.drop 4) e) }
  | 22 =>
    let t := topRecord aux (a.map (·.toNat))
    let held := (List.range g.m).map fun e => (t.2.1.find? fun q => q.1 = e).map fun q => (dec32 q.2, 0)
    { bytes := t.1, fp := t.2.2, held := held }
  | 23 =>
    let h := (nodes.getD (gnIn w 1) {}).held
    let r := a.zipIdx.map fun p => match h.getD p.2 none with
      | some v => let r := residNode ty (n + p.2) p.1 v.1; (r.1, v.2 ||| r.2)
      | none => (p.1, 0)
    { lanes := r.map (·.1), fp := orFlags (r.map (·.2)) }
  | 24 => { bytes := src.bytes, held := src.held }
  | _ => { lanes := a }

/-- The nodes of a graph on a block; `first` is what node 0 yields where it is a source-class operator. -/
def evalNodes (g : GraphIn) (n : Nat) (first : Option NodeOut) (ws : List W64) : List NodeOut :=
  (ws.zipIdx).foldl (fun r p => r ++ [match first, p.2 with
    | some f, 0 => f
    | _, _ => evalNode g n r p.1]) []

def XArgs.nodes (x : XArgs) : List W64 := x.graph.drop 1
def XArgs.ghead (x : XArgs) : W64 := x.graph.headD 0
def XArgs.node0 (x : XArgs) : Nat := gnOp (x.nodes.headD 0)
def XArgs.outOp (x : XArgs) : Nat := gnOp (x.nodes.getD (ghOut x.ghead) 0)
def XArgs.readsRes (x : XArgs) : Bool := x.nodes.any fun w => (List.range 3).any fun i => gnIn w i = 17

/-- The extents the walk of a graph's source has: those of the source handle, dimensions 0 and 1 exchanged under
TRANSPOSE (R221, R246). -/
def XArgs.shape (x : XArgs) : BitVec 256 :=
  if x.node0 = 18 then hfSet (hfSet x.hs .ext0 (BitVec.ofNat 64 (hExt x.hs 1))) .ext1 (BitVec.ofNat 64 (hExt x.hs 0)) else x.hs

/-- Where the residual of a position of a graph's walk stands (R223). -/
def XArgs.gres (x : XArgs) (h : BitVec 256) (p : Pos) : Nat := bits 21 0 x.p3.toNat + 4 * linear h p

/-- Some node after the first reads the source input. -/
def XArgs.readsSource (x : XArgs) : Bool :=
  (x.nodes.drop (if x.node0 = 18 then 1 else 0)).any fun w => (List.range 3).any fun i => gnIn w i = 16

/-- A graph with a block operator is evaluated block by block, any other position by position (R248). -/
def XArgs.blockwise (x : XArgs) : Bool :=
  x.nodes.any fun w => let op := gnOp w; op = 19 || op = 23 || isPacked op

/-- The parts of a walk that a graph is evaluated on: run, first position of the run, number of positions. -/
def XArgs.parts (x : XArgs) (h : BitVec 256) : List (Nat × Nat × Nat) :=
  if x.blockwise then (walkBlocks h).map fun w => (w.1, 256 * w.2.1, w.2.2)
  else (List.range (runs h)).flatMap fun r => (List.range (runLen h)).map fun e => (r, e, 1)

/-- The nodes of a graph for m positions from position e0 of run r of the extents of `h` on; nb and k number the
blocks of a layout-2 source. Under TRANSPOSE node 0 alone has the transposed source; input 16 is the position's own, +0 where
a source that is not square has no such position (R221, R245; DEDUCED, log 68). The source input of a layout-1 or layout-2
source has no stated lane: a free value. (DESIGN CHOICE, log 11.) -/
def XArgs.graphAt (x : XArgs) (h : BitVec 256) (s : Source) (r e0 m nb k : Nat) : Ev (List NodeOut) :=
  let at' (e : Nat) : Pos := posAt h r (e0 + e)
  let n := linear h (at' 0)
  let res := if x.readsRes then
      Ev.all ((List.range m).map fun e => fetchNum s 0 ((x.gres h (at' e) : Nat) : Int) 4)
    else .val []
  let free := (List.range m).map fun e => Config.packedLane (linear h (at' e))
  let lanes (f : Pos → Pos) : Ev (List W32) :=
    (Ev.all ((List.range m).map fun e => x.code s (f (at' e)))).bind fun cs => .val (cs.map (loadLane x.sEt))
  let src : Ev (List W32 × Option NodeOut) :=
    if hLayout x.hs = 0 then
      if x.node0 = 18 then
        ((lanes Pos.transpose).both (if x.readsSource then lanes id else .val [])).bind fun p =>
          .val (p.2, some { lanes := p.1 })
      else (lanes id).bind fun l => .val (l, none)
    else if hLayout x.hs = 1 then
      (Ev.all ((List.range m).map fun e => x.blockVal s (at' e))).bind fun vs =>
        let l := vs.map fun v => let r := rne32 v.1; (r.1, v.2 ||| r.2)
        .val (free, some { lanes := l.map fun p => BitVec.ofNat 32 p.1, fp := orFlags (l.map (·.2)) })
    else
      let wide := if hLayout x.hd = 1 then .val (decide (hEt x.hd = 12))
        else (fetchNum s (hSpace x.hs) (hAddr x.hs : Int) 8).bind fun h => .val (bit 32 h)
      (wide.bind fun wc => x.packed wc nb k m s).bind fun by' =>
        let held := (List.range m).map fun e => some (blockElemF (leNat (by'.take 4)) (by'.drop 4) e)
        .val (free, some { bytes := by', held := held })
  (src.both res).bind fun (p, rs) =>
    .val (evalNodes { source := p.1, resid := rs.map (BitVec.ofNat 32 ·), x := x, m := m } n p.2 x.nodes)

/-- Lanes written back to the residuals of positions e0 on of run r (R248). -/
def XArgs.laneResid (x : XArgs) (h : BitVec 256) (r e0 : Nat) (l : List W32) : List (Nat × List Byte) :=
  l.zipIdx.map fun p => (x.gres h (posAt h r (e0 + p.2)), leBytes 4 p.1.toNat)

/-- Residual words that a part of a graph's walk may write back. -/
def XArgs.residSpan (x : XArgs) (h : BitVec 256) (r e0 m : Nat) : List (Nat × Nat) :=
  if ghRv x.ghead then (List.range m).map fun e => (x.gres h (posAt h r (e0 + e)), 4) else []

/-- Residuals that node RN writes back (R248). -/
def XArgs.graphResid (x : XArgs) (h : BitVec 256) (r e0 : Nat) (no : List NodeOut) : List (Nat × List Byte) :=
  if ghRv x.ghead then x.laneResid h r e0 (no.getD (ghRn x.ghead) {}).lanes else []

/-- Lanes stored as VST stores them; or as contributions of a CRED, a lane of integer TYPE taken as an FP32 code
(R232, R247; DESIGN CHOICE, log 51). -/
def XArgs.laneOuts (x : XArgs) (red : Bool) (ps : List (Pos × W32)) :
    List (Int × List Byte) × List (Int × X) × FpFlags :=
  if red then ([], ps.map fun p => (elemAddr x.hd p.1, dec32 p.2.toNat), 0)
  else
    let r := ps.map fun p => (elemAddr x.hd p.1, storeLane x.dEt p.2)
    (r.map fun p => (p.1, leBytes x.dSz p.2.1), [], orFlags (r.map (·.2.2)))

/-- The sum over ascending i1 of the lanes of a node (R246): it begins with the first row's lane, and is +0 over no rows
(DEDUCED, log 68). Where RN names SUM itself, the sums are written back, at the destination's positions (R248). -/
def XArgs.sumUnits (x : XArgs) (red : Bool) : List Unit' :=
  let out := ghOut x.ghead
  let inner := gnIn (x.nodes.getD out 0) 0
  let e1 := hExt x.shape 1
  let per := runBlocks (runLen x.shape)
  let nb := (walkBlocks x.shape).length
  (x.parts x.hd).map fun w =>
    let at' (e : Nat) : Pos := posAt x.hd w.1 (w.2.1 + e)
    { pos := linear x.hd (at' 0), dest := fun _ => (List.range w.2.2).map fun e => (elemAddr x.hd (at' e), x.dSz),
      resid := if ghRn x.ghead = out then x.residSpan x.hd w.1 w.2.1 w.2.2
        else (List.range e1).flatMap fun i1 => x.residSpan x.shape (i1 + e1 * w.1) w.2.1 w.2.2,
      run := fun s =>
        (Ev.all ((List.range e1).map fun i1 =>
          let r := i1 + e1 * w.1
          x.graphAt x.shape s r w.2.1 w.2.2 nb (per * r + w.2.1 / 256))).bind fun rows =>
          let g (no : List NodeOut) : List W32 := if inner < 16 then (no.getD inner {}).lanes else
            (no.getD out {}).lanes
          let sum := rows.foldl (fun (t : List Nat × FpFlags × Bool) no =>
            if t.2.2 then ((g no).map (·.toNat), t.2.1, false)
            else let r := addAll t.1 ((g no).map (·.toNat)); (r.1, t.2.1 ||| r.2, false))
            (List.replicate w.2.2 0, 0, true)
          let lanes := sum.1.map (BitVec.ofNat 32 ·)
          let o := x.laneOuts red (lanes.zipIdx.map fun p => (at' p.2, p.1))
          .val { pos := linear x.hd (at' 0), writes := o.1, red := o.2.1,
                 resid := if ghRv x.ghead && ghRn x.ghead = out then x.laneResid x.hd w.1 w.2.1 lanes
                   else rows.zipIdx.flatMap fun q => x.graphResid x.shape (q.2 + e1 * w.1) w.2.1 q.1,
                 fp := sum.2.1 ||| o.2.2 ||| orFlags (rows.flatMap fun no => no.map (·.fp)) } }

/-- A graph command by the class of its OUT node. -/
def XArgs.graphUnits (x : XArgs) (red : Bool) : List Unit' :=
  let op := x.outOp
  let out := ghOut x.ghead
  if op = 26 then x.sumUnits red
  else
    let h := if op = 22 || op = 24 then x.shape else x.hd
    let ws := x.parts h
    let nb := (walkBlocks h).length
    let k := gnAux (x.nodes.getD out 0)
    let wc := bit 4 (gnAux (x.nodes.getD (gnIn (x.nodes.getD out 0) 0) 0))
    let blk (s : Source) (j : Nat) (v : Nat × Nat × Nat) := x.graphAt h s v.1 v.2.1 v.2.2 nb j
    let body := ws.zipIdx.map fun (w, i) =>
      let at' (e : Nat) : Pos := posAt h w.1 (w.2.1 + e)
      let n := if op = 22 then i * (4 + 4 * k) else linear x.hd (at' 0)
      let dest (s : Source) : List (Int × Nat) :=
        if op = 22 then [((hAddr x.hd + n : Nat), 4 + 4 * k)]
        else if op = 24 then
          (match Ev.all (((ws.take i).zipIdx).map fun (v, j) => blk s j v) with
          | .val bs =>
            let st := (bs.filter fun b => !isZeroBlock (b.getD out {}).bytes).length
            [((hAddr x.hd + packHead nb + st * blockSize wc : Nat), blockSize wc)]
          | _ => (List.range (i + 1)).map fun j => ((hAddr x.hd + packHead nb + j * blockSize wc : Nat), blockSize wc))
        else if isPacked op then [(blockAddr x.hd (at' 0), etBlock (hEt x.hd))]
        else (List.range w.2.2).map fun e => (elemAddr x.hd (at' e), x.dSz)
      ({ pos := n, dest := dest, resid := x.residSpan h w.1 w.2.1 w.2.2,
         run := fun s =>
           let before := if op = 24 then Ev.all (((ws.take i).zipIdx).map fun (v, j) => blk s j v) else .val []
           (before.both (blk s i w)).bind fun (bs, no) =>
             let o := no.getD out {}
             let lo := x.laneOuts red (o.lanes.zipIdx.map fun p => (at' p.2, p.1))
             let stored := (bs.filter fun b => !isZeroBlock (b.getD out {}).bytes).length
             let wr : List (Int × List Byte) :=
               if op = 22 then [((hAddr x.hd + n : Nat), o.bytes)]
               else if op = 24 then
                 (if isZeroBlock o.bytes then []
                  else [((hAddr x.hd + packHead nb + stored * blockSize wc : Nat), o.bytes)])
               else if isPacked op then [(blockAddr x.hd (at' 0), o.bytes)] else lo.1
             .val { pos := n, writes := wr, red := if isPacked op then [] else lo.2.1,
                    resid := x.graphResid h w.1 w.2.1 no,
                    fp := orFlags (no.map (·.fp)) ||| (if isPacked op then 0 else lo.2.2) } } : Unit')
    if op = 24 && nb = 0 then []
    else if op = 24 then
      body ++ [{ pos := runs x.hd * runLen x.hd, dest := fun _ => [((hAddr x.hd : Nat), packHead nb)],
                 run := fun s => (Ev.all ((ws.zipIdx).map fun (v, j) => blk s j v)).bind
                   fun bs =>
                     let head := packHeader wc (bs.map fun b => !isZeroBlock (b.getD out {}).bytes)
                     .val { pos := runs x.hd * runLen x.hd, writes := [((hAddr x.hd : Nat), head)] } }]
    else body

/-! ## A command as a list of units -/

/-- The units of a COPY or CRED in walk order, by its xf. -/
def XArgs.units (x : XArgs) (xf : Nat) (red : Bool) : List Unit' :=
  match xf with
  | 0x00 => if hLayout x.hd = 1 then moveBlockUnits x else moveUnits x false
  | 0x01 => moveUnits x true
  | 0x02 => convertUnits x false
  | 0x03 => convertUnits x true
  | 0x04 => qblockUnits x
  | 0x05 => xblockUnits x
  | 0x06 => zunpackUnits x
  | 0x07 => zpackUnits x
  | 0x08 => topkUnits x false
  | 0x09 => topkUnits x true
  | 0x0A => gatherUnits x
  | 0x0B => scatterUnits x
  | 0x0C => reduceUnits x
  | 0x0D => reduceQUnits x
  | 0x0E => fillUnits x
  | _ => x.graphUnits red

end Sys2Proof.Machine
end

