-- ==== Sys2Proof/Machine/Translate.lean ====
section
/-! DEFINITION. Device, host and peer memory by grains, translation and windows, dirty logging, and events
(07 R178 to R182; 08 R207, R208, R214; 12 R290 to R306; 15 R355 to R359, R371). -/

namespace Sys2Proof.Machine

/-! ## Device memory (07 R178 to R182) -/

/-- A device physical address of R178. -/
def devOk (pa : Nat) : Bool := pa < 2 ^ 39 && pa % 2 ^ 36 < 0x861000000

/-- Die whose router serves a device physical address (R178). -/
def dieOf (pa : Nat) : Nat := pa / 2 ^ 36 / 2

/-- A grain of the atomic unit's cache becomes the most recently used; an atomic lets a grain enter, and the least
recently used one leaves a full cache (R182). -/
def State.touchCache (s : State) (enter : Bool) (g : Nat) : State :=
  let d := dieOf (64 * g)
  let l := vget s.cache d []
  if l.contains g || enter then
    { s with cache := vset s.cache d ((g :: l.filter (· ≠ g)).take 64) }
  else s

/-- A write marks the 64 KiB granule of the device-wide dirty log (15 R366). -/
def State.markGranule (s : State) (g : Nat) : State :=
  if s.ck.logging then
    let k := g / 1024
    if s.ck.dirty.contains k then s
    else { s with ck := { s.ck with dirty := s.ck.dirty.takeWhile (· < k) ++ (k :: s.ck.dirty.dropWhile (· < k)) } }
  else s

/-- Bytes of a grain with some of them replaced. -/
def putBytes (m : Mem) (g : Nat) (bs : List (Nat × Byte)) : Mem := m.setAll (bs.map fun p => (64 * g + p.1, p.2))

/-- All 64 bytes of a grain are written. -/
def coversGrain (bs : List (Nat × Byte)) : Bool := (List.range 64).all fun i => bs.any fun p => p.1 = i

/-- The tag of a grain (R180). -/
def State.tagOf (s : State) (g : Nat) : Tag := (s.tags.find? fun t => t.grain = g).getD { grain := g, writer := 0xFFF, region := 0 }

/-- The machine with the tag of a grain replaced; tags that read as at reset are not listed. -/
def State.setTag (s : State) (g : Nat) (w : BitVec 12) (r : BitVec 20) : State :=
  let l := s.tags.filter fun t => t.grain ≠ g
  if w = 0xFFF && r = 0 then { s with tags := l }
  else
    let x : Tag := { grain := g, writer := w, region := r }
    { s with tags := l.takeWhile (fun t => t.grain < g) ++ x :: l.dropWhile (fun t => t.grain < g) }

def State.poisonGrain (s : State) (g : Nat) : State :=
  if s.poison.contains g then s
  else { s with poison := s.poison.takeWhile (· < g) ++ (g :: s.poison.dropWhile (· < g)) }

/-- A write to a grain of device memory: the bytes, the tag, the poisoned mark cleared by a whole write
(R179, R180, R182). -/
def State.devWrite (s : State) (g : Nat) (bs : List (Nat × Byte)) (w : BitVec 12) (r : BitVec 20) : State :=
  let s1 := (s.touchCache false g).markGranule g
  let s2 := { s1 with mem := putBytes s1.mem g bs,
                      poison := if coversGrain bs then s1.poison.filter (· ≠ g) else s1.poison }
  s2.setTag g w r

/-- A write by the host or the Rilosteg, of bytes from an address on (R180). -/
def State.rilWrite (s : State) (a : Nat) (bs : List Byte) : State :=
  let gs := ((List.range bs.length).map fun i => (a + i) / 64).eraseDups
  let part (g : Nat) := (bs.zipIdx.filter fun p => (a + p.2) / 64 = g).map fun p => ((a + p.2) % 64, p.1)
  gs.foldl (fun s g => s.devWrite g (part g) 0xFFF 0) s

/-- An indivisible OR of one byte at the router atomic unit (R181, R298, R300). The tag stays, as CATOM leaves it. (DESIGN
CHOICE, log 77.) -/
def State.devOr (s : State) (a : Nat) (b : Byte) : State :=
  let s1 := (s.touchCache true (a / 64)).markGranule (a / 64)
  { s1 with mem := s1.mem.set a (s1.mem.get a ||| b) }

/-! ## Contexts and accesses -/

/-- On whose behalf a unit translates: its number (R301), the tenant, the translation registers (R290), the core whose
command it is and the die it stands on. -/
structure Ctx where
  eng : Nat
  tenant : BitVec 4
  xlat : Vector W64 7
  core : Nat
  die : Nat
  /-- A command of the core's stream, whose own data in the combine buffer its reads take (08 R194 rule 2). -/
  buf : Bool := false
  /-- No move names the results its translations use: of those its unit keeps, a free value chooses (R301). -/
  pick : Bool := false

/-- The accesses of R296 and R304. -/
inductive Acc where
  | read | write | reduce | atomic
  deriving DecidableEq, Repr

def Ctx.reg (c : Ctx) (i : Nat) : Nat := (vget c.xlat i 0).toNat

/-- What a translation yields: the place of the address, whether the race check covers it, the leaf whose D bit a
write sets, and the latency class. -/
structure Place where
  home : Home
  pa : Nat
  checked : Bool := false
  leaf : Option Nat := none
  lc : Nat := 0

/-! ## Routes (15 R359, R362, R371) -/

def domX (d : W64) : Nat := bits 3 0 d.toNat
def domY (d : W64) : Nat := bits 7 4 d.toNat
def domZ (d : W64) : Nat := bits 11 8 d.toNat

/-- Coordinates of a die of this package. -/
def State.dieAt (s : State) (d : Nat) : Nat × Nat × Nat :=
  (bits 19 16 s.boot.trained.toNat + d % 2, bits 23 20 s.boot.trained.toNat + d / 2, bits 27 24 s.boot.trained.toNat)

/-- The die of this package at some coordinates. -/
def State.ownDie (s : State) (x y z : Nat) : Option Nat :=
  (List.range 4).find? fun d => s.dieAt d = (x, y, z)

/-- The next coordinate of a ring of extent e on the way from c to t, and whether the way is the + one (R371); the two
dies of a package in a dimension of extent 2 meet over their own link. -/
def ringHop (e c t : Nat) (pair : Bool) : Nat × Bool :=
  let fwd := (t + e - c) % e
  let plus := if e = 2 && pair then decide (c % 2 = 0) else decide (2 * fwd ≤ e)
  (if plus then (c + 1) % e else (c + e - 1) % e, plus)

/-- The last counter value, which no flit uses (R362). -/
def lastCtr : Nat := 2 ^ 40 - 1

/-- A link that is declared down, or has not come up; and one that sends no data flit: in key hold, or with its counter at its
last value, which is where key hold begins (R361, R362). -/
def Link.down (l : Link) : Bool := l.state.toNat < 2
def Link.held (l : Link) : Bool := l.state = 3 || (l.state = 2 && l.ctr.toNat = lastCtr)

/-- Some link of this package on the route between two places of the domain is in a condition (R359). -/
def State.routeHas (s : State) (p : Link → Bool) : Nat → (Nat × Nat × Nat) → (Nat × Nat × Nat) → Bool
  | 0, _, _ => false
  | n + 1, (x, y, z), (tx, ty, tz) =>
    let d := s.boot.trained
    let here (plus : Bool) (axis : Nat) : Bool := match s.ownDie x y z with
      | some die => p (vget s.links (6 * die + 2 * axis + if plus then 0 else 1) Link.reset)
      | none => false
    if x ≠ tx then
      let h := ringHop (domX d) x tx true
      here h.2 0 || s.routeHas p n (h.1, y, z) (tx, ty, tz)
    else if y ≠ ty then
      let h := ringHop (domY d) y ty true
      here h.2 1 || s.routeHas p n (x, h.1, z) (tx, ty, tz)
    else if z ≠ tz then
      let h := ringHop (domZ d) z tz false
      here h.2 2 || s.routeHas p n (x, y, h.1) (tx, ty, tz)
    else false

/-- The route from a die of this package to some coordinates is down. -/
def State.wayDown (s : State) (die : Nat) (to' : Nat × Nat × Nat) : Bool := s.routeHas Link.down 24 (s.dieAt die) to'

/-- A link of the route is in key hold: what would use it waits. -/
def State.wayHeld (s : State) (die : Nat) (to' : Nat × Nat × Nat) : Bool := s.routeHas Link.held 24 (s.dieAt die) to'

/-- The route between two dies of this package is down, or held. -/
def State.diesDown (s : State) (a b : Nat) : Bool := s.wayDown a (s.dieAt b)
def State.diesHeld (s : State) (a b : Nat) : Bool := s.wayHeld a (s.dieAt b)

/-- Die of a core (07 R178: stack s is the home stack of cluster s). -/
def coreDie (n : Nat) : Nat := clusterOf n / 2

/-! ## The heap and the page table (R292 to R298) -/

/-- A heap address (R292). -/
def Ctx.inHeap (c : Ctx) (v : Nat) : Bool :=
  let b := bits 47 0 (c.reg 0)
  b ≤ v && v < b + bits 47 0 (c.reg 1)

def Ctx.heap (c : Ctx) (acc : Acc) (v : Nat) : Except (BitVec 8) Place :=
  let l := c.reg 1
  let pa := (v + bits 47 0 (c.reg 2)) % 2 ^ 48
  if bits 15 0 (c.reg 0) ≠ 0 || bits 15 0 l ≠ 0 || bits 15 0 (c.reg 2) ≠ 0 then .error 0x08
  else if !devOk pa then .error 0x08
  else
    let ok := match acc with
      | .read => true
      | .write | .reduce => bit 61 l
      | .atomic => bit 62 l
    if ok then .ok { home := .dev, pa := pa, checked := bit 63 l, lc := bits 57 56 l } else .error 0x09

/-- V is clear or a reserved bit of an entry is set (R294). -/
def entryBad (e : Nat) : Bool :=
  !bit 63 e || bits 52 48 e ≠ 0 || bits 10 0 e ≠ 0
    || (if bit 62 e then bits 15 11 e ≠ 0 || 2 ≤ bits 55 54 e else bits 61 53 e ≠ 0)

/-- Bytes of the stream's own write data for a grain (08 R194 rule 2), latest first. -/
def Core.buffered (c : Core) (h : Home) (g : Nat) : List (Nat × Byte) :=
  ((c.cp.cb.filter fun e => e.home = h && e.grain = g).flatMap fun e => e.parts.flatMap (·.bytes)).reverse

/-- A byte of device memory as a read of a context takes it: from its own stream's data, or from its home. -/
def State.readDev (s : State) (c : Ctx) (a : Nat) : Byte :=
  match (if c.buf then (s.getCore c.core).buffered .dev (a / 64) else []).find? fun b => b.1 = a % 64 with
  | some b => b.2
  | none => s.mem.get a

/-- The Read of a table entry by a unit (R186, R295): PAGE outside R178, LINK where the way is down, POISON from a
poisoned grain. -/
def State.entryRead (s : State) (c : Ctx) (a n : Nat) : Except (BitVec 8) Nat :=
  if !devOk a || !devOk (a + n - 1) then .error 0x08
  else if s.diesDown c.die (dieOf a) then .error 0x16
  else if s.poison.contains (a / 64) || s.poison.contains ((a + n - 1) / 64) then .error 0x0C
  else .ok (leNat ((List.range n).map fun i => s.readDev c (a + i)))

/-- A walk of an address before its first entry read; PAGE without a table. -/
def Ctx.walkStart (c : Ctx) (v : Nat) : TlbEnt :=
  let valid := bit 63 (c.reg 3)
  { eng := c.eng, tenant := c.tenant, win := false, root := vget c.xlat 3 0, key := v / 2 ^ 16, big := false,
    left := if valid then 4 else 0, table := 2 ^ 11 * bits 47 11 (c.reg 3), err := if valid then 0 else 0x08, leaf := 0,
    word := 0 }

/-- The read of a window entry before it is made. -/
def Ctx.winStart (c : Ctx) (win : Nat) : TlbEnt :=
  { eng := c.eng, tenant := c.tenant, win := true, root := vget c.xlat 4 0, key := win, big := false, left := 1,
    table := 32 * bits 47 5 (c.reg 4), err := 0, leaf := 0, word := 0 }

/-- Address of the entry that is read next. -/
def TlbEnt.next (t : TlbEnt) (v : Nat) : Nat :=
  if t.win then t.table + 32 * t.key else t.table + 8 * bits (15 + 8 * t.left) (8 + 8 * t.left) v

/-- The walk has failed. -/
def TlbEnt.fails (t : TlbEnt) (x : BitVec 8) : TlbEnt := { t with left := 0, err := x }

/-- One entry read of a walk (R295), or the read of a window entry (R306). -/
def State.walkOne (s : State) (c : Ctx) (v : Nat) (t : TlbEnt) : TlbEnt :=
  let a := t.next v
  let l := t.left - 1
  if t.left = 0 then t
  else match s.entryRead c a (if t.win then 32 else 8) with
    | .error x => t.fails x
    | .ok e =>
      if t.win then { t with left := 0, word := BitVec.ofNat 256 e }
      else if entryBad e then t.fails 0x08
      else if !bit 62 e then (if l = 0 then t.fails 0x08 else { t with left := l, table := 2 ^ 11 * bits 47 11 e })
      else if 2 ≤ l || (l = 1 && bits 23 16 e ≠ 0) then t.fails 0x08
      else if bits 55 54 e = 1 && (bits 57 56 e = 1 || bits 57 56 e = 2) then t.fails 0x08
      else { t with left := 0, big := decide (l = 1), key := if l = 1 then v / 2 ^ 24 else v / 2 ^ 16, leaf := a,
                    word := BitVec.ofNat 256 e }

/-- A walk to its end: at most four entries. -/
def State.walked (s : State) (c : Ctx) (v : Nat) (t : TlbEnt) : TlbEnt :=
  s.walkOne c v (s.walkOne c v (s.walkOne c v (s.walkOne c v t)))

/-- Grains of the entries that a walk still reads, at most n of them. -/
def State.walkPath (s : State) (c : Ctx) (v : Nat) : Nat → TlbEnt → List Nat
  | 0, _ => []
  | n + 1, t => if t.left = 0 || !devOk (t.next v) then [] else t.next v / 64 :: s.walkPath c v n (s.walkOne c v t)

/-- An entry read as a move: it refreshes the atomic unit's cache (07 R182). -/
def State.walkMove (s : State) (c : Ctx) (v : Nat) (t : TlbEnt) : State × TlbEnt :=
  let u := s.walkOne c v t
  (if t.left = 0 || !devOk (t.next v) || u.err = 0x16 then s else s.touchCache false (t.next v / 64), u)

/-- What a leaf grants an access (R296), and the place it names. -/
def leafPlace (acc : Acc) (v a e : Nat) (big : Bool) : Except (BitVec 8) Place :=
  let ok := match acc with
    | .read => bit 61 e
    | .write | .reduce => bit 60 e
    | .atomic => bit 61 e && bit 60 e && bit 59 e
  let pa := if big then 2 ^ 24 * bits 47 24 e + v % 2 ^ 24 else 2 ^ 16 * bits 47 16 e + v % 2 ^ 16
  let tier0 := decide (bits 55 54 e = 0)
  if !ok then .error 0x09
  else if tier0 && !devOk pa then .error 0x08
  else .ok { home := if tier0 then .dev else .host, pa := pa, checked := tier0 && bit 58 e,
             leaf := if acc = .read || bit 53 e then none else some a, lc := bits 57 56 e }

/-- A finished result may serve a translation (R301). -/
def TlbEnt.serves (t : TlbEnt) (c : Ctx) (win : Bool) (root key : Nat) : Bool :=
  t.left = 0 && t.eng = c.eng && t.tenant = c.tenant && t.win = win && t.root.toNat = root
    && (if win then t.key = key else t.key = if t.big then key / 2 ^ 24 else key / 2 ^ 16)

/-- The distributor's number among the units that translate, and the host interface's, which always walks afresh (R301). -/
def distEng : Nat := 128
def hostEng : Nat := 129

/-- The result that a translation uses where it makes no walk: one chosen, where it serves; where no move names one, at the
distributor and at the issue of a timed COPY, one of those the unit keeps, or none, by a free value (R301; DESIGN CHOICE,
log 55). -/
def State.kept (s : State) (c : Ctx) (win : Bool) (root key : Nat) (tr : Option TlbEnt) : Option TlbEnt :=
  match tr.filter fun t => t.serves c win root key with
  | some t => some t
  | none =>
    if c.eng ≠ distEng && !c.pick then none
    else match s.tlb.filter fun t => t.serves c win root key with
      | [] => none
      | l => ((none :: l.map some)[Config.keptPick s.free key]?).getD none

/-- The result that a translation uses, or a fresh one. -/
def State.result (s : State) (c : Ctx) (win : Bool) (root key : Nat) (tr : Option TlbEnt) (fresh : TlbEnt) : TlbEnt :=
  (s.kept c win root key tr).getD fresh

/-- The page of a device virtual address under the page table. -/
def State.paged (s : State) (c : Ctx) (acc : Acc) (v : Nat) (tr : Option TlbEnt) : Except (BitVec 8) Place :=
  let t := s.result c false (c.reg 3) v tr (s.walked c v (c.walkStart v))
  if t.err ≠ 0 then .error t.err else leafPlace acc v t.leaf t.word.toNat t.big

/-- Space 2 (R292, R295). -/
def State.virt (s : State) (c : Ctx) (acc : Acc) (v : Nat) (tr : Option TlbEnt) : Except (BitVec 8) Place :=
  if 2 ^ 48 ≤ v then .error 0x08
  else if c.inHeap v then c.heap acc v
  else s.paged c acc v tr

/-- The unit keeps a finished result (R301). -/
def State.keep (s : State) (t : TlbEnt) : State := if s.tlb.contains t then s else { s with tlb := s.tlb ++ [t] }

/-- A walk made at once: its entry reads, and the result kept (R301). -/
def State.noteWalk (s : State) (c : Ctx) (v : Nat) : State :=
  if 2 ^ 48 ≤ v || c.inHeap v then s
  else
    let go (r : State × TlbEnt) : State × TlbEnt := r.1.walkMove c v r.2
    let r := go (go (go (go (s, c.walkStart v))))
    r.1.keep r.2

/-- Space 3, translated by ATS in pages of 4 KiB (09 R249, R297): the host is asked, and answers with a bus address or
with none. -/
def Ctx.hostVirt (c : Ctx) (v : Nat) : Except (BitVec 8) Place :=
  if 2 ^ 48 ≤ v then .error 0x08
  else match Config.ats c.tenant.toNat (v / 4096) with
    | none => .error 0x08
    | some p => .ok { home := .host, pa := 4096 * p + v % 4096, lc := 3 }

/-! ## Windows (R303 to R306) -/

/-- The entry of a window, where its number lies in the table. -/
def State.winEntry (s : State) (c : Ctx) (win : Nat) (tr : Option TlbEnt) : Except (BitVec 8) Nat :=
  if bits 16 0 (c.reg 5) ≤ win then .error 0x0A
  else
    let t := s.result c true (c.reg 4) win tr (s.walkOne c 0 (c.winStart win))
    if t.err ≠ 0 then .error t.err else .ok t.word.toNat

def State.noteWindow (s : State) (c : Ctx) (win : Nat) : State :=
  if bits 16 0 (c.reg 5) ≤ win then s
  else let r := s.walkMove c 0 (c.winStart win); r.1.keep r.2

def winX (e : Nat) : Nat := bits 3 0 e
def winY (e : Nat) : Nat := bits 7 4 e
def winZ (e : Nat) : Nat := bits 11 8 e

/-- A valid entry with legal coordinates and no reserved bit (R304, R306 steps 1 and 2). -/
def winOk (dom : W64) (e : Nat) : Bool :=
  bit 63 e && winX e < domX dom && winY e < domY dom && winZ e < domZ dom
    && bits 62 20 e = 0 && bits 15 12 e = 0 && bits 127 112 e = 0 && bits 69 64 e = 0 && bits 191 176 e = 0
    && bits 255 224 e = 0

/-- Bit of w0 that grants an access (R304). -/
def Acc.permBit : Acc → Nat
  | .read => 16
  | .write => 17
  | .atomic => 18
  | .reduce => 19

/-- Some exposure entry accepts a request for a byte (R305). -/
def accepts (l : List Expo) (acc : Acc) (key pa : Nat) : Bool :=
  l.any fun x => bit 63 x.w0.toNat && bit acc.permBit x.w0.toNat && bits 31 0 x.key.toNat = key
    && 64 * bits 47 6 x.base.toNat ≤ pa && pa < 64 * bits 47 6 x.base.toNat + x.limit.toNat

/-- Number of a package of the domain by the coordinates of one of its dies. -/
def packageNo (x y z : Nat) : Nat := x / 2 + 4 * (y / 2) + 16 * z

def State.peer (s : State) (n : Nat) : Peer := alGet { mem := [], tags := [], poison := [], expo := [], recv := false } s.peers n

/-- Home and place of a window's address, under an entry that passed. -/
def State.winPlace (s : State) (e off : Nat) : Home × Nat :=
  (if (s.ownDie (winX e) (winY e) (winZ e)).isSome then .dev else .peer (packageNo (winX e) (winY e) (winZ e)),
    64 * bits 111 70 e + off)

/-- Status of a byte of a window under an entry that passed: the engine's own checks, the way, the peer's (R306 steps 3
to 6, 15 R362). -/
def State.winByte (s : State) (acc : Acc) (down : Bool) (e off : Nat) : BitVec 8 :=
  let z := s.winPlace e off
  let table := match z.1 with
    | .peer k => (s.peer k).expo
    | _ => s.expo.toList
  if bits 175 128 e ≤ off || !bit acc.permBit e then 0x0A
  else if down then 0x16
  else if !accepts table acc (bits 223 192 e) z.2 then 0x0A
  else if !devOk z.2 then 0x08 else 0

/-! ## One grain of a space -/

def all64 (x : BitVec 8) : List (BitVec 8) := List.replicate 64 x

/-- A grain with one status for every byte, for an access that fails. -/
def Grain.failed (x : BitVec 8) : Grain := { home := .host, num := 0, stat := all64 x }

/-- Number and home of a grain of a core's local map; a lent one lies in a neighbour (07 R166). -/
def localHome (n g : Nat) : Home × Nat :=
  if lentAddr (64 * g) then let t := lentTo n (64 * g); (.core t.1, t.2 / 64) else (.core n, g)

/-- A local grain of the posting core; a byte that no address of R161 names, or a lent one outside hot class, fails. -/
def State.localGrain (s : State) (n g : Nat) (write : Bool) : Grain :=
  let h := localHome n g
  let hot := (s.getCore n).hot
  let stat := (List.range 64).map fun i =>
    let a := 64 * g + i
    if !mapped a || (write && (viewAddr a || zAddr a)) then (0x07 : BitVec 8) else if lentAddr a && !hot then 0x06 else 0
  { home := h.1, num := h.2, loc := some (n, 64 * g), stat := stat }

/-- The core runs a job (R169). -/
def Core.runs (c : Core) : Bool := match c.job with
  | some j => j.phase = .running
  | none => false

def Core.tenant (c : Core) : BitVec 4 := ((c.job.map (·.tenant)).getD 0)

/-- A grain of another core named by an OPA, checked at the target (R168, R169). -/
def State.opaGrain (s : State) (c : Ctx) (g : Nat) (write : Bool) : Grain :=
  let n := bits 32 22 (64 * g)
  let t := s.getCore n
  let held := s.diesHeld c.die (coreDie n)
  if s.diesDown c.die (coreDie n) then Grain.failed 0x16
  else if !t.runs || t.tenant ≠ c.tenant then
    { (s.localGrain n (bits 21 0 (64 * g) / 64) write) with stat := all64 0x09, held := held }
  else { (s.localGrain n (bits 21 0 (64 * g) / 64) write) with held := held }

/-- A grain of device virtual memory: a heap whose limits are no multiples of 64 holds some of its bytes, and the page
table the others (R292). -/
def State.virtGrain (s : State) (c : Ctx) (acc : Acc) (g : Nat) (tr : Option TlbEnt) (placed : Except (BitVec 8) Place → Grain) :
    Grain :=
  let inside := (List.range 64).map fun i => c.inHeap (64 * g + i)
  if (bits 5 0 (c.reg 0) = 0 && bits 5 0 (c.reg 1) = 0) || inside.all id || !inside.any id then
    placed (s.virt c acc (64 * g) tr)
  else
    let x := placed (if 2 ^ 48 ≤ 64 * g then .error 0x08 else s.paged c acc (64 * g) tr)
    { x with stat := (inside.zip x.stat).map fun p => if p.1 then 0x08 else p.2 }

/-- Grains of the entries that a fresh translation of a grain reads; none under a result that serves. -/
def State.pathOf (s : State) (c : Ctx) (space win g : Nat) (tr : Option TlbEnt) : List Nat :=
  let v := 64 * g
  if space = 2 then
    (if 2 ^ 48 ≤ v || c.inHeap v || (s.kept c false (c.reg 3) v tr).isSome then []
     else s.walkPath c v 4 (c.walkStart v))
  else if space = 4 then
    (if bits 16 0 (c.reg 5) ≤ win || (s.kept c true (c.reg 4) win tr).isSome then []
     else s.walkPath c 0 1 (c.winStart win))
  else []

/-- A grain of a space as an engine finds it, with a translation chosen (R301), or none; `win` is the window (R249). A write that
is to set a D bit uses the way to its leaf too (R298, 15 R362). -/
def State.findGrain (s : State) (c : Ctx) (acc : Acc) (space win g : Nat) (tr : Option TlbEnt) : Grain :=
  let placed (r : Except (BitVec 8) Place) : Grain := match r with
    | .error x => Grain.failed x
    | .ok p =>
      let leaf (f : Nat → Nat → Bool) : Bool := (p.leaf.map fun a => f c.die (dieOf a)).getD false
      let dev := decide (p.home = .dev)
      { home := p.home, num := p.pa / 64,
        stat := all64 (if leaf s.diesDown || (dev && s.diesDown c.die (dieOf p.pa)) then 0x16 else 0),
        checked := p.checked, leaf := p.leaf, way := if dev then some (s.dieAt (dieOf p.pa)) else none,
        held := leaf s.diesHeld || (dev && s.diesHeld c.die (dieOf p.pa)) }
  if space = 0 then s.localGrain c.core g (acc != .read)
  else if space = 1 then s.opaGrain c g (acc != .read)
  else if space = 2 then s.virtGrain c acc g tr placed
  else if space = 3 then placed (c.hostVirt (64 * g))
  else match s.winEntry c win tr with
    | .error x => Grain.failed x
    | .ok e =>
      if !winOk s.boot.trained e then Grain.failed 0x0A
      else
        let to' := (winX e, winY e, winZ e)
        let down := s.wayDown c.die to'
        let z := s.winPlace e (64 * g)
        { home := z.1, num := z.2 / 64, stat := (List.range 64).map fun i => s.winByte acc down e (64 * g + i),
          way := some to', held := s.wayHeld c.die to' }

/-- The same with the entries read on the way: a link in key hold on the way to one of them holds the access too. -/
def State.grainOf (s : State) (c : Ctx) (acc : Acc) (space win g : Nat) (tr : Option TlbEnt) : Grain :=
  let x := s.findGrain c acc space win g tr
  let l := s.pathOf c space win g tr
  let ph := l.any fun k => s.diesHeld c.die (dieOf (64 * k))
  if l.isEmpty then x else { x with held := x.held || ph, path := l, pheld := ph }

/-- The engine keeps what it read to find a grain by a fresh result. -/
def State.noteGrain (s : State) (c : Ctx) (space win g : Nat) (tr : Option TlbEnt) : State :=
  if tr.isSome then s
  else if space = 2 then s.noteWalk c (64 * g)
  else if space = 4 then s.noteWindow c win
  else s

/-- The blocks of a core that a grain lies in and that are in a state. -/
def State.grainBlocks (s : State) (x : Grain) (p : Pres) : List Nat :=
  match x.loc with
  | none => []
  | some (n, a) => (blocksIn a 64).filter fun b => (s.getCore n).presOf b = p

/-- The 64 bytes of a grain as a read finds them: POISON from a poisoned grain or block (R169, R179). -/
def State.readGrain (s : State) (x : Grain) : List (BitVec 8 × Byte) :=
  let val (i : Nat) : BitVec 8 × Byte := match x.home with
    | .dev => if s.poison.contains x.num then (0x0C, 0) else (0, s.mem.get (64 * x.num + i))
    | .host => (0, s.host.get (64 * x.num + i))
    | .peer n =>
      if (s.peer n).poison.contains x.num then (0x0C, 0) else (0, (s.peer n).mem.get (64 * x.num + i))
    | .core n =>
      match x.loc with
      | some (m, a) =>
        match blockOf (a + i) with
        | some b => if (s.getCore m).presOf b = .poisoned then (0x0C, 0) else (0, s.getB m (a + i))
        | none => (0, s.getB m (a + i))
      | none => (0, (s.getCore n).getB (64 * x.num + i))
  (x.stat.zipIdx).map fun p => if p.1 ≠ 0 then (p.1, 0) else val p.2

/-- The 64 bytes of a grain as a stream's read takes them: its own data in the combine buffer before what stands at the home
(08 R194 rule 2). -/
def State.ownGrain (s : State) (n : Nat) (x : Grain) : List (BitVec 8 × Byte) :=
  let own := (s.getCore n).buffered x.home x.num
  (s.readGrain x).zipIdx.map fun p => if x.stat.getD p.2 0 ≠ 0 then p.1 else
    match own.find? fun b => b.1 = p.2 with
    | some b => (0, b.2)
    | none => p.1

/-- A write to a grain outside cores (R180, R208, R214). -/
def State.writeGrain (s : State) (h : Home) (g : Nat) (bs : List (Nat × Byte)) (w : BitVec 12) (r : BitVec 20) : State :=
  match h with
  | .dev => s.devWrite g bs w r
  | .host => { s with host := putBytes s.host g bs }
  | .peer n =>
    let p := s.peer n
    let left := if coversGrain bs then p.poison.filter (· ≠ g) else p.poison
    { s with peers := alSet s.peers n { p with mem := putBytes p.mem g bs, tags := p.tags.filter (·.grain ≠ g), poison := left } }
  | .core _ => s

/-- A grain of device memory that an access reaches: some byte of it is to be had. -/
def Grain.reached (x : Grain) : Bool := x.home = .dev && x.stat.any (· = 0)

/-- A read of a cached grain refreshes it (R182). -/
def State.usedGrain (s : State) (x : Grain) : State := if x.reached then s.touchCache false x.num else s

/-- An atomic brings the grain that it reaches into the cache, also one that it then finds poisoned (R182). -/
def State.atomTouch (s : State) (x : Grain) : State := if x.reached then s.touchCache true x.num else s

/-- The reads of the table entries on the way to a grain. -/
def State.usedPath (s : State) (x : Grain) : State := x.path.foldl (fun s k => s.touchCache false k) s

def State.tenant (s : State) (t : BitVec 4) : Tenant := vget s.ten t.toNat .reset
def State.setTenant (s : State) (t : BitVec 4) (x : Tenant) : State := { s with ten := vset s.ten t.toNat x }

/-- A grain that an HBM stack moved for a tenant is counted, for its share of the draw (13 R324): every grain of device memory
that is read or written for it, whatever unit does so. (DEDUCED, log 32.) -/
def State.moves (s : State) (t : BitVec 4) (h : Home) (g : Nat) : State :=
  if h ≠ .dev then s
  else
    let x := s.tenant t
    let k := 64 * g / 2 ^ 36
    s.setTenant t { x with moved := vset x.moved k (vget x.moved k 0 + 1) }

/-- The grains of n bytes of a space. -/
def grainsAt (a n : Nat) : List Nat :=
  if n = 0 then [] else (List.range ((a + n - 1) / 64 + 1 - a / 64)).map (a / 64 + ·)

/-- The bytes from an address on that fall into grain g, with their places in it. -/
def grainPart (a : Nat) (bs : List Byte) (g : Nat) : List (Nat × Byte) :=
  let lo := max a (64 * g)
  (((bs.drop (lo - a)).take (64 * g + 64 - lo)).zipIdx).map fun p => (lo - 64 * g + p.2, p.1)

/-- n bytes from an address on, of what its grains hold. -/
def joinGrains (a n : Nat) (got : List (List (BitVec 8 × Byte))) : List (BitVec 8 × Byte) :=
  ((got.flatMap fun l => (List.range 64).map fun i => l.getD i (0x08, 0)).drop (a % 64)).take n

/-- The reads of n bytes of a space, and of the entries on the way, refresh what the atomic units cache (R182) and are counted
for the tenant (13 R324). -/
def State.usedRange (s : State) (c : Ctx) (space win a n : Nat) : State :=
  (grainsAt a n).foldl (fun s g =>
    let x := s.grainOf c .read space win g none
    let s1 := (s.usedPath x).usedGrain x
    if x.reached then s1.moves c.tenant x.home x.num else s1) s

/-- A read of n bytes of a space finds a link in key hold on its way; or a write does, which uses the ways to the leaves whose D
bits it sets too (15 R362). -/
def State.rangeHeld (s : State) (c : Ctx) (space win a n : Nat) : Bool :=
  (grainsAt a n).any fun g => (s.grainOf c .read space win g none).held
def State.writeHeld (s : State) (c : Ctx) (space win a n : Nat) : Bool :=
  (grainsAt a n).any fun g => (s.grainOf c .write space win g none).held

/-! ## Events (15 R357, R358) -/

/-- Raising an MSI-X vector: a message to host memory, or its pending bit while the vector is masked. -/
def State.raise (s : State) (t : BitVec 4) (v : Nat) : State :=
  let x := s.tenant t
  let e := (vget x.msix v 0).toNat
  if bit 96 e then s.setTenant t { x with pba := x.pba ||| BitVec.ofNat 64 (2 ^ v) }
  else { s with host := s.host.setN (bits 63 0 e) (leBytes 4 (bits 95 64 e)) }

/-- How a tenant's own accesses translate: event ring, aperture, launch records, images of jobs (R290). -/
def State.tenantCtx (s : State) (t : BitVec 4) (eng : Nat) : Ctx :=
  { eng := eng, tenant := t, xlat := (s.tenant t).xlat, core := 0, die := 0 }

/-- The distributor keeps the walks of n bytes that it used (R301). -/
def State.noteDist (s : State) (c : Ctx) (v n : Nat) : State :=
  if c.eng ≠ distEng || n = 0 then s
  else (List.range ((v + n - 1) / 2 ^ 16 + 1 - v / 2 ^ 16)).foldl (fun s i =>
    let a := max v ((v / 2 ^ 16 + i) * 2 ^ 16)
    if 2 ^ 48 ≤ a || c.inHeap a then s else s.keep (s.result c false (c.reg 3) a none (s.walked c a (c.walkStart a)))) s

/-- The distributor's reads of n bytes: what the atomic units cache is refreshed, and the walks are kept. -/
def State.distReads (s : State) (c : Ctx) (space v n : Nat) : State :=
  let s1 := s.usedRange c space 0 v n
  if space = 2 then s1.noteDist c v n else s1

/-- Bytes of device virtual memory of a context, as a write of the device itself finds their places; the first
failure. -/
def State.virtWrite (s : State) (c : Ctx) (v : Nat) (bs : List Byte) : Except (BitVec 8) State :=
  let gs := grainsAt v bs.length
  gs.foldl (fun r g => match r with
    | .error x => .error x
    | .ok s =>
      let x := s.grainOf c .write 2 0 g none
      match x.stat.find? (· ≠ 0) with
      | some e => .error e
      | none =>
        let s1 := ((s.usedPath x).writeGrain x.home x.num (grainPart v bs g) 0xFFF 0).moves c.tenant x.home x.num
        .ok (match x.leaf with
          | some a => s1.devOr (a + 6) 0x20
          | none => s1)) (.ok s)

/-- Bytes of device virtual memory of a context; the first failure with its address. -/
def State.virtRead (s : State) (c : Ctx) (v n : Nat) : Except (BitVec 8 × Nat) (List Byte) :=
  let gs := grainsAt v n
  let got := gs.map fun g => (g, s.readGrain (s.grainOf c .read 2 0 g none))
  match got.find? fun p => p.2.any fun q => q.1 ≠ 0 with
  | some p => .error (((p.2.find? fun q => q.1 ≠ 0).map (·.1)).getD 0, 64 * p.1)
  | none => .ok ((joinGrains v n (got.map (·.2))).map (·.2))

/-- The ring of a tenant is enabled, and an event does not overrun it. -/
def Tenant.takes (x : Tenant) : Bool :=
  x.even && 4 ≤ x.evlog2.toNat && x.evlog2.toNat ≤ 12 && (x.evtail - x.evhead).toNat ≠ 2 ^ x.evlog2.toNat

/-- Address of the next slot. -/
def Tenant.slotAt (x : Tenant) : Nat := 64 * bits 47 6 x.evbase.toNat + 32 * (x.evtail.toNat % 2 ^ x.evlog2.toNat)

/-- NOTE is written; the running jobs' views of it follow (13 R328). (DEDUCED, log 31.) -/
def State.setNote (s : State) (t : BitVec 4) (note : W32) : State :=
  let s1 := s.setTenant t { (s.tenant t) with note := note }
  let see (c : Core) : Core := if c.runs && c.tenant = t then c.setCsr .throttle (note.setWidth 64) else c
  { s1 with core := see s1.core, parked := s1.parked.map fun p => (p.1, see p.2) }

/-- Steps 2 and 3 of a throttle notice: its bit and the count in NOTE, then the power vector (13 R328). -/
def State.noticed (s : State) (t : BitVec 4) (code : Nat) : State :=
  let x := s.tenant t
  let n := min 0xFFFF (x.note.toNat / 2 ^ 16 + 1)
  (s.setNote t (((x.note ||| BitVec.ofNat 32 code) &&& 0xFFFF) ||| BitVec.ofNat 32 (n * 2 ^ 16))).raise t 1

/-- The event is written to its slot, EVTAIL advances, the vector is raised; or it is dropped (R357). An event whose
slot has no translation is dropped (log 12). A throttle notice goes on to its next steps once its event is written or
dropped. -/
def State.emit (s : State) (t : BitVec 4) (ty code : Nat) (w1 w2 w3 : W64) : State :=
  let x := s.tenant t
  let k := x.evlog2.toNat
  let drop (s : State) : State := if ty = 3 then s.noticed t code else s
  if !x.even || k < 4 || 12 < k then drop s
  else if !x.takes then drop (s.setTenant t { x with ovf := true })
  else
    let w0 : Nat := ty + 2 ^ 8 * code + 2 ^ 16 * (x.evseq % 2 ^ 48)
    let bs := leBytes 8 w0 ++ leBytes 8 w1.toNat ++ leBytes 8 w2.toNat ++ leBytes 8 w3.toNat
    let a := x.slotAt
    match s.virtWrite (s.tenantCtx t distEng) a bs with
    | .error _ => drop s
    | .ok s0 =>
      let s1 := s0.noteDist (s.tenantCtx t distEng) a 32
      let y := s1.tenant t
      let s2 := s1.setTenant t { y with evtail := y.evtail + 1, evseq := y.evseq + 1 }
      if ty = 3 then s2.noticed t code else s2.raise t 0

/-- The next event's write meets a link in key hold (R362). -/
def State.eventHeld (s : State) (t : BitVec 4) : Bool :=
  (s.tenant t).takes && s.writeHeld (s.tenantCtx t distEng) 2 0 (s.tenant t).slotAt 32

/-- Events that waited for a link are written in order, up to n of them. -/
def State.flushEvents (s : State) (t : BitVec 4) : Nat → State
  | 0 => s
  | n + 1 =>
    let x := s.tenant t
    match x.evwait with
    | [] => s
    | e :: r => if s.eventHeld t then s
        else State.flushEvents ((s.setTenant t { x with evwait := r }).emit t e.ty e.code e.w1 e.w2 e.w3) t n

/-- An event is posted: written behind those that wait, or it waits too. -/
def State.event (s : State) (t : BitVec 4) (ty code : Nat) (w1 w2 w3 : W64) : State :=
  let x := s.tenant t
  if x.evwait.isEmpty && !s.eventHeld t then s.emit t ty code w1 w2 w3
  else (s.setTenant t { x with evwait := x.evwait ++ [⟨ty, code, w1, w2, w3⟩] }).flushEvents t (x.evwait.length + 1)

/-- A fault event (TYPE 4). -/
def State.faultEvent (s : State) (t : BitVec 4) (cause : BitVec 8) (rec : W32) (w2 w3 : W64) : State :=
  s.event t 4 cause.toNat (rec.setWidth 64) w2 w3

/-! ## Dirty logging (R298 to R300) -/

/-- The D bit of the leaf a write went through (R298). -/
def State.setDirty (s : State) (leaf : Option Nat) : State :=
  match leaf with
  | some a => s.devOr (a + 6) 0x20
  | none => s

/-- The Rilosteg is told. -/
def State.tell (s : State) (x : RilNote) : State := { s with ril := s.ril ++ [x] }

/-- A dirty descriptor that can be used (R299), by its eight words. -/
def dirtyOk (w : Nat → Nat) : Bool :=
  bits 63 48 (w 0) = 0 && bits 15 0 (w 0) = 0 && bits 63 27 (w 1) = 0 && bits 26 0 (w 1) ≠ 0 && bits 26 0 (w 1) ≤ 2 ^ 26
    && bits 63 48 (w 2) = 0 && bits 2 0 (w 2) = 0 && [3, 4, 5, 6, 7].all (fun k => w k = 0)

/-- Address of a context's dirty descriptor. -/
def Ctx.descAt (c : Ctx) : Nat := 64 * bits 47 6 (c.reg 6)

/-- A word of the descriptor at an address. -/
def State.descWord (s : State) (d i : Nat) : Nat := leNat (s.mem.getN (d + 8 * i) 8)

/-- Page of a device virtual address in the log of a descriptor; the byte of its bit. -/
def State.dirtyPage (s : State) (d v : Nat) : Nat := v / 2 ^ 16 - bits 47 16 (s.descWord d 0)
def State.dirtyByte (s : State) (d v : Nat) : Nat :=
  8 * bits 47 3 (s.descWord d 2) + 8 * (s.dirtyPage d v / 64) + s.dirtyPage d v % 64 / 8

/-- The page lies in the log of a descriptor that can be used. -/
def State.dirtyIn (s : State) (d v : Nat) : Bool :=
  bits 47 16 (s.descWord d 0) ≤ v / 2 ^ 16 && s.dirtyPage d v < bits 26 0 (s.descWord d 1)

/-- The dirty log of a context marks the page of a device virtual address. A descriptor that cannot be used, or a
poisoned one or bitmap word, leaves the bit and tells the Rilosteg; a poisoned one also posts a fault event (R299,
R300). A place outside R178, or beyond a link that is down, counts as one that cannot be used. (DEDUCED, log 56.) -/
def State.logDirty (s : State) (c : Ctx) (v : Nat) (rec : W32) (ctxid : W32) : State :=
  let d := c.descAt
  let a := s.dirtyByte d v
  let lost (s : State) : State := s.tell (.dirtyLog c.tenant)
  let bad (s : State) (a : Nat) : State := lost (s.faultEvent c.tenant 0x0C rec (BitVec.ofNat 64 (a / 64 * 64)) (ctxid.setWidth 64))
  if !bit 63 (c.reg 6) then s
  else if !devOk d || s.diesDown c.die (dieOf d) then lost s
  else
    let s1 := s.touchCache false (d / 64)
    if s.poison.contains (d / 64) then bad s1 d
    else if !dirtyOk (s.descWord d) then lost s1
    else if !s.dirtyIn d v then s1
    else if !devOk a || s.diesDown c.die (dieOf a) then lost s1
    else if s.poison.contains (a / 64) then bad (s1.touchCache true (a / 64)) a
    else s1.devOr a (BitVec.ofNat 8 (2 ^ (s.dirtyPage d v % 8)))

/-- The dirty log's accesses for an address meet a link in key hold (15 R362). -/
def State.dirtyHeld (s : State) (c : Ctx) (v : Nat) : Bool :=
  let d := c.descAt
  let a := s.dirtyByte d v
  bit 63 (c.reg 6) && devOk d && (s.diesHeld c.die (dieOf d)
    || (!s.poison.contains (d / 64) && dirtyOk (s.descWord d) && s.dirtyIn d v && devOk a && s.diesHeld c.die (dieOf a)))

/-! ## Bytes at the places a context's translation names (R348) -/

/-- Bytes of a space of a context; the first failure. -/
def State.placeRead (s : State) (c : Ctx) (space win a n : Nat) : Except (BitVec 8) (List Byte) :=
  let bytes := joinGrains a n ((grainsAt a n).map fun g => s.readGrain (s.grainOf c .read space win g none))
  match bytes.find? fun q => q.1 ≠ 0 with
  | some q => .error q.1
  | none => .ok (bytes.map (·.2))

/-- Bytes written to a space of a context; nothing is kept of a write that fails. -/
def State.placeWrite (s : State) (c : Ctx) (space win a : Nat) (bs : List Byte) : Except (BitVec 8) State :=
  (grainsAt a bs.length).foldl (fun r g => match r with
    | .error x => .error x
    | .ok s =>
      let x := s.grainOf c .write space win g none
      let part := grainPart a bs g
      match (x.stat.zipIdx).find? fun p => p.1 ≠ 0 && part.any (fun q => q.1 = p.2) with
      | some p => .error p.1
      | none => .ok ((((s.usedPath x).writeGrain x.home x.num part 0xFFF 0).moves c.tenant x.home x.num).setDirty x.leaf)) (.ok s)

def le64 (l : List Byte) (off : Nat) : Nat := leNat ((l.drop off).take 8)

end Sys2Proof.Machine
end

