-- ==== Sys2Proof/Machine/Post.lean ====
section
/-! DEFINITION. What the words that post copy commands check and record; CATOM, CCLOSE, the words that await copy groups, and
graph slots (09 R215 to R224, R233, R234, R237 to R243, R247). COPY and CRED themselves stand in System. -/

namespace Sys2Proof.Machine

/-! ## Handles as commands check them (04 R84 to R86, 09 R222) -/

/-- A handle with legal fields: SPACE, LAYOUT and ET agree, no reserved bit, an address within its space, layout-1
strides that are multiples of 256. -/
def handleOk (h : BitVec 256) : Bool :=
  hSpace h ≤ 4 && hLayout h ≤ 2 && bits 59 48 h.toNat = 0 && bits 255 240 h.toNat = 0
    && hAddr h < 2 ^ spaceBits (hSpace h)
    && (if hLayout h = 0 then hEt h ≤ 10 else if hLayout h = 1 then hEt h = 12 || hEt h = 13 else hEt h = 14)
    && (hLayout h ≠ 1 || (hStride h 1 % 256 = 0 && hStride h 2 % 256 = 0 && hStride h 3 % 256 = 0))

/-- Extents of a handle in order. -/
def exts (h : BitVec 256) : List Nat := [hExt h 0, hExt h 1, hExt h 2, hExt h 3]

/-- Extents with dimensions 0 and 1 exchanged. -/
def extsT (h : BitVec 256) : List Nat := [hExt h 1, hExt h 0, hExt h 2, hExt h 3]

/-- R221's condition on extents: equal, or with EF no larger. -/
def extFit (ef : Bool) (src dst : List Nat) : Bool :=
  (List.zipWith (fun a b => a = b || (ef && decide (a ≤ b))) src dst).all id

def smallFloat (et : Nat) : Bool := et = 0 || et = 3 || et = 4

/-- A table of the posting core's scratchpad (R223): the address is a multiple of 4 in it, and no reserved bit is
set. -/
def tableOk (x : W64) : Bool := bits 63 22 x.toNat = 0 && bits 21 0 x.toNat % 4 = 0 && bits 21 0 x.toNat < 0x100000

/-- Options of CONVERT, CONVERT_T and XBLOCK, with prescale and j (R224). -/
def optionsOk (x : XArgs) : Bool :=
  bits 63 5 x.p0.toNat = 0 && bits 2 0 x.p0.toNat ≤ 4 && bits 63 32 x.p1.toNat = 0 && bits 63 32 x.p2.toNat = 0

/-- Blocks of a shape (R228, R229). -/
def blocksOf (exts : List Nat) : Nat := ceilDiv (exts.getD 0 0) 256 * exts.getD 1 0 * exts.getD 2 0 * exts.getD 3 0

/-- A destination of TOPK records for some blocks (R223, R229). -/
def topDest (h : BitVec 256) (nb k : Nat) : Bool :=
  hLayout h = 0 && hEt h = 8 && hExt h 1 = 1 && hExt h 2 = 1 && hExt h 3 = 1 && nb * (4 + 4 * k) ≤ hExt h 0

/-! ## Graph images (R243 to R247) -/

def elemOp (op : Nat) : Bool := op ≤ 19 || op = 21 || op = 23 || op = 26
def intOp (op : Nat) : Bool := 13 ≤ op && op ≤ 17
def floatOp (op : Nat) : Bool := op = 10 || op = 19 || op = 20 || op = 22 || op = 26
def sourceOp (op : Nat) : Bool := op = 18 || op = 21 || op = 25

/-- Inputs an operator needs and those it may take: how many, and whether IMM may stand in for IN1 (R246). -/
def opInputs (op : Nat) : Nat × Bool :=
  if op = 4 || op = 11 || op = 12 then (3, true)
  else if (1 ≤ op && op ≤ 3) || op = 5 || op = 6 || intOp op then (2, true)
  else if op = 23 then (2, false)
  else (1, false)

/-- AUX and IMM of a node: no reserved code, unused bits zero (R246, R247). -/
def nodeConsts (w : W64) : Bool :=
  let op := gnOp w
  let aux := gnAux w
  let imm := gnImm w
  let usesImm := (opInputs op).2 && gnIn w 1 = 31
  if op = 9 then bits 3 0 aux ≤ 10 && bits 6 4 aux ≤ 4 && (bits 6 4 aux = 4 || imm = 0)
  else if op = 10 then aux = 0 && imm < 0xFF00
  else if op = 12 then aux < 4
  else if op = 19 then 1 ≤ aux && aux ≤ 3 && imm = 0
  else if op = 20 then bits 3 0 aux ≠ 0 && bits 6 5 aux ≠ 3 && bits 7 7 aux = 0
  else if op = 22 then 1 ≤ aux && imm = 0
  else aux = 0 && (usesImm || imm = 0)

/-- An input code of node k, in a position that takes an element or, where `packed`, a packed node. -/
def inputOk (ws : List W64) (k code : Nat) (packed : Bool) : Bool :=
  if code < 16 then code < k && (elemOp (gnOp (ws.getD code 0)) != packed)
  else !packed && code ≤ 21

/-- A node that R247 accepts; ABS and NEG take the types of VABS and VNEG alone. (DEDUCED, log 17.) -/
def nodeOk (out : Nat) (ws : List W64) (k : Nat) : Bool :=
  let w := ws.getD k 0
  let op := gnOp w
  let n := opInputs op
  let in' (i : Nat) (packed : Bool) : Bool := inputOk ws k (gnIn w i) packed
  op ≤ 26 && gnType w ≤ 2 && nodeConsts w
    && !(floatOp op && gnType w ≠ 0) && !(intOp op && gnType w = 0) && !((op = 7 || op = 8) && gnType w = 2)
    && (if sourceOp op then k = 0 && gnIn w 0 = 16
        else if op = 24 then gnIn w 0 < k && gnOp (ws.getD (gnIn w 0) 0) = 20
        else in' 0 false)
    && (if n.1 < 2 then gnIn w 1 = 31 else (n.2 && gnIn w 1 = 31) || in' 1 (op = 23))
    && (if n.1 < 3 then gnIn w 2 = 31 else in' 2 false)
    && (op ≠ 26 || k = out)

/-- The first word of a graph image that R247 refuses. -/
def graphBad (img : List W64) : Option Nat :=
  let h := img.headD 0
  let ws := img.drop 1
  let nn := ghNN h
  let readsRes := ws.any fun w => (List.range 3).any fun i => gnIn w i = 17
  let headOk := bits 50 0 h.toNat = 0 && ghOut h ≤ nn
    && (if ghRv h then ghRn h ≤ nn && elemOp (gnOp (ws.getD (ghRn h) 0)) else ghRn h = 0)
  if !headOk then some 0
  else ((List.range (nn + 1)).find? fun k =>
    !nodeOk (ghOut h) ws k || (readsRes && (List.range 3).any fun i => gnIn (ws.getD k 0) i = 21)).map (· + 1)

/-- A command fits the graph it names (R247, R232). (DEDUCED, log 17.) -/
def graphFits (x : XArgs) (red : Bool) : Bool :=
  let op := x.outOp
  let out := ghOut x.ghead
  let n0 := x.node0
  let res := x.readsRes || ghRv x.ghead
  let wcOf (i : Nat) : Nat := if bit 4 (gnAux (x.nodes.getD i 0)) then 12 else 13
  let dst :=
    if op = 22 then topDest x.hd (blocksOf (exts x.shape)) (gnAux (x.nodes.getD out 0))
    else if op = 20 then hLayout x.hd = 1 && hEt x.hd = wcOf out && exts x.shape = exts x.hd
    else if op = 24 then hLayout x.hd = 2 && exts x.shape = exts x.hd
    else if op = 25 then hLayout x.hd = 1 && exts x.shape = exts x.hd
    else if op = 26 then
      hLayout x.hd = 0 && hExt x.hd 1 = 1 && hExt x.shape 0 = hExt x.hd 0 && hExt x.shape 2 = hExt x.hd 2
        && hExt x.shape 3 = hExt x.hd 3
    else hLayout x.hd = 0 && exts x.shape = exts x.hd
  !x.graph.isEmpty && dst && hLayout x.hs = (if n0 = 21 then 1 else if n0 = 25 then 2 else 0)
    && (!res || tableOk x.p3)
    && (!red || (elemOp op && (hSpace x.hd = 2 || hSpace x.hd = 4)))

/-! ## The TRANSFORM check (R222 step 1) -/

/-- A FILL word whose hs is not 0 breaks the rule of its transform's handles: TRANSFORM. (DESIGN CHOICE, log 53.) -/
def fillHs (xf : Nat) (hs : BitVec 4) : Bool := xf = 0x0E && hs = 0

/-- The rules of R223 and R224 on handles, extents and parameters. (DEDUCED, log 17.) -/
def XArgs.fits (x : XArgs) (xf : Nat) (ef red : Bool) : Bool :=
  let d := x.hd
  let h := x.hs
  let dense (y : BitVec 256) : Bool := hLayout y = 0
  let same := extFit false (exts h) (exts d)
  match xf with
  | 0x00 => hLayout h < 2 && hLayout d = hLayout h && hEt d = hEt h && !(ef && hLayout h = 1) && extFit ef (exts h) (exts d)
  | 0x01 => dense h && dense d && hEt d = hEt h && extFit ef (exts h) (extsT d)
  | 0x02 => dense h && dense d && optionsOk x && extFit ef (exts h) (exts d)
  | 0x03 => dense h && dense d && optionsOk x && extFit ef (exts h) (extsT d)
  | 0x04 => dense h && smallFloat (hEt h) && hLayout d = 1 && same && bits 63 8 x.p0.toNat = 0
      && bits 3 0 x.p0.toNat ≠ 0 && bits 5 4 x.p0.toNat ≠ 3 && bits 63 32 x.p1.toNat = 0
  | 0x05 => hLayout h = 1 && dense d && (smallFloat (hEt d) || hEt d = 9 || hEt d = 10) && !ef && same && optionsOk x
  | 0x06 => hLayout h = 2 && hLayout d = 1 && !ef && same
  | 0x07 => hLayout h = 1 && hLayout d = 2 && !ef && same
  | 0x08 => dense h && smallFloat (hEt h) && !ef && bits 63 8 x.p0.toNat = 0 && x.p0 ≠ 0
      && topDest d (blocksOf (exts h)) x.p0.toNat
  | 0x09 => dense h && smallFloat (hEt h) && !ef && bits 63 8 x.p0.toNat = 0 && x.p0 ≠ 0
      && topDest d (blocksOf (exts h)) x.p0.toNat && tableOk x.p1
  | 0x0A => dense h && dense d && hEt d = hEt h && hExt h 2 = 1 && hExt h 3 = 1 && hExt h 0 = hExt d 0 && !ef && tableOk x.p0
  | 0x0B => dense h && dense d && hEt d = hEt h && hExt d 2 = 1 && hExt d 3 = 1 && hExt h 0 = hExt d 0 && !ef && tableOk x.p0
  | 0x0C => dense h && smallFloat (hEt h) && dense d && (hEt d = 0 || hEt d = 3) && (hSpace d = 2 || hSpace d = 4) && !ef
      && same
  | 0x0D => dense h && hEt h = 0 && dense d && (hEt d = 0 || hEt d = 3) && (hSpace d = 2 || hSpace d = 4) && !ef && same
      && bits 63 7 x.p0.toNat = 0 && bits 3 0 x.p0.toNat ≠ 0 && bits 6 5 x.p0.toNat ≠ 3 && bits 63 32 x.p1.toNat = 0
      && tableOk x.p2
  | 0x0E => dense d && !ef && bits 63 (8 * x.dSz) x.p0.toNat = 0
  | _ => !ef && graphFits x red

/-- Flags of a posting word (R220). -/
def flagCL (f : BitVec 6) : Bool := f.getLsbD 0
def flagREL (f : BitVec 6) : Bool := f.getLsbD 1
def flagTM (f : BitVec 6) : Bool := f.getLsbD 2
def flagEF (f : BitVec 6) : Bool := f.getLsbD 3
def flagRF (f : BitVec 6) : Bool := f.getLsbD 4
def flagBA (f : BitVec 6) : Bool := f.getLsbD 5

def transformOk (x : XArgs) (xf : Nat) (hs : BitVec 4) (flags : BitVec 6) (red : Bool) : Bool :=
  handleOk x.hd && (fillHs xf hs || (xf ≠ 0x0E && handleOk x.hs))
    && (if red then xf = 0x0C || xf = 0x0D || 0x10 ≤ xf else xf ≠ 0x0C && xf ≠ 0x0D)
    && x.fits xf (flagEF flags) red
    && !((flagRF flags || flagBA flags) && 1 < hSpace x.hd)

/-! ## What a walk touches (R222 steps 2 to 4) -/

/-- One element or block a walk touches: space, address, bytes, alignment, whether it writes it. -/
structure Touch where
  space : Nat
  addr : Int
  len : Nat
  align : Nat
  store : Bool

/-- The touches whose addresses do not depend on data, in walk order; none of an empty walk (R221). -/
def XArgs.touches (x : XArgs) (xf : Nat) : List Touch :=
  let s := hSpace x.hs
  let d := hSpace x.hd
  let srcE (p : Pos) : List Touch := if inExt x.hs p then [⟨s, elemAddr x.hs p, x.sSz, x.sSz, false⟩] else []
  let dstE (p : Pos) : Touch := ⟨d, elemAddr x.hd p, x.dSz, x.dSz, true⟩
  let srcB (p : Pos) : Touch := ⟨s, blockAddr x.hs p, etBlock (hEt x.hs), 4, false⟩
  let dstB (p : Pos) : Touch := ⟨d, blockAddr x.hd p, etBlock (hEt x.hd), 4, true⟩
  let loc (base : W64) (n : Nat) : Touch := ⟨0, ((bits 21 0 base.toNat + 4 * n : Nat) : Int), 4, 4, false⟩
  let each (h : BitVec 256) (w : Nat × Nat × Nat) : List Pos :=
    (List.range w.2.2).map fun e => posAt h w.1 (256 * w.2.1 + e)
  let at0 (h : BitVec 256) (w : Nat × Nat × Nat) : Pos := posAt h w.1 (256 * w.2.1)
  let tops (k i : Nat) : Touch := ⟨d, ((hAddr x.hd + i * (4 + 4 * k) : Nat) : Int), 4 + 4 * k, 1, true⟩
  let row (h : BitVec 256) (f : Pos → List Touch) : List Touch :=
    if runLen h = 0 then []
    else (List.range (runs h)).flatMap fun r => loc x.p0 r :: (List.range (runLen h)).flatMap fun e => f (posAt h r e)
  let head (sp : Nat) (h : BitVec 256) (nb : Nat) (store : Bool) : List Touch :=
    if nb = 0 then [] else [⟨sp, (hAddr h : Int), packHead nb, 1, store⟩]
  match xf with
  | 0x00 =>
    if hLayout x.hd = 1 then (walkBlocks x.hd).flatMap fun w => [srcB (at0 x.hd w), dstB (at0 x.hd w)]
    else (walkPos x.hd).flatMap fun p => srcE p ++ [dstE p]
  | 0x02 | 0x0C => (walkPos x.hd).flatMap fun p => srcE p ++ [dstE p]
  | 0x01 | 0x03 => (walkPos x.hd).flatMap fun p => srcE p.transpose ++ [dstE p]
  | 0x04 => (walkBlocks x.hd).flatMap fun w => (each x.hd w).flatMap srcE ++ [dstB (at0 x.hd w)]
  | 0x05 => (walkPos x.hd).flatMap fun p => [srcB p, dstE p]
  | 0x06 => head s x.hs (walkBlocks x.hd).length false ++ (walkBlocks x.hd).map fun w => dstB (at0 x.hd w)
  | 0x07 => (walkBlocks x.hs).map (fun w => srcB (at0 x.hs w)) ++ head d x.hd (walkBlocks x.hs).length true
  | 0x08 => (walkBlocks x.hs).zipIdx.flatMap fun (w, i) => (each x.hs w).flatMap srcE ++ [tops x.p0.toNat i]
  | 0x09 => (walkBlocks x.hs).zipIdx.flatMap fun (w, i) =>
      (each x.hs w).flatMap (fun p => srcE p ++ [loc x.p1 (linear x.hs p)]) ++ [tops x.p0.toNat i]
  | 0x0A => row x.hd fun p => [dstE p]
  | 0x0B => row x.hs srcE
  | 0x0D => (walkPos x.hd).flatMap fun p => srcE p ++ [loc x.p2 (linear x.hs p), dstE p]
  | 0x0E => (walkPos x.hd).map dstE
  | _ =>
    let op := x.outOp
    let h := if op = 26 || op = 22 || op = 24 then x.shape else x.hd
    let ws := walkBlocks h
    let tr := decide (x.node0 = 18)
    let src (p : Pos) : List Touch :=
      if hLayout x.hs = 0 then (if tr then srcE p.transpose ++ (if x.readsSource then srcE p else []) else srcE p) else if hLayout x.hs = 1 then [srcB p] else []
    let res (p : Pos) : List Touch :=
      if x.readsRes || ghRv x.ghead then [⟨0, ((x.gres h p : Nat) : Int), 4, 4, false⟩] else []
    let dst (p : Pos) : List Touch := if isPacked op || op = 26 then [] else [dstE p]
    let k := gnAux (x.nodes.getD (ghOut x.ghead) 0)
    (if hLayout x.hs = 2 then head s x.hs ws.length false else [])
      ++ ws.zipIdx.flatMap (fun (w, i) => (each h w).flatMap (fun p => src p ++ res p ++ dst p)
        ++ (if op = 22 then [tops k i] else if op = 20 || op = 25 then [dstB (at0 h w)] else []))
      ++ (if op = 26 then (walkPos x.hd).map dstE else [])
      ++ (if op = 24 then head d x.hd ws.length true else [])

/-- Source bytes whose addresses depend on data: every row of a GATHER's source, and header, bitmap and place for every block
of a packed source, whatever the table or the bitmap then names. A local one covers them all for EARLY_READ, since the word
issues before any is read (08 R193; DESIGN CHOICE, log 44). -/
def XArgs.dataReads (x : XArgs) (xf : Nat) : List Touch :=
  let s := hSpace x.hs
  if (walkPos x.hd).isEmpty then []
  else if xf = 0x0A then (walkPos x.hs).map fun p => ⟨s, elemAddr x.hs p, x.sSz, x.sSz, false⟩
  else if hLayout x.hs = 2 then
    let nb := (walkBlocks (if xf = 0x06 then x.hd else x.shape)).length
    let sz := if hLayout x.hd = 1 then etBlock (hEt x.hd) else 260
    if nb = 0 then [] else [⟨s, (hAddr x.hs : Int), packHead nb + sz * nb, 1, false⟩]
  else []

/-- The first byte of a local touch that R222 step 3 refuses. -/
def Touch.bad (t : Touch) : Option Int :=
  if t.space ≠ 0 then none
  else if t.addr % (t.align : Int) ≠ 0 || t.addr < 0 then some t.addr
  else ((List.range t.len).find? fun i =>
    let a := t.addr.toNat + i
    !mapped a || (t.store && (viewAddr a || zAddr a))).map fun i => t.addr + (i : Int)

/-- The first lent byte of a local touch. -/
def Touch.lent (t : Touch) : Option Int :=
  if t.space ≠ 0 then none
  else ((List.range t.len).find? fun i => lentAddr (t.addr.toNat + i)).map fun i => t.addr + (i : Int)

/-! ## Timed copies (R233, R234) -/

/-- The context whose translations a core's commands use (12 R290). -/
def Core.xlat (c : Core) : Vector W64 7 := Vector.ofFn fun (i : Fin 7) => vget c.r.csr (10 + i.val) 0

def State.coreCtx (s : State) (n : Nat) : Ctx :=
  let c := s.getCore n
  { eng := engineOf n, tenant := BitVec.ofNat 4 (c.csr .tenant).toNat, xlat := c.xlat, core := n, die := coreDie n }

/-- The same for what a core's stream translates as it posts a timed command: it sees the stream's own data in the combine
buffer (08 R194 rule 2), and may use a result that its engine keeps (12 R301). -/
def State.postCtx (s : State) (n : Nat) : Ctx := { s.coreCtx n with buf := true, pick := true }

/-- The result for the page of an address that a timed command translates: one that its engine keeps, or a walk made now
(R233; 12 R301). -/
def State.timedWalk (s : State) (v : Nat) : TlbEnt :=
  let c := s.postCtx s.cur
  let b := 2 ^ 16 * (v / 2 ^ 16)
  s.result c false (c.reg 3) b none (s.walked c b (c.walkStart b))

/-- A grain of a timed command's source, under that translation. -/
def State.timedGrain (s : State) (x : XArgs) (g : Nat) : Grain :=
  s.grainOf (s.postCtx s.cur) .read (hSpace x.hs) 0 g (if hSpace x.hs = 2 then some (s.timedWalk (64 * g)) else none)

/-- The grains of the header and bitmap of a packed source that a timed command reads at issue; none of an empty walk. -/
def XArgs.timedHead (x : XArgs) (xf : Nat) : List Nat :=
  let nb := (walkBlocks x.hd).length
  if xf = 0x06 && nb ≠ 0 then grainsAt (hAddr x.hs) (packHead nb) else []

/-- The stored blocks of a packed source, as its bitmap tells them at issue; none where it cannot be read (R228). -/
def State.storedBlocks (s : State) (x : XArgs) : List Touch :=
  let nb := (walkBlocks x.hd).length
  let l := joinGrains (hAddr x.hs) (packHead nb) ((x.timedHead 0x06).map fun g => s.ownGrain s.cur (s.timedGrain x g))
  let n := ((List.range nb).filter fun b => bit (b % 64) (le64 (l.map (·.2)) (8 + 8 * (b / 64)))).length
  if n = 0 || l.any (·.1 ≠ 0) then [] else [⟨hSpace x.hs, ((hAddr x.hs + packHead nb : Nat) : Int), etBlock (hEt x.hd) * n, 1, false⟩]

/-- Addresses of a timed command's source pages in walk order: of each element or block its first byte, those 4 KiB apart
after it, and its last. Of a packed source these are its header, its bitmap and the blocks stored when it is posted.
(DEDUCED, log 52.) -/
def State.timedAddrs (s : State) (x : XArgs) (xf : Nat) : List Int :=
  let sp := hSpace x.hs
  let ts := (x.touches xf ++ (if xf = 0x06 then s.storedBlocks x else [])).filter fun t => !t.store && t.space = sp && sp ≠ 0
  ts.flatMap fun t =>
    ((List.range ((t.len + 4095) / 4096 + 1)).map fun (i : Nat) => min (t.addr + 4096 * (i : Int)) (t.addr + t.len - 1)).eraseDups

/-- The pages of the table that a timed command translates at its issue or reissue, by their first addresses, each once. -/
def State.timedPages (s : State) (x : XArgs) (xf : Nat) : List Nat :=
  let c := s.postCtx s.cur
  if hSpace x.hs ≠ 2 then []
  else (((s.timedAddrs x xf).filter fun a => 0 ≤ a && a < 2 ^ 48 && !c.inHeap a.toNat).map fun a =>
    2 ^ 16 * (a.toNat / 2 ^ 16)).eraseDups

/-- The results that the command's Reads will use (R233). -/
def State.timedWalks (s : State) (x : XArgs) (xf : Nat) : List TlbEnt := (s.timedPages x xf).map s.timedWalk

/-- The source places of a timed command: address, and its place or failure; the address of one that fails goes into FADDR.
(DESIGN CHOICE, log 52.) -/
def State.timedPlaces (s : State) (x : XArgs) (xf : Nat) : List (Int × Except (BitVec 8) Place) :=
  let c := s.postCtx s.cur
  let place (v : Nat) := if hSpace x.hs = 2 then s.virt c .read v (some (s.timedWalk v)) else c.hostVirt v
  (s.timedAddrs x xf).map fun a => (a, if a < 0 then .error 0x08 else place a.toNat)

/-- Those of the pages that need a walk of their own: no result that the engine keeps is used. -/
def State.timedFresh (s : State) (x : XArgs) (xf : Nat) : List Nat :=
  let c := s.postCtx s.cur
  (s.timedPages x xf).filter fun v => (s.kept c false (c.reg 3) v none).isNone

/-- What the translations of a timed command leave behind: the entries are read, the results kept (07 R182; 12 R301), the header
of a packed source is read. -/
def State.noteTimed (s : State) (x : XArgs) (xf : Nat) : State :=
  let c := s.postCtx s.cur
  (x.timedHead xf).foldl (fun t g =>
      let y := s.timedGrain x g
      if y.reached then (t.usedGrain y).moves c.tenant y.home y.num else t)
    ((s.timedFresh x xf).foldl (fun t v => t.noteWalk c v) s)

def xfTimed (xf : Nat) : Bool := [0, 1, 2, 3, 5, 6].contains xf

/-- The conditions of R233 on the word itself. -/
def timedForm (x : XArgs) (xf : Nat) (flags : BitVec 6) : Bool :=
  hSpace x.hd = 0 && (hSpace x.hs = 2 || hSpace x.hs = 3) && xfTimed xf && !flagREL flags

/-- TIMING_CLASS (R233). -/
def State.timingBad (s : State) (x : XArgs) (xf : Nat) (flags : BitVec 6) : Bool :=
  flagTM flags && (!timedForm x xf flags
    || (s.timedPlaces x xf).any fun p => match p.2 with
      | .ok q => q.lc = 0
      | .error _ => false)

/-- Reference ticks from the issue of a timed command to its deadline (R234). A space-3 source always has class 3 (R233). Where one
of space 2 has no page that is read, since the walk is empty or the source has a zero extent under EF, the bound is 0. (DESIGN
CHOICE, log 52.) -/
def State.timedDue (s : State) (x : XArgs) (xf : Nat) : Nat :=
  let lcs := (s.timedPlaces x xf).map fun p => match p.2 with
    | .ok q => q.lc
    | .error _ => 0
  let lc := if hSpace x.hs = 3 then 3 else lcs.foldl max 0
  let bound := if lc = 1 then 600 else if lc = 2 then 900 else if lc = 3 then 1600 else 0
  let k := (vget s.cl (clusterOf s.cur) Cluster.reset).k.toNat
  let bytes := ((x.touches xf).filter (·.store)).foldl (fun n t => n + t.len) 0
  ceilDiv (bound * (12 + k)) 20 + ceilDiv (bytes * s.core.ci.div) 64
    + if xf ≤ 1 then 0 else 24

/-- The faults of R222 and R233 in order. -/
def State.copyFault (s : State) (x : XArgs) (xf : Nat) (hs : BitVec 4) (flags : BitVec 6) (red : Bool) : Option Flt :=
  if !transformOk x xf hs flags red then some (flt 0x0E)
  else if s.timingBad x xf flags then some (flt 0x19)
  else
    let ts := x.touches xf
    match ts.findSome? Touch.bad with
    | some a => some { code := 0x07, faddr := BitVec.ofInt 64 a }
    | none =>
      match if s.core.hot then none else ts.findSome? Touch.lent with
      | some a => some { code := 0x06, faddr := BitVec.ofInt 64 a }
      | none =>
        if flagTM flags then
          (s.timedPlaces x xf).findSome? fun p => match p.2 with
            | .error e => some { code := e, faddr := BitVec.ofInt 64 p.1 }
            | .ok _ => none
        else none

/-! ## Groups (R215 to R217, R239) -/

/-- The waits of a posting word (R216, 10 R268). -/
def Core.postWaits (c : Core) : Bool :=
  c.ownPending || 8 ≤ c.cp.cmds.length || (c.cp.openGroup.isNone && 16 ≤ c.cp.groups.length)

/-- The Post move (08 R186, R202; 12 R290): the command joins the open group or opens one, and closes it with a tq. -/
def Core.post (c : Core) (cmd : Cmd) (close : Option (BitVec 4)) : Core :=
  let cp := c.cp
  let g : Group := (cp.openGroup).getD
    { id := cp.nextGroup, tq := 0, closed := false, fail := none,
      after := if cmd.kind = .close then some cmd.id else none, fp := 0 }
  let rest := cp.groups.filter fun x => x.id ≠ g.id
  let g1 := match close with
    | some q => { g with closed := true, tq := q }
    | none => g
  { c with cp := { cp with cmds := cp.cmds ++ [{ cmd with group := g.id }], groups := rest ++ [g1],
                           nextCmd := cp.nextCmd + 1, nextGroup := if cp.openGroup.isSome then cp.nextGroup else cp.nextGroup + 1 } }

/-- What every command records at its Post move. -/
def Core.newCmd (c : Core) (kind : CmdKind) (i : Instr) : Cmd :=
  { id := c.cp.nextCmd, kind := kind, word := (encode i).getD 0, poff := c.sa.pc, group := 0, hd := 0, hs := 0,
    par := .replicate 4 0, graph := [], region := c.o.region, acq := c.o.acq, xlat := c.xlat,
    tenant := BitVec.ofNat 4 (c.csr .tenant).toNat, seed := c.csr .seed, sid := (c.csr .streamid).setWidth 32,
    frel := c.cp.frel, facq := c.cp.facq, due := none, late := false, walks := [], retime := false }

/-- The arguments of a command's transform. -/
def Cmd.args (c : Cmd) : XArgs :=
  { hd := c.hd, hs := c.hs, p0 := vget c.par 0 0, p1 := vget c.par 1 0, p2 := vget c.par 2 0, p3 := vget c.par 3 0,
    seed := c.seed, sid := c.sid, graph := c.graph }

def Cmd.xf (c : Cmd) : Nat := bits 25 18 c.word.toNat
def Cmd.flags (c : Cmd) : BitVec 6 := c.word.extractLsb' 8 6
def Cmd.aux (c : Cmd) : BitVec 8 := c.word.extractLsb' 0 8
def Cmd.red (c : Cmd) : Bool := c.kind = .cred

/-- CATOM's byte address (R237). -/
def catomAddr (h : BitVec 256) (off : W64) : Nat := (hAddr h + off.toNat) % 2 ^ 48

/-- CATOM (R237, R238): an aq place is reserved at issue; ACQ makes it an FACQ after itself. Reserved bits and a reserved
LAYOUT of the handle raise TRANSFORM (04 R85). (DEDUCED, log 17.) -/
def execCatom (ctl : Ctl) (op : AtomOp) (w64 acq : Bool) (h : BitVec 4) (a b cx : BitVec 6) (s : State) : Out :=
  let c := s.core
  let hv := c.hreg h
  let sp := hSpace hv
  let bad := bits 59 48 hv.toNat ≠ 0 || bits 255 240 hv.toNat ≠ 0 || 2 < hLayout hv || sp < 2 || 4 < sp || catomAddr hv (c.sreg a) % (if w64 then 8 else 4) ≠ 0
    || (sp = 3 && !(op = .swap || op = .add || op = .cas))
  let cmd : Cmd := { c.newCmd .catom (.catom ctl op w64 acq h a b cx) with
    hd := hv, par := #v[c.sreg a, c.sreg b, c.sreg cx, BitVec.ofNat 64 (hAddr hv)] }
  issue { st := .a, ctl := ctl, wait := c.postWaits || c.dqFull .aq,
          regs := hRange h ++ c.sRange a ++ c.sRange b ++ (if op = .cas then c.sRange cx else []),
          fault := if bad then some (flt 0x0E) else none, lat := c.latA 1 } s
    fun s => s.onCore fun c1 =>
      let c2 := (c1.post cmd none).dqReserve .aq
      if acq then { c2 with cp := { c2.cp with facq := c2.cp.nextCmd } } else c2

/-- CCLOSE (R239). -/
def execCclose (ctl : Ctl) (tq : BitVec 4) (s : State) : Out :=
  let c := s.core
  issue { st := .a, ctl := ctl, wait := c.postWaits, lat := c.latA 1 } s
    fun s => s.onCore fun c1 => c1.post (c.newCmd .close (.cclose ctl tq)) (some tq)

/-! ## Waiting for groups (R240, R241) -/

/-- The fault of an unobserved failing group. -/
def failFlt (f : Fail) : Flt := { code := f.status, faddr := f.faddr, status := f.status, poff := f.poff }

/-- A word that observes groups with tq = 0: where it would issue, its own wait over, the earliest unobserved failure is raised
instead and consumed, whatever n is (R240). (DEDUCED, log 75.) -/
def observe (p : Plan) (f : Option (Nat × Fail)) (s : State) : Out :=
  match f, verdict s.core p with
  | some x, .go => .next (s.onCore fun c =>
      let c1 := c.raise p.st (failFlt x.2)
      { c1 with cp := { c1.cp with unobs := c1.cp.unobs.drop 1 } })
  | _, _ => issue p s

def execCwait (ctl : Ctl) (n : BitVec 28) (s : State) : Out :=
  let c := s.core
  observe { st := .a, ctl := ctl, wait := n.toNat < c.cp.groups.length, lat := c.latA 1 } c.cp.unobs.head? s

/-- A word that reads a count of the copy engine. -/
def countWord (ctl : Ctl) (d : BitVec 6) (n : Nat) (s : State) : Out :=
  let c := s.core
  issue { st := .a, ctl := ctl, dst := c.sRange d, lat := c.latA 1, acts := c.sWrite d (BitVec.ofNat 64 n) } s

def execCpend (ctl : Ctl) (d : BitVec 6) (s : State) : Out := countWord ctl d s.core.cp.groups.length s
def execCpendCmd (ctl : Ctl) (d : BitVec 6) (s : State) : Out := countWord ctl d s.core.cp.cmds.length s

/-! ## Graph slots (R242, R243) -/

/-- Bounds of the image of a graph: LOCAL_BOUNDS, then LENT outside hot class. -/
def Core.graphFault (c : Core) (a n : Nat) : Option Flt :=
  if a % 8 ≠ 0 || 0x200000 ≤ a then some (flt 0x07 a)
  else if 0x200000 < a + n then some (flt 0x07 0x200000)
  else if c.hot || a + n ≤ 0x100000 then none
  else some (flt 0x06 (max a 0x100000))

/-- XCFG (R243). An image has two words or more; of one whose header cannot be read, these two are judged. (DEDUCED,
log 17.) It lands at issue + 1 also where its image lies in a shade window. (DEDUCED, log 43.) -/
def execXcfg (ctl : Ctl) (n : BitVec 4) (a : BitVec 6) (s : State) : Out :=
  let c := s.core
  let ad := (c.sreg a).toNat
  let headAbsent := !(c.blocksWith .absent [(ad, 8)]).isEmpty
  let nn := bits 63 60 (s.getLe ad 8)
  let len := if headAbsent || (c.graphFault ad 16).isSome then 16 else 8 * (nn + 2)
  let f := c.graphFault ad len
  let img := (List.range (nn + 2)).map fun i => BitVec.ofNat 64 (s.getLe (ad + 8 * i) 8)
  issue { st := .a, ctl := ctl, wait := c.cp.cmds.any fun x => (x.kind = .copy || x.kind = .cred) && x.xf = 0x10 + n.toNat,
          regs := c.sRange a, fault := f, rd := if f.isSome then [] else [(ad, len)],
          late := (graphBad img).map fun k => flt 0x0E (ad + 8 * k),
          lat := c.latOne .a } s
    fun s => s.onCore fun c1 => { c1 with cp := { c1.cp with graph := vset c1.cp.graph n.toNat img } }

end Sys2Proof.Machine
end

