-- ==== Sys2Proof/Machine/Common.lean ====
section
/-! DEFINITION. The common row of every stream: NOP, JOIN, TRAP, BRK, TFENCE and ILL (02 R35, R36; 11 R283, R284;
14 R338, R350). -/

namespace Sys2Proof.Machine

def execNop (st : StreamId) (ctl : Ctl) (s : State) : Out :=
  issue { st := st, ctl := ctl, lat := s.core.latOne st } s

/-- The open group is closed with tq = none (R284). -/
def Copies.closeOpen (cp : Copies) : Copies :=
  { cp with groups := cp.groups.map fun g => if g.closed then g else { g with closed := true, tq := 0 } }

/-- JOIN (R284): in the A stream an open group is closed at once, and the word waits for every group. -/
def execJoin (st : StreamId) (ctl : Ctl) (s : State) : Out :=
  let plan : Plan := { st := st, ctl := ctl, lat := s.core.latOne st }
  let fin (s : State) : State := s.onCore fun c => c.setStream st { c.stream st with joined := true }
  if st ≠ .a then issue plan s fin
  else match verdict s.core plan with
    | .go =>
      let s1 := s.onCore fun c => { c with cp := c.cp.closeOpen }
      if !s1.core.cp.groups.isEmpty then .next s1
      else if s1.core.cp.unobs.isEmpty then issue plan s1 fin
      else observe plan s1.core.cp.unobs.head? s1
    | _ => issue plan s fin

/-- A word whose trap follows its issue (R332, R350): it keeps the tokens it popped, gives up its reservation and
pushes nothing (02 R21). A supervisor fault in supervisor mode. -/
def afterTrap (st : StreamId) (ctl : Ctl) (code : BitVec 8) (imm : BitVec 16) (s : State) : Out :=
  let c := s.core
  issue { st := st, ctl := ctl, fault := c.superFault code, lat := 1, noEntry := true } s
    fun s => s.onCore fun c1 =>
      let c2 := { c1 with q := { c1.q with fres := c.q.fres } }
      c2.noteStop { kind := .after, st := some st, code := code, imm := imm, faddr := 0, status := 0, block := 0, poff := none }

def execTrap (st : StreamId) (ctl : Ctl) (imm : BitVec 16) (s : State) : Out := afterTrap st ctl 0x12 imm s
def execBrk (st : StreamId) (ctl : Ctl) (s : State) : Out := afterTrap st ctl 0x13 0 s

/-- TFENCE waits until the stream has no result in flight (R338). -/
def execTfence (st : StreamId) (ctl : Ctl) (s : State) : Out :=
  issue { st := st, ctl := ctl, wait := s.core.inFlight st, lat := s.core.latOne st } s

/-- ILL raises ILLEGAL_WORD whatever its other bits hold (R36). -/
def execIll (st : StreamId) (_rest : BitVec 56) (s : State) : Out := .next (s.onCore fun c => c.raise st (flt 0x01))

end Sys2Proof.Machine
end

