-- ==== Sys2Proof/Machine/Erg.lean ====
section
/-! DEFINITION. The erg: the words that transmit and read (10 R264 to R269; 08 R200 to R206), and the steps of the
stations (10 R263, R266, R267). -/

namespace Sys2Proof.Machine

/-! ## Numbers and replicas -/

/-- The ESN of position n of the log; 0 before the first message (R264). -/
def esnOf (n : Nat) : W64 := BitVec.ofNat 64 (if n = 0 then 0 else (n - 1) % (2 ^ 48 - 1) + 1)

/-- A message changes the sync word of a tenant (R266). -/
def Msg.hits (m : Msg) (t : BitVec 4) (w : BitVec 10) : Bool := m.kind.toNat ≤ 2 && m.tenant = t && m.word = w

def Msg.applyTo (m : Msg) (x : W64) : W64 :=
  if m.kind = 0 then m.value else if m.kind = 1 then x + m.value else x + 1

/-- A sync word after the first n messages of the log (08 R199). -/
def Erg.wordAt (e : Erg) (n : Nat) (t : BitVec 4) (w : BitVec 10) : W64 :=
  (e.log.take n).foldl (fun x m => if m.hits t w then m.applyTo x else x) 0

/-- Sync word W of the selected core's tenant as its tick sees the replica (02 R48). -/
def State.replica (s : State) (w : BitVec 10) : W64 :=
  s.erg.wordAt s.core.o.seen (BitVec.ofNat 4 (s.core.csr .tenant).toNat) w

/-- The sync word a word names (R268). -/
def Core.syncWord (c : Core) (a : BitVec 6) (idx : BitVec 10) : BitVec 10 := (c.sreg a).setWidth 10 + idx

/-! ## Synchronisation operations (08 R200, R204, R205) -/

/-- An acquire at a position of the log (R202). -/
def Order.take (o : Order) (n : Nat) : Order := { o with acq := max o.acq n }

/-- A synchronisation operation adds one to the region counter (R204). Releases 2^19 or more regions behind are forgotten,
since such a region counts as released at ESN 0 (R205); a job of 2^20 regions holds every region number (R209). -/
def Order.sync (o : Order) : Order :=
  let r := o.region + 1
  { o with region := r, region0 := if r = o.region0 then o.region0 + 1 else o.region0,
           rel := o.rel.filter fun p => (r - p.1).toNat < 2 ^ 19 }

/-- A message enters the queue of the cluster's station (R263). -/
def State.send (s : State) (station : Nat) (m : Msg) : State :=
  let t := s.station station
  { s with erg := { s.erg with st := vset s.erg.st station { t with queue := t.queue ++ [m] } } }

/-- A message of the selected core's job. -/
def State.ownMsg (s : State) (kind : BitVec 4) (w : BitVec 10) (arg : BitVec 42) (v : W64) (release : Bool) : Msg :=
  { kind := kind, tenant := BitVec.ofNat 4 (s.core.csr .tenant).toNat, word := w,
    source := BitVec.ofNat 4 (clusterOf s.cur), arg := arg, value := v, origin := some s.cur,
    rel := if release then some s.core.o.region else none, fn := none }

/-- The selected core transmits a message of its own (R268): it waits for the caravan; a release ends a region. -/
def State.transmitOwn (s : State) (m : Msg) : State :=
  (s.onCore fun c =>
    let o := { c.o with unsent := c.o.unsent + 1 }
    { c with o := if m.rel.isSome then o.sync else o }).send (clusterOf s.cur) m

/-- A word that transmits (R268): it waits until R201's conditions hold and every own message is applied. -/
def ergWord (ctl : Ctl) (regs : Ranges) (wait : Bool) (f : Option Flt) (s : State) (eff : State → State) : Out :=
  let c := s.core
  issue { st := .a, ctl := ctl, regs := regs, wait := c.ownPending || c.releaseWaits || wait, fault := f, lat := c.latA 1 } s eff

def execObput (ctl : Ctl) (a b : BitVec 6) (idx : BitVec 10) (s : State) : Out :=
  let c := s.core
  ergWord ctl (c.sRange a ++ c.sRange b) false none s fun s =>
    s.transmitOwn (s.ownMsg 0 (c.syncWord a idx) 0 (c.sreg b) true)

/-- OBADD reserves an aq place; the old value enters aq when the message is applied at its own station (R268). -/
def execObadd (ctl : Ctl) (a b : BitVec 6) (idx : BitVec 10) (s : State) : Out :=
  let c := s.core
  ergWord ctl (c.sRange a ++ c.sRange b) (c.dqFull .aq) none s fun s =>
    (s.transmitOwn (s.ownMsg 1 (c.syncWord a idx) 0 (c.sreg b) true)).onCore (·.dqReserve .aq)

/-- The barrier wait that holds the A stream back is set: the job's, or the routine's own. (DEDUCED, log 58.) -/
def Core.setBarWait (c : Core) (w : Option BarWait) : Core :=
  { c with o := if c.inSup then { c.o with sbarw := w } else { c.o with barw := w } }

/-- OBBAR transmits BAR and leaves a barrier wait that holds the stream's next word (R269). -/
def execObbar (ctl : Ctl) (a b : BitVec 6) (idx : BitVec 10) (s : State) : Out :=
  let c := s.core
  let n := (c.sreg b).toNat
  let bad := n = 0 || 2 ^ 32 ≤ n
  ergWord ctl (c.sRange a ++ c.sRange b) false (if bad then some (flt 0x11) else none) s fun s =>
    (s.transmitOwn (s.ownMsg 2 (c.syncWord a idx) (BitVec.ofNat 42 n) 0 true)).onCore fun c1 =>
      c1.setBarWait (some { word := c.syncWord a idx, target := none })

/-- A word that reads the replica: an acquire at the applied prefix (R200, R268). -/
def readWord (ctl : Ctl) (d a : BitVec 6) (idx : BitVec 10) (regs waitRegs : Ranges) (ok : W64 → Bool) (s : State) : Out :=
  let c := s.core
  let x := s.replica (c.syncWord a idx)
  issue { st := .a, ctl := ctl, waitRegs := waitRegs, regs := regs, dst := c.sRange d,
          wait := c.ownPending || s.repairing || !ok x, lat := c.latA 1, acts := c.sWrite d x } s
    fun s => s.onCore fun c1 => { c1 with o := (c1.o.take c.o.seen).sync }

def execObwait (ctl : Ctl) (cc : Cond) (d a b : BitVec 6) (idx : BitVec 10) (s : State) : Out :=
  let c := s.core
  readWord ctl d a idx (c.sRange a ++ c.sRange b) (c.sRange a ++ c.sRange b) (fun x => condHolds cc x (c.sreg b)) s

def execObget (ctl : Ctl) (d a : BitVec 6) (idx : BitVec 10) (s : State) : Out :=
  readWord ctl d a idx (s.core.sRange a) [] (fun _ => true) s

def execObseq (ctl : Ctl) (d : BitVec 6) (s : State) : Out :=
  let c := s.core
  issue { st := .a, ctl := ctl, dst := c.sRange d, lat := c.latA 1, acts := c.sWrite d (esnOf c.o.seen) } s

/-- OBSEQ.own waits until the latest own message has its ESN (R268). -/
def execObseqOwn (ctl : Ctl) (d : BitVec 6) (s : State) : Out :=
  let c := s.core
  issue { st := .a, ctl := ctl, dst := c.sRange d, wait := c.o.unsent ≠ 0, lat := c.latA 1,
          acts := c.sWrite d (esnOf c.o.own) } s

/-- Copy fences (08 R194, R195). -/
def execFrel (ctl : Ctl) (s : State) : Out :=
  issue { st := .a, ctl := ctl, lat := s.core.latA 1 } s fun s => s.onCore fun c =>
    { c with cp := { c.cp with frel := c.cp.nextCmd, epoch := c.cp.epoch + 1 } }

def execFacq (ctl : Ctl) (s : State) : Out :=
  issue { st := .a, ctl := ctl, lat := s.core.latA 1 } s fun s => s.onCore fun c =>
    { c with cp := { c.cp with facq := c.cp.nextCmd } }

end Sys2Proof.Machine
end

