-- ==== Sys2Proof/Machine/Replay.lean ====
section
/-! DEFINITION. Recording and enforcing the outcomes that static timing leaves open (14 R352). The sequence of an event
counts the job's events of its KIND; the values of KIND 1, 2, 4 and 5 are the core's number, the count of the tenant's
earlier messages, the group's number and the count of the tenant's earlier contributions: DESIGN CHOICE (log 13). -/

namespace Sys2Proof.Machine

/-! ## The log (R352) -/

/-- REPLAY.MODE of a core: 0 off, 1 record, 2 enforce. -/
def Core.replayMode (c : Core) : Nat := bits 63 62 (c.csr .replay).toNat

/-- Address of a core's log. -/
def Core.replayLog (c : Core) : Nat := 64 * bits 47 6 (c.csr .replay).toNat

/-- Events of a kind that the job has had. -/
def Core.replaySeq (c : Core) (kind : Nat) : Nat := ((c.job.map fun j => vget j.rk kind 0).getD 0)

/-- One more event of a kind. -/
def Core.replayNext (c : Core) (kind : Nat) : Core :=
  { c with job := c.job.map fun j => { j with rk := vset j.rk kind (vget j.rk kind 0 + 1) } }

/-- A word of a log; 0 where it cannot be read. -/
def State.logWordOf (s : State) (ctx : Ctx) (log i : Nat) : Nat :=
  match s.placeRead ctx 2 0 (log + 8 * i) 8 with
  | .ok l => leNat l
  | .error _ => 0

/-- Word i of a core's log. -/
def State.logWord (s : State) (n i : Nat) : Nat := s.logWordOf (s.coreCtx n) (s.getCore n).replayLog i

/-- Bytes written to a core's log; a write that fails is lost. -/
def State.logPut (s : State) (n i x : Nat) : State :=
  match s.placeWrite (s.coreCtx n) 2 0 ((s.getCore n).replayLog + 8 * i) (leBytes 8 x) with
  | .ok t => t
  | .error _ => s

/-- The entry that a log holds for an event; `none` where it has run out. -/
def State.entryIn (s : State) (ctx : Ctx) (log kind seq : Nat) : Option Nat :=
  (List.range (s.logWordOf ctx log 1)).find? fun i =>
    let w := s.logWordOf ctx log (8 + 2 * i)
    bits 7 0 w = kind && bits 63 16 w = seq % 2 ^ 48

/-- The value that a log holds for an event. -/
def State.loggedIn (s : State) (ctx : Ctx) (log kind seq : Nat) : Option Nat :=
  (s.entryIn ctx log kind seq).map fun i => s.logWordOf ctx log (9 + 2 * i)

def State.logged (s : State) (n kind seq : Nat) : Option Nat := s.loggedIn (s.coreCtx n) (s.getCore n).replayLog kind seq

/-- Bytes of a log that the search for an event reads: its head, and the entries up to the one sought. (DEDUCED, log 13.) -/
def State.searchLen (s : State) (ctx : Ctx) (log kind seq : Nat) : Nat :=
  64 + 16 * ((s.entryIn ctx log kind seq).map (· + 1)).getD (s.logWordOf ctx log 1)

/-- The reads of that search (07 R182). -/
def State.searchLog (s : State) (ctx : Ctx) (log kind seq : Nat) : State := s.usedRange ctx 2 0 log (s.searchLen ctx log kind seq)

/-- An event of core n: it is counted; in record mode it enters the log, or sets OVF where the log is full; in enforce mode the
log has been read for it. -/
def State.record (s : State) (n kind value : Nat) : State :=
  let c := s.getCore n
  let ctx := s.coreCtx n
  let next (s : State) : State := s.putCore n ((s.getCore n).replayNext kind)
  if c.replayMode = 2 then next (s.searchLog ctx c.replayLog kind (c.replaySeq kind))
  else if c.replayMode ≠ 1 then next s
  else
    let used := s.logWord n 1
    let s1 := s.usedRange ctx 2 0 c.replayLog 24
    if s.logWord n 0 ≤ used then next (s1.logPut n 2 (s.logWord n 2 ||| 1))
    else next (((s1.logPut n (8 + 2 * used) (kind + 2 ^ 16 * (c.replaySeq kind % 2 ^ 48))).logPut n (9 + 2 * used) value).logPut n 1
      (used + 1))

/-- The accesses to a core's log for its next event of a kind meet a link in key hold (15 R362). -/
def State.logHeld (s : State) (n kind : Nat) : Bool :=
  let c := s.getCore n
  let ctx := s.coreCtx n
  let log := c.replayLog
  if c.replayMode = 2 then
    s.rangeHeld ctx 2 0 log 64 || s.rangeHeld ctx 2 0 log (s.searchLen ctx log kind (c.replaySeq kind))
  else c.replayMode = 1 && (s.rangeHeld ctx 2 0 log 24 || s.writeHeld ctx 2 0 log 24
    || (s.logWord n 1 < s.logWord n 0 && s.writeHeld ctx 2 0 (log + 64 + 16 * s.logWord n 1) 16))

/-- The next event of a kind at core n may be this one, and its log can be reached. -/
def State.replayOk (s : State) (n kind value : Nat) : Bool :=
  let c := s.getCore n
  c.replayMode = 0 || (!s.logHeld n kind && (c.replayMode ≠ 2 || match s.logged n kind (c.replaySeq kind) with
    | some v => v = value
    | none => true))

end Sys2Proof.Machine
end

