-- ==== Sys2Proof/Machine/Land.lean ====
section
/-! DEFINITION. Fetching a word and landing results (02 R19, R38, R48, R49; 05 R113, R122 to R125, R130;
07 R163, R164, R171, R176; 14 R336, R340, R341). -/

namespace Sys2Proof.Machine

/-! ## Streams at their boundaries (02 R48, R52; 13 R318; 14 R337) -/

/-- The stream stands at a boundary at which it may take up its next word: it runs and has not joined. In supervisor mode and
right after ERET only A may; A waits through a page-fault stop, in which M and V run only so long (14 R337). A boundary
between a word and the next word's issue counts too. (DEDUCED, log 63.) -/
def Core.turn (c : Core) (st : StreamId) : Bool :=
  let x := c.stream st
  let mode := match c.t.pf, st with
    | some _, .a => false
    | some p, .m => p.leftM ≠ 0
    | some p, .v => p.leftV ≠ 0
    | none, _ => true
  (if c.inSup then decide (st = .a) else !c.t.ret && mode) && !x.joined && x.bound = 0

/-- A divisor that landed comes into force at the first boundary at or after its landing (R318). -/
def Stream.newBoundary (x : Stream) : Stream :=
  if x.bound ≠ 0 then x else { x with div := x.newDiv.getD x.div, newDiv := none }

/-- The same for the copy interface. -/
def Iface.newBoundary (x : Iface) : Iface :=
  if x.bound ≠ 0 then x else { x with div := x.newDiv.getD x.div, newDiv := none }

def Core.newDivs (c : Core) : Core :=
  if c.inSup then { c with sa := c.sa.newBoundary }
  else { c with sa := c.sa.newBoundary, sm := c.sm.newBoundary, sv := c.sv.newBoundary, ci := c.ci.newBoundary }

/-! ## FETCH (02 R19, 07 R163, R164, 14 R335) -/

/-- The step after the fetch of a stream. -/
def afterFetch : StreamId → Phase
  | .a => .fetch .m
  | .m => .fetch .v
  | .v => .touch

/-- Address of a stream's next word (R163). -/
def Core.wordAddr (c : Core) (st : StreamId) : Nat := winBase (c.csr (codeCsr st)) + 8 * (c.stream st).pc.toNat

/-- The program counter of a stream is taken modulo the size of its window, from a fetch on (R163, 14 R335). -/
def Core.wrapPc (c : Core) (st : StreamId) : Core :=
  if c.inSup || winValid (c.csr (codeCsr st)) then
    c.setStream st { c.stream st with pc := BitVec.ofNat 17 ((c.stream st).pc.toNat % c.winSize st) }
  else c

/-- The fault of a fetch at an address: the window, then a pending code word, then a poisoned block. -/
def Core.fetchFault (c : Core) (st : StreamId) (a : Nat) : Option Flt :=
  if winValid (c.csr (codeCsr st)) then (c.earlyIn [(a, 8)] 0).or (c.poisonIn [(a, 8)] []) else some (flt 0x07 a)

/-- A stream has no word to read on this tick: it is not its turn, it has its word, or its fetch has failed. -/
def Core.fetched (c : Core) (st : StreamId) : Bool :=
  !c.turn st || (c.stream st).word.isSome || c.t.stops.any fun x => x.st = some st

/-- FETCH: the word is read at the first boundary at which it is the stream's next one, at its program counter modulo the
window's size. A word in an absent block asks for its pull; the fetches of the other streams are then made too, so that
all pulls are requested together (R341). -/
def execFetch (st : StreamId) (s : State) : Out :=
  let c := s.core
  let done (c : Core) : Core := { c with phase := afterFetch st }
  let take (w : W64) (c : Core) : Core := done (c.setStream st { c.stream st with word := some w })
  if c.phase ≠ .fetch st then .next s
  else if c.fetched st then .next (s.onCore done)
  else
    let s1 := s.onCore fun c => c.wrapPc st
    let k := s1.core
    let a := k.wordAddr st
    if k.inSup then .next (s1.onCore (take (k.r.sup.getD (k.stream st).pc.toNat 0)))
    else match if winValid (k.csr (codeCsr st)) then k.absentIn [(a, 8)] else none with
      | some (.freeze bs) => .next (s1.onCore fun c => done (c.freeze bs))
      | some (.fault f) => .next (s1.onCore fun c => done (c.raise st f))
      | _ => match k.fetchFault st a with
        | some f => .next (s1.onCore fun c => done (c.raise st f))
        | none => .next (s1.onCore (take (BitVec.ofNat 64 (s1.getLe a 8))))

/-! ## What a landing covers (14 R341, 07 R171) -/

/-- An action that reads what it writes on the landing tick, and so never covers a block (05 R113, 07 R176). -/
def LAct.readsDest : LAct → Bool
  | .mma _ fmt .. | .sum _ fmt _ => !bit 11 fmt.toNat
  | .zpc .. | .atom .. => true
  | _ => false

/-- Whether a landing covers a whole block. -/
def Land.covers (e : Land) (b : Nat) : Bool :=
  !(e.acts.any LAct.readsDest) && coversBlock (joinRanges (e.acts.flatMap LAct.ranges)) b

/-- Blocks in a state that a landing writes in part, with the first byte written in each, in the order in which the landing
writes. (DEDUCED, log 64.) -/
def Core.partly (c : Core) (p : Pres) (e : Land) : List (Nat × Nat) :=
  let rs := e.acts.flatMap LAct.ranges
  ((c.blocksWith p rs).filter fun b => !e.covers b).map fun b =>
    (b, ((rs.find? fun r => (blocksIn r.1 r.2).contains b).map fun r => max r.1 ((blockSpan b).headD (0, 0)).1).getD 0)

/-- The absent blocks that the landings of a tick need. -/
def Core.landNeeds (c : Core) (due : List Land) : List Nat :=
  if c.r.pres.isEmpty then []
  else ((due.flatMap fun e => (c.partly .absent e).map (·.1)).eraseDups).filter fun b => !c.t.pullFail.contains b

/-- Blocks that a landing covers whole become present (R171, R341). -/
def Core.coverBlocks (c : Core) (e : Land) : Core :=
  if c.r.pres.isEmpty then c
  else
    let rs := e.acts.flatMap LAct.ranges
    ((c.blocksWith .absent rs ++ c.blocksWith .poisoned rs).filter e.covers).foldl (fun c b => c.setPres b .present) c

/-! ## Landing (14 R340) -/

/-- Bytes written at a local address of the selected core, but for those in refused blocks and for the z states
(R133, R171). -/
def State.putL (s : State) (bad : List Nat) : Nat → List Byte → State
  | _, [] => s
  | a, b :: bs =>
    let skip := zAddr a || (!bad.isEmpty && ((blockOf a).map bad.contains).getD false)
    State.putL (if skip then s else s.setB s.cur a b) bad (a + 1) bs

/-- Rows of equal length, a pitch apart, in ascending order: of rows that overlap, the later one stays. (DESIGN CHOICE,
log 48.) -/
def State.putRows (s : State) (bad : List Nat) (dest rows pitch : Nat) (data : List Byte) : State :=
  let len := data.length / max rows 1
  (List.range rows).foldl (fun s r => s.putL bad (dest + r * pitch) ((data.drop (r * len)).take len)) s

/-- Words written from an address on, by index. -/
def State.putWords (s : State) (bad : List Nat) (dest : Nat) (l : List (Nat × W32)) : State :=
  l.foldl (fun s p => s.putL bad (dest + 4 * p.1) (leBytes 4 p.2.toNat)) s

/-- The word of an accumulator as it stands. -/
def State.word32 (s : State) (dest i : Nat) : W32 := BitVec.ofNat 32 (s.getLe (dest + 4 * i) 4)

/-- One item of a KIND 7 landing: under a mask, only the bits set in it change. -/
def State.putItem (s : State) (bad : List Nat) (i : LItem) : State :=
  match i.mask with
  | none => s.putL bad i.addr i.data
  | some m => s.putL bad i.addr [(s.getL i.addr &&& ~~~m) ||| ((i.data.headD 0) &&& m)]

/-- The new value of a CSR under a CSR word, reserved bits ignored (R349, R6). -/
def csrNew (n : Csr) (op : CsrOp) (old v : W64) : W64 :=
  (match op with
    | .write => v
    | .set => old ||| v
    | .clear => old &&& ~~~v) &&& n.mask

/-- A whole scalar of the job. -/
def Core.putScalar (c : Core) (n : Nat) (x : W64) : Core := { c with r := { c.r with s := vset c.r.s n x } }
def Core.putShadow (c : Core) (n : Nat) (x : W64) : Core := { c with r := { c.r with sh := vset c.r.sh n x } }

/-- A CSR word on its landing tick: the old value goes to its scalar (R340, R349). -/
def Core.landCsr (c : Core) (n : Csr) (op : CsrOp) (v : W64) (res : Option (Bool × Nat)) : Core :=
  let old := c.csr n
  let c0 := if n.writable then c.setCsr n (csrNew n op old v) else c
  let c1 := if n = .slice then { c0 with t := { c0.t with sliced := true } } else c0
  match res with
  | none => c1
  | some (true, k) => c1.putShadow k old
  | some (false, k) => if k = 0 then c1 else c1.putScalar k old

/-- Bits of DIVS of an engine's divisor (R316). -/
def divShift : Eng → Nat
  | .a => 0
  | .m => 4
  | .v => 8
  | .c => 12

/-- CLKDIV on its landing tick: DIVS shows the divisor, and the engine awaits its change boundary (R318). -/
def Core.landDiv (c : Core) (e : Eng) (n : BitVec 4) : Core :=
  let d := c.csr .divs
  let c1 := c.setCsr .divs ((d &&& ~~~((0xF : W64) <<< divShift e)) ||| ((n.setWidth 64) <<< divShift e))
  match e with
  | .a => { c1 with sa := { c1.sa with newDiv := some n.toNat } }
  | .m => { c1 with sm := { c1.sm with newDiv := some n.toNat } }
  | .v => { c1 with sv := { c1.sv with newDiv := some n.toNat } }
  | .c => { c1 with ci := { c1.ci with newDiv := some n.toNat } }

/-- Lanes of a v register that a mask selects. -/
def Core.putLanes (c : Core) (n : Nat) (mask : W64) (val : List W32) : Core :=
  let old := vget c.r.v n (.replicate 64 0)
  let x : Vector W32 64 := Vector.ofFn fun (i : Fin 64) => if mask.getLsbD i.val then val.getD i.val 0 else old[i.val]
  { c with r := { c.r with v := vset c.r.v n x } }

def Core.putK (c : Core) (n : Nat) (mask val : W64) : Core :=
  { c with r := { c.r with k := vset c.r.k n ((vget c.r.k n 0 &&& ~~~mask) ||| (val &&& mask)) } }

def Core.putPred (c : Core) (n : Nat) (b : Bool) : Core :=
  let m : BitVec 8 := 1 <<< n
  { c with r := { c.r with p := if b then c.r.p ||| m else c.r.p &&& ~~~m } }

/-- The view of a ring, or of a barrier cell, shows a word's change (10 R258, R262). -/
def Core.showRing (c : Core) (n : Nat) (d : Ring) : Core :=
  { c with q := { c.q with ringV := vset c.q.ringV n ((vget c.q.ringV n .reset).plus d) } }
def Core.showBar (c : Core) (n : Nat) (d : Bar) : Core :=
  { c with q := { c.q with barV := vset c.q.barV n ((vget c.q.barV n .reset).plus d) } }

/-- A local ATOM on its perform tick: the old value, zero-extended, is appended to aq (07 R176). -/
def State.landAtom (s : State) (op : AtomOp) (w64 : Bool) (addr : Nat) (b c : W64) : State :=
  let n := if w64 then 8 else 4
  let old := s.getLe addr n
  let s1 := s.putL [] addr (leBytes n (atomNew op (8 * n) old b.toNat c.toNat))
  (s1.record s.cur 3 old).onCore fun k => k.dqAppend .aq { val := BitVec.ofNat 64 old, status := 0, faddr := 0 }

/-- The change one action makes, but for bytes in refused blocks, and the SATFLAGS bits it sets. MSATC acts after the
others of its tick. A local ATOM whose block was poisoned since its issue gives its aq place back and appends nothing.
(DESIGN CHOICE, log 65.) -/
def State.landAct (s : State) (bad : List Nat) (a : LAct) : State × BitVec 2 :=
  let reg (f : Core → Core) : State × BitVec 2 :=
    (if a.ranges.any fun r => (blocksIn r.1 r.2).any bad.contains then s else s.onCore f, 0)
  match a with
  | .write dest rows pitch data => (s.putRows bad dest rows pitch data, 0)
  | .mma dest fmt t1 t2 =>
    let r := mmaLand fmt.toNat t1 t2 (s.word32 dest)
    (s.putWords bad dest r.1, if r.2 then satM else 0)
  | .zpc dest fmt corr =>
    let r := zpcLand fmt.toNat corr (s.word32 dest)
    (s.putWords bad dest r.1, if r.2 then satM else 0)
  | .sum dest fmt sums =>
    (s.putWords bad dest (sums.zipIdx.map fun p =>
      (p.2, (if bit 11 fmt.toNat then 0 else s.word32 dest p.2) + p.1)), 0)
  | .queue q v => (s.onCore fun c => c.dqAppend q { val := v, status := 0, faddr := 0 }, 0)
  | .msatc _ => (s, 0)
  | .azero dest fmt =>
    (s.putRows bad dest (fmtM fmt.toNat) 256 (List.replicate (4 * fmtM fmt.toNat * fmtN fmt.toNat) 0), 0)
  | .list items => (items.foldl (fun s i => s.putItem bad i) s, 0)
  | .atom _ op w64 addr b c =>
    (if ((blockOf addr).map bad.contains).getD false
      then s.onCore fun k => { k with q := { k.q with dres := vset k.q.dres 6 (vget k.q.dres 6 0 - 1) } }
      else s.landAtom op w64 addr b c, 0)
  | .zstate dest data => reg fun c => (data.zipIdx).foldl (fun c p => c.setB (dest + p.2) p.1) c
  | .csr n op v res => (s.onCore fun c => c.landCsr n op v res, 0)
  | .clkdiv e n => (s.onCore fun c => c.landDiv e n, 0)
  | .scalar n v => reg fun c => c.putScalar n v
  | .shadow n v => (s.onCore fun c => c.putShadow n v, 0)
  | .handle n v => reg fun c => { c with r := { c.r with h := vset c.r.h n v } }
  | .mreg n v => reg fun c => { c with r := { c.r with m := vset c.r.m n v } }
  | .xreg n v => reg fun c => { c with r := { c.r with x := vset c.r.x n v } }
  | .lanes n mask v => reg fun c => c.putLanes n mask v
  | .kbits n mask v => reg fun c => c.putK n (mask.getD (BitVec.allOnes 64)) v
  | .pred n b => reg fun c => c.putPred n b
  | .ringView n d => (s.onCore fun c => c.showRing n d, 0)
  | .barView n d => (s.onCore fun c => c.showBar n d, 0)

/-- An async cause raised by a landing (R171, R341). -/
def asyncStop (code : BitVec 8) (addr block : Nat) : Stop :=
  { kind := .async, st := none, code := code, imm := 0, faddr := BitVec.ofNat 64 addr, status := 0,
    block := BitVec.ofNat 9 block, poff := none }

/-- One entry lands: what it covers becomes present, what it may not write raises an async cause, the rest is
written; its SATFLAGS bits are collected. -/
def State.landOne (r : State × BitVec 2) (e : Land) : State × BitVec 2 :=
  let s := r.1
  let lost := if s.core.r.pres.isEmpty then [] else s.core.partly .absent e
  let pois := if s.core.r.pres.isEmpty then [] else s.core.partly .poisoned e
  let bad := (lost ++ pois).map (·.1)
  let s1 := s.onCore fun c => (lost.map fun p => asyncStop 0x17 p.2 p.1).foldl Core.noteStop
    ((pois.map fun p => asyncStop 0x0C p.2 p.1).foldl Core.noteStop (c.coverBlocks e))
  e.acts.foldl (fun r a => let x := r.1.landAct bad a; (x.1, r.2 ||| x.2)) (s1, r.2 ||| e.sat)

/-- MSATC: after the CSR writes and hardware sets of its tick, m takes the flags and they clear (05 R130). They clear too where
m's block refuses the write: absent, its pull having failed, or poisoned. (DESIGN CHOICE, log 66.) -/
def Core.landMsatc (c : Core) (dest : Nat) : Core :=
  let v := c.csr .satflags &&& 3
  let c1 := c.setCsr .satflags (c.csr .satflags &&& ~~~3)
  if (blocksIn dest 4).any fun b => c.presOf b = .absent || c.presOf b = .poisoned then c1
  else { c1 with r := { c1.r with m := vset c1.r.m ((dest - 0x301C00) / 4) (v.setWidth 32) } }

/-- Steps 2 and 3 of R48 on the entries whose tick has come: results, then flags, those of the groups completed on this
tick among them (03 R78), then MSATC, then tokens. MSATC's write stays over that of a word issued later that lands in the same
m register on its tick. (DEDUCED, log 66.) -/
def State.landAll (s : State) (due : List Land) : State :=
  let r := due.foldl State.landOne (s, 0)
  r.1.onCore fun c =>
    let c0 := c.orFp (due.foldl (fun f e => f ||| e.fp) c.cp.fpPend)
    let c1 := { (c0.orSat r.2) with cp := { c0.cp with fpPend := 0 } }
    let c2 := (due.flatMap (·.acts)).foldl (fun c a => match a with
      | .msatc dest => c.landMsatc dest
      | _ => c) c1
    due.foldl (fun c e => c.pushTokens e.sq (e.sn.toNat + 1) plainTok) c2

/-- An entry whose landing tick has come, counted on the ticks of its own mode (R335, R336). -/
def Core.isDue (c : Core) (e : Land) : Bool := e.rem = 0 && e.sup = c.inSup

/-- An enforced log puts another atomic before a local ATOM that is due, or the log cannot be reached: the tick waits for it
(14 R352; 15 R362). (DEDUCED, log 13.) -/
def State.atomHeld (s : State) (due : List Land) : Bool :=
  let held (s : State) (a : LAct) : Bool := match a with
    | .atom _ _ w64 addr _ _ => !s.replayOk s.cur 3 (s.getLe addr (if w64 then 8 else 4))
    | _ => false
  s.core.replayMode ≠ 0 &&
    (due.foldl (fun (r : Bool × State × BitVec 2) e => (r.1 || e.acts.any (held r.2.1), State.landOne r.2 e)) (false, s, 0)).1

/-- LAND: the list stands in order of issue, and within one tick in stream order (R48, R336). -/
def execLand (s : State) : Out :=
  let c := s.core
  if c.phase ≠ .land then .next s
  else
    let due := c.land.filter c.isDue
    match c.landNeeds due with
    | [] => if s.atomHeld due then .next s else
      let s1 := (s.onCore fun c => { c with land := c.land.filter fun e => !c.isDue e }).landAll due
      .next (s1.onCore fun c =>
        let c1 := c.newDivs
        { c1 with phase := .fetch .a, t := { c1.t with pullFail := [] } })
    | bs => .next (s.onCore fun c => c.freeze bs)

end Sys2Proof.Machine
end

