-- ==== Sys2Proof/Machine/Image.lean ====
section
/-! DEFINITION. Context images: the landing area, command records, the header, the location table, pulls and drains
(14 R339 to R348; 07 R170, R370; 12 R308; 20 R368). -/

namespace Sys2Proof.Machine

/-! ## Blocks and their locations (R170, R348, R370) -/

/-- The bytes of a block's range (R370). -/
def State.blockBytes (s : State) (n b : Nat) : List Byte :=
  (blockSpan b).flatMap fun p => (List.range p.2).map fun i => s.getB n (p.1 + i)

/-- The machine with the bytes of a block's range placed in a core. -/
def State.putBlock (s : State) (n b : Nat) (data : List Byte) : State :=
  ((blockSpan b).foldl (fun (r : State × List Byte) p => (r.1.setBs n p.1 (r.2.take p.2), r.2.drop p.2)) (s, data)).1

def blockLen (b : Nat) : Nat := (blockSpan b).foldl (fun n p => n + p.2) 0

/-- The image a core's IMGDESC names. -/
def Core.img (c : Core) : Option Nat := if c.imgValid then some (imgHdr (c.csr .imgdesc)) else none

/-- Address of the location table of an image. -/
def State.locTab (s : State) (c : Ctx) (h : Nat) : Option Nat :=
  match s.placeRead c 2 0 (h + 8) 8 with
  | .ok l => some (64 * bits 47 6 (leNat l))
  | .error _ => none

/-- The reads of a block's location entry, as far as they find it, refresh what the atomic units cache (R182). -/
def State.usedEntry (s : State) (n b : Nat) : State :=
  let c := s.coreCtx n
  match (s.getCore n).img with
  | none => s
  | some h => match s.locTab c h with
    | none => s
    | some t => (s.usedRange c 2 0 (h + 8) 8).usedRange c 2 0 (t + 8 * b) 8

/-- They meet a link in key hold (15 R362). -/
def State.entryHeld (s : State) (n b : Nat) : Bool :=
  let c := s.coreCtx n
  match (s.getCore n).img with
  | none => false
  | some h => s.rangeHeld c 2 0 (h + 8) 8 || match s.locTab c h with
    | none => false
    | some t => s.rangeHeld c 2 0 (t + 8 * b) 8

/-- The location entry of a block and its address; `none` where it cannot be read. -/
def State.locEntry (s : State) (n b : Nat) : Option (W64 × Nat) :=
  let c := s.coreCtx n
  match (s.getCore n).img with
  | none => none
  | some h => match s.locTab c h with
    | none => none
    | some t => match s.placeRead c 2 0 (t + 8 * b) 8 with
      | .ok l => some (BitVec.ofNat 64 (leNat l), t + 8 * b)
      | .error _ => none

def locKind (e : W64) : Nat := bits 63 62 e.toNat
def locWin (e : W64) : Nat := bits 61 46 e.toNat
def locPsn (e : W64) : Bool := e.getLsbD 42
def locAddr (e : W64) : Nat := 64 * bits 41 0 e.toNat
/-- No reserved bit set, and no window but for KIND 3 (R348). -/
def locOk (e : W64) : Bool := bits 45 43 e.toNat = 0 && (locKind e = 3 || locWin e = 0)
/-- The space a KIND names. -/
def locSpace (e : W64) : Nat := locKind e + 1

/-- The bytes of a location are transferred: no window of zeros, no poisoned mark. -/
def locMoves (e : W64) : Bool := locOk e && !locPsn e && locKind e ≠ 0

/-- A pull from a location meets a link in key hold (15 R362). -/
def State.locHeld (s : State) (n b : Nat) (loc : Option W64) : Bool :=
  match loc.filter locMoves with
  | some e => s.rangeHeld (s.coreCtx n) (if locKind e = 3 then 4 else locSpace e) (locWin e) (locAddr e) (blockLen b)
  | none => false

/-- A pull of a block from a location (R342); `none` where it cannot be served. -/
def State.pullFrom (s : State) (n b : Nat) (loc : Option W64) : Option State :=
  let mark (s : State) (p : Pres) : State := s.putCore n ((s.getCore n).setPres b p)
  match loc with
  | none => none
  | some e =>
    if !locOk e then none
    else if locPsn e then some (mark s .poisoned)
    else if locKind e = 0 then some (mark (s.putBlock n b (List.replicate (blockLen b) 0)) .present)
    else match s.placeRead (s.coreCtx n) (if locKind e = 3 then 4 else locSpace e) (locWin e) (locAddr e) (blockLen b) with
      | .ok l =>
        let s1 := s.usedRange (s.coreCtx n) (if locKind e = 3 then 4 else locSpace e) (locWin e) (locAddr e) (blockLen b)
        some (mark (s1.putBlock n b l) .present)
      | .error _ => none

/-- The physical storage of a block: core and own block; that of a lent one lies in a neighbour (R166, R170). -/
def physOf (n b : Nat) : List (Nat × Nat) :=
  if b < 320 then [(n, b)]
  else ((blockSpan b).flatMap fun p => (List.range (ceilDiv p.2 0x1000)).filterMap fun i =>
    let t := lentTo n (p.1 + 0x1000 * i)
    (blockOf t.2).map fun k => (t.1, k)).eraseDups

/-- Every core that has done anything since reset. -/
def State.cores (s : State) : List (Nat × Core) := (s.cur, s.core) :: s.parked

/-- A block's physical storage still drains for an earlier context, of this core or of one that it was lent to (R342,
R343). -/
def State.draining (s : State) (n b : Nat) : Bool :=
  s.cores.any fun p => p.2.t.drains.any fun d => d.bytes.isSome && (physOf p.1 d.block).any (physOf n b).contains

/-- A pull of a block of a core through its image's location table. -/
def State.pullBlock (s : State) (n b : Nat) : Option State :=
  (s.usedEntry n b).pullFrom n b ((s.locEntry n b).map (·.1))

/-- Such a pull meets a link in key hold. -/
def State.pullHeld (s : State) (n b : Nat) : Bool := s.entryHeld n b || s.locHeld n b ((s.locEntry n b).map (·.1))

/-! ## Entries of the landing area (R340) -/

/-- Bytes at an address as KIND 7 items of 4, 2 or 1 bytes. -/
def splitItems : Nat → Nat → List Byte → List LItem
  | 0, _, _ => []
  | n + 1, a, l =>
    let k := if a % 4 = 0 && 4 ≤ l.length then 4 else if a % 2 = 0 && 2 ≤ l.length then 2 else 1
    if l.isEmpty then [] else { addr := a, data := l.take k, mask := none } :: splitItems n (a + k) (l.drop k)

/-- The items of an action that stores. -/
def LAct.items (a : LAct) : List LItem :=
  let at' (a : Nat) (l : List Byte) : List LItem := splitItems l.length a l
  match a with
  | .write dest rows pitch data =>
    let len := data.length / max rows 1
    (List.range rows).flatMap fun r => at' (dest + r * pitch) ((data.drop (r * len)).take len)
  | .list is => is.flatMap fun i => if i.mask.isNone then at' i.addr i.data else [i]
  | .scalar n v => at' (0x302000 + 8 * n) (leBytes 8 v.toNat)
  | .handle n v => at' (0x302200 + 32 * n) (leBytes 32 v.toNat)
  | .mreg n v => at' (0x301C00 + 4 * n) (leBytes 4 v.toNat)
  | .xreg n v => at' (0x301800 + 8 * n) (leBytes 8 v.toNat)
  | .lanes n mask v => (List.range 64).flatMap fun i =>
      if mask.getLsbD i then at' (0x300000 + 256 * n + 4 * i) (leBytes 4 (v.getD i 0).toNat) else []
  | .kbits n mask v => (List.range 8).filterMap fun i =>
      let m := byteOf (mask.getD (BitVec.allOnes 64)) i
      if m = 0 then none else some { addr := 0x301880 + 8 * n + i, data := [byteOf v i], mask := some m }
  | .pred n b => [{ addr := 0x302400, data := [if b then 255 else 0], mask := some (1 <<< n) }]
  | _ => []

def LItem.code (i : LItem) : Nat :=
  match i.mask with
  | none =>
    i.addr + (if i.data.length = 4 then 2 else if i.data.length = 2 then 1 else 0) * 2 ^ 22 + leNat i.data * 2 ^ 32
  | some m => i.addr + 3 * 2 ^ 22 + m.toNat * 2 ^ 24 + leNat (i.data.take 1) * 2 ^ 32

/-- What an entry of the area says beside its timing: KIND, DEST, QID, FMTW, ROWS, PITCH and data. -/
structure Rec where
  kind : Nat
  dest : Nat := 0
  qid : Nat := 0
  fmt : W64 := 0
  rows : Nat := 0
  pitch : Nat := 0
  data : List Byte := []

def Ring.bytes (r : Ring) : List Byte := leBytes 32 r.view.toNat
def Bar.bytes (b : Bar) : List Byte := leBytes 8 b.view.toNat

/-- The change of a view, as the items at its addresses that an entry holds (10 R258, R262). (DESIGN CHOICE, log 38.) -/
def LAct.viewStores (a : LAct) : LAct :=
  match a with
  | .ringView n d => .list (splitItems 32 (0x303000 + 32 * n) d.bytes)
  | .barView n d => .list (splitItems 8 (0x303200 + 8 * n) d.bytes)
  | _ => a

/-- A single action as an entry: a write of a whole register, or of rows, is KIND 0. (DEDUCED, log 38.) -/
def LAct.entry (a : LAct) : Rec :=
  let whole (dest n x : Nat) : Rec := { kind := 0, dest := dest, rows := 1, data := leBytes n x }
  let list : Rec := { kind := 7, data := a.items.flatMap fun i => leBytes 8 i.code }
  match a with
  | .write dest rows pitch data =>
    if rows = 0 || 255 < rows then list else { kind := 0, dest := dest, rows := rows, pitch := pitch, data := data }
  | .mma dest fmt t1 t2 => { kind := 1, dest := dest, fmt := fmt, data := t1 ++ t2 }
  | .zpc dest fmt corr => { kind := 2, dest := dest, fmt := fmt, data := corr.flatMap fun x => leBytes 8 x.toNat }
  | .sum dest fmt sums => { kind := 3, dest := dest, fmt := fmt, data := sums.flatMap fun x => leBytes 4 x.toNat }
  | .queue q v => { kind := 4, qid := q.no, data := leBytes 8 v.toNat }
  | .msatc dest => { kind := 5, dest := dest }
  | .azero dest fmt => { kind := 6, dest := dest, fmt := fmt }
  | .list _ | .pred _ _ => list
  | .atom word _ _ addr b c =>
    { kind := 8, dest := addr, data := leBytes 8 word.toNat ++ leBytes 8 addr ++ leBytes 8 b.toNat ++ leBytes 8 c.toNat }
  | .zstate dest data => { kind := 9, dest := dest, data := data }
  | .csr n op v res =>
    let o := match op with
      | .write => 0
      | .set => 1
      | .clear => 2
    { kind := 10, dest := (res.map fun r => 0x302000 + 8 * r.2).getD 0,
      data := leBytes 8 v.toNat ++ leBytes 8 (n.code + o * 2 ^ 12 + (if res.isSome then 2 ^ 14 else 0)) }
  | .clkdiv e n => { kind := 10, data := leBytes 8 n.toNat ++ leBytes 8 (Csr.divs.code + 3 * 2 ^ 12 + (divShift e / 4) * 2 ^ 16) }
  | .scalar n v => whole (0x302000 + 8 * n) 8 v.toNat
  | .handle n v => whole (0x302200 + 32 * n) 32 v.toNat
  | .mreg n v => whole (0x301C00 + 4 * n) 4 v.toNat
  | .xreg n v => whole (0x301800 + 8 * n) 8 v.toNat
  | .lanes n mask v =>
    if mask = BitVec.allOnes 64 then
      { kind := 0, dest := 0x300000 + 256 * n, rows := 1, data := (v.takeD 64 0).flatMap fun x => leBytes 4 x.toNat }
    else list
  | .kbits n mask v => if mask.isNone then whole (0x301880 + 8 * n) 8 v.toNat else list
  | .shadow .. | .ringView .. | .barView .. => { kind := 0, rows := 1 }

/-- An entry of the list as one of the area: a landing of several stores is one KIND 7 list. (DEDUCED, log 38.) -/
def Land.entry (e : Land) : Rec :=
  match e.acts with
  | [] => { kind := 0, rows := 1 }
  | [a] => a.entry
  | l => { kind := 7, data := (l.flatMap LAct.items).flatMap fun i => leBytes 8 i.code }

/-- Zeros up to a multiple of 32. -/
def pad32 (l : List Byte) : List Byte := l ++ List.replicate ((32 - l.length % 32) % 32) 0

def Land.bytes (e : Land) : List Byte :=
  let r := e.entry
  leBytes 8 (streamNo e.st * 2 ^ 62 + r.kind * 2 ^ 58 + e.rem * 2 ^ 42 + r.data.length * 2 ^ 22 + r.dest)
    ++ leBytes 8 (e.age % 2 ^ 32 * 2 ^ 32 + e.sat.toNat * 2 ^ 21 + e.fp.toNat * 2 ^ 16 + r.qid * 2 ^ 8 + e.sn.toNat * 16
      + e.sq.toNat)
    ++ leBytes 8 (if r.fmt = 0 then e.fmt else r.fmt).toNat ++ leBytes 8 (r.rows * 2 ^ 20 + r.pitch) ++ pad32 r.data

/-- The landing area of a list. -/
def areaBytes (l : List Land) : List Byte :=
  let of' (st : StreamId) := l.filter fun e => e.st = st
  [BitVec.ofNat 8 (of' .a).length, BitVec.ofNat 8 (of' .m).length, BitVec.ofNat 8 (of' .v).length]
    ++ List.replicate 61 0 ++ (of' .a ++ of' .m ++ of' .v).flatMap Land.bytes

/-- Groups of n of a list. -/
def chunks {α : Type} (n : Nat) : Nat → List α → List (List α)
  | 0, _ => []
  | k + 1, l => if l.isEmpty then [] else l.take n :: chunks n k (l.drop n)

def itemOf (l : List Byte) : LItem :=
  let x := leNat l
  let sz := bits 23 22 x
  if sz = 3 then { addr := bits 21 0 x, data := [BitVec.ofNat 8 (bits 39 32 x)], mask := some (BitVec.ofNat 8 (bits 31 24 x)) }
  else { addr := bits 21 0 x, data := leBytes (2 ^ sz) (bits 63 32 x), mask := none }

def dqOf : Nat → Option DqId
  | 0 => some .fq
  | 1 => some .dm
  | 2 => some .dv
  | 3 => some .bm
  | 4 => some .bv
  | 5 => some .ya
  | 6 => some .aq
  | _ => none

/-- A ring counter set, and a barrier cell, from the bytes of a view (R256, R260). -/
def Ring.ofBytes (l : List Byte) : Ring :=
  let x := leNat (l.take 32)
  { head := BitVec.ofNat 32 x, tail := BitVec.ofNat 32 (x / 2 ^ 32), claimed := BitVec.ofNat 32 (x / 2 ^ 64),
    base := BitVec.ofNat 22 (x / 2 ^ 96), valid := bit 148 x, lcnt := BitVec.ofNat 4 (x / 2 ^ 144),
    slot := BitVec.ofNat 16 (x / 2 ^ 128) }

def Bar.ofBytes (l : List Byte) : Bar :=
  let x := leNat (l.take 8)
  { posted := bit 33 x, phase := bit 32 x, pending := BitVec.ofNat 32 x }

/-- Bytes that items give n addresses from one on; zero where none does. -/
def itemBytes (l : List LItem) (a n : Nat) : List Byte :=
  (List.range n).map fun k => (l.findSome? fun i =>
    if i.addr ≤ a + k && a + k < i.addr + i.data.length then some (i.data.getD (a + k - i.addr) 0) else none).getD 0

/-- The actions of a KIND 7 list: its items; those at a read-only view are the change of the view (10 R258, R262). (DESIGN
CHOICE, log 38.) -/
def listActs (l : List LItem) : List LAct :=
  let rest := l.filter fun i => !viewAddr i.addr
  let views := ((l.filter fun i => viewAddr i.addr).map fun i =>
    if i.addr < 0x303200 then (i.addr - 0x303000) / 32 else 16 + (i.addr - 0x303200) / 8).eraseDups
  (if rest.isEmpty && !views.isEmpty then [] else [.list rest]) ++ views.map fun k =>
    if k < 16 then LAct.ringView k (Ring.ofBytes (itemBytes l (0x303000 + 32 * k) 32))
    else .barView (k - 16) (Bar.ofBytes (itemBytes l (0x303200 + 8 * (k - 16)) 8))

/-- The action of an entry's KIND and fields, but for KIND 7; `none` for a reserved code. -/
def Rec.act (r : Rec) : Option LAct :=
  let w (i : Nat) : W64 := BitVec.ofNat 64 (le64 r.data (8 * i))
  match r.kind with
  | 0 => if r.rows = 0 then none else some (.write r.dest r.rows r.pitch r.data)
  | 1 => some (.mma r.dest r.fmt (r.data.take (260 * fmtM r.fmt.toNat)) (r.data.drop (260 * fmtM r.fmt.toNat)))
  | 2 => some (.zpc r.dest r.fmt ((chunks 8 r.data.length r.data).map fun l => BitVec.ofNat 64 (leNat l)))
  | 3 => some (.sum r.dest r.fmt ((chunks 4 r.data.length r.data).map fun l => BitVec.ofNat 32 (leNat l)))
  | 4 => (dqOf r.qid).map fun q => .queue q (w 0)
  | 5 => some (.msatc r.dest)
  | 6 => some (.azero r.dest r.fmt)
  | 8 => match decodeWord .a (w 0) with
    | .ok (.atom _ op w64 _ _ _) => some (.atom (w 0) op w64 r.dest (w 2) (w 3))
    | _ => none
  | 9 => some (.zstate r.dest r.data)
  | 10 =>
    let x := (w 1).toNat
    let res := if bit 14 x then some (false, (r.dest - 0x302000) / 8 % 64) else none
    if bits 13 12 x = 3 then
      let e := bits 17 16 x
      some (.clkdiv (if e = 0 then .a else if e = 1 then .m else if e = 2 then .v else .c) ((w 0).setWidth 4))
    else (Csr.ofCode (bits 11 0 x)).map fun n =>
      .csr n (if bits 13 12 x = 0 then .write else if bits 13 12 x = 1 then .set else .clear) (w 0) res
  | _ => none

def Rec.acts (r : Rec) : Option (List LAct) :=
  if r.kind = 7 then some (listActs ((chunks 8 r.data.length r.data).map itemOf)) else r.act.map fun a => [a]

/-- The entry at an address of the area and the address after it; `none` for an entry LREST refuses. -/
def State.readEntry (s : State) (c : Ctx) (st : StreamId) (a : Nat) : Option (Land × Nat) :=
  match s.placeRead c 2 0 a 32 with
  | .error _ => none
  | .ok h =>
    let w0 := le64 h 0
    let w1 := le64 h 8
    let w3 := le64 h 24
    let len := bits 41 22 w0
    match s.placeRead c 2 0 (a + 32) len with
    | .error _ => none
    | .ok d =>
      let r : Rec := { kind := bits 61 58 w0, dest := bits 21 0 w0, qid := bits 11 8 w1, fmt := BitVec.ofNat 64 (le64 h 16),
                       rows := bits 27 20 w3, pitch := bits 19 0 w3, data := d }
      if bits 63 62 w0 ≠ streamNo st || bits 57 42 w0 = 0 || bits 31 23 w1 ≠ 0 || bits 15 12 w1 ≠ 0 || bits 63 28 w3 ≠ 0 || 9 < bits 3 0 w1
      then none
      else r.acts.map fun l =>
        ({ st := st, rem := bits 57 42 w0, age := bits 63 32 w1, sq := BitVec.ofNat 4 (bits 3 0 w1),
           sn := BitVec.ofNat 4 (bits 7 4 w1), fp := BitVec.ofNat 5 (bits 20 16 w1), sat := BitVec.ofNat 2 (bits 22 21 w1),
           sup := false, fmt := r.fmt, acts := l }, a + 32 + (len + 31) / 32 * 32)

def State.readEntries (s : State) (c : Ctx) (st : StreamId) : Nat → Nat → Option (List Land × Nat)
  | 0, a => some ([], a)
  | n + 1, a => match s.readEntry c st a with
    | none => none
    | some (e, a') => (s.readEntries c st n a').map fun r => (e :: r.1, r.2)

/-- Entries in the order of landing: greater AGE first, then A, M, V (R336). -/
def landBefore (x y : Land) : Bool := y.age < x.age || (x.age = y.age && streamNo x.st ≤ streamNo y.st)

def insertLand (e : Land) : List Land → List Land
  | [] => [e]
  | x :: r => if landBefore x e then x :: insertLand e r else e :: x :: r

/-- The landing list that an area holds, and the address after the area. -/
def State.readAreaTo (s : State) (c : Ctx) (a : Nat) : Option (List Land × Nat) :=
  match s.placeRead c 2 0 a 64 with
  | .error _ => none
  | .ok h =>
    let n (i : Nat) := (h.getD i 0).toNat
    if (h.drop 3).any (· ≠ 0) || 32 < n 0 || 64 < n 1 || 32 < n 2 then none
    else match s.readEntries c .a (n 0) (a + 64) with
      | none => none
      | some (la, a1) => match s.readEntries c .m (n 1) a1 with
        | none => none
        | some (lm, a2) => (s.readEntries c .v (n 2) a2).map fun r =>
          ((la ++ lm ++ r.1).foldl (fun l e => insertLand e l) [], r.2)

def State.readArea (s : State) (c : Ctx) (a : Nat) : Option (List Land) := (s.readAreaTo c a).map (·.1)

/-- The reads of a landing area refresh what the atomic units cache (R182); they meet a link in key hold (15 R362). -/
def State.usedArea (s : State) (c : Ctx) (a : Nat) : State :=
  s.usedRange c 2 0 a (((s.readAreaTo c a).map (·.2)).getD a - a)
def State.areaHeld (s : State) (c : Ctx) (a : Nat) : Bool :=
  s.rangeHeld c 2 0 a (max 64 (((s.readAreaTo c a).map (·.2)).getD a - a))

/-! ## Command records (R344) -/

/-- A command as a record of the image (R344; fences between records are not kept, DEDUCED, log 19). -/
def Cmd.bytes (groups : List Group) (c : Cmd) : List Byte :=
  leBytes 8 c.word.toNat ++ leBytes 8 ((groups.findIdx? fun g => g.id = c.group).getD 0) ++ leBytes 32 c.hd.toNat
    ++ leBytes 32 c.hs.toNat ++ c.par.toList.flatMap (fun x => leBytes 8 x.toNat) ++ leBytes 8 (c.poff.toNat + 2 ^ 17)
    ++ leBytes 8 0

/-- The kind of a posting word; `none` for any other word. -/
def postKind (w : W64) : Option CmdKind :=
  match decodeWord .a w with
  | .ok (.copy ..) => some .copy
  | .ok (.cred ..) => some .cred
  | .ok (.catom ..) => some .catom
  | .ok (.cclose ..) => some .close
  | _ => none

/-- A command record with its group's ordinal; `none` where it makes the image unreadable (R346). -/
def readCmd (ng : Nat) (l : List Byte) : Option (CmdKind × W64 × Nat × BitVec 256 × BitVec 256 × Vector W64 4 × BitVec 17) :=
  let w := BitVec.ofNat 64 (le64 l 0)
  let o := le64 l 8
  let x := le64 l 0x70
  match postKind w with
  | none => none
  | some k =>
    if ng ≤ o || bits 63 18 x ≠ 0 || !bit 17 x || le64 l 0x78 ≠ 0 then none
    else some (k, w, o, BitVec.ofNat 256 (leNat ((l.drop 16).take 32)), BitVec.ofNat 256 (leNat ((l.drop 48).take 32)),
      Vector.ofFn fun (i : Fin 4) => BitVec.ofNat 64 (le64 l (0x50 + 8 * i.val)), BitVec.ofNat 17 (bits 16 0 x))

/-! ## The header (R347) -/

/-- Words from an offset on. -/
def wordsAt (l : List Byte) (off n : Nat) : List W64 := (List.range n).map fun i => BitVec.ofNat 64 (le64 l (off + 8 * i))

/-- A graph slot of the slot record (12 R308). -/
def slotBytes (g : List W64) : List Byte :=
  match g with
  | [] => leBytes 8 (2 ^ 64 - 1) ++ List.replicate 128 0
  | _ => ((g.map fun x => leBytes 8 x.toNat).flatten).takeD 136 0

/-- A slot as a restore reads it; `none` where R247 refuses it. -/
def readSlot (l : List Byte) : Option (List W64) :=
  let h := BitVec.ofNat 64 (le64 l 0)
  if h = BitVec.allOnes 64 then some []
  else
    let img := wordsAt l 0 (ghNN h + 2)
    if (graphBad img).isSome then none else some img

/-- Bytes with a part replaced. -/
def patch (l : List Byte) (off : Nat) (bs : List Byte) : List Byte := l.take off ++ bs ++ l.drop (off + bs.length)

/-- The header a save writes, from the addresses its routine gave; IDENT is zero here (R347). -/
def Core.header (c : Core) (loctab landarea cmdarea : Nat) (ncmd : Nat) : List Byte :=
  let gs := c.cp.groups
  let earliest := ((c.cp.unobs.head?).map fun p => p.2.status.toNat).getD 0
  let gtab := (gs.map fun g => leBytes 8 (g.tq.toNat + g.closed.toNat * 16
    + ((g.fail.map fun f => f.2.status.toNat).getD 0) * 32)).flatten.takeD 128 0
  let toks := (List.range 9).flatMap fun i => leBytes 8 (c.tokens (BitVec.ofNat 4 (i + 1))).length
  let tstat := (List.range 3).flatMap fun i => ((c.tokens (BitVec.ofNat 4 (i + 7))).map (·.status)).takeD 64 0
  let qs := [DqId.fq, .dm, .dv, .bm, .bv, .ya]
  let cnt := (qs ++ [DqId.aq]).map fun q => BitVec.ofNat 8 (c.dq q).length
  let dqb := qs.flatMap fun q => ((c.dq q).flatMap fun e => leBytes 8 e.val.toNat).takeD 512 0
  let aqb := ((c.dq .aq).flatMap fun e => leBytes 8 e.val.toNat ++ leBytes 8 e.status.toNat).takeD 512 0
  let csrs := (c.r.csr.toList.flatMap fun x => leBytes 8 x.toNat).takeD 384 0
  let barw := match c.o.barw with
    | some w => leBytes 8 (2 ^ 63 + w.word.toNat) ++ leBytes 8 ((w.target.map (·.toNat)).getD 0)
    | none => leBytes 16 0
  leBytes 8 0 ++ leBytes 8 loctab ++ leBytes 8 landarea ++ leBytes 8 (cmdarea + ncmd * 2 ^ 48)
    ++ leBytes 8 (gs.length + (if c.cp.openGroup.isSome then 32 else 0) + earliest * 256) ++ barw ++ leBytes 8 0
    ++ gtab ++ toks ++ cnt ++ List.replicate (0x140 - 0x10F) 0 ++ csrs ++ tstat ++ dqb ++ aqb
    ++ c.q.ring.toList.flatMap Ring.bytes ++ c.q.bar.toList.flatMap Bar.bytes ++ List.replicate 64 0
    ++ c.cp.graph.toList.flatMap slotBytes ++ List.replicate 896 0

/-- No reserved bit is set in the CSR slots, but for IMGDESC's, which is ignored, or in the ring and barrier views (R6, R256,
R260, R330). -/
def slotsOk (h : List Byte) : Bool :=
  allCsrs.all (fun n => n = .imgdesc || BitVec.ofNat 64 (le64 h (0x140 + 8 * n.slot)) &&& ~~~n.mask = 0)
    && (List.range 16).all (fun i => let l := (h.drop (0x1180 + 32 * i)).take 32; (Ring.ofBytes l).view.toNat = leNat l)
    && (List.range 8).all fun i => let l := (h.drop (0x1380 + 8 * i)).take 8; (Bar.ofBytes l).view.toNat = leNat l

/-- A header that is readable (R346, R347): VER 1, DAMAGED clear, no reserved bit, at most 8 records. -/
def headerOk (h : List Byte) : Bool :=
  let w (o : Nat) := le64 h o
  let zero (a b : Nat) : Bool := ((h.drop a).take (b - a)).all (· = 0)
  bits 7 0 (w 0) = 1 && bits 63 10 (w 0) = 0
    && bits 63 48 (w 8) = 0 && bits 5 0 (w 8) = 0 && bits 63 48 (w 0x10) = 0 && bits 5 0 (w 0x10) = 0
    && bits 63 52 (w 0x18) = 0 && bits 5 0 (w 0x18) = 0 && bits 51 48 (w 0x18) ≤ 8
    && bits 4 0 (w 0x20) ≤ 16 && bits 7 6 (w 0x20) = 0 && bits 63 16 (w 0x20) = 0
    && bits 62 10 (w 0x28) = 0 && (bit 63 (w 0x28) || (w 0x28 = 0 && w 0x30 = 0)) && zero 0x38 0x40
    && (List.range 16).all (fun i => bits 63 13 (w (0x40 + 8 * i)) = 0)
    && (List.range 9).all (fun i => w (0xC0 + 8 * i) ≤ 64)
    && (List.range 6).all (fun q => (h.getD (0x108 + q) 0).toNat ≤ 64) && (h.getD 0x10E 0).toNat ≤ 32
    && zero 0x10F 0x140 && zero (0x140 + 37 * 8) 0x2C0
    && (List.range 32).all (fun i => bits 63 8 (w (0xF80 + 16 * i + 8)) = 0)
    && zero 0x13C0 0x1400 && zero 0x1C80 0x2000 && slotsOk h

/-! ## Saving (R339, R344, R345, R368) -/

/-- The three addresses that a routine put into the header: the location table, the landing area, the records. -/
def State.imgAreas (s : State) (h : Nat) : Option (Nat × Nat × Nat) :=
  match s.placeRead (s.coreCtx s.cur) 2 0 (h + 8) 24 with
  | .ok l => some (64 * bits 47 6 (le64 l 0), 64 * bits 47 6 (le64 l 8), 64 * bits 47 6 (le64 l 16))
  | .error _ => none

/-- The job's own entries of the landing list. -/
def Core.ownLand (c : Core) : List Land := c.land.filter fun e => !e.sup

/-- LSAVE's write; the list is left empty (R339). -/
def State.saveLanding (s : State) (h : Nat) : Option State :=
  match s.imgAreas h with
  | none => none
  | some (_, la, _) =>
    let l := s.core.ownLand.map fun e => { e with acts := e.acts.map LAct.viewStores }
    match s.placeWrite (s.coreCtx s.cur) 2 0 la (areaBytes l) with
    | .ok s1 => some (s1.onCore fun c => { c with land := c.land.filter (·.sup) })
    | .error _ => none

/-- The drains of a released core carry the bytes as they stand, and go on under the registers that the context held then
(R345, R348). -/
def State.freezeDrainsFor (s : State) (save : Option Nat) : State :=
  let ctx := s.coreCtx s.cur
  let bytes (b : Nat) := s.blockBytes s.cur b
  s.onCore fun c => { c with t := { c.t with
    drains := c.t.drains.map fun d =>
      if d.bytes.isSome then d
      else { d with bytes := some (bytes d.block), xlat := ctx.xlat, tenant := ctx.tenant, save := save } } }

/-- The same where nothing is saved: no IDENT waits for them. -/
def State.freezeDrains (s : State) : State := s.freezeDrainsFor none

/-- The blocks that the save under way made outgoing and that still drain. -/
def Core.outgoing (c : Core) : List Nat := (c.t.drains.filter (·.bytes.isNone)).map (·.block)

/-- IDENT of a save (R347). -/
def Core.ident (c : Core) : W64 :=
  BitVec.ofNat 64 (1 + (if c.hot then 256 else 0) + (if (c.csr .status).getLsbD 3 then 512 else 0)
    + (if c.t.damaged then 1024 else 0))

/-- YIELD's writes in the order of R368: landing area, records, header, and IDENT once the save's drains have finished. Where
one of them fails, those before it stay. -/
def State.saveImage (s : State) (h : Nat) : Except State State :=
  let ctx := s.coreCtx s.cur
  let put (s : State) (a : Nat) (bs : List Byte) : Except State State := match s.placeWrite ctx 2 0 a bs with
    | .ok t => .ok t
    | .error _ => .error s
  match s.imgAreas h with
  | none => .error s
  | some (lt, la, ca) => do
    let s1 ← if s.core.ownLand.isEmpty then .ok s else match s.saveLanding h with
      | some t => .ok t
      | none => .error s
    let c := s1.core
    let s2 ← put s1 ca (c.cp.cmds.flatMap (Cmd.bytes c.cp.groups))
    let s3 ← put s2 (h + 8) ((c.header lt la ca c.cp.cmds.length).drop 8)
    let no := c.t.saves
    let ident : IdentW :=
      { no := no, img := BitVec.ofNat 64 h, blocks := c.outgoing, word := c.ident, xlat := ctx.xlat, tenant := ctx.tenant }
    if c.outgoing.isEmpty then put s3.freezeDrains h (leBytes 8 c.ident.toNat)
    else .ok ((s3.freezeDrainsFor (some no)).onCore fun k =>
      { k with t := { k.t with idents := k.t.idents ++ [ident], saves := no + 1 } })

/-- The reads of the header's addresses refresh what the atomic units cache (R182). -/
def State.usedAreas (s : State) (h : Nat) : State := s.usedRange (s.coreCtx s.cur) 2 0 (h + 8) 24

/-- LSAVE's reads and writes meet a link in key hold (15 R362). -/
def State.landHeld (s : State) (h : Nat) : Bool :=
  let ctx := s.coreCtx s.cur
  s.rangeHeld ctx 2 0 (h + 8) 24 || match s.imgAreas h with
    | none => false
    | some (_, la, _) => s.writeHeld ctx 2 0 la (areaBytes s.core.ownLand).length

/-- Those of LREST. -/
def State.lrestHeld (s : State) (h : Nat) : Bool :=
  let ctx := s.coreCtx s.cur
  s.rangeHeld ctx 2 0 (h + 8) 24 || match s.imgAreas h with
    | none => false
    | some (_, la, _) => s.areaHeld ctx la

/-- Those of a save. -/
def State.saveHeld (s : State) (h : Nat) : Bool :=
  let ctx := s.coreCtx s.cur
  s.landHeld h || s.writeHeld ctx 2 0 h 0x2000 || match s.imgAreas h with
    | none => false
    | some (_, _, ca) => s.writeHeld ctx 2 0 ca (128 * s.core.cp.cmds.length)

/-! ## Loading (R344, R346) -/

/-- A command record is posted again: it belongs to the current region, and uses the registers of the image. (DEDUCED,
log 19.) A timed one is still to be translated, on the reissue tick (R344). -/
def Core.repost (c : Core) (groups : List Group)
    (r : CmdKind × W64 × Nat × BitVec 256 × BitVec 256 × Vector W64 4 × BitVec 17) : Core :=
  let (kind, w, o, hd, hs, par, poff) := r
  let base := c.newCmd kind (.cclose ⟨0, 0, 0, 0⟩ 0)
  let xf := bits 25 18 w.toNat
  let g := (groups.getD o { id := 0, tq := 0, closed := true, fail := none, after := none, fp := 0 }).id
  let acq := match kind, decodeWord .a w with
    | .catom, .ok (.catom _ _ _ a ..) => a
    | _, _ => false
  let cmd : Cmd := { base with
    word := w, poff := poff, group := g, hd := hd, hs := hs, par := par,
    graph := if (kind = .copy || kind = .cred) && 0x10 ≤ xf then vget c.cp.graph (xf - 0x10) [] else [],
    retime := (kind = .copy || kind = .cred) && w.getLsbD 10 }
  let cp := { c.cp with cmds := c.cp.cmds ++ [cmd], nextCmd := c.cp.nextCmd + 1,
                        facq := if acq then c.cp.nextCmd + 1 else c.cp.facq }
  let grp := if kind = .close then cp.groups.map fun x => if x.id = g then { x with after := some cmd.id } else x else cp.groups
  { c with cp := { cp with groups := grp },
           q := if kind = .catom then { c.q with dres := vset c.q.dres 6 (vget c.q.dres 6 0 + 1) } else c.q }

/-- The place a landing entry holds in a FIFO and in a queue. -/
def Queues.reserve (q : Queues) (e : Land) : Queues :=
  let q1 := if e.sq = 0 then q else { q with fres := vset q.fres e.sq.toNat (vget q.fres e.sq.toNat 0 + e.sn.toNat + 1) }
  e.acts.foldl (fun q a => match a with
    | .queue d _ => { q with dres := vset q.dres d.no (vget q.dres d.no 0 + 1) }
    | .atom .. => { q with dres := vset q.dres 6 (vget q.dres 6 0 + 1) }
    | _ => q) q1

/-- Distance to the next boundary when boundaries fall at the multiples of a divisor, at the end of tick t. -/
def nextBound (div t : Nat) : Nat := (div - t % div) % div

/-- The CSRs of an image; its IMGDESC is ignored (R347), and THROTTLE stays the view of NOTE at the job's cluster (13
R328). -/
def loadCsrs (old : Vector W64 37) (h : List Byte) : Vector W64 37 :=
  allCsrs.foldl (fun v n => if n = .imgdesc || n = .throttle then v
    else vset v n.slot (BitVec.ofNat 64 (le64 h (0x140 + 8 * n.slot)) &&& n.mask)) old

/-- The views of rings and barrier cells, without the changes that entries of the landing list have still to show (10 R258,
R262). -/
def Queues.hide (q : Queues) (l : List Land) : Queues :=
  (l.flatMap (·.acts)).foldl (fun q a => match a with
    | .ringView n d => { q with ringV := vset q.ringV n ((vget q.ringV n .reset).minus d) }
    | .barView n d => { q with barV := vset q.barV n ((vget q.barV n .reset).minus d) }
    | _ => q) q

/-- The queues of an image. -/
def loadQueues (h : List Byte) : Queues :=
  let tok (i t : Nat) : Tok := { status := if 7 ≤ i then h.getD (0x2C0 + 64 * (i - 7) + t) 0 else 0, faddr := 0, poff := none }
  let ent (q t : Nat) : QEnt :=
    if q < 6 then { val := BitVec.ofNat 64 (le64 h (0x380 + 512 * q + 8 * t)), status := 0, faddr := 0 }
    else { val := BitVec.ofNat 64 (le64 h (0xF80 + 16 * t)), status := h.getD (0xF80 + 16 * t + 8) 0, faddr := 0 }
  let rings := Vector.ofFn fun (i : Fin 16) => Ring.ofBytes (h.drop (0x1180 + 32 * i.val))
  let bars := Vector.ofFn fun (i : Fin 8) => Bar.ofBytes (h.drop (0x1380 + 8 * i.val))
  { fifo := Vector.ofFn fun (i : Fin 10) =>
      if i.val = 0 then [] else (List.range (le64 h (0xB8 + 8 * i.val))).map (tok i.val),
    fres := .replicate 10 0,
    dq := Vector.ofFn fun (q : Fin 7) => (List.range (h.getD (0x108 + q.val) 0).toNat).map (ent q.val),
    dres := .replicate 7 0, ring := rings, ringV := rings, bar := bars, barV := bars }

/-- The groups of an image, by their numbers in order. -/
def loadGroups (h : List Byte) (ids : List Nat) : List Group :=
  (List.range (bits 4 0 (le64 h 0x20))).map fun i =>
    let x := le64 h (0x40 + 8 * i)
    { id := ids.getD i 0, tq := BitVec.ofNat 4 (bits 3 0 x), closed := bit 4 x,
      fail := if bits 12 5 x = 0 then none
        else some (0, { status := BitVec.ofNat 8 (bits 12 5 x), faddr := 0, poff := none }),
      after := none, fp := 0 }

/-- Reference ticks that an MMA of some format word occupied the array from its issue on, told from its latency: K_eff times
the divisor, 24 ticks and, for a lent register, 4 more (R119, R17). Where both readings give a whole divisor, that of the
image is taken, then the shorter latency. (DEDUCED, log 70.) -/
def mmaSpan (fmt latency mdiv : Nat) (lent : Bool) : Nat :=
  let k := kEff fmt
  let spans := ((if lent then [28] else [24, 28]).filter (· ≤ latency)).map (latency - ·)
  match spans.find? (· = k * mdiv) with
  | some x => x
  | none => (spans.find? fun x => x % k = 0).getD (latency - 24)

/-- Reference ticks for which the array stays occupied by an MMA that has not landed (R119, R336). -/
def arrayLeft (l : List Land) (mdiv : Nat) : Nat :=
  l.foldl (fun n e => match e.acts with
    | [.mma dest fmt _ _] => max n (mmaSpan fmt.toNat (e.rem + e.age) mdiv (0x2C0000 ≤ dest) - e.age)
    | _ => n) 0

/-- Everything that ERET.img loads from the selected core's image, and the streams placed as the image's CSRs have them
at the end of its stop tick; `none` where the image is unreadable (R346). A location entry of a reserved number makes it so
when any of its bits is set; one that cannot be read counts as zero (R170). (DESIGN CHOICE, log 69.) -/
def State.loadImage (s : State) : Option State :=
  let ctx := s.coreCtx s.cur
  match s.core.img with
  | none => none
  | some h => match s.placeRead ctx 2 0 h 0x2000 with
    | .error _ => none
    | .ok hd =>
      let ncmd := bits 51 48 (le64 hd 0x18)
      let lt := 64 * bits 47 6 (le64 hd 8)
      let slots := (List.range 16).map fun i => readSlot ((hd.drop (0x1400 + 136 * i)).take 136)
      let ng := bits 4 0 (le64 hd 0x20)
      match s.readArea ctx (64 * bits 47 6 (le64 hd 0x10)), s.placeRead ctx 2 0 (64 * bits 47 6 (le64 hd 0x18)) (128 * ncmd) with
      | some land, .ok rb =>
        let recs := (List.range ncmd).map fun i => readCmd ng ((rb.drop (128 * i)).take 128)
        let resv := [(295, 25), (404, 108)].any fun p => match s.placeRead ctx 2 0 (lt + 8 * p.1) (8 * p.2) with
          | .ok l => l.any (· ≠ 0)
          | .error _ => false
        if !headerOk hd || resv || recs.any (·.isNone) || slots.any (·.isNone) then none
        else
          let c := s.core
          let csr := loadCsrs c.r.csr hd
          let fresh := ((List.range ng).map (c.cp.nextGroup + ·), c.cp.nextGroup + 16)
          let ids := (((c.job.bind (·.groups)).filter fun p => p.1.length = ng).map fun p => (p.1, max p.2 c.cp.nextGroup)).getD fresh
          let groups := loadGroups hd ids.1
          let q := land.foldl Queues.reserve ((loadQueues hd).hide land)
          let absent := (List.range 404).filter fun b => b < 295 || (320 ≤ b && bit 8 (le64 hd 0))
          let divs := (vget csr 22 0).toNat
          let tick := (vget csr 24 0).toNat
          let st (sh : Nat) (old : Stream) : Stream :=
            let d := if bits (sh + 3) sh divs = 0 then old.div else bits (sh + 3) sh divs
            { old with word := none, bound := nextBound d tick, hold := 0, div := d, newDiv := none, stalled := false }
          let fst := bits 15 8 (le64 hd 0x20)
          let bw := le64 hd 0x28
          let unobs : List (Nat × Fail) :=
            if fst = 0 then [] else [(0, { status := BitVec.ofNat 8 fst, faddr := 0, poff := none })]
          let barw : Option BarWait :=
            if bit 63 bw then some { word := BitVec.ofNat 10 bw, target := some (BitVec.ofNat 64 (le64 hd 0x30)) } else none
          let graph : Vector (List W64) 16 := Vector.ofFn fun (i : Fin 16) => ((slots.getD i.val none).getD [])
          let c1 : Core := { c with
            r := { c.r with csr := csr, pres := absent.map fun b => (b, Pres.absent) },
            q := q, land := c.land.filter (·.sup) ++ land, array := arrayLeft land (st 4 c.sm).div,
            sa := st 0 c.sa, sm := st 4 c.sm, sv := st 8 c.sv,
            ci := { bound := nextBound (max 1 (bits 15 12 divs)) tick, div := max 1 (bits 15 12 divs), newDiv := none },
            cp := { c.cp with cmds := [], groups := groups, nextGroup := ids.2, unobs := unobs,
                              graph := graph },
            o := { c.o with barw := barw, sbarw := none },
            t := { c.t with stops := [], pf := none, pulls := [], pullFail := [], bg := [], stuck := 0, sliced := false,
                            saved := (nextBound (st 0 c.sa).div tick, 0, false) },
            job := c.job.map fun j => { j with groups := none } }
          let c2 := (recs.filterMap id).foldl (fun c r => c.repost groups r) c1
          let read := ((s.usedRange ctx 2 0 h 0x2000).usedArea ctx (64 * bits 47 6 (le64 hd 0x10))).usedRange ctx 2 0
            (64 * bits 47 6 (le64 hd 0x18)) (128 * ncmd)
          let s1 := ((read.usedRange ctx 2 0 (lt + 8 * 295) 200).usedRange ctx 2 0 (lt + 8 * 404) 864).onCore fun _ => c2
          some s1
      | _, _ => none

/-- The reads of a restore meet a link in key hold (15 R362). -/
def State.loadHeld (s : State) : Bool :=
  let ctx := s.coreCtx s.cur
  match s.core.img with
  | none => false
  | some h => s.rangeHeld ctx 2 0 h 0x2000 || match s.placeRead ctx 2 0 h 0x2000 with
    | .error _ => false
    | .ok hd =>
      let lt := 64 * bits 47 6 (le64 hd 8)
      s.areaHeld ctx (64 * bits 47 6 (le64 hd 0x10)) || s.rangeHeld ctx 2 0 (64 * bits 47 6 (le64 hd 0x18)) (128 * bits 51 48 (le64 hd 0x18))
        || s.rangeHeld ctx 2 0 (lt + 8 * 295) 200 || s.rangeHeld ctx 2 0 (lt + 8 * 404) 864

/-! ## The end of a job by a fault of its routine (R335, R345, R357) -/

/-- The event that tells of a killed job, with its CTXID: that of the core where it has started, else as its save left it. -/
def State.killEvent (s : State) (n : Nat) (code : BitVec 8) (faddr : W64) : State :=
  let c := s.getCore n
  match c.job with
  | none => s
  | some j => s.faultEvent j.tenant code j.recId faddr
    (if j.phase = .placed || j.phase = .resuming then j.ctxid.setWidth 64 else c.csr .ctxid)

/-! ## Clocks of clusters (13 R320, R321) -/

def State.cluster (s : State) (n : Nat) : Cluster := vget s.cl n .reset
def State.setCluster (s : State) (n : Nat) (c : Cluster) : State := { s with cl := vset s.cl n c }

/-- The clock of a core's cluster stands. (DEDUCED, log 37.) -/
def State.clockStopped (s : State) (n : Nat) : Bool :=
  let c := s.cluster (clusterOf n)
  c.hold.isSome || c.stopped || c.parked || s.boot.flowLow

/-- A pending or waiting clock change begins its hold; another mark finds none (R320, R321). -/
def Cluster.mark (c : Cluster) : Cluster :=
  match c.req with
  | .pending k | .boundary k => { c with req := .none, hold := some k }
  | .none => c

/-- A job of a cluster ends: a clock change that waits for a job boundary begins its hold (R321). -/
def State.jobBoundary (s : State) (cluster : Nat) : State :=
  let k := s.cluster cluster
  match k.req with
  | .boundary _ => s.setCluster cluster k.mark
  | _ => s

/-- The cluster runs a job. -/
def State.runsIn (s : State) (cluster : Nat) : Bool := s.cores.any fun p => clusterOf p.1 = cluster && p.2.runs

/-- A job of a cluster is pre-empted: it has not ended, but the cluster may run none now (R321). -/
def State.jobLeft (s : State) (cluster : Nat) : State := if s.runsIn cluster then s else s.jobBoundary cluster

/-! ## The end of a job by its routine -/

/-- The selected core's job ends as YIELD.kill ends it where nothing is saved. -/
def State.killHere (s : State) (code : BitVec 8) (faddr : W64) : State :=
  ((s.killEvent s.cur code faddr).freezeDrains.onCore Core.kill).jobBoundary (clusterOf s.cur)

/-- The same for any core. -/
def State.killAt (s : State) (n : Nat) (code : BitVec 8) (faddr : W64) : State :=
  ((s.select n).killHere code faddr).select s.cur

end Sys2Proof.Machine
end

