-- ==== Sys2Proof/Machine/Walk.lean ====
section
/-! DEFINITION. What a started command has found out so far: its transform evaluated on the grains it has read, unit by
unit in walk order, and from that what it may still read, write and deliver (08 R194, R210; 09 R219, R221). -/

namespace Sys2Proof.Machine

/-! ## The command and its places -/

def Cmd.ctx (m : Cmd) (n : Nat) : Ctx :=
  { eng := engineOf n, tenant := m.tenant, xlat := m.xlat, core := n, die := coreDie n, buf := true }

/-- Space and window of the destination. -/
def Cmd.dSpace (m : Cmd) : Nat := hSpace m.hd
def Cmd.dWin (m : Cmd) : Nat := hWin m.hd

/-- Window of a space that the command reads. -/
def Cmd.sWin (m : Cmd) : Nat := hWin m.hs

/-- Byte address of a CATOM. -/
def Cmd.atomAt (m : Cmd) : Nat := catomAddr m.hd (vget m.par 0 0)

/-- A command that has just started. -/
def Cmd.fresh (m : Cmd) : Active :=
  { cmd := m, got := [], past := [], spare := [], pins := [], done := [], fail := none, race := none, took := [], ahead := [], applied := false, rfDone := false, baDone := false }

/-- What a Read move took for a byte. -/
def Active.byte (a : Active) : Source := fun space addr =>
  (a.got.find? fun g => g.space = space && g.grain = addr / 64).bind fun g => g.got[addr % 64]?

/-- A Read move has taken a grain. -/
def Active.has (a : Active) (p : Nat × Nat) : Bool := a.got.any fun g => g.space = p.1 && g.grain = p.2

/-- Home and number of a grain that an access would find now; none where it fails. -/
def State.homeOf (s : State) (m : Cmd) (n : Nat) (acc : Acc) (space win g : Nat) : Option (Home × Nat) :=
  let x := s.grainOf (m.ctx n) acc space win g none
  if x.stat.all (· ≠ 0) then none else some (x.home, x.num)

/-- Spaces whose addresses may name the same grains. -/
def spaceClass (space : Nat) : Nat := if space ≤ 1 then 0 else if space = 3 then 2 else 1

/-- The command may read what it writes itself: then its reads and writes of a grain keep walk order (R194 rule 2). -/
def Cmd.mayAlias (m : Cmd) : Bool :=
  spaceClass (hSpace m.hs) = spaceClass m.dSpace || spaceClass m.dSpace = 0 || spaceClass (hSpace m.hs) = 0


/-! ## Evaluation in walk order -/

/-- A byte that the command wrote earlier in its walk: home, grain, offset. -/
abbrev Own := List ((Home × Nat × Nat) × Byte)

/-- The bytes at hand with the command's own earlier writes over them; those of grains that an undecided earlier unit may
write, `opn`, are not at hand. -/
def overlay (key : Nat → Nat → Option (Home × Nat)) (own : Own) (opn : List (Home × Nat)) (src : Source) : Source :=
  fun space addr =>
    if own.isEmpty && opn.isEmpty then src space addr
    else match key space (addr / 64) with
      | none => src space addr
      | some h => match own.find? fun p => p.1 = (h.1, h.2, addr % 64) with
        | some p => some (0, p.2)
        | none => if opn.contains h then none else src space addr

/-- The first address of a piece outside the destination's space, or at a local address that may not be written
(R218, R222). -/
def badDest (space : Nat) (a : Int) (n : Nat) : Bool :=
  a < 0 || decide ((2 ^ spaceBits space : Nat) < a + (n : Int))
    || (space = 0 && (List.range n).any fun i => !mapped (a.toNat + i) || viewAddr (a.toNat + i) || zAddr (a.toNat + i))

/-- Addresses at which the elements of a piece begin; one that lost bytes to a race is one element. -/
def Piece.starts (p : Piece) : List Int :=
  if p.race.isSome then ((p.writes.map (·.1) ++ p.raced).min?).toList else p.writes.map (·.1)

/-- A piece whose destination is legal and aligned, or its failure. -/
def checkPiece (x : XArgs) (p : Piece) : Ev Piece :=
  let space := hSpace x.hd
  match p.starts.find? (misplaced x.hd) with
  | some a => .err 0x07 (BitVec.ofInt 64 a)
  | none =>
    match ((p.writes.map fun w => (w.1, w.2.length)) ++ (p.red.map fun w => (w.1, x.dSz))).find? fun w => badDest space w.1 w.2 with
    | some w => .err (spaceFault space) (BitVec.ofInt 64 w.1)
    | none => .val p

/-- Later writes come first in the list. -/
def ownBytes (key : Nat → Nat → Option (Home × Nat)) (space : Nat) (a : Int) (bs : List Byte) : Own :=
  bs.zipIdx.filterMap fun p =>
    let x := a.toNat + p.2
    (key space (x / 64)).map fun k => ((k.1, k.2, x % 64), p.1)

def spanGrains (a : Int) (n : Nat) : List Nat :=
  if a < 0 || n = 0 then [] else (List.range ((a.toNat + n - 1) / 64 + 1 - a.toNat / 64)).map (a.toNat / 64 + ·)

/-- Grains of local storage in which a unit may write residuals back. -/
def Unit'.residGrains (u : Unit') : List Nat := (u.resid.flatMap fun r => spanGrains (r.1 : Nat) r.2).eraseDups

/-- Destination grains a unit touches, or may touch. -/
def unitGrains (src : Source) (esz : Nat) (u : Unit') : Ev Piece → List Nat
  | .val p => ((p.writes.flatMap fun w => spanGrains w.1 w.2.length) ++ (p.red.flatMap fun w => spanGrains w.1 esz)).eraseDups
  | _ => ((u.dest src).flatMap fun d => spanGrains d.1 d.2).eraseDups

/-- Units in walk order, each with its result and its destination grains. Where own writes may be read, a grain that an
undecided unit may write is not at hand for the units after it. -/
def evalGo (key put : Nat → Nat → Option (Home × Nat)) (src : Source) (selfRead : Bool) (x : XArgs) : Own → List (Home × Nat) → List Unit' → List (Unit' × Ev Piece × List Nat)
  | _, _, [] => []
  | own, opn, u :: us =>
    let from' := overlay key own opn src
    let space := hSpace x.hd
    let r := (u.run from').bind (checkPiece x)
    let gs := unitGrains from' x.dSz u r
    let next : Own × List (Home × Nat) := match selfRead, r with
      | true, .val p =>
        (p.writes.foldl (fun o w => ownBytes put space w.1 w.2 ++ o)
          (p.resid.foldl (fun o w => ownBytes put 0 (w.1 : Nat) w.2 ++ o) own), opn)
      | true, .need _ =>
        let l := gs.filterMap (put space) ++ u.residGrains.filterMap (put 0)
        (own.filter fun p => !l.contains (p.1.1, p.1.2.1), opn ++ l)
      | _, _ => (own, opn)
    (u, r, gs) :: evalGo key put src selfRead x next.1 next.2 us

/-- A unit of a walk with its number, result and destination grains, in the destination's own space. -/
structure Seen where
  idx : Nat
  unit : Unit'
  res : Ev Piece
  grains : List Nat

/-- The walk of a started command as far as it is known. -/
def State.seen (s : State) (n : Nat) (a : Active) : List Seen :=
  let m := a.cmd
  if m.kind = .catom || m.kind = .close then []
  else
    let x := m.args
    let key (space g : Nat) : Option (Home × Nat) := s.homeOf m n .read space m.sWin g
    let put (space g : Nat) : Option (Home × Nat) := s.homeOf m n .write space m.dWin g
    ((evalGo key put a.byte m.mayAlias x [] [] (x.units m.xf m.red)).zipIdx).map
      fun p => { idx := p.2, unit := p.1.1, res := p.1.2.1, grains := p.1.2.2 }

/-! ## Where a walk ends (R219, R210) -/

def Seen.undecided (u : Seen) : Bool := match u.res with
  | .need _ => true
  | _ => false

/-- The destination bytes, as pieces, that would have taken a byte of a racing grain: all of the unit's where a value was made
of it, else those that it was moved to (R210). -/
def Seen.racedAt (u : Seen) (src : Source) : List (Int × Nat) := match u.res with
  | .err x _ => if x = 0x0B then u.unit.dest src else []
  | .val p => p.raced.map fun a => (a, 1)
  | _ => []

def Seen.failed (u : Seen) : Bool := match u.res with
  | .err x _ => x ≠ 0x0B
  | _ => false

/-- A block that QUANT wrote becomes visible as a single event (03 R77). -/
def Cmd.wholeBlocks (m : Cmd) : Bool := m.xf = 0x04 || (0x10 ≤ m.xf && m.args.outOp = 20)

/-- Where the walk stops, at its first failing element, of a read or of a write: the unit, and how many of its grains come
before that element. A quantised block is written not at all where one of its grains fails. (DESIGN CHOICE, log 73.) -/
def stopAt (w : List Seen) (a : Active) : Nat × Nat :=
  let r := ((w.find? Seen.failed).map (·.idx)).getD w.length
  match a.fail with
  | some f => if f.1.1 < r then (f.1.1, if a.cmd.wholeBlocks then 0 else f.1.2) else (r, 0)
  | none => (r, 0)

/-- The units before the one at which the walk stops. -/
def unitsDue (w : List Seen) (a : Active) : List Seen := w.filter fun u => u.idx < (stopAt w a).1

/-- Grains of the unit at which the walk stops. -/
def stopGrains (w : List Seen) (a : Active) : List Nat :=
  ((w.find? fun u => u.idx = (stopAt w a).1).map (·.grains)).getD []

/-- No unit before the stop is undecided. -/
def decided (w : List Seen) (a : Active) : Bool := (unitsDue w a).all fun u => !u.undecided

/-- What a command took for a byte as far as races go: any other failure counts as a byte of zeros. -/
def Active.raceByte (a : Active) : Source := fun space addr =>
  (a.byte space addr).map fun p => if p.1 = 0x0B then p else (0, p.2)

/-- The race of a unit: the address of the racing grain. -/
def Ev.race : Ev Piece → Option W64
  | .err x y => if x = 0x0B then some y else none
  | .val p => p.race
  | .need _ => none

/-- The first racing grain that the command read, in walk order, whatever else failed (08 R210): of the first unit that takes a
byte of one, or one that no unit takes a byte of, last. -/
def readRace (w : List Seen) (a : Active) : Option ((Nat × Nat) × W64) :=
  (a.got.find? fun g => g.got.any fun p => p.1 = 0x0B).map fun g =>
    (w.findSome? fun u => ((u.unit.run a.raceByte).race).map fun y => ((u.idx, 0), y)).getD
      ((w.length, 0), BitVec.ofNat 64 (64 * g.grain))

/-- The place x of a walk comes before y. -/
def walkBefore (x y : Nat × Nat) : Bool := x.1 < y.1 || (x.1 = y.1 && x.2 < y.2)

/-- The command's race, of a read or of a write: the first racing grain in walk order (08 R210). -/
def walkRace (w : List Seen) (a : Active) : Option ((Nat × Nat) × W64) :=
  match readRace w a, a.race with
  | some x, some y => some (if walkBefore y.1 x.1 then y else x)
  | x, y => x.or y

/-- The command's failure: RACE where it met one, else that of its first failing element in walk order (08 R210, R219). -/
def walkFail (w : List Seen) (a : Active) : Option ((Nat × Nat) × Fail) :=
  match walkRace w a with
  | some r => some (r.1, { status := 0x0B, faddr := r.2, poff := some a.cmd.poff })
  | none =>
    let r := (w.find? Seen.failed).bind fun u => match u.res with
      | .err x y => some ((u.idx, 0), ({ status := x, faddr := y, poff := some a.cmd.poff } : Fail))
      | _ => none
    match r, a.fail with
    | some x, some y => some (if y.1.1 < x.1.1 then y else x)
    | x, y => x.or y

/-- Grains that the units before the stop touch, in walk order, but for those at or after the failing element: those that
receive bytes, or, where `raced` asks for them, those that would have received a byte of a racing grain. A grain that a whole
quantised block shares with the failing one takes that block's bytes. (DESIGN CHOICE, log 73.) -/
def dueGrains (w : List Seen) (a : Active) (raced : Bool) : List Nat :=
  let k := (stopAt w a).2
  let stop := stopGrains w a
  let gs (u : Seen) : List Nat := if raced then (u.racedAt a.byte).flatMap fun d => spanGrains d.1 d.2
    else match u.res with
      | .err .. => []
      | _ => u.grains
  (((unitsDue w a).flatMap gs ++ if raced then [] else stop.take k).eraseDups).filter fun g =>
    a.cmd.wholeBlocks || !(stop.drop k).contains g

/-- Grains that the command performs; a grain of device memory that would receive a racing byte stays unwritten
(R210). -/
def required (w : List Seen) (a : Active) : List Nat :=
  if a.cmd.dSpace ≤ 1 then dueGrains w a false
  else (dueGrains w a false).filter fun g => !(dueGrains w a true).contains g

/-- Every unit that touches a grain before the stop is decided. -/
def grainReady (w : List Seen) (a : Active) (g : Nat) : Bool :=
  (unitsDue w a).all fun u => !(u.grains.contains g && u.undecided)

/-- Units below this number give a grain its bytes. -/
def grainEnd (w : List Seen) (a : Active) (g : Nat) : Nat :=
  let p := stopAt w a
  if ((stopGrains w a).take p.2).contains g then p.1 + 1 else p.1

/-- Bytes of a grain that units below a number write, by offset; later units replace earlier ones. -/
def grainBytes (w : List Seen) (k g : Nat) : List (Nat × Byte) :=
  let ws := (w.filter fun u => u.idx < k && u.grains.contains g).flatMap fun u => match u.res with
    | .val p => p.writes.flatMap fun x => (x.2.zipIdx.map fun b => (x.1.toNat + b.2, b.1)).filter fun b => b.1 / 64 = g
    | _ => []
  (List.range 64).filterMap fun i => ((ws.reverse.find? fun b => b.1 = 64 * g + i).map fun b => (i, b.2))

/-- The contributions of a reduction to a grain, in walk order. -/
def grainReds (w : List Seen) (k g : Nat) : List (Nat × X) :=
  (w.filter fun u => u.idx < k && u.grains.contains g).flatMap fun u => match u.res with
    | .val p => (p.red.filter fun x => x.1.toNat / 64 = g).map fun x => (x.1.toNat, x.2)
    | _ => []

/-- The bytes that the command writes to a grain. -/
def dueBytes (w : List Seen) (a : Active) (g : Nat) : List (Nat × Byte) := grainBytes w (grainEnd w a g) g

/-- The first element in walk order with a byte in a grain that meets a condition: its unit, with the place of the grain
in it, its address, and the byte's offset in the grain. -/
def firstElem (w : List Seen) (esz g : Nat) (bad : Nat → Bool) : Option ((Nat × Nat) × Nat × Nat) :=
  (w.filter fun u => u.grains.contains g).findSome? fun u => match u.res with
    | .val p =>
      ((p.writes.map fun x => (x.1.toNat, x.2.length)) ++ (p.red.map fun x => (x.1.toNat, esz))).findSome? fun x =>
        ((List.range x.2).find? fun i => (x.1 + i) / 64 = g && bad ((x.1 + i) % 64)).map fun i =>
          ((u.idx, (u.grains.findIdx? (· = g)).getD 0), x.1, (x.1 + i) % 64)
    | _ => none

/-- Residual bytes that the units before the stop write back, each with its unit and element. -/
def residBytes (w : List Seen) (a : Active) : List ((Nat × Nat) × Nat × Byte) :=
  (unitsDue w a).flatMap fun u => match u.res with
    | .val p => p.resid.flatMap fun x => x.2.zipIdx.map fun b => ((u.idx, x.1), x.1 + b.2, b.1)
    | _ => []

def residDue (w : List Seen) (a : Active) : List Nat := ((residBytes w a).map (·.2.1 / 64)).eraseDups

/-- Grains of local storage in which units before the stop that are not decided yet may write residuals back. -/
def residOpen (w : List Seen) (a : Active) : List Nat :=
  ((unitsDue w a).filter (·.undecided)).flatMap fun u => u.unit.residGrains

/-- Number of bytes that a command delivers (10 R261): those its units write to the destination, each write counted, also one
that a later row of a SCATTER overwrites, and no residuals. (DESIGN CHOICE, log 74.) -/
def walkCount (w : List Seen) : Nat :=
  w.foldl (fun n u => match u.res with
    | .val p => p.writes.foldl (fun n x => n + x.2.length) n
    | _ => n) 0

/-- The flags of the units that a command has evaluated (03 R78); of a failing command also of those beyond its failing
element. (DESIGN CHOICE, log 59.) -/
def walkFp (w : List Seen) : FpFlags :=
  orFlags (w.map fun u => match u.res with
    | .val p => p.fp
    | _ => 0)

/-- Grains still to be read for units before the stop. -/
def walkNeeds (w : List Seen) (a : Active) : List (Nat × Nat) :=
  (((unitsDue w a).flatMap fun u => match u.res with
    | .need l => l
    | _ => []).eraseDups).filter fun p => !a.has p

/-! ## What is still to come of a command -/

/-- Destination grains still to be merged, delivered or reduced, or that may be. -/
def leftGrains (w : List Seen) (a : Active) : List Nat :=
  (((unitsDue w a).flatMap (·.grains) ++ (stopGrains w a).take (stopAt w a).2).eraseDups).filter fun g =>
    !a.done.contains (2 * g)

/-- Writes of a command that no Merge or Deliver move has made yet: homes and grains (R194 rule 2). -/
def State.writesLeft (s : State) (n : Nat) (a : Active) : List (Home × Nat) :=
  let m := a.cmd
  if m.kind = .catom || m.kind = .close then []
  else
    let w := s.seen n a
    let res := ((residDue w a ++ residOpen w a).eraseDups).filter fun g => !a.done.contains (2 * g + 1)
    ((leftGrains w a).filterMap fun g => s.homeOf m n (if m.red then .reduce else .write) m.dSpace m.dWin g)
      ++ res.filterMap fun g => s.homeOf m n .write 0 0 g

/-- The number under which a command keeps the walk for a grain of space 2, or the read of a window's entry. -/
def tookKey (space win g : Nat) : Nat := if space = 4 then 2 * win + 1 else 2 * g

/-- A result may serve a command's translation of a grain (12 R301). -/
def Cmd.served (m : Cmd) (n space win g : Nat) (t : TlbEnt) : Bool :=
  let c := m.ctx n
  t.serves c (space = 4) (c.reg (if space = 4 then 4 else 3)) (if space = 4 then win else 64 * g)

/-- The result that a command holds for a grain: of a timed one's source that made at its issue (09 R233), else one that a move
took for it (R301). -/
def Active.holds (a : Active) (n space win g : Nat) : Option TlbEnt :=
  ((if space = 2 then a.cmd.walks else []) ++ (a.took.filter fun p => p.1 = tookKey space win g).map (·.2)).find? (a.cmd.served n space win g)

/-- The walk under a number that moves have begun and not finished. -/
def Active.under (a : Active) (key : Nat) : Option TlbEnt := (a.took.find? fun p => p.1 = key && p.2.left ≠ 0).map (·.2)

/-- Grains of the table entries that the translation of a grain has still to read, where the command holds no result for it
(08 R186; 12 R295, R306). -/
def State.entriesOf (s : State) (n : Nat) (a : Active) (space win g : Nat) : List Nat :=
  let c := a.cmd.ctx n
  if (space ≠ 2 && space ≠ 4) || (a.holds n space win g).isSome then []
  else match a.under (tookKey space win g) with
    | some t => s.walkPath c (if space = 4 then 0 else 64 * g) 4 t
    | none => s.pathOf c space win g none

/-- Grains of table entries that a command has still to read for accesses that it has still to make. -/
def State.entriesLeft (s : State) (n : Nat) (a : Active) : List Nat :=
  let m := a.cmd
  match m.kind with
  | .close => []
  | .catom => if a.got.isEmpty then s.entriesOf n a m.dSpace m.dWin (m.atomAt / 64) else []
  | _ =>
    let w := s.seen n a
    ((walkNeeds w a).filter fun p => !a.past.any fun g => g.space = p.1 && g.grain = p.2).flatMap (fun p =>
        s.entriesOf n a p.1 m.sWin p.2)
      ++ if m.dSpace ≤ 1 then [] else (leftGrains w a).flatMap fun g => s.entriesOf n a m.dSpace m.dWin g

/-- Reads of a command that no Read move has made yet and that its walk, as far as it is known, asks for; those of table
entries among them, as long as it holds no result (R186, R194 rule 2). (DEDUCED, log 15.) -/
def State.readsLeft (s : State) (n : Nat) (a : Active) : List (Home × Nat) :=
  let m := a.cmd
  let data := if m.kind = .catom || m.kind = .close then []
    else (walkNeeds (s.seen n a) a).filterMap fun p => if a.past.any (fun g => g.space = p.1 && g.grain = p.2) then none
      else s.homeOf m n .read p.1 m.sWin p.2
  data ++ (s.entriesLeft n a).map fun k => (.dev, k)

/-- Grains that a command may come to read, as what it reads may tell: none of those it has read or that it asks for now. -/
def State.mayRead (s : State) (n : Nat) (a : Active) : List (Nat × Nat) :=
  let m := a.cmd
  let w := s.seen n a
  if m.kind = .catom || m.kind = .close || decided w a then []
  else
    let x := m.args
    let needs := walkNeeds w a
    (((((x.touches m.xf ++ x.dataReads m.xf).filter fun t => !t.store).flatMap fun t =>
      (spanGrains t.addr t.len).map fun g => (t.space, g)).eraseDups).filter fun p => !a.has p && !needs.contains p)

/-- One more than the number of the last unit that touches a grain. -/
def lastUnit (w : List Seen) (g : Nat) : Nat := (w.filter fun u => u.grains.contains g).foldl (fun k u => max k (u.idx + 1)) 0

/-- Grains that come before one in a walk. -/
def earlierGrains (w : List Seen) (g : Nat) : List Nat :=
  let k := lastUnit w g
  (((w.filter fun u => u.idx + 1 < k).flatMap (·.grains)
    ++ ((w.filter fun u => u.idx + 1 = k).flatMap (·.grains)).takeWhile (· ≠ g)).eraseDups).filter (· ≠ g)

/-- A unit of the command's walk before one that writes at a home, number `k - 1`, still has to read a grain there: the write
waits (R194 rule 2). -/
def State.readFirst (s : State) (n : Nat) (a : Active) (w : List Seen) (k : Nat) (h : Home × Nat) : Bool :=
  let m := a.cmd
  m.mayAlias && (unitsDue w a).any fun u => u.idx + 1 < k && match u.res with
    | .need l => l.any fun p => !a.has p && !(a.past.any fun x => x.space = p.1 && x.grain = p.2)
        && s.homeOf m n .read p.1 m.sWin p.2 = some h
    | _ => false

/-- Atomics of a command still to be performed. -/
def State.atomicsLeft (s : State) (n : Nat) (a : Active) : List (Home × Nat) :=
  let m := a.cmd
  if m.kind = .catom then
    if a.got.isEmpty then ((s.homeOf m n .atomic m.dSpace m.dWin (m.atomAt / 64)).map fun h => [h]).getD [] else []
  else if m.red then s.writesLeft n a
  else []

/-- The commands of a core's stream posted before one, started or not. -/
def Core.before (c : Core) (id : Nat) : List Active :=
  (c.cp.act.filter fun a => a.cmd.id < id) ++ ((c.cp.cmds.filter fun m => m.id < id).map Cmd.fresh)

/-- A grain on which an earlier command of the stream still has to write. -/
def State.writeBefore (s : State) (n id : Nat) (h : Home × Nat) : Bool :=
  ((s.getCore n).before id).any fun a => (s.writesLeft n a).contains h

/-- A grain on which an earlier command of the stream still has to read. -/
def State.readBefore (s : State) (n id : Nat) (h : Home × Nat) : Bool :=
  ((s.getCore n).before id).any fun a => (s.readsLeft n a).contains h

/-- A grain on which an earlier command still has to perform an atomic. -/
def State.atomicBefore (s : State) (n id : Nat) (h : Home × Nat) : Bool :=
  ((s.getCore n).before id).any fun a => (s.atomicsLeft n a).contains h

/-! ## Performed (R187), and what waits for it -/

/-- The reads and atomics of a started command are performed. -/
def State.readsDone (s : State) (n : Nat) (a : Active) : Bool :=
  match a.cmd.kind with
  | .close => true
  | .catom => !a.got.isEmpty
  | _ => decided (s.seen n a) a && (!a.cmd.red || (required (s.seen n a) a).all fun g => a.done.contains (2 * g))

/-- Its reads, writes and atomics are performed; deliveries are no part of it (R187). -/
def State.performed (s : State) (n : Nat) (a : Active) : Bool :=
  s.readsDone n a && !((s.getCore n).cp.cb.any fun e => e.parts.any fun p => p.cmd = a.cmd.id)
    && (a.cmd.dSpace ≤ 1 || (required (s.seen n a) a).all fun g => a.done.contains (2 * g))

/-- A command of the stream numbered below `k` is not performed. -/
def State.unperformed (s : State) (n k : Nat) : Bool :=
  let c := s.getCore n
  c.cp.cmds.any (fun m => m.id < k && m.kind ≠ .close) || c.cp.act.any fun a => a.cmd.id < k && !s.performed n a

/-- A group that may complete: closed, its commands performed and delivered, a place for its token (R198, R239). -/
def State.groupReady (s : State) (n : Nat) (g : Group) : Bool :=
  let c := s.getCore n
  g.closed && !(c.cp.cmds.any fun m => m.group = g.id) && !(c.cp.act.any fun a => a.cmd.group = g.id)
    && (match g.after with
      | some k => !s.unperformed n k
      | none => true)
    && (g.tq = 0 || ((c.tokens g.tq).length + vget c.q.fres g.tq.toNat 0 < 64 && s.replayOk n 4 g.id))

end Sys2Proof.Machine
end

