-- ==== Sys2Proof/Machine/System.lean ====
section
/-! DEFINITION. COPY and CRED, and the words of format AS: CSR access, traps' returns, context images, presence, divisors, clock
marks, translation, and LAUNCH (09 R215, R220, R222, R233; 11 R285; 12 R302; 13 R315 to R320; 14 R338 to R349). -/

namespace Sys2Proof.Machine

/-! ## COPY and CRED (09 R215, R220, R222, R233) -/

/-- A translation that a timed command makes cannot be made now: an entry that a walk reads, or the header of its packed source,
lies behind a link in key hold (15 R362), or an earlier command of the stream has still to write it (08 R194 rule 2). -/
def State.timedBlocked (s : State) (x : XArgs) (xf id : Nat) : Bool :=
  let c := s.postCtx s.cur
  let bars (k : Nat) : Bool := s.diesHeld c.die (dieOf (64 * k)) || s.writeBefore s.cur id (.dev, k)
  (s.timedFresh x xf).any (fun v => (s.walkPath c v 4 (c.walkStart v)).any bars)
    || (x.timedHead xf).any fun g => let y := s.timedGrain x g; y.held || s.writeBefore s.cur id (y.home, y.num)

/-- The command that a word posts. -/
def Core.copyCmd (c : Core) (i : Instr) (kind : CmdKind) (hd hs : BitVec 4) (p : BitVec 6) (xf : BitVec 8) : Cmd :=
  { c.newCmd kind i with
    hd := c.hreg hd, hs := c.hreg hs, par := Vector.ofFn fun (k : Fin 4) => c.sreg (p + BitVec.ofNat 6 k.val),
    graph := if 0x10 ≤ xf.toNat then vget c.cp.graph (xf.toNat - 0x10) [] else [] }

/-- What the word asks before it issues. -/
def State.copyPlan (s : State) (cmd : Cmd) (ctl : Ctl) (hd hs : BitVec 4) (p : BitVec 6) (xf : BitVec 8) (flags : BitVec 6) : Plan :=
  let c := s.core
  let n := xf.toNat
  let x := cmd.args
  let f := s.copyFault x n hs flags cmd.red
  let src : Ranges := if f.isSome then []
    else ((x.touches n ++ x.dataReads n).filter fun t => !t.store && t.space = 0).map fun t => (t.addr.toNat, t.len)
  { st := .a, ctl := ctl, decode := if n = 0x0F || 0x20 ≤ n then some (flt 0x0E) else none, wait := c.postWaits,
    regs := hRange hd ++ hRange hs ++ (List.range 4).flatMap (fun k => c.sRange (p + BitVec.ofNat 6 k)), fault := f,
    rdCopy := src, lat := c.latA 1 }

/-- The word has reached the point at which it translates its source's pages (R222 step 1, R233): it would issue now, but for
what these and the steps after them find. -/
def State.translatesNow (s : State) (cmd : Cmd) (plan : Plan) (n : Nat) (hs : BitVec 4) (flags : BitVec 6) : Bool :=
  flagTM flags && transformOk cmd.args n hs flags cmd.red && timedForm cmd.args n flags && (verdict s.core { plan with fault := none }).goes

/-- COPY and CRED. The pages of a timed command are translated at its issue, while the core stands (R233). -/
def postCopy (i : Instr) (kind : CmdKind) (ctl : Ctl) (hd hs : BitVec 4) (p : BitVec 6) (xf : BitVec 8) (tq : BitVec 4)
    (flags : BitVec 6) (s : State) : Out :=
  let n := xf.toNat
  let cmd := s.core.copyCmd i kind hd hs p xf
  let x := cmd.args
  let plan := s.copyPlan cmd ctl hd hs p xf flags
  let now := s.translatesNow cmd plan n hs flags
  if now && s.timedBlocked x n s.core.cp.nextCmd then .next s
  else issue plan (if now then s.noteTimed x n else s) fun t => t.onCore fun c1 =>
    c1.post (if flagTM flags then { cmd with due := some (s.timedDue x n), walks := s.timedWalks x n } else cmd)
      (if flagCL flags then some tq else none)

def execCopy (c : Ctl) (hd hs : BitVec 4) (p : BitVec 6) (xf : BitVec 8) (tq : BitVec 4) (flags : BitVec 6)
    (aux : BitVec 8) (s : State) : Out :=
  postCopy (.copy c hd hs p xf tq flags aux) .copy c hd hs p xf tq flags s

def execCred (c : Ctl) (hd hs : BitVec 4) (p : BitVec 6) (xf : BitVec 8) (tq : BitVec 4) (flags : BitVec 6)
    (aux : BitVec 8) (s : State) : Out :=
  postCopy (.cred c hd hs p xf tq flags aux) .cred c hd hs p xf tq flags s

/-- The selected core's timing domain is held for the translations of a timed COPY that cannot be made now (R233). -/
def State.timedHold (s : State) : Bool :=
  match s.core.sa.word.map (decodeWord .a) with
  | some (.ok (.copy ctl hd hs p xf tq flags aux)) =>
    let cmd := s.core.copyCmd (.copy ctl hd hs p xf tq flags aux) .copy hd hs p xf
    s.translatesNow cmd (s.copyPlan cmd ctl hd hs p xf flags) xf.toNat hs flags && s.timedBlocked cmd.args xf.toNat s.core.cp.nextCmd
  | _ => false

/-- A timed command of a restored image is translated anew at its reissue, while the core stands, and its deadline is counted
from this tick (14 R344). -/
def State.reissue (s : State) (m : Cmd) : State :=
  if s.timedBlocked m.args m.xf m.id then s
  else
    let m' : Cmd := { m with retime := false, due := some (s.timedDue m.args m.xf), walks := s.timedWalks m.args m.xf }
    (s.noteTimed m.args m.xf).onCore fun c => { c with cp := { c.cp with
      cmds := c.cp.cmds.map fun x => if x.id = m.id then m' else x } }

/-! ## CSR words (R349) -/

/-- The scalar that takes an old value: s0 takes none, a supervisor's s56–s63 are the shadow scalars (R335). -/
def Core.oldTo (c : Core) (d : BitVec 6) : Option (Bool × Nat) :=
  if d = 0 then none else if c.inSup && 56 ≤ d.toNat then some (true, d.toNat - 56) else some (false, d.toNat)

/-- PRIVILEGED for a CSR that user mode may not read, or not write (R330, R349). -/
def Core.csrFault (c : Core) (ok : Bool) : Option Flt := if ok then none else c.privileged

def execCsrr (ctl : Ctl) (d : BitVec 6) (n : Csr) (s : State) : Out :=
  let c := s.core
  issue { st := .a, ctl := ctl, decode := c.csrFault n.userRead, dst := c.sRange d, lat := c.latA 1,
          acts := c.sWrite d (c.csr n) } s

/-- A word that changes a CSR: the change and the old value land together (R349). (DEDUCED, log 39.) -/
def csrWord (ctl : Ctl) (op : CsrOp) (d a : BitVec 6) (n : Csr) (s : State) : Out :=
  let c := s.core
  issue { st := .a, ctl := ctl, decode := c.csrFault n.userWrite, regs := c.sRange a, dst := c.sRange d, lat := c.latA 1,
          acts := [.csr n op (c.sreg a) (c.oldTo d)] } s

def execCsrw (ctl : Ctl) (d a : BitVec 6) (n : Csr) (s : State) : Out := csrWord ctl .write d a n s
def execCsrs (ctl : Ctl) (d a : BitVec 6) (n : Csr) (s : State) : Out := csrWord ctl .set d a n s
def execCsrc (ctl : Ctl) (d a : BitVec 6) (n : Csr) (s : State) : Out := csrWord ctl .clear d a n s

/-! ## Returning (R346) -/

/-- A result of the routine that has not landed. -/
def Core.supFlight (c : Core) : Bool := c.land.any (·.sup) || c.cp.ratoms.any (·.sup)

/-- ERET leaves its signal, if any, to the job's own ticks. -/
def Core.leaveSup (c : Core) (ctl : Ctl) : Core :=
  let e : Land := { st := .a, rem := c.sa.div, age := 0, sq := ctl.sq, sn := ctl.sn, fp := 0, sat := 0, sup := false,
                    fmt := 0, acts := [] }
  let c1 := c.returnTrap
  if ctl.sq = 0 then c1 else { c1 with land := c1.land ++ [e] }

def execEret (ctl : Ctl) (s : State) : Out :=
  let c := s.core
  issue { st := .a, ctl := ctl, decode := c.privileged, wait := c.supFlight, noEntry := true } s
    fun s => s.onCore (·.leaveSup ctl)

/-- Started commands of the context still run, a group of theirs has its Complete move to come, or some of its own messages
or remote ATOMs have no reply yet: what a save, and ERET.img, wait for (R344 to R346). (DEDUCED, log 20.) -/
def State.saveWaits (s : State) : Bool :=
  let c := s.core
  c.supFlight || !c.cp.act.isEmpty || !c.cp.cb.isEmpty || !c.cp.ratoms.isEmpty || c.ownPending || !c.o.replies.isEmpty
    || c.cp.groups.any (s.groupReady s.cur)

/-- The image is missing or unreadable: a supervisor fault with cause PULL (R339, R346). -/
def Core.noImage (c : Core) : Option Flt := if c.imgValid then none else some (flt 0x17)

def execEretImg (ctl : Ctl) (s : State) : Out :=
  let c := s.core
  let waits := s.saveWaits || s.loadHeld
  let new := if c.imgValid && !waits then s.loadImage else none
  issue { st := .a, ctl := ctl, decode := c.privileged, wait := waits,
          fault := if new.isNone then some (flt 0x17) else none, noEntry := true } s
    fun s => match s.freezeDrains.loadImage with
      | some s1 => s1.onCore (·.leaveSup ctl)
      | none => s

/-! ## Landing area (R339) -/

/-- A write of IMGDESC that the routine issued is in flight. -/
def Core.imgWaits (c : Core) : Bool :=
  c.land.any fun e => e.sup && e.acts.any fun a => match a with
    | .csr .imgdesc .. => true
    | _ => false

/-- LSAVE (R339): a write that fails stops the core. -/
def execLsave (ctl : Ctl) (s : State) : Out :=
  let c := s.core
  let h := imgHdr (c.csr .imgdesc)
  issue { st := .a, ctl := ctl, decode := c.privileged, wait := c.imgWaits || (c.imgValid && s.landHeld h), fault := c.noImage,
          lat := c.latA 1 } s
    fun s => match (s.usedAreas h).saveLanding h with
      | some s1 => s1
      | none => s.killHere 0x17 0

/-- LREST (R339): the places its entries hold are held already. -/
def execLrest (ctl : Ctl) (s : State) : Out :=
  let c := s.core
  let h := imgHdr (c.csr .imgdesc)
  let la := ((s.imgAreas h).map (·.2.1)).getD 0
  let l := if (s.imgAreas h).isSome then s.readArea (s.coreCtx s.cur) la else none
  issue { st := .a, ctl := ctl, decode := c.privileged, wait := c.imgWaits || (c.imgValid && s.lrestHeld h),
          fault := c.noImage.or (if l.isNone then some (flt 0x17) else none), lat := c.latA 1 } s
    fun s => ((s.usedAreas h).usedArea (s.coreCtx s.cur) la).onCore fun c1 =>
      { c1 with land := c1.land.filter (·.sup) ++ l.getD [] }

/-! ## Ending a save (R345) -/

/-- The core is released: the job ends here, killed or pre-empted; the numbers of its groups go with it (R352). -/
def Core.release (c : Core) (killed : Bool) : Core :=
  { c.kill with
    sa := { c.sa with bound := c.t.saved.1, hold := c.t.saved.2.1 },
    job := c.job.map fun j =>
      { j with phase := .ending killed (!killed), groups := some (c.cp.groups.map (·.id), c.cp.nextGroup) } }

/-- YIELD and YIELD.kill (R345): with an image named the context is saved, in the order of R368; where a write fails, those
before it stay. A clock change that waits for a job boundary has it now (13 R321). -/
def yieldWord (ctl : Ctl) (kill : Bool) (s : State) : Out :=
  let c := s.core
  let tell (s : State) : State := if kill then s.killEvent s.cur ((c.csr .cause).setWidth 8) (c.csr .faddr) else s
  let h := imgHdr (c.csr .imgdesc)
  issue { st := .a, ctl := ctl, decode := c.privileged, wait := s.saveWaits || (c.imgValid && s.saveHeld h),
          fault := if kill then none else c.noImage, noEntry := true } s
    fun s =>
      let k := clusterOf s.cur
      if !c.imgValid then ((tell s).freezeDrains.onCore (·.release true)).jobBoundary k
      else match (s.usedAreas h).saveImage h with
        | .ok s1 =>
          let s2 := (tell s1).onCore (·.release kill)
          if kill then s2.jobBoundary k else s2.jobLeft k
        | .error s1 => s1.killHere 0x17 0

def execYield (ctl : Ctl) (s : State) : Out := yieldWord ctl false s
def execYieldKill (ctl : Ctl) (s : State) : Out := yieldWord ctl true s

/-! ## Presence (R343) -/

/-- The block numbers of a range; reserved ones and those above 511 are skipped. -/
def blockRange (a : W64) (n : BitVec 16) : List Nat :=
  ((List.range n.toNat).map (a.toNat + ·)).filter blockReal

/-- A word that acts on a range of blocks at issue; one that reads their location entries waits while these lie behind a link
in key hold (15 R362). -/
def rangeWord (ctl : Ctl) (a : BitVec 6) (n : BitVec 16) (image : Bool) (s : State) (eff : State → State)
    (bars : Nat → Bool := s.entryHeld s.cur) : Out :=
  let c := s.core
  let held := c.imgValid && (blockRange (c.sreg a) n).any bars
  issue { st := .a, ctl := ctl, decode := c.privileged, wait := image && (c.imgWaits || held), regs := c.sRange a,
          fault := if image then c.noImage else none, lat := c.latA 1 } s eff

/-- PSAVE on one block: a present one becomes outgoing and drains; a poisoned one is noted in its entry. -/
def State.psave (s : State) (b : Nat) : State :=
  let c := s.core
  let e := s.locEntry s.cur b
  let ctx := s.coreCtx s.cur
  let s := if c.presOf b = .present || c.presOf b = .poisoned then s.usedEntry s.cur b else s
  match c.presOf b with
  | .present =>
    let d : Drain := { block := b, bytes := none, loc := e.map (·.1), img := BitVec.ofNat 64 (imgHdr (c.csr .imgdesc)),
                       xlat := ctx.xlat, tenant := ctx.tenant, save := none }
    s.onCore fun c => { c.setPres b .outgoing with t := { c.t with drains := c.t.drains ++ [d] } }
  | .poisoned =>
    let s1 := match e with
      | some (x, at') => match s.placeWrite ctx 2 0 at' (leBytes 8 (x ||| (1 <<< 42)).toNat) with
        | .ok t => t
        | .error _ => s.onCore fun c => { c with t := { c.t with damaged := true } }
      | none => s.onCore fun c => { c with t := { c.t with damaged := true } }
    s1.onCore fun c => c.setPres b .absent
  | _ => s

/-- PSAVE of a block meets a link in key hold. -/
def State.psaveHeld (s : State) (b : Nat) : Bool :=
  s.entryHeld s.cur b || (s.core.presOf b = .poisoned && match s.locEntry s.cur b with
    | some (_, at') => s.writeHeld (s.coreCtx s.cur) 2 0 at' 8
    | none => false)

def execPsave (ctl : Ctl) (a : BitVec 6) (n : BitVec 16) (s : State) : Out :=
  rangeWord ctl a n true s (fun s' => (blockRange (s.core.sreg a) n).foldl State.psave s') s.psaveHeld

/-- PPULL asks for the absent blocks of the range in the background. -/
def execPpull (ctl : Ctl) (a : BitVec 6) (n : BitVec 16) (s : State) : Out :=
  rangeWord ctl a n true s fun s' =>
    let bs := (blockRange (s.core.sreg a) n).filter fun b => s.core.presOf b = .absent
    let l := bs.map fun b => (b, (s.locEntry s.cur b).map (·.1))
    (bs.foldl (fun s b => s.usedEntry s.cur b) s').onCore fun c => { c with t := { c.t with bg := c.t.bg ++ l } }

/-- PDROP: a present or poisoned block is lost; an outgoing one goes on draining. -/
def execPdrop (ctl : Ctl) (a : BitVec 6) (n : BitVec 16) (s : State) : Out :=
  rangeWord ctl a n false s fun s' => s'.onCore fun c =>
    (blockRange (s.core.sreg a) n).foldl (fun c b => match c.presOf b with
      | .present | .poisoned => c.setPres b .absent
      | _ => c) c

def presCode : Pres → Nat
  | .present => 0
  | .absent => 1
  | .outgoing => 2
  | .poisoned => 3

def execPstat (ctl : Ctl) (d a : BitVec 6) (s : State) : Out :=
  let c := s.core
  let b := (c.sreg a).toNat
  let v := if blockReal b then presCode (c.presOf b) + (if s.draining s.cur b then 4 else 0) else 7
  issue { st := .a, ctl := ctl, decode := c.privileged, regs := c.sRange a, dst := c.sRange d, lat := c.latA 1,
          acts := c.sWrite d (BitVec.ofNat 64 v) } s

/-! ## Divisors, marks and counters (13 R315 to R320) -/

/-- Lowest divisor of an engine in a heat class (R317). -/
def Core.minDiv (c : Core) (e : Eng) : Nat :=
  let h := bits 1 0 (c.csr .cls).toNat
  match e with
  | .m | .v => if h = 0 then 4 else if h = 1 then 2 else 1
  | _ => 1

def execClkdiv (ctl : Ctl) (e : Eng) (n : BitVec 4) (s : State) : Out :=
  let c := s.core
  issue { st := .a, ctl := ctl, fault := if n.toNat < c.minDiv e then some (flt 0x1A) else none, lat := c.latA 1,
          acts := [.clkdiv e n] } s

/-- PHASE is the phase mark of a pending change: the hold begins at the end of the tick (R320). -/
def execPhase (ctl : Ctl) (s : State) : Out :=
  issue { st := .a, ctl := ctl, lat := s.core.latA 1 } s fun s =>
    s.setCluster (clusterOf s.cur) (match (s.cluster (clusterOf s.cur)).req with
      | .pending _ => (s.cluster (clusterOf s.cur)).mark
      | _ => s.cluster (clusterOf s.cur))

/-- A word that reads a counter at issue (R315). -/
def counterWord (ctl : Ctl) (d : BitVec 6) (n : Csr) (s : State) : Out :=
  let c := s.core
  issue { st := .a, ctl := ctl, dst := c.sRange d, lat := c.latA 1, acts := c.sWrite d (c.csr n) } s

def execRdtick (ctl : Ctl) (d : BitVec 6) (s : State) : Out := counterWord ctl d .tick s
def execRdiss (ctl : Ctl) (d : BitVec 6) (s : State) : Out := counterWord ctl d .issued s

/-! ## TLBINV (12 R301, R302) -/

/-- A SHOOTDOWN of the job's tenant: no release, but an own message (R302). -/
def tlbWord (ctl : Ctl) (all : Bool) (regs : Ranges) (page : W64) (s : State) : Out :=
  let c := s.core
  issue { st := .a, ctl := ctl, decode := c.privileged, regs := regs, wait := c.ownPending || c.releaseWaits, lat := c.latA 1 } s
    fun s => s.transmitOwn (s.ownMsg 3 0 (if all then 1 else 0) (page &&& 0x0000FFFFFFFF0000) false)

def execTlbinv (ctl : Ctl) (a : BitVec 6) (s : State) : Out := tlbWord ctl false (s.core.sRange a) (s.core.sreg a) s
def execTlbinvAll (ctl : Ctl) (s : State) : Out := tlbWord ctl true [] 0 s

/-! ## LAUNCH (11 R285) -/

/-- Slot count of a queue (R273). -/
def LQueue.slots (q : LQueue) : Nat := 2 ^ bits 51 48 q.addr.toNat

/-- Positions taken: posted, or reserved by LAUNCH. -/
def LQueue.taken (q : LQueue) : W32 := q.tail + BitVec.ofNat 32 q.resv.length

/-- Record id of a position (R271). -/
def recId (q : BitVec 3) (k : W32) : W32 := BitVec.ofNat 32 (q.toNat * 2 ^ 29 + (k.toNat + 1) % 2 ^ 29)

def Tenant.queue (t : Tenant) (q : Nat) : LQueue := vget t.q q .reset
def Tenant.setQueue (t : Tenant) (q : Nat) (x : LQueue) : Tenant := { t with q := vset t.q q x }

/-- The queue can take a record of LAUNCH. -/
def LQueue.open' (q : LQueue) : Bool := q.en && q.devpost && decide ((q.taken - q.head).toNat < q.slots)

def execLaunch (ctl : Ctl) (d a : BitVec 6) (q : BitVec 3) (s : State) : Out :=
  let c := s.core
  let ad := (c.sreg a).toNat
  let bad := ad % 8 ≠ 0 || 0xFFFFF < ad + 127
  let tn := BitVec.ofNat 4 (c.csr .tenant).toNat
  let x := (s.tenant tn).queue q.toNat
  let resv : Resv := { pos := x.taken, core := s.cur, bytes := s.getLs ad 128, esn := c.o.own, xlat := (s.tenant tn).xlat }
  issue { st := .a, ctl := ctl, regs := c.sRange a, dst := c.sRange d, wait := c.ownPending || c.releaseWaits,
          fault := if bad then some (flt 0x07 ad) else none, rd := if bad then [] else [(ad, 128)], lat := c.latA 1,
          acts := c.sWrite d (if x.open' then (recId q x.taken).setWidth 64 else 0) } s
    fun s => if x.open' then
        let t := s.tenant tn
        s.setTenant tn (t.setQueue q.toNat { x with resv := x.resv ++ [resv] })
      else s

end Sys2Proof.Machine
end

