-- ==== Sys2Proof/Machine/Engine.lean ====
section
/-! DEFINITION. The moves of the copy engines: Start, Read, Merge, Write, Atomic, Deliver, Complete, the completion hooks,
remote ATOMs and the deadlines of timed commands (08 R186 to R214; 09 R215 to R240; 07 R169, R171, R177; 10 R259, R261).
A move that the rules do not allow now changes nothing. -/

namespace Sys2Proof.Machine

/-- A move of a core of the device. (DESIGN CHOICE, log 42.) -/
def onDevice (core : Nat) (f : State) : Out := if 2048 ≤ core then .fault .noSuchCore else .next f

/-! ## Commands in progress -/

def Core.actOf (c : Core) (id : Nat) : Option Active := c.cp.act.find? fun a => a.cmd.id = id

def Core.setAct (c : Core) (a : Active) : Core :=
  { c with cp := { c.cp with act := c.cp.act.map (fun x => if x.cmd.id = a.cmd.id then a else x) } }

def State.setAct (s : State) (n : Nat) (a : Active) : State := s.putCore n ((s.getCore n).setAct a)

/-- A command as it stands now. -/
def State.actNow (s : State) (n : Nat) (a : Active) : Active := ((s.getCore n).actOf a.cmd.id).getD a

/-- A move of a core's copy engine, which stands while the clock of its cluster does (13 R320, R323). -/
def onEngine (core : Nat) (s f : State) : Out := onDevice core (if s.clockStopped core then s else f)

/-- Of two things found at places of a walk the one that comes first, the older one where both are at one place. -/
def firstOf {α : Type} (old : Option ((Nat × Nat) × α)) (new : (Nat × Nat) × α) : (Nat × Nat) × α :=
  match old with
  | some y => if walkBefore new.1 y.1 then new else y
  | none => new

/-- A failure of the command's own moves, with the place of its element (R219); a race is kept besides (R210). -/
def Active.failing (a : Active) (pos : Nat × Nat) (status : BitVec 8) (faddr : Nat) : Active :=
  let ad := BitVec.ofNat 64 faddr
  { a with fail := some (firstOf a.fail (pos, { status := status, faddr := ad, poff := some a.cmd.poff })),
           race := if status = 0x0B then some (firstOf a.race (pos, ad)) else a.race }

/-- The failure of a group, of two commands': a race's before any other's, else the earlier-posted one's (R210, R219). -/
def Fail.group : Option (Nat × Fail) → Option (Nat × Fail) → Option (Nat × Fail)
  | some x, some y =>
    let rx := decide (x.2.status = 0x0B)
    let ry := decide (y.2.status = 0x0B)
    some (if rx != ry then (if rx then x else y) else if x.1 ≤ y.1 then x else y)
  | x, y => x.or y

/-- Every write and delivery of the command has been made; of a timed one at its deadline, whatever its status (R234,
R235). -/
def State.settled (s : State) (n : Nat) (a : Active) : Bool :=
  let w := s.seen n a
  decided w a
    && !((s.getCore n).cp.cb.any fun e => e.parts.any fun p => p.cmd = a.cmd.id)
    && (if a.cmd.due.isSome then a.applied
        else (required w a).all (fun g => a.done.contains (2 * g))
          && (residDue w a).all fun g => a.done.contains (2 * g + 1))

/-- The command is performed and delivered, with its hooks. -/
def State.finished (s : State) (n : Nat) (a : Active) : Bool :=
  match a.cmd.kind with
  | .close => true
  | .catom => a.done.contains 0
  | _ => s.settled n a
      && ((walkFail (s.seen n a) a).isSome || ((!flagRF a.cmd.flags || a.rfDone) && (!flagBA a.cmd.flags || a.baDone)))

/-- The target of a command's local or on-chip destination: the core, and a grain's number there. -/
def Cmd.place (m : Cmd) (n g : Nat) : Nat × Nat :=
  if m.dSpace = 1 then (bits 32 22 (64 * g), bits 21 0 (64 * g) / 64) else (n, g)

/-- What a racing read would have delivered is poisoned (R210). -/
def State.racePoison (s : State) (n : Nat) (a : Active) (w : List Seen) : State :=
  let m := a.cmd
  if m.dSpace ≤ 1 then
    ((unitsDue w a).flatMap fun u => u.racedAt a.byte).foldl (fun s d =>
      let t := m.place n (d.1.toNat / 64)
      (blocksIn (d.1.toNat % 2 ^ 22) d.2).foldl (fun s b => s.putCore t.1 ((s.getCore t.1).setPres b .poisoned)) s) s
  else
    (dueGrains w a true).foldl (fun s g => match s.homeOf m n .write m.dSpace m.dWin g with
      | some (.dev, k) => s.poisonGrain k
      | _ => s) s

/-- A finished command leaves the engine; its group takes its failure and its flags (R219, 03 R78). -/
def State.retire (s : State) (n id : Nat) : State :=
  match (s.getCore n).actOf id with
  | none => s
  | some a =>
    if !s.finished n a then s
    else
      let w := s.seen n a
      let f := if a.cmd.kind = .catom then none else (walkFail w a).map fun p => (id, p.2)
      let fp := walkFp w
      let s1 := s.racePoison n a w
      let c := s1.getCore n
      let upd (g : Group) : Group :=
        if g.id ≠ a.cmd.group then g
        else { g with fp := g.fp ||| fp, fail := Fail.group g.fail f }
      s1.putCore n { c with cp := { c.cp with act := c.cp.act.filter (·.cmd.id ≠ id), groups := c.cp.groups.map upd } }

/-! ## How the moves of one command agree (R194, R210, R219) -/

/-- Grains outside cores that have been written, or reduced, for a command. -/
def Core.written (c : Core) (a : Active) : List Nat :=
  if a.cmd.dSpace ≤ 1 then []
  else ((a.done.filter (· % 2 = 0)).map (· / 2)).filter fun g =>
    !(c.cp.cb.any fun e => e.parts.any fun p => p.cmd = a.cmd.id && p.va = 64 * g)

/-- A move that changes what a command performs: every grain that it has written already stays one that it performs, with
the same bytes (R210, R219). Any other move would not obey the rules. (DEDUCED, log 15.) -/
def State.admits (s : State) (n : Nat) (a a' : Active) : Bool :=
  let l := (s.getCore n).written a
  let w := s.seen n a
  let w' := s.seen n a'
  l.isEmpty || l.all fun g => (required w' a').contains g && dueBytes w' a' g = dueBytes w a g

/-- The core is at step 4 of its tick: what it has posted moves only after that (R191). -/
def Core.issuing (c : Core) : Bool := match c.phase with
  | .issue _ => true
  | _ => false

/-- A grain cannot be reached now: a link of its way is in key hold (15 R362), the clock of its core stands (13 R320), or
its core is at step 4 of its tick (R191). -/
def State.unreachable (s : State) (x : Grain) : Bool :=
  x.held || (match x.home with
    | .core k => s.clockStopped k || (s.getCore k).issuing
    | _ => false)

/-! ## Races (R205, R209) -/

/-- Region r of a stream is open, or released after an acquire ESN (R205). -/
def Order.openAfter (o : Order) (r : BitVec 20) (acq : Nat) : Bool :=
  if 2 ^ 19 ≤ (o.region - r).toNat then false
  else match o.rel.find? fun p => (p.1 - r).toNat < 2 ^ 19 with
    | some p => acq < p.2
    | none => true

/-- A region of the stream's current job (R209). -/
def Order.ofJob (o : Order) (r : BitVec 20) : Bool := (r - o.region0).toNat ≤ (o.region - o.region0).toNat

/-- A covered access of a command meets a race on a grain (R209). -/
def State.races (s : State) (n : Nat) (m : Cmd) (g : Nat) : Bool :=
  let t := s.tagOf g
  t.writer ≠ 0xFFF && (t.writer.toNat ≠ n || !(s.getCore n).o.ofJob t.region)
    && (s.getCore t.writer.toNat).o.openAfter t.region m.acq

/-! ## Reads that a later write leaves behind (R194 rule 2, R219) -/

/-- What a Read of a grain takes: RACE where its tag says so (R209), else the stream's own data before its home's (R194
rule 2). -/
def State.fetchGrain (s : State) (n : Nat) (m : Cmd) (x : Grain) : List (BitVec 8 × Byte) :=
  if x.checked && x.home = .dev && s.races n m x.num then
    (s.readGrain x).map fun p => if p.1 = 0 || p.1 = 0x0C then (0x0B, 0) else p
  else s.ownGrain n x

/-- An engine may start one more Read of at most a grain: of its 64 KiB of reply space some is free, or replies have sunk
meanwhile, by a free value (09 R251). (DESIGN CHOICE of form, log 41.) -/
def State.replyRoom (s : State) (eng : Nat) : Bool := vget s.reply eng 0 < 1024 || 0 < Config.sunk s.free

/-- The reply space of a Read is reserved; what sinks of earlier replies is given back where it is asked for. -/
def State.reserve (s : State) (eng : Nat) : State :=
  let k := vget s.reply eng 0
  { s with reply := vset s.reply eng ((if k < 1024 then k else k - Config.sunk s.free) + 1) }

/-- The walk that a move would make for a grain has to wait: moves have begun it and finish it first, no reply of its Reads has a
place, or an earlier command of the stream has still to write an entry that it reads (R194 rule 2). -/
def State.pathWaits (s : State) (n : Nat) (a : Active) (key : Nat) (x : Grain) : Bool :=
  !x.path.isEmpty && ((a.under key).isSome || !s.replyRoom (engineOf n) || x.path.any fun k => s.writeBefore n a.cmd.id (.dev, k))

/-- A grain as a command's Read would take it now, or took it when a later write passed it; `none` where no Read may be made
now, or a block would be pulled for it first. -/
def State.glance (s : State) (n : Nat) (a : Active) (p : Nat × Nat) : Option GotGrain :=
  match (a.spare ++ a.past).find? fun g => g.space = p.1 && g.grain = p.2 with
  | some g => some g
  | none =>
    let m := a.cmd
    let x := s.grainOf (m.ctx n) .read p.1 m.sWin p.2 (a.holds n p.1 m.sWin p.2)
    if s.unreachable x || s.writeBefore n m.id (x.home, x.num) || s.pathWaits n a (tookKey p.1 m.sWin p.2) x || !(s.grainBlocks x .absent).isEmpty then none
    else some { space := p.1, grain := p.2, got := s.fetchGrain n m x }

/-- A walk after one of its entry reads: one that a SHOOTDOWN may have matched while its size was open begins again where it
turns out to be a 16 MiB page, and goes on where not (12 R301). -/
def TlbEnt.afresh (t start : TlbEnt) : TlbEnt :=
  if !t.stale then t
  else if t.left = 0 && t.err = 0 && t.big then start
  else if 2 ≤ t.left then t else { t with stale := false }

/-- The walk for a grain that an earlier command may come to read, made now: the command holds its result, and the entries count
as read once it is used. -/
def State.walkNow (s : State) (n : Nat) (a : Active) (p : Nat × Nat) : Option State :=
  let c := a.cmd.ctx n
  let win := a.cmd.sWin
  let v := if p.1 = 4 then 0 else 64 * p.2
  let l := s.entriesOf n a p.1 win p.2
  if l.any fun k => s.diesHeld c.die (dieOf (64 * k)) || s.writeBefore n a.cmd.id (.dev, k) then none
  else
    let key := tookKey p.1 win p.2
    let start := if p.1 = 4 then c.winStart win else c.walkStart v
    let t := (s.walked c v ((a.under key).getD start)).afresh start
    some (s.setAct n { a with took := alSet a.took key (s.walked c v t), ahead := alSet a.ahead key l })

/-- Before a write at a home, the walks through it that earlier commands of the stream may come to need are made. -/
def State.walkAhead (s : State) (n : Nat) (m : Cmd) (h : Home × Nat) : Option State :=
  ((s.getCore n).cp.act.filter fun a => a.cmd.id < m.id).foldl (fun r a =>
    (s.mayRead n a).foldl (fun r p => r.bind fun t =>
      match (t.getCore n).actOf a.cmd.id with
      | some b => if (t.entriesOf n b p.1 b.cmd.sWin p.2).any (fun k => (.dev, k) = h) then t.walkNow n b p else some t
      | none => some t) r) (some s)

/-- Before a write at a home, the grains there that an earlier command of the stream, or an earlier unit of the same walk,
may yet come to read are taken: a Read that is needed later on may as well have been made now (R194 rule 2). So are the walks
of table entries there that an earlier command may come to need. (DEDUCED, log 15.) -/
def State.readAhead (s : State) (n : Nat) (m : Cmd) (h : Home × Nat) : Option State :=
  (s.walkAhead n m h).bind fun s => ((s.getCore n).cp.act.filter fun a => a.cmd.id < m.id || (a.cmd.id = m.id && m.mayAlias)).foldl (fun r a =>
    ((s.mayRead n a).filter fun p => s.homeOf a.cmd n .read p.1 a.cmd.sWin p.2 = some h).foldl (fun r p => r.bind fun t =>
      match (t.getCore n).actOf a.cmd.id with
      | none => some t
      | some b =>
        if b.past.any fun g => g.space = p.1 && g.grain = p.2 then some t
        else (t.glance n b p).map fun g => t.setAct n { b with past := b.past ++ [g] }) r) (some s)

/-- The command with every read made now that its units before number k still ask for; `none` where one may not be made
now. -/
def State.foresee (s : State) (n k : Nat) : Nat → Active → Option Active
  | 0, _ => none
  | f + 1, a =>
    let needs := ((s.seen n a).filter fun u => u.idx < k).flatMap fun u => match u.res with
      | .need l => l
      | _ => []
    let l := needs.eraseDups.filter fun p => !a.has p
    if l.isEmpty then some a
    else if l.any fun p => (s.glance n a p).isNone then none
    else s.foresee n k f { a with got := a.got ++ l.filterMap (s.glance n a) }

/-- A covered write of device memory that another core owes before one it has made; a CRED's atomics are not covered (R232). -/
def State.claimed (s : State) (n : Nat) (h : Home × Nat) : Bool :=
  s.cores.any fun c => c.1 ≠ n && c.2.cp.act.any fun a => !a.cmd.red && a.pins.any fun p =>
    p.2.checked && (p.2.home, p.2.num) = h && !(c.2.written a).contains p.1

/-- A write of a command to a place found would fail, or race, or has to wait for another core's. -/
def State.unsure (s : State) (n : Nat) (m : Cmd) (w : List Seen) (g : Nat) (x : Grain) : Bool :=
  x.held || (firstElem w m.args.dSz g fun i => x.stat.getD i 0 ≠ 0).isSome
    || (m.red && (s.readGrain x).any fun p => p.1 = 0x0C)
    || (!m.red && x.checked && x.home = .dev && (s.races n m x.num || s.claimed n (x.home, x.num)))

/-- The place of a grain that a command owes: pinned, merged, or found now. -/
def State.placeOwed (s : State) (n : Nat) (a : Active) (g : Nat) : Grain :=
  let m := a.cmd
  match a.pins.find? fun p => p.1 = g with
  | some p => p.2
  | none =>
    match (s.getCore n).cp.cb.findSome? fun e => (e.parts.find? fun p => p.cmd = m.id && p.va = 64 * g).map fun p => (e, p) with
    | some (e, p) => { home := e.home, num := e.grain, stat := all64 0, checked := p.covered }
    | none => s.grainOf (m.ctx n) (if m.red then .reduce else .write) m.dSpace m.dWin g none

/-- What comes in a command's walk before a grain that it is about to write, or has written, is made certain not to fail: its
reads, taken as they would be now, keep the grain and what it has written before among what it performs; its writes have
their places and do not race; its residuals can be applied (R210, R219). `none` where that is not so now. `old` is the
command as it was when it wrote. (DEDUCED, log 15.) -/
def State.settle (s : State) (n : Nat) (old a : Active) (g : Nat) : Option Active :=
  let m := a.cmd
  let c := s.getCore n
  let w := s.seen n old
  let k := lastUnit w g
  match s.foresee n k (4 * w.length + 8) a with
  | none => none
  | some b =>
    let w' := s.seen n b
    let owed := (earlierGrains w' g).filter fun k => (required w' b).contains k && !(c.written a).contains k
    let resid := ((residBytes w' b).filter fun r => r.1.1 < k && !a.done.contains (2 * (r.2.1 / 64) + 1)).filterMap fun r => blockOf r.2.1
    if (g :: c.written a).any (fun k => !(required w' b).contains k || dueBytes w' b k ≠ dueBytes w old k)
        || owed.any (fun k => !(a.pins.any fun p => p.1 = k) && s.unsure n m w' k (s.placeOwed n a k))
        || resid.any (fun b => c.presOf b = .absent || c.presOf b = .poisoned) then none
    else some { a with
      spare := (b.got.drop a.got.length ++ a.spare).eraseDups,
      pins := owed.map (fun k => (k, s.placeOwed n a k)) ++ a.pins.filter fun p => !owed.contains p.1 }

/-- A command with one more read: as it is where it has written nothing, else with what comes before made certain anew. -/
def State.stands (s : State) (n : Nat) (old a : Active) : Option Active :=
  let w := s.seen n old
  match (s.getCore n).written old with
  | [] => some a
  | g :: l => s.settle n old a (l.foldl (fun x y => if lastUnit w x < lastUnit w y then y else x) g)

/-- The data of a command in the combine buffer, cut down to what the command still performs. -/
def Copies.recut (cp : Copies) (a : Active) (w : List Seen) : Copies :=
  let part (p : CbPart) : Option CbPart :=
    if p.cmd ≠ a.cmd.id then some p
    else if (required w a).contains (p.va / 64) then some { p with bytes := dueBytes w a (p.va / 64) } else none
  let l := cp.cb.map fun e => { e with parts := e.parts.filterMap part }
  { cp with cb := l.filter (!·.parts.isEmpty) }

/-- A command takes on what a move found. -/
def State.adopt (s : State) (n : Nat) (a : Active) : State :=
  let s1 := s.setAct n a
  let c := s1.getCore n
  s1.putCore n { c with cp := c.cp.recut a (s1.seen n a) }

/-- A move that found one of the command's elements to fail; a link that has gone down fails it whatever was written
(15 R362; DEDUCED, log 16). -/
def State.failAt (s : State) (n : Nat) (a : Active) (pos : Nat × Nat) (status : BitVec 8) (faddr : Nat) : Option State :=
  let a' := a.failing pos status faddr
  if status = 0x16 || s.admits n a a' then some (s.adopt n a') else none

/-- The same with what the move leaves behind besides, and the command leaves the engine if that finishes it. -/
def State.endAt (s : State) (n : Nat) (a : Active) (pos : Nat × Nat) (status : BitVec 8) (faddr : Nat) (traces : State → State := id) :
    State :=
  match s.failAt n a pos status faddr with
  | some t => (traces t).retire n a.cmd.id
  | none => s

/-- A grain of the command that comes earlier in its walk has the same home and is still to be written (R194 rule 2). -/
def State.writeFirst (s : State) (n : Nat) (a : Active) (w : List Seen) (acc : Acc) (g : Nat) (h : Home × Nat) : Bool :=
  ((leftGrains w a).takeWhile (· ≠ g)).any fun k => s.homeOf a.cmd n acc a.cmd.dSpace a.cmd.dWin k = some h

/-! ## START (R194, R215) -/

/-- The oldest unstarted command of a core may start. -/
def State.mayStart (s : State) (n : Nat) (m : Cmd) : Bool :=
  let c := s.getCore n
  !((m.kind = .copy || m.kind = .cred) && flagREL m.flags && s.unperformed n m.id)
    && !s.unperformed n m.frel
    && (c.cp.act.filter fun a => a.cmd.id < m.facq).all (s.readsDone n)

/-- The core's oldest unstarted command may start now; a restored one not before its reissue (14 R344). -/
def State.canStart (s : State) (n : Nat) : Bool :=
  match (s.getCore n).cp.cmds with
  | [] => false
  | m :: _ => !(s.getCore n).issuing && !m.retime && s.mayStart n m

/-- The core whose turn it is at an engine: the first, from its pointer on, whose oldest command may start (R215).
(DESIGN CHOICE, log 62.) -/
def State.turn (s : State) (eng : Nat) : Option Nat :=
  ((List.range 16).map fun i => 16 * eng + ((vget s.eptr eng 0).toNat + i) % 16).find? s.canStart

/-- START of a core's oldest unstarted command; none behind it starts before it, whatever it waits for (R194 would let any start,
R215 takes the oldest). (DESIGN CHOICE, log 62.) -/
def State.startAt (s : State) (n : Nat) : State :=
  let c := s.getCore n
  match c.cp.cmds with
  | [] => s
  | m :: rest =>
    if s.turn (engineOf n) ≠ some n then s
    else
      let s1 := { s with eptr := vset s.eptr (engineOf n) (BitVec.ofNat 4 (coreX n + 1)) }
      (s1.putCore n { c with cp := { c.cp with cmds := rest, act := c.cp.act ++ [m.fresh] } }).retire n m.id

def execStart (core : Nat) (s : State) : Out := onEngine core s (s.startAt core)

/-! ## Translations (12 R295, R301, R306) -/

/-- The command's accesses of a grain of space 2, or of a window, that are still to come. -/
def State.translates (s : State) (n : Nat) (a : Active) (win : Bool) (k : Nat) : Bool :=
  let m := a.cmd
  let w := s.seen n a
  let sp := if win then 4 else 2
  let here (g win' : Nat) : Bool := if win then win' = k else g = k
  (m.dSpace = sp && m.kind = .catom && a.got.isEmpty && here (m.atomAt / 64) m.dWin)
    || (walkNeeds w a).any (fun p => p.1 = sp && here p.2 m.sWin)
    || (m.dSpace = sp && (leftGrains w a).any fun g => here g m.dWin)

/-- A Read move of one table entry, for grain or window k: the walk begins or goes on, and a finished one is kept
(R186, R295, R301); or the command takes a result that its engine keeps, to use it later. -/
def State.entryMove (s : State) (n : Nat) (a : Active) (win : Bool) (k tr : Nat) : State :=
  let ctx := a.cmd.ctx n
  let sp := if win then 4 else 2
  let key := 2 * k + win.toNat
  let v := if win then 0 else 64 * k
  let start := if win then ctx.winStart k else ctx.walkStart v
  let t := (a.under key).getD start
  let put (s : State) (t : TlbEnt) : State :=
    (if t.left = 0 then s.keep t else s).setAct n { a with took := alSet a.took key t }
  if !s.translates n a win k || (if win then decide (bits 16 0 (ctx.reg 5) ≤ k) else decide (2 ^ 48 ≤ v)) then s
  else match tr with
    | 0 =>
      if t.left = 0 || !devOk (t.next v) then put s (s.walkOne ctx v t)
      else if s.diesHeld ctx.die (dieOf (t.next v)) || s.writeBefore n a.cmd.id (.dev, t.next v / 64) || !s.replyRoom ctx.eng then s
      else let r := (s.reserve ctx.eng).walkMove ctx v t; put r.1 (r.2.afresh start)
    | j + 1 => match s.tlb[j]? with
      | some t => if a.cmd.served n sp k k t then s.setAct n { a with took := alSet a.took key t } else s
      | none => s

/-- The translation that a move uses: of a timed command's source, the one made at its issue (R233); else the one that the
move names among those its engine keeps, from 1 on, or under 0 the one that the command took for the grain; `none` stands for a
fresh one (R301). -/
def State.choice (s : State) (n : Nat) (a : Active) (space win grain tr : Nat) : Option TlbEnt :=
  let kept : Option TlbEnt := match tr with
    | 0 => none
    | j + 1 => (s.tlb[j]?).filter (a.cmd.served n space win grain)
  ((if space = 2 then a.cmd.walks else []).find? (a.cmd.served n space win grain)).or (kept.or (a.holds n space win grain))

/-- A result that was walked ahead is used: its entries count as read (07 R182). -/
def State.useAhead (s : State) (a : Active) (key : Nat) : State :=
  match a.ahead.find? fun p => p.1 = key with
  | some p => p.2.foldl (fun t k => t.touchCache false k) s
  | none => s

/-! ## READ (R187, R191, R194, R207 to R211) -/

/-- The blocks of a core's own storage that an engine must pull first are pulled; `none` where one still drains
or its location lies behind a link in key hold (14 R341, R342; 15 R362). The flag tells that no pull failed. -/
def State.pullFor (s : State) (x : Grain) (bs : List Nat) : Option (State × Bool) :=
  match x.loc with
  | none => some (s, true)
  | some (n, _) =>
    if bs.any fun b => s.draining n b || s.pullHeld n b then none
    else some (bs.foldl (fun r b => match r.1.pullBlock n b with
      | some t => (t, r.2)
      | none => (r.1, false)) (s, true))

/-- The command takes the value of one grain, and leaves the engine if that finishes it. -/
def State.takes (s : State) (n : Nat) (a : Active) : State := (s.adopt n a).retire n a.cmd.id

/-- A Read move of an active command. A grain that a later write has passed is taken as it stood then; a value that would
break what the command has written gives way to the one it had then (R194, R219; log 15). -/
def State.readMove (s : State) (n : Nat) (a : Active) (space grain tr : Nat) : State :=
  let m := a.cmd
  let ctx := m.ctx n
  let here (g : GotGrain) : Bool := g.space = space && g.grain = grain
  let with' (g : GotGrain) : Active :=
    { a with got := a.got ++ [g], spare := a.spare.filter fun x => !here x,
             ahead := a.ahead.filter fun p => p.1 ≠ tookKey space m.sWin grain }
  let other : State := match a.spare.find? here with
    | some g => s.takes n (with' g)
    | none => s
  let key := tookKey space m.sWin grain
  let t := s.choice n a space m.sWin grain tr
  let x := s.grainOf ctx .read space m.sWin grain t
  if !(walkNeeds (s.seen n a) a).contains (space, grain) then s
  else match a.past.find? here with
    | some g => match s.stands n a (with' g) with
      | some b => s.takes n b
      | none => other
    | none =>
      if s.unreachable x || s.writeBefore n m.id (x.home, x.num) || s.pathWaits n a key x || !s.replyRoom ctx.eng then s
      else match s.pullFor x (s.grainBlocks x .absent) with
        | none => s
        | some (s1, ok) =>
          let got := if ok then s1.fetchGrain n m x else x.stat.map fun e => (if e = 0 then 0x17 else e, 0)
          let a' := with' { space := space, grain := grain, got := got }
          let s2 := (((s1.reserve ctx.eng).useAhead a key).noteGrain ctx space m.sWin grain t).usedGrain x
          let s3 := if x.reached then s2.moves m.tenant x.home x.num else s2
          if x.stat.contains 0x16 then s3.takes n a'
          else match s1.stands n a a' with
            | some b => s3.takes n b
            | none => other

/-- READ: of a grain of a space, or, under space 10 or 12, of an entry of the page table or of the window table. -/
def execRead (core id space grain tr : Nat) (s : State) : Out :=
  onEngine core s (match (s.getCore core).actOf id with
    | some a => if space = 10 || space = 12 then s.entryMove core a (space = 12) grain tr else s.readMove core a space grain tr
    | none => s)

/-! ## MERGE (R195) -/

/-- A stream's data for a grain may join the entry there (R195). -/
def CbEnt.joins (e : CbEnt) (m : Cmd) : Bool := !e.lone && !flagREL m.flags && e.epoch = m.frel

/-- The place of a grain that a move writes: as the translation finds it now; or, where the command owes the grain and that
place would not do, as it was found before (R219, R301; log 15). The flag tells the first. -/
def State.placeOf (s : State) (n : Nat) (a : Active) (w : List Seen) (g : Nat) (t : Option TlbEnt) : Grain × Bool :=
  let m := a.cmd
  let x := s.grainOf (m.ctx n) (if m.red then .reduce else .write) m.dSpace m.dWin g t
  match a.pins.find? fun p => p.1 = g with
  | some p => if s.unsure n m w g x then (p.2, false) else (x, true)
  | none => (x, true)

/-- A Merge move of an active command (R195): at any moment at which its bytes are decided. -/
def State.mergeMove (s : State) (n : Nat) (a : Active) (grain tr : Nat) : State :=
  let m := a.cmd
  let w := s.seen n a
  let ctx := m.ctx n
  let c := s.getCore n
  let t := s.choice n a m.dSpace m.dWin grain tr
  let (x, fresh) := s.placeOf n a w grain t
  let h := (x.home, x.num)
  let note (s : State) : State := if fresh then s.noteGrain ctx m.dSpace m.dWin grain t else s
  let at' := fun e : CbEnt => e.home = x.home && e.grain = x.num
  if m.dSpace ≤ 1 || m.red || !(required w a).contains grain || a.done.contains (2 * grain) || !grainReady w a grain
      || s.readFirst n a w (lastUnit w grain) h || s.writeFirst n a w .write grain h || s.writeBefore n m.id h || s.readBefore n m.id h
      || s.pathWaits n a (tookKey m.dSpace m.dWin grain) x || x.pheld || c.cp.cb.any (fun e => at' e && !e.joins m) then s
  else match firstElem (w.take (grainEnd w a grain)) m.args.dSz grain fun i => x.stat.getD i 0 ≠ 0 with
    | some (pos, ad, i) => s.endAt n a pos (x.stat.getD i 0) ad note
    | none => match s.readAhead n m h with
    | none => s
    | some s0 =>
      let part : CbPart :=
        { cmd := m.id, va := 64 * grain, covered := x.checked && x.home = .dev, leaf := x.leaf, way := x.way,
          bytes := dueBytes w a grain }
      let cb := if c.cp.cb.any at' then
          c.cp.cb.map fun e => if at' e then { e with parts := e.parts ++ [part] } else e
        else c.cp.cb ++ [{ home := x.home, grain := x.num, lone := flagREL m.flags, epoch := m.frel, parts := [part] }]
      let s1 := note s0
      (s1.putCore n { (s1.getCore n) with cp := { (s1.getCore n).cp with cb := cb } }).setAct n
        { s0.actNow n a with done := a.done ++ [2 * grain],
                             pins := a.pins.map fun p => if p.1 = grain then (p.1, x) else p }

def execMerge (core id grain tr : Nat) (s : State) : Out :=
  onEngine core s (match (s.getCore core).actOf id with
    | some a => s.mergeMove core a grain tr
    | none => s)

/-! ## WRITE (R187, R207 to R210, R298 to R300) -/

/-- The status of the write of a part: LINK where the way has gone, RACE, or success. (DEDUCED, log 16.) -/
def State.partStatus (s : State) (n : Nat) (e : CbEnt) (p : CbPart) : BitVec 8 :=
  match (s.getCore n).actOf p.cmd with
  | none => 0
  | some a =>
    if (p.way.map (s.wayDown (coreDie n))).getD false || (p.leaf.map fun l => s.diesDown (coreDie n) (dieOf l)).getD false then 0x16
    else if p.covered && s.races n a.cmd e.grain then 0x0B else 0

/-- The D bit and the dirty log of a write of space 2, reduction or CATOM (12 R298 to R300). -/
def State.dirty (s : State) (n : Nat) (m : Cmd) (leaf : Option Nat) (va : Nat) : State :=
  let s1 := s.setDirty leaf
  let c := s1.getCore n
  if m.dSpace = 2 then
    s1.logDirty (m.ctx n) va ((c.job.map (·.recId)).getD 0) ((c.csr .ctxid).setWidth 32)
  else s1

/-- The write of a part meets a link in key hold: on its way, or on that to the leaf whose D bit it sets or to the dirty log
(15 R362). -/
def State.partHeld (s : State) (n : Nat) (p : CbPart) : Bool :=
  (p.way.map (s.wayHeld (coreDie n))).getD false || (p.leaf.map fun l => s.diesHeld (coreDie n) (dieOf l)).getD false
    || match (s.getCore n).actOf p.cmd with
      | some a => a.cmd.dSpace = 2 && s.dirtyHeld (a.cmd.ctx n) p.va
      | none => false

/-- A part that fails: the command's grains from there on stay unwritten. RACE reports the grain, LINK its first element
(R210, R219). -/
def State.failPart (s : State) (n : Nat) (p : CbPart) (st : BitVec 8) : Option State :=
  match (s.getCore n).actOf p.cmd with
  | none => some s
  | some a =>
    let w := s.seen n a
    let g := p.va / 64
    let x := firstElem (w.take (grainEnd w a g)) a.cmd.args.dSz g fun i => p.bytes.any fun b => b.1 = i
    let pos := (x.map (·.1)).getD (0, 0)
    s.failAt n a pos st (if st = 0x0B then p.va else (x.map (·.2.1)).getD p.va)

/-- What comes before a part in its command's walk is made certain (log 15). -/
def State.settlePart (s : State) (n : Nat) (p : CbPart) : Option State :=
  match (s.getCore n).actOf p.cmd with
  | none => some s
  | some a => (s.settle n a a (p.va / 64)).map (s.setAct n)

/-- The write of an entry of the combine buffer: parts that fail are dropped, the others are written together; the tag is
that of the last of them (07 R180). `none` while the entry waits: for a link in key hold, for what comes before in a
command's walk, or for another core's write that must come first. -/
def State.writeEntry (s : State) (n : Nat) (e : CbEnt) : Option State :=
  let same (f : CbEnt) : Bool := f.home = e.home && f.grain = e.grain
  let bad := e.parts.filter fun p => s.partStatus n e p ≠ 0
  if e.parts.any fun p => s.partHeld n p then none
  else (bad.foldl (fun r p => r.bind fun t => t.failPart n p (s.partStatus n e p)) (some s)).bind fun s0 =>
    let good := (((s0.getCore n).cp.cb.find? same).map (·.parts)).getD []
    if good.any (·.covered) && s0.claimed n (e.home, e.grain) then none
    else (good.foldl (fun r p => r.bind fun t => t.settlePart n p) (some s0)).map fun s1 =>
      let tag := ((good.getLast?.filter (·.covered)).bind fun p => ((s1.getCore n).actOf p.cmd).map (·.cmd.region))
      let s2 := if good.isEmpty then s1
        else (s1.writeGrain e.home e.grain (good.flatMap (·.bytes)) (if tag.isSome then BitVec.ofNat 12 n else 0xFFF)
          (tag.getD 0)).moves (s1.getCore n).tenant e.home e.grain
      let s3 := good.foldl (fun t p => match (t.getCore n).actOf p.cmd with
        | some a => t.dirty n a.cmd p.leaf p.va
        | none => t) s2
      let c := s3.getCore n
      s3.putCore n { c with cp := { c.cp with cb := c.cp.cb.filter (!same ·) } }

/-- Grains with all that units touching one of them touch, over n rounds. -/
def joined (w : List Seen) : Nat → List Nat → List Nat
  | 0, l => l
  | n + 1, l =>
    let l' := ((w.filter fun u => u.grains.any l.contains).flatMap (·.grains) ++ l).eraseDups
    if l'.length = l.length then l else joined w n l'

/-- The grains that a command writes in one event with one of them: those of its quantised blocks (03 R77). -/
def mates (m : Cmd) (w : List Seen) (a : Active) (g : Nat) : List Nat :=
  if m.wholeBlocks then
    joined (if (required w a).contains g then unitsDue w a else w.filter fun u => u.idx ≠ (stopAt w a).1) w.length [g]
  else [g]

/-- The entries that a Write takes together with those of a list, over n rounds: all that hold a part of a quantised block
(03 R77); `none` while a part of one is still to be merged. -/
def State.together (s : State) (n : Nat) : Nat → List CbEnt → Option (List CbEnt)
  | 0, l => some l
  | k + 1, l =>
    let c := s.getCore n
    let parts := l.flatMap fun e => e.parts.flatMap fun p => match c.actOf p.cmd with
      | none => []
      | some a =>
        let w := s.seen n a
        ((mates a.cmd w a (p.va / 64)).filter fun g => (required w a).contains g && !(c.written a).contains g).map fun g => (p.cmd, g)
    let found := parts.map fun x => c.cp.cb.find? fun e => e.parts.any fun p => p.cmd = x.1 && p.va = 64 * x.2
    if found.any (·.isNone) then none
    else
      let l' := (found.filterMap id ++ l).eraseDups
      if l'.length = l.length then some l' else s.together n k l'

/-- A Write move: an entry, with those that become visible with it, in the order of the walk. -/
def State.writeMove (s : State) (n : Nat) (e : CbEnt) : State :=
  match s.together n (s.getCore n).cp.cb.length [e] with
  | none => s
  | some l => match l.foldl (fun r e => r.bind fun t =>
        match (t.getCore n).cp.cb.find? fun f => f.home = e.home && f.grain = e.grain with
        | some f => t.writeEntry n f
        | none => some t) (some s) with
    | none => s
    | some s1 => (l.flatMap (·.parts)).foldl (fun t p => t.retire n p.cmd) s1

def execWrite (core nth : Nat) (s : State) : Out :=
  onEngine core s (match (s.getCore core).cp.cb.drop nth with
    | e :: _ => s.writeMove core e
    | [] => s)

/-! ## ATOMIC (R181, R197, R232, R237, R238) -/

/-- A write of the router atomic unit, or of the host: the tag stays (R181, R232). -/
def State.atomPut (s : State) (h : Home) (g : Nat) (bs : List (Nat × Byte)) : State :=
  match h with
  | .dev =>
    let s1 := (s.touchCache true g).markGranule g
    { s1 with mem := putBytes s1.mem g bs }
  | _ => s.writeGrain h g bs 0 0

/-- The reply of an atomic waits in its command until it is delivered. -/
def Active.reply (a : Active) (status : BitVec 8) (old : Nat) : Active :=
  { a with got := [{ space := 7, grain := 0, got := (leBytes 8 old).map fun b => (status, b) }] }

/-- The operation of a CATOM, by the code of R175. -/
def Cmd.atomOp (m : Cmd) : AtomOp × Bool :=
  match decodeWord .a m.word with
  | .ok (.catom _ op w64 _ _ _ _ _) => (op, w64)
  | _ => (.swap, false)

/-- The operations that PCI Express AtomicOps give (R237). -/
def hostOp : AtomOp → Bool
  | .swap | .add | .cas => true
  | _ => false

/-- The Atomic move of a CATOM. On a page of TIER 1 it has the operations of space 3; another ends with TRANSFORM in its
reply (12 R296; DESIGN CHOICE, log 61). -/
def State.catomMove (s : State) (n : Nat) (a : Active) (grain tr : Nat) : State :=
  let m := a.cmd
  let ad := m.atomAt
  let k := if m.atomOp.2 then 8 else 4
  let ctx := m.ctx n
  let t := s.choice n a m.dSpace m.dWin (ad / 64) tr
  let x := s.grainOf ctx .atomic m.dSpace m.dWin (ad / 64) t
  if grain ≠ ad / 64 || !a.got.isEmpty || x.held || s.atomicBefore n m.id (x.home, x.num) || s.pathWaits n a (tookKey m.dSpace m.dWin grain) x
      || (m.dSpace = 2 && s.dirtyHeld ctx ad) then s
  else
    let got := ((s.readGrain x).drop (ad % 64)).take k
    let s0 := (s.noteGrain ctx m.dSpace m.dWin grain t).atomTouch x
    match got.find? fun p => p.1 ≠ 0 with
    | some p => s0.setAct n (a.reply p.1 0)
    | none =>
      let old := leNat (got.map (·.2))
      if x.home = .host && !hostOp m.atomOp.1 then s0.setAct n (a.reply 0x0E 0)
      else if !s.replayOk n 3 old then s
      else
        let new := atomNew m.atomOp.1 (8 * k) old (vget m.par 1 0).toNat (vget m.par 2 0).toNat
        let bs := (leBytes k new).zipIdx.map fun p => (ad % 64 + p.2, p.1)
        ((((s0.atomPut x.home x.num bs).moves m.tenant x.home x.num).dirty n m x.leaf ad).record n 3 old).setAct n
          (a.reply 0 old)

/-- One element of a reduction: exact sum, one rounding (R232). -/
def redByte (et : Et) (sz old : Nat) (v : X) : List Byte :=
  leBytes sz (cvtEt ((decEt et old).add v).1 et .rne false).1

/-- The bytes of an element with the bytes of its grains, read and written at their places. -/
def State.reduceOne (s : State) (m : Cmd) (gr : Nat → Grain) (r : Nat × X) : State :=
  let sz := m.args.dSz
  let old := (List.range sz).map fun i => ((s.readGrain (gr ((r.1 + i) / 64))).getD ((r.1 + i) % 64) (0, 0)).2
  (redByte m.args.dEt sz (leNat old) r.2).zipIdx.foldl (fun t p =>
    let x := gr ((r.1 + p.2) / 64)
    t.atomPut x.home x.num [((r.1 + p.2) % 64, p.1)]) s

/-- The first contribution with a byte that fails, by its address, and how. -/
def redFails (sz : Nat) (stat : Nat → Nat → BitVec 8) (l : List (Nat × X)) : Option (Nat × BitVec 8) :=
  l.findSome? fun r => (List.range sz).findSome? fun i =>
    let e := stat ((r.1 + i) / 64) ((r.1 + i) % 64)
    if e = 0 then none else some (r.1, e)

/-- The Atomic move of a CRED for one grain (R232), at any moment at which its contributions are decided. An element that
reaches into the next grain is reduced whole here, and that grain is checked too. (DESIGN CHOICE, log 71.) -/
def State.credMove (s : State) (n : Nat) (a : Active) (grain tr : Nat) : State :=
  let m := a.cmd
  let w := s.seen n a
  let ctx := m.ctx n
  let t0 := s.choice n a m.dSpace m.dWin grain tr
  let found (g : Nat) := s.placeOf n a w g (if g = grain then t0 else none)
  let place (g : Nat) := (found g).1
  let note (s : State) : State := if (found grain).2 then s.noteGrain ctx m.dSpace m.dWin grain t0 else s
  let x := place grain
  let k := grainEnd w a grain
  let reds := grainReds w k grain
  let gs := (grain :: reds.flatMap fun r => spanGrains (r.1 : Nat) m.args.dSz).eraseDups
  let te := s.tenant m.tenant
  let waits (g : Nat) : Bool :=
    let y := place g
    let h := (y.home, y.num)
    y.held || s.pathWaits n a (tookKey m.dSpace m.dWin g) y || s.readFirst n a w (lastUnit w g) h || s.writeFirst n a w .reduce g h || s.writeBefore n m.id h
      || s.readBefore n m.id h || s.atomicBefore n m.id h || (s.getCore n).cp.cb.any fun e => e.home = y.home && e.grain = y.num
  if !(required w a).contains grain || a.done.contains (2 * grain) || !grainReady w a grain || gs.any waits
      || (m.dSpace = 2 && s.dirtyHeld ctx (64 * grain)) || !s.replayOk n 5 te.creds then s
  else
    let stat (g i : Nat) : BitVec 8 := ((s.readGrain (place g)).getD i (0, 0)).1
    match redFails m.args.dSz stat reds with
    | some (ad, e) =>
      let pos := ((firstElem (w.take k) m.args.dSz grain fun i => 64 * grain + i = ad).map (·.1)).getD (0, 0)
      -- a grain owed has become poisoned since: its reduction came before that, and is lost (log 15)
      if a.pins.any fun p => p.1 = grain then (s.setAct n { a with done := a.done ++ [2 * grain] }).retire n m.id
      else s.endAt n a pos e ad fun t => note (gs.foldl (fun t g => t.atomTouch (place g)) t)
    | none => match gs.foldl (fun r g => r.bind fun t => t.readAhead n m ((place g).home, (place g).num)) (some s) with
      | none => s
      | some s0 => match s0.settle n a (s0.actNow n a) grain with
        | none => s
        | some b =>
          let s1 := (reds.foldl (fun s r => s.reduceOne m place r) s0).moves m.tenant x.home x.num
          let s2 := ((note s1).dirty n m x.leaf (64 * grain)).record n 5 te.creds
          let s3 := s2.setTenant m.tenant { (s2.tenant m.tenant) with creds := te.creds + 1 }
          (s3.setAct n { b with done := b.done ++ [2 * grain] }).retire n m.id

def execAtomic (core id grain tr : Nat) (s : State) : Out :=
  onEngine core s (match (s.getCore core).actOf id with
    | some a => if a.cmd.kind = .catom then s.catomMove core a grain tr
        else if a.cmd.red then s.credMove core a grain tr else s
    | none => s)

/-! ## DELIVER (R189, R190; 07 R169, R171; 14 R341) -/

/-- The bytes a Deliver move applies to a grain: those of the units before the stop, or, of a failing command, those of
every unit that has its data (R219); of a grain with the end of a quantised block, those of that block (03 R77). -/
def deliverable (w : List Seen) (a : Active) (g : Nat) : Option (List (Nat × Byte)) :=
  let us := w.filter fun u => u.grains.contains g
  if (required w a).contains g && grainReady w a g then some (dueBytes w a g)
  else if !us.isEmpty && us.all fun u => !u.undecided && (!u.failed || a.cmd.wholeBlocks) then some (grainBytes w w.length g)
  else none

/-- The grains of a block, as the command's own space numbers them, given the number of its grain 0. -/
def blockGrains (base b : Nat) : List Nat := ((blockSpan b).flatMap fun p => spanGrains (p.1 : Nat) p.2).map (base + ·)

/-- The command's deliveries write every byte of a block (07 R171); or, with `opn`, may yet come to do so. -/
def wholeBlock (w : List Seen) (a : Active) (base : Nat) (opn : Bool) (b : Nat) : Bool :=
  (blockSpan b).all fun p => (spanGrains (p.1 : Nat) p.2).all fun g =>
    let bs := ((deliverable w a (base + g)).getD []).map (·.1)
    (opn && (unitsDue w a).any fun u => u.undecided && u.grains.contains (base + g))
      || (List.range 64).all fun i => bs.contains i || !(p.1 ≤ 64 * g + i && 64 * g + i < p.1 + p.2)

/-- The first element of some grains with a byte in a block that fails, and how. -/
def blockFail (w : List Seen) (sz base : Nat) (stat : Nat → BitVec 8) (gs : List Nat) : Option ((Nat × Nat) × Nat × BitVec 8) :=
  let at' (g i : Nat) : BitVec 8 := ((blockOf (64 * (g - base) + i)).map stat).getD 0
  gs.findSome? fun g => (firstElem w sz g fun i => at' g i ≠ 0).map fun x => (x.1, x.2.1, at' g x.2.2)

/-- What a partial write to a block of a core meets after the pulls. -/
def Core.partFail (c : Core) (b : Nat) : BitVec 8 :=
  match c.presOf b with
  | .poisoned => 0x0C
  | .absent => 0x17
  | _ => 0

/-- Bytes applied to grains of a target core. -/
def State.applyGrains (s : State) (m : Cmd) (n : Nat) (l : List (Nat × List (Nat × Byte))) : State :=
  l.foldl (fun s p =>
    let t := m.place n p.1
    p.2.foldl (fun s b => s.setB t.1 (64 * t.2 + b.1) b.2) s) s

/-- Delivery of one grain of data, with the other grains of a quantised block (03 R77) and of a block that becomes present
by it (07 R171). -/
def State.deliverData (s : State) (n : Nat) (a : Active) (g : Nat) : State :=
  let m := a.cmd
  let w := s.seen n a
  let first := (mates m w a g).filter fun k => !a.done.contains (2 * k)
  let t := m.place n g
  let base := if m.dSpace = 1 then g - t.2 else 0
  let blocks := (first.flatMap fun k => blocksIn (64 * (k - base)) 64).eraseDups
  let tc := s.getCore t.1
  let gone := blocks.filter fun b => tc.presOf b = .absent || tc.presOf b = .poisoned
  let whole := gone.filter (wholeBlock w a base false)
  let part := gone.filter fun b => !whole.contains b
  let set := (first ++ whole.flatMap (blockGrains base)).eraseDups
  let at' (k : Nat) : Grain := s.grainOf (m.ctx n) .write m.dSpace 0 k none
  let home (k : Nat) := ((at' k).home, (at' k).num)
  let waits (k : Nat) : Bool :=
    (at' k).held || s.writeBefore n m.id (home k) || s.readBefore n m.id (home k) || s.readFirst n a w (lastUnit w k) (home k)
  let data := set.filterMap fun k => (deliverable w a k).map fun b => (k, b)
  if a.cmd.due.isSome || a.done.contains (2 * g) || first.any (fun k => (deliverable w a k).isNone) || set.any waits
      || part.any (wholeBlock w a base true) then s
  else match first.findSome? fun k =>
      (firstElem w m.args.dSz k fun i => (at' k).stat.getD i 0 ≠ 0).map fun x => ((at' k).stat.getD x.2.2 0, x) with
    | some (st, pos, ad, _) => s.endAt n a pos st ad
    | none => match s.pullFor (at' g) (part.filter fun b => tc.presOf b = .absent) with
      | none => s
      | some (s1, _) => match blockFail w m.args.dSz base (fun b => if part.contains b then (s1.getCore t.1).partFail b else 0) first with
        | some (pos, ad, st) => s1.endAt n a pos st ad
        | none => match set.foldl (fun r k => r.bind fun t => t.readAhead n m (home k)) (some s1) with
          | none => s
          | some s2 =>
            let s3 := whole.foldl (fun s b => s.putCore t.1 ((s.getCore t.1).setPres b .present)) (s2.applyGrains m n data)
            (s3.setAct n { s2.actNow n a with done := a.done ++ data.map (fun p => 2 * p.1) }).retire n m.id

/-- The residuals that a command writes back are all the bytes of a block (07 R171); or, with grains where more may come, may
yet be. -/
def residWhole (bs : List (Nat × Byte)) (opn : List Nat) (b : Nat) : Bool :=
  (blockSpan b).all fun p => (List.range p.2).all fun i => opn.contains ((p.1 + i) / 64) || bs.any fun x => x.1 = p.1 + i

/-- Delivery of one grain of residuals at the posting core (R229), with the other grains of a block that becomes present by
it. -/
def State.deliverResid (s : State) (n : Nat) (a : Active) (g : Nat) : State :=
  let m := a.cmd
  let w := s.seen n a
  let all := residBytes w a
  let bytes := all.map (·.2)
  let x := s.grainOf (m.ctx n) .write 0 0 g none
  let gone := (s.grainBlocks x .poisoned) ++ s.grainBlocks x .absent
  let opn := residOpen w a
  let whole := gone.filter (residWhole bytes [])
  let part := gone.filter fun b => !whole.contains b
  let set := (g :: whole.flatMap (blockGrains 0)).eraseDups
  let home (k : Nat) := let y := s.grainOf (m.ctx n) .write 0 0 k none; (y.home, y.num)
  let last (k : Nat) : Nat := (w.filter fun u => u.unit.residGrains.contains k).foldl (fun l u => max l (u.idx + 1)) 0
  let waits (k : Nat) : Bool :=
    s.writeBefore n m.id (home k) || s.readBefore n m.id (home k) || s.readFirst n a w (last k) (home k)
  if opn.contains g || !(residDue w a).contains g || a.done.contains (2 * g + 1) || set.any waits
      || part.any (residWhole bytes opn) then s
  else match s.pullFor x (part.filter fun b => (s.getCore n).presOf b = .absent) with
    | none => s
    | some (s1, _) =>
      let stat (b : Nat) : BitVec 8 := if part.contains b then (s1.getCore n).partFail b else 0
      match (all.filter fun b => b.2.1 / 64 = g).find? fun b => ((blockOf b.2.1).map stat).getD 0 ≠ 0 with
      | some b =>
        let a' := { a with done := a.done ++ [2 * g + 1] }
        -- a block lost after the command wrote beyond this element: the residuals came before that (log 15)
        match s1.failAt n a' (b.1.1, 0) (((blockOf b.2.1).map stat).getD 0) b.1.2 with
        | some t => t.retire n m.id
        | none => s1.takes n a'
      | none => match set.foldl (fun r k => r.bind fun t => t.readAhead n m (home k)) (some s1) with
        | none => s
        | some s2 =>
          let s3 := (bytes.filter fun b => set.contains (b.1 / 64)).foldl (fun s b => s.setB n b.1 b.2) s2
          let s4 := whole.foldl (fun s b => s.putCore n ((s.getCore n).setPres b .present)) s3
          (s4.setAct n { s2.actNow n a with done := a.done ++ set.map (fun k => 2 * k + 1) }).retire n m.id

/-- The reply of a CATOM enters aq (R238). -/
def State.deliverReply (s : State) (n : Nat) (a : Active) : State :=
  match a.got with
  | [] => s
  | r :: _ =>
    let st := (r.got.headD (0, 0)).1
    let e : QEnt := { val := BitVec.ofNat 64 (leNat (r.got.map (·.2))), status := st,
                      faddr := if st = 0 then 0 else BitVec.ofNat 64 a.cmd.atomAt }
    let s1 := s.putCore n ((s.getCore n).dqAppend .aq e)
    (s1.setAct n { a with done := [0] }).retire n a.cmd.id

/-- DELIVER: `key` is 0 for the reply of a CATOM, else twice the grain's number, or one more for residuals. -/
def execDeliver (core id key : Nat) (s : State) : Out :=
  onDevice core (match (s.getCore core).actOf id with
    | none => s
    | some a =>
      let resid := key % 2 = 1
      let tgt := if a.cmd.kind = .catom || resid then core else (a.cmd.place core (key / 2)).1
      if (s.getCore tgt).phase ≠ .arrive || s.clockStopped tgt then s
      else if a.cmd.kind = .catom then s.deliverReply core a
      else if resid then s.deliverResid core a (key / 2)
      else if 1 < a.cmd.dSpace then s
      else s.deliverData core a (key / 2))

/-! ## Completion hooks (R236; 10 R259, R261) -/

/-- RFILL 1 on a ring, shown by its view at once. -/
def Core.fillHook (r : BitVec 4) (c : Core) : Option Core :=
  let x := c.ring r
  if !x.valid || x.opened = 0 then none
  else
    let y := vget c.q.ringV r.toNat .reset
    let c1 := c.setRing r { x with tail := x.tail + 1 }
    some { c1 with q := { c1.q with ringV := vset c1.q.ringV r.toNat (y.plus ((c1.ring r).minus x)) } }

/-- An arrival at a barrier cell, shown by its view at once. -/
def Core.byteHook (b : BitVec 3) (k : Nat) (c : Core) : Option Core :=
  match (c.bar b).arrive k with
  | none => none
  | some x =>
    let y := vget c.q.barV b.toNat .reset
    let c1 := c.setBar b x
    some { c1 with q := { c1.q with barV := vset c1.q.barV b.toNat (y.plus (x.minus (c.bar b))) } }

/-- The completion ring fill of a command, and its arrival at a barrier cell, at the destination core. -/
def Cmd.fill (m : Cmd) : Core → Option Core := Core.fillHook (m.aux.extractLsb' 0 4)
def Cmd.arrival (m : Cmd) (w : List Seen) : Core → Option Core := Core.byteHook (m.aux.extractLsb' 4 3) (walkCount w)

/-- The status of a command whose hooks are refused, judged together before either is applied (R236). (DEDUCED, log 15.) -/
def Cmd.hookStatus (m : Cmd) (w : List Seen) (a : Active) (t : Core) : BitVec 8 :=
  if m.dSpace = 1 && (!t.runs || t.tenant ≠ m.tenant) then 0x09
  else if flagRF m.flags && !a.rfDone && (m.fill t).isNone then 0x10
  else if flagBA m.flags && !a.baDone && (m.arrival w t).isNone then 0x11 else 0

/-- A hook of a settled command, also of one with an empty walk, which brings 0 bytes (DESIGN CHOICE, log 76), at its
destination core, where that core is at step 1 of its tick. A refused one ends the
command with the destination handle's address in FADDR. (DESIGN CHOICE, log 64.) -/
def State.hookMove (s : State) (n : Nat) (a : Active) (act : Core → Option Core) (done : Active → Active) : State :=
  let m := a.cmd
  let t := (m.place n (hAddr m.hd / 64)).1
  let tc := s.getCore t
  let w := s.seen n a
  let st := m.hookStatus w a tc
  if tc.phase ≠ .arrive || s.clockStopped t || !s.settled n a || (walkFail w a).isSome then s
  else if st ≠ 0 then (if a.rfDone || a.baDone then s else s.endAt n a (w.length, 0) st (hAddr m.hd))
  else match act tc with
    | none => s
    | some tc1 => ((s.putCore t tc1).setAct n (done a)).retire n m.id

def execRfHook (core id : Nat) (s : State) : Out :=
  onDevice core (match (s.getCore core).actOf id with
    | some a => if flagRF a.cmd.flags && !a.rfDone then
        s.hookMove core a a.cmd.fill (fun a => { a with rfDone := true }) else s
    | none => s)

def execBaHook (core id : Nat) (s : State) : Out :=
  onDevice core (match (s.getCore core).actOf id with
    | some a => if flagBA a.cmd.flags && !a.baDone then
        s.hookMove core a (a.cmd.arrival (s.seen core a)) (fun a => { a with baDone := true }) else s
    | none => s)

/-! ## COMPLETE (R198, R217 to R219, R240) -/

/-- The group's token is pushed, or its failure noted; its flags are set after the landings of this tick (03 R78). -/
def Core.complete (c : Core) (g : Group) : Core :=
  let st : Fail := match g.fail with
    | some f => f.2
    | none => { status := 0, faddr := 0, poff := none }
  let c1 := { c with cp := { c.cp with groups := c.cp.groups.filter (·.id ≠ g.id), fpPend := c.cp.fpPend ||| g.fp } }
  if g.tq ≠ 0 then
    { c1 with q := { c1.q with fifo := vset c1.q.fifo g.tq.toNat (c1.tokens g.tq ++ [⟨st.status, st.faddr, st.poff⟩]) } }
  else match g.fail with
    | none => c1
    | some f =>
      let u := c1.cp.unobs
      { c1 with cp := { c1.cp with unobs := u.takeWhile (fun x => x.1 < g.id) ++ (g.id, f.2) :: u.dropWhile (fun x => x.1 < g.id) } }

def execComplete (core group : Nat) (s : State) : Out :=
  onDevice core (match (s.getCore core).cp.groups.find? fun g => g.id = group with
    | some g => if (s.getCore core).phase = .arrive && !s.clockStopped core && s.groupReady core g then
        (if g.tq ≠ 0 then s.record core 4 g.id else s).putCore core
          (((if g.tq ≠ 0 then s.record core 4 g.id else s).getCore core).complete g) else s
    | none => s)

/-! ## Remote ATOMs (07 R177) -/

/-- Two remote ATOMs have a byte of their words in common. -/
def RAtom.meets (x y : RAtom) : Bool :=
  x.opa < y.opa + (if y.w64 then 8 else 4) && y.opa < x.opa + (if x.w64 then 8 else 4)

/-- No earlier remote ATOM of the core to the same word is still to be performed. -/
def atomFirst (l : List RAtom) (r : RAtom) : Bool := !(l.any fun x => x.seq < r.seq && x.meets r && x.reply.isNone)

def Core.setAtom (c : Core) (r : RAtom) : Core :=
  { c with cp := { c.cp with ratoms := c.cp.ratoms.map (fun x => if x.seq = r.seq then r else x) } }

/-- A remote ATOM at its target (R169, R177). -/
def State.remoteMove (s : State) (n : Nat) (r : RAtom) : State :=
  let c := s.getCore n
  let t := bits 32 22 r.opa
  let l := bits 21 0 r.opa
  let tc := s.getCore t
  let ans (s : State) (v : W64) (st : BitVec 8) : State :=
    s.putCore n ((s.getCore n).setAtom { r with reply := some (v, st, if st = 0 then 0 else BitVec.ofNat 64 r.opa) })
  let k := if r.w64 then 8 else 4
  if tc.phase ≠ .arrive || s.clockStopped t || r.reply.isSome || !atomFirst c.cp.ratoms r || s.diesHeld (coreDie n) (coreDie t) then s
  else if s.diesDown (coreDie n) (coreDie t) then ans s 0 0x16
  else if !tc.runs || tc.tenant ≠ c.tenant then ans s 0 0x09
  else if 0x100000 ≤ l then ans s 0 0x07
  else
    let b := l / 0x1000
    let go (s : State) : State :=
      let old := leNat ((List.range k).map fun i => s.getB t (l + i))
      if !s.replayOk n 3 old then s
      else
        let new := leBytes k (atomNew r.op (8 * k) old r.b.toNat r.c.toNat)
        ans ((s.setBs t l new).record n 3 old) (BitVec.ofNat 64 old) 0
    match tc.presOf b with
    | .poisoned => ans s 0 0x0C
    | .absent =>
      if s.draining t b || s.pullHeld t b then s
      else match s.pullBlock t b with
        | none => ans s 0 0x17
        | some s1 => if (s1.getCore t).presOf b = .poisoned then ans s1 0 0x0C else go s1
    | _ => go s

def execRemoteAtom (core nth : Nat) (s : State) : Out :=
  onDevice core (match (s.getCore core).cp.ratoms.drop nth with
    | r :: _ => s.remoteMove core r
    | [] => s)

/-- The reply of a remote ATOM enters aq, and its signal is pushed. -/
def Core.atomReply (c : Core) (r : RAtom) (v : W64 × BitVec 8 × W64) : Core :=
  let c1 := c.dqAppend .aq { val := v.1, status := v.2.1, faddr := v.2.2 }
  let c2 := c1.pushTokens r.sq (r.sn.toNat + 1) plainTok
  { c2 with cp := { c2.cp with ratoms := c2.cp.ratoms.filter (·.seq ≠ r.seq) } }

def execRemoteAtomReply (core nth : Nat) (s : State) : Out :=
  onDevice core (match (s.getCore core).cp.ratoms.drop nth with
    | r :: _ => match r.reply with
      | some v => if (s.getCore core).phase = .arrive && !s.clockStopped core then s.putCore core ((s.getCore core).atomReply r v) else s
      | none => s
    | [] => s)

/-! ## TIMED_DEADLINE (R189, R190, R234, R235; 13 R314) -/

/-- Its deadline is this tick, and it has not been applied. -/
def Active.isDue (a : Active) : Bool := a.cmd.due = some 0 && !a.applied

/-- Timed commands whose deadline is this tick. -/
def Core.dueNow (c : Core) : Bool := (c.cp.cmds.any fun m => m.due = some 0) || c.cp.act.any Active.isDue

/-- The grains and bytes of a timed command. -/
def timedData (w : List Seen) : List (Nat × List (Nat × Byte)) :=
  ((w.flatMap (·.grains)).eraseDups).map fun g => (g, grainBytes w w.length g)

/-- The place of a grain of a core's own storage that its timed commands write. -/
def State.timedHome (s : State) (n : Nat) (a : Active) (g : Nat) : Home × Nat :=
  let x := s.grainOf (a.cmd.ctx n) .write 0 0 g none
  (x.home, x.num)

/-- A timed command applies all its deliveries together; a partly covered poisoned block, or one that cannot be
pulled, fails it at its first element there. One that fails applies nothing (R235). -/
def State.applyTimed (s : State) (n : Nat) (a : Active) : State :=
  let w := s.seen n a
  let c := s.getCore n
  let fin (s : State) (a : Active) : State := (s.setAct n { a with applied := true }).retire n a.cmd.id
  if (walkFail w a).isSome then fin s a
  else
    let data := timedData w
    let gs := data.map (·.1)
    let blocks := (gs.flatMap fun g => blocksIn (64 * g) 64).eraseDups
    let gone := blocks.filter fun b => c.presOf b = .absent || c.presOf b = .poisoned
    let whole := gone.filter (wholeBlock w a 0 false)
    match blockFail w a.cmd.args.dSz 0 (fun b => if whole.contains b then 0 else c.partFail b) gs with
    | some (pos, ad, st) => fin s (a.failing pos st ad)
    | none => match gs.foldl (fun r g => r.bind fun t => t.readAhead n a.cmd (s.timedHome n a g)) (some s) with
      | none => s
      | some s0 =>
        let s1 := s0.applyGrains a.cmd n data
        fin (gone.foldl (fun s b => s.putCore n ((s.getCore n).setPres b .present)) s1) (s0.actNow n a)

/-- The data of a timed command have not all arrived; or what an earlier untimed command of the stream has to do at one of
their grains is still to come (R190, R194). -/
def State.timedWaits (s : State) (n : Nat) (a : Active) : Bool :=
  let w := s.seen n a
  !decided w a || ((walkFail w a).isNone && (timedData w).any fun p =>
    let h := s.timedHome n a p.1
    ((s.getCore n).before a.cmd.id).any fun b => b.cmd.due.isNone
      && ((s.writesLeft n b).contains h || (s.readsLeft n b).contains h))

/-- Blocks that must be pulled before the timed deliveries are applied. -/
def State.timedPulls (s : State) (n : Nat) (a : Active) : List Nat :=
  let w := s.seen n a
  let c := s.getCore n
  if (walkFail w a).isSome then []
  else (((timedData w).flatMap fun p => blocksIn (64 * p.1) 64).eraseDups).filter fun b =>
    c.presOf b = .absent && !c.t.pullFail.contains b && !wholeBlock w a 0 false b

/-- A core at its timed commands' deadline waits for data: of a command that has not started, or that waits. -/
def State.deadlineWaits (s : State) (n : Nat) : Bool :=
  let c := s.getCore n
  c.cp.cmds.any (fun m => m.due = some 0) || c.cp.act.any fun a => a.isDue && s.timedWaits n a

/-- Blocks that its deliveries must have pulled first. -/
def State.deadlinePulls (s : State) (n : Nat) : List Nat :=
  (((s.getCore n).cp.act.filter Active.isDue).flatMap fun a => s.timedPulls n a).eraseDups

/-- An earlier command with the same deadline still has to write a grain of this one (R190, R194). -/
def State.timedBehind (s : State) (n : Nat) (a : Active) : Bool :=
  let gs (b : Active) : List Nat := (timedData (s.seen n b)).map (·.1)
  (s.getCore n).cp.act.any fun b => b.isDue && b.cmd.id < a.cmd.id && (gs b).any (gs a).contains

/-- The timed command that is applied next on its deadline tick: of several that may be, a free value's choice (R190: every
order is reachable). (DESIGN CHOICE of form, log 67.) -/
def State.dueNext (s : State) : Option Active :=
  match s.core.cp.act.filter fun a => a.isDue && !s.timedBehind s.cur a with
  | [] => none
  | [a] => some a
  | l => l[Config.duePick s.free % l.length]?

/-- The deadline of one timed command: it is applied, and counted in BREACH if it was late, also where it then fails (R235).
(DEDUCED, log 67.) -/
def State.deadline (s : State) (n : Nat) (a : Active) : State :=
  let t := s.applyTimed n a
  if a.cmd.late && !((t.getCore n).cp.act.any fun b => b.cmd.id = a.cmd.id && b.isDue) then
    t.putCore n ((t.getCore n).setCsr .breach (((t.getCore n).csr .breach + 1) &&& Csr.mask .breach))
  else t

/-- TIMED_DEADLINE at step 1 of the selected core's tick: data that are missing freeze the domain, as do the pulls that its
deliveries need (R235); else one command is applied, so that other moves may come before the next (R190). -/
def execTimedDeadline (s : State) : Out :=
  let c := s.core
  if c.phase ≠ .arrive || s.clockStopped s.cur || !c.t.pulls.isEmpty || !c.dueNow then .next s
  else if s.deadlineWaits s.cur then
    let mark (m : Cmd) : Cmd := { m with late := true }
    .next (s.onCore fun c => { c with cp := { c.cp with
      cmds := c.cp.cmds.map fun m => if m.due = some 0 then mark m else m,
      act := c.cp.act.map fun a => if a.isDue && s.timedWaits s.cur a then { a with cmd := mark a.cmd } else a } })
  else match s.deadlinePulls s.cur with
    | b :: bs => .next (s.onCore fun c => c.freeze (b :: bs))
    | [] => match s.dueNext with
      | some a => .next (s.deadline s.cur a)
      | none => .next s

end Sys2Proof.Machine
end

