-- ==== Sys2Proof/Machine/Stations.lean ====
section
/-! DEFINITION. The steps of the erg stations (10 R263 to R269; 08 R199, R205; 11 R276, R287; 12 R301; 13 R319, R322). -/

namespace Sys2Proof.Machine

/-! ## TRANSMIT (R263, R264) -/

def nextStation (n : Nat) : Nat := (n + 1) % 10

/-- The releases of a stream with one more; those 2^19 or more regions behind count as released at ESN 0 (08 R205). -/
def Order.released (o : Order) (r : BitVec 20) (n : Nat) : List (BitVec 20 × Nat) :=
  (o.rel.filter fun p => (o.region - p.1).toNat < 2 ^ 19) ++ [(r, n)]

/-- A saved job learns the position of its pre-emption release. -/
def PreJob.learn (p : PreJob) (core n : Nat) : PreJob := if p.core = core && p.esn.isNone then { p with esn := some n } else p

/-- A PUT of station 9, which only the creation of a tenant sends (10 R267, 15 R355). -/
def Msg.creates (m : Msg) (t : BitVec 4) : Bool := m.kind = 0 && m.source = 9 && m.tenant = t

/-- The tenant's creation has messages still to transmit. -/
def State.creating (s : State) (t : BitVec 4) : Bool := (s.station 9).queue.any (Msg.creates · t)

/-- TEN is set once the last of them has been transmitted. (DEDUCED, log 28.) -/
def State.created (s : State) (m : Msg) : State :=
  if m.creates m.tenant && !s.creating m.tenant then s.setTenant m.tenant { (s.tenant m.tenant) with ten := true } else s

/-- The moment a message receives its number: its stream learns it (R264), a release is recorded with it (08 R205), a
function's ERQSTAT reports it and vector 2 is raised (15 R356). -/
def State.assign (s : State) (m : Msg) : State :=
  let n := s.erg.log.length + 1
  let s1 : State := { s with erg := { s.erg with log := s.erg.log ++ [m] } }
  let s2 := match m.origin with
    | some k =>
      let c := s1.getCore k
      let rel := match m.rel with
        | some r => c.o.released r n
        | none => c.o.rel
      s1.putCore k { c with o := { c.o with own := n, unsent := c.o.unsent - 1, rel := rel } }
    | none => s1
  let s3 : State := match m.origin, m.kind = 7 && m.arg.getLsbD 8 with
    | some k, true => { s2 with dist := { s2.dist with pre := s2.dist.pre.map fun p => p.learn k n } }
    | _, _ => s2
  match m.fn with
  | some f =>
    let t := s3.tenant f
    (s3.setTenant f { t with busy := false, reqEsn := n }).raise f 2
  | none => s3

/-- A job's message in replay counts among its tenant's messages (14 R352). (DESIGN CHOICE, log 13.) -/
def State.counted (s : State) (m : Msg) : State :=
  match m.origin with
  | none => s
  | some k =>
    let t := s.tenant m.tenant
    let s1 := if (s.getCore k).job.isSome && m.kind ≠ 7 then s.record k 2 t.msgs else s
    s1.setTenant m.tenant { (s1.tenant m.tenant) with msgs := t.msgs + 1 }

/-- Enforcement holds a message until those of lower rank have gone (14 R352). -/
def State.mayGo (s : State) (m : Msg) : Bool :=
  match m.origin with
  | none => true
  | some k => (s.getCore k).job.isNone || m.kind = 7 || s.replayOk k 2 (s.tenant m.tenant).msgs

/-- Up to n messages of a station's queue are transmitted, in order. -/
def State.sendSome (s : State) (station : Nat) : Nat → State
  | 0 => s
  | n + 1 =>
    let t := s.station station
    match t.queue.find? s.mayGo with
    | none => s
    | some m =>
      let rest := (t.queue.takeWhile fun x => !s.mayGo x) ++ (t.queue.dropWhile fun x => !s.mayGo x).drop 1
      let s1 : State := { s with erg := { s.erg with st := vset s.erg.st station { t with queue := rest } } }
      State.sendSome (((s1.counted m).assign m).created m) station n

/-- TRANSMIT: the station that holds the caravan sends up to four messages and passes it on. -/
def execTransmit (s : State) : Out :=
  if s.boot.stage.toNat < 6 then .next s
  else
    let s1 := s.sendSome s.erg.caravan 4
    .next { s1 with erg := { s1.erg with caravan := nextStation s.erg.caravan } }

/-! ## Applying messages (08 R199, R266, R267) -/

/-- The sync words of a replica with one replaced. -/
def putWord (l : List (Nat × W64)) (k : Nat) (x : W64) : List (Nat × W64) := if x = 0 then alDel l k else alSet l k x

/-- The next message at a station, where its replica takes messages. -/
def State.nextMsg (s : State) (n : Nat) : Option Msg :=
  let t := s.station n
  if 10 ≤ n || t.damaged.isSome then none else s.erg.log[t.applied]?

/-- The station's applied prefix rises, and its replica follows. -/
def State.applied (s : State) (n : Nat) (m : Msg) : State :=
  let t := s.station n
  let k := m.tenant.toNat * 1024 + m.word.toNat
  let words := if m.kind.toNat ≤ 2 then putWord t.words k (m.applyTo (alGet 0 t.words k)) else t.words
  { s with erg := { s.erg with st := vset s.erg.st n { t with applied := t.applied + 1, words := words } } }

/-- The application of the next message at a station, if it is of one kind, with its further effect there. -/
def applyKind (n : Nat) (kind : BitVec 4) (s : State) (eff : Msg → State → State := fun _ s => s) : Out :=
  match s.nextMsg n with
  | some m => .next (if m.kind = kind then eff m (s.applied n m) else s)
  | none => .next s

/-- The word a message acted on, as a replica holds it. -/
def State.wordOf (s : State) (n : Nat) (m : Msg) : W64 := alGet 0 (s.station n).words (m.tenant.toNat * 1024 + m.word.toNat)

def execErgPut (station : Nat) (s : State) : Out := applyKind station 0 s

/-- The log in which the old value of the next message at a station is recorded cannot be reached now (14 R352; 15 R362): the
station waits. -/
def State.addHeld (s : State) (n : Nat) : Bool := match s.nextMsg n with
  | some m => m.kind = 1 && m.source.toNat = n && (m.origin.map fun k => s.logHeld k 3).getD false
  | none => false

/-- ERG_ADD: at its own station the old value goes to the issuing core, which sees it on its next tick (R268). -/
def execErgAdd (station : Nat) (s : State) : Out :=
  if s.addHeld station then .next s
  else applyKind station 1 s fun m t =>
    match m.origin with
    | some k =>
      if m.source.toNat ≠ station then t
      else
        let old := s.wordOf station m
        let t1 := t.record k 3 old.toNat
        let c := t1.getCore k
        t1.putCore k { c with o := { c.o with replies := c.o.replies ++ [(old, (t1.station station).applied)] } }
    | none => t

/-- The target of an OBBAR for the value after its own add (R269). -/
def barTarget (v n : Nat) : W64 := BitVec.ofNat 64 ((v + n - 1) / n * n)

/-- ERG_BAR: at its own station it fixes the target of the barrier wait. -/
def execErgBar (station : Nat) (s : State) : Out :=
  applyKind station 2 s fun m t =>
    match m.origin with
    | some k =>
      if m.source.toNat ≠ station then t
      else
        let c := t.getCore k
        let target := barTarget (t.wordOf station m).toNat (bits 31 0 m.arg.toNat)
        let fix (w : BarWait) : BarWait := if w.target.isNone && w.word = m.word then { w with target := some target } else w
        t.putCore k { c with o := { c.o with barw := c.o.barw.map fix, sbarw := c.o.sbarw.map fix } }
    | none => t

/-- A SHOOTDOWN matches a cached result (12 R301). -/
def TlbEnt.matches (e : TlbEnt) (m : Msg) : Bool :=
  e.tenant = m.tenant
    && (m.arg.getLsbD 0 || (!e.win && e.key = (if e.big then bits 47 24 m.value.toNat else bits 47 16 m.value.toNat)))

/-- The units at a station that keep results: its cluster's engines, at station 8 the distributor. -/
def atStation (station eng : Nat) : Bool := if station = 8 then eng = distEng else eng / 16 = station && eng < 128

/-- A walk whose page may still prove to be one of 16 MiB, in which a SHOOTDOWN's page lies. -/
def TlbEnt.inRegion (e : TlbEnt) (m : Msg) : Bool :=
  e.tenant = m.tenant && !e.win && 2 ≤ e.left && e.key / 256 = bits 47 24 m.value.toNat

/-- A walk of a command that a SHOOTDOWN matches and that has not finished begins again, at once or, where only the size of its
page will tell, then; what a move has taken may still be used (12 R301). -/
def Copies.shot (cp : Copies) (m : Msg) : Copies :=
  let keep (e : TlbEnt) : Bool := e.left = 0 || !e.matches m
  let seen (e : TlbEnt) : TlbEnt := if e.left ≠ 0 && e.inRegion m then { e with stale := true } else e
  { cp with act := cp.act.map fun a => { a with took := (a.took.filter fun p => keep p.2).map fun p => (p.1, seen p.2) } }

def execShootdown (station : Nat) (s : State) : Out :=
  applyKind station 3 s fun m t =>
    let t1 : State := { t with tlb := t.tlb.filter fun e => !(atStation station e.eng && e.matches m) }
    t1.cores.foldl (fun t p => if clusterOf p.1 = station then t.putCore p.1 { p.2 with cp := p.2.cp.shot m } else t) t1

/-- CLOCK at its cluster's station: a request becomes pending, TRIP begins the hold (13 R319, R322). A tripped cluster
takes no request until its trip is released (R329). (DEDUCED, log 33.) -/
def execClock (station : Nat) (s : State) : Out :=
  applyKind station 4 s fun m t =>
    let k : BitVec 4 := m.value.extractLsb' 0 4
    let c := t.cluster station
    if station ≠ bits 2 0 m.arg.toNat then t
    else if m.value.getLsbD 4 then t.setCluster station { c with hold := some k, req := .none }
    else if c.tripped then t
    else t.setCluster station { c with req := .pending k }

/-- The cores of a cluster that run a job of a tenant. -/
def State.runningIn (s : State) (cluster : Nat) (t : BitVec 4) : List Nat :=
  ((List.range 256).map (256 * cluster + ·)).filter fun n => (s.getCore n).runs && (s.getCore n).tenant = t

/-- A core is asked for the PREEMPT trap. -/
def Core.askPreempt (c : Core) : Core := { c with t := { c.t with preempt := true } }

/-- PREEMPT: jobs of the tenant in the clusters named stop; at station 8 the hold begins or ends (11 R287). -/
def execPreempt (station : Nat) (s : State) : Out :=
  applyKind station 5 s fun m t =>
    let resume := m.value.getLsbD 9
    if station = 8 then
      let x := t.tenant m.tenant
      t.setTenant m.tenant { x with held := if resume then false else x.held || m.value.getLsbD 8 }
    else if resume || !m.value.getLsbD station || 8 ≤ station then t
    else (t.runningIn station m.tenant).foldl (fun t n => t.putCore n (t.getCore n).askPreempt) t

def execConfig (station : Nat) (s : State) : Out := applyKind station 6 s

/-! ## Retirement (11 R271, R276) -/

/-- RETIRED moves past the records that have ended in order; completion events for those that ask (R276, 15 R357). -/
def State.retireFrom (s : State) (t : BitVec 4) (q : Nat) : List Live → State
  | [] => s
  | l :: ls =>
    let x := s.tenant t
    let y := x.queue q
    if l.left = 0 && l.handed then
      let s1 := s.setTenant t (x.setQueue q { y with retired := y.retired + 1, live := ls })
      let s2 := if l.notify then s1.event t 2 0 ((recId (BitVec.ofNat 3 q) l.seq).setWidth 64) 0 0 else s1
      State.retireFrom s2 t q ls
    else s

def State.retireQueue (s : State) (t : BitVec 4) (q : Nat) : State := s.retireFrom t q ((s.tenant t).queue q).live

/-- A job of a record has ended. -/
def State.jobEnded (s : State) (t : BitVec 4) (rec : W32) : State :=
  let q := rec.toNat / 2 ^ 29
  let x := s.tenant t
  let y := x.queue q
  let one (l : Live) : Live := if recId (BitVec.ofNat 3 q) l.seq = rec then { l with left := l.left - 1 } else l
  (s.setTenant t (x.setQueue q { y with live := y.live.map one })).retireQueue t q

/-- JOBEND: at station 8 the job counts as ended, unless it was pre-empted. -/
def execJobend (station : Nat) (s : State) : Out :=
  applyKind station 7 s fun m t => if station = 8 && !m.arg.getLsbD 8 then t.jobEnded m.tenant (m.value.setWidth 32) else t

/-! ## Barrier waits and repair (R267, R269) -/

/-- A barrier wait is over at the prefix the tick sees (R269). -/
def State.barDone (s : State) : Bool :=
  match s.core.barWait with
  | some w => match w.target with
    | some t => (s.replica w.word - t).toNat < 2 ^ 63 && !s.repairing
    | none => false
  | none => false

/-- A barrier wait of the selected core ends now: after its A stream's issue step, in which the word behind the OBBAR has been
tried. -/
def State.barEnds (s : State) : Bool := s.core.phase = .issue .m && !s.core.t.ret && s.barDone

/-- BARRIER_WAIT_END: an acquire at the applied prefix, part of the OBBAR (08 R200); the next word issues at a later
boundary. (DEDUCED, log 37.) -/
def execBarrierWaitEnd (s : State) : Out :=
  .next (if s.barEnds then s.onCore fun c => { (c.setBarWait none) with o := (c.setBarWait none).o.take c.o.seen } else s)

/-- REPLICA_REPAIR: the word takes the value that every replica has at this station's prefix. (DEDUCED, log 23.) -/
def execReplicaRepair (station : Nat) (s : State) : Out :=
  let t := s.station station
  match t.damaged.filter fun _ => s.boot.verified with
  | none => .next s
  | some k =>
    let v := s.erg.wordAt t.applied (BitVec.ofNat 4 (k / 1024)) (BitVec.ofNat 10 k)
    .next { s with erg := { s.erg with st := vset s.erg.st station { t with damaged := none, words := putWord t.words k v } } }

/-- REPLICA_SOFT_ERROR: the station holds its messages until the word is repaired; a second error before that changes nothing.
(DESIGN CHOICE, log 23.) -/
def execReplicaSoftError (station tenant word : Nat) (s : State) : Out :=
  let t := s.station station
  if 10 ≤ station || 16 ≤ tenant || 1024 ≤ word || t.damaged.isSome then .next s
  else .next { s with erg := { s.erg with st := vset s.erg.st station { t with damaged := some (1024 * tenant + word) } } }

end Sys2Proof.Machine
end

