-- ==== Sys2Proof/Machine/Dist.lean ====
section
/-! DEFINITION. Launch records, the walker and the distributor; how jobs start, resume and end
(11 R270 to R289; 08 R200 to R204; 14 R335, R346, R352; 15 R355). -/

namespace Sys2Proof.Machine

/-! ## Fields of a launch record (R270) -/

def recW (l : List W64) (k : Nat) : Nat := (l.getD k 0).toNat
def recSen (l : List W64) : Bool := bit 15 (recW l 14)
def recHeat (l : List W64) : Nat := bits 5 4 (recW l 6)
def recParity (l : List W64) : Nat := bits 6 6 (recW l 6)
def recMask (l : List W64) : Nat := bits 15 8 (recW l 6)
def recPrio (l : List W64) : Nat := bits 2 0 (recW l 6)
def recSlice (l : List W64) : Nat := bits 63 32 (recW l 6)
def recNotify (l : List W64) : Bool := bit 24 (recW l 6)
/-- Loop at a depth, 0 outermost. -/
def recOrder (l : List W64) (p : Nat) : Nat := bits (17 + 2 * p) (16 + 2 * p) (recW l 6)
def recStep (l : List W64) (n : Nat) : Nat := bits 63 32 (recW l (8 + n))
def recBound (l : List W64) (n : Nat) : Nat := bits 31 0 (recW l (8 + n))
/-- Values of a loop. -/
def recN (l : List W64) (n : Nat) : Nat := if recStep l n = 0 then 0 else ceilDiv (recBound l n) (recStep l n)
def recTotal (l : List W64) : Nat := recN l 0 * recN l 1 * recN l 2 * recN l 3
def recDep (l : List W64) (i : Nat) : Nat := if i = 0 then bits 31 0 (recW l 13) else bits 63 32 (recW l 13)
def recEnt (l : List W64) : StreamId → Nat
  | .a => bits 19 0 (recW l 5)
  | .m => bits 39 20 (recW l 5)
  | .v => bits 59 40 (recW l 5)
def recCode (l : List W64) (st : StreamId) : W64 := l.getD (2 + streamNo st) 0

/-- The index of a loop at an ordinal (R280). -/
def recIndex (l : List W64) (n k : Nat) : Nat :=
  let p := ((List.range 4).find? fun p => recOrder l p = k).getD 0
  let inner := ((List.range 4).filter (p < ·)).foldl (fun t d => t * recN l (recOrder l d)) 1
  n / inner % recN l k * recStep l k

/-! ## RECORD_CHECK (R272) -/

/-- Reserved fields are zero. -/
def recZero (l : List W64) : Bool :=
  bits 63 48 (recW l 0) = 0 && bits 63 54 (recW l 1) = 0 && bits 31 21 (recW l 1) = 0
    && [2, 3, 4].all (fun k => bits 31 22 (recW l k) = 0) && bits 63 60 (recW l 5) = 0 && bits 31 25 (recW l 6) = 0
    && !bit 7 (recW l 6) && !bit 3 (recW l 6) && bits 63 16 (recW l 14) = 0 && !bit 14 (recW l 14)
    && (recSen l || bits 13 0 (recW l 14) = 0) && bits 63 48 (recW l 15) = 0

/-- The lowest reason of R272's table, but for 12 and 13, that refuses a record of queue q with id `own`. -/
def State.refusal (s : State) (t : BitVec 4) (l : List W64) (own : W32) : Nat :=
  let img := bits 47 0 (recW l 0)
  let dst := bits 53 32 (recW l 1)
  let len := bits 20 0 (recW l 1)
  let late (d : Nat) : Bool := d ≠ 0 && d / 2 ^ 29 = own.toNat / 2 ^ 29 && decide ((d + 2 ^ 32 - own.toNat) % 2 ^ 29 < 2 ^ 28)
  if !recZero l then 1
  else if [StreamId.a, .m, .v].any fun st => !winValid (recCode l st) || winSize (recCode l st) ≤ recEnt l st then 2
  else if img % 8 ≠ 0 || dst % 8 ≠ 0 || len % 8 ≠ 0 || 0x100000 < len || 0x100000 < dst + len then 3
  else if !((List.range 4).all fun k => (List.range 4).any fun p => recOrder l p = k) then 4
  else if recHeat l = 3 || (recParity l = 1 && recHeat l ≠ 2) then 5
  else if recMask l = 0 then 6
  else if recSlice l = 0 || (List.range 4).any (fun k => recStep l k = 0) then 7
  else if 2 ^ 32 < recTotal l then 8
  else if late (recDep l 0) || late (recDep l 1) then 9
  else if recSen l && 6 ≤ bits 13 10 (recW l 14) then 10
  else match s.virtRead (s.tenantCtx t distEng) img len with
    | .error _ => 11
    | .ok _ => 0

/-! ## Heads of queues (R275, R277) -/

/-- A tenant whose jobs others wait for, in enforce mode (14 R352). (DEDUCED, log 25.) -/
def State.enforcing (s : State) : Option Nat :=
  (List.range 16).find? fun t => let x := s.tenant (BitVec.ofNat 4 t); x.ten && bits 63 62 x.replayset.toNat = 2

/-- The tenant's jobs may be started or resumed. -/
def State.tenantFree (s : State) (t : BitVec 4) : Bool :=
  let x := s.tenant t
  x.ten && x.imgOk && !x.held && (match s.enforcing with
    | some e => e = t.toNat
    | none => true)

/-- The power manager lets the tenant's record launch (13 R325, R326). -/
def State.powerFree (s : State) (t : BitVec 4) (heat : Nat) : Bool :=
  !s.pw.unatt && !s.pw.held.getLsbD t.toNat && !(heat = 2 && s.pw.ladder.contains .hot)

/-- Bytes of a slot of a queue. -/
def State.slotRead (s : State) (t : BitVec 4) (x : LQueue) (k : Nat) : Except (BitVec 8) (List Byte) :=
  s.placeRead (s.tenantCtx t distEng) (bits 63 60 x.addr.toNat) 0 (bits 47 0 x.addr.toNat + 128 * (k % x.slots)) 128

/-- A record leaves the head of its queue: every iteration has been handed out, or it was refused. -/
def State.passHead (s : State) (t : BitVec 4) (q : Nat) : State :=
  let x := s.tenant t
  let y := x.queue q
  let hand (l : Live) : Live := if l.seq = y.head then { l with handed := true } else l
  (s.setTenant t (x.setQueue q { y with head := y.head + 1, cur := none, live := y.live.map hand })).retireQueue t q

/-- The distributor's reads of a record, and of its image where it came to read it (07 R182, 12 R301). -/
def State.noteRecord (s : State) (t : BitVec 4) (x : LQueue) (k : Nat) (w : List W64) (image : Bool) : State :=
  let c := s.tenantCtx t distEng
  let s1 := s.distReads c (bits 63 60 x.addr.toNat) (bits 47 0 x.addr.toNat + 128 * (k % x.slots)) 128
  if image then s1.distReads c 2 (bits 47 0 (recW w 0)) (bits 20 0 (recW w 1)) else s1

/-- The distributor's reads of a record, and of its image, meet a link in key hold (15 R362). -/
def State.headHeld (s : State) (t : BitVec 4) (y : LQueue) : Bool :=
  let c := s.tenantCtx t distEng
  s.rangeHeld c (bits 63 60 y.addr.toNat) 0 (bits 47 0 y.addr.toNat + 128 * (y.head.toNat % y.slots)) 128
    || match s.slotRead t y y.head.toNat with
      | .ok b => s.rangeHeld c 2 0 (bits 47 0 (recW (wordsAt b 0 16) 0)) (bits 20 0 (recW (wordsAt b 0 16) 1))
      | .error _ => false

/-- The record at the head of a queue is read and checked; a refused one asks for its completion event like any other, but
for one whose slot was not written (R276). A slot that cannot be read counts as an image that cannot
(DESIGN CHOICE, log 14). -/
def State.loadHead (s : State) (t : BitVec 4) (q : Nat) : State :=
  let x := s.tenant t
  let y := x.queue q
  if !x.ten || !y.en || y.cur.isSome || y.head = y.tail || s.headHeld t y then s
  else
    let k := y.head
    let id := recId (BitVec.ofNat 3 q) k
    let l := match s.slotRead t y k.toNat with
      | .ok b => some (wordsAt b 0 16)
      | .error _ => none
    let reason := if y.failed.contains k then 12 else match l with
      | some w => s.refusal t w id
      | none => 11
    let w := l.getD []
    let live : Live := { seq := k, left := if reason = 0 then recTotal w else 0, handed := false,
                         notify := reason ≠ 12 && recNotify w }
    let y1 := { y with live := y.live ++ [live], failed := y.failed.filter (· ≠ k) }
    let s := if reason = 12 then s else s.noteRecord t y k.toNat w (l.isSome && (reason = 0 || reason = 11))
    if reason ≠ 0 then
      ((s.setTenant t (x.setQueue q y1)).event t 1 reason (id.setWidth 64) 0 0).passHead t q
    else
      let h : Head := { words := w, next := 0, latched := false, condEsn := 0, age := 0 }
      s.setTenant t (x.setQueue q { y1 with cur := some h })

/-- A dependence is satisfied (R271). -/
def Tenant.satisfied (x : Tenant) (d : Nat) : Bool :=
  d = 0 || decide (((x.queue (d / 2 ^ 29)).retired.toNat + 2 ^ 32 - d % 2 ^ 29) % 2 ^ 29 < 2 ^ 28)

/-- The conditions of a head record hold at station 8 (R277). -/
def State.conditionHolds (s : State) (t : BitVec 4) (l : List W64) : Bool :=
  let x := s.tenant t
  let z := s.station 8
  let w := alGet 0 z.words (1024 * t.toNat + bits 9 0 (recW l 14))
  x.satisfied (recDep l 0) && x.satisfied (recDep l 1)
    && (!recSen l || (z.damaged.isNone && match Cond.ofCode (bits 13 10 (recW l 14)) with
      | some cc => condHolds cc w (l.getD 12 0)
      | none => false))

/-- The conditions are latched; a record without iterations passes at once. -/
def State.latchHead (s : State) (t : BitVec 4) (q : Nat) : State :=
  let x := s.tenant t
  let y := x.queue q
  match y.cur with
  | none => s
  | some h =>
    if h.latched || !x.ten || !y.en || !s.conditionHolds t h.words then s
    else
      let esn := if recSen h.words || recDep h.words 0 ≠ 0 || recDep h.words 1 ≠ 0 then (s.station 8).applied else 0
      let s1 := s.setTenant t (x.setQueue q { y with cur := some { h with latched := true, condEsn := esn } })
      if recTotal h.words = 0 then s1.passHead t q else s1

def allQueues : List (BitVec 4 × Nat) := (List.range 128).map fun i => (BitVec.ofNat 4 (i / 8), i % 8)

def State.readHeads (s : State) : State := allQueues.foldl (fun s p => (s.loadHead p.1 p.2).latchHead p.1 p.2) s

/-! ## Suitable cores (R280, R281) -/

def Core.jobHeat (c : Core) : Nat := (c.job.map fun j => recHeat j.words).getD 0

/-- A core with a hot job is lit. -/
def Core.lit (c : Core) : Bool := c.job.isSome && c.jobHeat = 2

def around (n : Nat) : List Nat := (List.range 4).map (neighbour n)

def State.dark (s : State) (n : Nat) : Bool := (around n).any fun m => (s.getCore m).lit

/-- A core that may take a job; one whose cluster's clock is held may not. (DESIGN CHOICE, log 60.) -/
def State.suitable (s : State) (heat parity n : Nat) : Bool :=
  (s.getCore n).job.isNone && !s.dark n && (s.cluster (clusterOf n)).hold.isNone
    && (heat ≠ 2 || (parityOf n = parity && (around n).all fun m => (s.getCore m).job.isNone))

/-- Cores of the clusters of a mask, in the walker's order. -/
def maskCores (mask : Nat) : List Nat := (List.range 2048).filter fun n => mask.testBit (clusterOf n)

/-! ## Candidates (R278) -/

/-- Something the distributor may serve: the head of a queue, or a pre-empted job by its place in the list. -/
structure Cand where
  tenant : BitVec 4
  queue : Option Nat
  pre : Nat
  prio : Nat
  words : List W64
  /-- The core that replay demands (14 R352). -/
  only : Option Nat

/-- The log by which a tenant's placements are enforced (14 R352). -/
def Tenant.enforced (x : Tenant) : Option Nat :=
  if bits 63 62 x.replayset.toNat = 2 then some (64 * bits 47 6 x.replayset.toNat) else none

/-- No core: what a placement may take while its log lies behind a link in key hold (15 R362). -/
def noCore : Nat := 2048

/-- The core that an enforced placement must take. (DESIGN CHOICE, log 13.) -/
def State.placedAt (s : State) (t : BitVec 4) (seq : Nat) : Option Nat :=
  let c := s.tenantCtx t distEng
  match (s.tenant t).enforced with
  | none => none
  | some log =>
    if s.rangeHeld c 2 0 log 64 || s.rangeHeld c 2 0 log (s.searchLen c log 1 seq) then some noCore else s.loggedIn c log 1 seq

/-- Eligible records. -/
def State.recCands (s : State) : List Cand :=
  allQueues.filterMap fun p =>
    let y := (s.tenant p.1).queue p.2
    match y.cur with
    | none => none
    | some h =>
      if y.en && h.latched && s.tenantFree p.1 && s.powerFree p.1 (recHeat h.words) then
        some { tenant := p.1, queue := some p.2, pre := 0, prio := min 7 (recPrio h.words + h.age / 64), words := h.words,
               only := s.placedAt p.1 0 }
      else none

/-- Pre-empted jobs that may be resumed. -/
def State.preCands (s : State) : List Cand :=
  s.dist.pre.zipIdx.filterMap fun p =>
    if s.tenantFree p.1.job.tenant && p.1.esn.isSome then
      some { tenant := p.1.job.tenant, queue := none, pre := p.2, prio := p.1.job.prio, words := p.1.job.words,
             only := s.placedAt p.1.job.tenant (vget p.1.job.rk 1 0) }
    else none

def State.cands (s : State) : List Cand := s.preCands ++ s.recCands

/-- Placements that a candidate's job has had. -/
def State.placements (s : State) (c : Cand) : Nat :=
  if c.queue.isSome then 0 else ((s.dist.pre[c.pre]?).map fun p => vget p.job.rk 1 0).getD 0

/-- The reads of the logs that enforce the placements of the candidates (07 R182). -/
def State.readPlaces (s : State) : State :=
  s.cands.foldl (fun t c => match (s.tenant c.tenant).enforced with
    | some log => if c.only = some noCore then t else t.searchLog (s.tenantCtx c.tenant distEng) log 1 (s.placements c)
    | none => t) s

/-- The first suitable core of a candidate. -/
def State.coreFor (s : State) (c : Cand) : Option Nat :=
  (maskCores (recMask c.words)).find? fun n =>
    s.suitable (recHeat c.words) (recParity c.words) n && (match c.only with
      | some m => m = n
      | none => true)

/-- A running job of lower priority that has not been asked to stop. -/
def Core.below (c : Core) (prio : Nat) : Bool :=
  c.runs && !c.asked && ((c.job.map fun j => decide (j.prio < prio)).getD false)

/-- The core's job is on its way out: it is to stop, its routine saves it after a PREEMPT trap, or it has ended. -/
def Core.leaving (c : Core) : Bool := match c.job with
  | none => false
  | some j => match j.phase with
    | .ending .. => true
    | .running => c.asked || (c.inSup && bits 7 0 (c.csr .cause).toNat = 0x14)
    | _ => false

/-- The victims of a candidate without a suitable core (R287); none while some core it may take is still being left,
or its log cannot be reached. (DEDUCED, log 24.) -/
def State.victims (s : State) (c : Cand) : List Nat :=
  let mask := recMask c.words
  let inMask (n : Nat) : Bool := mask.testBit (clusterOf n)
  let stopping := s.cores.any fun p => inMask p.1 && p.2.leaving
  if stopping || c.only = some noCore then []
  else if recHeat c.words = 2 then
    match (maskCores mask).find? fun n => parityOf n = recParity c.words
        && (n :: around n).all (fun m => let k := s.getCore m; k.job.isNone || k.below c.prio)
        && (n :: around n).any (fun m => (s.getCore m).job.isSome) with
    | some n => (n :: around n).filter fun m => (s.getCore m).job.isSome
    | none => []
  else
    let key (p : Nat × Core) : Nat × Nat := ((p.2.job.map (·.prio)).getD 0, (p.2.job.map (·.seq)).getD 0)
    let l := s.cores.filter fun p => inMask p.1 && p.2.below c.prio
    match l.foldl (fun (b : Option (Nat × Core)) p => match b with
      | none => some p
      | some x => if (key p).1 < (key x).1 || ((key p).1 = (key x).1
          && ((key x).2 < (key p).2 || ((key x).2 = (key p).2 && x.1 < p.1))) then some p else b) none with
    | some p => [p.1]
    | none => []

/-- The tenant that service goes to among some (R278 rule 3), and the pointer after the round. Where the pointer has no round
left, as after reset, the tenant after it is looked at first. (DESIGN CHOICE, log 24.) -/
def Dist.turn (d : Dist) (weight : BitVec 4 → Nat) (ts : List (BitVec 4)) : Option (BitVec 4 × Dist) :=
  if ts.contains d.ptr && d.left ≠ 0 then some (d.ptr, { d with left := d.left - 1 })
  else
    let order := (List.range 16).map fun i => d.ptr + BitVec.ofNat 4 (i + 1)
    (order.find? ts.contains).map fun t => (t, { d with ptr := t, left := max 1 (weight t) - 1 })

/-- The candidate that a round serves among some (R278). -/
def State.choose (s : State) (l : List Cand) : Option (Cand × Dist) :=
  let weight (t : BitVec 4) : Nat := (s.tenant t).weight.toNat
  let l1 := if l.any fun c => weight c.tenant ≠ 0 then l.filter fun c => weight c.tenant ≠ 0 else l
  let top := l1.foldl (fun n c => max n c.prio) 0
  let l2 := l1.filter fun c => c.prio = top
  match s.dist.turn weight (l2.map (·.tenant)) with
  | none => none
  | some (t, d) =>
    let l3 := l2.filter fun c => c.tenant = t
    match l3.find? fun c => c.queue.isNone with
    | some c => some (c, d)
    | none =>
      let q := vget d.qptr t.toNat 0
      let order := (List.range 8).map fun i => (q.toNat + i) % 8
      (order.findSome? fun k => l3.find? fun c => c.queue = some k).map fun c =>
        (c, { d with qptr := vset d.qptr t.toNat (BitVec.ofNat 3 (c.queue.getD 0 + 1)) })

/-! ## Placing (R280, R281) -/

/-- What a lit core will see of its neighbours is zeroed (R281). -/
def State.clearLent (s : State) (n : Nat) : State :=
  (List.range 4).foldl (fun s d =>
    let m := neighbour n d
    let e := (d + 2) % 4
    let c := s.getCore m
    let sram := ((c.r.sram.clear (0x40000 * e) (0x40000 * (e + 1))).clear (0x200000 + 0x10000 * e) (0x208200 + 0x10000 * e)).clear
      (0x280000 + 0x10000 * e) (0x288000 + 0x10000 * e)
    s.putCore m { c with r := { c.r with sram := sram } }) s

/-- A job is placed on a core. -/
def State.place (s : State) (n : Nat) (j : Job) : State :=
  let s1 := s.putCore n { (s.getCore n) with job := some j }
  if recHeat j.words = 2 then s1.clearLent n else s1

/-- A job takes the next number among the start ticks. -/
def State.startTick (s : State) (n : Nat) : State :=
  let c := s.getCore n
  let s1 := s.putCore n { c with job := c.job.map fun j => { j with seq := s.dist.started } }
  { s1 with dist := { s1.dist with started := s1.dist.started + 1 } }

/-- The next iteration of a head record is handed to a core (R275, R280). -/
def State.handOut (s : State) (c : Cand) (q n : Nat) : State :=
  let x := s.tenant c.tenant
  let y := x.queue q
  match y.cur with
  | none => s
  | some h =>
    let id := recId (BitVec.ofNat 3 q) y.head
    let esn := ((y.esns.find? fun p => p.1 = id).map (·.2)).getD 0
    let job : Job := { tenant := c.tenant, queue := BitVec.ofNat 3 q, recId := id, words := h.words, ord := h.next,
                       prio := c.prio, seq := 0, ctxid := 0, waitEsn := max h.condEsn esn, img := 0, own := 0,
                       rk := .replicate 6 0, groups := none, phase := .placed }
    let s1 := s.place n job
    if h.next + 1 = recTotal h.words then
      let y1 := { y with esns := y.esns.filter fun p => p.1 ≠ id }
      (s1.setTenant c.tenant ((s1.tenant c.tenant).setQueue q y1)).passHead c.tenant q
    else s1.setTenant c.tenant ((s1.tenant c.tenant).setQueue q { y with cur := some { h with next := h.next + 1 } })

/-- A pre-empted job, or one that waited for its routine image, is given a core; its streams' places go with it. -/
def State.giveCore (s : State) (i n : Nat) : State :=
  match s.dist.pre.drop i with
  | [] => s
  | p :: _ =>
    let c := s.getCore n
    let job : Job := { p.job with waitEsn := max p.job.waitEsn (p.esn.getD 0), own := p.own }
    let s1 := s.putCore n { c with sa := p.sa, sm := p.sm, sv := p.sv, ci := p.ci, array := p.array }
    let s2 := s1.place n job
    { s2 with dist := { s2.dist with pre := s2.dist.pre.take i ++ s2.dist.pre.drop (i + 1) } }

/-- Records that could have been placed and were not served grow older (R278 rule 1), whatever the round did for another. -/
def State.growOlder (s : State) (l : List Cand) (served : Cand) : State :=
  l.foldl (fun s c => match c.queue with
    | none => s
    | some q =>
      if served.queue = some q && served.tenant = c.tenant then s
      else
        let x := s.tenant c.tenant
        let y := x.queue q
        let one (h : Head) : Head := { h with age := h.age + 1 }
        s.setTenant c.tenant (x.setQueue q { y with cur := y.cur.map one })) s

/-- ROUND: the heads are read and checked, and one candidate is served: it gets the first suitable core, or, where it
has none, jobs of lower priority stop for it (R278, R287 cause 2). (DEDUCED, log 24.) -/
def execRound (s : State) : Out :=
  let s1 := s.readHeads.readPlaces
  let l := s1.cands
  let can := l.filter fun c => (s1.coreFor c).isSome
  let live := l.filter fun c => (s1.coreFor c).isSome || !(s1.victims c).isEmpty
  if !s.boot.caps then .next s
  else match s1.choose live with
    | none => .next s1
    | some (c, d) =>
      let s2 := ({ s1 with dist := d } : State).growOlder can c
      match s1.coreFor c with
      | none => .next ((s1.victims c).foldl (fun s n => s.putCore n (s.getCore n).askPreempt) s2)
      | some n =>
        .next (match c.queue with
          | some q => s2.handOut c q n
          | none => s2.giveCore c.pre n)

/-! ## JOB_START (R282) -/

/-- The routine image of a tenant: 1,024 words (15 R355). -/
def State.routine (s : State) (t : BitVec 4) : Except (BitVec 8) (List W64) :=
  let a := 64 * bits 47 6 (s.tenant t).supimg.toNat
  if !devOk a || !devOk (a + 8191) then .error 0x08
  else if (List.range 128).any fun i => s.poison.contains (a / 64 + i) then .error 0x0C
  else .ok (wordsAt (s.mem.getN a 8192) 0 1024)

/-- The reads of a routine image refresh what the atomic units cache (07 R182). -/
def State.usedRoutine (s : State) (t : BitVec 4) : State :=
  let a := 64 * bits 47 6 (s.tenant t).supimg.toNat
  if !devOk a || !devOk (a + 8191) then s else (List.range 128).foldl (fun s i => s.touchCache false (a / 64 + i)) s

/-- They meet a link in key hold, on the way from the core's die (15 R362). -/
def State.routineHeld (s : State) (n : Nat) (t : BitVec 4) : Bool :=
  let a := 64 * bits 47 6 (s.tenant t).supimg.toNat
  devOk a && devOk (a + 8191) && (s.diesHeld (coreDie n) (dieOf a) || s.diesHeld (coreDie n) (dieOf (a + 8191)))

/-- Default divisors of a class (R282). -/
def defaultDivs (heat : Nat) : Nat := if heat = 0 then 0x2441 else if heat = 1 then 0x2221 else 0x2111

/-- The CSRs of a fresh job (R282). -/
def Job.csrs (j : Job) (x : Tenant) : Vector W64 37 :=
  let nat (n : Nat) : W64 := BitVec.ofNat 64 n
  let set : List (Csr × W64) :=
    [(.codea, recCode j.words .a), (.codem, recCode j.words .m), (.codev, recCode j.words .v),
     (.heapbase, vget x.xlat 0 0), (.heaplim, vget x.xlat 1 0), (.heapoff, vget x.xlat 2 0), (.ptroot, vget x.xlat 3 0),
     (.wintab, vget x.xlat 4 0), (.winlen, vget x.xlat 5 0), (.dirtymap, vget x.xlat 6 0),
     (.seed, j.words.getD 7 0), (.streamid, nat (4 * j.ord % 2 ^ 32)),
     (.cls, nat (recHeat j.words + 4 * recParity j.words)), (.divs, nat (defaultDivs (recHeat j.words))),
     (.throttle, x.note.setWidth 64), (.slice, nat (recSlice j.words)), (.tenant, j.tenant.setWidth 64),
     (.jobidx, nat j.ord), (.replay, x.replayset &&& Csr.mask .replay)]
  set.foldl (fun v p => vset v p.1.slot (p.2 &&& p.1.mask)) csrReset

/-- The scalars of a fresh job. -/
def Job.scalars (j : Job) : Vector W64 64 :=
  let nat (n : Nat) : W64 := BitVec.ofNat 64 n
  ((((((((Vector.replicate 64 (0 : W64)).set 1 (nat (recIndex j.words j.ord 0))).set 2 (nat (recIndex j.words j.ord 1))).set 3
    (nat (recIndex j.words j.ord 2))).set 4 (nat (recIndex j.words j.ord 3))).set 5 (nat j.ord)).set 6
    (nat (bits 47 0 (recW j.words 15)))).set 7 (j.recId.setWidth 64))

/-- A stream of a fresh job. -/
def Job.stream (j : Job) (st : StreamId) (div : Nat) : Stream :=
  { Stream.reset div with pc := BitVec.ofNat 17 (recEnt j.words st) }

/-- The order of a core whose job starts or resumes: an acquire at the applied prefix of its station (08 R200, R204). -/
def Order.begin (o : Order) (applied own : Nat) : Order :=
  { o.sync with region0 := o.region + 1, acq := applied, own := own, unsent := 0, barw := none, sbarw := none, seen := applied,
                replies := [] }

/-- What a core keeps of its traps for its next job: drains and IDENT words still to come (14 R345). -/
def Traps.nextJob (t : Traps) : Traps := { Traps.reset with drains := t.drains, idents := t.idents, saves := t.saves }

/-- The core at the start tick of its job. -/
def Core.started (c : Core) (j : Job) (x : Tenant) (image sup : List W64) (applied : Nat) : Core :=
  let h := recHeat j.words
  let d := if h = 0 then 4 else if h = 1 then 2 else 1
  let bytes := (image.map fun w => leBytes 8 w.toNat).flatten
  { r := { Regs.reset with s := j.scalars, csr := j.csrs x, sup := sup, sram := Mem.setN [] (bits 53 32 (recW j.words 1)) bytes },
    q := .reset, sa := j.stream .a 1, sm := j.stream .m d, sv := j.stream .v d, ci := { bound := 0, div := 2, newDiv := none }, land := [], array := 0, cp := .reset,
    o := c.o.begin applied 0, t := c.t.nextJob,
    job := some { j with phase := .running }, phase := .arrive }

/-- The messages that a job waits for have been applied at its core's station (08 R203). -/
def State.mayBegin (s : State) (n : Nat) (j : Job) : Bool :=
  let c := s.getCore n
  let z := s.station (clusterOf n)
  c.o.unsent = 0 && decide (c.o.own ≤ z.applied) && decide (j.waitEsn ≤ z.applied) && z.damaged.isNone && s.tenantFree j.tenant

/-- What the distributor keeps of a job that leaves a core: its streams' places, its latest own message. -/
def Core.leave (c : Core) (n : Nat) (j : Job) (esn : Option Nat) (own : Nat) : PreJob :=
  { job := j, core := n, esn := esn, own := own, sa := c.sa, sm := c.sm, sv := c.sv, ci := c.ci, array := c.array }

/-- The routine image cannot be read: the tenant is held, and the job leaves its core and stays a candidate (R282). -/
def State.holdFor (s : State) (n : Nat) (j : Job) (code : BitVec 8) : State :=
  let x := s.tenant j.tenant
  let c := s.getCore n
  let s1 := (s.putCore n { c with job := none }).setTenant j.tenant { x with held := true }
  ({ s1 with dist := { s1.dist with pre := s1.dist.pre ++ [c.leave n j (some 0) j.own] } } : State).faultEvent j.tenant code j.recId 0
    (j.ctxid.setWidth 64)

/-- A job ends before it runs. -/
def State.stillborn (s : State) (n : Nat) (j : Job) (code : BitVec 8) (addr : Nat) : State :=
  let s1 := s.faultEvent j.tenant code j.recId (BitVec.ofNat 64 addr) (j.ctxid.setWidth 64)
  (s1.putCore n { (s1.getCore n) with job := some { j with phase := .ending true false } }).jobBoundary (clusterOf n)

/-- JOB_START. -/
def State.startJob (s : State) (n : Nat) (j : Job) : State :=
  let ctx := s.tenantCtx j.tenant distEng
  if j.phase ≠ .placed || !s.mayBegin n j || s.routineHeld n j.tenant
      || s.rangeHeld ctx 2 0 (bits 47 0 (recW j.words 0)) (bits 20 0 (recW j.words 1)) then s
  else match s.routine j.tenant with
    | .error e => s.holdFor n j e
    | .ok sup => match s.virtRead ctx (bits 47 0 (recW j.words 0)) (bits 20 0 (recW j.words 1)) with
      | .error (e, a) => s.stillborn n j e a
      | .ok image =>
        let c := (s.getCore n).started j (s.tenant j.tenant) (wordsAt image 0 (image.length / 8)) sup
          (s.station (clusterOf n)).applied
        let img := (s.usedRoutine j.tenant).distReads ctx 2 (bits 47 0 (recW j.words 0)) (bits 20 0 (recW j.words 1))
        let t := (img.putCore n c).startTick n
        if t.logHeld n 1 then s else t.record n 1 n

def execJobStart (core : Nat) (s : State) : Out :=
  onDevice core (match (s.getCore core).job with
    | some j => s.startJob core j
    | none => s)

/-! ## JOB_RESUME (R287; 14 R346) -/

/-- A save of the image has not finished. -/
def State.identPending (s : State) (img : W64) : Bool :=
  s.cores.any fun p => p.2.t.idents.any fun i => imgHdr i.img = imgHdr img

/-- The core as it stands before the image is loaded: the tenant's translation, IMGDESC, the routine. -/
def Core.forImage (c : Core) (j : Job) (x : Tenant) (sup : List W64) (applied : Nat) : Core :=
  let base := j.csrs x
  let r : Regs := { Regs.reset with csr := vset base Csr.imgdesc.slot j.img, sup := sup }
  { c with r := r, q := .reset, land := [], cp := .reset, o := c.o.begin applied j.own,
           t := c.t.nextJob }

/-- A stream of a resumed job stands where its save left it between two boundaries (02 R48). -/
def Stream.place (x old : Stream) : Stream := { x with bound := old.bound, hold := old.hold, div := old.div, newDiv := old.newDiv }

/-- The image has been loaded: the job resumes as after ERET. (DEDUCED, log 25.) -/
def Core.resumed (c old : Core) (j : Job) : Core :=
  let c1 := c.setCsr .tenant (j.tenant.setWidth 64)
  let c2 := { c1 with sa := c1.sa.place old.sa, sm := c1.sm.place old.sm, sv := c1.sv.place old.sv, ci := old.ci, array := old.array,
                      t := { c1.t with saved := (old.sa.bound, old.sa.hold, false) } }
  { c2.returnTrap with job := some { j with phase := .running }, phase := .tickEnd }

def State.resumeJob (s : State) (n : Nat) (j : Job) : State :=
  if j.phase ≠ .resuming || !s.mayBegin n j || s.identPending j.img || s.routineHeld n j.tenant then s
  else match s.routine j.tenant with
    | .error e => s.holdFor n j e
    | .ok sup =>
      let old := s.getCore n
      let c := old.forImage j (s.tenant j.tenant) sup (s.station (clusterOf n)).applied
      let at' := ((s.usedRoutine j.tenant).select n).onCore fun _ => c
      if at'.loadHeld then s
      else match at'.loadImage with
      | none => s.stillborn n j 0x17 (imgHdr j.img)
      | some s1 =>
        let t := ((s1.onCore fun c => c.resumed old j).select s.cur).startTick n
        if t.logHeld n 1 then s else t.record n 1 n

def execJobResume (core : Nat) (s : State) : Out :=
  onDevice core (match (s.getCore core).job with
    | some j => s.resumeJob core j
    | none => s)

/-! ## The end of a job (R284; 10 R266; 08 R200, R201) -/

/-- R201's conditions for the job-end release hold. -/
def Core.mayEnd (c : Core) : Bool :=
  c.cp.act.isEmpty && c.cp.cb.isEmpty && c.cp.ratoms.isEmpty && !c.releaseWaits

/-- The station queues JOBEND, and a pre-empted job joins the distributor's. -/
def State.endJob (s : State) (n : Nat) (j : Job) (killed pre : Bool) : State :=
  let c := s.getCore n
  let arg := n % 256 + pre.toNat * 2 ^ 8 + killed.toNat * 2 ^ 9
  let m : Msg := { kind := 7, tenant := j.tenant, word := 0, source := BitVec.ofNat 4 (clusterOf n),
                   arg := BitVec.ofNat 42 arg, value := j.recId.setWidth 64, origin := some n, rel := some c.o.region, fn := none }
  let p := c.leave n { j with img := c.csr .imgdesc, ctxid := (c.csr .ctxid).setWidth 32, phase := .resuming } none c.o.own
  let o := { c.o.sync with unsent := c.o.unsent + 1 }
  let s1 := (s.putCore n { c with job := none, o := o }).send (clusterOf n) m
  if pre then { s1 with dist := { s1.dist with pre := s1.dist.pre ++ [p] } } else s1

/-- A core whose job is over transmits its JOBEND once it may. -/
def State.tryEnd (s : State) (n : Nat) : State :=
  let c := s.getCore n
  match c.job with
  | some j => match j.phase with
    | .ending killed pre => if c.mayEnd then s.endJob n j killed pre else s
    | _ => s
  | none => s

/-! ## LAUNCH_SLOT_WRITE, HOST_TAIL_WRITE, QUEUE_ENABLE (R273, R274, R285) -/

/-- LAUNCH_SLOT_WRITE: the oldest reservation of a queue is written, and TAIL advances. -/
def execLaunchSlotWrite (fn q : Nat) (s : State) : Out :=
  let t := BitVec.ofNat 4 fn
  let x := s.tenant t
  let y := x.queue q
  if 16 ≤ fn || 8 ≤ q then .next s
  else match y.resv with
    | [] => .next s
    | r :: rest =>
      let ctx : Ctx := { s.tenantCtx t distEng with xlat := r.xlat }
      if s.writeHeld ctx (bits 63 60 y.addr.toNat) 0 (bits 47 0 y.addr.toNat + 128 * (r.pos.toNat % y.slots)) 128 then .next s
      else
      let w := s.placeWrite ctx (bits 63 60 y.addr.toNat) 0 (bits 47 0 y.addr.toNat + 128 * (r.pos.toNat % y.slots)) r.bytes
      let ok := match w with
        | .ok _ => true
        | .error _ => false
      let s1 := match w with
        | .ok u => u
        | .error _ => s
      let y1 := { y with resv := rest, tail := y.tail + 1, failed := if ok then y.failed else y.failed ++ [r.pos],
                         esns := y.esns ++ [(recId (BitVec.ofNat 3 q) r.pos, r.esn)] }
      .next (s1.setTenant t ((s1.tenant t).setQueue q y1))

/-- A host write of TAIL: ignored where the queue is disabled or the device posts; reason 13 where it would overrun (R274). -/
def State.hostTail (s : State) (t : BitVec 4) (q : Nat) (tail : W32) : State :=
  let x := s.tenant t
  let y := x.queue q
  if !y.en || y.devpost then s
  else if y.slots < (tail - y.head).toNat then s.event t 1 13 0 0 0
  else s.setTenant t (x.setQueue q { y with tail := tail })

/-- HOST_TAIL_WRITE. -/
def execHostTailWrite (fn q : Nat) (tail : W32) (s : State) : Out :=
  .next (if 16 ≤ fn || 8 ≤ q then s else s.hostTail (BitVec.ofNat 4 fn) q tail)

/-- A write of a queue's control word: setting EN zeroes the counters. -/
def LQueue.control (y : LQueue) (ctl : W32) : LQueue :=
  let en := ctl.getLsbD 0
  if y.en then { y with en := en }
  else
    let z := { y with devpost := ctl.getLsbD 1, en := en }
    if en then { z with tail := 0, head := 0, retired := 0, cur := none, live := [], resv := [], failed := [], esns := [] } else z

def execQueueEnable (fn q : Nat) (ctl : W32) (s : State) : Out :=
  let t := BitVec.ofNat 4 fn
  let x := s.tenant t
  if 16 ≤ fn || 8 ≤ q then .next s else .next (s.setTenant t (x.setQueue q ((x.queue q).control ctl)))

/-! ## Ends of a tick (R286, R289; 13 R313, R314) -/

/-- No core of any cluster that a record names is suitable for a job of it (R286). -/
def State.nowhere (s : State) (words : List W64) : Bool :=
  !((maskCores (recMask words)).any (s.suitable (recHeat words) (recParity words)))

/-- Some candidate can be placed nowhere: an eligible record, or a pre-empted job, which stays one also while its tenant is held
or messages are still to come (R282, R286). -/
def State.crowded (s : State) : Bool :=
  (s.recCands.any fun c => s.nowhere c.words) || s.dist.pre.any fun p => s.nowhere p.job.words

/-- The acquire of the A stream lies 2^46 or more behind the newest ESN (10 R264). -/
def State.tooOld (s : State) : Bool := decide (2 ^ 46 ≤ s.erg.log.length - s.core.o.acq)

/-- SLICE_EXPIRY at the selected core, in its step of the tick: on a tick of the routine only where a CSR write of SLICE has
landed on it (13 R314). What it finds holds until the next tick that tests (14 R333). -/
def execSliceExpiry (s : State) : Out :=
  let c := s.core
  let go (c : Core) : Core := { c with phase := .trap, t := { c.t with sliced := false } }
  if c.phase ≠ .slice then .next s
  else if ((c.inSup || c.t.ret) && !c.t.sliced) || c.allJoined then .next (s.onCore go)
  else
    let out := s.tooOld || (c.csr .slice = 0 && s.crowded)
    let n := (c.job.map fun j => recSlice j.words).getD 0
    .next (s.onCore fun c =>
      let c1 := go { c with t := { c.t with expired := out } }
      if !out && c.csr .slice = 0 then c1.setCsr .slice (BitVec.ofNat 64 n) else c1)

/-- WATCHDOG at the selected core, in its step of the tick. -/
def execWatchdog (s : State) : Out :=
  let c := s.core
  let go (c : Core) : Core := { c with phase := .slice }
  if c.phase ≠ .watchdog then .next s
  else if !c.inSup && !c.t.ret && 2 ^ 24 ≤ c.stuckNow then
    .next (s.onCore fun c => go (c.noteStop (asyncStop 0x18 0 0)))
  else .next (s.onCore go)

/-- A page-fault stop is complete: M and V are stalled or joined, or stand at the boundary after their last engine tick; or
another cause is there (14 R337). (DEDUCED, log 22.) -/
def Core.pfReady (c : Core) (p : PfStop) (others : Bool) : Bool :=
  let past (x : Stream) (left : Nat) : Bool := x.joined || x.stalled || (left = 0 && x.bound = 0)
  others || (past c.sm p.leftM && past c.sv p.leftV)

/-- The causes present at the end of the tick. -/
def Core.causes (c : Core) : List Stop :=
  let l := c.t.stops ++ (if c.asked then [asyncStop 0x14 0 0] else [])
  match c.t.pf with
  | some p => if c.pfReady p (!l.isEmpty) then p.stop :: l else l
  | none => l

/-- TRAP_DELIVERY at the selected core, in its step of the tick (14 R333 to R335, R337; 10 R269). -/
def execTrapDelivery (s : State) : Out :=
  let c := s.core
  let go (c : Core) : Core := { c with phase := .tickEnd }
  if c.phase ≠ .trap then .next s
  else if c.inSup then
    match firstStop (c.t.stops.filter fun x => x.kind ≠ .async) with
    | some x => .next (s.killHere x.code x.faddr)
    | none => .next (s.onCore go)
  else if c.t.ret then .next (s.onCore go)
  else match firstStop c.causes with
    | none => .next (s.onCore go)
    | some x =>
      if c.o.barw.any fun w => w.target.isNone then .next s
      else .next (s.onCore fun c => { (c.takeTrap x ((c.t.pf.map fun p => decide (p.stop = x)).getD false)) with phase := .arrive })

/-- A stream at the end of a counted tick. -/
def Stream.tick (x : Stream) : Stream :=
  { x with bound := if x.bound = 0 then x.div - 1 else x.bound - 1, hold := x.hold - 1 }

/-- Results in flight count down on the ticks of their own mode (14 R335, R336). -/
def countDown (sup : Bool) (e : Land) : Land := if e.sup = sup then { e with rem := e.rem - 1, age := e.age + 1 } else e

def Copies.tick (cp : Copies) : Copies :=
  let cmd (m : Cmd) : Cmd := { m with due := m.due.map (· - 1) }
  let act (a : Active) : Active := { a with cmd := cmd a.cmd }
  { cp with cmds := cp.cmds.map cmd, act := cp.act.map act }

/-- The routine's word waits for the started commands of the context it saves or replaces (R344 to R346). -/
def Core.saving (c : Core) : Bool := match c.sa.word.map (decodeWord .a) with
  | some (.ok (.yield ..)) | some (.ok (.yieldKill ..)) | some (.ok (.eretImg ..)) => true
  | _ => false

/-- The deadlines of the started commands count down, those of the others stand. -/
def Copies.actTick (cp : Copies) : Copies := { cp.tick with cmds := cp.cmds }

/-- The end of a tick of the routine: only its own results and boundaries count (13 R313); but while a save waits for the
started commands, the deadlines of these come nearer too, or it would wait for ever (R344; DEDUCED, log 20). -/
def Core.supTick (c : Core) : Core :=
  { c with sa := c.sa.tick, land := c.land.map (countDown true), cp := if c.saving then c.cp.actTick else c.cp, phase := .arrive }

/-- The copy interface at the end of a counted tick. -/
def Iface.tick (x : Iface) : Iface := { x with bound := if x.bound = 0 then x.div - 1 else x.bound - 1 }

/-- The end of a counted tick; on the tick that the job ends on, TICK stays at it (R284): a remote ATOM lands as its reply
enters aq (07 R177). (DEDUCED, log 37.) -/
def Core.userTick (c : Core) : Core :=
  let left (x : Stream) (n : Nat) : Nat := if x.bound = 0 then n - 1 else n
  let pf (p : PfStop) : PfStop := { p with leftM := left c.sm p.leftM, leftV := left c.sv p.leftV }
  let t : Traps := { c.t with stuck := if c.t.ret then c.t.stuck else c.stuckNow, pf := c.t.pf.map pf, ret := false }
  let done := c.allJoined && c.land.isEmpty && c.cp.ratoms.isEmpty && c.cp.groups.isEmpty
  let phase (j : Job) : Job := if done then { j with phase := .ending false false } else j
  let c1 := if done then c else c.setCsr .tick (c.csr .tick + 1)
  { c1 with sa := c.sa.tick, sm := c.sm.tick, sv := c.sv.tick, ci := c.ci.tick, land := c.land.map (countDown false),
            array := c.array - 1, cp := c.cp.tick, t := t, job := c.job.map phase, phase := .arrive }

/-- The core's job is over. -/
def Core.ended (c : Core) : Bool := match c.job with
  | some j => match j.phase with
    | .ending .. => true
    | _ => false
  | none => false

/-- REFERENCE_TICK at the selected core, the last step of the tick. A job that ends on it is a job boundary (13 R321). -/
def execReferenceTick (s : State) : Out :=
  let c := s.core
  if c.phase ≠ .tickEnd then .next s
  else if c.inSup then .next (s.onCore Core.supTick)
  else
    let s1 := s.onCore Core.userTick
    .next (if s1.core.ended && !c.ended then s1.jobBoundary (clusterOf s.cur) else s1)

end Sys2Proof.Machine
end

