-- ==== Sys2Proof/Machine/Presence.lean ====
section
/-! DEFINITION. Pulls, background pulls, drains and soft errors (07 R171, R179; 14 R341 to R343, R351; 20 R368). -/

namespace Sys2Proof.Machine

/-! ## PULL (R341, R342) -/

def Traps.pulled (t : Traps) (b : Nat) : Traps := { t with pulls := t.pulls.filter (· ≠ b) }

/-- The block's pull could not be served: the toucher meets the failure (R341). -/
def Traps.pullLost (t : Traps) (b : Nat) : Traps := { t with pulls := t.pulls.filter (· ≠ b), pullFail := t.pullFail ++ [b] }

/-- PULL at the selected core: one of the blocks that the frozen domain waits for is read from its location, once no
earlier context drains it and no link on the way is in key hold. -/
def execPull (nth : Nat) (s : State) : Out :=
  let c := s.core
  match c.t.pulls[nth]? with
  | none => .next s
  | some b =>
    if c.presOf b ≠ .absent then .next (s.onCore fun c => { c with t := c.t.pulled b })
    else if s.draining s.cur b || s.pullHeld s.cur b then .next s
    else match s.pullBlock s.cur b with
      | some s1 => .next (s1.onCore fun c => { c with t := c.t.pulled b })
      | none => .next (s.onCore fun c => { c with t := c.t.pullLost b })

/-! ## TRICKLE_PULL (R342, R343) -/

/-- The lowest absent block whose pull is served now. -/
def State.trickle (s : State) : Option State :=
  ((List.range 404).filter fun b => s.core.presOf b = .absent && !s.draining s.cur b && !s.pullHeld s.cur b).findSome?
    (s.pullBlock s.cur)

/-- A background pull at the selected core: first those that PPULL asked for, then, under TRICKLE, the lowest absent
block. A pull that fails raises nothing. -/
def execTricklePull (s : State) : Out :=
  let c := s.core
  let drop (s : State) : State := s.onCore fun c => { c with t := { c.t with bg := c.t.bg.drop 1 } }
  if !c.runs then .next s
  else match c.t.bg with
    | (b, loc) :: _ =>
      if c.presOf b ≠ .absent then .next (drop s)
      else if s.draining s.cur b || s.locHeld s.cur b loc then .next s
      else .next (drop ((s.pullFrom s.cur b loc).getD s))
    | [] => .next (if (c.csr .presmode).getLsbD 0 then s.trickle.getD s else s)

/-! ## BLOCK_DRAIN (R343, R345, R368) -/

/-- How a save goes on after its core's release: under the registers that its context held then (R348). -/
def State.saveCtx (s : State) (n : Nat) (xlat : Vector W64 7) (tenant : BitVec 4) : Ctx :=
  { s.coreCtx n with xlat := xlat, tenant := tenant }

/-- The block's bytes are written to its location, under the registers that the context holds when the drain is performed,
or held at its release (R348); `none` where the drain fails. -/
def State.drainTo (s : State) (n : Nat) (d : Drain) : Option State :=
  let ctx : Ctx := if d.bytes.isNone then s.coreCtx n else s.saveCtx n d.xlat d.tenant
  let lost := d.bytes.isNone && decide ((s.getCore n).presOf d.block = .poisoned)
  match d.loc with
  | none => none
  | some e =>
    if lost || !locOk e then none
    else if locKind e = 0 then some s
    else match s.placeWrite ctx (if locKind e = 3 then 4 else locSpace e) (locWin e) (locAddr e)
        (d.bytes.getD (s.blockBytes n d.block)) with
      | .ok t => some t
      | .error _ => none

/-- The IDENT of the save that a drain belongs to, changed. -/
def forSave (no : Option Nat) (f : IdentW → IdentW) (l : List IdentW) : List IdentW :=
  l.map fun i => if no = some i.no then f i else i

/-- A failed drain damages the image: that of the context still in place, or one already saved. (DEDUCED, log 27.) -/
def Core.damage (c : Core) (d : Drain) : Core :=
  if d.bytes.isNone then { c with t := { c.t with damaged := true } }
  else { c with t := { c.t with idents := forSave d.save (fun i => { i with word := i.word ||| 1024 }) c.t.idents } }

/-- The drain is over; a block still in place stays outgoing until YIELD (R343). (DEDUCED, log 25.) -/
def Core.drained (c : Core) (nth : Nat) (d : Drain) : Core :=
  let left (i : IdentW) : IdentW := { i with blocks := i.blocks.erase d.block }
  { c with t := { c.t with drains := c.t.drains.eraseIdx nth,
                           idents := forSave d.save left c.t.idents } }

/-- The IDENT words of images whose last drain is over are written (R368), but for one behind a link in key hold (15 R362). -/
def State.finishIdents (s : State) (n : Nat) : State :=
  let t := (s.getCore n).t
  let ready (i : IdentW) : Bool := i.blocks.isEmpty && !s.writeHeld (s.saveCtx n i.xlat i.tenant) 2 0 (imgHdr i.img) 8
  let s1 := (t.idents.filter ready).foldl (fun s i =>
    match s.placeWrite (s.saveCtx n i.xlat i.tenant) 2 0 (imgHdr i.img) (leBytes 8 i.word.toNat) with
    | .ok u => u
    | .error _ => s) s
  let c := s1.getCore n
  s1.putCore n { c with t := { c.t with idents := t.idents.filter (!ready ·) } }

/-- The write of a drain meets a link in key hold. -/
def State.drainHeld (s : State) (n : Nat) (d : Drain) : Bool :=
  let ctx := if d.bytes.isNone then s.coreCtx n else s.saveCtx n d.xlat d.tenant
  match d.loc.filter fun e => locOk e && locKind e ≠ 0 with
  | some e => s.writeHeld ctx (if locKind e = 3 then 4 else locSpace e) (locWin e) (locAddr e) (blockLen d.block)
  | none => false

/-- BLOCK_DRAIN: the nth drain of a core ends; drains of one block end in order. One that fails tells the Rilosteg (R343). Past
the last drain, the IDENT words that waited for a link are written. -/
def State.drainEnd (s : State) (n nth : Nat) (fails : Bool) : State :=
  let l := (s.getCore n).t.drains
  match l[nth]? with
  | none => s.finishIdents n
  | some d =>
    let done (s : State) : State := (s.putCore n ((s.getCore n).drained nth d)).finishIdents n
    if (l.take nth).any (fun e => e.block = d.block) || s.drainHeld n d then s
    else match if fails then none else s.drainTo n d with
      | some s1 => done s1
      | none => done ((s.putCore n ((s.getCore n).damage d)).tell (.drain n d.block))

def execBlockDrain (core nth : Nat) (fails : Bool) (s : State) : Out := onDevice core (s.drainEnd core nth fails)

/-! ## Soft errors (R179, R351) -/

/-- An error in storage that a block holds. (DEDUCED, log 27.) -/
def Core.poisonBlock (c : Core) (b : Nat) : Core :=
  match c.presOf b with
  | .present | .outgoing => c.setPres b .poisoned
  | _ => c

/-- SOFT_ERROR. -/
def execSoftError (core : Nat) (place : SoftWhere) (s : State) : Out :=
  onDevice core (match place with
    | .block b => if blockReal b.toNat then s.putCore core ((s.getCore core).poisonBlock b.toNat) else s
    | .state => if (s.getCore core).runs then s.putCore core ((s.getCore core).noteStop (asyncStop 0x15 0 0)) else s
    | .supervisor => if (s.getCore core).runs then s.killAt core 0x15 0 else s)

/-- MEMORY_SOFT_ERROR: in memory or in an atomic unit's cache, the grain becomes poisoned. -/
def execMemorySoftError (grain : Nat) (s : State) : Out :=
  .next (if devOk (64 * grain) then s.poisonGrain grain else s)

end Sys2Proof.Machine
end

