-- ==== Sys2Proof/Machine/Pages.lean ====
section
/-! DEFINITION. Register pages: what every register reads as, requests to the erg, event rings, tenants, and what a host
write does (10 R265, R266; 11 R273, R274; 12 R309, R311; 13 R324, R328; 15 R353 to R358, R361, R366, R371). -/

namespace Sys2Proof.Machine

/-! ## Reading a page (R354) -/

/-- An entry of the capability list: id, payload, and whether another entry follows at an offset (R309). -/
def capEntry (cid next : Nat) (payload : List Byte) : List Byte :=
  leBytes 2 cid ++ [1, BitVec.ofNat 8 payload.length] ++ leBytes 2 next ++ payload.takeD 10 0

/-- The capability list of the G9-288 (R311). -/
def capList : List Byte :=
  capEntry 1 0x10 [0x47, 0x39, 0x20, 0x01, Config.stepping] ++ capEntry 2 0x20 [1, 4] ++ capEntry 3 0x30 [7]
    ++ capEntry 4 0x40 [7] ++ capEntry 5 0x50 [16, 16, 27] ++ capEntry 6 0x60 [1] ++ capEntry 7 0x70 [1, 20]
    ++ capEntry 8 0x80 [6, 16, 0x90, 0x01] ++ capEntry 9 0x90 [10, 4, 65, 0] ++ capEntry 10 0 [1, 0x0E]

def Expo.word (e : Expo) : Nat → W64
  | 0 => e.w0
  | 1 => e.base
  | 2 => e.limit
  | _ => e.key

/-- The two words of a link status entry (R361). -/
def Link.word (l : Link) (i : Nat) : Nat :=
  if i = 0 then l.hopns.toNat * 2 ^ 16 + l.retries.toNat * 2 ^ 8 + l.keylow.toNat * 4 + l.state.toNat else l.ctr.toNat

/-- The words of a launch-queue block (R273). -/
def LQueue.page (q : LQueue) (i : Nat) : Nat :=
  if i = 0 then q.addr.toNat
  else if i = 1 then q.devpost.toNat * 2 + q.en.toNat + q.tail.toNat * 2 ^ 32
  else if i = 2 then q.head.toNat + q.retired.toNat * 2 ^ 32
  else 0

/-- The words of a tenant control area (R355). -/
def Tenant.control (t : Tenant) (i : Nat) : Nat :=
  if i < 7 then (vget t.xlat i 0).toNat
  else if i = 8 then t.supimg.toNat
  else if i = 9 then t.replayset.toNat
  else if i = 10 then t.apbase.toNat
  else if i = 11 then t.ten.toNat
  else 0

/-- ERQSTAT (R356). -/
def Tenant.erqstat (t : Tenant) : Nat := t.busy.toNat * 2 ^ 63 + t.refused.toNat * 2 ^ 62 + (esnOf t.reqEsn).toNat

/-- Two 32-bit registers side by side. -/
def pair32 (lo hi : Nat) : Nat := lo + hi * 2 ^ 32

/-- The power registers of two adjacent words from an index on (R324). -/
def State.powerWord (s : State) (off : Nat) : Nat :=
  let p := s.pw
  let t (i : Nat) : Tenant := s.tenant (BitVec.ofNat 4 i)
  if off = 0x900 then pair32 p.cap.toNat (p.scaled.toNat * 2 ^ 29 + p.unatt.toNat * 2 ^ 28 + p.draw.toNat * 2 ^ 16 + p.idle.toNat)
  else if 0x940 ≤ off && off < 0x980 then
    let i := (off - 0x940) / 4
    pair32 (t i).floor.toNat (t (i + 1)).floor.toNat
  else if 0x980 ≤ off && off < 0x9C0 then
    let i := (off - 0x980) / 4
    pair32 (t i).tdraw.toNat (t (i + 1)).tdraw.toNat
  else 0

/-- Ranges of the physical function only (R354). -/
def pfRange (off : Nat) : Bool :=
  (0x10 ≤ off && off < 0x20) || (0x800 ≤ off && off < 0x9C0) || (0x2000 ≤ off && off < 0x5180) || (0x6000 ≤ off && off < 0x6048)

/-- The 64 bits that the aligned 8 bytes at an offset of a page read as. -/
def State.page (s : State) (fn off : Nat) : Nat :=
  let t := s.tenant (BitVec.ofNat 4 fn)
  let within (a b : Nat) : Bool := a ≤ off && off < b
  if pfRange off && fn ≠ 0 then 0
  else if off = 0 then s.boot.stage.toNat + s.boot.err.toNat * 2 ^ 8
  else if off = 0x10 then s.boot.addr.toNat
  else if off = 0x18 then s.boot.len.toNat
  else if off = 0x40 then t.reqLo.toNat
  else if off = 0x48 then t.reqHi.toNat
  else if off = 0x58 then t.erqstat
  else if off = 0x80 then t.evbase.toNat
  else if off = 0x88 then t.ovf.toNat * 32 + t.even.toNat * 16 + t.evlog2.toNat
  else if off = 0x90 then pair32 t.evtail.toNat t.evhead.toNat
  else if within 0x100 0x200 then (t.queue ((off - 0x100) / 32)).page (off % 32 / 8)
  else if within 0x400 0x438 then (vget t.xlat ((off - 0x400) / 8) 0).toNat
  else if within 0x800 0x840 then
    let i := (off - 0x800) / 4
    pair32 (s.tenant (BitVec.ofNat 4 i)).weight.toNat (s.tenant (BitVec.ofNat 4 (i + 1))).weight.toNat
  else if within 0x900 0x9C0 then s.powerWord off
  else if off = 0xA00 then t.note.toNat
  else if within 0x1000 0x2000 then (if s.boot.caps then le64 capList (off - 0x1000) else 0)
  else if within 0x2000 0x4000 then
    ((vget s.expo ((off - 0x2000) / 32) { w0 := 0, base := 0, limit := 0, key := 0 }).word (off % 32 / 8)).toNat
  else if within 0x4000 0x5000 then (s.tenant (BitVec.ofNat 4 ((off - 0x4000) / 256))).control (off % 256 / 8)
  else if within 0x5000 0x5180 then (vget s.links ((off - 0x5000) / 16) .reset).word (off % 16 / 8)
  else if off = 0x6000 then s.ck.cmd.toNat
  else if off = 0x6008 then s.ck.busy.toNat * 2 ^ 63 + s.ck.stat.toNat
  else if off = 0x6010 then s.ck.recv.toNat
  else if off = 0x6040 then s.boot.domain.toNat
  else if within 0x8000 0x8200 then bits 63 0 ((vget t.msix ((off - 0x8000) / 16) 0).toNat / 2 ^ (8 * (off % 16)))
  else if off = 0x8200 then t.pba.toNat
  else if within 0xA000 0xC000 then
    (alGet 0 (s.station 8).words (1024 * (fn % 16) + (off - 0xA000) / 8)).toNat
  else 0

/-- What a host read of a register page answers: an aligned 8-byte register, or one half of it; any other read is zero
(R353). -/
def State.hostRead (s : State) (fn off size : Nat) : Nat :=
  if 16 ≤ fn || 0x10000 ≤ off then 0
  else if size = 8 && off % 8 = 0 then s.page fn off
  else if size = 4 && off % 4 = 0 then s.page fn (off / 8 * 8) / 2 ^ (8 * (off % 8)) % 2 ^ 32
  else 0

/-! ## Requests to the erg (R265, R356) -/

/-- The message of a function's request block, as station 8 makes it. -/
def Tenant.request (x : Tenant) (fn : BitVec 4) : Msg :=
  let hi := x.reqHi.toNat
  { kind := BitVec.ofNat 4 (bits 63 60 hi), tenant := if fn = 0 then BitVec.ofNat 4 (bits 59 56 hi) else fn,
    word := BitVec.ofNat 10 (bits 55 46 hi), source := 8, arg := BitVec.ofNat 42 (bits 41 0 hi), value := x.reqLo,
    origin := none, rel := none, fn := some fn }

/-- The kinds that a function may send. -/
def mayRequest (fn kind : BitVec 4) : Bool := kind = 0 || kind = 3 || (fn = 0 && (kind = 5 || kind = 6))

/-- A doorbell: the request is queued at station 8, or refused. (DEDUCED, log 31.) -/
def State.ringDoorbell (s : State) (fn : BitVec 4) : State :=
  let x := s.tenant fn
  let m := x.request fn
  if x.busy || !mayRequest fn m.kind || !(s.tenant m.tenant).ten then s.setTenant fn { x with refused := true }
  else (s.setTenant fn { x with busy := true, refused := false }).send 8 m

/-! ## Event rings (R357) -/

/-- A write of the ring's control: OVF is cleared by a 1, setting EVEN zeroes the two counters. (DEDUCED, log 31.) -/
def Tenant.ringControl (x : Tenant) (ctl : Nat) : Tenant :=
  let y := { x with ovf := x.ovf && !bit 5 ctl, even := bit 4 ctl, evlog2 := BitVec.ofNat 4 (bits 3 0 ctl) }
  if bit 4 ctl && !x.even then { y with evtail := 0, evhead := 0 } else y

/-! ## Tenants (R355) -/

/-- The message that zeroes sync word w of a new tenant. -/
def zeroWord (t : BitVec 4) (w : Nat) : Msg :=
  { kind := 0, tenant := t, word := BitVec.ofNat 10 w, source := 9, arg := 0, value := 0, origin := none, rel := none,
    fn := none }

/-- TEN is to be set, by the Rilosteg: station 9 gets 1,024 messages, and TEN follows the last of them (R267). Every write to TEN is
ignored while this device is a buddy (R366). -/
def State.createTenant (s : State) (t : BitVec 4) : State :=
  if !s.boot.verified || s.ck.recv || (s.tenant t).ten || s.creating t then s
  else
    let s1 := s.setTenant t { (s.tenant t) with msgs := 0, creds := 0 }
    let z := s1.station 9
    { s1 with erg := { s1.erg with st := vset s1.erg.st 9 { z with queue := z.queue ++ (List.range 1024).map (zeroWord t) } } }

/-- A saved job of the tenant ends without being resumed: station 8 transmits its JOBEND. -/
def State.endSaved (s : State) (j : Job) : State :=
  let m : Msg := { kind := 7, tenant := j.tenant, word := 0, source := 8, arg := 512, value := j.recId.setWidth 64,
                   origin := none, rel := none, fn := none }
  (s.faultEvent j.tenant 0x14 j.recId 0 (j.ctxid.setWidth 64)).send 8 m

/-- A job of the tenant that has a core ends, unless it has ended already; a saved one that is to be resumed there leaves the
core. -/
def State.endFor (s : State) (n : Nat) (j : Job) : State :=
  match j.phase with
  | .running => s.killAt n 0x14 0
  | .ending true _ | .ending false false => s
  | .resuming => (s.putCore n { (s.getCore n) with job := none }).endSaved j
  | .placed | .ending false true =>
    let s1 := s.killEvent n 0x14 0
    let s2 := s1.putCore n { (s1.getCore n) with job := some { j with phase := .ending true false } }
    if j.phase = .placed then s2.jobBoundary (clusterOf n) else s2

/-- TEN is cleared: every job of the tenant ends. -/
def State.disableTenant (s : State) (t : BitVec 4) : State :=
  if s.ck.recv || !(s.tenant t).ten then s
  else
    let s1 := s.setTenant t { (s.tenant t) with ten := false }
    let s2 := s1.cores.foldl (fun s p => match p.2.job with
      | some j => if j.tenant = t then s.endFor p.1 j else s
      | none => s) s1
    let mine := s2.dist.pre.filter fun p => p.job.tenant = t
    let s3 : State := { s2 with dist := { s2.dist with pre := s2.dist.pre.filter fun p => p.job.tenant ≠ t } }
    mine.foldl (fun s p => s.endSaved p.job) s3

def State.noTenant (s : State) : Bool := s.ten.toList.all fun x => !x.ten

/-! ## Checkpoints (R366) -/

/-- Every tenant is held and no job runs. (DEDUCED, log 28.) -/
def State.quiet (s : State) : Bool :=
  (s.ten.toList.all fun x => !x.ten || x.held) && s.cores.all fun p => !p.2.runs

/-- Package that the +z links of this device reach. -/
def State.buddy (s : State) : Nat :=
  let d := s.dieAt 0
  packageNo d.1 d.2.1 ((d.2.2 + 1) % max (domZ s.boot.trained) 1)

/-- The four +z links of this device are up. -/
def State.buddyLinked (s : State) : Bool :=
  domZ s.boot.trained ≠ 1 && (List.range 4).all fun d => 2 ≤ (vget s.links (6 * d + 4) Link.reset).state.toNat

/-- A +z link is in key hold: no page passes it now (R362). -/
def State.buddyHeld (s : State) : Bool := (List.range 4).any fun d => (vget s.links (6 * d + 4) Link.reset).held

/-- The granules of 64 KiB that are mappable (R178), stack by stack. -/
def mappableGranules : List Nat := (List.range 8).flatMap fun k => (List.range 0x86100).map (2 ^ 20 * k + ·)

/-- Their number. -/
def mappablePages : Nat := 8 * 0x86100

/-- The reads or writes of some granules refresh what the atomic units cache, in the order of addresses (07 R182). -/
def State.usedGranules (s : State) (p : Nat → Bool) : State :=
  let put (l : List Nat) (g : Nat) : List Nat := l.takeWhile (· < g) ++ (g :: l.dropWhile (· < g))
  ((s.cache.toList.flatten.filter fun g => p (g / 1024)).foldl put []).foldl (fun s g => s.touchCache false g) s

/-- The status with which a checkpoint is refused; 0 where it goes on. (DEDUCED, log 30.) -/
def State.ckRefusal (s : State) : BitVec 8 :=
  if !s.quiet then 1 else if !s.buddyLinked then 3 else if !(s.peer s.buddy).recv then 2 else 0

/-- The checkpoint block after a start. -/
def State.ckStart (s : State) (cmd : BitVec 2) (outcome : BitVec 8) (pages : Nat) : State :=
  { s with ck := { s.ck with cmd := cmd, busy := true, outcome := outcome, pages := pages } }

/-- A 64 KiB granule of one device's memory copied to another's, with its poisoned marks; tags of whole grains are copied as
WRITER 0xFFF. -/
def copyGranule (src : Mem) (marks : List Nat) (k : Nat) (x : Mem × List Tag × List Nat) : Mem × List Tag × List Nat :=
  let lo := 65536 * k
  let inside (g : Nat) : Bool := lo ≤ 64 * g && 64 * g < lo + 65536
  ((x.1.clear lo (lo + 65536)).setAll (src.filter fun c => inside (c.1 / 64)), x.2.1.filter fun t => !inside t.grain,
    (x.2.2.filter fun g => 64 * g < lo) ++ marks.filter inside ++ x.2.2.filter fun g => lo + 65536 ≤ 64 * g)

/-- The copies of the checkpoint under way: of a full one the buddy's memory becomes a copy of this device's, and the dirty log
starts empty; of an incremental one the marked granules are copied, and their marks cleared. (DEDUCED, log 30.) -/
def State.ckCopy (s : State) : State :=
  let b := s.buddy
  let p := s.peer b
  if s.ck.cmd = 1 then
    let s1 : State := { s.usedGranules fun _ => true with
      peers := alSet s.peers b { p with mem := s.mem, tags := [], poison := s.poison } }
    { s1 with ck := { s1.ck with logging := true, dirty := [], pages := mappablePages, todo := false } }
  else
    let x := s.ck.dirty.foldl (fun x k => copyGranule s.mem s.poison k x) (p.mem, p.tags, p.poison)
    let s1 : State := { s.usedGranules s.ck.dirty.contains with
      peers := alSet s.peers b { p with mem := x.1, tags := x.2.1, poison := x.2.2 } }
    { s1 with ck := { s1.ck with dirty := [], pages := s.ck.dirty.length, todo := false } }

/-- A checkpoint is ordered: refused, or its pages are copied, at once or, behind a link in key hold, before it ends. -/
def State.checkpoint (s : State) (cmd : BitVec 2) : State :=
  let r := s.ckRefusal
  if s.ck.busy || !s.boot.verified then s
  else
    let s1 := s.ckStart cmd r 0
    if r ≠ 0 then s1 else if s.buddyHeld then { s1 with ck := { s1.ck with todo := true } } else s1.ckCopy

def State.fullCheckpoint (s : State) : State := s.checkpoint 1
def State.incrementalCheckpoint (s : State) : State := s.checkpoint 2

/-- A word of an exposure entry as a write leaves it (12 R305). -/
def Expo.setWord (e : Expo) (i : Nat) (v : W64) : Expo :=
  if i = 0 then { e with w0 := v &&& 0x80000000000F0000 }
  else if i = 1 then { e with base := v &&& 0x0000FFFFFFFFFFC0 }
  else if i = 2 then { e with limit := v }
  else { e with key := v &&& 0xFFFFFFFF }

/-! ## Other packages of the domain (12 R305; 15 R366; log 30) -/

/-- A granule that a peer's checkpoint brings, where this device is a buddy; a write like any other (R366). -/
def State.receiveGranule (s : State) (src : Mem) (marks : List Nat) (k : Nat) : State :=
  let x := copyGranule src marks k (s.mem, s.tags, s.poison)
  { (s.usedGranules (· = k)).markGranule (1024 * k) with mem := x.1, tags := x.2.1, poison := x.2.2 }

/-- The package whose +z links reach this device. -/
def State.ward (s : State) : Nat :=
  let d := s.dieAt 0
  packageNo d.1 d.2.1 ((d.2.2 + max (domZ s.boot.trained) 1 - 1) % max (domZ s.boot.trained) 1)

/-- Some granule of a device's memory differs from that of another. -/
def granuleDiffers (x y : Mem) (p q : List Nat) (k : Nat) : Bool :=
  let cells (m : Mem) := m.filter fun c => c.1 / 65536 = k
  let marks (l : List Nat) := l.filter fun g => g / 1024 = k
  cells x ≠ cells y || marks p ≠ marks q

/-- The checkpoint of another package arrives here, where this device is its buddy and receives, over links that are up: every
mappable granule; of an incremental one, those whose contents differ from this device's. (DEDUCED, log 30.) -/
def State.receive (s : State) (n : Nat) (full : Bool) : State :=
  let p := s.peer n
  let ks := if full then mappableGranules
    else ((p.mem ++ s.mem).map (fun (c : Host.Cell) => c.1 / 65536) ++ (p.poison ++ s.poison).map (· / 1024)).eraseDups.filter
      (granuleDiffers p.mem s.mem p.poison s.poison)
  let up := (List.range 4).all fun d => (vget s.links (6 * d + 5) Link.reset).state = 2
  if n ≠ s.ward || domZ s.boot.trained = 1 || !s.ck.recv || !up then s
  else ks.foldl (fun s k => s.receiveGranule p.mem p.poison k) s

/-- What the host of another package writes to registers of its physical function that this device comes to see: its exposure
table, its CKRECV and its CKCMD. (DESIGN CHOICE, log 30.) -/
def State.peerWrite (s : State) (n off : Nat) (v : W64) : State :=
  let p := s.peer n
  let put (p : Peer) : State := { s with peers := alSet s.peers n p }
  if off % 8 ≠ 0 then s
  else if off = 0x6010 then put { p with recv := v.getLsbD 0 }
  else if off = 0x6000 then (if v.getLsbD 0 && !v.getLsbD 1 then s.receive n true
    else if v.getLsbD 1 && !v.getLsbD 0 then s.receive n false else s)
  else if 0x2000 ≤ off && off < 0x4000 then
    let k := (off - 0x2000) / 32
    let l := p.expo ++ List.replicate (k + 1 - p.expo.length) { w0 := 0, base := 0, limit := 0, key := 0 }
    put { p with expo := l.set k ((l.getD k { w0 := 0, base := 0, limit := 0, key := 0 }).setWord (off % 32 / 8) v) }
  else s

/-! ## Host writes (R353, R354) -/

/-- Registers of 32 bits. -/
def is32 (off : Nat) : Bool :=
  (0x90 ≤ off && off < 0x98) || (0x100 ≤ off && off < 0x200 && 8 ≤ off % 32) || (0x800 ≤ off && off < 0xA04)
    || (0x8000 ≤ off && off < 0x8200)

/-- A vector that is unmasked with its pending bit set sends its message (R358). -/
def State.unmasked (s : State) (t : BitVec 4) (v : Nat) : State :=
  let x := s.tenant t
  if bit v x.pba.toNat && !bit 96 (vget x.msix v 0).toNat then
    (s.setTenant t { x with pba := x.pba &&& ~~~BitVec.ofNat 64 (2 ^ v) }).raise t v
  else s

/-- A write of a 32-bit register. -/
def State.write32 (s : State) (fn off : Nat) (v : W32) : State :=
  let t := BitVec.ofNat 4 fn
  let x := s.tenant t
  let within (a b : Nat) : Bool := a ≤ off && off < b
  if pfRange off && fn ≠ 0 then s
  else if off = 0x94 then s.setTenant t { x with evhead := v }
  else if within 0x100 0x200 then
    let q := (off - 0x100) / 32
    if off % 32 = 8 then s.setTenant t (x.setQueue q ((x.queue q).control v))
    else if off % 32 = 12 then s.hostTail t q v
    else s
  else if within 0x800 0x840 then
    let u := BitVec.ofNat 4 ((off - 0x800) / 4)
    s.setTenant u { (s.tenant u) with weight := v.setWidth 8 }
  else if off = 0x900 then { s with pw := { s.pw with cap := v.setWidth 12 } }
  else if within 0x940 0x980 then
    let u := BitVec.ofNat 4 ((off - 0x940) / 4)
    s.setTenant u { (s.tenant u) with floor := v.setWidth 12 }
  else if off = 0xA00 then s.setNote t (x.note &&& ~~~(v &&& 0x1F))
  else if within 0x8000 0x8200 then
    let k := (off - 0x8000) / 16
    let sh := 8 * (off % 16)
    let old := vget x.msix k 0
    let new := (old &&& ~~~((0xFFFFFFFF : BitVec 128) <<< sh)) ||| (v.setWidth 128 <<< sh)
    (s.setTenant t { x with msix := vset x.msix k new }).unmasked t k
  else s

/-- The CSR of a translation register by its place in a block (R290). -/
def xlatCsr (i : Nat) : Csr :=
  if i = 0 then .heapbase else if i = 1 then .heaplim else if i = 2 then .heapoff else if i = 3 then .ptroot
  else if i = 4 then .wintab else if i = 5 then .winlen else .dirtymap

/-- A write of word i of a tenant control area; a new routine image must be checked before it is used (R363).
(DEDUCED, log 34.) -/
def State.writeControl (s : State) (t : BitVec 4) (i : Nat) (v : W64) : State :=
  let x := s.tenant t
  if i < 7 then s.setTenant t { x with xlat := vset x.xlat i (v &&& (xlatCsr i).mask) }
  else if i = 8 then s.setTenant t { x with supimg := v &&& 0x0000FFFFFFFFFFC0, imgOk := false }
  else if i = 9 then s.setTenant t { x with replayset := v &&& Csr.mask .replay }
  else if i = 10 then s.setTenant t { x with apbase := v &&& 0x0000FFFFFFFF0000 }
  else if i = 11 then (if v.getLsbD 0 then s.createTenant t else s.disableTenant t)
  else s

/-- The boot ROM waits for the image's address and length (R363, R365). (DEDUCED, log 34.) -/
def Boot.named (b : Boot) : Boot :=
  if 2 ≤ b.stage.toNat then b else { b with stage := if b.addrSet && b.lenSet then 2 else 1 }

/-- A write of a 64-bit register. -/
def State.write64 (s : State) (fn off : Nat) (v : W64) : State :=
  let t := BitVec.ofNat 4 fn
  let x := s.tenant t
  let within (a b : Nat) : Bool := a ≤ off && off < b
  if pfRange off && fn ≠ 0 then s
  else if off = 0x10 then { s with boot := Boot.named { s.boot with addr := v, addrSet := true } }
  else if off = 0x18 then { s with boot := Boot.named { s.boot with len := v, lenSet := true } }
  else if off = 0x40 then s.setTenant t { x with reqLo := v }
  else if off = 0x48 then s.setTenant t { x with reqHi := v }
  else if off = 0x50 then s.ringDoorbell t
  else if off = 0x58 then s.setTenant t { x with refused := x.refused && !v.getLsbD 62 }
  else if off = 0x80 then s.setTenant t { x with evbase := v &&& 0x0000FFFFFFFFFFC0 }
  else if off = 0x88 then s.setTenant t (x.ringControl v.toNat)
  else if within 0x100 0x200 then
    let q := (off - 0x100) / 32
    let y := x.queue q
    if off % 32 = 0 && !y.en then s.setTenant t (x.setQueue q { y with addr := v &&& 0xF00FFFFFFFFFFFFF }) else s
  else if within 0x2000 0x4000 then
    let k := (off - 0x2000) / 32
    let e := vget s.expo k { w0 := 0, base := 0, limit := 0, key := 0 }
    { s with expo := vset s.expo k (e.setWord (off % 32 / 8) v) }
  else if within 0x4000 0x5000 then s.writeControl (BitVec.ofNat 4 ((off - 0x4000) / 256)) (off % 256 / 8) v
  else if off = 0x6000 then
    (if v.getLsbD 0 && !v.getLsbD 1 then s.fullCheckpoint else if v.getLsbD 1 && !v.getLsbD 0 then s.incrementalCheckpoint
     else { s with ck := { s.ck with cmd := v.setWidth 2 } })
  else if off = 0x6010 then (if s.noTenant then { s with ck := { s.ck with recv := v.getLsbD 0 } } else s)
  else if off = 0x6040 then (if s.noTenant then { s with boot := { s.boot with domain := v &&& 0x0FFF0FFF } } else s)
  else s

/-- One half of a 64-bit register is replaced; what the write sets off happens as for the whole. Bits that a 1 clears
read as 0 in the half that is not written. -/
def State.writeHalf (s : State) (fn off : Nat) (v : W32) : State :=
  let w := off / 8 * 8
  let old := s.page fn w
  let keep := if w = 0x58 then 0 else if w = 0x88 then old &&& 0xFFFFFFFFFFFFFFDF else old
  let new := if off % 8 = 0 then v.toNat + keep / 2 ^ 32 * 2 ^ 32 else keep % 2 ^ 32 + v.toNat * 2 ^ 32
  s.write64 fn w (BitVec.ofNat 64 new)

/-- A host write of 4 or 8 bytes, naturally aligned; others are dropped. -/
def State.hostWrite (s : State) (fn off size : Nat) (v : W64) : State :=
  if 16 ≤ fn || 0x10000 ≤ off then s
  else if size = 4 && off % 4 = 0 then
    if is32 off then s.write32 fn off (v.setWidth 32) else s.writeHalf fn off (v.setWidth 32)
  else if size = 8 && off % 8 = 0 then
    if is32 off then (s.write32 fn off (v.setWidth 32)).write32 fn (off + 4) ((v >>> 32).setWidth 32) else s.write64 fn off v
  else s

end Sys2Proof.Machine
end

