-- ==== Sys2Proof/Machine/Host.lean ====
section
/-! DEFINITION. What the host does: register writes, doorbells, event rings, tenants, the memory aperture, checkpoints
(11 R273, R274; 15 R353 to R358, R366). -/

namespace Sys2Proof.Machine

/-- A host's access through a function that exists. -/
def onFn (fn : Nat) (f : State) (s : State) : Out := .next (if fn < 16 then f else s)

/-- REGISTER_WRITE; functions from 16 on stand for the physical functions of the other packages of the domain, by their
numbers. (DESIGN CHOICE, log 30.) -/
def execRegisterWrite (fn off size : Nat) (value : W64) (s : State) : Out :=
  .next (if 16 ≤ fn then s.peerWrite (fn - 16) off value else s.hostWrite fn off size value)

/-- HOST_WRITE_ONE_TO_CLEAR: a write of ERQSTAT, of its upper half, of the ring's control or of NOTE, like any other of that
register. -/
def execHostWriteOneToClear (fn off : Nat) (value : W64) (s : State) : Out :=
  .next (if [0x58, 0x5C, 0x88, 0xA00].contains off then s.hostWrite fn off (if off = 0x58 then 8 else 4) value else s)

def execDoorbell (fn : Nat) (s : State) : Out := onFn fn (s.ringDoorbell (BitVec.ofNat 4 fn)) s

/-- EVENT_RING_ENABLE: a write of the ring's control. -/
def execEventRingEnable (fn : Nat) (ctl : W32) (s : State) : Out :=
  let t := BitVec.ofNat 4 fn
  onFn fn (s.setTenant t ((s.tenant t).ringControl ctl.toNat)) s

def execTenantCreate (t : Nat) (s : State) : Out := onFn t (s.createTenant (BitVec.ofNat 4 t)) s
def execTenantDisable (t : Nat) (s : State) : Out := onFn t (s.disableTenant (BitVec.ofNat 4 t)) s

/-! ## The aperture (R353, R355) -/

/-- The aperture of a function (R353). -/
def inAperture (off n : Nat) : Bool := 1 ≤ n && off + n ≤ 2 ^ 36

/-- Device virtual address of an offset of the aperture. -/
def Tenant.apAddr (x : Tenant) (off : Nat) : Nat := x.apbase.toNat + off

/-- How the host interface translates for a function: always afresh. -/
def State.apCtx (s : State) (t : BitVec 4) : Ctx := s.tenantCtx t hostEng

/-- The completion that the host receives. -/
def State.answers (s : State) (data : List Byte) (ep : Bool) : State := { s with answer := { data := data, ep := ep } }

/-- A host access that fails: its fault event names the grain. (DEDUCED, log 29.) -/
def State.apFault (s : State) (t : BitVec 4) (code : BitVec 8) (grain : Nat) : State :=
  s.faultEvent t code 0 (BitVec.ofNat 64 (64 * grain)) 0

/-- The first failing grain of an access, and how it fails. -/
def firstBad (l : List (Nat × List (BitVec 8))) : Option (Nat × BitVec 8) :=
  l.findSome? fun p => (p.2.find? (· ≠ 0)).map fun e => (p.1, e)

/-- The grains of n bytes. -/
def grainsOf (a n : Nat) : List Nat := ((List.range n).map fun i => (a + i) / 64).eraseDups

/-- A read, or a write, of n bytes of a function's aperture meets a link in key hold: it waits (R362). -/
def State.apHeld (s : State) (t : BitVec 4) (off n : Nat) : Bool :=
  s.rangeHeld (s.apCtx t) 2 0 ((s.tenant t).apAddr off) n
def State.apWriteHeld (s : State) (t : BitVec 4) (off n : Nat) : Bool :=
  s.writeHeld (s.apCtx t) 2 0 ((s.tenant t).apAddr off) n

/-- APERTURE_READ. -/
def execApertureRead (fn off n : Nat) (s : State) : Out :=
  let t := BitVec.ofNat 4 fn
  let a := (s.tenant t).apAddr off
  let got := (grainsOf a n).map fun g => (g, s.readGrain (s.grainOf (s.apCtx t) .read 2 0 g none))
  let ones : List Byte := List.replicate n 255
  onFn fn (
    if !inAperture off n || s.apHeld t off n then s
    else match firstBad (got.map fun p => (p.1, p.2.map (·.1))) with
      | some (g, e) => ((s.usedRange (s.apCtx t) 2 0 a n).apFault t e g).answers ones (e = 0x0C)
      | none => (s.usedRange (s.apCtx t) 2 0 a n).answers ((List.range n).map fun i =>
          ((((got.find? fun p => p.1 = (a + i) / 64).map (·.2)).getD []).getD ((a + i) % 64) (0, 0)).2) false) s

/-- APERTURE_WRITE: nothing is kept of a write that fails. -/
def execApertureWrite (fn off : Nat) (bytes : List Byte) (s : State) : Out :=
  let t := BitVec.ofNat 4 fn
  let a := (s.tenant t).apAddr off
  let c := s.apCtx t
  let bad := firstBad ((grainsOf a bytes.length).map fun g => (g, (s.grainOf c .write 2 0 g none).stat))
  onFn fn (
    if !inAperture off bytes.length || s.apWriteHeld t off bytes.length then s
    else match bad with
      | some (g, e) => s.apFault t e g
      | none => match s.virtWrite c a bytes with
        | .ok u => u
        | .error _ => s) s

/-- APERTURE_ATOMIC: the old value is the completion; the write is the host's (R180). (DEDUCED, log 31.) -/
def execApertureAtomic (fn off : Nat) (op : AtomOp) (w64 : Bool) (b cmp : W64) (s : State) : Out :=
  let t := BitVec.ofNat 4 fn
  let k := if w64 then 8 else 4
  let a := (s.tenant t).apAddr off
  let x := s.grainOf (s.apCtx t) .atomic 2 0 (a / 64) none
  let got := ((s.readGrain x).drop (a % 64)).take k
  let s0 := (s.usedPath x).atomTouch x
  onFn fn (
    if !inAperture off k || off % k ≠ 0 || !hostOp op || x.held then s
    else match firstBad [(a / 64, got.map (·.1))] with
      | some (g, e) => (s0.apFault t e g).answers (List.replicate k 255) (e = 0x0C)
      | none =>
        let old := leNat (got.map (·.2))
        let bs := (leBytes k (atomNew op (8 * k) old b.toNat cmp.toNat)).zipIdx.map fun p => (a % 64 + p.2, p.1)
        (((s0.writeGrain x.home x.num bs 0xFFF 0).moves t x.home x.num).setDirty x.leaf).answers (leBytes k old) false) s

/-! ## Checkpoints (R366) -/

def execCheckpointFull (s : State) : Out := .next s.fullCheckpoint
def execCheckpointIncremental (s : State) : Out := .next s.incrementalCheckpoint

/-- CHECKPOINT_END: a refusal keeps its status; a link that goes down under way is status 3; copies that a link in key hold
still bars keep the checkpoint from its end. (DEDUCED, log 30.) -/
def execCheckpointEnd (status : Nat) (s : State) : Out :=
  let down := status = 3 || (s.ck.todo && !s.buddyLinked)
  let st : BitVec 8 := if s.ck.outcome ≠ 0 then s.ck.outcome else if down then 3 else 0
  if !s.ck.busy || (s.ck.todo && !down && s.buddyHeld) then .next s
  else
    let s1 := if s.ck.todo && !down then s.ckCopy else s
    let s2 : State := { s1 with ck := { s1.ck with busy := false, stat := st, outcome := 0, todo := false } }
    .next (s2.event 0 6 st.toNat 0 (BitVec.ofNat 64 s1.ck.pages) 0)

end Sys2Proof.Machine
end

