-- ==== Sys2Proof/Machine/Power.lean ====
section
/-! DEFINITION. The power manager, cluster clocks and heat (13 R319 to R329). -/

namespace Sys2Proof.Machine

/-- A step of one cluster. -/
def onCluster (n : Nat) (f : Cluster → Cluster) (s : State) : Out :=
  .next (if n < 8 then s.setCluster n (f (s.cluster n)) else s)

/-! ## Clock changes (R319 to R323) -/

/-- CLOCK_HOLD_END. -/
def execClockHoldEnd (cluster : Nat) (s : State) : Out :=
  onCluster cluster (fun c => match c.hold with
    | some k => { c with hold := none, k := k }
    | none => c) s

/-- PHASE_TIMEOUT: the change waits for a job boundary; a cluster that runs no job is at one. -/
def execPhaseTimeout (cluster : Nat) (s : State) : Out :=
  onCluster cluster (fun c => match c.req with
    | .pending k => (fun d : Cluster => if s.runsIn cluster then d else d.mark) { c with req := .boundary k }
    | _ => c) s

/-- THROTTLE_PERIOD: the stopped part of a period of a throttled cluster begins, or ends. -/
def execThrottlePeriod (cluster : Nat) (s : State) : Out :=
  onCluster cluster (fun c => { c with stopped := c.g ≠ 0 && !c.stopped }) s

/-- A CLOCK message of the power manager (R319). -/
def clockMsg (cluster k : Nat) (trip : Bool) : Msg :=
  { kind := 4, tenant := 0, word := 0, source := 9, arg := BitVec.ofNat 42 cluster,
    value := BitVec.ofNat 64 (k + if trip then 16 else 0), origin := none, rel := none, fn := none }

/-- The clock step that a cluster has or has been asked for. -/
def State.targetK (s : State) (cluster : Nat) : Nat :=
  let c := s.cluster cluster
  let ms := (s.erg.log.drop (s.station cluster).applied ++ (s.station 9).queue).filter fun m =>
    m.kind = 4 && bits 2 0 m.arg.toNat = cluster
  match ms.getLast? with
  | some m => bits 3 0 m.value.toNat
  | none => match c.req with
    | .pending k | .boundary k => k.toNat
    | .none => (c.hold.getD c.k).toNat

def State.askClock (s : State) (cluster k : Nat) : State := s.send 9 (clockMsg cluster k false)

/-! ## Notices (R328) -/

/-- A throttle notice: the event, then the bit and the count in NOTE, then the power vector (`State.noticed`). The event's code
is the bit's value. (DEDUCED, log 32.) -/
def State.notice (s : State) (t : BitVec 4) (bit mask : Nat) : State :=
  s.event t 3 (2 ^ bit) (BitVec.ofNat 64 mask) ((s.tenant t).tdraw.setWidth 64) 0

def allTenants : List (BitVec 4) := (List.range 16).map (BitVec.ofNat 4)

/-- A notice to every tenant of some. -/
def State.notices (s : State) (ts : List (BitVec 4)) (bit : Nat) (mask : BitVec 4 → Nat) : State :=
  ts.foldl (fun s t => s.notice t bit (mask t)) s

/-! ## Floors (R324, R327) -/

/-- CAP as it acts. -/
def Power.acting (p : Power) : Nat := min 2400 p.cap.toNat

/-- The cap that is pursued: 50 W less for each degree of inlet temperature above 40 (R329). -/
def Power.pursued (p : Power) : Nat := p.acting - 50 * (p.inlet - 40)

def State.floorSum (s : State) : Nat := (s.ten.toList.map fun x => x.floor.toNat).sum

/-- The effective floor of a tenant. -/
def State.floorOf (s : State) (t : BitVec 4) : Nat :=
  let f := (s.tenant t).floor.toNat
  if s.pw.acting < s.floorSum then f * s.pw.acting / s.floorSum else f

def State.aboveFloor (s : State) (t : BitVec 4) : Bool := s.floorOf t < (s.tenant t).tdraw.toNat

/-- Tenants that run a job in a cluster. -/
def State.tenantsIn (s : State) (cluster : Nat) : List (BitVec 4) :=
  (s.cores.filterMap fun p => if clusterOf p.1 = cluster then p.2.job.map (·.tenant) else none).eraseDups

/-- A cluster that may be gated: it runs jobs of tenants above their floors, and of no other. (DEDUCED, log 32.) -/
def State.gateable (s : State) (cluster : Nat) : Bool :=
  let ts := s.tenantsIn cluster
  !ts.isEmpty && ts.all s.aboveFloor

/-- Clusters of a tenant that are throttled. -/
def State.gatedMask (s : State) (t : BitVec 4) : Nat :=
  ((List.range 8).filter fun n => (s.cluster n).g ≠ 0 && (s.tenantsIn n).contains t).foldl (fun m n => m + 2 ^ n) 0

/-! ## The ladder (R325, R326) -/

/-- Tenants whose head records are hot, with the clusters these name. -/
def State.hotMask (s : State) (t : BitVec 4) : Nat :=
  ((List.range 8).filterMap fun q => ((s.tenant t).queue q).cur).foldl (fun m h =>
    if recHeat h.words = 2 then m ||| recMask h.words else m) 0

/-- Step 1: the cluster whose clock is highest is asked to go one step down, unless it has been asked already. -/
def State.lowerOne (s : State) : Option State :=
  let ks := (List.range 8).map fun n => (n, (s.cluster n).k.toNat)
  let top := ks.foldl (fun m p => max m p.2) 0
  if top = 0 then none
  else (ks.find? fun p => p.2 = top).map fun p =>
    if s.targetK p.1 < top then s
    else
      let s1 := s.askClock p.1 (top - 1)
      { s1 with pw := { s1.pw with ladder := .lower p.1 :: s1.pw.ladder } }

/-- Step 2: tenants that have hot records and were not told yet get their notice. -/
def State.tellHot (s : State) : State :=
  let ts := allTenants.filter fun t => s.hotMask t ≠ 0 && !s.pw.told.getLsbD t.toNat
  let mask := ts.foldl (fun (m : BitVec 16) t => m ||| (1 <<< t.toNat)) s.pw.told
  ({ s with pw := { s.pw with told := mask } } : State).notices ts 0 s.hotMask

/-- Launches of the tenants above their floors are held. -/
def State.holdAbove (s : State) : State :=
  let ts := allTenants.filter fun t => (s.tenant t).ten && s.aboveFloor t
  let new := ts.filter fun t => !s.pw.held.getLsbD t.toNat
  let mask := ts.foldl (fun (m : BitVec 16) t => m ||| (1 <<< t.toNat)) 0
  let s1 : State := { s with pw := { s.pw with held := mask } }
  s1.notices new 1 fun _ => 255

/-- Step 4: the clusters that may be gated lose another sixteenth. -/
def State.gateMore (s : State) : Option State :=
  let cs := (List.range 8).filter fun n => s.gateable n && (s.cluster n).g.toNat < 12
  if cs.isEmpty then none
  else
    let s1 := cs.foldl (fun s n => s.setCluster n { (s.cluster n) with g := (s.cluster n).g + 1 }) s
    let mask := cs.foldl (fun (m : BitVec 8) n => m ||| (1 <<< n)) 0
    let s2 : State := { s1 with pw := { s1.pw with ladder := .gate mask :: s1.pw.ladder } }
    let ts := allTenants.filter fun t => cs.any fun n => (s.tenantsIn n).contains t
    some (s2.notices ts 4 s2.gatedMask)

/-- The next step of the ladder is taken. -/
def State.takeStep (s : State) : State :=
  let push (s : State) (r : Rung) : State := { s with pw := { s.pw with ladder := r :: s.pw.ladder } }
  match s.lowerOne with
  | some s1 => s1
  | none =>
    if !s.pw.ladder.contains .hot then (push s .hot).tellHot
    else if !s.pw.ladder.contains .hold then (push s .hold).holdAbove
    else s.gateMore.getD s

/-- The last step taken is undone. (DEDUCED, log 32.) -/
def State.undoStep (s : State) : State :=
  match s.pw.ladder with
  | [] => s
  | r :: rest =>
    let s1 : State := { s with pw := { s.pw with ladder := rest } }
    match r with
    | .lower n => if 12 ≤ s1.targetK n then s1 else s1.askClock n (s1.targetK n + 1)
    | .hot => { s1 with pw := { s1.pw with told := 0 } }
    | .hold => { s1 with pw := { s1.pw with held := 0 } }
    | .gate mask => (List.range 8).foldl (fun s n =>
        let c := s.cluster n
        if mask.getLsbD n && c.g ≠ 0 then s.setCluster n { c with g := c.g - 1 } else s) s1

/-- A tenant at or below its floor is never held and never throttled: what an earlier sample took is given back. -/
def State.spare (s : State) : State :=
  let s1 := if s.pw.ladder.contains .hold then s.holdAbove else s
  (List.range 8).foldl (fun s n =>
    if (s.cluster n).g ≠ 0 && !s.gateable n then s.setCluster n { (s.cluster n) with g := 0, stopped := false } else s) s1

/-- CAP falls below IDLE: every cluster goes to k = 0, step by step of the ladder as R319 carries it, and every tenant
gets a notice (R326). (DEDUCED, log 32.) -/
def State.unattainable (s : State) : State :=
  let low := (List.range 8).filter fun n => s.targetK n ≠ 0
  let rungs := low.flatMap fun n => List.replicate (s.targetK n) (Rung.lower n)
  let s1 := low.foldl (fun s n => s.askClock n 0) s
  let s2 : State := { s1 with pw := { s1.pw with unatt := true, ladder := rungs ++ s1.pw.ladder, below := 0 } }
  s2.notices (allTenants.filter fun t => (s.tenant t).ten) 2 fun _ => 255

/-- CAP has risen to IDLE: the ladder goes on from step 1. -/
def State.attainable (s : State) : State :=
  let low (r : Rung) : Bool := match r with
    | .lower _ => true
    | _ => false
  let pw := { s.pw with unatt := false, ladder := s.pw.ladder.filter low, held := 0, told := 0, below := 0 }
  let s1 : State := { s with pw := pw }
  (List.range 8).foldl (fun s n => s.setCluster n { (s.cluster n) with g := 0, stopped := false }) s1

/-- The floors are compared with the cap (R327). -/
def State.scaleFloors (s : State) : State :=
  let scarce := decide (s.pw.acting < s.floorSum)
  let s1 : State := { s with pw := { s.pw with scaled := scarce } }
  if scarce && !s.pw.scaled then s1.notices (allTenants.filter fun t => (s.tenant t).floor ≠ 0) 3 fun _ => 255 else s1

/-- The comparison of DRAW with the cap that is pursued. (DEDUCED, log 32.) -/
def State.ladderSample (s0 : State) : State :=
  let s := if s0.pw.ladder.contains .hot then s0.tellHot else s0
  let cap := s.pw.pursued
  let draw := s.pw.draw.toNat
  if cap < draw then ({ s with pw := { s.pw with below := 0 } } : State).takeStep
  else if 100 * draw < 95 * cap then
    let s1 : State := { s with pw := { s.pw with below := min 10 (s.pw.below + 1) } }
    if 10 ≤ s1.pw.below then s1.undoStep else s1
  else { s with pw := { s.pw with below := 0 } }

/-! ## Whose draw it is (R324; DEDUCED, log 32) -/

/-- k parts of n of a draw, in whole watts. -/
def share (x k n : Nat) : Nat := if n = 0 then 0 else x * k / n

/-- The tenants whose jobs use a core, by its number, or the copy engine that follows the cores as number 2,048 on; a dark core
is used by the lit jobs around it. -/
def State.users (s : State) (i : Nat) : List (BitVec 4) :=
  let of' (n : Nat) : Option (BitVec 4) := (s.getCore n).job.map (·.tenant)
  if i < 2048 then match of' i with
    | some t => [t]
    | none => ((around i).filter fun m => (s.getCore m).lit).filterMap of'
  else ((List.range 16).map fun x => 16 * (i - 2048) + x).filterMap of'

/-- A tenant's part of a measured draw: of cores 0 to 2,047, of engines from 2,048, of HBM stacks from 2,176 on. -/
def State.drawPart (s : State) (t : BitVec 4) (i draw : Nat) : Nat :=
  if i < 2176 then let l := s.users i; share draw (l.count t) l.length
  else
    let moved (u : BitVec 4) : Nat := vget (s.tenant u).moved (i - 2176) 0
    share draw (moved t) ((allTenants.map moved).sum)

/-- A tenant's part of IDLE: by its floor, or equally among the tenants that are enabled. -/
def State.idlePart (s : State) (t : BitVec 4) (idle : Nat) : Nat :=
  let on (u : BitVec 4) : Nat := if (s.tenant u).ten then 1 else 0
  if s.floorSum ≠ 0 then share idle (s.tenant t).floor.toNat s.floorSum else share idle (on t) ((allTenants.map on).sum)

def State.attributed (s : State) (draws : List Nat) (idle : Nat) (t : BitVec 4) : Nat :=
  (draws.zipIdx.map fun p => s.drawPart t p.2 p.1).sum + s.idlePart t idle

/-- Number of the draws that a sample measures: of cores, engines and HBM stacks. Behind them a sample may give the clusters'
junction temperatures and the flow. (DESIGN CHOICE of form, log 41.) -/
def drawCount : Nat := 2184

/-- What the sensors of a sample showed besides the draws (R329). -/
def Power.sensed (p : Power) (l : List Nat) : Power :=
  { p with junction := Vector.ofFn fun (i : Fin 8) => l.getD (drawCount + i.val) (vget p.junction i.val 0),
           flow := l.getD (drawCount + 8) p.flow }

/-- The values of a sample are published (R324), and the grains moved are counted anew. -/
def State.publish (s : State) (draw idle inlet : Nat) (draws : List Nat) : State :=
  let pw := s.pw.sensed draws
  let s1 : State := { s with pw := { pw with draw := BitVec.ofNat 12 draw, idle := BitVec.ofNat 12 idle, inlet := inlet } }
  allTenants.foldl (fun u t =>
    u.setTenant t { (u.tenant t) with tdraw := BitVec.ofNat 12 (s.attributed (draws.take drawCount) idle t),
                                      moved := .replicate 8 0 }) s1

/-- POWER_SAMPLE, with what the sensors measured. A tenant at or below its floor is spared under UNATT too (R325, R326). -/
def execPowerSample (draw idle inlet : Nat) (draws : List Nat) (s : State) : Out :=
  let s1 := (s.publish draw idle inlet draws).scaleFloors
  let low := decide (s1.pw.acting < s1.pw.idle.toNat)
  if !s.boot.verified then .next s
  else .next (if low then (if s1.pw.unatt then s1 else s1.unattainable).spare
    else (if s1.pw.unatt then s1.attainable else s1).ladderSample.spare)

/-! ## Heat (R329) -/

/-- The latest junction temperature of a cluster, in °C. -/
def State.junction (s : State) (cluster : Nat) : Nat := vget s.pw.junction cluster 0

/-- THERMAL_TRIP: at a junction of 105 °C a CLOCK message with TRIP goes out, and the cluster stays at k = 0. -/
def execThermalTrip (cluster : Nat) (s : State) : Out :=
  .next (if cluster < 8 && s.boot.verified && 105 ≤ s.junction cluster then
      (s.setCluster cluster { (s.cluster cluster) with tripped := true }).send 9 (clockMsg cluster 0 true)
    else s)

/-- A step of the power manager on one cluster. -/
def onManaged (cluster : Nat) (f : Cluster → Cluster) (s : State) : Out :=
  onCluster cluster (fun c => if s.boot.verified then f c else c) s

/-- THERMAL_TRIP_RELEASE: below 95 °C. -/
def execThermalTripRelease (cluster : Nat) (s : State) : Out :=
  onManaged cluster (fun c => if s.junction cluster < 95 then { c with tripped := false } else c) s

/-- PARK: one cluster from a junction of 115 °C on, or all below a flow of 0.5 L/min, which the Rilosteg reports to the host. -/
def execPark (w : ParkWhat) (s : State) : Out :=
  match w with
  | .cluster n => onManaged n.toNat (fun c => if 115 ≤ s.junction n.toNat then { c with parked := true } else c) s
  | .flow => .next (if !s.boot.verified || s.boot.flowLow || 5 ≤ s.pw.flow then s
      else ({ s with boot := { s.boot with flowLow := true } } : State).tell .lowFlow)

/-- A cluster that was parked resumes at k = 0; so does one whose hold was under way. -/
def Cluster.coldStart (c : Cluster) : Cluster := { c with k := 0, hold := c.hold.map fun _ => 0 }

/-- UNPARK: below 100 °C. -/
def execUnpark (cluster : Nat) (s : State) : Out :=
  onManaged cluster (fun c => if c.parked && s.junction cluster < 100 then { c with parked := false }.coldStart else c) s

/-- FLOW_RESTORED: once the flow is 0.5 L/min or more, the clusters that it had parked resume at k = 0. (DEDUCED, log 33.) -/
def execFlowRestored (s : State) : Out :=
  .next (if s.boot.flowLow && 5 ≤ s.pw.flow then
      { s with boot := { s.boot with flowLow := false }, cl := s.cl.map Cluster.coldStart }
    else s)

end Sys2Proof.Machine
end

