-- ==== Sys2Proof/Machine/Links.lean ====
section
/-! DEFINITION. Fabric links (15 R359 to R362, R371). -/

namespace Sys2Proof.Machine

/-- A link by its index; all 24 exist. -/
def State.link (s : State) (n : Nat) : Link := vget s.links n .reset

/-- A link replaced; a change of STATE posts a link event to the physical function (R361). -/
def State.setLink (s : State) (n : Nat) (l : Link) : State :=
  let s1 : State := { s with links := vset s.links n l }
  if 24 ≤ n || l.state = (s.link n).state then s1
  else s1.event 0 5 l.state.toNat (BitVec.ofNat 64 n) (l.hopns.setWidth 64) 0

/-- FLIT_RECEIVE at a link that is up, or in key hold: the flit passes, or is resent; the 16th failure in a row takes the link
down. In the same flit time a link that is up sends a flit of its own, which uses the next counter value; in key hold it sends
none. (DEDUCED, log 35.) -/
def Link.flit (l : Link) (tagOk : Bool) : Link :=
  let l1 := if l.state = 2 && l.ctr.toNat < lastCtr then { l with ctr := l.ctr + 1 } else l
  if tagOk then { l1 with bad := 0 }
  else
    let l2 := { l1 with bad := l.bad + 1, retries := if l.retries = 255 then 255 else l.retries + 1 }
    if 16 ≤ l2.bad then { l2 with state := 0 } else l2

def execFlitReceive (link : Nat) (tagOk : Bool) (s : State) : Out :=
  .next (if 2 ≤ (s.link link).state.toNat then s.setLink link ((s.link link).flit tagOk) else s)

/-- Events that a link in key hold kept are posted, as far as no other keeps them (R357, R362). -/
def State.flushAll (s : State) : State :=
  (List.range 16).foldl (fun s t => s.flushEvents (BitVec.ofNat 4 t) (s.tenant (BitVec.ofNat 4 t)).evwait.length) s

/-- KEY_FLIT: one of the exchange, or the one at whose boundary the new key takes effect. -/
def execKeyFlit (link : Nat) (effect : Bool) (s : State) : Out :=
  let l := s.link link
  .next (if l.state.toNat < 2 then s
    else if effect then (s.setLink link { l with ctr := 0, keylow := false, state := 2, keys := 0 }).flushAll
    else s.setLink link { l with keys := l.keys + 1 })

/-- KEYLOW: fewer than 2^39 values remain. -/
def execKeylow (link : Nat) (s : State) : Out :=
  let l := s.link link
  .next (if 2 ^ 39 ≤ l.ctr.toNat then s.setLink link { l with keylow := true } else s)

/-- KEY_HOLD: the counter has reached its end under the old key; the Rilosteg is told. -/
def execKeyHold (link : Nat) (s : State) : Out :=
  let l := s.link link
  .next (if l.state = 2 && l.ctr.toNat = lastCtr then (s.setLink link { l with state := 3 }).tell (.keyHold link) else s)

/-- LINK_DOWN: after the time in key hold, or at the limit of failures. -/
def execLinkDown (link : Nat) (s : State) : Out :=
  let l := s.link link
  .next (if l.state = 3 || 16 ≤ l.bad then (s.setLink link { l with state := 0 }).flushAll else s)

end Sys2Proof.Machine
end

