-- ==== Sys2Proof/Machine/Boot.lean ====
section
/-! DEFINITION. Reset, bring-up, attestation and keys (12 R309; 15 R363 to R365, R371). -/

namespace Sys2Proof.Machine

/-- RESET: the device is as right after reset; host memory and the peers are not the device's. (DEDUCED, log 36.) -/
def execReset (s : State) : Out :=
  .next { State.reset with agenda := s.agenda, free := s.free, host := s.host, peers := s.peers }

/-- Error codes of a link that could not train, which do not stop the sequence (R365). (DEDUCED, log 34.) -/
def softErr (e : BitVec 8) : Bool := e = 0 || (0x20 ≤ e.toNat && e.toNat < 0x38)

/-- The device is in a stage, and no error has stopped it. -/
def Boot.at' (b : Boot) (stage : Nat) : Bool := b.stage.toNat = stage && softErr b.err

/-- A stage ends: with an error, or the next one begins. -/
def Boot.ends (b : Boot) (err : Nat) : Boot :=
  if err ≠ 0 then { b with err := BitVec.ofNat 8 err } else { b with stage := b.stage + 1 }

/-- The check of a signed image (R363): 0, or the code of the first check that fails. -/
def imageCheck (img : List Byte) : Nat :=
  if !Config.ecdsaOk img then 2
  else if !Config.lmsOk img then 3
  else if Config.imageVersion img < Config.fusedVersion then 4
  else 0

/-- FIRMWARE_VERIFY: stage 2; a verified image is measured, and the identity's keys follow from it (R364). -/
def execFirmwareVerify (readable : Bool) (s : State) : Out :=
  let b := s.boot
  let img := s.host.getN b.addr.toNat b.len.toNat
  let err := if !readable || 4 * 2 ^ 20 < b.len.toNat then 1 else imageCheck img
  .next (if b.at' 2 then
      { s with boot := { (b.ends err) with fwDigest := if err = 0 then Config.sha384 img else b.fwDigest,
                                           ids := if err = 0 then Config.identity (Config.sha384 img) else b.ids } }
    else s)

/-- HBM_TRAINING: stage 3. -/
def execHbmTraining (bad : Option (BitVec 3)) (s : State) : Out :=
  .next (if s.boot.at' 3 then
      { s with boot := s.boot.ends (match bad with
        | some k => 0x10 + k.toNat
        | none => 0) }
    else s)

/-- A link that joins two dies of the package (R359). -/
def inPackage (link : Nat) : Bool :=
  let d := link / 6
  let p := link % 6
  (p = 0 && d % 2 = 0) || (p = 1 && d % 2 = 1) || (p = 2 && d / 2 = 0) || (p = 3 && d / 2 = 1)

/-- Extents and place of a domain are legal (R371). -/
def domainOk (d : W64) : Bool :=
  let x := d.toNat
  let even (n : Nat) : Bool := n = 2 || n = 4 || n = 6 || n = 8
  even (domX d) && even (domY d) && 1 ≤ domZ d && domZ d ≤ 8
    && bits 19 16 x % 2 = 0 && bits 19 16 x + 2 ≤ domX d && bits 23 20 x % 2 = 0 && bits 23 20 x + 2 ≤ domY d
    && bits 27 24 x < domZ d

/-- The domain uses a link: an off-package link of a dimension of extent 2 in x or y, or 1 in z, stays down. -/
def linkUsed (d : W64) (link : Nat) : Bool :=
  let p := link % 6
  inPackage link || (domainOk d && (if p < 2 then domX d ≠ 2 else if p < 4 then domY d ≠ 2 else domZ d ≠ 1))

/-- Hop latency of a link as the training calibrated it; 0 where it could not train. -/
def hopOf (hopns : List Nat) (link : Nat) : Nat := let h := hopns.getD link 0; if 1 ≤ h && h ≤ 32 then h else 0

/-- The links that the domain uses begin to train. -/
def State.trainLinks (s : State) : State :=
  (List.range 24).foldl (fun s n => if linkUsed s.boot.domain n then s.setLink n { (s.link n) with state := 1 } else s) s

/-- LINK_TRAINING: stage 4, in two steps: the links begin to train, with STATE 1, and their training ends. DOMAIN takes effect;
an illegal one leaves the package alone (log 18). -/
def execLinkTraining (hopns : List Nat) (s : State) : Out :=
  let d := s.boot.domain
  let one (s : State) (n : Nat) : State :=
    let h := if linkUsed d n then hopOf hopns n else 0
    s.setLink n (if h = 0 then { (Link.reset) with retries := (s.link n).retries }
      else { Link.reset with hopns := BitVec.ofNat 8 h, state := 2 })
  let bad := (List.range 24).find? fun n => linkUsed d n && hopOf hopns n = 0
  let b : Boot := { s.boot with stage := 5, trained := if domainOk d then d else 0x122,
                                err := match bad with
                                  | some n => BitVec.ofNat 8 (0x20 + n)
                                  | none => s.boot.err }
  .next (if !s.boot.at' 4 then s
    else if s.links.all fun l => l.state ≠ 1 then s.trainLinks
    else { ((List.range 24).foldl one s) with boot := b })

/-- ERG_CALIBRATION: stage 5; then station 0 holds the caravan. -/
def execErgCalibration (bad : Option (BitVec 4)) (s : State) : Out :=
  .next (if s.boot.at' 5 then
      { s with boot := s.boot.ends (match bad with
                 | some k => 0x40 + k.toNat
                 | none => 0),
               erg := { s.erg with caravan := if bad.isNone then 0 else s.erg.caravan } }
    else s)

/-- CAPABILITY_PUBLISH: stage 6; the functions accept records. -/
def execCapabilityPublish (s : State) : Out :=
  .next (if s.boot.at' 6 then { s with boot := { s.boot with caps := true } } else s)

/-! ## Routine images and attestation (R363, R364) -/

/-- Bytes of a tenant's routine image; `none` where it cannot be read. -/
def State.routineBytes (s : State) (t : BitVec 4) : Option (List Byte) :=
  match s.routine t with
  | .ok l => some (l.flatMap fun w => leBytes 8 w.toNat)
  | .error _ => none

/-- ROUTINE_IMAGE_CHECK. -/
def execRoutineImageCheck (t : Nat) (s : State) : Out :=
  let n := BitVec.ofNat 4 t
  let ok := match s.routineBytes n with
    | some l => imageCheck l = 0
    | none => false
  onFn t (if s.boot.verified then (s.usedRoutine n).setTenant n { (s.tenant n) with imgOk := ok } else s) s

/-- GET_MEASUREMENTS: the digests of the boot ROM, the firmware, every routine image that is named and can be read, and the
exposure table, in a response that both identity keys sign; the physical function asks. (DEDUCED, log 34.) -/
def execGetMeasurements (fn : Nat) (s : State) : Out :=
  let named := ((List.range 16).map (BitVec.ofNat 4)).filter fun t => (s.tenant t).imgOk || (s.tenant t).supimg ≠ 0
  let imgs := named.filterMap fun t => (s.routineBytes t).map Config.sha384
  let table := s.expo.toList.flatMap fun e => (List.range 4).flatMap fun i => leBytes 8 (e.word i).toNat
  let report := [Config.romDigest, s.boot.fwDigest] ++ imgs ++ [Config.sha384 table]
  .next (if fn = 0 && s.boot.verified then
      { named.foldl State.usedRoutine s with boot := { s.boot with report := report, sigs := Config.signed s.boot.fwDigest report } }
    else s)

/-- SPDM_KEY_EXCHANGE: the keys of a function's IDE stream are installed (R353, R364). -/
def execSpdmKeyExchange (fn : Nat) (key : BitVec 256) (s : State) : Out :=
  let t := BitVec.ofNat 4 fn
  onFn fn (if s.boot.verified then s.setTenant t { (s.tenant t) with ide := some key } else s) s

end Sys2Proof.Machine
end

