-- ==== Sys2Proof/Machine/Dispatch.lean ====
section
/-! DEFINITION. The meaning of every instruction: one arm per constructor of `Instr`. -/

namespace Sys2Proof.Machine

/-- What an instruction does. -/
def exec (i : Instr) (s : State) : Host.Outcome State Fault Refusal :=
  match i with
  | .add c d a b => Sys2Proof.Machine.execAdd c d a b s
  | .sub c d a b => Sys2Proof.Machine.execSub c d a b s
  | .mul c d a b => Sys2Proof.Machine.execMul c d a b s
  | .mulhs c d a b => Sys2Proof.Machine.execMulhs c d a b s
  | .mulhu c d a b => Sys2Proof.Machine.execMulhu c d a b s
  | .div c d a b => Sys2Proof.Machine.execDiv c d a b s
  | .divu c d a b => Sys2Proof.Machine.execDivu c d a b s
  | .rem c d a b => Sys2Proof.Machine.execRem c d a b s
  | .remu c d a b => Sys2Proof.Machine.execRemu c d a b s
  | .and c d a b => Sys2Proof.Machine.execAnd c d a b s
  | .or c d a b => Sys2Proof.Machine.execOr c d a b s
  | .xor c d a b => Sys2Proof.Machine.execXor c d a b s
  | .andn c d a b => Sys2Proof.Machine.execAndn c d a b s
  | .shl c d a b => Sys2Proof.Machine.execShl c d a b s
  | .shr c d a b => Sys2Proof.Machine.execShr c d a b s
  | .sar c d a b => Sys2Proof.Machine.execSar c d a b s
  | .rol c d a b => Sys2Proof.Machine.execRol c d a b s
  | .min c d a b => Sys2Proof.Machine.execMin c d a b s
  | .max c d a b => Sys2Proof.Machine.execMax c d a b s
  | .minu c d a b => Sys2Proof.Machine.execMinu c d a b s
  | .maxu c d a b => Sys2Proof.Machine.execMaxu c d a b s
  | .clz c d a => Sys2Proof.Machine.execClz c d a s
  | .popc c d a => Sys2Proof.Machine.execPopc c d a s
  | .sel c d a b p => Sys2Proof.Machine.execSel c d a b p s
  | .addx c d a b n => Sys2Proof.Machine.execAddx c d a b n s
  | .clamp c d a b => Sys2Proof.Machine.execClamp c d a b s
  | .addi c d a imm => Sys2Proof.Machine.execAddi c d a imm s
  | .andi c d a imm => Sys2Proof.Machine.execAndi c d a imm s
  | .ori c d a imm => Sys2Proof.Machine.execOri c d a imm s
  | .xori c d a imm => Sys2Proof.Machine.execXori c d a imm s
  | .shli c d a n => Sys2Proof.Machine.execShli c d a n s
  | .shri c d a n => Sys2Proof.Machine.execShri c d a n s
  | .sari c d a n => Sys2Proof.Machine.execSari c d a n s
  | .muli c d a imm => Sys2Proof.Machine.execMuli c d a imm s
  | .li c d imm => Sys2Proof.Machine.execLi c d imm s
  | .lih c d imm => Sys2Proof.Machine.execLih c d imm s
  | .cmp c cc pd a b => Sys2Proof.Machine.execCmp c cc pd a b s
  | .cmpi c cc pd a imm => Sys2Proof.Machine.execCmpi c cc pd a imm s
  | .plog c op pd pa pb => Sys2Proof.Machine.execPlog c op pd pa pb s
  | .br c cc a b off => Sys2Proof.Machine.execBr c cc a b off s
  | .bp c ne p off => Sys2Proof.Machine.execBp c ne p off s
  | .jmp c off => Sys2Proof.Machine.execJmp c off s
  | .call c off => Sys2Proof.Machine.execCall c off s
  | .jr c d a => Sys2Proof.Machine.execJr c d a s
  | .loop c a off => Sys2Proof.Machine.execLoop c a off s
  | .hset c h a fld => Sys2Proof.Machine.execHset c h a fld s
  | .hget c a g fld => Sys2Proof.Machine.execHget c a g fld s
  | .hld c h a off => Sys2Proof.Machine.execHld c h a off s
  | .hst c g a off => Sys2Proof.Machine.execHst c g a off s
  | .hmov c h g => Sys2Proof.Machine.execHmov c h g s
  | .hadv c h g a dim => Sys2Proof.Machine.execHadv c h g a dim s
  | .hdim c h g a b dim => Sys2Proof.Machine.execHdim c h g a b dim s
  | .ld8 c d a imm => Sys2Proof.Machine.execLd8 c d a imm s
  | .ld16 c d a imm => Sys2Proof.Machine.execLd16 c d a imm s
  | .ld32 c d a imm => Sys2Proof.Machine.execLd32 c d a imm s
  | .ld64 c d a imm => Sys2Proof.Machine.execLd64 c d a imm s
  | .lds8 c d a imm => Sys2Proof.Machine.execLds8 c d a imm s
  | .lds16 c d a imm => Sys2Proof.Machine.execLds16 c d a imm s
  | .lds32 c d a imm => Sys2Proof.Machine.execLds32 c d a imm s
  | .st8 c d a imm => Sys2Proof.Machine.execSt8 c d a imm s
  | .st16 c d a imm => Sys2Proof.Machine.execSt16 c d a imm s
  | .st32 c d a imm => Sys2Proof.Machine.execSt32 c d a imm s
  | .st64 c d a imm => Sys2Proof.Machine.execSt64 c d a imm s
  | .push c a q => Sys2Proof.Machine.execPush c a q s
  | .fmt c a => Sys2Proof.Machine.execFmt c a s
  | .pop c d q => Sys2Proof.Machine.execPop c d q s
  | .bout c p q => Sys2Proof.Machine.execBout c p q s
  | .qcnt c d q => Sys2Proof.Machine.execQcnt c d q s
  | .rclaim c d a ring => Sys2Proof.Machine.execRclaim c d a ring s
  | .rfill c a ring => Sys2Proof.Machine.execRfill c a ring s
  | .rwaitf c d a ring => Sys2Proof.Machine.execRwaitf c d a ring s
  | .rfree c a ring => Sys2Proof.Machine.execRfree c a ring s
  | .rset c a ring => Sys2Proof.Machine.execRset c a ring s
  | .rstat c f d ring => Sys2Proof.Machine.execRstat c f d ring s
  | .bset c bar => Sys2Proof.Machine.execBset c bar s
  | .bexp c a bar => Sys2Proof.Machine.execBexp c a bar s
  | .barr c a bar => Sys2Proof.Machine.execBarr c a bar s
  | .bwait c a bar => Sys2Proof.Machine.execBwait c a bar s
  | .atom c op w64 a b cx => Sys2Proof.Machine.execAtom c op w64 a b cx s
  | .copy c hd hs p xf tq flags aux => Sys2Proof.Machine.execCopy c hd hs p xf tq flags aux s
  | .cred c hd hs p xf tq flags aux => Sys2Proof.Machine.execCred c hd hs p xf tq flags aux s
  | .catom c op w64 acq h a b cx => Sys2Proof.Machine.execCatom c op w64 acq h a b cx s
  | .cclose c tq => Sys2Proof.Machine.execCclose c tq s
  | .cwait c n => Sys2Proof.Machine.execCwait c n s
  | .xcfg c n a => Sys2Proof.Machine.execXcfg c n a s
  | .cpend c d => Sys2Proof.Machine.execCpend c d s
  | .cpendCmd c d => Sys2Proof.Machine.execCpendCmd c d s
  | .obput c a b idx => Sys2Proof.Machine.execObput c a b idx s
  | .obwait c cc d a b idx => Sys2Proof.Machine.execObwait c cc d a b idx s
  | .obadd c a b idx => Sys2Proof.Machine.execObadd c a b idx s
  | .obbar c a b idx => Sys2Proof.Machine.execObbar c a b idx s
  | .obseq c d => Sys2Proof.Machine.execObseq c d s
  | .obseqOwn c d => Sys2Proof.Machine.execObseqOwn c d s
  | .frel c => Sys2Proof.Machine.execFrel c s
  | .facq c => Sys2Proof.Machine.execFacq c s
  | .obget c d a idx => Sys2Proof.Machine.execObget c d a idx s
  | .csrr c d csr => Sys2Proof.Machine.execCsrr c d csr s
  | .csrw c d a csr => Sys2Proof.Machine.execCsrw c d a csr s
  | .csrs c d a csr => Sys2Proof.Machine.execCsrs c d a csr s
  | .csrc c d a csr => Sys2Proof.Machine.execCsrc c d a csr s
  | .eret c => Sys2Proof.Machine.execEret c s
  | .eretImg c => Sys2Proof.Machine.execEretImg c s
  | .yield c => Sys2Proof.Machine.execYield c s
  | .yieldKill c => Sys2Proof.Machine.execYieldKill c s
  | .psave c a n => Sys2Proof.Machine.execPsave c a n s
  | .ppull c a n => Sys2Proof.Machine.execPpull c a n s
  | .pdrop c a n => Sys2Proof.Machine.execPdrop c a n s
  | .pstat c d a => Sys2Proof.Machine.execPstat c d a s
  | .clkdiv c e n => Sys2Proof.Machine.execClkdiv c e n s
  | .phase c => Sys2Proof.Machine.execPhase c s
  | .tlbinv c a => Sys2Proof.Machine.execTlbinv c a s
  | .tlbinvAll c => Sys2Proof.Machine.execTlbinvAll c s
  | .launch c d a q => Sys2Proof.Machine.execLaunch c d a q s
  | .rdtick c d => Sys2Proof.Machine.execRdtick c d s
  | .rdiss c d => Sys2Proof.Machine.execRdiss c d s
  | .lsave c => Sys2Proof.Machine.execLsave c s
  | .lrest c => Sys2Proof.Machine.execLrest c s
  | .nop st c => Sys2Proof.Machine.execNop st c s
  | .join st c => Sys2Proof.Machine.execJoin st c s
  | .trap st c imm => Sys2Proof.Machine.execTrap st c imm s
  | .brk st c => Sys2Proof.Machine.execBrk st c s
  | .tfence st c => Sys2Proof.Machine.execTfence st c s
  | .ill st rest => Sys2Proof.Machine.execIll st rest s
  | .tld c t m pitch => Sys2Proof.Machine.execTld c t m pitch s
  | .tldb c t m pitch => Sys2Proof.Machine.execTldb c t m pitch s
  | .mma c a t1 t2 => Sys2Proof.Machine.execMma c a t1 t2 s
  | .rsum c w t => Sys2Proof.Machine.execRsum c w t s
  | .csum c w t => Sys2Proof.Machine.execCsum c w t s
  | .zpc c a wr wc => Sys2Proof.Machine.execZpc c a wr wc s
  | .drain c a m m2 pitch => Sys2Proof.Machine.execDrain c a m m2 pitch s
  | .aclr c a => Sys2Proof.Machine.execAclr c a s
  | .amov c a b => Sys2Proof.Machine.execAmov c a b s
  | .tzero c t => Sys2Proof.Machine.execTzero c t s
  | .mli c m imm => Sys2Proof.Machine.execMli c m imm s
  | .maddi c m imm => Sys2Proof.Machine.execMaddi c m imm s
  | .mpop c m => Sys2Proof.Machine.execMpop c m s
  | .mloop c m off => Sys2Proof.Machine.execMloop c m off s
  | .mbq c off => Sys2Proof.Machine.execMbq c off s
  | .mjmp c off => Sys2Proof.Machine.execMjmp c off s
  | .msatc c m => Sys2Proof.Machine.execMsatc c m s
  | .vadd c d a b k ty => Sys2Proof.Machine.execVadd c d a b k ty s
  | .vsub c d a b k ty => Sys2Proof.Machine.execVsub c d a b k ty s
  | .vmul c d a b k ty => Sys2Proof.Machine.execVmul c d a b k ty s
  | .vfma c d a b x k ty => Sys2Proof.Machine.execVfma c d a b x k ty s
  | .vmin c d a b k ty => Sys2Proof.Machine.execVmin c d a b k ty s
  | .vmax c d a b k ty => Sys2Proof.Machine.execVmax c d a b k ty s
  | .vabs c d a k ty => Sys2Proof.Machine.execVabs c d a k ty s
  | .vneg c d a k ty => Sys2Proof.Machine.execVneg c d a k ty s
  | .vdiv c d a b k => Sys2Proof.Machine.execVdiv c d a b k s
  | .vsqrt c d a k => Sys2Proof.Machine.execVsqrt c d a k s
  | .vrsq c d a k => Sys2Proof.Machine.execVrsq c d a k s
  | .vrcp c d a k => Sys2Proof.Machine.execVrcp c d a k s
  | .vexp2 c d a k => Sys2Proof.Machine.execVexp2 c d a k s
  | .vlog2 c d a k => Sys2Proof.Machine.execVlog2 c d a k s
  | .vexp c d a k => Sys2Proof.Machine.execVexp c d a k s
  | .vand c d a b k ty => Sys2Proof.Machine.execVand c d a b k ty s
  | .vor c d a b k ty => Sys2Proof.Machine.execVor c d a b k ty s
  | .vxor c d a b k ty => Sys2Proof.Machine.execVxor c d a b k ty s
  | .vshl c d a b k ty => Sys2Proof.Machine.execVshl c d a b k ty s
  | .vshr c d a b k ty => Sys2Proof.Machine.execVshr c d a b k ty s
  | .vsar c d a b k ty => Sys2Proof.Machine.execVsar c d a b k ty s
  | .vcvt c d a x k ty dt rm sat => Sys2Proof.Machine.execVcvt c d a x k ty dt rm sat s
  | .vcmp c cc kd a b k ty => Sys2Proof.Machine.execVcmp c cc kd a b k ty s
  | .vsel c d a b ks k ty => Sys2Proof.Machine.execVsel c d a b ks k ty s
  | .vmov c d a k ty => Sys2Proof.Machine.execVmov c d a k ty s
  | .vbrd c d a lane k ty => Sys2Proof.Machine.execVbrd c d a lane k ty s
  | .viota c d k ty => Sys2Proof.Machine.execViota c d k ty s
  | .vperm c d a b k ty => Sys2Proof.Machine.execVperm c d a b k ty s
  | .vcomp c d a k ty => Sys2Proof.Machine.execVcomp c d a k ty s
  | .vfirst c count d ka k ty => Sys2Proof.Machine.execVfirst c count d ka k ty s
  | .klog c op kd ka kb => Sys2Proof.Machine.execKlog c op kd ka kb s
  | .vrsum c d a k ty => Sys2Proof.Machine.execVrsum c d a k ty s
  | .vrmax c d a k ty => Sys2Proof.Machine.execVrmax c d a k ty s
  | .vrmin c d a k ty => Sys2Proof.Machine.execVrmin c d a k ty s
  | .vramax c d a k ty => Sys2Proof.Machine.execVramax c d a k ty s
  | .vscan c d a xc k ty => Sys2Proof.Machine.execVscan c d a xc k ty s
  | .vscanx c d a xc k ty => Sys2Proof.Machine.execVscanx c d a xc k ty s
  | .vsort c desc d a k ty => Sys2Proof.Machine.execVsort c desc d a k ty s
  | .vsortk c desc d a b k ty => Sys2Proof.Machine.execVsortk c desc d a b k ty s
  | .vmerge c desc d a b ty => Sys2Proof.Machine.execVmerge c desc d a b ty s
  | .vrng c d a b k ty => Sys2Proof.Machine.execVrng c d a b k ty s
  | .vld c v x et k imm => Sys2Proof.Machine.execVld c v x et k imm s
  | .vst c v x et k imm => Sys2Proof.Machine.execVst c v x et k imm s
  | .vldx c v x et k vi => Sys2Proof.Machine.execVldx c v x et k vi s
  | .vstx c v x et k vi => Sys2Proof.Machine.execVstx c v x et k vi s
  | .qst c v x xr en wc rm had => Sys2Proof.Machine.execQst c v x xr en wc rm had s
  | .qld c v x wc => Sys2Proof.Machine.execQld c v x wc s
  | .zbind c z imm => Sys2Proof.Machine.execZbind c z imm s
  | .zrst c z => Sys2Proof.Machine.execZrst c z s
  | .xli c d imm => Sys2Proof.Machine.execXli c d imm s
  | .xadd c d a b => Sys2Proof.Machine.execXadd c d a b s
  | .xaddi c d a imm => Sys2Proof.Machine.execXaddi c d a imm s
  | .xmul c d a b => Sys2Proof.Machine.execXmul c d a b s
  | .xpop c d => Sys2Proof.Machine.execXpop c d s
  | .xpush c a => Sys2Proof.Machine.execXpush c a s
  | .xget c d v lane => Sys2Proof.Machine.execXget c d v lane s
  | .xfadd c d a b => Sys2Proof.Machine.execXfadd c d a b s
  | .xfmul c d a b => Sys2Proof.Machine.execXfmul c d a b s
  | .vloop c a off => Sys2Proof.Machine.execVloop c a off s
  | .vbq c off => Sys2Proof.Machine.execVbq c off s
  | .vbr c cc a b off => Sys2Proof.Machine.execVbr c cc a b off s
  | .vjmp c off => Sys2Proof.Machine.execVjmp c off s
  | .vbrf c ne k off => Sys2Proof.Machine.execVbrf c ne k off s
  | .fetch st => Sys2Proof.Machine.execFetch st s
  | .land => Sys2Proof.Machine.execLand s
  | .start core => Sys2Proof.Machine.execStart core s
  | .read core id space grain tr => Sys2Proof.Machine.execRead core id space grain tr s
  | .merge core id grain tr => Sys2Proof.Machine.execMerge core id grain tr s
  | .write core nth => Sys2Proof.Machine.execWrite core nth s
  | .atomic core id grain tr => Sys2Proof.Machine.execAtomic core id grain tr s
  | .deliver core id grain => Sys2Proof.Machine.execDeliver core id grain s
  | .complete core group => Sys2Proof.Machine.execComplete core group s
  | .rfHook core id => Sys2Proof.Machine.execRfHook core id s
  | .baHook core id => Sys2Proof.Machine.execBaHook core id s
  | .remoteAtom core nth => Sys2Proof.Machine.execRemoteAtom core nth s
  | .remoteAtomReply core nth => Sys2Proof.Machine.execRemoteAtomReply core nth s
  | .timedDeadline => Sys2Proof.Machine.execTimedDeadline s
  | .transmit => Sys2Proof.Machine.execTransmit s
  | .ergPut station => Sys2Proof.Machine.execErgPut station s
  | .ergAdd station => Sys2Proof.Machine.execErgAdd station s
  | .ergBar station => Sys2Proof.Machine.execErgBar station s
  | .shootdown station => Sys2Proof.Machine.execShootdown station s
  | .clock station => Sys2Proof.Machine.execClock station s
  | .preempt station => Sys2Proof.Machine.execPreempt station s
  | .config station => Sys2Proof.Machine.execConfig station s
  | .jobend station => Sys2Proof.Machine.execJobend station s
  | .barrierWaitEnd => Sys2Proof.Machine.execBarrierWaitEnd s
  | .replicaRepair station => Sys2Proof.Machine.execReplicaRepair station s
  | .round => Sys2Proof.Machine.execRound s
  | .jobStart core => Sys2Proof.Machine.execJobStart core s
  | .jobResume core => Sys2Proof.Machine.execJobResume core s
  | .sliceExpiry => Sys2Proof.Machine.execSliceExpiry s
  | .watchdog => Sys2Proof.Machine.execWatchdog s
  | .trapDelivery => Sys2Proof.Machine.execTrapDelivery s
  | .softError core place => Sys2Proof.Machine.execSoftError core place s
  | .memorySoftError grain => Sys2Proof.Machine.execMemorySoftError grain s
  | .pull nth => Sys2Proof.Machine.execPull nth s
  | .tricklePull => Sys2Proof.Machine.execTricklePull s
  | .blockDrain core nth fails => Sys2Proof.Machine.execBlockDrain core nth fails s
  | .hostTailWrite fn q tail => Sys2Proof.Machine.execHostTailWrite fn q tail s
  | .queueEnable fn q ctl => Sys2Proof.Machine.execQueueEnable fn q ctl s
  | .doorbell fn => Sys2Proof.Machine.execDoorbell fn s
  | .eventRingEnable fn ctl => Sys2Proof.Machine.execEventRingEnable fn ctl s
  | .tenantCreate t => Sys2Proof.Machine.execTenantCreate t s
  | .tenantDisable t => Sys2Proof.Machine.execTenantDisable t s
  | .apertureRead fn off n => Sys2Proof.Machine.execApertureRead fn off n s
  | .apertureWrite fn off bytes => Sys2Proof.Machine.execApertureWrite fn off bytes s
  | .checkpointFull => Sys2Proof.Machine.execCheckpointFull s
  | .checkpointIncremental => Sys2Proof.Machine.execCheckpointIncremental s
  | .checkpointEnd status => Sys2Proof.Machine.execCheckpointEnd status s
  | .registerWrite fn off size value => Sys2Proof.Machine.execRegisterWrite fn off size value s
  | .powerSample draw idle inlet tdraw => Sys2Proof.Machine.execPowerSample draw idle inlet tdraw s
  | .throttlePeriod cluster => Sys2Proof.Machine.execThrottlePeriod cluster s
  | .clockHoldEnd cluster => Sys2Proof.Machine.execClockHoldEnd cluster s
  | .phaseTimeout cluster => Sys2Proof.Machine.execPhaseTimeout cluster s
  | .thermalTrip cluster => Sys2Proof.Machine.execThermalTrip cluster s
  | .park w => Sys2Proof.Machine.execPark w s
  | .unpark cluster => Sys2Proof.Machine.execUnpark cluster s
  | .flitReceive link tagOk => Sys2Proof.Machine.execFlitReceive link tagOk s
  | .keyFlit link effect => Sys2Proof.Machine.execKeyFlit link effect s
  | .keyHold link => Sys2Proof.Machine.execKeyHold link s
  | .linkDown link => Sys2Proof.Machine.execLinkDown link s
  | .reset => Sys2Proof.Machine.execReset s
  | .firmwareVerify readable => Sys2Proof.Machine.execFirmwareVerify readable s
  | .hbmTraining bad => Sys2Proof.Machine.execHbmTraining bad s
  | .linkTraining hopns => Sys2Proof.Machine.execLinkTraining hopns s
  | .ergCalibration bad => Sys2Proof.Machine.execErgCalibration bad s
  | .capabilityPublish => Sys2Proof.Machine.execCapabilityPublish s
  | .routineImageCheck t => Sys2Proof.Machine.execRoutineImageCheck t s
  | .getMeasurements fn => Sys2Proof.Machine.execGetMeasurements fn s
  | .referenceTick => Sys2Proof.Machine.execReferenceTick s
  | .replicaSoftError station tenant word => Sys2Proof.Machine.execReplicaSoftError station tenant word s
  | .thermalTripRelease cluster => Sys2Proof.Machine.execThermalTripRelease cluster s
  | .flowRestored => Sys2Proof.Machine.execFlowRestored s
  | .keylow link => Sys2Proof.Machine.execKeylow link s
  | .spdmKeyExchange fn key => Sys2Proof.Machine.execSpdmKeyExchange fn key s
  | .apertureAtomic fn off op w64 b cmp => Sys2Proof.Machine.execApertureAtomic fn off op w64 b cmp s
  | .launchSlotWrite fn q => Sys2Proof.Machine.execLaunchSlotWrite fn q s
  | .hostWriteOneToClear fn off value => Sys2Proof.Machine.execHostWriteOneToClear fn off value s

end Sys2Proof.Machine
end

