-- ==== Sys2Proof/Machine/Run.lean ====
section
/-! DEFINITION. How a core goes through a reference tick, and which words it issues (02 R48; 10 R269; 11 R289; 13 R320,
R323; 14 R341). -/

namespace Sys2Proof.Machine

/-! ## Issue (02 R48, R54) -/

/-- The step after the issue of a stream. -/
def afterIssue : StreamId → Phase
  | .a => .issue .m
  | .m => .issue .v
  | .v => .watchdog

/-- The word waits for tokens, or for space in a token FIFO. -/
def Core.tokenWait (c : Core) (k : Ctl) : Bool :=
  decide ((c.tokens k.wq).length < k.pops)
    || (k.pushes ≠ 0 && decide (64 < (c.tokens k.sq).length + vget c.q.fres k.sq.toNat 0 + k.pushes))

/-- A word's own wait is one on a data queue, a ring, a barrier cell or CWAIT: waits on erg words, on command places,
on the array, on results and on groups at JOIN are none (R54, R289). (DEDUCED, log 40.) -/
def Core.queueWait (c : Core) : Instr → Bool
  | .obput .. | .obwait .. | .obbar .. | .obget .. | .obseqOwn .. | .launch .. | .tlbinv .. | .tlbinvAll .. | .copy ..
  | .cred .. | .cclose .. | .xcfg .. | .tfence .. | .join .. | .mma .. | .rsum .. | .csum .. | .zpc .. | .drain .. => false
  | .catom .. => !c.postWaits
  | .obadd .. => !(c.ownPending || c.releaseWaits)
  | _ => true

/-- The word is one that leaves a stream stalled while it waits (R289). -/
def Core.stalls (c : Core) (i : Instr) : Bool :=
  c.queueWait i || match i.ctl? with
    | some (_, k) => c.tokenWait k
    | none => false

/-- Nothing came of a word: it waits. -/
def Core.waited (old new : Core) (st : StreamId) : Bool :=
  (new.stream st).word.isSome && new.t.stops.length = old.t.stops.length && new.t.pf.isSome = old.t.pf.isSome

/-- The core after its word was tried: it goes on to the next stream, unless its domain froze or its job is over. -/
def Core.tried (old new : Core) (st : StreamId) (i : Instr) : Core :=
  if !new.runs || !new.t.pulls.isEmpty then new
  else
    let c := new.setStream st { new.stream st with stalled := !old.held && old.waited new st && old.stalls i }
    { c with phase := afterIssue st }

/-- The word of a stream issues, waits or faults. -/
def State.tryWord (s : State) (st : StreamId) (w : W64) : Out :=
  match decodeWord st w with
  | .error _ => .next (s.onCore fun c => { (c.raise st (flt 0x01)) with phase := afterIssue st })
  | .ok i => match exec i s with
    | .next s1 => .next (s1.onCore fun c => s.core.tried c st i)
    | .fault f => .fault f
    | .refused r => .refused r

/-- The issue step of a stream (R48 step 4). -/
def State.issueStep (s : State) (st : StreamId) : Out :=
  let c := s.core
  let skip : Out := .next (s.onCore fun c => { c with phase := afterIssue st })
  if !c.turn st then skip
  else if st = .a && s.timedHold then .next (s.onCore fun c => { c with phase := .touch })
  else match (c.stream st).word with
    | some w => s.tryWord st w
    | none => skip

/-! ## The touches before step 4 (14 R341) -/

/-- The state in which a stream's words are judged. -/
def State.atStream (s : State) (st : StreamId) : State := s.onCore fun c => { c with phase := .issue st }

/-- The state after a stream's issue step was tried, and the blocks this would freeze the domain for; where it would, the
streams after it are judged without it. -/
def State.tryTouch (x : State × List Nat) (st : StreamId) : State × List Nat :=
  match (x.1.atStream st).issueStep st with
  | .next s1 => if s1.core.t.pulls.isEmpty then (s1, x.2) else (x.1, (x.2 ++ s1.core.t.pulls).eraseDups)
  | _ => x

/-- Blocks that the words of A, M and V touch, as far as they would issue in this tick (R341). -/
def State.touches (s : State) : List Nat :=
  if s.core.r.pres.isEmpty then []
  else
    let s0 := s.onCore fun c => { c with t := { c.t with pulls := [] } }
    ([StreamId.a, .m, .v].foldl State.tryTouch (s0, [])).2

/-- The point before step 4: every pull that the fetches and the touches of the three streams need is requested together;
with none, and every word read, the streams issue (R341). A core that is held for the translations of a timed COPY stands here
(09 R233). -/
def State.touchStep (s : State) : Out :=
  if s.core.turn .a && (s.atStream .a).timedHold then .next s
  else
  let c := s.core.freeze s.touches
  let goes := c.t.pulls.isEmpty && [StreamId.a, .m, .v].all c.fetched
  .next (s.onCore fun _ => { c with phase := if goes then .issue .a else .fetch .a })

/-- A core whose domain is to freeze before step 4 still gathers what it will ask for. -/
def Phase.gathers : Phase → Bool
  | .fetch .m | .fetch .v | .touch => true
  | _ => false

/-! ## The tick (02 R48) -/

/-- The tick begins: it sees the messages applied at its station before, and the replies these brought (R48, R268). -/
def Core.arrived (c : Core) (applied : Nat) : Core :=
  let take (c : Core) (r : W64 × Nat) : Core :=
    { (c.dqAppend .aq { val := r.1, status := 0, faddr := 0 }) with o := c.o.take r.2 }
  let c1 := c.o.replies.foldl take c
  { c1 with o := { c1.o with seen := applied, replies := [] }, phase := .land }

/-- The next step of the selected core's tick. -/
def State.tickStep (s : State) : Out :=
  let c := s.core
  match c.phase with
  | .arrive =>
    if s.clockStopped s.cur then .next s
    else match c.cp.cmds.find? (·.retime) with
    | some m => .next (s.reissue m)
    | none =>
    if c.dueNow then execTimedDeadline s
    else .next (s.onCore fun c => c.arrived (s.station (clusterOf s.cur)).applied)
  | .land => execLand s
  | .fetch st => execFetch st s
  | .touch => s.touchStep
  | .issue st => if s.barEnds then execBarrierWaitEnd s else s.issueStep st
  | .watchdog => execWatchdog s
  | .slice => execSliceExpiry s
  | .trap => execTrapDelivery s
  | .tickEnd => execReferenceTick s

/-- A core whose job is over ends it once it may; a timed command that has started still meets its deadline first. (DEDUCED,
log 21.) -/
def State.endStep (s : State) : Out :=
  let c := s.core
  let waits (a : Active) : Bool := a.cmd.due.isSome && !a.applied
  if c.mayEnd || s.clockStopped s.cur || !c.cp.act.any waits then .next (s.tryEnd s.cur)
  else if c.dueNow then execTimedDeadline s
  else .next (s.onCore fun c => { c with cp := c.cp.actTick })

/-- The selected core goes on: not while its domain is frozen for pulls, but for a freeze still being gathered; a core
whose job is over ends it. -/
def State.advance (s : State) : Out :=
  match s.core.job with
  | none => .next s
  | some j => match j.phase with
    | .placed | .resuming => .next s
    | .ending _ _ => s.endStep
    | .running => if s.core.t.pulls.isEmpty || s.core.phase.gathers then s.tickStep else .next s

/-- Core n is selected, and goes on. -/
def State.runCore (s : State) (n : Nat) : Out := if 2048 ≤ n then .fault .noSuchCore else (s.select n).advance

/-- Instructions that only a stream of a core issues: they are no steps of the device. -/
def isWord (i : Instr) : Bool := i.ctl?.isSome || match i with
  | .ill .. => true
  | _ => false

/-- A move is made. -/
def State.move (s : State) : Move → Out
  | .core n => s.runCore n
  | .event i => if isWord i then .next s else exec i s

/-- A free move (log 2). -/
def freeMove : Instr ⊕ Nat → Move
  | .inl i => .event i
  | .inr n => .core n

/-! ## The word that runs next (host interface, log 9) -/

/-- A job for a core that has none. -/
def someJob : Job :=
  { tenant := 0, queue := 0, recId := 1, words := [], ord := 0, prio := 0, seq := 0, waitEsn := 0, img := 0, own := 0, ctxid := 0,
    rk := .replicate 6 0, groups := none, phase := .running }

/-- The core with its job running, at the issue step of a stream that takes up a word. (DESIGN CHOICE, log 9.) -/
def Core.atIssue (c : Core) (st : StreamId) (w : W64) : Core :=
  let c1 := if st = .a then c else c.setCsr .status (c.csr .status &&& ~~~1)
  let c2 := if winValid (c1.csr (codeCsr st)) then c1 else c1.setCsr (codeCsr st) (1 <<< 32)
  let a := c2.wordAddr st
  let c3 := (List.range 8).foldl (fun c i => c.setB (a + i) (byteOf w i)) c2
  let x := { c3.stream st with word := some w, bound := 0, hold := 0, joined := false }
  let c4 := c3.setStream st x
  { c4 with job := some { (c.job.getD someJob) with phase := .running }, phase := .issue st,
            t := { c4.t with pulls := [], pf := none, ret := false }, o := { c4.o with barw := none, sbarw := none } }

end Sys2Proof.Machine
end

