-- ==== Sys2Proof/Machine/Step.lean ====
section
/-! DEFINITION. One step of the G9-288: the next move of the agenda, or a free one (08 R186; log 2); and where the next
instruction is fetched (log 9). -/

namespace Sys2Proof.Machine

/-- One step. -/
def step (s : State) : Host.Outcome State Fault Refusal :=
  match s.agenda with
  | m :: rest => State.move { s with agenda := rest } m
  | [] => State.move { s with free := s.free + 1 } (freeMove (Config.freeMove s.free))

/-- The machine whose next step runs a word of the opcode table in the stream its tag names: the selected core stands
at the issue of that stream, with the word in its code window and taken up. (DESIGN CHOICE, log 9.) -/
def State.withFetchWord (s : State) (_nbits w : Nat) : State :=
  { s with core := s.core.atIssue (tagStream w) (BitVec.ofNat 64 w), agenda := [.core s.cur] }

end Sys2Proof.Machine
end

