-- ==== Sys2Proof/Safety.lean ====
section
/-! DEFINITION. The terms in which statements about the machine are made: when nothing keeps a word from issuing, what
its issue leaves, which parts of the machine a step may touch, and the invariant of its memories (02 R20, R21, R54;
07 R171; 08 R193; 14 R341). -/

namespace Sys2Proof.Machine

/-! ## Issue -/

/-- A word with this wait and signal may issue as far as its stream and its tokens go: no earlier word of its stream holds it
back (02 R52, R53; 10 R269), DEBUG.EARLY is off (08 R193), the tokens it pops are there with status success (02 R20, R23), and
the FIFO it signals has places for its tokens (R21). -/
abbrev Core.ready (c : Core) (k : Ctl) : Prop :=
  c.early = false ∧ c.held = false ∧ k.pops ≤ (c.tokens k.wq).length ∧ c.badTok k = none ∧
    (k.pushes = 0 ∨ (c.tokens k.sq).length + vget c.q.fres k.sq.toNat 0 + k.pushes ≤ 64)

/-- Nothing outside the word itself keeps it from issuing: every block is present too (07 R171). -/
abbrev Core.clear (c : Core) (k : Ctl) : Prop := c.r.pres = [] ∧ c.ready k

/-- The answer of a word that issues: its tokens are popped, places for its signal reserved, the counters charged, its
stream moved on, and its results in flight (`Core.issued`). -/
def State.goes (s : State) (p : Plan) : Out := .next (s.onCore fun c => c.issued p)

/-- A word of a stream with these results in flight, landing `lat` ticks after its issue. -/
def Plan.of (st : StreamId) (k : Ctl) (lat : Nat) (acts : List LAct) : Plan :=
  { st := st, ctl := k, lat := lat, acts := acts }

/-- The answer of an A word whose one result is a scalar, landing L engine ticks after issue (02 R51; 04 R80: s0
discards it). -/
def State.yields (s : State) (k : Ctl) (d : BitVec 6) (l : Nat) (x : W64) : Out :=
  s.goes (.of .a k (l * s.core.sa.div) (s.core.sWrite d x))

/-- The answer of a word that issues and, at its issue, changes its own core further. -/
def State.goesWith (s : State) (p : Plan) (f : Core → Core) : Out := .next (s.onCore fun c => f (c.issued p))

/-- The answer of a word that faults before its issue (02 R37): precise, nothing of the word done. -/
def State.faults (s : State) (st : StreamId) (f : Flt) : Out := .next (s.onCore fun c => c.raise st f)

/-- A local address that a scalar access of n bytes may use: aligned, mapped, and not lent outside hot class
(07 R161, R174). -/
abbrev Core.mayAccess (c : Core) (a n : Nat) (store : Bool) : Prop :=
  a < 0x400000 ∧ a % n = 0 ∧ mapped a = true ∧ mapped (a + n - 1) = true ∧ (store = true → viewAddr a = false) ∧
    (lentAddr a = true → c.hot = true)

/-- R201's conditions: every command posted is performed and delivered, every store of the stream visible, every remote
ATOM answered. -/
abbrev Core.mayRelease (c : Core) : Prop :=
  c.cp.unfinished c.cp.nextCmd = false ∧
    (∀ e ∈ c.land, e.st = .a → e.sup = c.inSup → e.acts.any LAct.isStore = false) ∧ c.cp.ratoms = []

/-- Every own message is applied at the core's station, as this tick sees it (10 R268). -/
abbrev Core.ownApplied (c : Core) : Prop := c.o.unsent = 0 ∧ c.o.own ≤ c.o.seen

/-- The answer of a word that issues and sends a message to its cluster's station, changing its own core further. -/
def State.sends (s : State) (p : Plan) (m : Msg) (f : Core → Core) : Out :=
  let n := s.cur / 256
  let t := vget s.erg.st n .reset
  .next { s with core := f (s.core.issued p),
                 erg := { s.erg with st := vset s.erg.st n { t with queue := t.queue ++ [m] } } }

/-! ## Words of the V stream -/

/-- Lane l of operand i, as a VR word reads its operands. -/
def VRead.lane (r : VRead) (i l : Nat) : W32 := (srcOf r.vals i).getD l 0

/-- Nothing among a VR word's operands holds it back or faults: dv holds its namings, and neither a source nor the
destination, under the mask, raises a fault (06 R136, R150, R157). -/
abbrev State.vrReady (s : State) (d : VDst) (xs : List VSrc) (m : W64) : Prop :=
  let r := readSrcs s xs
  r.dv ≤ (s.core.dq .dv).length ∧ r.fault = none ∧ (writeDst s.core r.z d m []).fault = none

/-- The answer of a VR word whose lane i has a result and flags: the lanes in the mask go to the destination L ticks at
divisor 2 after issue, 4 more where an element lies in a lent range, and one engine tick for each further read of a
quarter of the file (02 R53); the namings of z and DV take effect at once; FPFLAGS come from the lanes in the mask
(06 R136, R137, R152, R157). -/
def State.vrGoes (s : State) (k : Ctl) (d : VDst) (xs : List VSrc) (m : W64) (l : Nat) (f : Nat → W32 × FpFlags)
    (more : List LAct := []) : Out :=
  let r := readSrcs s xs
  let w := writeDst s.core r.z d m ((List.range 64).map fun i => (f i).1)
  let e := bankExtra xs
  let fl := orFlags (((List.range 64).filter fun i => m.getLsbD i).map fun i => (f i).2)
  let lat := ((l + if r.lent || w.lent then 4 else 0) * s.core.sv.div + 1) / 2 + e * s.core.sv.div
  s.goesWith { Plan.of .v k lat (w.acts ++ more) with fp := fl ||| w.fp, extra := e } fun c =>
    { c with r := { c.r with z := w.z }, q := { c.q with dq := vset c.q.dq 2 ((vget c.q.dq 2 []).drop r.dv) } }

/-! ## The invariant of the memories -/

/-- Every memory of the machine is in canonical form: device and host memory, the peers', and each core's. -/
def State.Inv (s : State) : Prop :=
  s.mem.wf = true ∧ s.host.wf = true ∧ (∀ p ∈ s.peers, p.2.mem.wf = true) ∧ s.core.r.sram.wf = true ∧
    ∀ p ∈ s.parked, p.2.r.sram.wf = true

/-- The byte cell that local address a of core n names: a lent address lies in a neighbour (07 R161, R166). -/
def cell (n a : Nat) : Nat × Nat := if lentAddr a then lentTo n a else (n, a)

end Sys2Proof.Machine
end

