-- ==== Sys2Proof/Certificates/Slice0/Obligations.lean ====
section
/-! DEFINITION. The statements about the machine, by chapter of the specification. -/

open Sys2Proof Sys2Proof.Machine

/-- R87, R88, R90: the results of the AR integer instructions but the divide family, with their latencies. R91, R92:
the immediate instructions. R93 to R95, R25: the predicate written; p0 discards it, and it still lands (R80). R25: EQ,
NE, signed LT and GE, unsigned LTU and GEU, AL. -/
def Obligations.AluImmediateAndPredicateWords : Prop :=
  (∀ (c : Ctl) (d a b n : BitVec 6) (p : BitVec 3) (s : State), s.core.clear c →
     let x := s.core.sreg a
     let y := s.core.sreg b
     exec (.add c d a b) s = s.yields c d 1 (x + y) ∧
     exec (.sub c d a b) s = s.yields c d 1 (x - y) ∧
     exec (.mul c d a b) s = s.yields c d 3 (x * y) ∧
     exec (.mulhs c d a b) s = s.yields c d 3 (BitVec.ofInt 64 (x.toInt * y.toInt / 2 ^ 64)) ∧
     exec (.mulhu c d a b) s = s.yields c d 3 (BitVec.ofNat 64 (x.toNat * y.toNat / 2 ^ 64)) ∧
     exec (.and c d a b) s = s.yields c d 1 (x &&& y) ∧
     exec (.or c d a b) s = s.yields c d 1 (x ||| y) ∧
     exec (.xor c d a b) s = s.yields c d 1 (x ^^^ y) ∧
     exec (.andn c d a b) s = s.yields c d 1 (x &&& ~~~y) ∧
     exec (.shl c d a b) s = s.yields c d 1 (x <<< (y.toNat % 64)) ∧
     exec (.shr c d a b) s = s.yields c d 1 (x >>> (y.toNat % 64)) ∧
     exec (.sar c d a b) s = s.yields c d 1 (x.sshiftRight (y.toNat % 64)) ∧
     exec (.rol c d a b) s = s.yields c d 1 (x.rotateLeft (y.toNat % 64)) ∧
     exec (.min c d a b) s = s.yields c d 1 (if y.toInt < x.toInt then y else x) ∧
     exec (.max c d a b) s = s.yields c d 1 (if x.toInt < y.toInt then y else x) ∧
     exec (.minu c d a b) s = s.yields c d 1 (if y.toNat < x.toNat then y else x) ∧
     exec (.maxu c d a b) s = s.yields c d 1 (if x.toNat < y.toNat then y else x) ∧
     (∃ z ≤ 64, exec (.clz c d a) s = s.yields c d 1 (BitVec.ofNat 64 z) ∧
       (∀ i < z, x.getLsbD (63 - i) = false) ∧ (z < 64 → x.getLsbD (63 - z) = true)) ∧
     exec (.popc c d a) s = s.yields c d 1 (BitVec.ofNat 64 ((List.range 64).countP fun i => x.getLsbD i)) ∧
     exec (.sel c d a b p) s = s.yields c d 1 (if s.core.preg p then x else y) ∧
     exec (.addx c d a b n) s = s.yields c d 1 (x + y <<< n.toNat) ∧
     exec (.clamp c d a b) s = s.yields c d 1
       (if x.toInt < 0 ∨ y.toInt ≤ 0 then 0 else if y.toInt ≤ x.toInt then y - 1 else x)) ∧
  (∀ (c : Ctl) (d a n : BitVec 6) (imm : BitVec 28) (i34 : BitVec 34) (i32 : BitVec 32) (s : State), s.core.clear c →
     let x := s.core.sreg a
     let i := imm.signExtend 64
     exec (.addi c d a imm) s = s.yields c d 1 (x + i) ∧
     exec (.andi c d a imm) s = s.yields c d 1 (x &&& i) ∧
     exec (.ori c d a imm) s = s.yields c d 1 (x ||| i) ∧
     exec (.xori c d a imm) s = s.yields c d 1 (x ^^^ i) ∧
     exec (.shli c d a n) s = s.yields c d 1 (x <<< n.toNat) ∧
     exec (.shri c d a n) s = s.yields c d 1 (x >>> n.toNat) ∧
     exec (.sari c d a n) s = s.yields c d 1 (x.sshiftRight n.toNat) ∧
     exec (.muli c d a imm) s = s.yields c d 3 (x * i) ∧
     exec (.li c d i34) s = s.yields c d 1 (i34.signExtend 64) ∧
     exec (.lih c d i32) s = s.yields c d 1 (i32.setWidth 64 <<< 32 ||| (s.core.sreg d &&& 0xFFFFFFFF))) ∧
  (∀ (c : Ctl) (cc : Cond) (op : LogOp) (pd pa pb : BitVec 3) (a b : BitVec 6) (imm : BitVec 24) (s : State),
     s.core.clear c → op ≠ .not →
     let lands (v : Bool) := s.goes (.of .a c s.core.sa.div (if pd = 0 then [.discard] else [.pred pd.toNat v]))
     let x := s.core.preg pa
     let y := s.core.preg pb
     exec (.cmp c cc pd a b) s = lands (condHolds cc (s.core.sreg a) (s.core.sreg b)) ∧
     exec (.cmpi c cc pd a imm) s = lands (condHolds cc (s.core.sreg a) (imm.signExtend 64)) ∧
     exec (.plog c op pd pa pb) s =
       lands (match op with
         | .and => x && y
         | .or => x || y
         | .xor => x != y
         | _ => x && !y)) ∧
  (∀ (x y : W64),
     condHolds .eq x y = decide (x = y) ∧ condHolds .ne x y = decide (x ≠ y) ∧
     condHolds .lt x y = decide (x.toInt < y.toInt) ∧ condHolds .ge x y = decide (y.toInt ≤ x.toInt) ∧
     condHolds .ltu x y = decide (x.toNat < y.toNat) ∧ condHolds .geu x y = decide (y.toNat ≤ x.toNat) ∧
     condHolds .al x y = true)

/-- R89: the divide family truncates toward zero, never faults on its operands, and takes 20 ticks. -/
def Obligations.DivideFamilyTruncatesAndNeverFaults : Prop :=
  ∀ (c : Ctl) (d a b : BitVec 6) (s : State), s.core.clear c →
    let x := s.core.sreg a
    let y := s.core.sreg b
    exec (.div c d a b) s = s.yields c d 20
      (if y = 0 then -1 else if x.toInt = -2 ^ 63 ∧ y.toInt = -1 then BitVec.ofInt 64 (-2 ^ 63)
        else BitVec.ofInt 64 (x.toInt.tdiv y.toInt)) ∧
    exec (.rem c d a b) s = s.yields c d 20
      (if y = 0 then x else if x.toInt = -2 ^ 63 ∧ y.toInt = -1 then 0
        else BitVec.ofInt 64 (x.toInt - y.toInt * x.toInt.tdiv y.toInt)) ∧
    exec (.divu c d a b) s = s.yields c d 20
      (if y = 0 then BitVec.ofNat 64 (2 ^ 64 - 1) else BitVec.ofNat 64 (x.toNat / y.toNat)) ∧
    exec (.remu c d a b) s = s.yields c d 20 (if y = 0 then x else BitVec.ofNat 64 (x.toNat % y.toNat))

/-- R96 to R101: where the branches of the A stream go, and what they write. -/
def Obligations.BranchesTakeTheirTargets : Prop :=
  ∀ (c : Ctl) (cc : Cond) (ne : Bool) (p : BitVec 3) (d a b : BitVec 6) (off : BitVec 24) (s : State),
    s.core.clear c → s.core.winSize .a ≤ 2 ^ 17 →
    let x := s.core.sreg a
    let n := x - 1
    let l := s.core.sa.div
    let size := s.core.winSize .a
    let link : W64 := BitVec.ofNat 64 (if size = 0 then 0 else (s.core.sa.pc.toNat + 1) % size)
    let taken (v : Bool) : Next := if v then .rel off else .seq
    exec (.br c cc a b off) s = s.goes { Plan.of .a c l [] with next := taken (condHolds cc x (s.core.sreg b)) } ∧
    exec (.bp c ne p off) s = s.goes { Plan.of .a c l [] with next := taken (s.core.preg p != ne) } ∧
    exec (.jmp c off) s = s.goes { Plan.of .a c l [] with next := .rel off } ∧
    exec (.call c off) s = s.goes { Plan.of .a c l (s.core.sWrite 63 link) with next := .rel off } ∧
    exec (.jr c d a) s = s.goes { Plan.of .a c l (s.core.sWrite d link) with next := .abs x.toNat } ∧
    exec (.loop c a off) s = s.goes { Plan.of .a c l (s.core.sWrite a n) with next := taken (n != 0) }

/-- R84, R102, R103: the places of the handle fields; HSET replaces exactly the field's bits; HGET extends them. R102
to R105: the handle or the scalar that each handle instruction writes, with latency 1; HSET's landing changes the bits
of the field and leaves the other bits as that tick finds them (DEDUCED, log 45). R106: HLD and HST move 32 bytes
between a handle and the scratchpad or, in hot class, a shade window; outside these they raise LOCAL_BOUNDS, then
LENT. -/
def Obligations.HandleWordsReadWriteAndMove : Prop :=
  ([HField.addr, .space, .ext0, .ext1, .ext2, .ext3, .stride1, .stride2, .stride3, .et, .win, .layout, .word0, .word1,
     .word2, .word3].map hfPlace =
   [(0, 48, false), (60, 4, false), (64, 16, false), (80, 16, false), (96, 16, false), (112, 16, false),
     (128, 32, true), (160, 32, true), (192, 24, true), (216, 4, false), (220, 16, false), (236, 4, false),
     (0, 64, false), (64, 64, false), (128, 64, false), (192, 64, false)] ∧
   ∀ (h : BitVec 256) (f : HField) (x : W64) (i : Nat),
     let lo := (hfPlace f).1
     let w := (hfPlace f).2.1
     (i < 256 → (hfSet h f x).getLsbD i = if lo ≤ i ∧ i < lo + w then x.getLsbD (i - lo) else h.getLsbD i) ∧
     (i < 64 → (hfGet h f).getLsbD i =
       if i < w then h.getLsbD (lo + i) else ((hfPlace f).2.2 && h.getLsbD (lo + w - 1)))) ∧
  (∀ (c : Ctl) (h g : BitVec 4) (a b : BitVec 6) (f : HField) (s : State), s.core.clear c →
     let x := s.core.sreg a
     let v := s.core.hreg g
     let lands (y : BitVec 256) := s.goes (.of .a c s.core.sa.div [.handle h.toNat y])
     exec (.hset c h a f) s = s.goes (.of .a c s.core.sa.div [hfLand h f x]) ∧
     (∀ t : State, ∃ y, (t.landAct [] (hfLand h f x)).1 =
         t.onCore (fun k => { k with r := { k.r with h := vset k.r.h h.toNat y } }) ∧
       let lo := (hfPlace f).1
       ∀ i < 256, y.getLsbD i = if lo ≤ i ∧ i < lo + (hfPlace f).2.1 then x.getLsbD (i - lo) else (t.core.hreg h).getLsbD i) ∧
     exec (.hget c a g f) s = s.yields c a 1 (hfGet v f) ∧
     exec (.hmov c h g) s = lands v ∧
     exec (.hdim c h g a b 0) s = lands (hfSet v .ext0 x) ∧
     exec (.hdim c h g a b 1) s = lands (hfSet (hfSet v .ext1 x) .stride1 (s.core.sreg b)) ∧
     exec (.hdim c h g a b 2) s = lands (hfSet (hfSet v .ext2 x) .stride2 (s.core.sreg b)) ∧
     exec (.hdim c h g a b 3) s = lands (hfSet (hfSet v .ext3 x) .stride3 (s.core.sreg b)) ∧
     ∀ (dim : BitVec 2),
       let q := x.toInt * hStride v dim.toNat
       let off : Int := if hLayout v = 1 then q.tdiv 256 * (if hEt v = 13 then 132 else 260) else q * (esz (hEt v) : Int)
       exec (.hadv c h g a dim) s = lands (hfSet v .addr (BitVec.ofInt 64 (((hAddr v : Int) + off) % 2 ^ 48)))) ∧
  (∀ (c : Ctl) (h g : BitVec 4) (a : BitVec 6) (off : BitVec 8) (s : State), s.core.clear c →
     let ea := ((s.core.sreg a + BitVec.ofNat 64 (32 * off.toNat)) &&& ~~~0x1F).toNat
     let more := if 0x100000 ≤ ea then 4 else 0
     (0x200000 ≤ ea → exec (.hld c h a off) s = s.faults .a (flt 0x07 ea) ∧
       exec (.hst c g a off) s = s.faults .a (flt 0x07 ea)) ∧
     (ea < 0x200000 → 0x100000 ≤ ea → s.core.hot = false → exec (.hld c h a off) s = s.faults .a (flt 0x06 ea) ∧
       exec (.hst c g a off) s = s.faults .a (flt 0x06 ea)) ∧
     (ea < 0x200000 → (0x100000 ≤ ea → s.core.hot = true) →
       exec (.hld c h a off) s = s.goes (.of .a c ((6 + more) * s.core.sa.div)
         [.handle h.toNat (BitVec.ofNat 256 (leNat (s.getLs ea 32)))]) ∧
       exec (.hst c g a off) s = s.goes (.of .a c ((4 + more) * s.core.sa.div)
         [.write ea 1 0 (leBytes 32 (s.core.hreg g).toNat)])))

/-- R172, R173: a load reads at its issue and lands 6 ticks later, 10 from a lent range, extended as it says. R162,
R172, R173: a store takes the low bytes of s[d] at its issue and becomes visible 4 ticks later, 8 in a lent range;
into the z states it is ignored. R174: LOCAL_BOUNDS for an address outside the map, unaligned, unmapped or a store
into a read-only view; then LENT outside hot class; FADDR receives the address. -/
def Obligations.LoadsAndStoresMoveBytesOrFault : Prop :=
  (∀ (c : Ctl) (d a : BitVec 6) (imm : BitVec 28) (s : State), s.core.clear c →
     let ea := (s.core.sreg a + imm.signExtend 64).toNat
     let l := if lentAddr ea then 10 else 6
     let v (n : Nat) := leNat (s.getLs ea n)
     (s.core.mayAccess ea 1 false → exec (.ld8 c d a imm) s = s.yields c d l (BitVec.ofNat 64 (v 1)) ∧
       exec (.lds8 c d a imm) s = s.yields c d l ((BitVec.ofNat 8 (v 1)).signExtend 64)) ∧
     (s.core.mayAccess ea 2 false → exec (.ld16 c d a imm) s = s.yields c d l (BitVec.ofNat 64 (v 2)) ∧
       exec (.lds16 c d a imm) s = s.yields c d l ((BitVec.ofNat 16 (v 2)).signExtend 64)) ∧
     (s.core.mayAccess ea 4 false → exec (.ld32 c d a imm) s = s.yields c d l (BitVec.ofNat 64 (v 4)) ∧
       exec (.lds32 c d a imm) s = s.yields c d l ((BitVec.ofNat 32 (v 4)).signExtend 64)) ∧
     (s.core.mayAccess ea 8 false → exec (.ld64 c d a imm) s = s.yields c d l (BitVec.ofNat 64 (v 8)))) ∧
  (∀ (c : Ctl) (d a : BitVec 6) (imm : BitVec 28) (s : State), s.core.clear c →
     let ea := (s.core.sreg a + imm.signExtend 64).toNat
     let l := if lentAddr ea then 8 else 4
     let stores (n : Nat) := s.goes (.of .a c (l * s.core.sa.div)
       (if zAddr ea then [] else [.write ea 1 0 (leBytes n (s.core.sreg d).toNat)]))
     (s.core.mayAccess ea 1 true → exec (.st8 c d a imm) s = stores 1) ∧
     (s.core.mayAccess ea 2 true → exec (.st16 c d a imm) s = stores 2) ∧
     (s.core.mayAccess ea 4 true → exec (.st32 c d a imm) s = stores 4) ∧
     (s.core.mayAccess ea 8 true → exec (.st64 c d a imm) s = stores 8)) ∧
  (∀ (c : Ctl) (d a : BitVec 6) (imm : BitVec 28) (s : State), s.core.clear c →
     let ea := (s.core.sreg a + imm.signExtend 64).toNat
     let out (n : Nat) : Prop := 0x400000 ≤ ea ∨ ea % n ≠ 0 ∨ mapped ea = false ∨ mapped (ea + n - 1) = false
     let lent (n : Nat) : Prop := ea % n = 0 ∧ lentAddr ea = true ∧ mapped ea = true ∧ mapped (ea + n - 1) = true ∧ s.core.hot = false
     (out 8 → exec (.ld64 c d a imm) s = s.faults .a (flt 0x07 ea)) ∧
     (out 4 → exec (.ld32 c d a imm) s = s.faults .a (flt 0x07 ea) ∧
       exec (.lds32 c d a imm) s = s.faults .a (flt 0x07 ea)) ∧
     (out 2 → exec (.ld16 c d a imm) s = s.faults .a (flt 0x07 ea) ∧
       exec (.lds16 c d a imm) s = s.faults .a (flt 0x07 ea)) ∧
     (out 1 → exec (.ld8 c d a imm) s = s.faults .a (flt 0x07 ea) ∧
       exec (.lds8 c d a imm) s = s.faults .a (flt 0x07 ea)) ∧
     (out 8 ∨ viewAddr ea = true → exec (.st64 c d a imm) s = s.faults .a (flt 0x07 ea)) ∧
     (out 4 ∨ viewAddr ea = true → exec (.st32 c d a imm) s = s.faults .a (flt 0x07 ea)) ∧
     (out 2 ∨ viewAddr ea = true → exec (.st16 c d a imm) s = s.faults .a (flt 0x07 ea)) ∧
     (out 1 ∨ viewAddr ea = true → exec (.st8 c d a imm) s = s.faults .a (flt 0x07 ea)) ∧
     (lent 8 → exec (.ld64 c d a imm) s = s.faults .a (flt 0x06 ea) ∧
       exec (.st64 c d a imm) s = s.faults .a (flt 0x06 ea)) ∧
     (lent 4 → ∀ i ∈ [Instr.ld32 c d a imm, .lds32 c d a imm, .st32 c d a imm], exec i s = s.faults .a (flt 0x06 ea)) ∧
     (lent 2 → ∀ i ∈ [Instr.ld16 c d a imm, .lds16 c d a imm, .st16 c d a imm], exec i s = s.faults .a (flt 0x06 ea)) ∧
     (lent 1 → ∀ i ∈ [Instr.ld8 c d a imm, .lds8 c d a imm, .st8 c d a imm], exec i s = s.faults .a (flt 0x06 ea)))

/-- R175 to R177: ATOM waits while aq has no place free; it raises LOCAL_BOUNDS for an address that is not a multiple
of the width, has bits set that must be zero, or names no scratchpad word, then LENT for a shade window outside hot
class; a local one reserves a place and is performed 4 ticks after issue, 8 in a shade window; one that names another
core leaves as a message and no landing entry. R175: the new value of each atomic operation, all values cut to the
width. -/
def Obligations.AtomsAreReservedAndComputed : Prop :=
  (∀ (c : Ctl) (op : AtomOp) (w64 : Bool) (a b cx : BitVec 6) (s : State), s.core.clear c →
     let x := s.core.sreg a
     let opa := x.toNat % 2 ^ 33
     let reserve (k : Core) : Core := { k with q := { k.q with dres := vset k.q.dres 6 (vget k.q.dres 6 0 + 1) } }
     let room := (s.core.dq .aq).length + vget s.core.q.dres 6 0 < 32
     let aligned := x.toNat % (if w64 then 8 else 4) = 0
     let own := x.getLsbD 63 = true ∧ x.toNat / 2 ^ 33 = 2 ^ 30 ∧ opa / 2 ^ 22 = s.cur
     let outside := ¬aligned ∨ x.getLsbD 63 = false ∧ 0x200000 ≤ x.toNat ∨ x.getLsbD 63 = true ∧ x.toNat / 2 ^ 33 ≠ 2 ^ 30 ∨
       own ∧ 0x200000 ≤ opa % 2 ^ 22
     (¬room → exec (.atom c op w64 a b cx) s = .next s) ∧
     (room → outside → exec (.atom c op w64 a b cx) s = s.faults .a { code := 0x07, faddr := x }) ∧
     (room → aligned → s.core.hot = false → ∀ ad, x.getLsbD 63 = false ∧ x.toNat = ad ∨ own ∧ opa % 2 ^ 22 = ad →
       0x100000 ≤ ad → ad < 0x200000 → exec (.atom c op w64 a b cx) s = s.faults .a (flt 0x06 ad)) ∧
     (room → aligned → ∀ ad, (x.getLsbD 63 = false ∧ x.toNat = ad ∨
         own ∧ opa % 2 ^ 22 = ad) →
       ad < 0x200000 → (0x100000 ≤ ad → s.core.hot = true) →
       ∃ w, encode (.atom c op w64 a b cx) = some w ∧
         exec (.atom c op w64 a b cx) s = s.goesWith
           (.of .a c ((if 0x100000 ≤ ad then 8 else 4) * s.core.sa.div)
             [.atom w op w64 ad (s.core.sreg b) (s.core.sreg cx)]) reserve) ∧
     (room → aligned → x.getLsbD 63 = true → x.toNat / 2 ^ 33 = 2 ^ 30 → opa / 2 ^ 22 ≠ s.cur →
       exec (.atom c op w64 a b cx) s = s.goesWith { Plan.of .a c 1 [] with noEntry := true } fun k =>
         { reserve k with cp := { k.cp with
             ratoms := k.cp.ratoms ++ [{ seq := k.cp.nextAtom, opa := opa, op := op, w64 := w64, b := s.core.sreg b,
                                         c := s.core.sreg cx, sq := c.sq, sn := c.sn, sup := s.core.inSup,
                                         reply := none }],
             nextAtom := k.cp.nextAtom + 1 } })) ∧
  (∀ (w old b c : Nat), w = 32 ∨ w = 64 → old < 2 ^ w →
     let b' := b % 2 ^ w
     let sg (x : Nat) : Int := if 2 ^ (w - 1) ≤ x then (x : Int) - 2 ^ w else x
     atomNew .swap w old b c = b' ∧ atomNew .add w old b c = (old + b) % 2 ^ w ∧
     atomNew .and w old b c = old &&& b' ∧ atomNew .or w old b c = old ||| b' ∧ atomNew .xor w old b c = old ^^^ b' ∧
     atomNew .min w old b c = (if sg b' < sg old then b' else old) ∧
     atomNew .max w old b c = (if sg old < sg b' then b' else old) ∧
     atomNew .minu w old b c = min old b' ∧ atomNew .maxu w old b c = max old b' ∧
     atomNew .cas w old b c = (if old = c % 2 ^ w then b' else old) ∧
     atomNew .fadd 32 (old % 2 ^ 32) b c = (fadd (old % 2 ^ 32) (b % 2 ^ 32)).1)

/-- R253, R255: a push reserves its place at issue and lands at issue + 1; it waits while the queue's places are all
filled or reserved. R253, R255: POP takes the oldest entry at issue and waits for one; an entry whose status is no
success raises that status's fault and stays; QCNT counts the entries present. -/
def Obligations.DataQueuesPushAndPop : Prop :=
  (∀ (c : Ctl) (a : BitVec 6) (p : BitVec 3) (q : DqId) (s : State), s.core.clear c →
     let used (q : DqId) := (s.core.dq q).length + vget s.core.q.dres q.no 0
     let push (q : DqId) (x : W64) := s.goesWith (.of .a c s.core.sa.div [.queue q x]) fun k =>
       { k with q := { k.q with dres := vset k.q.dres q.no (vget k.q.dres q.no 0 + 1) } }
     (used q < q.depth → exec (.push c a q) s = push q (s.core.sreg a) ∧
       exec (.bout c p q) s = push q (if s.core.preg p then 1 else 0)) ∧
     (used .fq < 64 → exec (.fmt c a) s = push .fq (s.core.sreg a)) ∧
     (q.depth ≤ used q → exec (.push c a q) s = .next s ∧ exec (.bout c p q) s = .next s) ∧
     (64 ≤ used .fq → exec (.fmt c a) s = .next s)) ∧
  (∀ (c : Ctl) (d : BitVec 6) (q : DqId) (e : QEnt) (rest : List QEnt) (s : State), s.core.clear c →
     (s.core.dq q = e :: rest → e.status = 0 →
       exec (.pop c d q) s = s.goesWith (.of .a c s.core.sa.div (s.core.sWrite d e.val)) fun k =>
         { k with q := { k.q with dq := vset k.q.dq q.no ((vget k.q.dq q.no []).drop 1) } }) ∧
     (s.core.dq q = e :: rest → e.status ≠ 0 →
       exec (.pop c d q) s = s.faults .a { code := e.status, faddr := e.faddr, status := e.status }) ∧
     (s.core.dq q = [] → exec (.pop c d q) s = .next s) ∧
     exec (.qcnt c d q) s = s.yields c d 1 (BitVec.ofNat 64 (s.core.dq q).length))

/-- R256, R258: with C = 2^LCNT, what each ring instruction waits for, changes and writes; RING while the ring is
invalid, or for a count beyond the ring or its counters. R257, R258: RSET reads the descriptor and refuses it with
RING, or its address with LOCAL_BOUNDS; RSTAT reads a field, 0 for an invalid ring. -/
def Obligations.RingWordsKeepTheirCounters : Prop :=
  (∀ (c : Ctl) (d a : BitVec 6) (n : BitVec 4) (s : State), s.core.clear c →
     let r := vget s.core.q.ring n.toNat .reset
     let size := 2 ^ r.lcnt.toNat
     let k := (s.core.sreg a).toNat
     let filled := (r.tail - r.head).toNat
     let held := (r.claimed - r.head).toNat
     let opened := (r.claimed - r.tail).toNat
     let k32 : W32 := BitVec.ofNat 32 k
     let acts (acts : List LAct) (r' : Ring) := s.goesWith (.of .a c s.core.sa.div (acts ++ [.ringView n.toNat (r'.minus r)])) fun x =>
       { x with q := { x.q with ring := vset x.q.ring n.toNat r' } }
     let ringFault := s.faults .a (flt 0x10)
     (r.valid = false → exec (.rclaim c d a n) s = ringFault ∧ exec (.rfill c a n) s = ringFault ∧
       exec (.rwaitf c d a n) s = ringFault ∧ exec (.rfree c a n) s = ringFault) ∧
     (r.valid = true → size < k → exec (.rclaim c d a n) s = ringFault ∧ exec (.rwaitf c d a n) s = ringFault) ∧
     (r.valid = true → k ≤ size → size - held < k → exec (.rclaim c d a n) s = .next s) ∧
     (r.valid = true → k ≤ size → k ≤ size - held → exec (.rclaim c d a n) s =
       acts (s.core.sWrite d (BitVec.ofNat 64 (r.claimed.toNat % size))) { r with claimed := r.claimed + k32 }) ∧
     (r.valid = true → k ≤ size → filled < k → exec (.rwaitf c d a n) s = .next s) ∧
     (r.valid = true → k ≤ size → k ≤ filled → exec (.rwaitf c d a n) s =
       acts (s.core.sWrite d (BitVec.ofNat 64 (r.head.toNat % size))) r) ∧
     (r.valid = true → opened < k → exec (.rfill c a n) s = ringFault) ∧
     (r.valid = true → k ≤ opened → exec (.rfill c a n) s = acts [] { r with tail := r.tail + k32 }) ∧
     (r.valid = true → filled < k → exec (.rfree c a n) s = ringFault) ∧
     (r.valid = true → k ≤ filled → exec (.rfree c a n) s = acts [] { r with head := r.head + k32 })) ∧
  (∀ (c : Ctl) (f : RField) (d a : BitVec 6) (n : BitVec 4) (s : State), s.core.clear c →
     let ad := (s.core.sreg a).toNat
     let x := leNat (s.getLs ad 8)
     let base := x % 2 ^ 22
     let slot := x / 2 ^ 24 % 2 ^ 16
     let lcnt := x / 2 ^ 40 % 16
     let ok := x / 2 ^ 22 % 4 = 0 ∧ x / 2 ^ 44 % 2 ^ 20 = 0 ∧ slot ≠ 0 ∧ lcnt ≤ 12 ∧ base + slot * 2 ^ lcnt ≤ 0x100000
     let r := vget s.core.q.ring n.toNat .reset
     let new : Ring := { head := 0, tail := 0, claimed := 0, base := BitVec.ofNat 22 base, valid := true,
                         lcnt := BitVec.ofNat 4 lcnt, slot := BitVec.ofNat 16 slot }
     (ad % 8 ≠ 0 ∨ 0x100000 ≤ ad → exec (.rset c a n) s = s.faults .a (flt 0x07 ad)) ∧
     (ad % 8 = 0 → ad < 0x100000 → ¬ok → exec (.rset c a n) s = s.faults .a (flt 0x10)) ∧
     (ad % 8 = 0 → ad < 0x100000 → ok → exec (.rset c a n) s =
       s.goesWith (.of .a c s.core.sa.div [.ringView n.toNat (new.minus r)]) fun k =>
         { k with q := { k.q with ring := vset k.q.ring n.toNat new } }) ∧
     exec (.rstat c f d n) s = s.yields c d 1
       (if r.valid = false then 0 else match f with
         | .filled => BitVec.ofNat 64 (r.tail - r.head).toNat
         | .free => BitVec.ofNat 64 (2 ^ r.lcnt.toNat - (r.claimed - r.head).toNat)
         | .opened => BitVec.ofNat 64 (r.claimed - r.tail).toNat
         | .head => r.head.setWidth 64
         | .tail => r.tail.setWidth 64
         | .claimed => r.claimed.setWidth 64))

/-- R261, R262: the barrier instructions; a phase completes when its expectation is posted and nothing is pending. -/
def Obligations.BarrierWordsCountAndComplete : Prop :=
  ∀ (c : Ctl) (a : BitVec 6) (n : BitVec 3) (s : State), s.core.clear c →
    let b := vget s.core.q.bar n.toNat .reset
    let k := (s.core.sreg a).toNat
    let bad := s.faults .a (flt 0x11)
    let becomes (x : Bar) := s.goesWith (.of .a c s.core.sa.div [.barView n.toNat (x.minus b)]) fun y =>
      { y with q := { y.q with bar := vset y.q.bar n.toNat x } }
    let up := b.pending.toInt + (k : Int)
    let down := b.pending.toInt - (k : Int)
    exec (.bset c n) s = becomes { posted := false, phase := false, pending := 0 } ∧
    (b.posted = true ∨ 2 ^ 31 ≤ k ∨ 2 ^ 31 ≤ up → exec (.bexp c a n) s = bad) ∧
    (b.posted = false → k < 2 ^ 31 → up < 2 ^ 31 → up ≠ 0 →
      exec (.bexp c a n) s = becomes { b with pending := BitVec.ofInt 32 up, posted := true }) ∧
    (b.posted = false → k < 2 ^ 31 → up = 0 →
      exec (.bexp c a n) s = becomes { posted := false, phase := !b.phase, pending := 0 }) ∧
    (2 ^ 32 ≤ k ∨ b.posted = true ∧ down < 0 ∨ b.posted = false ∧ down < -2 ^ 31 → exec (.barr c a n) s = bad) ∧
    (k < 2 ^ 32 → b.posted = true → 0 < down → exec (.barr c a n) s = becomes { b with pending := BitVec.ofInt 32 down }) ∧
    (k < 2 ^ 32 → b.posted = true → down = 0 →
      exec (.barr c a n) s = becomes { posted := false, phase := !b.phase, pending := 0 }) ∧
    (k < 2 ^ 32 → b.posted = false → -2 ^ 31 ≤ down →
      exec (.barr c a n) s = becomes { b with pending := BitVec.ofInt 32 down }) ∧
    (b.phase = (s.core.sreg a).getLsbD 0 → exec (.bwait c a n) s = .next s) ∧
    (b.phase ≠ (s.core.sreg a).getLsbD 0 → exec (.bwait c a n) s = s.goes (.of .a c s.core.sa.div []))

/-- R35, R51, R283, R284, R338, R350: NOP, JOIN, TRAP, BRK and TFENCE complete; their issue + 1 scales by R51 as a
latency of 1 does, the model's reading (DEDUCED, log 43). TRAP and BRK note their cause for the end of the tick and
keep the tokens they pop; TFENCE waits for the results of its stream, remote ATOMs among them; ILL is illegal whatever
else it holds (R36). R37, R302, R339, R343, R345, R346: every supervisor word raises PRIVILEGED in user mode, whatever
tokens or signal space it would wait for. -/
def Obligations.CommonAndSupervisorWords : Prop :=
  (∀ (st : StreamId) (c : Ctl) (imm : BitVec 16) (rest : BitVec 56) (s : State), s.core.clear c →
     let n := (s.core.stream st).div
     let lat := if st = .a then n else (n + 1) / 2
     let after (code : BitVec 8) (imm : BitVec 16) := s.goesWith { Plan.of st c 1 [] with noEntry := true } fun k =>
       { k with q := { k.q with fres := s.core.q.fres }, t := { k.t with stops := k.t.stops ++
           [{ kind := .after, st := some st, code := code, imm := imm, faddr := 0, status := 0, block := 0, poff := none }] } }
     exec (.nop st c) s = s.goes (.of st c lat []) ∧
     (st ≠ .a → exec (.join st c) s = s.goesWith (.of st c lat []) fun k =>
       k.setStream st { k.stream st with joined := true }) ∧
     (s.core.cp.groups = [] → s.core.cp.unobs = [] → exec (.join .a c) s =
       s.goesWith (.of .a c s.core.sa.div []) fun k => { k with sa := { k.sa with joined := true } }) ∧
     (s.core.inSup = false → exec (.trap st c imm) s = after 0x12 imm ∧ exec (.brk st c) s = after 0x13 0) ∧
     (s.core.inSup = true → exec (.trap st c imm) s = s.faults st (flt 0x12) ∧
       exec (.brk st c) s = s.faults st (flt 0x13)) ∧
     ((∀ e ∈ s.core.land, e.st = st → e.sup ≠ s.core.inSup) → (st = .a → ∀ r ∈ s.core.cp.ratoms, r.sup ≠ s.core.inSup) →
       exec (.tfence st c) s = s.goes (.of st c lat [])) ∧
     ((∃ e ∈ s.core.land, e.st = st ∧ e.sup = s.core.inSup) ∨ (st = .a ∧ ∃ r ∈ s.core.cp.ratoms, r.sup = s.core.inSup) →
       exec (.tfence st c) s = .next s) ∧
     exec (.ill st rest) s = s.faults st (flt 0x01)) ∧
  (∀ (c : Ctl) (d a : BitVec 6) (n : BitVec 16) (s : State), s.core.inSup = false →
     ∀ i ∈ [Instr.eret c, .eretImg c, .yield c, .yieldKill c, .lsave c, .lrest c, .psave c a n, .ppull c a n, .pdrop c a n,
       .pstat c d a, .tlbinv c a, .tlbinvAll c], exec i s = s.faults .a (flt 0x02))

/-- R266, R268, R269: OBPUT, OBADD and OBBAR send PUT, ADD and BAR of the job's tenant once R201's conditions hold and
their own messages are applied; each is one synchronisation operation, which ends a region (R204, R205; regions 2^19
behind are forgotten, log 15); OBADD reserves an aq place; OBBAR leaves a barrier wait, in a routine one of the
routine's own (DEDUCED, log 58), and raises BARRIER for a count outside 1 to 2^32 − 1. R301, R302: TLBINV and
TLBINV.all, privileged, send a SHOOTDOWN for the job's tenant once R201's conditions hold; it ends no region. -/
def Obligations.ErgWordsTransmit : Prop :=
  (∀ (c : Ctl) (a b : BitVec 6) (idx : BitVec 10) (s : State), s.core.clear c →
     let w : BitVec 10 := (s.core.sreg a).setWidth 10 + idx
     let n := (s.core.sreg b).toNat
     let msg (kind : BitVec 4) (arg : BitVec 42) (v : W64) : Msg :=
       { kind := kind, tenant := BitVec.ofNat 4 (s.core.csr .tenant).toNat, word := w,
         source := BitVec.ofNat 4 (s.cur / 256), arg := arg, value := v, origin := some s.cur,
         rel := some s.core.o.region, fn := none }
     let next := s.core.o.region + 1
     let sent (k : Core) : Core :=
       { k with o := { k.o with unsent := k.o.unsent + 1, region := next,
                                region0 := if next = k.o.region0 then k.o.region0 + 1 else k.o.region0,
                                rel := k.o.rel.filter fun p => (next - p.1).toNat < 2 ^ 19 } }
     let reserved (k : Core) : Core := { k with q := { k.q with dres := vset k.q.dres 6 (vget k.q.dres 6 0 + 1) } }
     let waiting (k : Core) : Core :=
       { k with o := if s.core.inSup then { k.o with sbarw := some { word := w, target := none } }
                     else { k.o with barw := some { word := w, target := none } } }
     let plan := Plan.of .a c s.core.sa.div []
     let room := (s.core.dq .aq).length + vget s.core.q.dres 6 0 < 32
     (s.core.ownApplied → s.core.mayRelease →
       exec (.obput c a b idx) s = s.sends plan (msg 0 0 (s.core.sreg b)) sent ∧
       (room → exec (.obadd c a b idx) s = s.sends plan (msg 1 0 (s.core.sreg b)) (reserved ∘ sent)) ∧
       (¬room → exec (.obadd c a b idx) s = .next s) ∧
       (1 ≤ n → n < 2 ^ 32 →
         exec (.obbar c a b idx) s = s.sends plan (msg 2 (BitVec.ofNat 42 n) 0) (waiting ∘ sent)) ∧
       (n = 0 ∨ 2 ^ 32 ≤ n → exec (.obbar c a b idx) s = s.faults .a (flt 0x11))) ∧
     (¬(s.core.ownApplied ∧ s.core.mayRelease) → exec (.obput c a b idx) s = .next s ∧
       exec (.obadd c a b idx) s = .next s ∧ exec (.obbar c a b idx) s = .next s)) ∧
  (∀ (c : Ctl) (a : BitVec 6) (s : State), s.core.clear c → s.core.inSup = true →
     let msg (arg : BitVec 42) (v : W64) : Msg :=
       { kind := 3, tenant := BitVec.ofNat 4 (s.core.csr .tenant).toNat, word := 0, source := BitVec.ofNat 4 (s.cur / 256),
         arg := arg, value := v, origin := some s.cur, rel := none, fn := none }
     let sent (k : Core) : Core := { k with o := { k.o with unsent := k.o.unsent + 1 } }
     (s.core.ownApplied → s.core.mayRelease →
       exec (.tlbinv c a) s =
         s.sends (.of .a c s.core.sa.div []) (msg 0 (s.core.sreg a &&& 0x0000FFFFFFFF0000)) sent ∧
       exec (.tlbinvAll c) s = s.sends (.of .a c s.core.sa.div []) (msg 1 0) sent) ∧
     (¬(s.core.ownApplied ∧ s.core.mayRelease) →
       exec (.tlbinv c a) s = .next s ∧ exec (.tlbinvAll c) s = .next s))

/-- R199, R268: OBGET and OBWAIT read the tenant's sync word as the log up to the applied prefix makes it, once every
own message is applied and the station is not under repair; OBWAIT waits for its condition; both acquire that prefix.
R194, R264, R268: OBSEQ reads the ESN of the applied prefix, OBSEQ.own that of the latest own message once it has one;
position n of the log has ESN n, 0 standing for none and numbering going on at 1 after 2^48 − 1; FREL and FACQ fence
the commands posted so far. -/
def Obligations.ErgWordsReadAndFence : Prop :=
  (∀ (c : Ctl) (cc : Cond) (d a b : BitVec 6) (idx : BitVec 10) (s : State), s.core.clear c →
     let w : BitVec 10 := (s.core.sreg a).setWidth 10 + idx
     let x := s.erg.wordAt s.core.o.seen (BitVec.ofNat 4 (s.core.csr .tenant).toNat) w
     let next := s.core.o.region + 1
     let reads := s.goesWith (.of .a c s.core.sa.div (s.core.sWrite d x)) fun k =>
       { k with o := { k.o with region := next, acq := max k.o.acq s.core.o.seen,
                                region0 := if next = k.o.region0 then k.o.region0 + 1 else k.o.region0,
                                rel := k.o.rel.filter fun p => (next - p.1).toNat < 2 ^ 19 } }
     let ready := s.core.ownApplied ∧ (vget s.erg.st (s.cur / 256) .reset).damaged = none
     (ready → exec (.obget c d a idx) s = reads) ∧
     (ready → condHolds cc x (s.core.sreg b) = true → exec (.obwait c cc d a b idx) s = reads) ∧
     (condHolds cc x (s.core.sreg b) = false → exec (.obwait c cc d a b idx) s = .next s) ∧
     (¬ready → exec (.obget c d a idx) s = .next s ∧ exec (.obwait c cc d a b idx) s = .next s)) ∧
  (∀ (c : Ctl) (d : BitVec 6) (s : State), s.core.clear c →
     let esn (n : Nat) : W64 := BitVec.ofNat 64 (if n = 0 then 0 else (n - 1) % (2 ^ 48 - 1) + 1)
     exec (.obseq c d) s = s.yields c d 1 (esn s.core.o.seen) ∧
     (s.core.o.unsent = 0 → exec (.obseqOwn c d) s = s.yields c d 1 (esn s.core.o.own)) ∧
     (s.core.o.unsent ≠ 0 → exec (.obseqOwn c d) s = .next s) ∧
     exec (.frel c) s = s.goesWith (.of .a c s.core.sa.div []) (fun k =>
       { k with cp := { k.cp with frel := k.cp.nextCmd, epoch := k.cp.epoch + 1 } }) ∧
     exec (.facq c) s = s.goesWith (.of .a c s.core.sa.div []) (fun k =>
       { k with cp := { k.cp with facq := k.cp.nextCmd } }))

/-- R215, R220, R222, R233: COPY and CRED wait for a command place, a group place and their own messages; their checks
raise TRANSFORM, TIMING_CLASS, LOCAL_BOUNDS and LENT in this order, untimed words raising nothing further; a timed one
translates its source's pages at issue, which leaves the reads of table entries, kept results and counts of moved
grains behind, holds the core where that cannot be done now, and raises the first translation that fails last; a word
that passes records what the rules name and posts its command, closing the group with CL. Some corners of the checks
are the model's readings (log 17; of timed words log 52). R215 to R217: a posted command joins the open group, or
opens a new one, and with a tq closes it. -/
def Obligations.CopyWordsPostCommands : Prop :=
  (∀ (c : Ctl) (hd hs : BitVec 4) (p : BitVec 6) (xf : BitVec 8) (tq : BitVec 4) (flags : BitVec 6) (aux : BitVec 8)
     (red : Bool) (s : State), s.core.clear c →
     let n := xf.toNat
     let k := s.core
     let i : Instr := if red then .cred c hd hs p xf tq flags aux else .copy c hd hs p xf tq flags aux
     let cmd (w : W64) : Cmd :=
       { id := k.cp.nextCmd, kind := if red then .cred else .copy, word := w, poff := k.sa.pc, group := 0,
         hd := k.hreg hd, hs := k.hreg hs, par := Vector.ofFn fun (j : Fin 4) => k.sreg (p + BitVec.ofNat 6 j.val),
         graph := if 0x10 ≤ n then vget k.cp.graph (n - 0x10) [] else [], region := k.o.region,
         acq := k.o.acq, xlat := k.xlat, tenant := BitVec.ofNat 4 (k.csr .tenant).toNat, seed := k.csr .seed,
         sid := (k.csr .streamid).setWidth 32, frel := k.cp.frel, facq := k.cp.facq, due := none, late := false, walks := [],
         retime := false }
     let plan := Plan.of .a c k.sa.div []
     let ready := k.ownApplied ∧ k.cp.cmds.length < 8 ∧ (k.cp.openGroup.isSome = true ∨ k.cp.groups.length < 16)
     (n = 0x0F ∨ 0x20 ≤ n → exec i s = s.faults .a (flt 0x0E)) ∧
     (n ≠ 0x0F → n < 0x20 → ¬ready → exec i s = .next s) ∧
     (n ≠ 0x0F → n < 0x20 → ready → ∃ w, encode i = some w ∧
       let x := (cmd w).args
       let ok := transformOk x n hs flags red
       let bad := (x.touches n).findSome? Touch.bad
       let lent := (x.touches n).findSome? Touch.lent
       let now := flags.getLsbD 2 && (hSpace x.hd = 0 && (hSpace x.hs = 2 || hSpace x.hs = 3) && [0, 1, 2, 3, 5, 6].contains n
         && !flags.getLsbD 1)
       let s1 := if now then s.noteTimed x n else s
       let goes := ok = true ∧ (now = true → s.timedBlocked x n k.cp.nextCmd = false)
       let fails := (s.timedPlaces x n).findSome? fun q => match q.2 with
         | .error e => some (q.1, e)
         | .ok _ => none
       (ok = false → exec i s = s.faults .a (flt 0x0E)) ∧
       (ok = true → now = true → s.timedBlocked x n k.cp.nextCmd = true → exec i s = .next s) ∧
       (flags.getLsbD 2 = true → now = false → s.timingBad x n flags = true) ∧
       (now = true → (s.timingBad x n flags = true ↔ ∃ q ∈ s.timedPlaces x n, ∃ g, q.2 = .ok g ∧ g.lc = 0)) ∧
       (goes → s.timingBad x n flags = true → exec i s = s1.faults .a (flt 0x19)) ∧
       (goes → s.timingBad x n flags = false → ∀ a, bad = some a →
         exec i s = s1.faults .a { code := 0x07, faddr := BitVec.ofInt 64 a }) ∧
       (goes → s.timingBad x n flags = false → bad = none → k.hot = false → ∀ a, lent = some a →
         exec i s = s1.faults .a { code := 0x06, faddr := BitVec.ofInt 64 a }) ∧
       (goes → flags.getLsbD 2 = false → bad = none → (k.hot = true ∨ lent = none) →
         exec i s = s.goesWith plan fun y => y.post (cmd w) (if flags.getLsbD 0 then some tq else none)) ∧
       (goes → s.timingBad x n flags = false → bad = none → (k.hot = true ∨ lent = none) →
         flags.getLsbD 2 = true → ∀ a e, fails = some (a, e) →
         exec i s = s1.faults .a { code := e, faddr := BitVec.ofInt 64 a }) ∧
       (goes → s.timingBad x n flags = false → bad = none → (k.hot = true ∨ lent = none) →
         flags.getLsbD 2 = true → fails = none →
         exec i s = s1.goesWith plan fun y => y.post
           { cmd w with due := some (s.timedDue x n), walks := s.timedWalks x n }
           (if flags.getLsbD 0 then some tq else none)) ∧
       ∃ l u, ∃ m : Fin 16 → Vector Nat 8, s.noteTimed x n = { s with
         cache := l, tlb := s.tlb ++ u, ten := Vector.ofFn fun j : Fin 16 => { s.ten[j] with moved := m j } })) ∧
  (∀ (k : Core) (cmd : Cmd) (close : Option (BitVec 4)),
     let t := k.post cmd close
     let shut (g : Group) : Group := match close with
       | some q => { g with closed := true, tq := q }
       | none => g
     (∀ g, k.cp.openGroup = some g → g.closed = false ∧
       t.cp.cmds = k.cp.cmds ++ [{ cmd with group := g.id }] ∧ t.cp.nextGroup = k.cp.nextGroup ∧
       t.cp.groups = k.cp.groups.filter (fun x => x.id ≠ g.id) ++ [shut g]) ∧
     (k.cp.openGroup = none → (∀ x ∈ k.cp.groups, x.closed = true) ∧
       t.cp.cmds = k.cp.cmds ++ [{ cmd with group := k.cp.nextGroup }] ∧ t.cp.nextGroup = k.cp.nextGroup + 1 ∧
       t.cp.groups = k.cp.groups.filter (fun x => x.id ≠ k.cp.nextGroup) ++ [shut
         { id := k.cp.nextGroup, tq := 0, closed := false, fail := none,
           after := if cmd.kind = .close then some cmd.id else none, fp := 0 }]) ∧
     t.cp.nextCmd = k.cp.nextCmd + 1 ∧
     t = { k with cp := { k.cp with cmds := t.cp.cmds, groups := t.cp.groups, nextCmd := t.cp.nextCmd,
                                    nextGroup := t.cp.nextGroup } })

/-- R216, R237 to R239: what CATOM and CCLOSE do for every operand: CATOM raises TRANSFORM for a handle with reserved
bits or a reserved LAYOUT (R85; DEDUCED, log 17), a space outside 2 to 4, an unaligned operand, or an operation that
host memory does not take; it waits for an aq place too, and otherwise completes: it reserves the place and posts its
command; ACQ fences what follows. CCLOSE completes once a command place and a group place are free: it posts a close.
R240, R241: CWAIT n waits while more than n groups are outstanding; after that it raises the status of the
earliest-posted failing group that was never observed, whatever n is, and consumes it (that it waits first is the
model's reading, log 75); with none, it completes. CPEND completes with the count of groups, CPEND.cmd with that of
unstarted commands. R242, R243, R247: XCFG waits while an unstarted command names its slot; it raises LOCAL_BOUNDS for
an image that is unaligned, begins outside 0x00_0000–0x1F_FFFF or goes on beyond it, then LENT outside hot class for
one with a shade byte: one whose header lies in a shade window, where the header's words fit, or one that reaches
across 0x10_0000 (FADDR and the header that cannot be read: log 17); then TRANSFORM for the first word of an image
that breaks R244 to R247; otherwise it completes, one engine tick later also for an image in a shade window (log 43),
and loads header and nodes. ABS and NEG take the types of VABS and VNEG alone (log 17). -/
def Obligations.CommandGroupsAndGraphs : Prop :=
  (∀ (c : Ctl) (op : AtomOp) (w64 acq : Bool) (h tq : BitVec 4) (a b cx : BitVec 6) (s : State), s.core.clear c →
     let k := s.core
     let hv := k.hreg h
     let sp := hSpace hv
     let addr := (hAddr hv + (k.sreg a).toNat) % 2 ^ 48
     let bad := hv.toNat / 2 ^ 48 % 2 ^ 12 ≠ 0 ∨ hv.toNat / 2 ^ 240 ≠ 0 ∨ 2 < hLayout hv ∨ sp < 2 ∨ 4 < sp ∨ addr % (if w64 then 8 else 4) ≠ 0 ∨ (sp = 3 ∧ op ≠ .swap ∧ op ≠ .add ∧ op ≠ .cas)
     let plan := Plan.of .a c k.sa.div []
     let ready := k.ownApplied ∧ k.cp.cmds.length < 8 ∧ (k.cp.openGroup.isSome = true ∨ k.cp.groups.length < 16)
     let room := (k.dq .aq).length + vget k.q.dres 6 0 < 32
     let i : Instr := .catom c op w64 acq h a b cx
     (¬(ready ∧ room) → exec i s = .next s) ∧
     (ready → room → bad → exec i s = s.faults .a (flt 0x0E)) ∧
     (ready → room → ¬bad → exec i s = s.goesWith plan fun y =>
       let y1 := y.post { k.newCmd .catom i with hd := hv, par := #v[k.sreg a, k.sreg b, k.sreg cx, BitVec.ofNat 64 (hAddr hv)] } none
       let y2 := { y1 with q := { y1.q with dres := vset y1.q.dres 6 (vget y1.q.dres 6 0 + 1) } }
       if acq then { y2 with cp := { y2.cp with facq := y2.cp.nextCmd } } else y2) ∧
     (¬ready → exec (.cclose c tq) s = .next s) ∧
     (ready → exec (.cclose c tq) s = s.goesWith plan fun y => y.post (k.newCmd .close (.cclose c tq)) (some tq))) ∧
  (∀ (c : Ctl) (d : BitVec 6) (n : BitVec 28) (s : State), s.core.clear c →
     (s.core.cp.unobs = [] → s.core.cp.groups.length ≤ n.toNat →
       exec (.cwait c n) s = s.goes (.of .a c s.core.sa.div [])) ∧
     (n.toNat < s.core.cp.groups.length → exec (.cwait c n) s = .next s) ∧
     (s.core.cp.groups.length ≤ n.toNat → ∀ x rest, s.core.cp.unobs = x :: rest → exec (.cwait c n) s = .next (s.onCore fun k =>
       let y := k.raise .a { code := x.2.status, faddr := x.2.faddr, status := x.2.status, poff := x.2.poff }
       { y with cp := { y.cp with unobs := rest } })) ∧
     exec (.cpend c d) s = s.yields c d 1 (BitVec.ofNat 64 s.core.cp.groups.length) ∧
     exec (.cpendCmd c d) s = s.yields c d 1 (BitVec.ofNat 64 s.core.cp.cmds.length)) ∧
  (∀ (c : Ctl) (n : BitVec 4) (a : BitVec 6) (s : State), s.core.clear c →
     let k := s.core
     let ad := (k.sreg a).toNat
     let nn := s.getLe ad 8 / 2 ^ 60 % 16
     let len := 8 * (nn + 2)
     let img := (List.range (nn + 2)).map fun j => BitVec.ofNat 64 (s.getLe (ad + 8 * j) 8)
     let named := ∃ x ∈ k.cp.cmds, (x.kind = .copy ∨ x.kind = .cred) ∧ x.xf = 0x10 + n.toNat
     let reach := ad % 8 = 0 ∧ ad + len ≤ 0x200000 ∧ (k.hot = true ∨ ad + len ≤ 0x100000)
     (named → exec (.xcfg c n a) s = .next s) ∧
     (¬named → ad % 8 ≠ 0 ∨ 0x200000 ≤ ad → exec (.xcfg c n a) s = s.faults .a (flt 0x07 ad)) ∧
     (¬named → ad % 8 = 0 → ad < 0x200000 → 0x200000 < ad + 16 ∨ k.hot = true ∧ 0x200000 < ad + len →
       exec (.xcfg c n a) s = s.faults .a (flt 0x07 0x200000)) ∧
     (¬named → ad % 8 = 0 → ad + 16 ≤ 0x200000 → k.hot = false → 0x100000 ≤ ad →
       exec (.xcfg c n a) s = s.faults .a (flt 0x06 ad)) ∧
     (¬named → ad % 8 = 0 → ad < 0x100000 → k.hot = false → 0x100000 < ad + len →
       exec (.xcfg c n a) s = s.faults .a (flt 0x06 0x100000)) ∧
     (¬named → reach → ∀ j, graphBad img = some j →
       exec (.xcfg c n a) s = s.faults .a (flt 0x0E (ad + 8 * j))) ∧
     (¬named → reach → graphBad img = none → exec (.xcfg c n a) s =
       s.goesWith (.of .a c k.sa.div []) fun y =>
         { y with cp := { y.cp with graph := vset y.cp.graph n.toNat img } }) ∧
     ∀ g : List W64,
       let w (j : Nat) : Nat := (g.getD j 0).toNat
       let nn := w 0 / 2 ^ 60
       let out := w 0 / 2 ^ 56 % 16
       let rn := w 0 / 2 ^ 51 % 16
       let op (j : Nat) := w (j + 1) / 2 ^ 58
       let in0 (j : Nat) := w (j + 1) / 2 ^ 53 % 32
       let in1 (j : Nat) := w (j + 1) / 2 ^ 48 % 32
       let in2 (j : Nat) := w (j + 1) / 2 ^ 43 % 32
       let type (j : Nat) := w (j + 1) / 2 ^ 40 % 8
       let aux (j : Nat) := w (j + 1) / 2 ^ 32 % 256
       let imm (j : Nat) := w (j + 1) % 2 ^ 32
       let packed (j : Nat) : Prop := op j ∈ [20, 22, 24, 25]
       let element (j : Nat) : Prop := op j ≤ 26 ∧ ¬packed j
       let lane (j code : Nat) : Prop := code < j ∧ element code ∨ 16 ≤ code ∧ code ≤ 21
       let residual := ∃ j, j + 1 < g.length ∧ (in0 j = 17 ∨ in1 j = 17 ∨ in2 j = 17)
       let header := w 0 % 2 ^ 51 = 0 ∧ out ≤ nn ∧ (if w 0 / 2 ^ 55 % 2 = 1 then rn ≤ nn ∧ element rn else rn = 0)
       let inputs (j : Nat) : Prop :=
         if op j ∈ [18, 21, 25] then j = 0 ∧ in0 j = 16 ∧ in1 j = 31 ∧ in2 j = 31
         else if op j = 24 then in0 j < j ∧ op (in0 j) = 20 ∧ in1 j = 31 ∧ in2 j = 31
         else lane j (in0 j) ∧
           (if op j = 23 then in1 j < j ∧ packed (in1 j) ∧ in2 j = 31
            else if op j ∈ [4, 11, 12] then (in1 j = 31 ∨ lane j (in1 j)) ∧ lane j (in2 j)
            else if op j ∈ [1, 2, 3, 5, 6, 13, 14, 15, 16, 17] then (in1 j = 31 ∨ lane j (in1 j)) ∧ in2 j = 31
            else in1 j = 31 ∧ in2 j = 31)
       let consts (j : Nat) : Prop :=
         if op j = 9 then aux j % 16 ≤ 10 ∧ aux j / 16 % 8 ≤ 4 ∧ (aux j / 16 % 8 = 4 ∨ imm j = 0)
         else if op j = 10 then aux j = 0 ∧ imm j < 0xFF00
         else if op j = 12 then aux j < 4
         else if op j = 19 then 1 ≤ aux j ∧ aux j ≤ 3 ∧ imm j = 0
         else if op j = 20 then aux j % 16 ≠ 0 ∧ aux j / 32 % 4 ≠ 3 ∧ aux j < 128
         else if op j = 22 then 1 ≤ aux j ∧ imm j = 0
         else aux j = 0 ∧ (imm j = 0 ∨ op j ∈ [1, 2, 3, 4, 5, 6, 11, 13, 14, 15, 16, 17] ∧ in1 j = 31)
       let types (j : Nat) : Prop := type j ≤ 2 ∧ (op j ∈ [10, 19, 20, 22, 26] → type j = 0) ∧
         (op j ∈ [13, 14, 15, 16, 17] → type j ≠ 0) ∧ (op j ∈ [7, 8] → type j ≠ 2)
       let node (j : Nat) : Prop := op j ≤ 26 ∧ inputs j ∧ consts j ∧ types j ∧ (op j = 26 → j = out) ∧
         (residual → in0 j ≠ 21 ∧ in1 j ≠ 21 ∧ in2 j ≠ 21)
       g.length = nn + 2 → (graphBad g = none ↔ header ∧ ∀ j ≤ nn, node j) ∧
         (graphBad g = some 0 ↔ ¬header) ∧
         ∀ j ≤ nn, graphBad g = some (j + 1) ↔ header ∧ ¬node j ∧ ∀ i < j, node i)

/-- R330, R349: the CSRs that user mode may read and may write; a word that reads one delivers its value at issue, a
word that changes one lands the change, and any other access in user mode raises PRIVILEGED. That the old value is the
landing tick's is the model's reading (log 39). R349, R6: on its landing tick a CSR word writes s[a], old OR s[a], or
old AND NOT s[a], but for reserved bits, into the CSRs a CSR word changes, and into no other; the old value goes to
its scalar; nothing else of the registers changes; that SLICE was written on this tick is noted for the tick's end
(R314). -/
def Obligations.CsrWordsReadAndChange : Prop :=
  (∀ (c : Ctl) (d a : BitVec 6) (n : Csr) (s : State), s.core.clear c →
     let res := if d = 0 then none
       else if s.core.inSup = true ∧ 56 ≤ d.toNat then some (true, d.toNat - 56) else some (false, d.toNat)
     let lands (op : CsrOp) := s.goes (.of .a c s.core.sa.div [.csr n op (s.core.sreg a) res])
     let mayRead := s.core.inSup = true ∨ n ∈ ([.seed, .streamid, .cls, .divs, .throttle, .tick, .issued, .slice, .breach,
       .satflags, .fpflags, .tenant, .jobidx] : List Csr)
     let mayWrite := s.core.inSup = true ∨ n = .satflags ∨ n = .fpflags
     let trap := s.faults .a (flt 0x02)
     (mayRead → exec (.csrr c d n) s = s.yields c d 1 (s.core.csr n)) ∧
     (¬mayRead → exec (.csrr c d n) s = trap) ∧
     (mayWrite → exec (.csrw c d a n) s = lands .write ∧ exec (.csrs c d a n) s = lands .set ∧
       exec (.csrc c d a n) s = lands .clear) ∧
     (¬mayWrite → exec (.csrw c d a n) s = trap ∧ exec (.csrs c d a n) s = trap ∧ exec (.csrc c d a n) s = trap)) ∧
  (∀ (k : Core) (n : Csr) (op : CsrOp) (v : W64) (res : Option (Bool × Nat)),
     let t := k.landCsr n op v res
     let fixed := n ∈ ([.status, .cause, .faddr, .finfo, .seed, .streamid, .cls, .divs, .throttle, .tenant, .jobidx] : List Csr)
     (∀ i < 64, (t.csr n).getLsbD i = if fixed then (k.csr n).getLsbD i
       else n.mask.getLsbD i && match op with
         | .write => v.getLsbD i
         | .set => (k.csr n).getLsbD i || v.getLsbD i
         | .clear => (k.csr n).getLsbD i && !v.getLsbD i) ∧
     (∀ m, m ≠ n → t.csr m = k.csr m) ∧
     (∀ j, j < 64 → vget t.r.s j 0 = if res = some (false, j) ∧ j ≠ 0 then k.csr n else vget k.r.s j 0) ∧
     (∀ j, j < 8 → vget t.r.sh j 0 = if res = some (true, j) then k.csr n else vget k.r.sh j 0) ∧
     t = { k with r := { k.r with csr := t.r.csr, s := t.r.s, sh := t.r.sh }, t := { k.t with sliced := t.t.sliced } } ∧
     (t.t.sliced = true ↔ n = .slice ∨ k.t.sliced = true))

/-- R335, R346: in supervisor mode ERET waits until every result of the routine has landed, its remote ATOMs among
them, and returns, its signal landing on the job's ticks; ERET.img first puts the image named by IMGDESC in the
context's place. That ERET.img waits for what a save waits for (started commands, groups about to complete, own
messages, replies of OBADD) is the model's choice (DEDUCED, log 20); it waits too for a link in key hold on the way to
the image (R362). R346: returning clears SUP and lets the streams go on at EPCA, EPCM and EPCV, those with JOINED set
staying joined; M and V from the next tick on, A at the distance from its boundary at which it stopped; nothing else
of the CSRs and no register changes. -/
def Obligations.ReturnsFromSupervisorMode : Prop :=
  (∀ (c : Ctl) (s : State), s.core.clear c → s.core.inSup = true →
     let landed := (∀ e ∈ s.core.land, e.sup = false) ∧ ∀ r ∈ s.core.cp.ratoms, r.sup = false
     let k := s.core.issued { Plan.of .a c 1 [] with noEntry := true }
     let s1 : State := { s with core := k }
     let signal (k : Core) : List Land := if c.sq = 0 then [] else
       [{ st := .a, rem := k.sa.div, age := 0, sq := c.sq, sn := c.sn, fp := 0, sat := 0, sup := false, fmt := 0,
          acts := [] }]
     let leaves (k : Core) : Core := { k.returnTrap with land := k.returnTrap.land ++ signal k }
     (landed → exec (.eret c) s = .next { s with core := leaves k }) ∧
     (¬landed → exec (.eret c) s = .next s) ∧
     (s.saveWaits = true ∨ s.loadHeld = true → exec (.eretImg c) s = .next s) ∧
     (s.saveWaits = false → s.loadHeld = false → s.core.imgValid = false ∨ s.loadImage = none →
       exec (.eretImg c) s = s.faults .a (flt 0x17)) ∧
     (s.saveWaits = false → s.loadHeld = false → s.core.imgValid = true → s.loadImage.isSome = true →
       ∀ t, s1.freezeDrains.loadImage = some t → exec (.eretImg c) s = .next { t with core := leaves t.core })) ∧
  (∀ (k : Core),
     let t := k.returnTrap
     let at' (y : Stream) (n : Csr) := y.pc.toNat = (k.csr n).toNat % 2 ^ 17 ∧ y.joined = (k.csr n).getLsbD 17 ∧ y.word = none
     t.inSup = false ∧ at' t.sa .epca ∧ at' t.sm .epcm ∧ at' t.sv .epcv ∧ t.t.ret = true ∧
     t.sa.bound = k.t.saved.1 ∧ t.sa.hold = k.t.saved.2.1 ∧ t.sa.stalled = k.t.saved.2.2 ∧
     (∀ n, n ≠ .status → t.csr n = k.csr n) ∧ (∀ i < 64, i ≠ 0 → (t.csr .status).getLsbD i = (k.csr .status).getLsbD i) ∧
     t.r = { k.r with csr := t.r.csr } ∧ t.land = k.land ∧ t.q = k.q ∧ t.cp = k.cp ∧ t.o = k.o ∧ t.job = k.job)

/-- R339: LSAVE writes the landing list of the job's streams to the image's landing area and leaves it empty, a failed
write ending the job; LREST replaces the list with the area's, one that it cannot read being a supervisor fault, as is
a missing image; both wait for a write of IMGDESC in flight, and for a link in key hold (R362). R340: the head of a
landing area and its entries, by their kinds; an area that reads as the bytes of a list gives back its entries, in the
order in which they land (R336). How a register's result is coded is the model's reading (log 38). R345, R368: YIELD
waits for what a save waits for; without a named image it is a supervisor fault, YIELD.kill discards; otherwise both
write the landing area, then the command records, the header but for its IDENT, and IDENT last, which waits for the
drains of the blocks that the save made outgoing; and the core is released, the tenant hearing of a kill; where a
write of the save fails, those before it stay and the job ends as a kill ends it. A cluster's clock change that waits
for a job boundary begins its hold (R321). What a save waits for, and that a kill saves nothing without an image, are
the model's readings (log 20, log 21). R346, R347: what a restore takes from a header is what a save has put there:
the CSRs, but for IMGDESC and THROTTLE, the entries of the queues, the tokens of the FIFOs, the rings, the barrier
cells and the groups; a restored context has these, the landing list of its area, and no block present. -/
def Obligations.ContextsAreSavedAndReleased : Prop :=
  (∀ (c : Ctl) (s : State), s.core.clear c → s.core.inSup = true →
     let hdr := (s.core.csr .imgdesc &&& 0x0000FFFFFFFFFFC0).toNat
     let s1 := (s.onCore fun k => k.issued (.of .a c s.core.sa.div [])).usedAreas hdr
     let ctx := s.coreCtx s.cur
     let own := (s.core.land.filter fun e => !e.sup).map fun e => { e with acts := e.acts.map LAct.viewStores }
     let bytes := areaBytes own
     let empties (t : State) : State := t.onCore fun k => { k with land := k.land.filter (·.sup) }
     let x (la i : Nat) := s.grainOf ctx .write 2 0 ((la + i) / 64) none
     (s.core.imgWaits = true → exec (.lsave c) s = .next s ∧ exec (.lrest c) s = .next s) ∧
     (s.core.imgWaits = false → s.core.imgValid = false →
       exec (.lsave c) s = s.faults .a (flt 0x17) ∧ exec (.lrest c) s = s.faults .a (flt 0x17)) ∧
     (s.core.imgWaits = false → s.core.imgValid = true →
       (s.landHeld hdr = true → exec (.lsave c) s = .next s) ∧ (s.lrestHeld hdr = true → exec (.lrest c) s = .next s) ∧
       (s.landHeld hdr = false →
         (s.imgAreas hdr = none → exec (.lsave c) s = .next (s1.killHere 0x17 0)) ∧
         ∀ lt la ca, s.imgAreas hdr = some (lt, la, ca) →
           (∀ t, s1.placeWrite ctx 2 0 la bytes = .ok t →
             exec (.lsave c) s = .next (empties t) ∧ ∀ e ∈ (empties t).core.land, e.sup = true) ∧
           (∀ e, s1.placeWrite ctx 2 0 la bytes = .error e → exec (.lsave c) s = .next (s1.killHere 0x17 0)) ∧
           (s.Inv → (∀ i < bytes.length, ctx.inHeap (la + i) = true ∧ (x la i).home = .dev ∧ (x la i).stat.all (· = 0) = true) →
             (∀ i < bytes.length, ∀ j < bytes.length, (x la i).num = (x la j).num → (la + i) / 64 = (la + j) / 64) →
             ∃ t, exec (.lsave c) s = .next t ∧ (∀ e ∈ t.core.land, e.sup = true) ∧
               ∀ i < bytes.length, t.mem.get (64 * (x la i).num + (la + i) % 64) = bytes.getD i 0)) ∧
       (s.lrestHeld hdr = false →
         (∀ lt la ca l, s.imgAreas hdr = some (lt, la, ca) → s.readArea ctx la = some l →
           exec (.lrest c) s = .next ((s1.usedArea ctx la).onCore fun k => { k with land := k.land.filter (·.sup) ++ l })) ∧
         (s.imgAreas hdr = none ∨ (∃ lt la ca, s.imgAreas hdr = some (lt, la, ca) ∧ s.readArea ctx la = none) →
           exec (.lrest c) s = s.faults .a (flt 0x17))))) ∧
  (∀ (e : Land) (l : List Land),
     let of' (st : StreamId) := l.filter fun e => e.st = st
     let num (st : StreamId) : Nat := match st with
       | .a => 0
       | .m => 1
       | .v => 2
     let coded (kind dest qid : Nat) (fmt : W64) (rows pitch : Nat) (data : List Byte) : Prop := e.bytes =
       leBytes 8 (num e.st * 2 ^ 62 + kind * 2 ^ 58 + e.rem * 2 ^ 42 + data.length * 2 ^ 22 + dest)
         ++ leBytes 8 (e.age % 2 ^ 32 * 2 ^ 32 + e.sat.toNat * 2 ^ 21 + e.fp.toNat * 2 ^ 16 + qid * 2 ^ 8 + e.sn.toNat * 16
           + e.sq.toNat)
         ++ leBytes 8 (if fmt = 0 then e.fmt else fmt).toNat ++ leBytes 8 (rows * 2 ^ 20 + pitch)
         ++ data ++ List.replicate ((32 - data.length % 32) % 32) 0
     let reg (dest n x : Nat) := coded 0 dest 0 0 1 0 (leBytes n x)
     let item (a size mask x : Nat) : List Byte := leBytes 8 (a + size * 2 ^ 22 + mask * 2 ^ 24 + x * 2 ^ 32)
     let kept (e : Land) : Prop := e.sup = false ∧ 1 ≤ e.rem ∧ e.rem < 2 ^ 16 ∧ e.age < 2 ^ 32 ∧ e.sq.toNat ≤ 9 ∧
       match e.acts with
       | [.write d r p data] => d < 2 ^ 22 ∧ 1 ≤ r ∧ r ≤ 255 ∧ p < 2 ^ 20 ∧ data.length < 2 ^ 20
       | [.mma d f t u] => e.fmt = f ∧ d < 2 ^ 22 ∧ t.length = 260 * fmtM f.toNat ∧ u.length < 2 ^ 19
       | [.zpc d f z] => e.fmt = f ∧ d < 2 ^ 22 ∧ z.length < 2 ^ 16
       | [.sum d f z] => e.fmt = f ∧ d < 2 ^ 22 ∧ z.length < 2 ^ 16
       | [.queue _ _] => True
       | [.msatc d] => d < 2 ^ 22
       | [.azero d f] => e.fmt = f ∧ d < 2 ^ 22
       | [.zstate d data] => d < 2 ^ 22 ∧ data.length < 2 ^ 20
       | [.csr _ _ _ none] => True
       | _ => False
     areaBytes l = [BitVec.ofNat 8 (of' .a).length, BitVec.ofNat 8 (of' .m).length, BitVec.ofNat 8 (of' .v).length]
       ++ List.replicate 61 0 ++ (of' .a ++ of' .m ++ of' .v).flatMap Land.bytes ∧
     (∀ a, e.acts = [a] → match a with
       | .write d r p data => 1 ≤ r → r ≤ 255 → coded 0 d 0 0 r p data
       | .scalar n x => reg (0x302000 + 8 * n) 8 x.toNat
       | .handle n x => reg (0x302200 + 32 * n) 32 x.toNat
       | .mreg n x => reg (0x301C00 + 4 * n) 4 x.toNat
       | .xreg n x => reg (0x301800 + 8 * n) 8 x.toNat
       | .lanes n m z => if m = BitVec.allOnes 64
           then coded 0 (0x300000 + 256 * n) 0 0 1 0 ((List.range 64).flatMap fun i => leBytes 4 (z.getD i 0).toNat)
           else coded 7 0 0 0 0 0 ((List.range 64).flatMap fun i =>
             if m.getLsbD i then item (0x300000 + 256 * n + 4 * i) 2 0 (z.getD i 0).toNat else [])
       | .kbits n none x => reg (0x301880 + 8 * n) 8 x.toNat
       | .kbits n (some m) x => coded 7 0 0 0 0 0 ((List.range 8).flatMap fun i =>
           let mi := m.toNat / 2 ^ (8 * i) % 256
           if mi = 0 then [] else item (0x301880 + 8 * n + i) 3 mi (x.toNat / 2 ^ (8 * i) % 256))
       | .pred n b => n < 8 → coded 7 0 0 0 0 0 (item 0x302400 3 (2 ^ n) (if b then 255 else 0))
       | .mma d f t u => coded 1 d 0 f 0 0 (t ++ u)
       | .zpc d f z => coded 2 d 0 f 0 0 (z.flatMap fun x => leBytes 8 x.toNat)
       | .sum d f z => coded 3 d 0 f 0 0 (z.flatMap fun x => leBytes 4 x.toNat)
       | .queue q x => coded 4 0 q.no 0 0 0 (leBytes 8 x.toNat)
       | .msatc d => coded 5 d 0 0 0 0 []
       | .azero d f => coded 6 d 0 f 0 0 []
       | .atom w _ _ d x y => coded 8 d 0 0 0 0 (leBytes 8 w.toNat ++ leBytes 8 d ++ leBytes 8 x.toNat ++ leBytes 8 y.toNat)
       | .zstate d data => coded 9 d 0 0 0 0 data
       | .csr q op x res => coded 10 ((res.map fun r => 0x302000 + 8 * r.2).getD 0) 0 0 0 0 (leBytes 8 x.toNat
           ++ leBytes 8 (q.code + (match op with
             | .write => 0
             | .set => 1
             | .clear => 2) * 2 ^ 12 + if res.isSome then 2 ^ 14 else 0))
       | _ => True) ∧
     ∀ (s : State) (c : Ctx) (a : Nat),
       (∀ i n, i + n ≤ (areaBytes l).length → s.placeRead c 2 0 (a + i) n = .ok (((areaBytes l).drop i).take n)) →
       (of' .a).length ≤ 32 → (of' .m).length ≤ 64 → (of' .v).length ≤ 32 → (∀ e ∈ l, kept e) →
       ∃ l', s.readArea c a = some l' ∧ l'.Perm l ∧
         l'.Pairwise (fun x y => y.age < x.age ∨ x.age = y.age ∧ num x.st ≤ num y.st) ∧
         ∀ n st, l'.filter (fun e => e.age = n && e.st = st) = l.filter (fun e => e.age = n && e.st = st)) ∧
  (∀ (c : Ctl) (s : State), s.core.clear c → s.core.inSup = true →
     let hdr := (s.core.csr .imgdesc &&& 0x0000FFFFFFFFFFC0).toNat
     let s0 := s.onCore fun k => k.issued { Plan.of .a c 1 [] with noEntry := true }
     let s1 := s0.usedAreas hdr
     let ctx := s.coreCtx s.cur
     let n := s.cur / 256
     let own := (s.core.land.filter fun e => !e.sup).map fun e => { e with acts := e.acts.map LAct.viewStores }
     let tell (t : State) := t.killEvent t.cur ((s.core.csr .cause).setWidth 8) (s.core.csr .faddr)
     let released (t : State) (killed : Bool) : State := t.onCore fun k => k.release killed
     let waits := s.saveWaits = true ∨ s.core.imgValid = true ∧ s.saveHeld hdr = true
     let saved (t : State) := exec (.yield c) s = .next ((released t false).jobLeft n) ∧
       exec (.yieldKill c) s = .next ((released (tell t) true).jobBoundary n)
     let lost (t : State) := exec (.yield c) s = .next (t.killHere 0x17 0) ∧ exec (.yieldKill c) s = .next (t.killHere 0x17 0)
     let put (t : State) (a : Nat) (bs : List Byte) := t.placeWrite ctx 2 0 a bs
     (waits → exec (.yield c) s = .next s ∧ exec (.yieldKill c) s = .next s) ∧
     (¬waits → s.core.imgValid = false → exec (.yield c) s = s.faults .a (flt 0x17) ∧
       exec (.yieldKill c) s = .next ((released (tell s0).freezeDrains true).jobBoundary n)) ∧
     (¬waits → s.core.imgValid = true → s.imgAreas hdr = none → lost s1) ∧
     (¬waits → s.core.imgValid = true → ∀ lt la ca, s.imgAreas hdr = some (lt, la, ca) →
       let landing : Except (BitVec 8) State := if own = [] then .ok s1 else (put s1 la (areaBytes own)).map fun t =>
         t.onCore fun k => { k with land := k.land.filter (·.sup) }
       (∀ e, landing = .error e → lost s1) ∧
       ∀ a, landing = .ok a →
         let k := a.core
         let records := put a ca (k.cp.cmds.flatMap (Cmd.bytes k.cp.groups))
         (∀ e, records = .error e → lost a) ∧
         ∀ b, records = .ok b →
           let header := put b (hdr + 8) ((k.header lt la ca k.cp.cmds.length).drop 8)
           (∀ e, header = .error e → lost b) ∧
           ∀ d, header = .ok d →
             let ident := put d.freezeDrains hdr (leBytes 8 k.ident.toNat)
             (k.outgoing = [] → ∀ t, ident = .ok t → saved t) ∧
             (k.outgoing ≠ [] → saved ((d.freezeDrainsFor (some k.t.saves)).onCore fun y => { y with t := { y.t with
               idents := y.t.idents ++ [{ no := k.t.saves, img := BitVec.ofNat 64 hdr, blocks := k.outgoing, word := k.ident,
                                          xlat := ctx.xlat, tenant := ctx.tenant }],
               saves := k.t.saves + 1 } })))) ∧
  (∀ (k : Core) (lt la ca n : Nat) (ident : W64) (ids : List Nat) (old : Vector W64 37),
     (∀ q : BitVec 4, (k.tokens q).length ≤ 64) → (∀ q : DqId, (k.dq q).length ≤ q.depth) → k.cp.groups.length ≤ 16 →
     let hd := leBytes 8 ident.toNat ++ (k.header lt la ca n).drop 8
     let q := loadQueues hd
     let group (g : Group) := (g.tq, g.closed, g.fail.map fun f => f.2.status)
     (∀ n : Csr, n ≠ .imgdesc → n ≠ .throttle → vget (loadCsrs old hd) n.slot 0 = k.csr n &&& n.mask) ∧
     (∀ i : DqId, (vget q.dq i.no []).map (·.val) = (k.dq i).map (·.val)) ∧
     (vget q.dq 6 []).map (·.status) = (k.dq .aq).map (·.status) ∧
     (∀ i : BitVec 4, 1 ≤ i.toNat → i.toNat ≤ 9 → (vget q.fifo i.toNat []).length = (k.tokens i).length ∧
       (7 ≤ i.toNat → (vget q.fifo i.toNat []).map (·.status) = (k.tokens i).map (·.status))) ∧
     q.ring = k.q.ring ∧ q.bar = k.q.bar ∧
     ((∀ g ∈ k.cp.groups, g.fail.map (fun f => f.2.status) ≠ some 0) → (loadGroups hd ids).map group = k.cp.groups.map group) ∧
     ∀ (s t : State) (h : Nat), s.core.img = some h → s.placeRead (s.coreCtx s.cur) 2 0 h 0x2000 = .ok hd →
       s.loadImage = some t →
       t.core.r.csr = loadCsrs s.core.r.csr hd ∧ t.core.q.dq = q.dq ∧ t.core.q.fifo = q.fifo ∧ t.core.q.ring = q.ring ∧
       t.core.q.bar = q.bar ∧ (∀ b < 295, t.core.presOf b = .absent) ∧
       ∃ l, s.readArea (s.coreCtx s.cur) (64 * (le64 hd 0x10 / 2 ^ 6 % 2 ^ 42)) = some l ∧
         t.core.land = s.core.land.filter (·.sup) ++ l)

/-- R343: PSAVE, PPULL and PDROP act at issue on each block of their range that exists, whatever its presence, once
the blocks of the registers that they read are present; PSAVE and PPULL wait for a write of IMGDESC in flight and for
a link in key hold on the way to the location table (R362), PSAVE also where it is to set PSN there; PSTAT reports a
block's state, and that its storage still drains. R343: what PSAVE does to one block: a present one becomes outgoing
and drains to its location; a poisoned one becomes absent and PSN is set in its location entry, the image being
damaged where that cannot be. -/
def Obligations.PresenceWordsActOnTheirRange : Prop :=
  (∀ (c : Ctl) (d a : BitVec 6) (n : BitVec 16) (s : State), s.core.ready c → s.core.inSup = true →
     (∀ r ∈ s.core.sRange a ++ s.core.sRange d, ∀ x ∈ blocksIn r.1 r.2, s.core.presOf x = .present) →
     let b := (s.core.sreg a).toNat
     let real (x : Nat) := x < 295 ∨ 320 ≤ x ∧ x < 404
     let blocks := ((List.range n.toNat).map (b + ·)).filter fun x => decide (real x)
     let s1 := s.onCore fun k => k.issued (.of .a c s.core.sa.div [])
     let waits (bars : Nat → Bool) := s.core.imgWaits = true ∨ s.core.imgValid = true ∧ ∃ x ∈ blocks, bars x = true
     let saveWaits := waits s.psaveHeld
     let pullWaits := waits (s.entryHeld s.cur)
     let code (p : Pres) : Nat := match p with
       | .present => 0
       | .absent => 1
       | .outgoing => 2
       | .poisoned => 3
     (∃ t, exec (.pdrop c a n) s = .next t ∧ t = { s1 with core := { s1.core with r := { s1.core.r with pres := t.core.r.pres } } } ∧
       ∀ x, t.core.presOf x = if x ∈ blocks ∧ (s.core.presOf x = .present ∨ s.core.presOf x = .poisoned) then .absent
         else s.core.presOf x) ∧
     exec (.pstat c d a) s = s.yields c d 1 (BitVec.ofNat 64
       (if real b then code (s.core.presOf b) + (if s.draining s.cur b then 4 else 0) else 7)) ∧
     (b < 295 → (∃ e ∈ s.core.t.drains, e.block = b ∧ e.bytes ≠ none) → s.draining s.cur b = true) ∧
     ((∀ p ∈ (s.cur, s.core) :: s.parked, ∀ e ∈ p.2.t.drains, e.bytes = none) → s.draining s.cur b = false) ∧
     (saveWaits → exec (.psave c a n) s = .next s) ∧ (pullWaits → exec (.ppull c a n) s = .next s) ∧
     (∀ x, s.psaveHeld x = true ↔ s.entryHeld s.cur x = true ∨ s.core.presOf x = .poisoned ∧
       ∃ e a, s.locEntry s.cur x = some (e, a) ∧ s.writeHeld (s.coreCtx s.cur) 2 0 a 8 = true) ∧
     (¬saveWaits → s.core.imgValid = false → exec (.psave c a n) s = s.faults .a (flt 0x17)) ∧
     (¬pullWaits → s.core.imgValid = false → exec (.ppull c a n) s = s.faults .a (flt 0x17)) ∧
     (¬saveWaits → s.core.imgValid = true → exec (.psave c a n) s = .next (blocks.foldl State.psave s1)) ∧
     (¬pullWaits → s.core.imgValid = true →
       ∃ t m, exec (.ppull c a n) s = .next { s1 with cache := t, ten := m, core := { s1.core with t := { s1.core.t with
         bg := s1.core.t.bg ++ (blocks.filter fun x => s.core.presOf x = .absent).map fun x =>
           (x, (s.locEntry s.cur x).map (·.1)) } } } ∧
         ∀ i < 16, ∃ k, vget m i .reset = { vget s.ten i .reset with moved := k })) ∧
  (∀ (s : State) (b : Nat),
     let ctx := s.coreCtx s.cur
     let u := s.usedEntry s.cur b
     let lost (t : State) : State := t.onCore fun k => k.setPres b .absent
     let harmed := lost (u.onCore fun k => { k with t := { k.t with damaged := true } })
     (s.core.presOf b = .absent ∨ s.core.presOf b = .outgoing → s.psave b = s) ∧
     (s.core.presOf b = .present → ∃ d : Drain, d.block = b ∧ d.bytes = none ∧ d.loc = (s.locEntry s.cur b).map (·.1) ∧
       s.psave b = u.onCore fun k => { k.setPres b .outgoing with t := { k.t with drains := k.t.drains ++ [d] } }) ∧
     (s.core.presOf b = .poisoned → (s.psave b).core.presOf b = .absent ∧
       (s.locEntry s.cur b = none → s.psave b = harmed) ∧
       ∀ e a, s.locEntry s.cur b = some (e, a) →
         let word := leBytes 8 (e ||| 0x0000040000000000).toNat
         let x := s.grainOf ctx .write 2 0 (a / 64) none
         (∀ t, u.placeWrite ctx 2 0 a word = .ok t → s.psave b = lost t) ∧
         (∀ y, u.placeWrite ctx 2 0 a word = .error y → s.psave b = harmed) ∧
         (s.Inv → a % 8 = 0 → x.home = .dev → x.stat.all (· = 0) = true → x.leaf = none →
           ∀ i < 8, (s.psave b).mem.get (64 * x.num + a % 64 + i) = word.getD i 0)))

/-- R315, R317, R318, R320: CLKDIV raises CLASS below the least divisor of its engine in the job's heat class, and
lands otherwise; PHASE begins the hold of a pending change of its cluster's clock; RDTICK and RDISS read the counters.
-/
def Obligations.ClockWordsAndCounters : Prop :=
  ∀ (c : Ctl) (d : BitVec 6) (e : Eng) (n : BitVec 4) (s : State), s.core.clear c →
    let heat := (s.core.csr .cls).toNat % 4
    let least := if e = .m ∨ e = .v then (if heat = 0 then 4 else if heat = 1 then 2 else 1) else 1
    let cl := vget s.cl (s.cur / 256) .reset
    let s1 := s.onCore fun k => k.issued (.of .a c s.core.sa.div [])
    (n.toNat < least → exec (.clkdiv c e n) s = s.faults .a (flt 0x1A)) ∧
    (least ≤ n.toNat → exec (.clkdiv c e n) s = s.goes (.of .a c s.core.sa.div [.clkdiv e n])) ∧
    (∀ k, cl.req = .pending k → exec (.phase c) s = .next { s1 with
      cl := vset s.cl (s.cur / 256) { cl with req := .none, hold := some k } }) ∧
    (cl.req = .none → s.cur < 2048 → exec (.phase c) s = s.goes (.of .a c s.core.sa.div [])) ∧
    exec (.rdtick c d) s = s.yields c d 1 (s.core.csr .tick) ∧
    exec (.rdiss c d) s = s.yields c d 1 (s.core.csr .issued)

/-- R271, R285: LAUNCH reads 128 bytes of the scratchpad, LOCAL_BOUNDS outside it, and waits as a transmitting word;
it takes the next position of an enabled queue of the job's tenant that lets devices post and is not full, delivering
the record's id, and delivers 0 otherwise. R273, R274, R285: enabling a queue zeroes its counters; a host write of
TAIL acts on an enabled queue of the host that it does not overrun; the 128 bytes of the oldest reservation of LAUNCH
are written at its slot through the translation kept with it, and TAIL advances; the position is noted as failed where
a grain of the slot fails, with nothing written for it, and no other; a write whose way has a link in key hold waits
(R362). -/
def Obligations.RecordsAreLaunchedAndPosted : Prop :=
  (∀ (c : Ctl) (d a : BitVec 6) (q : BitVec 3) (s : State), s.core.clear c →
     let k := s.core
     let ad := (k.sreg a).toNat
     let tn := (k.csr .tenant).toNat % 16
     let t := vget s.ten tn .reset
     let x := vget t.q q.toNat .reset
     let pos : W32 := x.tail + BitVec.ofNat 32 x.resv.length
     let room := x.en = true ∧ x.devpost = true ∧ (pos - x.head).toNat < 2 ^ (x.addr.toNat / 2 ^ 48 % 16)
     let id : W64 := BitVec.ofNat 64 (q.toNat * 2 ^ 29 + (pos.toNat + 1) % 2 ^ 29)
     let plan (v : W64) := Plan.of .a c k.sa.div (k.sWrite d v)
     let r : Resv := { pos := pos, core := s.cur, bytes := s.getLs ad 128, esn := k.o.own, xlat := t.xlat }
     (¬(k.ownApplied ∧ k.mayRelease) → exec (.launch c d a q) s = .next s) ∧
     (k.ownApplied → k.mayRelease → ad % 8 ≠ 0 ∨ 0x100000 < ad + 128 →
       exec (.launch c d a q) s = s.faults .a (flt 0x07 ad)) ∧
     (k.ownApplied → k.mayRelease → ad % 8 = 0 → ad + 128 ≤ 0x100000 →
       (¬room → exec (.launch c d a q) s = s.goes (plan 0)) ∧
       (room → exec (.launch c d a q) s = .next { s with
         core := k.issued (plan id),
         ten := vset s.ten tn { t with q := vset t.q q.toNat { x with resv := x.resv ++ [r] } } }))) ∧
  (∀ (fn q : Nat) (w : W32) (s : State), fn < 16 → q < 8 →
     let x := vget s.ten fn .reset
     let y := vget x.q q .reset
     let put (x : Tenant) (y : LQueue) : Vector Tenant 16 := vset s.ten fn { x with q := vset x.q q y }
     let becomes (y : LQueue) : Out := .next { s with ten := put x y }
     let size := 2 ^ (y.addr.toNat / 2 ^ 48 % 16)
     (y.en = true → exec (.queueEnable fn q w) s = becomes { y with en := w.getLsbD 0 }) ∧
     (y.en = false → w.getLsbD 0 = false → exec (.queueEnable fn q w) s = becomes { y with devpost := w.getLsbD 1 }) ∧
     (y.en = false → w.getLsbD 0 = true → exec (.queueEnable fn q w) s =
       becomes { LQueue.reset with addr := y.addr, devpost := w.getLsbD 1, en := true }) ∧
     (y.en = false ∨ y.devpost = true → exec (.hostTailWrite fn q w) s = .next s) ∧
     (y.en = true → y.devpost = false → (w - y.head).toNat ≤ size → exec (.hostTailWrite fn q w) s = becomes { y with tail := w }) ∧
     (y.en = true → y.devpost = false → size < (w - y.head).toNat →
       exec (.hostTailWrite fn q w) s = .next (s.event (BitVec.ofNat 4 fn) 1 13 0 0 0)) ∧
     (∀ r rest, y.resv = r :: rest → r.bytes.length = 128 →
       let c : Ctx := { s.tenantCtx (BitVec.ofNat 4 fn) 128 with xlat := r.xlat }
       let space := y.addr.toNat / 2 ^ 60
       let at' := y.addr.toNat % 2 ^ 48 + 128 * (r.pos.toNat % size)
       let x (g : Nat) := s.grainOf c .write space 0 g none
       let posted (u : State) (lost : List W32) : State :=
         let z := vget u.ten fn .reset
         { u with ten := vset u.ten fn { z with q := vset z.q q { y with
             resv := rest, tail := y.tail + 1, failed := y.failed ++ lost,
             esns := y.esns ++ [(BitVec.ofNat 32 (q * 2 ^ 29 + (r.pos.toNat + 1) % 2 ^ 29), r.esn)] } } }
       let held := s.writeHeld c space 0 at' 128 = true
       (held → exec (.launchSlotWrite fn q) s = .next s) ∧
       (¬held → ∀ u, s.placeWrite c space 0 at' r.bytes = .ok u → exec (.launchSlotWrite fn q) s = .next (posted u [])) ∧
       (¬held → ∀ e, s.placeWrite c space 0 at' r.bytes = .error e → exec (.launchSlotWrite fn q) s = .next (posted s [r.pos])) ∧
       (¬held → ∀ i < 128, (at' + i) / 64 = at' / 64 → (x (at' / 64)).stat.getD ((at' + i) % 64) 0 ≠ 0 →
         exec (.launchSlotWrite fn q) s = .next (posted s [r.pos])) ∧
       (¬held → at' % 64 = 0 → space = 2 → s.Inv → (∀ i < 128, c.inHeap (at' + i) = true) →
         (x (at' / 64)).num ≠ (x (at' / 64 + 1)).num →
         (∀ k < 2, (x (at' / 64 + k)).home = .dev ∧ ∀ i < 64, (x (at' / 64 + k)).stat.getD i 0 = 0) →
         ∃ u, exec (.launchSlotWrite fn q) s = .next (posted u []) ∧
           (∀ i < 16, ∃ k, vget u.ten i .reset = { vget s.ten i .reset with moved := k }) ∧ ∀ k < 2, ∀ i < 64,
           u.mem.get (64 * (x (at' / 64 + k)).num + i) = r.bytes.getD (64 * k + i) 0)))

/-- R117: a tile command raises LENT for a lent register outside hot class, then FORMAT_UNDERFLOW for an empty fq,
then FORMAT_INVALID for a format word that R115, or the command, refuses. FADDR of LENT for a lent register is the
base of its window by the model's choice (DESIGN CHOICE, log 64). R117, R118, R121: TLD brings M rows by AF, TLDB N
rows by BF, from m at the pitch, headers apart, rows padded with zeros; the format word is popped and kept with the
landing (R340); 16 + ⌈rows/2⌉ ticks at divisor 2, 4 more where a tile or a row is lent, once a word (R17, R166;
DEDUCED, log 49). -/
def Obligations.TileCommandsCheckAndLoad : Prop :=
  (∀ (c : Ctl) (a t u m m2 : BitVec 3) (w v : BitVec 2) (pitch : BitVec 20) (s : State), s.core.clear c → s.core.array = 0 →
     let raises (i : Instr) (f : Flt) := exec i s = s.faults .m f
     let usable (n : BitVec 3) := n.toNat < 4 ∨ s.core.hot = true
     let tile (n : BitVec 3) := 0x200000 + 0x10000 * n.toNat
     let acc (n : BitVec 3) := 0x280000 + 0x10000 * n.toNat
     (¬usable t → raises (.tld c t m pitch) (flt 0x06 (tile t)) ∧ raises (.tldb c t m pitch) (flt 0x06 (tile t)) ∧
       raises (.rsum c w t) (flt 0x06 (tile t)) ∧ raises (.csum c w t) (flt 0x06 (tile t)) ∧
       raises (.tzero c t) (flt 0x06 (tile t))) ∧
     (¬usable a → raises (.mma c a t u) (flt 0x06 (acc a)) ∧ raises (.zpc c a w v) (flt 0x06 (acc a)) ∧
       raises (.drain c a m m2 pitch) (flt 0x06 (acc a)) ∧ raises (.aclr c a) (flt 0x06 (acc a)) ∧
       raises (.amov c a u) (flt 0x06 (acc a))) ∧
     (usable t → usable a → usable u → s.core.dq .fq = [] →
       ∀ i ∈ [Instr.tld c t m pitch, .tldb c t m pitch, .mma c a t u, .rsum c w t, .csum c w t, .zpc c a w v,
         .drain c a m m2 pitch], raises i (flt 0x03)) ∧
     (usable t → usable a → usable u → ∀ e rest, s.core.dq .fq = e :: rest →
       let f := e.val.toNat
       (fmtOk f = false → ∀ i ∈ [Instr.tld c t m pitch, .tldb c t m pitch, .mma c a t u, .rsum c w t, .csum c w t,
         .zpc c a w v, .drain c a m m2 pitch], raises i (flt 0x04)) ∧
       (fmtAF f ≠ 4 → fmtAF f ≠ 5 → raises (.rsum c w t) (flt 0x04)) ∧
       (fmtBF f ≠ 4 → fmtBF f ≠ 5 → raises (.csum c w t) (flt 0x04)) ∧
       (fmtCF f = 0 → raises (.zpc c a w v) (flt 0x04)))) ∧
  (∀ (c : Ctl) (t m : BitVec 3) (pitch : BitVec 20) (e : QEnt) (rest : List QEnt) (second : Bool) (s : State),
     s.core.clear c → (t.toNat < 4 ∨ s.core.hot = true) → s.core.dq .fq = e :: rest → fmtOk e.val.toNat = true →
     let x := e.val.toNat
     let f := if second then fmtBF x else fmtAF x
     let rows := if second then fmtN x else fmtM x
     let rb := if f = 0 then 260 else if f = 1 then 132 else if f = 2 ∨ f = 3 then 2 * fmtK x
       else if f = 5 then (fmtK x + 1) / 2 else fmtK x
     let src (i : Nat) := (s.core.mreg m).toNat + i * pitch.toNat
     let tile := 0x200000 + 0x10000 * t.toNat
     let al := if f ≤ 1 then 4 else if f = 2 ∨ f = 3 then 2 else 1
     let i : Instr := if second then .tldb c t m pitch else .tld c t m pitch
     let lent := 4 ≤ t.toNat || (List.range rows).any fun j => rb ≠ 0 && decide (0x100000 < src j + rb)
     let lat := ((16 + (rows + 1) / 2 + if lent then 4 else 0) * s.core.sm.div + 1) / 2
     let data := (List.range rows).flatMap fun j => ((s.getLs (src j) rb).drop (if f ≤ 1 then 4 else 0)).takeD 256 0
     let hdrs := (List.range rows).flatMap fun j => if f ≤ 1 then (s.getLs (src j) rb).take 4 else [0, 0, 0, 0]
     let pop (k : Core) : Core := { k with q := { k.q with dq := vset k.q.dq 0 ((vget k.q.dq 0 []).drop 1) } }
     let fits (j : Nat) := src j % al = 0 ∧ (rb = 0 ∨ src j + rb ≤ 0x200000)
     let inside := ∀ j < rows, fits j
     (inside → (∀ j < rows, rb = 0 ∨ s.core.hot = true ∨ src j + rb ≤ 0x100000) →
       (f ≤ 1 → ∀ j < rows, hdrOk (s.getLe (src j) 4) (f = 0) = true) →
       exec i s = s.goesWith { Plan.of .m c lat (if rows = 0 then [] else
         [.write tile rows 256 data, .write (tile + 0x8000) 1 0 hdrs]) with fmt := e.val } pop) ∧
     (∀ j < rows, src j % al ≠ 0 ∨ rb ≠ 0 ∧ 0x200000 ≤ src j → (∀ q < j, fits q) →
       exec i s = s.faults .m (flt 0x07 (src j))) ∧
     (∀ j < rows, src j % al = 0 → src j < 0x200000 → 0x200000 < src j + rb → (∀ q < j, fits q) →
       exec i s = s.faults .m (flt 0x07 0x200000)) ∧
     (inside → (∀ j < rows, rb = 0 ∨ s.core.hot = true ∨ src j + rb ≤ 0x100000) → f ≤ 1 →
       ∀ j < rows, hdrOk (s.getLe (src j) 4) (f = 0) = false → (∀ q < j, hdrOk (s.getLe (src q) 4) (f = 0) = true) →
       exec i s = s.faults .m (flt 0x05 (src j))))

/-- R116, R119, R122: an MMA waits while the array is occupied; it reads both tiles at issue, occupies the array for
K_eff engine ticks, pops its format word and lands 24 reference ticks after that, 4 more where it names a lent
register, unscaled (R17, R166; DEDUCED, log 49); R117: it raises HEADER for the first bad header, rows of the first
tile before those of the second, with its address. R112, R113, R122: an MMA that lands gives each element of the M × N
region the value that its old value, on that tick, and the two rows make; SATFLAGS.M is set if one of them clamped; no
other byte of the tiles, the accumulators or the scratchpad changes. R122: with an integer accumulator that wraps, an
element receives the sum of the products of the row codes on top of its old value, or of zero with ZF, wrapped to 32
bits, whatever the runs in which the array sums. R122, R7, R70: with a floating accumulator each run of products is
summed exactly and added with one rounding; with a saturating integer one each run's sum is added and clamped to 32
bits, a clamp being told; the runs are the whole row where a role is a block format, else 32 indices each. An exact
sum is NaN with a NaN or with infinities of both signs among its terms, an infinity with one, else their sum, −0 only
where every term is. -/
def Obligations.MatrixProductsAccumulate : Prop :=
  (∀ (c : Ctl) (a t u : BitVec 3) (e : QEnt) (rest : List QEnt) (s : State), s.core.clear c →
     let x := e.val.toNat
     let usable (n : BitVec 3) := n.toNat < 4 ∨ s.core.hot = true
     let rows (t : BitVec 3) (n : Nat) : List Byte := (List.range n).flatMap fun i =>
       s.getLs (0x200000 + 0x10000 * t.toNat + 0x8000 + 4 * i) 4 ++ s.getLs (0x200000 + 0x10000 * t.toNat + 256 * i) 256
     let is16 (f : Nat) := f = 2 ∨ f = 3
     let is4 (f : Nat) := f = 1 ∨ f = 5
     let kEff := if is16 (fmtAF x) ∨ is16 (fmtBF x) then 4 * fmtK x
       else if is4 (fmtAF x) ∧ is4 (fmtBF x) then (fmtK x + 1) / 2 else fmtK x
     let hdr (t : BitVec 3) (i : Nat) := s.getLe (0x200000 + 0x10000 * t.toNat + 0x8000 + 4 * i) 4
     let pop (k : Core) : Core := { k with q := { k.q with dq := vset k.q.dq 0 ((vget k.q.dq 0 []).drop 1) } }
     let lent := 4 ≤ a.toNat ∨ 4 ≤ t.toNat ∨ 4 ≤ u.toNat
     let plan (l : List LAct) : Plan :=
       { Plan.of .m c (kEff * s.core.sm.div + 24 + if lent then 4 else 0) l with fmt := e.val }
     (s.core.array ≠ 0 → exec (.mma c a t u) s = .next s) ∧
     (s.core.array = 0 → usable a → usable t → usable u → s.core.dq .fq = e :: rest → fmtOk x = true →
       (fmtM x = 0 ∨ fmtN x = 0 → exec (.mma c a t u) s = s.goesWith (plan []) pop) ∧
       (fmtM x ≠ 0 → fmtN x ≠ 0 →
         (fmtAF x ≤ 1 → ∀ i < fmtM x, hdrOk (hdr t i) (fmtAF x = 0) = true) →
         (fmtBF x ≤ 1 → ∀ i < fmtN x, hdrOk (hdr u i) (fmtBF x = 0) = true) →
         exec (.mma c a t u) s = s.goesWith (plan
           [.mma (0x280000 + 0x10000 * a.toNat) e.val (rows t (fmtM x)) (rows u (fmtN x))])
           fun k => { pop k with array := kEff * s.core.sm.div }) ∧
       (fmtM x ≠ 0 → fmtN x ≠ 0 → fmtAF x ≤ 1 → ∀ i < fmtM x, hdrOk (hdr t i) (fmtAF x = 0) = false →
         (∀ q < i, hdrOk (hdr t q) (fmtAF x = 0) = true) →
         exec (.mma c a t u) s = s.faults .m (flt 0x05 (0x208000 + 0x10000 * t.toNat + 4 * i))) ∧
       (fmtM x ≠ 0 → fmtN x ≠ 0 → (fmtAF x ≤ 1 → ∀ i < fmtM x, hdrOk (hdr t i) (fmtAF x = 0) = true) → fmtBF x ≤ 1 →
         ∀ i < fmtN x, hdrOk (hdr u i) (fmtBF x = 0) = false → (∀ q < i, hdrOk (hdr u q) (fmtBF x = 0) = true) →
         exec (.mma c a t u) s = s.faults .m (flt 0x05 (0x208000 + 0x10000 * u.toNat + 4 * i))))) ∧
  (∀ (a : BitVec 3) (fmt : W64) (ra rb : List Byte) (s : State),
     let x := fmt.toNat
     let at' (i j : Nat) := 0x280000 + 0x10000 * a.toNat + 4 * (64 * i + j)
     let e (i j : Nat) := mmaElem x ((ra.drop (260 * i)).take 260) ((rb.drop (260 * j)).take 260)
       (BitVec.ofNat 32 (s.getLe (at' i j) 4))
     let clamps := ∃ i < fmtM x, ∃ j < fmtN x, (e i j).2 = true
     let r := s.landAct [] (.mma (at' 0 0) fmt ra rb)
     fmtM x ≤ 128 → fmtN x ≤ 64 →
       (∀ i < fmtM x, ∀ j < fmtN x, r.1.getLe (at' i j) 4 = (e i j).1.toNat) ∧
       (clamps → r.2 = 1) ∧ (¬clamps → r.2 = 0) ∧
       (∀ n b, b < 0x300000 → (∀ i < fmtM x, ∀ j < fmtN x, ∀ k < 4, cell n b ≠ cell s.cur (at' i j + k)) →
         r.1.getB n b = s.getB n b)) ∧
  (∀ (x : Nat) (ra rb : List Byte) (old : W32), fmtCF x = 1 → 2 ≤ fmtAF x → 2 ≤ fmtBF x →
     let a (k : Nat) : Int := elemInt (elem (fmtAF x) (fmtAS x) ra k)
     let b (k : Nat) : Int := elemInt (elem (fmtBF x) (fmtBS x) rb k)
     mmaElem x ra rb old =
       (BitVec.ofInt 32 ((if fmtZF x then 0 else old.toInt) + ((List.range (fmtK x)).map fun k => a k * b k).sum), false)) ∧
  ((∀ (x : Nat) (ra rb : List Byte) (old : W32),
     let z : W32 := if fmtZF x then 0 else old
     let a (k : Nat) := elem (fmtAF x) (fmtAS x) ra k
     let b (k : Nat) := elem (fmtBF x) (fmtBS x) rb k
     let runs : List (List Nat) := if fmtAF x ≤ 1 ∨ fmtBF x ≤ 1 then [List.range (fmtK x)]
       else (List.range ((fmtK x + 31) / 32)).map fun g => (List.range (fmtK x)).filter fun k => k / 32 = g
     let p (k : Nat) := elemProd (scaleVal (hdrScale (leNat (ra.take 4)))) (scaleVal (hdrScale (leNat (rb.take 4)))) (a k) (b k)
     (fmtK x = 0 → mmaElem x ra rb old = (z, false)) ∧
     (fmtK x ≠ 0 → fmtCF x = 0 → mmaElem x ra rb old = (runs.foldl (fun acc g =>
       BitVec.ofNat 32 (rne32 ((dec32 acc.toNat).add (sumProds (g.map p))).1).1) z, false)) ∧
     (fmtK x ≠ 0 → fmtCF x = 2 → mmaElem x ra rb old = runs.foldl (fun acc g =>
       let v : Int := acc.1.toInt + (g.map fun k => elemInt (a k) * elemInt (b k)).sum
       let c : Int := max (-2 ^ 31) (min (2 ^ 31 - 1) v)
       (BitVec.ofInt 32 c, acc.2 || decide (c ≠ v))) (z, false))) ∧
   (∀ l : List X, l ≠ [] →
     let val (x : X) : ℚ := match x with
       | .fin s m e => (if s then -1 else 1) * (m : ℚ) * 2 ^ e
       | _ => 0
     (X.nan ∈ l ∨ X.inf true ∈ l ∧ X.inf false ∈ l → sumProds l = .nan) ∧
     (∀ b, X.inf b ∈ l → X.inf (!b) ∉ l → X.nan ∉ l → sumProds l = .inf b) ∧
     ((∀ p ∈ l, p.isFin = true) → ∃ b m e, sumProds l = .fin b m e ∧ val (sumProds l) = (l.map val).sum ∧
       (m = 0 → (b = true ↔ ∀ p ∈ l, ∃ e, p = .fin true 0 e)))))

/-- R124, R125: RSUM and CSUM sum the first K codes of each row of a tile; ZPC computes the corrections −zb·wr[i] −
za·wc[j] + K·za·zb; all pop their format word; 4 ticks more where they name a lent register (log 49). R126, R127:
DRAIN writes M rows of N converted elements at the pitch, notes SATFLAGS.D, pops its format word and with ZF zeroes
the region one tick after its issue; the tables of DF 4 and 5 are checked; 4 ticks more where an accumulator, a table
or a row is lent, once a word (log 49). R126, R127: a drained element is the accumulator's bits, its integer value in
FP32, or its FP32 value in BF16 or FP16, rounded by RM and, with DS, saturating: SATFLAGS.D where that differs from
what DS = 0 gives; or the exact product with its column's multiplier, shifted right with rounding, plus the zero
point, clamped to 8 bits: SATFLAGS.D where it is clamped. -/
def Obligations.SumsCorrectionsAndDrains : Prop :=
  (∀ (c : Ctl) (a t : BitVec 3) (w v : BitVec 2) (e : QEnt) (rest : List QEnt) (s : State), s.core.clear c →
     s.core.dq .fq = e :: rest → fmtOk e.val.toNat = true → (t.toNat < 4 ∨ s.core.hot = true) →
     (a.toNat < 4 ∨ s.core.hot = true) →
     let x := e.val.toNat
     let pop (k : Core) : Core := { k with q := { k.q with dq := vset k.q.dq 0 ((vget k.q.dq 0 []).drop 1) } }
     let half (n : Nat) := (n * s.core.sm.div + 1) / 2
     let sum (f : Nat) (sg : Bool) (i : Nat) : W32 := BitVec.ofInt 32 ((List.range (fmtK x)).map fun k =>
       elemInt (elem f sg ([0, 0, 0, 0] ++ s.getLs (0x200000 + 0x10000 * t.toNat + 256 * i) 256) k)).sum
     let sums (f : Nat) (sg : Bool) (n : Nat) := s.goesWith { Plan.of .m c
       (half (24 + (n + 1) / 2 + if 4 ≤ t.toNat then 4 else 0)) (if n = 0 then [] else
         [.sum (0x301000 + 0x200 * w.toNat) e.val ((List.range n).map (sum f sg))]) with fmt := e.val } pop
     let za : Int := if fmtAS x then (BitVec.ofNat 8 (fmtZA x)).toInt else fmtZA x
     let zb : Int := if fmtBS x then (BitVec.ofNat 8 (fmtZB x)).toInt else fmtZB x
     let wv (r : BitVec 2) (i : Nat) : Int := (vget (vget s.core.r.w r.toNat (.replicate 128 0)) i 0).toInt
     let corr := (List.range (fmtM x)).flatMap fun i => (List.range (fmtN x)).map fun j =>
       BitVec.ofInt 64 (-zb * wv w i - za * wv v j + (fmtK x : Int) * za * zb)
     (fmtAF x = 4 ∨ fmtAF x = 5 → exec (.rsum c w t) s = sums (fmtAF x) (fmtAS x) (fmtM x)) ∧
     (fmtBF x = 4 ∨ fmtBF x = 5 → exec (.csum c w t) s = sums (fmtBF x) (fmtBS x) (fmtN x)) ∧
     (fmtCF x ≠ 0 → exec (.zpc c a w v) s = s.goesWith { Plan.of .m c
       (half (20 + if 4 ≤ a.toNat then 4 else 0)) (if fmtM x = 0 ∨ fmtN x = 0 then [] else
         [.zpc (0x280000 + 0x10000 * a.toNat) e.val corr]) with fmt := e.val } pop)) ∧
  (∀ (c : Ctl) (a m m2 : BitVec 3) (pitch : BitVec 20) (e : QEnt) (rest : List QEnt) (s : State), s.core.clear c →
     s.core.dq .fq = e :: rest → fmtOk e.val.toNat = true → (a.toNat < 4 ∨ s.core.hot = true) →
     let x := e.val.toNat
     let acc := 0x280000 + 0x10000 * a.toNat
     let sz := if fmtDF x = 0 ∨ fmtDF x = 3 then 4 else if fmtDF x = 1 ∨ fmtDF x = 2 then 2 else 1
     let quant := fmtDF x = 4 ∨ fmtDF x = 5
     let tab := (s.core.mreg m2).toNat
     let dest (i : Nat) := (s.core.mreg m).toNat + i * pitch.toNat
     let ent (j : Nat) := if quant then s.getLs (tab + 8 * j) 8 else []
     let cell (i j : Nat) := drainElem x (BitVec.ofNat 32 (s.getLe (acc + 4 * (64 * i + j)) 4)) (ent j)
       (gen (s.core.csr .seed) (s.core.sid .m) (BitVec.ofNat 32 i) (BitVec.ofNat 32 j)).toNat
     let cells := (List.range (fmtM x)).flatMap fun i => (List.range (fmtN x)).map fun j => cell i j
     let shade := (quant ∧ 0x100000 < tab + 8 * fmtN x) ∨ ∃ i < fmtM x, 0x100000 < dest i + fmtN x * sz
     let half (n : Nat) := (n * s.core.sm.div + 1) / 2
     let own := if 4 ≤ a.toNat then 4 else 0
     let lat := half (32 + (fmtM x + 1) / 2 + if shade then 4 else own)
     let pop (k : Core) : Core := { k with q := { k.q with dq := vset k.q.dq 0 ((vget k.q.dq 0 []).drop 1) } }
     let zeroed : List Land := if fmtZF x then
       [{ st := .m, rem := 1, age := 0, sq := 0, sn := 0, fp := 0, sat := 0, sup := s.core.inSup, fmt := e.val,
          acts := [.azero acc e.val] }]
       else []
     (fmtM x = 0 ∨ fmtN x = 0 →
       exec (.drain c a m m2 pitch) s = s.goesWith { Plan.of .m c (half (32 + own)) [] with fmt := e.val } pop) ∧
     (fmtM x ≠ 0 → fmtN x ≠ 0 → (quant → tab + 8 * fmtN x ≤ 0x200000 ∧ (s.core.hot = true ∨ tab + 8 * fmtN x ≤ 0x100000)) →
       (∀ i < fmtM x, dest i % sz = 0 ∧ dest i + fmtN x * sz ≤ 0x200000 ∧
         (s.core.hot = true ∨ dest i + fmtN x * sz ≤ 0x100000)) →
       ((quant → ∀ j < fmtN x, ((ent j).getD 4 0).toNat ≤ 63 ∧ (ent j).getD 6 0 = 0 ∧ (ent j).getD 7 0 = 0) →
         exec (.drain c a m m2 pitch) s = s.goesWith { Plan.of .m c lat
             [.write (dest 0) (fmtM x) pitch.toNat (cells.flatMap fun p => leBytes sz p.1)] with
               sat := if cells.any (·.2) then 2 else 0, fmt := e.val }
           fun k => { pop k with land := k.land ++ zeroed }) ∧
       (quant → (∃ j < fmtN x, 63 < ((ent j).getD 4 0).toNat ∨ (ent j).getD 6 0 ≠ 0 ∨ (ent j).getD 7 0 ≠ 0) →
         exec (.drain c a m m2 pitch) s = s.faults .m (flt 0x04)))) ∧
  (∀ (x u : Nat) (v : W32) (ent : List Byte) (rm : Rm), Rm.ofShort (fmtRM x) = some rm →
     let as (f : FFmt) (sat : Bool) : Nat := (cvtF (dec32 v.toNat) f rm sat u).1
     let narrow (f : FFmt) : Nat × Bool := (as f (fmtDS x), fmtDS x && as f true ≠ as f false)
     let mult := (BitVec.ofNat 32 (leNat (ent.take 4))).toInt
     let sh := (ent.getD 4 0).toNat
     let p := v.toInt * mult
     let shifted := if 0 < sh then (p + 2 ^ (sh - 1)) / 2 ^ sh else p
     let requantised (q lo hi : Int) : Nat × Bool := ((max lo (min hi q) % 256).toNat, decide (q < lo ∨ hi < q))
     let out := drainElem x v ent u
     (fmtDF x = 0 → fmtCF x = 0 → out = (v.toNat, false)) ∧
     (fmtDF x = 0 → fmtCF x ≠ 0 →
       out = ((cvtF (.fin (decide (v.toInt < 0)) v.toInt.natAbs 0) .fp32 rm false u).1, false)) ∧
     (fmtDF x = 1 → out = narrow .bf16) ∧ (fmtDF x = 2 → out = narrow .fp16) ∧ (fmtDF x = 3 → out = (v.toNat, false)) ∧
     (fmtDF x = 4 → out = requantised (shifted + (ent.getD 5 0).toInt) (-128) 127) ∧
     (fmtDF x = 5 → out = requantised (shifted + ((ent.getD 5 0).toNat : Int)) 0 255))

/-- R128: ACLR and TZERO write zeros over a whole accumulator and a whole tile; AMOV copies an accumulator as it
stands at issue; 16 ticks at divisor 2, 4 more where they name a lent register (log 49). R129, R130: the control words
of the M stream, with their latency of 2; MPOP and MBQ take the oldest entry of dm and bm and wait for one; MLOOP
decides from the decremented value. -/
def Obligations.MatrixRegisterAndControlWords : Prop :=
  (∀ (c : Ctl) (a b : BitVec 3) (s : State), s.core.clear c →
     (a.toNat < 4 ∧ b.toNat < 4 ∨ s.core.hot = true) →
     let lat (n : Nat) := ((16 + if 4 ≤ n then 4 else 0) * s.core.sm.div + 1) / 2
     let acc (n : BitVec 3) := 0x280000 + 0x10000 * n.toNat
     exec (.aclr c a) s = s.goes (.of .m c (lat a.toNat) [.write (acc a) 128 256 (List.replicate 0x8000 0)]) ∧
     exec (.tzero c a) s = s.goes (.of .m c (lat a.toNat) [.write (0x200000 + 0x10000 * a.toNat) 1 0 (List.replicate 0x8200 0)]) ∧
     exec (.amov c a b) s = s.goes (.of .m c (lat (max a.toNat b.toNat)) [.write (acc a) 128 256 (s.getLs (acc b) 0x8000)])) ∧
  (∀ (c : Ctl) (m : BitVec 3) (imm : BitVec 32) (off : BitVec 24) (s : State), s.core.clear c →
     let l := (2 * s.core.sm.div + 1) / 2
     let x := s.core.mreg m
     let taken (v : Prop) [Decidable v] : Next := if v then .rel off else .seq
     let pop (q : Nat) (k : Core) : Core := { k with q := { k.q with dq := vset k.q.dq q ((vget k.q.dq q []).drop 1) } }
     exec (.mli c m imm) s = s.goes (.of .m c l [.mreg m.toNat imm]) ∧
     exec (.maddi c m imm) s = s.goes (.of .m c l [.mreg m.toNat (x + imm)]) ∧
     (∀ e rest, s.core.dq .dm = e :: rest →
       exec (.mpop c m) s = s.goesWith (.of .m c l [.mreg m.toNat (e.val.setWidth 32)]) (pop 1)) ∧
     (s.core.dq .dm = [] → exec (.mpop c m) s = .next s) ∧
     exec (.mloop c m off) s = s.goes { Plan.of .m c l [.mreg m.toNat (x - 1)] with next := taken (x ≠ 1) } ∧
     (∀ e rest, s.core.dq .bm = e :: rest →
       exec (.mbq c off) s = s.goesWith { Plan.of .m c l [] with next := taken (e.val ≠ 0) } (pop 3)) ∧
     (s.core.dq .bm = [] → exec (.mbq c off) s = .next s) ∧
     exec (.mjmp c off) s = s.goes { Plan.of .m c l [] with next := .rel off } ∧
     exec (.msatc c m) s = s.goes (.of .m c l [.msatc (0x301C00 + 4 * m.toNat)]))

/-- R139 to R141, R144, R149: the lane results of the arithmetic, logic, movement, conversion and random words, with
their latencies, under the write mask, whatever the operands' forms. How VEXP2, VLOG2 and VEXP form the irrational
results that they round is the model's (DEDUCED, log 7). -/
def Obligations.VectorLaneWordsIssueWithResults : Prop :=
  ∀ (c : Ctl) (d : VDst) (a b x : VSrc) (k ks : BitVec 3) (lane : BitVec 6) (ty : VTy) (dt : MemTy) (rm : RmFull)
    (sat : Bool) (s : State), s.core.clear c →
    let m := s.core.kreg k
    let at1 (i l : Nat) := (readSrcs s [a]).lane i l
    let at2 (i l : Nat) := (readSrcs s [a, b]).lane i l
    let at3 (i l : Nat) := (readSrcs s [a, b, x]).lane i l
    let go1 (n : Nat) (f : W32 → W32 × FpFlags) := s.vrGoes c d [a] m n fun l => f (at1 0 l)
    let go2 (n : Nat) (f : W32 → W32 → W32 × FpFlags) := s.vrGoes c d [a, b] m n fun l => f (at2 0 l) (at2 1 l)
    let go3 (n : Nat) (f : W32 → W32 → W32 → W32 × FpFlags) :=
      s.vrGoes c d [a, b, x] m n fun l => f (at3 0 l) (at3 1 l) (at3 2 l)
    let one (f : Nat → Nat × FpFlags) (p : W32) := w32 (f p.toNat)
    let two (f : Nat → Nat → Nat × FpFlags) (p q : W32) := w32 (f p.toNat q.toNat)
    let int (f : W32 → W32 → W32) (p q : W32) : W32 × FpFlags := (f p q, 0)
    (s.vrReady d [a, b] m →
      exec (.vadd c d a b k .f) s = go2 8 (two fadd) ∧ exec (.vsub c d a b k .f) s = go2 8 (two fsub) ∧
      exec (.vmul c d a b k .f) s = go2 8 (two fmul) ∧
      (ty ≠ .f → exec (.vadd c d a b k ty) s = go2 8 (int (· + ·)) ∧ exec (.vsub c d a b k ty) s = go2 8 (int (· - ·)) ∧
        exec (.vmul c d a b k ty) s = go2 8 (int (· * ·))) ∧
      exec (.vmin c d a b k .f) s = go2 8 (int fun p q => BitVec.ofNat 32 (fmin p.toNat q.toNat)) ∧
      exec (.vmin c d a b k .i) s = go2 8 (int fun p q => if q.toInt < p.toInt then q else p) ∧
      exec (.vmin c d a b k .u) s = go2 8 (int fun p q => if q.toNat < p.toNat then q else p) ∧
      exec (.vmax c d a b k .f) s = go2 8 (int fun p q => BitVec.ofNat 32 (fmax p.toNat q.toNat)) ∧
      exec (.vmax c d a b k .i) s = go2 8 (int fun p q => if p.toInt < q.toInt then q else p) ∧
      exec (.vmax c d a b k .u) s = go2 8 (int fun p q => if p.toNat < q.toNat then q else p) ∧
      exec (.vdiv c d a b k) s = go2 24 (two fdiv) ∧
      exec (.vand c d a b k ty) s = go2 8 (int (· &&& ·)) ∧ exec (.vor c d a b k ty) s = go2 8 (int (· ||| ·)) ∧
      exec (.vxor c d a b k ty) s = go2 8 (int (· ^^^ ·)) ∧
      exec (.vshl c d a b k ty) s = go2 8 (int fun p q => p <<< (q.toNat % 32)) ∧
      exec (.vshr c d a b k ty) s = go2 8 (int fun p q => p >>> (q.toNat % 32)) ∧
      exec (.vsar c d a b k ty) s = go2 8 (int fun p q => p.sshiftRight (q.toNat % 32)) ∧
      exec (.vsel c d a b ks k ty) s =
        s.vrGoes c d [a, b] m 8 (fun l => (if (s.core.kreg ks).getLsbD l then at2 0 l else at2 1 l, 0)) ∧
      exec (.vperm c d a b k ty) s = s.vrGoes c d [a, b] m 10 (fun l => (at2 0 ((at2 1 l).toNat % 64), 0)) ∧
      exec (.vrng c d a b k .u) s = go2 12 (int (gen (s.core.csr .seed) (s.core.sid .v))) ∧
      exec (.vrng c d a b k .f) s = go2 12 (int fun p q =>
        (w32 (rne32 (.fin false ((gen (s.core.csr .seed) (s.core.sid .v) p q).toNat / 256) (-24)))).1)) ∧
    (s.vrReady d [a] m →
      exec (.vabs c d a k .f) s = go1 8 (fun p => (BitVec.ofNat 32 (fabs p.toNat), 0)) ∧
      exec (.vabs c d a k .i) s = go1 8 (fun p => (BitVec.ofInt 32 |p.toInt|, 0)) ∧
      exec (.vneg c d a k .f) s = go1 8 (fun p => (BitVec.ofNat 32 (fneg p.toNat), 0)) ∧
      exec (.vneg c d a k .i) s = go1 8 (fun p => (-p, 0)) ∧
      exec (.vsqrt c d a k) s = go1 24 (one fsqrt) ∧ exec (.vrsq c d a k) s = go1 24 (one frsq) ∧
      exec (.vrcp c d a k) s = go1 24 (one frcp) ∧ exec (.vexp2 c d a k) s = go1 24 (one fexp2) ∧
      exec (.vlog2 c d a k) s = go1 24 (one flog2) ∧ exec (.vexp c d a k) s = go1 24 (one fexp) ∧
      exec (.vmov c d a k ty) s = go1 8 (fun p => (p, 0)) ∧
      exec (.vbrd c d a lane k ty) s = s.vrGoes c d [a] m 8 (fun _ => (at1 0 lane.toNat, 0)) ∧
      (rm ≠ .sr → exec (.vcvt c d a x k ty dt rm sat) s = go1 8 (cvtLane ty dt (rmOfFull rm) sat 0))) ∧
    (s.vrReady d [a, x] m → exec (.vcvt c d a x k ty dt .sr sat) s = s.vrGoes c d [a, x] m 8 fun l =>
      cvtLane ty dt .sr sat (gen (s.core.csr .seed) (s.core.sid .v) (BitVec.ofNat 32 l) ((readSrcs s [a, x]).lane 1 l)).toNat
        ((readSrcs s [a, x]).lane 0 l)) ∧
    (s.vrReady d [a, b, x] m → exec (.vfma c d a b x k .f) s = go3 8 (fun p q r => w32 (ffma p.toNat q.toNat r.toNat)) ∧
      (ty ≠ .f → exec (.vfma c d a b x k ty) s = go3 8 (fun p q r => (p * q + r, 0)))) ∧
    (s.vrReady d [] m → exec (.viota c d k ty) s = s.vrGoes c d [] m 8 (fun l => (BitVec.ofNat 32 l, 0)))

/-- R25, R143: the conditions of VCMP on two lanes: signed, unsigned, or as FP32, where −0 equals +0 and with a NaN
only NE holds. R142, R143: VCMP and KLOG write masks, k0 discarding them; VFIRST finds or counts bits; VCOMP packs the
selected lanes. -/
def Obligations.MaskWordsSelectAndCompare : Prop :=
  (∀ (p q : W32) (ty : VTy),
     let x := dec32 p.toNat
     let y := dec32 q.toNat
     let val (x : X) : ℚ := match x with
       | .fin s m e => (if s then -1 else 1) * (m : ℚ) * 2 ^ e
       | _ => 0
     let below (x y : X) : Prop := match x, y with
       | .fin _ _ _, .fin _ _ _ => val x < val y
       | .inf true, .fin _ _ _ => True
       | .fin _ _ _, .inf t => t = false
       | .inf true, .inf t => t = false
       | _, _ => False
     let lt : Prop := match ty with
       | .f => below x y
       | .i => p.toInt < q.toInt
       | .u => p.toNat < q.toNat
     let gt : Prop := match ty with
       | .f => below y x
       | .i => q.toInt < p.toInt
       | .u => q.toNat < p.toNat
     let holds (cc : Cond) := laneCond cc ty p q = true
     (ty = .f ∧ (x = .nan ∨ y = .nan) → ¬holds .eq ∧ holds .ne ∧ ¬holds .lt ∧ ¬holds .ge) ∧
     (¬(ty = .f ∧ (x = .nan ∨ y = .nan)) → (holds .lt ↔ lt) ∧ (holds .ge ↔ ¬lt) ∧ (holds .eq ↔ ¬lt ∧ ¬gt) ∧ (holds .ne ↔ lt ∨ gt))) ∧
  (∀ (c : Ctl) (cc : Cond) (op : LogOp) (kd ka kb k : BitVec 3) (d : VDst) (a b : VSrc) (ty : VTy) (s : State),
     s.core.clear c →
     let l8 := (8 * s.core.sv.div + 1) / 2
     let fits (x : W64) (p : Nat → Prop) := ∀ l < 64, (x.getLsbD l = true ↔ p l)
     let r := readSrcs s [a, b]
     let e := bankExtra [a, b]
     let pops (n : Nat) (z : Vector (BitVec 512) 8) (y : Core) : Core :=
       { y with r := { y.r with z := z }, q := { y.q with dq := vset y.q.dq 2 ((vget y.q.dq 2 []).drop n) } }
     let m := s.core.kreg ka
     (r.dv ≤ (s.core.dq .dv).length → r.fault = none → ∃ x : W64,
       fits x (fun l => laneCond cc ty (r.lane 0 l) (r.lane 1 l) = true) ∧
       exec (.vcmp c cc kd a b k ty) s = s.goesWith
         { Plan.of .v c (((8 + if r.lent then 4 else 0) * s.core.sv.div + 1) / 2 + e * s.core.sv.div)
           (if kd = 0 then [] else [.kbits kd.toNat (if k = 0 then none else some (s.core.kreg k)) x]) with extra := e }
         (pops r.dv r.z)) ∧
     (∃ x : W64, fits x (fun l => match op with
         | .and => m.getLsbD l && (s.core.kreg kb).getLsbD l
         | .or => m.getLsbD l || (s.core.kreg kb).getLsbD l
         | .xor => m.getLsbD l != (s.core.kreg kb).getLsbD l
         | .andn => m.getLsbD l && !(s.core.kreg kb).getLsbD l
         | .not => !m.getLsbD l) ∧
       exec (.klog c op kd ka kb) s = s.goes (.of .v c l8 (if kd = 0 then [] else [.kbits kd.toNat none x]))) ∧
     (s.vrReady d [] (s.core.kreg k) → ∃ i n : Nat,
       i ≤ 64 ∧ (∀ l < i, m.getLsbD l = false) ∧ (i < 64 → m.getLsbD i = true) ∧
       n = (List.range 64).countP (fun l => m.getLsbD l) ∧
       exec (.vfirst c false d ka k ty) s = s.vrGoes c d [] (s.core.kreg k) 10 (fun _ => (BitVec.ofNat 32 i, 0)) ∧
       exec (.vfirst c true d ka k ty) s = s.vrGoes c d [] (s.core.kreg k) 10 (fun _ => (BitVec.ofNat 32 n, 0))) ∧
     (s.vrReady d [a] (BitVec.allOnes 64) →
       let chosen := (List.range 64).filter fun l => (s.core.kreg k).getLsbD l
       exec (.vcomp c d a k ty) s = s.vrGoes c d [a] (BitVec.allOnes 64) 10 fun l =>
         (((chosen[l]?).map fun i => (readSrcs s [a]).lane 0 i).getD 0, 0)))

/-- R73: TREESUM halves its terms, each pair a distance w apart replaced by RNE32 of its sum, until one is left; VRSUM
is TREESUM over the 64 lanes, +0.0 for one that its mask switches off. -/
def Obligations.VrsumIsTheHalvingTree : Prop :=
  (∀ x, (treeSum 0 [x]).1 = x) ∧
  (∀ (n : Nat) (u v : List Nat), u.length = 2 ^ n → v.length = 2 ^ n → (treeSum (n + 1) (u ++ v)).1 =
    (treeSum n (List.zipWith (fun p q => (rne32 ((dec32 p).add (dec32 q)).1).1) u v)).1) ∧
  (∀ (c : Ctl) (d : VDst) (a : VSrc) (k : BitVec 3) (s : State), s.core.clear c →
    s.vrReady d [a] (BitVec.allOnes 64) →
    let lane (l : Nat) : Nat := if (s.core.kreg k).getLsbD l then ((readSrcs s [a]).lane 0 l).toNat else 0
    let r := treeSum 6 ((List.range 64).map lane)
    exec (.vrsum c d a k .f) s = s.vrGoes c d [a] (BitVec.allOnes 64) 14 fun _ => (BitVec.ofNat 32 r.1, r.2))

/-- R145: integer sums, maxima and minima give every lane the result over the lanes k selects, an identity standing
for the others; that it takes part beside NaNs is the model's reading (log 26). R74, R146: a scan makes the six steps
of R74 on them and adds the carry in x[c] to each lane, the exclusive one to the lane below; the carry out lands in
x[c]; its flags are those of all the sums made. -/
def Obligations.ReductionsAndScans : Prop :=
  ∀ (c : Ctl) (d : VDst) (a : VSrc) (xc : BitVec 4) (k : BitVec 3) (ty : VTy) (s : State), s.core.clear c →
    s.vrReady d [a] (BitVec.allOnes 64) →
    let lane (ident : W32) (l : Nat) : W32 := if (s.core.kreg k).getLsbD l then (readSrcs s [a]).lane 0 l else ident
    let all (ident : W32) : List W32 := (List.range 64).map (lane ident)
    let gives (i : Instr) (n : Nat) (r : W32 × FpFlags) := exec i s = s.vrGoes c d [a] (BitVec.allOnes 64) n fun _ => r
    let carryF := (s.core.xreg xc).toNat % 2 ^ 32
    let step (n : Nat) (v : Nat → Nat) (l : Nat) : Nat := if n ≤ l then (fadd (v (l - n)) (v l)).1 else v l
    let v1 := step 1 fun l => (lane 0 l).toNat
    let v2 := step 2 v1
    let v4 := step 4 v2
    let v8 := step 8 v4
    let v16 := step 16 v8
    let u := step 32 v16
    let steps : List (Nat × (Nat → Nat)) := [(1, fun l => (lane 0 l).toNat), (2, v1), (4, v2), (8, v4), (16, v8), (32, v16)]
    let below (l : Nat) : Nat := if l = 0 then 0 else u (l - 1)
    let flagged (e : Nat → Nat) (g : FpFlags) := ∀ i < 5, g.getLsbD i = true ↔
      (∃ p ∈ steps, ∃ l < 64, p.1 ≤ l ∧ (fadd (p.2 (l - p.1)) (p.2 l)).2.getLsbD i = true) ∨
      (∃ l < 64, (fadd (e l) carryF).2.getLsbD i = true) ∨ (fadd (u 63) carryF).2.getLsbD i = true
    let scans (i : Instr) (e : Nat → Nat) := ∃ g : FpFlags, flagged e g ∧ exec i s = s.vrGoes c d [a] (BitVec.allOnes 64) 16
      (fun l => (BitVec.ofNat 32 (fadd (e l) carryF).1, g)) [.xreg xc.toNat (BitVec.ofNat 64 (fadd (u 63) carryF).1)]
    (ty ≠ .f → gives (.vrsum c d a k ty) 14 ((all 0).sum, 0)) ∧
    (∃ r, gives (.vrmax c d a k .i) 14 (r, 0) ∧ r ∈ all 0x80000000 ∧ ∀ x ∈ all 0x80000000, x.toInt ≤ r.toInt) ∧
    (∃ r, gives (.vrmax c d a k .u) 14 (r, 0) ∧ r ∈ all 0 ∧ ∀ x ∈ all 0, x.toNat ≤ r.toNat) ∧
    (∃ r, gives (.vrmin c d a k .i) 14 (r, 0) ∧ r ∈ all 0x7FFFFFFF ∧ ∀ x ∈ all 0x7FFFFFFF, r.toInt ≤ x.toInt) ∧
    (∃ r, gives (.vrmin c d a k .u) 14 (r, 0) ∧ r ∈ all 0xFFFFFFFF ∧ ∀ x ∈ all 0xFFFFFFFF, r.toNat ≤ x.toNat) ∧
    (∃ r, gives (.vramax c d a k .i) 14 (r, 0) ∧ (∃ x ∈ all 0, r.toNat = x.toInt.natAbs) ∧
      ∀ x ∈ all 0, x.toInt.natAbs ≤ r.toNat) ∧
    gives (.vrmax c d a k .f) 14 (foldLanes (maxW .f) (all 0xFF800000), 0) ∧
    gives (.vrmin c d a k .f) 14 (foldLanes (minW .f) (all 0x7F800000), 0) ∧
    gives (.vramax c d a k .f) 14 (foldLanes (maxW .f) ((all 0).map fun x => BitVec.ofNat 32 (fabs x.toNat)), 0) ∧
    (ty ≠ .f →
      let carry : W32 := (s.core.xreg xc).setWidth 32
      let upTo (l : Nat) : W32 := ((all 0).take l).sum
      let out : LAct := .xreg xc.toNat ((upTo 64 + carry).setWidth 64)
      exec (.vscan c d a xc k ty) s =
        s.vrGoes c d [a] (BitVec.allOnes 64) 16 (fun l => (upTo (l + 1) + carry, 0)) [out] ∧
      exec (.vscanx c d a xc k ty) s =
        s.vrGoes c d [a] (BitVec.allOnes 64) 16 (fun l => (upTo l + carry, 0)) [out]) ∧
    scans (.vscan c d a xc k .f) u ∧ scans (.vscanx c d a xc k .f) below

/-- R147, R148: VSORT and VSORTK sort the lanes k selects, equal keys in lane order, the others behind in lane order;
VMERGE merges; both pair words write d and d + 1. R147: of the lanes, the selected ones come first, in an order in
which no key strictly precedes an earlier one and equal keys keep their lane order; the others follow in lane order.
R70, R147, R148: a key strictly precedes another, ascending, by unsigned value for u, by signed value for i, and for f
in the order −∞, negative finites, −0, +0, positive finites, +∞, NaN, all NaNs being equal; descending is the reverse.
The merge takes A's element where B is used up, or A is not and B's element does not strictly precede it; else B's. -/
def Obligations.SortsAndMerges : Prop :=
  (∀ (c : Ctl) (desc : Bool) (d : VDst) (p : BitVec 3) (a b : VSrc) (k : BitVec 3) (ty : VTy) (s : State), s.core.clear c →
     let m := s.core.kreg k
     let r := readSrcs s [a, b]
     let pairs := (List.range 64).map fun l => (r.lane 0 l, r.lane 1 l)
     let single := (List.range 64).map fun l => ((readSrcs s [a]).lane 0 l, (0 : W32))
     let low : VDst := .v (BitVec.ofNat 4 (2 * p.toNat))
     let high (l : List W32) : List LAct := [.lanes (2 * p.toNat + 1) (BitVec.allOnes 64) l]
     let ones := BitVec.allOnes 64
     (s.vrReady d [a] ones → exec (.vsort c desc d a k ty) s =
       s.vrGoes c d [a] ones 40 fun l => (((sortLanes ty desc m single).getD l (0, 0)).1, 0)) ∧
     (s.vrReady low [a, b] ones → exec (.vsortk c desc p a b k ty) s =
       s.vrGoes c low [a, b] ones 40 (fun l => (((sortLanes ty desc m pairs).getD l (0, 0)).1, 0))
         (high ((sortLanes ty desc m pairs).map (·.2)))) ∧
     (s.vrReady low [a, b] ones →
       let out := mergeRun ty desc 128 (pairs.map (·.1)) (pairs.map (·.2))
       exec (.vmerge c desc p a b ty) s =
         s.vrGoes c low [a, b] ones 24 (fun l => (out.getD l 0, 0)) (high (out.drop 64)))) ∧
  (∀ (ty : VTy) (desc : Bool) (m : W64) (l : List (W32 × W32)), l.length ≤ 64 →
     let chosen := (l.zipIdx.filter fun p => m.getLsbD p.2).map (·.1)
     let others := (l.zipIdx.filter fun p => !(m.getLsbD p.2)).map (·.1)
     let same (x : W32) (p : W32 × W32) : Bool := !keyBefore ty desc p.1 x && !keyBefore ty desc x p.1
     ∃ front, sortLanes ty desc m l = front ++ others ∧ front.Perm chosen ∧
       front.Pairwise (fun p q => keyBefore ty desc q.1 p.1 = false) ∧
       ∀ x, front.filter (same x) = chosen.filter (same x)) ∧
  (∀ (ty : VTy) (desc : Bool) (x y : W32) (as bs : List W32),
     let float (x : W32) : Int := if 0x7F800000 < x.toNat % 2 ^ 31 then 2 ^ 31
       else if x.getLsbD 31 then -1 - ((x.toNat % 2 ^ 31 : Nat) : Int) else (x.toNat : Int)
     let rank (x : W32) : Int := match ty with
       | .f => float x
       | .i => x.toInt
       | .u => (x.toNat : Int)
     keyBefore ty desc x y = (if desc then decide (rank y < rank x) else decide (rank x < rank y)) ∧
     (as.length = 64 → bs.length = 64 →
       let out := mergeRun ty desc 128 as bs
       out.length = 128 ∧ ∃ i : Nat → Nat, i 0 = 0 ∧ ∀ n < 128,
         let j := n - i n
         let fromA := j = 64 ∨ i n < 64 ∧ keyBefore ty desc (bs.getD j 0) (as.getD (i n) 0) = false
         i n ≤ n ∧ (fromA → out.getD n 0 = as.getD (i n) 0 ∧ i (n + 1) = i n + 1) ∧
           (¬fromA → out.getD n 0 = bs.getD j 0 ∧ i (n + 1) = i n)))

/-- R155, R157: a naming of a stream register raises QUEUE where it is unbound, of the other direction or used up; it
moves the next elements of its pattern, missing lanes reading 0, and POS moves on by 64, at most to the end. FADDR 0
of QUEUE is the model's choice (DESIGN CHOICE, log 46). -/
def Obligations.StreamOperandsWalkTheirPattern : Prop :=
  ∀ (n : BitVec 3) (m : W64) (val : List W32) (et : Et) (s : State),
    let z := vget s.core.r.z n.toNat 0
    let x := z.toNat
    let cnt (i : Nat) := x / 2 ^ (64 + 16 * i) % 2 ^ 16
    let str (i : Nat) : Int := (z.extractLsb' (128 + 32 * i) 32).toInt
    let total := cnt 0 * cnt 1 * cnt 2
    let pos := x / 2 ^ 256 % 2 ^ 32
    let ea (l : Nat) : Int := (x % 2 ^ 22 : Nat) + ((pos + l) % cnt 0 : Nat) * str 0
      + ((pos + l) / cnt 0 % cnt 1 : Nat) * str 1 + ((pos + l) / (cnt 0 * cnt 1) : Nat) * str 2
    let size := esz et.code
    let bad (dir : Bool) := z.getLsbD 288 = false ∨ z.getLsbD 28 ≠ dir ∨ pos = total
    let legal (dir : Bool) (l : Nat) := elemOk size dir (ea l) = true ∧
      (s.core.hot = true ∨ ∀ i < size, lentAddr ((ea l).toNat + i) = false)
    let r := readSrcs s [.z n]
    let w := writeDst s.core s.core.r.z (.z n) m val
    let moved (z' : BitVec 512) := z'.toNat / 2 ^ 256 % 2 ^ 32 = min (pos + 64) total % 2 ^ 32 ∧
      ∀ i < 512, i < 256 ∨ 288 ≤ i → z'.getLsbD i = z.getLsbD i
    moved (vget r.z n.toNat 0) ∧ moved (vget w.z n.toNat 0) ∧
    (∀ k, k ≠ n.toNat → vget r.z k 0 = vget s.core.r.z k 0 ∧ vget w.z k 0 = vget s.core.r.z k 0) ∧
    (bad false → r.fault = some (flt 0x0F)) ∧ (bad true → w.fault = some (flt 0x0F)) ∧
    (Et.ofCode (x / 2 ^ 24 % 16) = some et →
      (¬bad false → (∀ l < 64, pos + l < total → legal false l) → r.fault = none ∧
        ∀ l < 64, r.lane 0 l = if pos + l < total then loadLane et (s.getLe (ea l).toNat size) else 0) ∧
      (¬bad true → (∀ l < 64, pos + l < total → m.getLsbD l = true → legal true l) → w.fault = none ∧
        w.acts = [.list (((List.range 64).filter fun l => decide (pos + l < total) && m.getLsbD l && !zAddr (ea l).toNat).map
          fun l => { addr := (ea l).toNat, data := leBytes size (storeLane et (val.getD l 0)).1, mask := none })]))

/-- R150 to R152: the loads and stores of the V stream: the lanes the mask selects, each at an address that is
computed exactly; LOCAL_BOUNDS with the address of the lowest failing lane; 4 more ticks where an element lies in a
lent range. R153, R154: QST quantises the group of four registers into one block, QLD brings a block into it;
LOCAL_BOUNDS for a place that is unaligned or ends beyond the shade windows, with its start in FADDR also where it
starts inside (the model's reading: DEDUCED, log 64), LENT outside hot class, HEADER for a header R65 refuses; an
infinity under scale 0 sets INVALID (R70). R59, R61, R62, R68, R71, R77: QUANT pads the block with +0 and applies the
Hadamard step; each enabled selector (of those that code what is not finite, where something is not and one of them is
enabled) gets the least scale of which Qmax reaches the largest finite magnitude, or 0xFEFF with OVERFLOW; each
element its quotient by the scale, rounded to FP32, then to the selector's grid, with the squared error; the sum of
the errors, in the tree's order, chooses, the lowest selector on equal sums. Rounding to a grid takes one of the two
magnitudes beside the value by the mode, Qmax above it. Quotients keep 96 bits and a sticky bit before their one
rounding. -/
def Obligations.VectorMemoryWords : Prop :=
  (∀ (c : Ctl) (v x vi : BitVec 4) (et : MemTy) (k : BitVec 3) (imm : BitVec 24) (indexed : Bool) (s : State),
     s.core.clear c →
     let size := esz (memEt et).code
     let m := s.core.kreg k
     let reg (n : BitVec 4) (l : Nat) : W32 := (vLanes s.core n).getD l 0
     let ea (l : Nat) : Int := if indexed then ((s.core.xreg x).toNat : Int) + (reg vi l).toNat * size
       else ((s.core.xreg x).toNat : Int) + l * size + imm.toInt
     let load : Instr := if indexed then .vldx c v x et k vi else .vld c v x et k imm
     let store : Instr := if indexed then .vstx c v x et k vi else .vst c v x et k imm
     let lanes := (List.range 64).filter fun l => m.getLsbD l
     let legal (st : Bool) := ∀ l ∈ lanes, elemOk size st (ea l) = true ∧
       (s.core.hot = true ∨ ∀ i < size, lentAddr ((ea l).toNat + i) = false)
     let slow := lanes.any fun l => lentAddr (ea l).toNat || lentAddr ((ea l).toNat + size - 1)
     let lat (n : Nat) := ((n + if slow then 4 else 0) * s.core.sv.div + 1) / 2
     let items : List LItem := (lanes.filter fun l => !zAddr (ea l).toNat).map fun l =>
       { addr := (ea l).toNat, data := leBytes size (storeLane (memEt et) (reg v l)).1, mask := none }
     let first (st : Bool) (j : Nat) := j ∈ lanes ∧ elemOk size st (ea j) = false ∧
       ∀ q ∈ lanes, q < j → elemOk size st (ea q) = true
     let fault (j : Nat) : Out := s.faults .v { code := 0x07, faddr := BitVec.ofInt 64 (ea j) }
     (legal false → exec load s = s.goes (.of .v c (lat (if indexed then 12 else 10)) [.lanes v.toNat m
       ((List.range 64).map fun l => if m.getLsbD l then loadLane (memEt et) (s.getLe (ea l).toNat size) else 0)])) ∧
     (legal true → exec store s = s.goes { Plan.of .v c (lat (if indexed then 8 else 6)) [storeAct (!indexed) items] with
       fp := orFlags (lanes.map fun l => (storeLane (memEt et) (reg v l)).2) }) ∧
     (∀ j, first false j → exec load s = fault j) ∧ (∀ j, first true j → exec store s = fault j)) ∧
  (∀ (c : Ctl) (v : BitVec 2) (x xr en : BitVec 4) (wc : Bool) (rm : RmShort) (had : BitVec 2) (s : State),
     s.core.clear c →
     let a := (s.core.xreg x).toNat
     let r := (s.core.xreg xr).toNat
     let n := if wc then 260 else 132
     let group := (List.range 4).flatMap fun q => vLanes s.core (BitVec.ofNat 4 (4 * v.toNat + q))
     let u (i : Nat) := (gen (s.core.csr .seed) (s.core.sid .v) (BitVec.ofNat 32 i) (BitVec.ofNat 32 (r / 2 ^ 32))).toNat
     let q := quant (group.map (·.toNat)) (min (r % 2 ^ 32) 256) wc en.toNat (rmOfShort rm) had.toNat u
     let lat (l : Nat) := ((l + if 0x100000 < a + n then 4 else 0) * s.core.sv.div + 1) / 2
     let b := s.getLs a n
     let hdr := leNat (b.take 4)
     let el (i : Nat) :=
       let e := blockElemF hdr (b.drop 4) i
       ((rne32 e.1).1, e.2 ||| (rne32 e.1).2)
     let inside := a % 4 = 0 ∧ a + n ≤ 0x200000
     let reach := s.core.hot = true ∨ a + n ≤ 0x100000
     let qst : Instr := .qst c v x xr en wc rm had
     let qld : Instr := .qld c v x wc
     (¬inside → exec qst s = s.faults .v (flt 0x07 a) ∧ exec qld s = s.faults .v (flt 0x07 a)) ∧
     (inside → s.core.hot = false → 0x100000 ≤ a → exec qst s = s.faults .v (flt 0x06 a) ∧
       exec qld s = s.faults .v (flt 0x06 a)) ∧
     (inside → reach → exec qst s =
       s.goes { Plan.of .v c (lat 64) [.write a 1 0 (blockBytes q.1 wc q.2.1)] with fp := q.2.2 }) ∧
     (inside → reach → hdrOk hdr wc = false → exec qld s = s.faults .v (flt 0x05 a)) ∧
     (inside → reach → hdrOk hdr wc = true → exec qld s = s.goes { Plan.of .v c (lat 20)
         ((List.range 4).map fun q => .lanes (4 * v.toNat + q) (BitVec.allOnes 64)
           ((List.range 64).map fun l => BitVec.ofNat 32 (el (64 * q + l)).1)) with
       fp := orFlags ((List.range 256).map fun i => (el i).2) })) ∧
  (∀ (xs : List Nat) (n en had sel : Nat) (wc : Bool) (rm : Rm) (u : Nat → Nat) (neg : Bool) (m w : Nat) (e : Int) (m2 : Nat) (e2 : Int),
     xs.length = 256 → (∀ x ∈ xs, x < 2 ^ 32) → n ≤ 256 → 1 ≤ en → en < 16 → had < 4 → sel < 4 →
     let val (m : Nat) (e : Int) : ℚ := (m : ℚ) * 2 ^ e
     let mag (x : X) : ℚ := match x with
       | .fin _ m e => val m e
       | _ => 0
     let qmax (s : Nat) : ℚ := (if wc then [127, 448, 57344, 1] else [7, 6, 5 / 4, 1]).getD s 1
     let scale (c : Nat) : ℚ := if c < 256 then c / 2 ^ 134 else 2 ^ (((c / 256 : Nat) : Int) - 127) * (1 + ((c % 256 : Nat) : ℚ) / 256)
     let top := if wc then [127, 126, 123, 127].getD sel 0 else 7
     let half := if wc then 128 else 8
     let signed (k : Nat) := if k = 0 then 0 else if neg = false then k else if sel = 0 then 2 * half - k else half + k
     let grid (k : Nat) : ℚ := mag (decSel wc sel k)
     let y := val m e
     let rounded (w : Nat) := roundSel wc sel rm neg m e w
     let h := [0, 16, 64, 256].getD had 0
     let padded := xs.take n ++ List.replicate (256 - n) 0
     let step : List Nat × FpFlags := if h = 0 then (padded, 0) else hadBlock h (256 / h) padded
     let x (i : Nat) := dec32 (step.1.getD i 0)
     let all := ∀ i < 256, (x i).isFin = true
     let float := wc = true ∧ (en.testBit 1 = true ∨ en.testBit 2 = true)
     let C (s : Nat) := s < 4 ∧ en.testBit s = true ∧ (all ∨ ¬float ∨ s = 1 ∨ s = 2)
     let out := quant xs n wc en rm had u
     let header (f : Nat) := min 255 (256 - n) + f +
       256 * (f / 2 ^ 28 % 16 ^^^ f / 2 ^ 24 % 16 ^^^ f / 2 ^ 20 % 16 ^^^ f / 2 ^ 16 % 16 ^^^ f / 2 ^ 12 % 16)
     let before (a b : Nat) : Prop := (dec32 a).keyLt (dec32 b) = true
     (qmax sel ≤ y → rounded w = signed top) ∧
     (∀ k < top, grid k ≤ y → y < grid (k + 1) →
       (grid k = y → rounded w = signed k) ∧
       (grid k < y → rm ≠ .sr →
         let up : Prop := match rm with
           | .rne => grid (k + 1) - y < y - grid k ∨ grid (k + 1) - y = y - grid k ∧ k % 2 = 1
           | .rdn => neg = true
           | .rup => neg = false
           | _ => False
         (up → rounded w = signed (k + 1)) ∧ (¬up → rounded w = signed k)) ∧
       (grid k < y → rm = .sr → ∃ t, ∀ w, rounded w = if w / 256 < t then signed (k + 1) else signed k)) ∧
     (0 < m2 →
       let r := divMag m e m2 e2
       let q : ℚ := y / val m2 e2
       (r.1 % 2 = 0 → val r.1 r.2 = q) ∧ (r.1 % 2 = 1 → val (r.1 - 1) r.2 < q ∧ q < val (r.1 + 1) r.2) ∧ (0 < m → 2 ^ 96 ≤ r.1)) ∧
     ∃ (a : ℚ) (sc E : Nat → Nat) (code : Nat → Nat → Nat) (s : Nat),
       (∀ i < 256, mag (x i) ≤ a) ∧ (a = 0 ∨ ∃ i < 256, mag (x i) = a) ∧ C s ∧
       out.1 = header (sc s * 2 ^ 16 + s * 2 ^ 13 + if wc then 2 ^ 12 else 0) ∧
       out.2.1 = (List.range 256).map (code s) ∧
       (∀ t, C t →
         sc t ≤ 0xFEFF ∧ (∀ c < sc t, scale c * qmax t < a) ∧ (sc t ≠ 0xFEFF → a ≤ scale (sc t) * qmax t) ∧
         (∀ i < 256, ∀ neg m e, x i = .fin neg m e → ∀ z k f, scaleVal (sc t) = .fin z k f →
           let y : X := if sc t = 0 then .fin neg 0 0 else dec32 (rne32 (.fin neg (divMag m e k f).1 (divMag m e k f).2)).1
           ∃ b p q, y = .fin b p q ∧ code t i = roundSel wc t rm b p q (u i)) ∧
         (∀ i < 256, (x i).isFin = false → code t i = if wc = true ∧ (t = 1 ∨ t = 2)
           then (cvtF (x i) (if t = 1 then .e4m3 else .e5m2) .rne false 0).1 else 0) ∧
         E t = (treeSum 8 ((List.range 256).map fun i => if (x i).isFin = true then
           let r := (fsub (step.1.getD i 0) (rne32 ((decSel wc t (code t i)).mul (scaleVal (sc t))).1).1).1
           (fmul r r).1 else 0)).1 ∧
         ¬before (E t) (E s) ∧ (¬before (E s) (E t) → s ≤ t)) ∧
       ((∃ t, C t ∧ scale 0xFEFF * qmax t < a) ∨ wc = true ∧ C 1 ∧ (∃ i < 256, ∃ b, x i = .inf b) →
         out.2.2 = step.2 ||| 4 ||| if ¬all ∧ ¬float then 16 else 0) ∧
       (¬((∃ t, C t ∧ scale 0xFEFF * qmax t < a) ∨ wc = true ∧ C 1 ∧ (∃ i < 256, ∃ b, x i = .inf b)) →
         out.2.2 = step.2 ||| if ¬all ∧ ¬float then 16 else 0))

/-- R156: ZBIND refuses an unaligned or outlying descriptor, and one with a reserved field or element type, with QUEUE
and its address; it lands the descriptor with POS 0, bound. ZRST of a bound z lands POS 0. That LENT comes before the
descriptor's checks, and FADDR 0 of ZRST, are the model's choices (DESIGN CHOICE, log 46). R158: the scalar words of
the V stream, latency 2. R159: the control words of the V stream, issue + 1 scaling as a latency of 1 (DEDUCED, log
43); VLOOP decides from the decremented value, VBQ from the oldest entry of bv. -/
def Obligations.VectorScalarStreamAndControlWords : Prop :=
  (∀ (c : Ctl) (z : BitVec 3) (imm : BitVec 32) (s : State), s.core.clear c →
     let a := imm.toNat
     let x := leNat (s.getLs a 32)
     let legal := x / 2 ^ 29 % 2 ^ 35 = 0 ∧ x / 2 ^ 22 % 4 = 0 ∧ x / 2 ^ 24 % 16 ≤ 10 ∧ x / 2 ^ 112 % 2 ^ 16 = 0 ∧
       x / 2 ^ 224 % 2 ^ 32 = 0
     let slow := 0x100000 ≤ a
     let lat := ((2 + if slow then 4 else 0) * s.core.sv.div + 1) / 2
     let place := 0x301900 + 64 * z.toNat
     (a % 32 ≠ 0 ∨ 0x200000 ≤ a → exec (.zbind c z imm) s = s.faults .v (flt 0x0F a)) ∧
     (a % 32 = 0 → a < 0x200000 → slow → s.core.hot = false → exec (.zbind c z imm) s = s.faults .v (flt 0x06 a)) ∧
     (a % 32 = 0 → a < 0x200000 → (slow → s.core.hot = true) → ¬legal →
       exec (.zbind c z imm) s = s.faults .v (flt 0x0F a)) ∧
     (a % 32 = 0 → a < 0x200000 → (slow → s.core.hot = true) → legal → exec (.zbind c z imm) s =
       s.goes (.of .v c lat [.zstate place (leBytes 32 x ++ [0, 0, 0, 0, 1])])) ∧
     ((vget s.core.r.z z.toNat 0).getLsbD 288 = true → exec (.zrst c z) s =
       s.goes (.of .v c ((2 * s.core.sv.div + 1) / 2) [.zstate (place + 32) [0, 0, 0, 0]])) ∧
     ((vget s.core.r.z z.toNat 0).getLsbD 288 = false → exec (.zrst c z) s = s.faults .v (flt 0x0F))) ∧
  (∀ (c : Ctl) (d a b v : BitVec 4) (lane : BitVec 6) (imm : BitVec 32) (s : State), s.core.clear c →
     let l := (2 * s.core.sv.div + 1) / 2
     let x := s.core.xreg a
     let y := s.core.xreg b
     let lands (z : W64) := s.goes (.of .v c l [.xreg d.toNat z])
     let float (r : Nat × FpFlags) := s.goes { Plan.of .v c l [.xreg d.toNat (BitVec.ofNat 64 r.1)] with fp := r.2 }
     exec (.xli c d imm) s = lands (imm.signExtend 64) ∧
     exec (.xadd c d a b) s = lands (x + y) ∧
     exec (.xaddi c d a imm) s = lands (x + imm.signExtend 64) ∧
     exec (.xmul c d a b) s = lands (x * y) ∧
     exec (.xget c d v lane) s = lands (((vLanes s.core v).getD lane.toNat 0).setWidth 64) ∧
     exec (.xfadd c d a b) s = float (fadd (x.toNat % 2 ^ 32) (y.toNat % 2 ^ 32)) ∧
     exec (.xfmul c d a b) s = float (fmul (x.toNat % 2 ^ 32) (y.toNat % 2 ^ 32)) ∧
     (∀ e rest, s.core.dq .dv = e :: rest → exec (.xpop c d) s = s.goesWith (.of .v c l [.xreg d.toNat e.val]) fun k =>
       { k with q := { k.q with dq := vset k.q.dq 2 ((vget k.q.dq 2 []).drop 1) } }) ∧
     (s.core.dq .dv = [] → exec (.xpop c d) s = .next s) ∧
     ((s.core.dq .ya).length + vget s.core.q.dres 5 0 < 64 → exec (.xpush c a) s =
       s.goesWith (.of .v c l [.queue .ya x]) fun k =>
         { k with q := { k.q with dres := vset k.q.dres 5 (vget k.q.dres 5 0 + 1) } }) ∧
     (64 ≤ (s.core.dq .ya).length + vget s.core.q.dres 5 0 → exec (.xpush c a) s = .next s)) ∧
  (∀ (c : Ctl) (cc : Cond) (ne : Bool) (a b : BitVec 4) (k : BitVec 3) (off : BitVec 24) (s : State), s.core.clear c →
     let x := s.core.xreg a
     let taken (v : Bool) : Next := if v then .rel off else .seq
     let one := (s.core.sv.div + 1) / 2
     let goes (v : Bool) := s.goes { Plan.of .v c one [] with next := taken v }
     exec (.vloop c a off) s =
       s.goes { Plan.of .v c ((2 * s.core.sv.div + 1) / 2) [.xreg a.toNat (x - 1)] with next := taken (x != 1) } ∧
     exec (.vbr c cc a b off) s = goes (condHolds cc x (s.core.xreg b)) ∧
     exec (.vjmp c off) s = goes true ∧
     exec (.vbrf c ne k off) s = goes (if ne then s.core.kreg k != 0 else s.core.kreg k == 0) ∧
     (∀ e rest, s.core.dq .bv = e :: rest →
       exec (.vbq c off) s = s.goesWith { Plan.of .v c one [] with next := taken (e.val != 0) } fun y =>
         { y with q := { y.q with dq := vset y.q.dq 4 ((vget y.q.dq 4 []).drop 1) } }) ∧
     (s.core.dq .bv = [] → exec (.vbq c off) s = .next s))

/-- R19, R38, R163, R164, R335: at its boundary a stream without a word takes the eight bytes at its window's base
plus 8·PC, PC taken modulo the window's size, in supervisor mode the word of the code buffer; an illegal window raises
LOCAL_BOUNDS with the address; a stream that has its word, has raised a fault on this tick, or may not take one up,
passes. A stream takes its next word up at a boundary at which an earlier word still holds its issue back (DEDUCED,
log 63). -/
def Obligations.FetchTakesTheWordAtTheCounter : Prop :=
  ∀ (st : StreamId) (s : State), s.core.phase = .fetch st →
    let k := s.core
    let csr := (k.csr (match st with
      | .a => .codea
      | .m => .codem
      | .v => .codev)).toNat
    let base := csr % 2 ^ 22
    let size := csr / 2 ^ 32
    let pc := (k.stream st).pc.toNat
    let next : Phase := match st with
      | .a => .fetch .m
      | .m => .fetch .v
      | .v => .touch
    let valid := 1 ≤ size ∧ base % 8 = 0 ∧ base + 8 * size ≤ 0x100000
    let passes := k.turn st = false ∨ (k.stream st).word ≠ none ∨ ∃ x ∈ k.t.stops, x.st = some st
    let takes (pc : Nat) (w : W64) : Out := .next (s.onCore fun k =>
      { k.setStream st { k.stream st with pc := BitVec.ofNat 17 pc, word := some w } with phase := next })
    (passes → exec (.fetch st) s = .next (s.onCore fun k => { k with phase := next })) ∧
    (¬passes → k.inSup = true → exec (.fetch st) s = takes (pc % 1024) (k.r.sup.getD (pc % 1024) 0)) ∧
    (¬passes → k.inSup = false → ¬valid → exec (.fetch st) s =
      .next (s.onCore fun k => { k.raise st (flt 0x07 (base + 8 * pc)) with phase := next })) ∧
    (¬passes → k.inSup = false → valid → k.r.pres = [] → k.early = false →
      exec (.fetch st) s = takes (pc % size) (BitVec.ofNat 64 (leNat (s.getLs (base + 8 * (pc % size)) 8))))

/-- R48, R54: when the core whose move comes stands at the issue of a stream that has its word at its boundary, step
is exec of the decoded instruction, and the core goes on to the next stream (unless its job ended or its domain
froze); an undecodable word raises ILLEGAL_WORD. A word that an earlier one holds back (R52, R53, R269) waits, but for
the faults that its decoding raises (DEDUCED, log 63). The agenda is the model's own (log 2). -/
def Obligations.StepIssuesTheDecodedWord : Prop :=
  ∀ (s : State) (st : StreamId) (w : W64) (rest : List Move) (j : Job),
    s.agenda = .core s.cur :: rest → s.cur < 2048 → s.core.job = some j → j.phase = .running → s.core.t.pulls = [] →
    s.core.phase = .issue st → (s.core.inSup = true → st = .a) → s.core.t.pf = none → s.core.t.ret = false →
    s.barEnds = false → (s.core.stream st).joined = false → (s.core.stream st).bound = 0 →
    (s.core.stream st).word = some w →
    let s0 : State := { s with agenda := rest }
    let next : Phase := match st with
      | .a => .issue .m
      | .m => .issue .v
      | .v => .watchdog
    (∀ i t, decodeWord st w = .ok i → exec i s0 = .next t →
      ∃ c, step s = .next { t with core := c } ∧
        (t.core.runs = true → t.core.t.pulls = [] → ∃ b, c =
          { t.core.setStream st { t.core.stream st with stalled := b } with phase := next }) ∧
        (t.core.runs = false ∨ t.core.t.pulls ≠ [] → c = t.core)) ∧
    (s.core.held = true → ∀ i, decodeWord st w = .ok i → exec i s0 = .next s0 ∨ ∃ f, exec i s0 = s0.faults st f) ∧
    (∀ e, decodeWord st w = .error e → step s = .next (s0.onCore fun k => { k.raise st (flt 0x01) with phase := next }))

/-- R19, R20, R21, R52, R53, R96, R286, R313, R336: what the issue of a word changes, and that it changes nothing
else: its stream moves on, its tokens are popped and places reserved, ISSUED and SLICE count in user mode, and its
results enter the landing list; a word without a result, a flag or a signal to come that has landed when its stream
may issue again leaves no entry. -/
def Obligations.IssueMovesOneStreamOn : Prop :=
  ∀ (k : Core) (p : Plan),
    let t := k.issued p
    let x := k.stream p.st
    let size : Nat := if k.inSup then 1024 else (k.csr (codeCsr p.st)).toNat / 2 ^ 32
    let quiet := p.noEntry = true ∨ p.acts = [] ∧ p.fp = 0 ∧ p.sat = 0 ∧ p.ctl.sq = 0 ∧ p.lat ≤ x.div
    (∃ pc : BitVec 17, t.stream p.st = { x with pc := pc, word := none, hold := (1 + p.extra + (match p.next with
        | .seq => 0
        | _ => 1)) * x.div } ∧
      (0 < size → size ≤ 2 ^ 17 → pc.toNat = match p.next with
        | .seq => (x.pc.toNat + 1) % size
        | .rel off => (((x.pc.toNat : Int) + off.toInt) % (size : Int)).toNat
        | .abs n => n % size)) ∧
    (∀ st, st ≠ p.st → t.stream st = k.stream st) ∧
    (∀ q, 1 ≤ q → q < 10 → vget t.q.fifo q [] =
      if q = p.ctl.wq.toNat then (vget k.q.fifo q []).drop (p.ctl.wn.toNat + 1) else vget k.q.fifo q []) ∧
    (∀ q, 1 ≤ q → q < 10 → vget t.q.fres q 0 =
      vget k.q.fres q 0 + if q = p.ctl.sq.toNat then p.ctl.sn.toNat + 1 else 0) ∧
    t.q = { k.q with fifo := t.q.fifo, fres := t.q.fres } ∧
    (quiet → t.land = k.land) ∧
    (¬quiet → t.land = k.land ++ [{ st := p.st, rem := p.lat, age := 0, sq := p.ctl.sq, sn := p.ctl.sn, fp := p.fp,
                                    sat := p.sat, sup := k.inSup, fmt := p.fmt, acts := p.acts }]) ∧
    t.r = { k.r with csr := t.r.csr } ∧
    (∀ n, n ≠ .issued → n ≠ .slice → t.csr n = k.csr n) ∧
    (k.inSup = true → t.csr .issued = k.csr .issued ∧ t.csr .slice = k.csr .slice) ∧
    (k.inSup = false → t.csr .issued = k.csr .issued + 1 ∧
      t.csr .slice = if k.csr .slice = 0 then 0 else k.csr .slice - 1) ∧
    t.array = k.array ∧ t.cp = k.cp ∧ t.o = k.o ∧ t.t = k.t ∧ t.job = k.job ∧ t.phase = k.phase

/-- R161, R166, R340: a landing write of consecutive bytes of the scratchpad and the shade windows changes exactly the
cells they name, as every core sees them, and nothing else of the machine. R48, R78, R130, R171: LAND completes, with
every block present: the entries of the core's mode whose tick has come leave the list and land in its order, what
each writes before the next; then come the flags, those of groups completed on this tick among them; then MSATC, which
delivers the saturation flags as they then stand and clears them, also over a result of a word issued later for the
same register (DEDUCED, log 66); then the tokens; divisors that await a boundary come into force. A tick on which
nothing is due changes no register. An ATOM that an enforced log puts later holds the tick (R352; DEDUCED, log 13). -/
def Obligations.ResultsLandAndStoresChangeTheirBytesAlone : Prop :=
  (∀ (a : Nat) (data : List Byte) (s : State), a + data.length ≤ 0x200000 →
     let t := (s.landAct [] (.write a 1 0 data)).1
     (∀ n b i, b < 0x300000 → i < data.length → cell n b = cell s.cur (a + i) → t.getB n b = data.getD i 0) ∧
     (∀ n b, b < 0x300000 → (∀ i < data.length, cell n b ≠ cell s.cur (a + i)) → t.getB n b = s.getB n b) ∧
     (∀ n, ∃ m : Mem, t.getCore n = { s.getCore n with r := { (s.getCore n).r with sram := m } }) ∧
     t = { s with core := t.core, parked := t.parked }) ∧
  (∀ (s : State), s.core.phase = .land → s.core.r.pres = [] →
     let due := s.core.land.filter fun e => decide (e.rem = 0) && e.sup == s.core.inSup
     let s1 := s.onCore fun k => { k with land := s.core.land.filter fun e => !(decide (e.rem = 0) && e.sup == s.core.inSup) }
     let atom (a : LAct) : Prop := ∃ w op w64 ad b c, a = .atom w op w64 ad b c
     let acts := due.flatMap (·.acts)
     let after := acts.foldl (fun r a => ((r.1.landAct [] a).1, r.2 ||| (r.1.landAct [] a).2)) (s1, (0 : BitVec 2))
     let fp : FpFlags := due.foldl (fun f e => f ||| e.fp) s.core.cp.fpPend
     let sat := due.foldl (fun f e => f ||| e.sat) after.2
     let flags (k : Core) : Core := { (k.orFp fp).orSat sat with cp := { k.cp with fpPend := 0 } }
     let msatc (k : Core) : LAct → Core
       | .msatc dest =>
         let c := k.setCsr .satflags (k.csr .satflags &&& ~~~3)
         { c with r := { c.r with m := vset c.r.m ((dest - 0x301C00) / 4) ((k.csr .satflags &&& 3).setWidth 32) } }
       | _ => k
     let tokens (k : Core) (e : Land) : Core := k.pushTokens e.sq (e.sn.toNat + 1) { status := 0, faddr := 0, poff := none }
     let t := after.1.onCore fun k =>
       let c := (due.foldl tokens (acts.foldl msatc (flags k))).newDivs
       { c with phase := .fetch .a, t := { c.t with pullFail := [] } }
     (s.atomHeld due = false → exec .land s = .next t) ∧
     ((s.core.csr .replay).toNat / 2 ^ 62 = 0 ∨ (∀ e ∈ due, ∀ a ∈ e.acts, ¬atom a) → s.atomHeld due = false) ∧
     (s.atomHeld due = true → exec .land s = .next s) ∧
     (due = [] → s.core.cp.fpPend = 0 → t.core.r = s.core.r ∧ t.core.q = s.core.q ∧ t.core.land = s.core.land))

/-- R340: what the landing of a register result changes, and that it changes nothing else. R258, R262: a word's change
of a ring or a barrier cell appears in its view when it lands, as a difference (DESIGN CHOICE, log 38). R79, R80,
R132, R134, R335: s0 reads as zero, p0 as true and k0 as all ones, whatever is stored; a result for s0 lands and
writes nothing; in supervisor mode s56 to s63 name the shadow scalars. -/
def Obligations.RegisterResultsLandAndConstantsHold : Prop :=
  (∀ (n : Nat) (x : W64) (y : W32) (h : BitVec 256) (b : Bool) (m : W64) (l : List W32) (q : DqId) (d e : Ring) (g u : Bar)
     (s : State),
     let lands (a : LAct) := (s.landAct [] a).1
     let regs (r : Regs) : State := s.onCore fun k => { k with r := r }
     let r := s.core.r
     lands (.scalar n x) = regs { r with s := vset r.s n x } ∧
     lands (.shadow n x) = regs { r with sh := vset r.sh n x } ∧
     lands (.handle n h) = regs { r with h := vset r.h n h } ∧
     lands (.mreg n y) = regs { r with m := vset r.m n y } ∧
     lands (.xreg n x) = regs { r with x := vset r.x n x } ∧
     (∃ p : BitVec 8, lands (.pred n b) = regs { r with p := p } ∧
       ∀ i < 8, p.getLsbD i = if i = n then b else r.p.getLsbD i) ∧
     (∃ v : Vector W32 64, lands (.lanes n m l) = regs { r with v := vset r.v n v } ∧
       ∀ i < 64, vget v i 0 = if m.getLsbD i then l.getD i 0 else vget (vget r.v n (.replicate 64 0)) i 0) ∧
     (∃ z : W64, lands (.kbits n (some m) x) = regs { r with k := vset r.k n z } ∧
       ∀ i < 64, z.getLsbD i = if m.getLsbD i then x.getLsbD i else (vget r.k n 0).getLsbD i) ∧
     lands (.kbits n none x) = regs { r with k := vset r.k n x } ∧
     lands (.queue q x) = s.onCore (fun k => { k with q := { k.q with
       dq := vset k.q.dq q.no (vget k.q.dq q.no [] ++ [{ val := x, status := 0, faddr := 0 }]),
       dres := vset k.q.dres q.no (vget k.q.dres q.no 0 - 1) } }) ∧
     lands (.ringView n d) = s.onCore (fun k => { k with q := { k.q with
       ringV := vset k.q.ringV n ((vget k.q.ringV n .reset).plus d) } }) ∧
     lands (.barView n g) = s.onCore (fun k => { k with q := { k.q with
       barV := vset k.q.barV n ((vget k.q.barV n .reset).plus g) } }) ∧
     e.plus (d.minus e) = d ∧ u.plus (g.minus u) = g) ∧
  (∀ (k : Core) (n : BitVec 6) (x : W64),
     k.sreg 0 = 0 ∧ k.preg 0 = true ∧ k.kreg 0 = BitVec.allOnes 64 ∧ k.sWrite 0 x = [.discard] ∧
     (∀ s : State, (s.landAct [] LAct.discard).1 = s) ∧
     (n ≠ 0 → k.inSup = false ∨ n.toNat < 56 → k.sreg n = vget k.r.s n.toNat 0 ∧ k.sWrite n x = [.scalar n.toNat x]) ∧
     (k.inSup = true → 56 ≤ n.toNat → k.sreg n = vget k.r.sh (n.toNat - 56) 0 ∧ k.sWrite n x = [.shadow (n.toNat - 56) x]))

/-- R331, R334, R336, R337: taking a trap writes the EPCs, CAUSE, FADDR, FINFO and STATUS and sends the A stream to
the routine, whose place between two boundaries is kept for the return; causes that are lost and stand in no register
are raised again after it where they still hold: a stuck stream keeps its count, a message or a candidate its request;
the landing list, the registers and every other CSR keep their values. A word taken up and not issued is fetched again
after the return (DESIGN CHOICE, log 54). R333: of the causes present at a stop, a fault before issue comes first, in
stream order, then a cause after issue, then an async one by ascending code; one is always chosen, and it is among
them. -/
def Obligations.TakingATrapSavesTheStreams : Prop :=
  (∀ (k : Core) (x : Stop) (pf : Bool),
     let t := k.takeTrap x pf
     let epc (y : Stream) : W64 := BitVec.ofNat 64 (y.pc.toNat + if y.joined then 2 ^ 17 else 0)
     let stream : Nat := match x.st with
       | some .a => 0
       | some .m => 1
       | some .v => 2
       | none => 3
     let async := x.kind = .async
     t.csr .epca = epc k.sa ∧ t.csr .epcm = epc k.sm ∧ t.csr .epcv = epc k.sv ∧
     t.csr .cause = BitVec.ofNat 64 (x.code.toNat + stream * 2 ^ 8 + (if async then 2 ^ 10 else 0) + x.imm.toNat * 2 ^ 16) ∧
     t.csr .faddr = x.faddr ∧
     t.csr .finfo = BitVec.ofNat 64 ((match x.poff with
       | some p => p.toNat + 2 ^ 17
       | none => 0) + x.block.toNat * 2 ^ 20 + x.status.toNat * 2 ^ 32) ∧
     t.csr .status = BitVec.ofNat 64 (1 + (if async then 2 else 0) + if pf then 8 else 0) ∧
     t.inSup = true ∧
     t.sa.pc.toNat = (k.csr (if async then .savevec else .trapvec)).toNat % 1024 ∧ t.sa.joined = false ∧ t.sa.hold = 0 ∧
     t.sm = { k.sm with word := none } ∧ t.sv = { k.sv with word := none } ∧
     (∀ n, n ∉ ([.epca, .epcm, .epcv, .cause, .faddr, .finfo, .status] : List Csr) → t.csr n = k.csr n) ∧
     t.t.saved = (k.sa.bound, k.sa.hold, k.sa.stalled) ∧ t.t.stops = [] ∧ t.t.expired = false ∧
     t.t.preempt = (k.t.preempt && x.code ≠ 0x14) ∧
     t.t.stuck = (if x.code = 0x18 then 0 else if k.stuckTick then k.t.stuck + 1 else 0) ∧
     t.r = { k.r with csr := t.r.csr } ∧ t.land = k.land ∧ t.q = k.q ∧ t.cp = k.cp ∧ t.o = k.o ∧ t.array = k.array ∧
     t.job = k.job) ∧
  (∀ (l : List Stop),
     let before (x y : Stop) : Prop := match x.kind, y.kind with
       | .before, .before => (x.st.map streamNo).getD 3 ≤ (y.st.map streamNo).getD 3
       | .before, _ => True
       | .after, .before => False
       | .after, _ => True
       | .async, .async => x.code.toNat ≤ y.code.toNat
       | .async, _ => False
     (firstStop l = none ↔ l = []) ∧ ∀ x, firstStop l = some x → x ∈ l ∧ ∀ y ∈ l, before x y)

/-- R18 to R36: every well-formed word instruction has a word, and its eight bytes, first at the lowest address,
decode in its stream to it and leave the bytes after them. -/
def Obligations.EncodedWordsDecodeToTheirInstruction : Prop :=
  ∀ (i : Instr) (rest : List Byte), isWord i = true → wfError i = none →
    ∃ w, encode i = some w ∧ decodeBytes i.stream (leBytes 8 w.toNat ++ rest) = .ok (i, rest)

/-- R36: whatever a stream's map decodes is well-formed and belongs to that stream, and its encoding is the word read:
no bit of a word is ignored. -/
def Obligations.DecodedWordsEncodeBack : Prop :=
  ∀ (st : StreamId) (w : W64) (i : Instr), decodeWord st w = .ok i →
    encode i = some w ∧ i.stream = st ∧ isWord i = true ∧ (i.ctl?.isSome = true → wfError i = none)

/-- Words printed beside their instructions in chapters 2, 4 to 7, 9, 10 and 14: each decodes, in its stream, to the
instruction that its text names. -/
def Obligations.PrintedWordsDecode : Prop :=
  let k : Ctl := ⟨0, 0, 0, 0⟩
  decodeWord .a 0x0000000C10800000 = .ok (.add k 3 1 2) ∧
  decodeWord .a 0x00002C0841400002 = .ok (.cmp k .lt 2 4 5) ∧
  decodeWord .a 0x0000301052FFFFFD = .ok (.br k .lt 4 5 (-3)) ∧
  decodeWord .a 0x0000421420000010 = .ok (.ld32 k 5 2 16) ∧
  decodeWord .a 0x0000680031050019 = .ok (.atom k .cas true 3 4 5) ∧
  decodeWord .a 0x00005A1050030000 = .ok (.rwaitf k 4 5 3) ∧
  decodeWord .a 0x0000791C01830028 = .ok (.obwait k .ge 7 0 6 40) ∧
  decodeWord .a 0x00007021200E0900 = .ok (.copy k 2 1 8 0x03 8 0b001001 0) ∧
  decodeWord .a 0x0000810090A00000 = .ok (.csrw k 0 9 .debug) ∧
  decodeWord .a 0x0000F2000000002A = .ok (.trap .a k 0x2A) ∧
  decodeWord .m 0x1100104000001000 = .ok (.mli ⟨1, 1, 0, 0⟩ 2 0x1000) ∧
  decodeWord .m 0x0030060038000040 = .ok (.drain ⟨0, 0, 3, 0⟩ 0 3 4 64) ∧
  decodeWord .v 0x2050021002000000 = .ok (.vmul ⟨2, 0, 5, 0⟩ (.v 2) (.v 0) (.v 1) 0 .f) ∧
  decodeWord .v 0x0000300118000040 = .ok (.vld k 0 2 .bf16 0 0x40)

/-- R199, R204, R254, R263, R324, R365: after reset no message has been sent and station 0 holds the caravan; the
region counters are zero; every queue is empty, every ring invalid, every barrier cell zero; CAP is 2,200 W and no
tenant is enabled. These are values the rules give. That bring-up stands in stage 1, where the boot ROM waits, is the
model's reading of R365, whose table begins with stage 0 (DEDUCED, log 34). Register values that the model chose (log
3 to 6) are not stated. -/
def Obligations.ResetLeavesTheDeviceIdle : Prop :=
  ∀ (n : Nat),
    let k := State.reset.getCore n
    State.reset.erg.caravan = 0 ∧ State.reset.erg.log = [] ∧
    (∀ i, State.reset.station i = { queue := [], applied := 0, words := [], damaged := none }) ∧
    k.o.region = 0 ∧ k.job = none ∧ k.land = [] ∧ k.cp.cmds = [] ∧ k.cp.groups = [] ∧
    (∀ q : BitVec 4, k.tokens q = []) ∧ (∀ q : DqId, k.dq q = []) ∧
    (∀ i, (vget k.q.ring i .reset).valid = false) ∧
    (∀ i, vget k.q.bar i .reset = { posted := false, phase := false, pending := 0 }) ∧
    k.inSup = false ∧ k.r.pres = [] ∧ (∀ a, k.r.sram.get a = 0) ∧
    State.reset.pw.cap = 2200 ∧ State.reset.boot.stage = 1 ∧ (∀ t, (State.reset.tenant t).ten = false)

/-- The memories of the machine after reset are in canonical form (the form is the model's own). (Log 4.) -/
def Obligations.ResetMemoriesAreCanonical : Prop :=
 State.reset.Inv

/-- Every step keeps the memories in canonical form, whatever the agenda and the free moves (the form is the model's
own: equal memories are equal lists). (Log 2, 4.) -/
def Obligations.StepsKeepMemoriesCanonical : Prop :=
  ∀ (s t : State), s.Inv → step s = .next t → t.Inv

/-- R324 to R329: a sample publishes DRAW, IDLE and the tenants' draw, and what the sensors showed of heat and flow
(their places in a sample are the model's, log 41); what the sensors measured being attributed to those who used it
(DEDUCED, log 32); SCALED and UNATT follow the floors, CAP and IDLE; above the cap that is pursued at most one more
step of the ladder is taken, ten samples below 95 % of it undo one. How steps are counted and undone, and how notices
are coded, are the model's readings too (log 32). R320, R321, R323, R329: a hold ends with the new step; a change that
no phase mark took waits for a job boundary, where a cluster that runs no job stands already; a throttled cluster
stops and goes on; trips, parking, and the return at k = 0, each at its junction temperature or flow of 0.5 L/min (in
tenths here) as the latest sample measured it; these are steps of verified firmware (R13). The host hears of a low
flow. The return after a trip or a loss of flow, a hold that is under way then, and where in a tick a stopped clock
acts, are the model's readings (log 33, log 37). -/
def Obligations.PowerIsSampledAndClocksStep : Prop :=
  (∀ (draw idle inlet : Nat) (draws : List Nat) (s : State), draw < 4096 → idle < 4096 → 3 ≤ s.boot.stage.toNat →
     let cap := min 2400 s.pw.cap.toNat
     let goal := cap - 50 * (inlet - 40)
     ∃ t, exec (.powerSample draw idle inlet draws) s = .next t ∧
       t.pw.cap = s.pw.cap ∧ t.pw.draw.toNat = draw ∧ t.pw.idle.toNat = idle ∧ t.pw.inlet = inlet ∧
       (∀ i < 8, vget t.pw.junction i 0 = draws.getD (2184 + i) (vget s.pw.junction i 0)) ∧ t.pw.flow = draws.getD 2192 s.pw.flow ∧
       t.pw.unatt = decide (cap < idle) ∧
       t.pw.scaled = decide (cap < (s.ten.toList.map fun x => x.floor.toNat).sum) ∧
       (∀ i < 16, (vget t.ten i .reset).tdraw = BitVec.ofNat 12 (s.attributed (draws.take 2184) idle (BitVec.ofNat 4 i)) ∧
         (vget t.ten i .reset).floor = (vget s.ten i .reset).floor) ∧
       (s.pw.unatt = false → idle ≤ cap →
         (goal < draw → t.pw.below = 0 ∧ (t.pw.ladder = s.pw.ladder ∨ ∃ r, t.pw.ladder = r :: s.pw.ladder)) ∧
         (draw ≤ goal → 95 * goal ≤ 100 * draw → t.pw.below = 0 ∧ t.pw.ladder = s.pw.ladder) ∧
         (100 * draw < 95 * goal → t.pw.below = min 10 (s.pw.below + 1) ∧
           t.pw.ladder = if 9 ≤ s.pw.below then s.pw.ladder.tail else s.pw.ladder))) ∧
  (∀ (n : Nat) (k : BitVec 4) (s : State), n < 8 →
     let c := vget s.cl n .reset
     let becomes (x : Cluster) : Out := .next { s with cl := vset s.cl n x }
     let idle := ∀ p ∈ (s.cur, s.core) :: s.parked, p.1 / 256 = n → p.2.runs = false
     let up := 3 ≤ s.boot.stage.toNat
     let hot := vget s.pw.junction n 0
     let cold (x : Cluster) : Cluster := { x with k := 0, hold := x.hold.map fun _ => 0 }
     let z := vget s.erg.st 9 .reset
     let trip : Msg := { kind := 4, tenant := 0, word := 0, source := 9, arg := BitVec.ofNat 42 n, value := 16,
                         origin := none, rel := none, fn := none }
     (c.hold = some k → exec (.clockHoldEnd n) s = becomes { c with hold := none, k := k }) ∧
     (c.req = .pending k → idle → exec (.phaseTimeout n) s = becomes { c with req := .none, hold := some k }) ∧
     (c.req = .pending k → ¬idle → exec (.phaseTimeout n) s = becomes { c with req := .boundary k }) ∧
     exec (.throttlePeriod n) s = becomes { c with stopped := if c.g = 0 then false else !c.stopped } ∧
     (up → 105 ≤ hot → exec (.thermalTrip n) s = .next { s with
       cl := vset s.cl n { c with tripped := true },
       erg := { s.erg with st := vset s.erg.st 9 { z with queue := z.queue ++ [trip] } } }) ∧
     (up → hot < 95 → exec (.thermalTripRelease n) s = becomes { c with tripped := false }) ∧
     (∀ m : BitVec 3, up → m.toNat = n → 115 ≤ hot → exec (.park (.cluster m)) s = becomes { c with parked := true }) ∧
     (up → c.parked = true → hot < 100 → exec (.unpark n) s = becomes (cold { c with parked := false })) ∧
     (∀ m : BitVec 3, m.toNat = n → (hot < 105 → exec (.thermalTrip n) s = .next s) ∧
       (95 ≤ hot → exec (.thermalTripRelease n) s = becomes c) ∧ (hot < 115 → exec (.park (.cluster m)) s = becomes c) ∧
       (100 ≤ hot → exec (.unpark n) s = becomes c)) ∧
     (5 ≤ s.pw.flow → exec (.park .flow) s = .next s) ∧ (s.pw.flow < 5 → exec .flowRestored s = .next s) ∧
     (up → s.boot.flowLow = false → s.pw.flow < 5 → exec (.park .flow) s = .next { s with
       boot := { s.boot with flowLow := true }, ril := s.ril ++ [.lowFlow] }) ∧
     (s.boot.flowLow = true → 5 ≤ s.pw.flow → ∃ v : Vector Cluster 8, (∀ i < 8, vget v i .reset = cold (vget s.cl i .reset)) ∧
       exec .flowRestored s = .next { s with boot := { s.boot with flowLow := false }, cl := v }))

/-- R360, R362: a flit whose tag holds uses the next counter value and ends a run of failures; a failing one counts in
RETRIES, the sixteenth in a row taking the link down; KEYLOW, key hold, of which the Rilosteg hears and in which no
value is used, the new key and the end of a held link. That a flit received stands for one sent as well is the model's
reading (log 35). -/
def Obligations.LinksCountFlitsAndChangeKeys : Prop :=
  ∀ (n : Nat) (s : State), n < 24 →
    let l := vget s.links n .reset
    let becomes (i : Instr) (x : Link) := ∃ t, exec i s = .next t ∧ t.links = vset s.links n x ∧
      (x.state = l.state → (∀ y ∈ s.ten.toList, y.evwait = []) → t = { s with links := vset s.links n x })
    let ctr : BitVec 40 := if l.ctr.toNat < 2 ^ 40 - 1 then l.ctr + 1 else l.ctr
    let retries : BitVec 8 := if l.retries = 255 then 255 else l.retries + 1
    (l.state = 2 →
      becomes (.flitReceive n true) { l with ctr := ctr, bad := 0 } ∧
      becomes (.flitReceive n false) { l with ctr := ctr, bad := l.bad + 1, retries := retries,
                                              state := if 15 ≤ l.bad then 0 else 2 }) ∧
    (l.state = 3 →
      becomes (.flitReceive n true) { l with bad := 0 } ∧
      becomes (.flitReceive n false) { l with bad := l.bad + 1, retries := retries,
                                              state := if 15 ≤ l.bad then 0 else 3 }) ∧
    (2 ≤ l.state.toNat →
      becomes (.keyFlit n false) { l with keys := l.keys + 1 } ∧
      becomes (.keyFlit n true) { l with ctr := 0, keylow := false, state := 2, keys := 0 }) ∧
    (2 ^ 39 ≤ l.ctr.toNat → becomes (.keylow n) { l with keylow := true }) ∧
    (l.state = 2 → l.ctr.toNat = 2 ^ 40 - 1 → becomes (.keyHold n) { l with state := 3 } ∧
      ∀ t, exec (.keyHold n) s = .next t → t.ril = s.ril ++ [.keyHold n]) ∧
    (l.state = 3 ∨ 16 ≤ l.bad → becomes (.linkDown n) { l with state := 0 })

/-- R363 to R365, R371: the stages of bring-up in their order, each ending with its error code or the next stage,
stage 4 with 0x20 and the number of the first link that fails; the checks of a signed image; RESET leaves host memory
and the peers alone. Signatures and digests are opaque (log 8); an illegal DOMAIN, link errors and what RESET leaves
are the model's readings (log 18, 34, 36). -/
def Obligations.BringUpRunsItsStages : Prop :=
  ∀ (readable : Bool) (hops : List Nat) (n : Nat) (key : BitVec 256) (s : State),
    let b := s.boot
    let stands (k : Nat) := b.stage.toNat = k ∧ (b.err = 0 ∨ 0x20 ≤ b.err.toNat ∧ b.err.toNat < 0x38)
    let becomes (x : Boot) : Out := .next { s with boot := x }
    let check (img : List Byte) := if Config.ecdsaOk img = false then 2 else if Config.lmsOk img = false then 3
      else if Config.imageVersion img < Config.fusedVersion then 4 else 0
    let img := s.host.getN b.addr.toNat b.len.toNat
    let e := if readable = false ∨ 0x400000 < b.len.toNat then 1 else check img
    let x := vget s.ten n .reset
    let fails (i : Nat) := linkUsed b.domain i = true ∧ ¬(1 ≤ hops.getD i 0 ∧ hops.getD i 0 ≤ 32)
    (stands 2 → exec (.firmwareVerify readable) s = becomes (if e = 0 then
        { b with stage := 3, fwDigest := Config.sha384 img, ids := Config.identity (Config.sha384 img) }
      else { b with err := BitVec.ofNat 8 e })) ∧
    (stands 3 → exec (.hbmTraining none) s = becomes { b with stage := 4 } ∧
      ∀ k : BitVec 3, exec (.hbmTraining (some k)) s = becomes { b with err := BitVec.ofNat 8 (0x10 + k.toNat) }) ∧
    (stands 4 → (∀ l ∈ s.links.toList, l.state ≠ 1) → ∃ t, exec (.linkTraining hops) s = .next t ∧ t.boot = b ∧
      ∀ i < 24, vget t.links i .reset =
        if linkUsed b.domain i then { vget s.links i .reset with state := 1 } else vget s.links i .reset) ∧
    (stands 4 → (∃ l ∈ s.links.toList, l.state = 1) → ∃ t, exec (.linkTraining hops) s = .next t ∧ t.boot.stage = 5 ∧
      t.boot.trained = (if domainOk b.domain then b.domain else 0x122) ∧
      (∀ i < 24, fails i → (∀ j < i, ¬fails j) → t.boot.err = BitVec.ofNat 8 (0x20 + i)) ∧
      ((∀ i < 24, ¬fails i) → t.boot.err = b.err) ∧
      ∀ i < 24, let l := vget t.links i .reset
        (linkUsed b.domain i = true → 1 ≤ hops.getD i 0 → hops.getD i 0 ≤ 32 →
          l.state = 2 ∧ l.hopns.toNat = hops.getD i 0 ∧ l.ctr = 0) ∧
        (linkUsed b.domain i = false ∨ hops.getD i 0 = 0 ∨ 32 < hops.getD i 0 → l.state = 0 ∧ l.hopns = 0)) ∧
    (stands 5 → exec (.ergCalibration none) s = .next { s with
        boot := { b with stage := 6 }, erg := { s.erg with caravan := 0 } } ∧
      ∀ k : BitVec 4, exec (.ergCalibration (some k)) s = becomes { b with err := BitVec.ofNat 8 (0x40 + k.toNat) }) ∧
    (stands 6 → exec .capabilityPublish s = becomes { b with caps := true }) ∧
    (n < 16 → 3 ≤ b.stage.toNat →
      exec (.spdmKeyExchange n key) s = .next { s with ten := vset s.ten n { x with ide := some key } } ∧
      (∀ c, s.routine (BitVec.ofNat 4 n) = .error c →
        exec (.routineImageCheck n) s = .next { s with ten := vset s.ten n { x with imgOk := false } }) ∧
      (∀ w, s.routine (BitVec.ofNat 4 n) = .ok w → exec (.routineImageCheck n) s = .next { s with
        ten := vset s.ten n { x with imgOk := decide (check (w.flatMap fun w => leBytes 8 w.toNat) = 0) } })) ∧
    (3 ≤ b.stage.toNat → ∃ r,
      let report := [Config.romDigest, b.fwDigest] ++ r ++ [Config.sha384 (s.expo.toList.flatMap fun e =>
        leBytes 8 e.w0.toNat ++ leBytes 8 e.base.toNat ++ leBytes 8 e.limit.toNat ++ leBytes 8 e.key.toNat)]
      exec (.getMeasurements 0) s = becomes { b with report := report, sigs := Config.signed b.fwDigest report }) ∧
    (b.stage.toNat < 3 → exec (.getMeasurements 0) s = .next s ∧ exec (.spdmKeyExchange n key) s = .next s ∧
      exec (.routineImageCheck n) s = .next s) ∧
    exec .reset s = .next { State.reset with agenda := s.agenda, free := s.free, host := s.host, peers := s.peers }

/-- R274, R328, R353 to R357: what a host's writes do to the registers of a function's page; a misaligned write, one
of another size, or one of another function in a range of the physical function changes nothing; a write of the event
ring's control acts on OVF, EVEN and EVLOG2 together; a read of 4 bytes is a half of its 8, another size reads as
zero. Some effects of host writes are the model's readings (log 31). R267, R355, R366: setting TEN sends 1,024 PUTs of
zero from station 9, clearing it ends the tenant's jobs, running or saved; neither acts on a buddy, and TEN is not set
before the firmware has been verified. The moment at which TEN is set is the model's reading (log 28). -/
def Obligations.HostWritesAndTenants : Prop :=
  (∀ (fn off size i : Nat) (v : W64) (w : W32) (s : State), fn < 16 → i < 16 →
     let x := vget s.ten fn .reset
     let y := vget s.ten i .reset
     let becomes (x : Tenant) : Out := .next { s with ten := vset s.ten fn x }
     let hi := x.reqHi.toNat
     let kind := hi / 2 ^ 60 % 16
     let m : Msg := { kind := BitVec.ofNat 4 kind, tenant := BitVec.ofNat 4 (if fn = 0 then hi / 2 ^ 56 else fn),
                      word := BitVec.ofNat 10 (hi / 2 ^ 46), source := 8, arg := BitVec.ofNat 42 hi, value := x.reqLo,
                      origin := none, rel := none, fn := some (BitVec.ofNat 4 fn) }
     let allowed := (kind = 0 ∨ kind = 3 ∨ fn = 0 ∧ (kind = 5 ∨ kind = 6)) ∧ (vget s.ten m.tenant.toNat .reset).ten = true
     let z := vget s.erg.st 8 .reset
     let starts (w : W32) := w.getLsbD 4 = true ∧ x.even = false
     let control (w : W32) : Tenant := { x with
       ovf := x.ovf && !w.getLsbD 5, even := w.getLsbD 4, evlog2 := w.setWidth 4,
       evtail := if starts w then 0 else x.evtail, evhead := if starts w then 0 else x.evhead }
     (size ≠ 4 ∧ size ≠ 8 ∨ off % size ≠ 0 ∨ 0x10000 ≤ off → exec (.registerWrite fn off size v) s = .next s) ∧
     exec (.registerWrite fn 0x40 8 v) s = becomes { x with reqLo := v } ∧
     exec (.registerWrite fn 0x48 8 v) s = becomes { x with reqHi := v } ∧
     (∃ r : W64, r.toNat = v.toNat % 2 ^ 32 + x.reqLo.toNat / 2 ^ 32 * 2 ^ 32 ∧
       exec (.registerWrite fn 0x40 4 v) s = becomes { x with reqLo := r }) ∧
     exec (.registerWrite fn 0x94 4 v) s = becomes { x with evhead := v.setWidth 32 } ∧
     (fn ≠ 0 → exec (.registerWrite fn 0x900 4 v) s = .next s) ∧
     exec (.registerWrite 0 0x900 4 v) s = .next { s with pw := { s.pw with cap := v.setWidth 12 } } ∧
     exec (.registerWrite 0 (0x800 + 4 * i) 4 v) s = .next { s with ten := vset s.ten i { y with weight := v.setWidth 8 } } ∧
     exec (.registerWrite 0 (0x940 + 4 * i) 4 v) s = .next { s with ten := vset s.ten i { y with floor := v.setWidth 12 } } ∧
     exec (.hostWriteOneToClear fn 0x58 v) s = becomes { x with refused := x.refused && !v.getLsbD 62 } ∧
     exec (.hostWriteOneToClear fn 0x88 v) s = becomes (control (v.setWidth 32)) ∧
     (∃ t, exec (.hostWriteOneToClear fn 0xA00 v) s = .next t ∧
       t.ten = vset s.ten fn { x with note := x.note &&& ~~~(v.setWidth 32 &&& 0x1F) }) ∧
     (x.busy = true ∨ ¬allowed → exec (.doorbell fn) s = becomes { x with refused := true }) ∧
     (x.busy = false → allowed → exec (.doorbell fn) s = .next { s with
       ten := vset s.ten fn { x with busy := true, refused := false },
       erg := { s.erg with st := vset s.erg.st 8 { z with queue := z.queue ++ [m] } } }) ∧
     exec (.eventRingEnable fn w) s = becomes (control w) ∧
     (size ≠ 4 ∧ size ≠ 8 ∨ off % size ≠ 0 ∨ 0x10000 ≤ off → s.hostRead fn off size = 0) ∧
     (off < 0x10000 → off % 8 = 0 → s.hostRead fn off 4 = s.hostRead fn off 8 % 2 ^ 32 ∧
       s.hostRead fn (off + 4) 4 = s.hostRead fn off 8 / 2 ^ 32 % 2 ^ 32)) ∧
  (∀ (n : Nat) (s : State), n < 16 →
     let tn := BitVec.ofNat 4 n
     let x := vget s.ten n .reset
     let z := vget s.erg.st 9 .reset
     let zero (w : Nat) : Msg := { kind := 0, tenant := tn, word := BitVec.ofNat 10 w, source := 9, arg := 0, value := 0,
                                   origin := none, rel := none, fn := none }
     (s.boot.stage.toNat < 3 → exec (.tenantCreate n) s = .next s) ∧
     (s.ck.recv = true → exec (.tenantCreate n) s = .next s ∧ exec (.tenantDisable n) s = .next s) ∧
     (3 ≤ s.boot.stage.toNat → s.ck.recv = false → x.ten = false → (∀ m ∈ z.queue, ¬(m.kind = 0 ∧ m.source = 9 ∧ m.tenant = tn)) →
       exec (.tenantCreate n) s = .next { s with
         ten := vset s.ten n { x with msgs := 0, creds := 0 },
         erg := { s.erg with st := vset s.erg.st 9 { z with queue := z.queue ++ (List.range 1024).map zero } } }) ∧
     (s.ck.recv = false → x.ten = true → (∀ p ∈ s.parked, p.1 ≠ s.cur) → ∃ t, exec (.tenantDisable n) s = .next t ∧
       (vget t.ten n .reset).ten = false ∧
       t.dist.pre = s.dist.pre.filter (fun p => p.job.tenant ≠ tn) ∧
       ∀ j, s.core.job = some j → j.tenant = tn → j.phase = .running →
         ∃ r, t.core.job = some { j with rk := r, phase := .ending true false }))

/-- R353, R355: an access through the aperture acts at APBASE plus its offset; a read and an atomic answer the bytes
found there, a failing access a fault event that names its grain (the model's choice, log 29) and ones; a read
refreshes what the atomic units cache and counts the grains it moves (R182, R324), and changes nothing else; an access
that meets a link in key hold waits (R362). R366: a checkpoint is refused while a job runs or a tenant is not held,
without its four links, or without CKRECV at the buddy, and ignored before the firmware has been verified; a full one
copies the memory with its poison marks and starts the dirty log, an incremental one copies the marked granules; a
copied grain keeps no tag but WRITER 0xFFF; its end clears BUSY, gives STAT and posts an event; behind a link in key
hold the copies wait (R362). A package whose CKRECV is set receives every mappable granule of the package below it.
That all of it is settled at the start, or at the end where links are held, and how another package's host acts, are
the model's readings (log 28, 30). -/
def Obligations.ApertureAndCheckpoints : Prop :=
  (∀ (fn off n : Nat) (bytes : List Byte) (op : AtomOp) (w64 : Bool) (b cmp : W64) (s : State),
     fn < 16 → 1 ≤ n → bytes.length = n → off + n ≤ 2 ^ 36 →
     let tn := BitVec.ofNat 4 fn
     let a := (vget s.ten fn .reset).apbase.toNat + off
     let grain (acc : Acc) (g : Nat) := s.grainOf (s.tenantCtx tn 129) acc 2 0 g none
     let found (g : Nat) := s.readGrain (grain .read g)
     let fails (s : State) (e : BitVec 8) (g : Nat) := s.faultEvent tn e 0 (BitVec.ofNat 64 (64 * g)) 0
     let answers (t : State) (l : List Byte) (ep : Bool) : Out := .next { t with answer := { data := l, ep := ep } }
     let last := (a + n - 1) / 64
     let k := if w64 then 8 else 4
     let x := grain .atomic (a / 64)
     let old := ((s.readGrain x).drop (a % 64)).take k
     let meets (acc : Acc) := ∃ g, a / 64 ≤ g ∧ g ≤ last ∧ (grain acc g).held = true
     let held := meets .read
     let barred := meets .write
     let moved (t : State) := ∃ c m, t = { s with cache := c, ten := m } ∧
       ∀ i < 16, ∃ k, vget m i .reset = { vget s.ten i .reset with moved := k }
     (held → exec (.apertureRead fn off n) s = .next s) ∧ (barred → exec (.apertureWrite fn off bytes) s = .next s) ∧
     (n = k → off % k = 0 → x.held = true → exec (.apertureAtomic fn off op w64 b cmp) s = .next s) ∧
     (¬held → (∀ g, a / 64 ≤ g → g ≤ last → ∀ p ∈ found g, p.1 = 0) →
       ∃ t, moved t ∧ exec (.apertureRead fn off n) s =
         answers t ((List.range n).map fun i => ((found ((a + i) / 64)).getD ((a + i) % 64) (0, 0)).2) false) ∧
     (¬held → ∀ g p, a / 64 ≤ g → g ≤ last → (∀ h, a / 64 ≤ h → h < g → ∀ q ∈ found h, q.1 = 0) →
       (found g).find? (fun q => q.1 ≠ 0) = some p →
       ∃ t, moved t ∧
         exec (.apertureRead fn off n) s = answers (fails t p.1 g) (List.replicate n 255) (decide (p.1 = 0x0C))) ∧
     (¬barred → (∀ g, a / 64 ≤ g → g ≤ last → ∀ e ∈ (grain .write g).stat, e = 0) → ∀ t,
       s.virtWrite (s.tenantCtx tn 129) a bytes = .ok t → exec (.apertureWrite fn off bytes) s = .next t) ∧
     (¬barred → ∀ g e, a / 64 ≤ g → g ≤ last → (∀ h, a / 64 ≤ h → h < g → ∀ q ∈ (grain .write h).stat, q = 0) →
       (grain .write g).stat.find? (fun q => q ≠ 0) = some e →
       exec (.apertureWrite fn off bytes) s = .next (fails s e g)) ∧
     (n = k → off % k = 0 → x.held = false → op = .swap ∨ op = .add ∨ op = .cas →
       ((∀ p ∈ old, p.1 = 0) → ∃ t, exec (.apertureAtomic fn off op w64 b cmp) s = .next t ∧
         t.answer = { data := leBytes k (leNat (old.map (·.2))), ep := false } ∧
         let new := leBytes k (atomNew op (8 * k) (leNat (old.map (·.2))) b.toNat cmp.toNat)
         (s.Inv → x.leaf = none → ∀ i < k, (x.home = .host → t.host.get (64 * x.num + a % 64 + i) = new.getD i 0) ∧
           (x.home = .dev → t.mem.get (64 * x.num + a % 64 + i) = new.getD i 0))) ∧
       (∀ p, old.find? (fun q => q.1 ≠ 0) = some p → ∃ t, moved t ∧ exec (.apertureAtomic fn off op w64 b cmp) s =
         answers (fails t p.1 (a / 64)) (List.replicate k 255) (decide (p.1 = 0x0C))))) ∧
  (∀ (status w : Nat) (v : W64) (s : State),
     let b := s.buddy
     let r : BitVec 8 := if s.quiet = false then 1 else if s.buddyLinked = false then 3 else if (s.peer b).recv = false then 2 else 0
     let refused (cmd : BitVec 2) : Out := .next { s with ck := { s.ck with cmd := cmd, busy := true, outcome := r, pages := 0 } }
     let waits (cmd : BitVec 2) : Out :=
       .next { s with ck := { s.ck with cmd := cmd, busy := true, outcome := 0, pages := 0, todo := true } }
     let all (t : State) := (t.peer b).mem = s.mem ∧ (t.peer b).poison = s.poison ∧ (t.peer b).tags = [] ∧ t.mem = s.mem ∧
       ∀ k, k ≠ b → t.peer k = s.peer k
     let marked (t : State) := s.Inv →
       (∀ a, (t.peer b).mem.get a = if a / 65536 ∈ s.ck.dirty then s.mem.get a else (s.peer b).mem.get a) ∧
       (∀ x ∈ (t.peer b).tags, x.grain / 1024 ∉ s.ck.dirty) ∧ t.mem = s.mem ∧ ∀ k, k ≠ b → t.peer k = s.peer k
     let down := status = 3 ∨ s.ck.todo = true ∧ s.buddyLinked = false
     let st : BitVec 8 := if s.ck.outcome ≠ 0 then s.ck.outcome else if down then 3 else 0
     let ends (t : State) : Out := .next
       (({ t with ck := { t.ck with busy := false, stat := st, outcome := 0, todo := false } } : State).event 0 6 st.toNat 0
         (BitVec.ofNat 64 t.ck.pages) 0)
     let above := 16 + s.ward
     let up := domZ s.boot.trained ≠ 1 ∧ ∀ d < 4, (vget s.links (6 * d + 5) Link.reset).state = 2
     (s.ck.busy = true ∨ s.boot.stage.toNat < 3 → exec .checkpointFull s = .next s ∧ exec .checkpointIncremental s = .next s) ∧
     (s.ck.busy = false → 3 ≤ s.boot.stage.toNat → r ≠ 0 → exec .checkpointFull s = refused 1 ∧ exec .checkpointIncremental s = refused 2) ∧
     (s.ck.busy = false → 3 ≤ s.boot.stage.toNat → r = 0 → s.buddyHeld = true →
       exec .checkpointFull s = waits 1 ∧ exec .checkpointIncremental s = waits 2) ∧
     (s.ck.busy = false → 3 ≤ s.boot.stage.toNat → r = 0 → s.buddyHeld = false → ∃ t, exec .checkpointFull s = .next t ∧ all t ∧
       t.ck = { s.ck with cmd := 1, busy := true, outcome := 0, pages := 8 * 0x86100, logging := true, dirty := [], todo := false }) ∧
     (s.ck.busy = false → 3 ≤ s.boot.stage.toNat → r = 0 → s.buddyHeld = false → ∃ t, exec .checkpointIncremental s = .next t ∧
       marked t ∧ t.ck = { s.ck with cmd := 2, busy := true, outcome := 0, pages := s.ck.dirty.length, dirty := [], todo := false }) ∧
     (s.ck.busy = true → s.ck.todo = false ∨ down → exec (.checkpointEnd status) s = ends s) ∧
     (s.ck.busy = true → s.ck.todo = true → ¬down → s.buddyHeld = true → exec (.checkpointEnd status) s = .next s) ∧
     (s.ck.busy = true → s.ck.todo = true → ¬down → s.buddyHeld = false → ∃ t, exec (.checkpointEnd status) s = ends t ∧
       (s.ck.cmd = 1 → all t ∧ t.ck.pages = 8 * 0x86100 ∧ t.ck.logging = true) ∧
       (s.ck.cmd ≠ 1 → marked t ∧ t.ck.pages = s.ck.dirty.length) ∧ t.ck.dirty = []) ∧
     (s.ck.recv = false → exec (.registerWrite (16 + w) 0x6000 8 v) s = .next s) ∧
     exec (.registerWrite (16 + w) 0x6010 8 v) s =
       .next { s with peers := alSet s.peers w { s.peer w with recv := v.getLsbD 0 } } ∧
     (s.ck.recv = true → up → s.Inv → ∃ t, exec (.registerWrite above 0x6000 8 1) s = .next t ∧ t.peers = s.peers ∧
       ∀ a, t.mem.get a = if a / 65536 / 2 ^ 20 < 8 ∧ a / 65536 % 2 ^ 20 < 0x86100 then (s.peer s.ward).mem.get a else s.mem.get a))

/-- R263, R264: from stage 6 on the station that holds the caravan sends up to four messages, oldest first, and passes
it on; each takes the next place in the log. Messages that no job sent wait for nothing. R199, R266, R267, R269, R276,
R287, R301, R319, R322, R329: the next message of the log raises a station's applied prefix by one and does there what
its kind says, and to no other station's replica anything; a SHOOTDOWN also ends the unfinished walks of commands that
it matches, and marks those whose page may yet prove to be a larger one that it is in; an ADD whose old value goes
into a log behind a link in key hold waits (R362). That a tripped cluster takes no clock request is the model's
reading (log 33). R200, R267, R269: a barrier wait ends once the word at the prefix the tick sees has reached its
target, an acquire there that adds nothing to the region counter; in supervisor mode that is the routine's own wait; a
damaged word of a replica holds the station until the Rilosteg, once its firmware has been verified, repairs it with
the value the log gives it. The tick on which a wait is judged, the routine's wait, and the repairing value, are the
model's readings (log 23, 37, 58). -/
def Obligations.StationsTransmitAndApplyMessages : Prop :=
  (∀ (s : State), 6 ≤ s.boot.stage.toNat → s.erg.caravan < 10 →
     let n := s.erg.caravan
     let z := vget s.erg.st n .reset
     ∃ t l, exec .transmit s = .next t ∧ t.erg.caravan = (n + 1) % 10 ∧ t.erg.log = s.erg.log ++ l ∧ l.length ≤ 4 ∧
       (∀ m ∈ l, m ∈ z.queue) ∧
       (∀ i, i < 10 → i ≠ n → vget t.erg.st i .reset = vget s.erg.st i .reset) ∧
       ((∀ m ∈ z.queue, m.origin = none) → l = z.queue.take 4 ∧
         vget t.erg.st n .reset = { z with queue := z.queue.drop 4 })) ∧
  (∀ (n : Nat) (m : Msg) (s : State), n < 10 → (vget s.erg.st n .reset).damaged = none →
     s.erg.log[(vget s.erg.st n .reset).applied]? = some m →
     let key (t : BitVec 4) (w : BitVec 10) := t.toNat * 1024 + w.toNat
     let word (s : State) (k : Nat) : W64 := alGet 0 (vget s.erg.st n .reset).words k
     let old := word s (key m.tenant m.word)
     let v := m.value
     let j := m.arg.toNat % 2 ^ 32
     let applies (i : Instr) (x : W64) (eff : State → Prop) := ∃ t, exec i s = .next t ∧
       (vget t.erg.st n .reset).applied = (vget s.erg.st n .reset).applied + 1 ∧
       word t (key m.tenant m.word) = x ∧ (∀ k, k ≠ key m.tenant m.word → word t k = word s k) ∧
       (∀ i, i ≠ n → vget t.erg.st i .reset = vget s.erg.st i .reset) ∧ t.erg.log = s.erg.log ∧ eff t
     let here (eng : Nat) := if n = 8 then eng = 128 else eng / 16 = n ∧ eng < 128
     let cut (e : TlbEnt) := m.arg.getLsbD 0 = true ∨ e.win = false ∧
       e.key = if e.big then v.toNat / 2 ^ 24 % 2 ^ 24 else v.toNat / 2 ^ 16 % 2 ^ 32
     let c := vget s.cl n .reset
     let x := vget s.ten m.tenant.toNat .reset
     let q := v.toNat % 2 ^ 32 / 2 ^ 29
     let y := vget x.q q .reset
     (m.kind = 0 → applies (.ergPut n) v fun _ => True) ∧
     (m.kind = 1 → s.addHeld n = true → exec (.ergAdd n) s = .next s) ∧
     (m.kind = 1 → s.addHeld n = false → applies (.ergAdd n) (old + v) fun t =>
       ∀ k, m.origin = some k → m.source.toNat = n → (t.getCore k).o.replies =
         (s.getCore k).o.replies ++ [(old, (vget s.erg.st n .reset).applied + 1)]) ∧
     (m.kind = 2 → applies (.ergBar n) (old + 1) fun t =>
       ∀ k, m.origin = some k → m.source.toNat = n →
         let fixed : BarWait := { word := m.word, target := some (BitVec.ofNat 64 (((old + 1).toNat + j - 1) / j * j)) }
         ((s.getCore k).o.barw = some { word := m.word, target := none } → (t.getCore k).o.barw = some fixed) ∧
         ((s.getCore k).o.sbarw = some { word := m.word, target := none } → (t.getCore k).o.sbarw = some fixed)) ∧
     (m.kind = 3 → applies (.shootdown n) old fun t =>
       (∀ e, e ∈ t.tlb ↔ e ∈ s.tlb ∧ ¬(here e.eng ∧ e.tenant = m.tenant ∧ cut e)) ∧
       ∀ k < 2048, k / 256 = n → ∀ a ∈ (t.getCore k).cp.act, ∀ p ∈ a.took,
         p.2.left = 0 ∨ ¬(p.2.tenant = m.tenant ∧ cut p.2) ∧
           (p.2.tenant = m.tenant → p.2.win = false → 2 ≤ p.2.left → p.2.key / 256 = v.toNat / 2 ^ 24 % 2 ^ 24 → p.2.stale = true)) ∧
     (m.kind = 4 → n < 8 → applies (.clock n) old fun t =>
       t.cl = if m.arg.toNat % 8 ≠ n then s.cl
         else if v.getLsbD 4 then vset s.cl n { c with hold := some (v.setWidth 4), req := .none }
         else if c.tripped then s.cl else vset s.cl n { c with req := .pending (v.setWidth 4) }) ∧
     (m.kind = 5 → applies (.preempt n) old fun t =>
       (n = 8 → t.ten = vset s.ten m.tenant.toNat { x with held := if v.getLsbD 9 then false else x.held || v.getLsbD 8 }) ∧
       (n < 8 → v.getLsbD 9 = false → v.getLsbD n = true → ∀ k, k / 256 = n →
         (s.getCore k).runs = true → (s.getCore k).tenant = m.tenant → (t.getCore k).t.preempt = true) ∧
       (v.getLsbD 9 = true ∨ n < 8 ∧ v.getLsbD n = false → ∀ k, t.getCore k = s.getCore k)) ∧
     (m.kind = 6 → applies (.config n) old fun _ => True) ∧
     (m.kind = 7 → applies (.jobend n) old fun t =>
       (n ≠ 8 ∨ m.arg.getLsbD 8 = true → t.ten = s.ten) ∧
       (n = 8 → m.arg.getLsbD 8 = false → ∀ l, y.live = [l] →
         BitVec.ofNat 32 (q * 2 ^ 29 + (l.seq.toNat + 1) % 2 ^ 29) = v.setWidth 32 →
         (l.left = 1 → l.handed = true → l.notify = false → t.ten = vset s.ten m.tenant.toNat
           { x with q := vset x.q q { y with retired := y.retired + 1, live := [] } }) ∧
         (1 < l.left → t.ten = vset s.ten m.tenant.toNat
           { x with q := vset x.q q { y with live := [{ l with left := l.left - 1 }] } })))) ∧
  (∀ (n i j : Nat) (w : BitVec 10) (x : W64) (s : State), n < 10 → i < 16 → j < 1024 →
     let z := vget s.erg.st n .reset
     let becomes (z : Station) : Out := .next { s with erg := { s.erg with st := vset s.erg.st n z } }
     let k := 1024 * i + j
     let held := s.erg.wordAt s.core.o.seen (BitVec.ofNat 4 (s.core.csr .tenant).toNat) w
     let wait := some (BarWait.mk w (some x))
     let due := s.core.phase = .issue .m ∧ s.core.t.ret = false ∧ (vget s.erg.st (s.cur / 256) .reset).damaged = none ∧ (held - x).toNat < 2 ^ 63
     let ends (o : Order) : Out := .next (s.onCore fun c => { c with o := o })
     let o := s.core.o
     (due → s.core.inSup = false → o.barw = wait →
       exec .barrierWaitEnd s = ends { o with acq := max o.acq o.seen, barw := none }) ∧
     (due → s.core.inSup = true → o.sbarw = wait →
       exec .barrierWaitEnd s = ends { o with acq := max o.acq o.seen, sbarw := none }) ∧
     (o.barw = wait → o.sbarw = wait → ¬due → exec .barrierWaitEnd s = .next s) ∧
     (z.damaged = none → exec (.replicaSoftError n i j) s = becomes { z with damaged := some k }) ∧
     (s.boot.stage.toNat < 3 → exec (.replicaRepair n) s = .next s) ∧
     (z.damaged = some k → 3 ≤ s.boot.stage.toNat → ∃ l, exec (.replicaRepair n) s = becomes { z with damaged := none, words := l } ∧
       alGet 0 l k = s.erg.wordAt z.applied (BitVec.ofNat 4 i) (BitVec.ofNat 10 j) ∧
       ∀ h, h ≠ k → alGet 0 l h = alGet 0 z.words h))

/-- R286, R289, R313, R318, R333 to R337: the last steps of a core's tick: the watchdog, the slice, the trap, and the
counting down of boundaries, of results of the core's own mode, of the array and of deadlines; TICK counts the job's
ticks, and on the tick on which everything has ended the job ends, which is a job boundary of its cluster (R321). On a
tick of the routine the slice is judged where a CSR write of it has landed; what a judgement finds holds until the
next, and a stop at which it is lost leaves the count of stuck ticks. While a save waits, the deadlines of started
commands come nearer (log 20). A page-fault stop is complete once M and V have joined, are stalled, or stand at the
boundary after the engine ticks left to them. The end of a page-fault stop, the stalled waits, and TICK on the last
tick are the model's readings (log 22, 37, 40). -/
def Obligations.TicksEndInOrder : Prop :=
  ∀ (s : State),
    let k := s.core
    let user := k.inSup = false ∧ k.t.ret = false
    let goes (f : Core → Core) : Out := .next (s.onCore f)
    let late : Stop := { kind := .async, st := none, code := 0x18, imm := 0, faddr := 0, status := 0, block := 0, poff := none }
    let due := k.t.stops ++ if k.t.preempt = true ∨ k.t.expired = true then [{ late with code := 0x14 }] else []
    let joined := k.sa.joined = true ∧ k.sm.joined = true ∧ k.sv.joined = true
    let ended := joined ∧ k.land = [] ∧ k.cp.ratoms = [] ∧ k.cp.groups = []
    let turn (x : Stream) : Stream := { x with bound := if x.bound = 0 then x.div - 1 else x.bound - 1, hold := x.hold - 1 }
    let slice (out : Option Bool) (f : Core → Core) : Out := .next (s.onCore fun c =>
      let c1 := f c
      { c1 with phase := .trap, t := { c1.t with sliced := false, expired := out.getD c1.t.expired } })
    let nearer (cp : Copies) : Copies :=
      { cp with act := cp.act.map fun a => { a with cmd := { a.cmd with due := a.cmd.due.map (· - 1) } } }
    let judged := (user ∨ k.t.sliced = true) ∧ ¬joined
    let count (e : Land) : Land := if e.sup = k.inSup then { e with rem := e.rem - 1, age := e.age + 1 } else e
    (k.phase = .watchdog → (user ∧ k.stuckTick = true ∧ 2 ^ 24 ≤ k.t.stuck + 1 →
        exec .watchdog s = goes fun c => { c.noteStop late with phase := .slice }) ∧
      (¬(user ∧ k.stuckTick = true ∧ 2 ^ 24 ≤ k.t.stuck + 1) → exec .watchdog s = goes fun c => { c with phase := .slice })) ∧
    (k.phase = .slice → ¬judged → exec .sliceExpiry s = slice none id) ∧
    (k.phase = .slice → judged → k.o.acq + 2 ^ 46 ≤ s.erg.log.length → exec .sliceExpiry s = slice (some true) id) ∧
    (k.phase = .slice → judged → s.erg.log.length < k.o.acq + 2 ^ 46 →
      (k.csr .slice ≠ 0 → exec .sliceExpiry s = slice (some false) id) ∧
      (k.csr .slice = 0 → s.crowded = true → exec .sliceExpiry s = slice (some true) id) ∧
      (k.csr .slice = 0 → s.crowded = false → ∀ j, k.job = some j → exec .sliceExpiry s =
        slice (some false) fun c => c.setCsr .slice (BitVec.ofNat 64 ((j.words.getD 6 0).toNat / 2 ^ 32)))) ∧
    (k.phase = .trap → user → k.t.pf = none →
      (due = [] → exec .trapDelivery s = goes fun c => { c with phase := .tickEnd }) ∧
      (∀ x, firstStop due = some x → (∀ w, k.o.barw = some w → w.target ≠ none) →
        exec .trapDelivery s = goes fun c => { c.takeTrap x false with phase := .arrive })) ∧
    (k.phase = .trap → user → ∀ p, k.t.pf = some p → due = [] →
      let past (x : Stream) (left : Nat) := x.joined = true ∨ x.stalled = true ∨ left = 0 ∧ x.bound = 0
      (¬(past k.sm p.leftM ∧ past k.sv p.leftV) → exec .trapDelivery s = goes fun c => { c with phase := .tickEnd }) ∧
      (past k.sm p.leftM → past k.sv p.leftV → (∀ w, k.o.barw = some w → w.target ≠ none) →
        exec .trapDelivery s = goes fun c => { c.takeTrap p.stop true with phase := .arrive })) ∧
    (k.phase = .trap → k.inSup = true → ∀ x, firstStop (k.t.stops.filter fun y => y.kind ≠ .async) = some x →
      exec .trapDelivery s = .next (s.killHere x.code x.faddr)) ∧
    (k.phase = .tickEnd → k.inSup = true → exec .referenceTick s =
      goes fun c => { c with
        sa := turn c.sa, land := c.land.map count, phase := .arrive, cp := if c.saving then nearer c.cp else c.cp }) ∧
    (k.phase = .tickEnd → k.inSup = false → ∃ c, (let t := s.onCore fun _ => c
        exec .referenceTick s = .next (if c.ended = true ∧ k.ended = false then t.jobBoundary (s.cur / 256) else t)) ∧
      c.ci = { k.ci with bound := if k.ci.bound = 0 then k.ci.div - 1 else k.ci.bound - 1 } ∧
      c.t.stuck = (if k.t.ret then k.t.stuck else if k.stuckTick then k.t.stuck + 1 else 0) ∧
      c.t.pf = k.t.pf.map (fun p => { p with leftM := if k.sm.bound = 0 then p.leftM - 1 else p.leftM,
                                             leftV := if k.sv.bound = 0 then p.leftV - 1 else p.leftV }) ∧
      c.sa = turn k.sa ∧ c.sm = turn k.sm ∧ c.sv = turn k.sv ∧ c.land = k.land.map count ∧ c.array = k.array - 1 ∧
      c.q = k.q ∧ c.o = k.o ∧ c.phase = .arrive ∧ c.cp.cmds = k.cp.cmds.map (fun m => { m with due := m.due.map (· - 1) }) ∧
      (∀ n, n ≠ .tick → c.csr n = k.csr n) ∧ c.r = { k.r with csr := c.r.csr } ∧
      (ended → c.csr .tick = k.csr .tick ∧ c.job = k.job.map fun j => { j with phase := .ending false false }) ∧
      (¬ended → c.csr .tick = k.csr .tick + 1 ∧ c.job = k.job))

/-- R171, R179, R341 to R343, R348, R351, R368: a pull, on demand or in the background, makes its block present, with
the bytes that its location holds, or poisoned, or is lost (the bytes of the scratchpad's blocks and the handles' are
stated); the end of a drain, which has written the block's bytes at its location, or tells the Rilosteg that it
failed; the IDENT that is written once the last drain of its save is over; pulls and drains wait for an earlier drain
and for a link in key hold (R362); what an error poisons or ends. What an error in an absent or drained block, or in
supervisor code, does is the model's reading (log 21, 25, 27). -/
def Obligations.BlocksArePulledDrainedAndPoisoned : Prop :=
  ∀ (n nth b grain : Nat) (fails : Bool) (loc : Option W64) (rest : List (Nat × Option W64)) (s : State), n < 2048 →
    let k := s.core
    let idle := k.presOf b = .absent ∧ s.draining s.cur b = false
    let here := idle ∧ s.pullHeld s.cur b = false
    let back := idle ∧ s.locHeld s.cur b loc = false
    let got (t : State) := t.core.presOf b = .present ∨ t.core.presOf b = .poisoned
    let c := s.getCore n
    let plain (b : Nat) := b < 256 ∨ 284 ≤ b ∧ b < 288
    let base (b : Nat) := if b < 256 then 4096 * b else 0x302200 + 128 * (b - 284)
    let size (b : Nat) := if b < 256 then 4096 else 128
    (k.t.pulls[nth]? = some b → here → ∃ t, exec (.pull nth) s = .next t ∧ t.core.t.pulls = k.t.pulls.filter (· ≠ b) ∧
      (s.pullBlock s.cur b = none → t.core.r = k.r ∧ t.core.t.pullFail = k.t.pullFail ++ [b]) ∧
      (s.pullBlock s.cur b ≠ none → got t)) ∧
    (k.runs = true → k.t.bg = (b, loc) :: rest → back → ∃ t, exec .tricklePull s = .next t ∧ t.core.t.bg = rest ∧
      (s.pullFrom s.cur b loc ≠ none → got t) ∧ (s.pullFrom s.cur b loc = none → t.core.r = k.r)) ∧
    (k.runs = true → k.t.bg = [] → (k.csr .presmode).getLsbD 0 = false → exec .tricklePull s = .next s) ∧
    (k.t.pulls[nth]? = some b → k.presOf b = .absent → ¬here → exec (.pull nth) s = .next s) ∧
    (∀ d, c.t.drains[nth]? = some d → s.drainHeld n d = true → exec (.blockDrain n nth fails) s = .next s) ∧
    (∀ d, c.t.drains[nth]? = some d → (∀ f ∈ c.t.drains.take nth, f.block ≠ d.block) → s.drainHeld n d = false → ∃ t, exec (.blockDrain n nth fails) s = .next t ∧
      (t.getCore n).t.drains = c.t.drains.eraseIdx nth ∧ (t.getCore n).r.pres = c.r.pres ∧
      (fails = true → d.bytes = none → (t.getCore n).t.damaged = true) ∧
      (fails = true → t.ril = s.ril ++ [.drain n d.block]) ∧
      ∀ e u, fails = false → d.loc = some e → locOk e = true → locKind e ≠ 0 → plain d.block → c.presOf d.block ≠ .poisoned →
        c.t.idents = [] → s.placeWrite (if d.bytes = none then s.coreCtx n else s.saveCtx n d.xlat d.tenant)
          (locKind e + 1) (locWin e) (64 * (e.toNat % 2 ^ 42))
          (d.bytes.getD ((List.range (size d.block)).map fun i => s.getB n (base d.block + i))) = .ok u →
        t.mem = u.mem ∧ t.host = u.host) ∧
    (∀ d i, c.t.drains[nth]? = some d → (∀ f ∈ c.t.drains.take nth, f.block ≠ d.block) → s.drainHeld n d = false →
      c.t.idents = [i] → d.save = some i.no →
      let hdr := (i.img &&& 0x0000FFFFFFFFFFC0).toNat
      let ctx := s.saveCtx n i.xlat i.tenant
      let damaged := fails = true ∧ d.bytes ≠ none
      let word : W64 := if damaged then i.word ||| 1024 else i.word
      ∃ t, exec (.blockDrain n nth fails) s = .next t ∧ ∀ u, (if fails then u = s else s.drainTo n d = some u) →
        (i.blocks.erase d.block ≠ [] → t.mem = u.mem ∧
          (t.getCore n).t.idents = [{ i with word := word, blocks := i.blocks.erase d.block }]) ∧
        (i.blocks.erase d.block = [] → u.writeHeld ctx 2 0 hdr 8 = false →
          ∀ v, u.placeWrite ctx 2 0 hdr (leBytes 8 word.toNat) = .ok v → t.mem = v.mem ∧ (t.getCore n).t.idents = [])) ∧
    (∀ e, s.Inv → plain b → locOk e = true → idle →
      let asked (i : Instr) := i = .pull nth ∧ k.t.pulls[nth]? = some b ∧ (∃ a, s.locEntry s.cur b = some (e, a)) ∧
          s.pullHeld s.cur b = false ∨
        i = .tricklePull ∧ k.runs = true ∧ k.t.bg = (b, some e) :: rest ∧ s.locHeld s.cur b (some e) = false
      ∀ i, asked i →
        (e.getLsbD 42 = true → ∃ t, exec i s = .next t ∧ t.core.presOf b = .poisoned) ∧
        (e.getLsbD 42 = false → locKind e = 0 → ∃ t, exec i s = .next t ∧ t.core.presOf b = .present ∧
          ∀ i < size b, t.getB s.cur (base b + i) = 0) ∧
        (e.getLsbD 42 = false → locKind e ≠ 0 → ∀ l,
          s.placeRead (s.coreCtx s.cur) (locKind e + 1) (locWin e) (64 * (e.toNat % 2 ^ 42)) (size b) = .ok l →
          ∃ t, exec i s = .next t ∧ t.core.presOf b = .present ∧
            ∀ i < size b, t.getB s.cur (base b + i) = l.getD i 0)) ∧
    (∀ p : BitVec 9, p.toNat = b → b < 295 ∨ 320 ≤ b ∧ b < 404 → ∃ t, exec (.softError n (.block p)) s = .next t ∧
      ((t.getCore n).presOf b = if c.presOf b = .absent then .absent else .poisoned) ∧
      (∀ h, h ≠ b → (t.getCore n).presOf h = c.presOf h) ∧ ∀ h, h ≠ n → t.getCore h = s.getCore h) ∧
    (c.runs = true → ∃ t, exec (.softError n .state) s = .next t ∧ t.getCore n = c.noteStop
      { kind := .async, st := none, code := 0x15, imm := 0, faddr := 0, status := 0, block := 0, poff := none }) ∧
    (c.runs = true → ∃ t j, exec (.softError n .supervisor) s = .next t ∧ (t.getCore n).job = some j ∧
      j.phase = .ending true false ∧ (t.getCore n).land = [] ∧ (t.getCore n).cp.cmds = []) ∧
    (64 * grain < 2 ^ 39 → 64 * grain % 2 ^ 36 < 0x861000000 → ∃ l, exec (.memorySoftError grain) s =
      .next { s with poison := l } ∧ ∀ g, g ∈ l ↔ g ∈ s.poison ∨ g = grain)

/-- R278, R280 to R282, R287: a round places a candidate on a core of its mask that had no job; a placed job starts
with the registers, local bytes and CSRs its record gives it and everything else cleared; a resumed job goes on from
its image; where the routine cannot be read the job leaves its core, to be placed again, and its tenant is held; a
link in key hold on the way to what is read makes the job wait, as does one on the way to the log of a tenant in
replay (R362). What a round may serve is the model's reading (log 24, 25). -/
def Obligations.JobsArePlacedStartedAndResumed : Prop :=
  ∀ (n : Nat) (j : Job) (s : State), n < 2048 →
    let heads := s.readHeads.readPlaces
    let l := heads.cands.filter fun c => (heads.coreFor c).isSome || !(heads.victims c).isEmpty
    let c := s.getCore n
    let z := vget s.erg.st (n / 256) .reset
    let w (i : Nat) := (j.words.getD i 0).toNat
    let image := s.virtRead (s.tenantCtx j.tenant 128) (w 0 % 2 ^ 48) (w 1 % 2 ^ 21)
    let dst := w 1 / 2 ^ 32 % 2 ^ 22
    let len := w 1 % 2 ^ 21 / 8 * 8
    let heat := w 6 / 16 % 4
    let div := if heat = 0 then 4 else if heat = 1 then 2 else 1
    let stream (d e : Nat) : Stream := { Stream.reset d with pc := BitVec.ofNat 17 (e % 2 ^ 20) }
    let x := vget s.ten j.tenant.toNat .reset
    let nat (k : Nat) : W64 := BitVec.ofNat 64 k
    let given : List (Csr × W64) :=
      [(.codea, j.words.getD 2 0), (.codem, j.words.getD 3 0), (.codev, j.words.getD 4 0), (.heapbase, vget x.xlat 0 0),
       (.heaplim, vget x.xlat 1 0), (.heapoff, vget x.xlat 2 0), (.ptroot, vget x.xlat 3 0), (.wintab, vget x.xlat 4 0),
       (.winlen, vget x.xlat 5 0), (.dirtymap, vget x.xlat 6 0), (.seed, j.words.getD 7 0), (.streamid, nat (4 * j.ord % 2 ^ 32)),
       (.cls, nat (heat + 4 * (w 6 / 64 % 2))), (.divs, nat (if heat = 0 then 0x2441 else if heat = 1 then 0x2221 else 0x2111)),
       (.throttle, x.note.setWidth 64), (.slice, nat (w 6 / 2 ^ 32)), (.tenant, j.tenant.setWidth 64), (.jobidx, nat j.ord),
       (.replay, x.replayset)]
    let told := c.o.unsent = 0 ∧ c.o.own ≤ z.applied ∧ j.waitEsn ≤ z.applied ∧ z.damaged = none
    let mayWait (i : Instr) (mode : Nat) (p : State → Prop) :=
      (∃ t, exec i s = .next t ∧ p t) ∨ mode ≠ 0 ∧ exec i s = .next s
    let held := s.routineHeld n j.tenant = true ∨
      s.rangeHeld (s.tenantCtx j.tenant 128) 2 0 (w 0 % 2 ^ 48) (w 1 % 2 ^ 21) = true
    (s.boot.caps = true → heads.choose l = none → exec .round s = .next heads) ∧
    (s.boot.caps = true → ∀ k d q i, heads.choose l = some (k, d) → k.queue = some q → heads.coreFor k = some i →
      ∃ t job, exec .round s = .next t ∧ (t.getCore i).job = some job ∧ job.tenant = k.tenant ∧ job.words = k.words ∧
        job.phase = .placed ∧ (heads.getCore i).job = none ∧ (k.words.getD 6 0).getLsbD (8 + i / 256) = true ∧
        ∀ h, h ≠ i → (t.getCore h).job = (heads.getCore h).job) ∧
    (c.job = some j → j.phase = .placed → held → exec (.jobStart n) s = .next s) ∧
    (c.job = some j → j.phase = .placed → told → s.tenantFree j.tenant = true → ¬held →
      (∀ e, s.routine j.tenant = .error e → ∃ t, exec (.jobStart n) s = .next t ∧ (t.getCore n).job = none ∧
        (vget t.ten j.tenant.toNat .reset).held = true ∧ ∃ p ∈ t.dist.pre, p.job = j) ∧
      (∀ sup e a, s.routine j.tenant = .ok sup → image = .error (e, a) → ∃ t, exec (.jobStart n) s = .next t ∧
        (t.getCore n).job = some { j with phase := .ending true false }) ∧
      (∀ sup data, s.routine j.tenant = .ok sup → image = .ok data → mayWait (.jobStart n) (x.replayset.toNat / 2 ^ 62) fun t =>
        let k := t.getCore n
        k.r = { Regs.reset with s := k.r.s, csr := k.r.csr, sup := sup, sram := k.r.sram } ∧
        (∀ a, k.r.sram.get a = if dst ≤ a ∧ a < dst + len then data.getD (a - dst) 0 else 0) ∧
        k.inSup = false ∧ k.land = [] ∧ k.cp = .reset ∧ k.q = .reset ∧ k.array = 0 ∧
        (∀ i < 4, vget k.r.s (1 + i) 0 = BitVec.ofNat 64 (recIndex j.words j.ord i)) ∧
        vget k.r.s 5 0 = BitVec.ofNat 64 j.ord ∧ vget k.r.s 6 0 = BitVec.ofNat 64 (w 15 % 2 ^ 48) ∧
        vget k.r.s 7 0 = j.recId.setWidth 64 ∧ (∀ i, i = 0 ∨ 8 ≤ i → vget k.r.s i 0 = 0) ∧
        k.sa = stream 1 (w 5) ∧ k.sm = stream div (w 5 / 2 ^ 20) ∧ k.sv = stream div (w 5 / 2 ^ 40) ∧
        k.ci = { bound := 0, div := 2, newDiv := none } ∧
        (∀ q : Csr, k.csr q = match given.find? (fun p => p.1 = q) with
          | some p => p.2 &&& Csr.mask q
          | none => vget csrReset q.slot 0) ∧
        k.o.region = c.o.region + 1 ∧ k.o.acq = z.applied)) ∧
    (c.job = some j → j.phase = .resuming → s.routineHeld n j.tenant = true → exec (.jobResume n) s = .next s) ∧
    (c.job = some j → j.phase = .resuming → told → s.tenantFree j.tenant = true → s.identPending j.img = false →
      s.routineHeld n j.tenant = false →
      (∀ e, s.routine j.tenant = .error e → ∃ t, exec (.jobResume n) s = .next t ∧ (t.getCore n).job = none ∧
        (vget t.ten j.tenant.toNat .reset).held = true ∧ ∃ p ∈ t.dist.pre, p.job = j) ∧
      ∀ sup, s.routine j.tenant = .ok sup →
        let u := ((s.usedRoutine j.tenant).select n).onCore fun _ => c.forImage j (s.tenant j.tenant) sup z.applied
        (u.loadHeld = true → exec (.jobResume n) s = .next s) ∧
        (u.loadHeld = false → u.loadImage = none → ∃ t, exec (.jobResume n) s = .next t ∧
          (t.getCore n).job = some { j with phase := .ending true false }) ∧
        (u.loadHeld = false → ∀ v, u.loadImage = some v → mayWait (.jobResume n) v.core.replayMode fun t =>
          (∃ r, (t.getCore n).job = some { j with seq := s.dist.started, rk := r, phase := .running }) ∧ (t.getCore n).inSup = false ∧
          (t.getCore n).r.v = v.core.r.v ∧ (t.getCore n).r.s = v.core.r.s ∧ (t.getCore n).land = v.core.land))

/-- R186, R191, R194, R209 to R211, R215, R251, R295, R320: an engine starts the oldest command of the first core,
from its pointer on, that has one which may start; the pointer, and that a core whose oldest command may not start is
passed over, are the model's (DESIGN CHOICE and DEDUCED, log 62). A Read move takes a grain that its transform needs,
each byte with its status, RACE for every byte of a racing grain, where the reply space has room (log 41); a Read move
of a table entry takes no data; none changes a memory, and none is made while the clock of the cluster stands. A grain
that a later write has passed is taken as it stood then; where a value found would contradict what the command has
written, one that it foresaw is taken, or no move is made; a grain behind a link that is down is always taken. These
are the model's readings (log 15). -/
def Obligations.CommandsStartAndRead : Prop :=
  ∀ (n id space grain tr : Nat) (m : Cmd) (rest : List Cmd) (a : Active) (s : State), n < 2048 →
    let c := s.getCore n
    let stopped := s.clockStopped n = true
    let p := (vget s.eptr (n / 16) 0).toNat
    let earlier (k : Nat) := k / 16 = n / 16 ∧ (k % 16 + 16 - p) % 16 < (n % 16 + 16 - p) % 16
    let x := s.grainOf (a.cmd.ctx n) .read space a.cmd.sWin grain (s.choice n a space a.cmd.sWin grain tr)
    let needed := (space, grain) ∈ walkNeeds (s.seen n a) a
    let key := tookKey space a.cmd.sWin grain
    let reachable := s.unreachable x = false ∧ s.writeBefore n id (x.home, x.num) = false ∧ s.pathWaits n a key x = false
    let here (y : GotGrain) : Bool := y.space = space && y.grain = grain
    let same (t : State) := t.mem = s.mem ∧ t.host = s.host ∧ t.peers = s.peers
    let more (y : GotGrain) : Active := { a with
      got := a.got ++ [y], spare := a.spare.filter (fun z => !here z), ahead := a.ahead.filter fun p => p.1 ≠ key }
    let lands (b' : Active) := ∃ t, exec (.read n id space grain tr) s = .next t ∧ same t ∧
      ∀ b, (t.getCore n).actOf id = some b → b = b'
    let takes (y : GotGrain) :=
      (∀ b', s.stands n a (more y) = some b' → lands b') ∧
      (s.stands n a (more y) = none → (∀ z, a.spare.find? here = some z → lands (more z)) ∧
        (a.spare.find? here = none → exec (.read n id space grain tr) s = .next s))
    let fresh (got : List (BitVec 8 × Byte)) :=
      let y : GotGrain := { space := space, grain := grain, got := got }
      (0x16 ∉ x.stat → takes y) ∧ (0x16 ∈ x.stat → lands (more y))
    (¬stopped → c.cp.cmds = m :: rest → (∀ k, earlier k → s.canStart k = false) → c.issuing = false → m.retime = false →
      s.mayStart n m = true → (∀ b ∈ c.cp.act, b.cmd.id ≠ m.id) →
      ∃ t, exec (.start n) s = .next t ∧ same t ∧ (t.getCore n).cp.cmds = rest ∧
        (vget t.eptr (n / 16) 0).toNat = (n + 1) % 16 ∧ ∀ b, (t.getCore n).actOf m.id = some b → b = m.fresh) ∧
    ((∃ k, earlier k ∧ s.canStart k = true) ∨ c.issuing = true ∨
        (∀ m rest, c.cp.cmds = m :: rest → m.retime = true ∨ s.mayStart n m = false) →
      exec (.start n) s = .next s) ∧
    (stopped → exec (.start n) s = .next s ∧ exec (.read n id space grain tr) s = .next s) ∧
    (∀ b', c.written a = [] → s.stands n a b' = some b') ∧
    (¬stopped → c.actOf id = some a → space ≠ 10 → space ≠ 12 → needed →
      (∀ y, a.past.find? here = some y → takes y) ∧
      (a.past.find? here = none → s.replyRoom (n / 16) = false → exec (.read n id space grain tr) s = .next s) ∧
      (a.past.find? here = none → reachable → vget s.reply (n / 16) 0 < 1024 → x.loc = none → c.cp.cb = [] →
        (x.checked = false ∨ x.home ≠ .dev ∨ s.races n a.cmd x.num = false → fresh (s.readGrain x)) ∧
        (x.checked = true → x.home = .dev → s.races n a.cmd x.num = true →
          fresh ((s.readGrain x).map fun p => if p.1 = 0 ∨ p.1 = 0x0C then (0x0B, 0) else p)))) ∧
    (c.actOf id = some a → space = 10 ∨ space = 12 → ∃ t, exec (.read n id space grain tr) s = .next t ∧ same t ∧
      ∃ b, (t.getCore n).actOf id = some b ∧ b.got = a.got ∧ b.done = a.done ∧ b.fail = a.fail)

/-- R180, R194, R195, R207 to R210, R298: a Merge move puts a decided grain's bytes into the combine buffer, joining
data of its stream for the grain where no REL or FREL keeps them apart, and changes no memory; a Write move makes an
entry whose parts all succeed visible at its home at once, tagged with the region of its last part where the race
check covers that part; a part that fails is not written; the D bit of each part's leaf descriptor is set. Which
orders are made, that a passed grain is read first, and the second check of the way, are the model's readings (log 15,
16). R190, R210, R219: a command without a failure performs every grain that its units touch, a byte taking the last
value written to it in walk order; one whose first failing unit is no race performs the grains that earlier units
touch and that unit does not, with what those units write; in local storage also whole grains beyond it, and none that
a failing unit touches. In device memory a grain that would take a racing byte stays unwritten. -/
def Obligations.WritesMergeAndBecomeVisible : Prop :=
  (∀ (n id grain tr nth : Nat) (a : Active) (e : CbEnt) (rest : List CbEnt) (s : State), n < 2048 → s.clockStopped n = false →
     let c := s.getCore n
     let m := a.cmd
     let w := s.seen n a
     let x := s.grainOf (m.ctx n) .write m.dSpace m.dWin grain (s.choice n a m.dSpace m.dWin grain tr)
     let h := (x.home, x.num)
     let first := grain ∈ required w a ∧ 2 * grain ∉ a.done ∧ grainReady w a grain = true ∧ (∀ q ∈ x.stat, q = 0) ∧
       s.readFirst n a w (lastUnit w grain) h = false ∧ s.writeFirst n a w .write grain h = false ∧
       s.writeBefore n id h = false ∧ s.readBefore n id h = false ∧ s.pathWaits n a (tookKey m.dSpace m.dWin grain) x = false ∧ x.pheld = false ∧
       ∀ p ∈ a.pins, p.1 ≠ grain
     let part : CbPart := { cmd := id, va := 64 * grain, covered := x.checked && decide (x.home = .dev), leaf := x.leaf,
                            way := x.way, bytes := dueBytes w a grain }
     let entry : CbEnt := { home := x.home, grain := x.num, lone := flagREL m.flags, epoch := m.frel, parts := [part] }
     let merges (l : List CbEnt) :=
       (s.readAhead n m h = none → exec (.merge n id grain tr) s = .next s) ∧
       (∀ u, s.readAhead n m h = some u → ∃ t, exec (.merge n id grain tr) s = .next t ∧ t.mem = s.mem ∧ t.host = s.host ∧
         t.peers = s.peers ∧ (t.getCore n).cp.cb = l ∧
         (t.getCore n).actOf id = some { u.actNow n a with done := a.done ++ [2 * grain], pins := a.pins })
     let bytes := e.parts.flatMap (·.bytes)
     let unlogged := ∀ p ∈ e.parts, ∀ b, c.actOf p.cmd = some b → b.cmd.dSpace ≠ 2 ∨ (vget b.cmd.xlat 6 0).getLsbD 63 = false
     let marks (l : Mem) : Mem := e.parts.foldl (fun l p => match c.actOf p.cmd, p.leaf with
       | some _, some d => l.set (d + 6) (l.get (d + 6) ||| 0x20)
       | _, _ => l) l
     let goes := c.cp.cb.drop nth = e :: rest ∧ (∀ f ∈ c.cp.cb, f.home = e.home → f.grain = e.grain → f = e) ∧
       s.together n c.cp.cb.length [e] = some [e] ∧ ∀ p ∈ e.parts, s.partHeld n p = false
     (c.actOf id = some a → 2 ≤ m.dSpace → m.red = false → first →
       ((∀ f ∈ c.cp.cb, ¬(f.home = x.home ∧ f.grain = x.num)) → merges (c.cp.cb ++ [entry])) ∧
       (∀ f, c.cp.cb = [f] → f.home = x.home → f.grain = x.num →
         (f.lone = false → flagREL m.flags = false → f.epoch = m.frel → merges [{ f with parts := f.parts ++ [part] }]) ∧
         (f.lone = true ∨ flagREL m.flags = true ∨ f.epoch ≠ m.frel → exec (.merge n id grain tr) s = .next s))) ∧
     (goes → e.parts ≠ [] → (∀ p ∈ e.parts, s.partStatus n e p = 0) → unlogged →
       ((∃ p ∈ e.parts, p.covered = true) → s.claimed n (e.home, e.grain) = false) →
       ∀ u, e.parts.foldl (fun r p => r.bind fun t => t.settlePart n p) (some s) = some u → ∃ t, exec (.write n nth) s = .next t ∧
         (t.getCore n).cp.cb = c.cp.cb.filter (fun f => !(f.home = e.home && f.grain = e.grain)) ∧
         (e.home = .dev → t.mem = marks (s.mem.setAll (bytes.map fun p => (64 * e.grain + p.1, p.2))) ∧ t.host = s.host) ∧
         (e.home = .host → t.mem = marks s.mem ∧ t.host = s.host.setAll (bytes.map fun p => (64 * e.grain + p.1, p.2))) ∧
         (e.home = .dev → ∀ p, e.parts.getLast? = some p →
           (p.covered = false → (t.tagOf e.grain).writer = 0xFFF) ∧
           (p.covered = true → ∀ b, c.actOf p.cmd = some b → (t.tagOf e.grain).writer = BitVec.ofNat 12 n ∧
             (t.tagOf e.grain).region = b.cmd.region))) ∧
     (goes → ∀ p u, e.parts = [p] → s.partStatus n e p ≠ 0 → s.failPart n p (s.partStatus n e p) = some u →
       (∀ f ∈ (u.getCore n).cp.cb, ¬(f.home = e.home ∧ f.grain = e.grain)) →
       ∃ t, exec (.write n nth) s = .next t ∧ t.mem = s.mem ∧ t.host = s.host ∧ t.peers = s.peers ∧ t.tags = s.tags)) ∧
  (∀ (w before after : List Seen) (u : Seen) (a : Active) (g : Nat) (st : BitVec 8) (ad : W64),
     let clean (v : Seen) : Prop := ∃ p, v.res = .val p ∧ p.raced = []
     let touches (v : Seen) : Prop := g ∈ v.grains
     let writes (v : Seen) : List (Int × List Byte) := match v.res with
       | .val p => p.writes
       | _ => []
     let byte (l : List Seen) (i : Nat) : Option Byte := ((l.filter fun v => decide (g ∈ v.grains)).flatMap fun v =>
       (writes v).flatMap fun x => (x.2[64 * g + i - x.1.toNat]?.toList.filter fun _ => decide (x.1.toNat ≤ 64 * g + i))).getLast?
     let bytes (l : List Seen) : List (Nat × Byte) := (List.range 64).filterMap fun i => (byte l i).map fun b => (i, b)
     let plain := a.fail = none ∧ a.cmd.wholeBlocks = false ∧ ∀ (i : Nat) (v : Seen), w[i]? = some v → v.idx = i
     (plain → (∀ v ∈ w, clean v) → (g ∈ required w a ↔ ∃ v ∈ w, touches v) ∧ dueBytes w a g = bytes w ∧
       ((∃ v ∈ w, touches v) → deliverable w a g = some (bytes w))) ∧
     (plain → w = before ++ u :: after → (∀ v ∈ before, clean v) → u.res = .err st ad → st ≠ 0x0B →
       (g ∈ required w a ↔ (∃ v ∈ before, touches v) ∧ ¬touches u) ∧ dueBytes w a g = bytes before ∧
       (g ∈ required w a → deliverable w a g = some (bytes before)) ∧ (touches u → deliverable w a g = none) ∧
       ((∀ v ∈ before, ¬touches v) → ¬touches u → (∀ v ∈ after, touches v → clean v) → (∃ v ∈ after, touches v) →
         deliverable w a g = some (bytes w))) ∧
     (plain → 2 ≤ a.cmd.dSpace → (∀ v ∈ w, v.failed = false) → u ∈ w → u.res = .err 0x0B ad →
       (∃ d ∈ u.unit.dest a.byte, g ∈ spanGrains d.1 d.2) → g ∉ required w a))

/-- R181, R197, R232, R237, R238, R296: a CATOM reads and writes its word indivisibly, and its reply enters aq by a
Deliver move; a failing one changes nothing and brings its status; an operation that the host's interface lacks brings
TRANSFORM, on a page of TIER 1 by the model's choice (log 61). An atomic waits while a link in key hold lies on its
way or on that to the dirty log (R362). A CRED adds its contribution to the element it finds, exactly, with one
rounding, whatever the order of its grains (log 15); it waits for every grain that its elements reach (log 71), and it
is counted for replay, the model's choice (log 13). -/
def Obligations.AtomicsArePerformedAndAnswered : Prop :=
  ∀ (n id grain tr key : Nat) (a : Active) (r : GotGrain) (more : List GotGrain) (s : State), n < 2048 → s.clockStopped n = false →
    let c := s.getCore n
    let m := a.cmd
    let ad := m.atomAt
    let k := if m.atomOp.2 then 8 else 4
    let x := s.grainOf (m.ctx n) .atomic m.dSpace m.dWin (ad / 64) (s.choice n a m.dSpace m.dWin (ad / 64) tr)
    let got := ((s.readGrain x).drop (ad % 64)).take k
    let old := leNat (got.map (·.2))
    let logged (v : Nat) := m.dSpace = 2 ∧ s.dirtyHeld (m.ctx n) v = true
    let reply (st : BitVec 8) (v : Nat) : Active := { a with got :=
      [{ space := 7, grain := 0, got := (leBytes 8 v).map fun b => (st, b) }] }
    let unlogged := (m.dSpace ≠ 2 ∨ (vget m.xlat 6 0).getLsbD 63 = false) ∧ c.replayMode = 0
    let new := (leBytes k (atomNew m.atomOp.1 (8 * k) old (vget m.par 1 0).toNat (vget m.par 2 0).toNat)).zipIdx.map
      fun p => (64 * x.num + (ad % 64 + p.2), p.1)
    let st := (r.got.headD (0, 0)).1
    let answer : QEnt := { val := BitVec.ofNat 64 (leNat (r.got.map (·.2))), status := st,
                           faddr := if st = 0 then 0 else BitVec.ofNat 64 ad }
    let w := s.seen n a
    let sz := m.args.dSz
    let reds := grainReds w (grainEnd w a grain) grain
    let span := (grain :: reds.flatMap fun r => spanGrains (r.1 : Nat) sz).eraseDups
    let at' (g : Nat) := s.grainOf (m.ctx n) .reduce m.dSpace m.dWin g
      (if g = grain then s.choice n a m.dSpace m.dWin grain tr else none)
    let y := at' grain
    let creds := (vget s.ten m.tenant.toNat .reset).creds
    let free (g : Nat) :=
      let y := at' g
      let h := (y.home, y.num)
      y.held = false ∧ s.pathWaits n a (tookKey m.dSpace m.dWin g) y = false ∧ s.readFirst n a w (lastUnit w g) h = false ∧
      s.writeFirst n a w .reduce g h = false ∧ s.writeBefore n id h = false ∧ s.readBefore n id h = false ∧
      s.atomicBefore n id h = false ∧ ∀ f ∈ c.cp.cb, ¬(f.home = y.home ∧ f.grain = y.num)
    let due := grain ∈ required w a ∧ 2 * grain ∉ a.done ∧ grainReady w a grain = true ∧ (∀ p ∈ a.pins, p.1 ∉ span)
    let sum (ad : Nat) (v : X) : List (Nat × Byte) :=
      let had := leNat ((List.range sz).map fun i => s.mem.get (64 * y.num + (ad + i) % 64))
      (leBytes sz (cvtEt ((decEt m.args.dEt had).add v).1 m.args.dEt .rne false).1).zipIdx.map fun p =>
        (64 * y.num + (ad + p.2) % 64, p.1)
    (c.actOf id = some a → m.kind = .catom → a.got = [] → x.held = true ∨ logged ad → exec (.atomic n id (ad / 64) tr) s = .next s) ∧
    (c.actOf id = some a → m.kind = .catom → a.got = [] → x.held = false → ¬logged ad →
      s.atomicBefore n id (x.home, x.num) = false → s.pathWaits n a (tookKey m.dSpace m.dWin (ad / 64)) x = false →
      ((∀ p ∈ got, p.1 = 0) → x.leaf = none → unlogged → x.home = .dev ∨ x.home = .host ∧ hostOp m.atomOp.1 = true →
        ∃ t, exec (.atomic n id (ad / 64) tr) s = .next t ∧ (t.getCore n).actOf id = some (reply 0 old) ∧
        (x.home = .dev → t.mem = s.mem.setAll new ∧ t.host = s.host ∧ t.tags = s.tags) ∧
        (x.home = .host → t.host = s.host.setAll new ∧ t.mem = s.mem)) ∧
      ((∀ p ∈ got, p.1 = 0) → x.home = .host → m.atomOp.1 ∉ [AtomOp.swap, .add, .cas] →
        ∃ t, exec (.atomic n id (ad / 64) tr) s = .next t ∧ (t.getCore n).actOf id = some (reply 0x0E 0) ∧
          t.mem = s.mem ∧ t.host = s.host) ∧
      (∀ p, got.find? (fun q => q.1 ≠ 0) = some p → ∃ t, exec (.atomic n id (ad / 64) tr) s = .next t ∧
        (t.getCore n).actOf id = some (reply p.1 0) ∧ t.mem = s.mem ∧ t.host = s.host)) ∧
    (c.actOf id = some a → m.kind = .catom → a.got = r :: more → c.phase = .arrive →
      ∃ t, exec (.deliver n id key) s = .next t ∧ t.mem = s.mem ∧
        (t.getCore n).dq .aq = c.dq .aq ++ [answer] ∧ (t.getCore n).actOf id = none) ∧
    (c.actOf id = some a → m.kind ≠ .catom → m.red = true → due → (∃ g ∈ span, ¬free g) ∨ logged (64 * grain) →
      exec (.atomic n id grain tr) s = .next s) ∧
    (c.actOf id = some a → m.kind ≠ .catom → m.red = true → due → (∀ g ∈ span, free g) → ¬logged (64 * grain) →
      (∀ g ∈ span, ∀ p ∈ s.readGrain (at' g), p.1 = 0) → c.replayMode = 0 → ∀ u b',
      span.foldl (fun r g => r.bind fun t => t.readAhead n m ((at' g).home, (at' g).num)) (some s) = some u →
      u.settle n a (u.actNow n a) grain = some b' →
      ∃ t, exec (.atomic n id grain tr) s = .next t ∧ (vget t.ten m.tenant.toNat .reset).creds = creds + 1 ∧
        (∀ b, (t.getCore n).actOf id = some b → b.done = a.done ++ [2 * grain]) ∧
        ∀ ad v, reds = [(ad, v)] → ad % 64 + sz ≤ 64 → ad / 64 = grain → y.home = .dev →
          y.leaf = none → unlogged → t.mem = s.mem.setAll (sum ad v) ∧ t.host = s.host)

/-- R78, R189, R190, R198, R217 to R219, R240: with every block present a Deliver move applies a grain's bytes at the
destination core; a group that is complete leaves, pushing its token with the group's status or, without a tq, keeping
a failure for CWAIT; its flags wait for the landings of the tick. R236, R259, R261: on the settled command of a local
destination the hooks fill a slot of the ring that aux names and arrive with the delivered bytes at the barrier cell;
where either is refused, a ring without an open slot or a cell that cannot take them, no hook is applied and the
command fails. That both are judged together before either is applied, and RING before BARRIER where both are refused,
is the model's reading (DEDUCED, log 15). -/
def Obligations.DeliveriesGroupsAndHooks : Prop :=
  (∀ (n id g : Nat) (a : Active) (bs : List (Nat × Byte)) (grp : Group) (s : State), n < 2048 → s.clockStopped n = false →
     let c := s.getCore n
     let w := s.seen n a
     let x := s.localGrain n g true
     let free := s.writeBefore n id (x.home, x.num) = false ∧ s.readBefore n id (x.home, x.num) = false ∧
       s.readFirst n a w (lastUnit w g) (x.home, x.num) = false
     let fail : Fail := (grp.fail.map (·.2)).getD { status := 0, faddr := 0, poff := none }
     (c.actOf id = some a → a.cmd.kind = .copy ∨ a.cmd.kind = .cred → a.cmd.dSpace = 0 → a.cmd.due = none → c.phase = .arrive →
       c.r.pres = [] → 64 * g + 64 ≤ 0x200000 → a.cmd.wholeBlocks = false → deliverable w a g = some bs → 2 * g ∉ a.done → free →
       (∀ q ∈ x.stat, q = 0) → s.Inv → ∀ u, s.readAhead n a.cmd (x.home, x.num) = some u →
       ∃ t, exec (.deliver n id (2 * g)) s = .next t ∧ t.mem = s.mem ∧ t.host = s.host ∧
         (∀ i < 64, t.getB n (64 * g + i) = ((bs.find? fun p => p.1 = i).map (·.2)).getD (s.getB n (64 * g + i))) ∧
         ∀ b, (t.getCore n).actOf id = some b → b.done = a.done ++ [2 * g]) ∧
     (c.cp.groups.find? (fun y => y.id = grp.id) = some grp → c.phase = .arrive → s.groupReady n grp = true →
       ∃ t, exec (.complete n grp.id) s = .next t ∧ (t.getCore n).cp.groups = c.cp.groups.filter (fun y => y.id ≠ grp.id) ∧
         (t.getCore n).cp.fpPend = c.cp.fpPend ||| grp.fp ∧ (t.getCore n).r = c.r ∧
         (grp.tq ≠ 0 → 1 ≤ grp.tq.toNat ∧ grp.tq.toNat < 10 →
           (t.getCore n).tokens grp.tq = c.tokens grp.tq ++ [⟨fail.status, fail.faddr, fail.poff⟩]) ∧
         (grp.tq = 0 → grp.fail = none → (t.getCore n).cp.unobs = c.cp.unobs) ∧
         (grp.tq = 0 → ∀ f, grp.fail = some f → (grp.id, f.2) ∈ (t.getCore n).cp.unobs))) ∧
  (∀ (n id : Nat) (a : Active) (s : State), n < 2048 → s.clockStopped n = false →
     let c := s.getCore n
     let w := s.seen n a
     let f := a.cmd.flags
     let rn := (a.cmd.aux.extractLsb' 0 4).toNat
     let bn := (a.cmd.aux.extractLsb' 4 3).toNat
     let r := vget c.q.ring rn .reset
     let b := vget c.q.bar bn .reset
     let k := walkCount w
     let down := b.pending.toInt - (k : Int)
     let ready := c.actOf id = some a ∧ a.cmd.dSpace = 0 ∧ c.phase = .arrive ∧ s.settled n a = true ∧ walkFail w a = none
     let rf := f.getLsbD 4 = true ∧ a.rfDone = false
     let ba := f.getLsbD 5 = true ∧ a.baDone = false
     let ringOk := r.valid = true ∧ (r.claimed - r.tail).toNat ≠ 0
     let cellOk := if b.posted then 0 ≤ down else -(2 ^ 31) ≤ down
     let fails (i : Instr) (st : BitVec 8) := ∃ t, exec i s = .next t ∧ (t.getCore n).q = c.q ∧
       ∀ y, (t.getCore n).actOf id = some y → ∃ p, y.fail = some p ∧ p.2.status = st
     (ready → rf → (ba → cellOk) →
       (ringOk → ∃ t, exec (.rfHook n id) s = .next t ∧
         vget (t.getCore n).q.ring rn .reset = { r with tail := r.tail + 1 } ∧
         (vget (t.getCore n).q.ringV rn .reset).tail = (vget c.q.ringV rn .reset).tail + 1)) ∧
     (ready → ba → (rf → ringOk) →
       (b.posted = true → 0 < down → ∃ t, exec (.baHook n id) s = .next t ∧
         vget (t.getCore n).q.bar bn .reset = { b with pending := BitVec.ofInt 32 down }) ∧
       (b.posted = true → down = 0 → ∃ t, exec (.baHook n id) s = .next t ∧
         vget (t.getCore n).q.bar bn .reset = { posted := false, phase := !b.phase, pending := 0 }) ∧
       (b.posted = false → -(2 ^ 31) ≤ down → ∃ t, exec (.baHook n id) s = .next t ∧
         vget (t.getCore n).q.bar bn .reset = { b with pending := b.pending - BitVec.ofNat 32 k })) ∧
     (ready → a.rfDone = false → a.baDone = false → rf → ¬ringOk →
       fails (.rfHook n id) 0x10 ∧ (ba → fails (.baHook n id) 0x10)) ∧
     (ready → a.rfDone = false → a.baDone = false → ba → ¬cellOk → (rf → ringOk) →
       fails (.baHook n id) 0x11 ∧ (rf → fails (.rfHook n id) 0x11)))

/-- R169, R175, R177, R189, R190, R234, R235: a remote ATOM is performed at its target between two ticks and its reply
enters the aq of the issuing core with its signal. A deadline that finds data missing marks its commands late and
holds the tick; data is also missing while an earlier untimed command of the stream has still to write or read one of
the grains (the model's reading: DEDUCED from R190 and R235, log 15). One that finds all of it, with every pull made,
applies its commands one after another, all deliveries of a command in one step, a free value choosing among those
that share no grain; BREACH counts each late one, a failing one too (DEDUCED, log 67), which applies nothing. -/
def Obligations.RemoteAtomsAndDeadlinesAct : Prop :=
  ∀ (n nth : Nat) (r : RAtom) (rest : List RAtom) (v : W64 × BitVec 8 × W64) (a : Active) (j : Job) (s : State),
    n < 2048 →
    let c := s.getCore n
    let tn := r.opa / 2 ^ 22 % 2 ^ 11
    let l := r.opa % 2 ^ 22
    let tc := s.getCore tn
    let k := if r.w64 then 8 else 4
    let old := leNat ((List.range k).map fun i => s.getB tn (l + i))
    let first := c.cp.ratoms.drop nth = r :: rest ∧ r.reply = none ∧
      (∀ y ∈ c.cp.ratoms, ¬(y.seq < r.seq ∧ y.reply = none ∧ y.opa < r.opa + k ∧ r.opa < y.opa + if y.w64 then 8 else 4)) ∧
      tc.phase = .arrive ∧ s.clockStopped tn = false ∧ s.diesHeld (n / 512) (tn / 512) = false
    let told (t : State) (x : W64 × BitVec 8 × W64) := { r with reply := some x } ∈ (t.getCore n).cp.ratoms
    let up := s.diesDown (n / 512) (tn / 512) = false
    let mine := tc.runs = true ∧ tc.tenant = c.tenant
    let late (m : Cmd) : Cmd := if m.due = some 0 then { m with late := true } else m
    let dueAct (b : Active) := b ∈ c.cp.act ∧ b.cmd.due = some 0 ∧ b.applied = false
    let data (b : Active) := timedData (s.seen n b)
    let failing (b : Active) := walkFail (s.seen n b) b ≠ none
    let owed (b : Active) := ∃ p ∈ data b, ∃ y ∈ c.before b.cmd.id, y.cmd.due = none ∧
      (s.timedHome n b p.1 ∈ s.writesLeft n y ∨ s.timedHome n b p.1 ∈ s.readsLeft n y)
    let missing (b : Active) := decided (s.seen n b) b = false ∨ ¬failing b ∧ owed b
    let waits := (∃ m ∈ c.cp.cmds, m.due = some 0) ∨ ∃ b, dueAct b ∧ missing b
    let ready := c.phase = .arrive ∧ s.clockStopped n = false ∧ c.t.pulls = []
    let now := step { s with agenda := .core n :: s.agenda }
    let due := (∃ m ∈ c.cp.cmds, m.due = some 0) ∨ ∃ b, dueAct b
    let deadline := s.cur = n ∧ ready ∧ due
    let may (b : Active) := dueAct b ∧ ∀ y, dueAct y → y.cmd.id < b.cmd.id → ∀ p ∈ data y, ∀ q ∈ data b, p.1 ≠ q.1
    let go := exec .timedDeadline s
    let first' := deadline ∧ ¬waits ∧ s.deadlinePulls n = [] ∧ c.actOf a.cmd.id = some a ∧ s.dueNext = some a
    let counted (t : State) := (t.getCore n).csr .breach =
        (if a.cmd.late then BitVec.ofNat 64 (((c.csr .breach).toNat + 1) % 2 ^ 32) else c.csr .breach) ∧
      ∀ b, (t.getCore n).actOf a.cmd.id = some b → b.applied = true
    (first → up → mine → l < 0x100000 → tc.presOf (l / 0x1000) = .present → c.replayMode ≠ 2 → s.logHeld n 3 = false →
      s.Inv → ∃ t, exec (.remoteAtom n nth) s = .next t ∧ told t (BitVec.ofNat 64 old, 0, 0) ∧
        ∀ i < k, t.getB tn (l + i) = (leBytes k (atomNew r.op (8 * k) old r.b.toNat r.c.toNat)).getD i 0) ∧
    (first → ¬up → ∃ t, exec (.remoteAtom n nth) s = .next t ∧ told t (0, 0x16, BitVec.ofNat 64 r.opa) ∧ t.mem = s.mem) ∧
    (first → up → ¬mine → ∃ t, exec (.remoteAtom n nth) s = .next t ∧ told t (0, 0x09, BitVec.ofNat 64 r.opa) ∧ t.mem = s.mem) ∧
    (c.cp.ratoms.drop nth = { r with reply := some v } :: rest → c.phase = .arrive → s.clockStopped n = false → ∃ t,
      exec (.remoteAtomReply n nth) s = .next t ∧
      (t.getCore n).dq .aq = c.dq .aq ++ [{ val := v.1, status := v.2.1, faddr := v.2.2 }] ∧
      (1 ≤ r.sq.toNat → r.sq.toNat < 10 → (t.getCore n).tokens r.sq = c.tokens r.sq ++
        List.replicate (r.sn.toNat + 1) { status := 0, faddr := 0, poff := none }) ∧
      (t.getCore n).cp.ratoms = c.cp.ratoms.filter (fun y => y.seq ≠ r.seq)) ∧
    (deadline → c.job = some j → j.phase = .running → now = go) ∧
    (s.cur = n → ¬(ready ∧ due) → go = .next s) ∧
    (deadline → waits → ∃ f : Active → Active, go = .next (s.onCore fun k =>
        { k with cp := { k.cp with cmds := k.cp.cmds.map late, act := k.cp.act.map f } }) ∧
      ∀ b ∈ c.cp.act, (dueAct b → missing b → f b = { b with cmd := { b.cmd with late := true } }) ∧
        (¬(dueAct b ∧ missing b) → f b = b)) ∧
    (deadline → ¬waits → ∀ x l, s.deadlinePulls n = x :: l → go = .next (s.onCore fun k => k.freeze (x :: l))) ∧
    (deadline → ¬waits → ∃ b, s.dueNext = some b ∧ may b) ∧
    (first' → failing a → ∃ t, go = .next t ∧ counted t ∧ t.mem = s.mem ∧
      ∀ m b, b < 0x300000 → t.getB m b = s.getB m b) ∧
    (first' → ¬failing a → a.cmd.dSpace = 0 → c.r.pres = [] → (∀ p ∈ data a, 64 * p.1 + 64 ≤ 0x200000) → s.Inv →
      ∀ u, (data a).foldl (fun r p => r.bind fun t => t.readAhead n a.cmd (s.timedHome n a p.1)) (some s) = some u →
      ∃ t, go = .next t ∧ counted t ∧ t.mem = s.mem ∧ t.host = s.host ∧
        (∀ p ∈ data a, ∀ i < 64, t.getB n (64 * p.1 + i) =
          ((p.2.find? fun q => q.1 = i).map (·.2)).getD (s.getB n (64 * p.1 + i))) ∧
        ∀ m b, b < 0x300000 → (∀ p ∈ data a, ∀ q ∈ p.2, cell m b ≠ cell n (64 * p.1 + q.1)) → t.getB m b = s.getB m b)

/-- R60, R85, R86, R221: a walk visits the positions of a handle in the order of their linear index, or, by blocks,
the dim0 runs in theirs, each in blocks of 256 positions and a rest; where an element stands, and the block that holds
it. R221, R223 to R226, R230, R231: from source bytes that are all read without a failure, MOVE, TRANSPOSE, GATHER and
SCATTER move elements, zeros where a position lies outside the source, and MOVE of layout 1 whole blocks; CONVERT and
CONVERT_T convert the exact value, multiplied by the prescale where PS asks, with one rounding; FILL repeats its
value. An index out of range ends the command with TRANSFORM at the first element of its row, in the handle that the
command walks (DESIGN CHOICE, log 10). R223, R224, R227, R228, R232: QBLOCK codes the FP32 values of each block;
XBLOCK converts the exact value of each element of a block as CONVERT does; ZPACK writes the blocks that are not zero
one behind the other, then the header word and the bitmap (in this order by the model's reading: DEDUCED, log 17);
ZUNPACK writes each stored block, and an empty one where none is stored. A block's header that R65 refuses, and a
packed header that does not fit, end the command with HEADER. R70, R229, R232: TOPK keeps the positions of the largest
magnitudes of a block, NaNs first, the lower position of equal ones, in ascending order, with their BF16 values; TOPKX
adds the residuals first and writes back what it did not keep; REDUCE contributes the exact values, REDUCE_Q those of
the block that QUANT makes, and keeps the rest. -/
def Obligations.TransformsYieldTheirBytes : Prop :=
  (∀ (h : BitVec 256) (p : Pos) (r e : Nat),
     let e0 := hExt h 0
     let e1 := hExt h 1
     let e2 := hExt h 2
     let e3 := hExt h 3
     let per := (e0 + 255) / 256
     let index : Int := (p.i0 : Int) + p.i1 * hStride h 1 + p.i2 * hStride h 2 + p.i3 * hStride h 3
     walkPos h = ((List.range (e0 * (e1 * (e2 * e3)))).map fun n =>
       { i0 := n % e0, i1 := n / e0 % e1, i2 := n / (e0 * e1) % e2, i3 := n / (e0 * e1 * e2) }) ∧
     (inExt h p = true → (walkPos h)[linear h p]? = some p) ∧
     (inExt h p = true ↔ p.i0 < e0 ∧ p.i1 < e1 ∧ p.i2 < e2 ∧ p.i3 < e3) ∧
     linear h p = p.i0 + e0 * (p.i1 + e1 * (p.i2 + e2 * p.i3)) ∧
     posAt h r e = { i0 := e, i1 := r % e1, i2 := r / e1 % e2, i3 := r / (e1 * e2) } ∧
     walkBlocks h = ((List.range (per * (e1 * (e2 * e3)))).map fun j =>
       (j / per, j % per, min 256 (e0 - 256 * (j % per)))) ∧
     elemAddr h p = (hAddr h : Int) + index * (esz (hEt h) : Int) ∧
     blockAddr h p = (hAddr h : Int) + index / 256 * (if hEt h = 13 then 132 else 260) ∧
     blockOff h p = (index % 256).toNat) ∧
  (∀ (x : XArgs) (b : Nat → Nat → Byte),
     let yields (xf : Nat) (l : List (Ev Piece)) : Prop :=
       (x.units xf false).map (fun u => u.run fun space a => some (0, b space a)) = l
     let take (space n : Nat) (a : Int) : List Byte := (List.range n).map fun i => b space (a.toNat + i)
     let placed (a : Int) (n : Nat) := 0 ≤ a ∧ a + n ≤ 2 ^ (if hSpace x.hs = 0 then 22 else if hSpace x.hs = 1 then 33 else 48) ∧
       (hSpace x.hs ≤ 1 → a % (if hLayout x.hs = 0 then (esz (hEt x.hs) : Int) else 4) = 0)
     let elems := hLayout x.hs ≠ 2 ∧ ∀ p, inExt x.hs p = true → placed (elemAddr x.hs p) x.sSz
     let elem (q : Pos) : List Byte := if inExt x.hs q then take (hSpace x.hs) x.sSz (elemAddr x.hs q) else List.replicate x.dSz 0
     let moves (n : Nat) (q p : Pos) : Ev Piece := .val { pos := n, writes := [(elemAddr x.hd p, elem q)] }
     let turned (p : Pos) : Pos := { p with i0 := p.i1, i1 := p.i0 }
     let row (h : BitVec 256) (p : Pos) := p.i1 + hExt h 1 * (p.i2 + hExt h 2 * p.i3)
     let index (n : Nat) := leNat (take 0 4 ((x.p0.toNat % 2 ^ 22 + 4 * n : Nat) : Int))
     let table (h : BitVec 256) := x.p0.toNat % 2 ^ 22 + 4 * (hExt h 1 * (hExt h 2 * hExt h 3)) ≤ 2 ^ 22
     let at' (i0 i1 : Nat) : Pos := { i0 := i0, i1 := i1, i2 := 0, i3 := 0 }
     let lost (h : BitVec 256) (p : Pos) : Ev Piece := .err 0x0E (BitVec.ofInt 64 (elemAddr h { p with i0 := 0 }))
     let rm := (Rm.ofFull (x.p0.toNat % 8)).getD .rne
     let converted (q p : Pos) : Ev Piece :=
       let v : X := if inExt x.hs q then decEt x.sEt (leNat (elem q)) else .fin false 0 0
       let w : X × FpFlags := if x.p0.getLsbD 4 then v.mul (dec32 (x.p1.toNat % 2 ^ 32)) else (v, 0)
       let u := if rm = .sr then (gen x.seed x.sid (BitVec.ofNat 32 (linear x.hd p)) (x.p2.setWidth 32)).toNat else 0
       let r := cvtEt w.1 x.dEt rm (x.p0.getLsbD 3) u
       .val { pos := linear x.hd p, writes := [(elemAddr x.hd p, leBytes x.dSz r.1)], fp := w.2 ||| r.2 }
     let blocks := (walkBlocks x.hd).map fun w => posAt x.hd w.1 (256 * w.2.1)
     let size := if hEt x.hd = 13 then 132 else 260
     (elems → hLayout x.hd ≠ 1 → yields 0x00 ((walkPos x.hd).map fun p => moves (linear x.hd p) p p)) ∧
     (elems → yields 0x01 ((walkPos x.hd).map fun p => moves (linear x.hd p) (turned p) p)) ∧
     (elems → yields 0x02 ((walkPos x.hd).map fun p => converted p p)) ∧
     (elems → yields 0x03 ((walkPos x.hd).map fun p => converted (turned p) p)) ∧
     (hLayout x.hd = 1 → hLayout x.hs = 1 → (∀ p ∈ blocks, placed (blockAddr x.hs p) size) → yields 0x00 (blocks.map fun p =>
       .val { pos := linear x.hd p, writes := [(blockAddr x.hd p, take (hSpace x.hs) size (blockAddr x.hs p))] })) ∧
     (elems → table x.hd → yields 0x0A ((walkPos x.hd).map fun p =>
       let i := index (row x.hd p)
       if i < hExt x.hs 1 then moves (linear x.hd p) (at' p.i0 i) p else lost x.hd p)) ∧
     (elems → table x.hs → yields 0x0B ((walkPos x.hs).map fun p =>
       let i := index (row x.hs p)
       if i < hExt x.hd 1 then moves (linear x.hs p) p (at' p.i0 i) else lost x.hs p)) ∧
     yields 0x0E ((walkPos x.hd).map fun p =>
       .val { pos := linear x.hd p, writes := [(elemAddr x.hd p, leBytes x.dSz x.p0.toNat)] })) ∧
  (∀ (x : XArgs) (b : Nat → Nat → Byte),
     let runs (xf : Nat) : List (Ev Piece) := (x.units xf false).map fun u => u.run fun space a => some (0, b space a)
     let piece (n : Nat) (writes : List (Int × List Byte)) (fp : FpFlags) : Ev Piece := .val { pos := n, writes := writes, fp := fp }
     let take (n : Nat) (a : Int) : List Byte := (List.range n).map fun i => b (hSpace x.hs) (a.toNat + i)
     let placed (a : Int) (n : Nat) (align : Int) := 0 ≤ a ∧
       a + n ≤ 2 ^ (if hSpace x.hs = 0 then 22 else if hSpace x.hs = 1 then 33 else 48) ∧ (hSpace x.hs ≤ 1 → a % align = 0)
     let size (h : BitVec 256) := if hEt h = 13 then 132 else 260
     let wide (h : BitVec 256) := decide (hEt h = 12)
     let start (h : BitVec 256) (w : Nat × Nat × Nat) : Pos := posAt h w.1 (256 * w.2.1)
     let f32 (q : Pos) : Nat := if inExt x.hs q then (loadLane x.sEt (leNat (take x.sSz (elemAddr x.hs q)))).toNat else 0
     let short (n : Nat) := (Rm.ofShort (n % 4)).getD .rne
     let o := x.p0.toNat
     let draw (n : Nat) (j : W64) := (gen x.seed x.sid (BitVec.ofNat 32 n) (j.setWidth 32)).toNat
     let quantised (w : Nat × Nat × Nat) := quant
       ((List.range w.2.2).map fun e => f32 (posAt x.hs w.1 (256 * w.2.1 + e))) w.2.2 (wide x.hd) (o % 16) (short (o / 16)) (o / 64 % 4)
       fun i => draw (linear x.hd (start x.hd w) + i) x.p1
     let bytes (q : Pos) := take (size x.hs) (blockAddr x.hs q)
     let num (l : List Byte) := leNat (l.take 4)
     let held (l : List Byte) (i : Nat) : X × FpFlags :=
       let c := if hdrWc (num l) then (l.getD (4 + i) 0).toNat else (l.getD (4 + i / 2) 0).toNat / (if i % 2 = 0 then 1 else 16) % 16
       if 256 ≤ i + num l % 256 then (.fin false 0 0, 0)
       else (decSel (hdrWc (num l)) (num l / 2 ^ 13 % 8) c).mul (scaleVal (num l / 2 ^ 16))
     let rm := (Rm.ofFull (o % 8)).getD .rne
     let converted (p : Pos) (v : X × FpFlags) : Ev Piece :=
       let w : X × FpFlags := if x.p0.getLsbD 4 then v.1.mul (dec32 (x.p1.toNat % 2 ^ 32)) else (v.1, 0)
       let r := cvtEt w.1 x.dEt rm (x.p0.getLsbD 3) (if rm = .sr then draw (linear x.hd p) x.p2 else 0)
       piece (linear x.hd p) [(elemAddr x.hd p, leBytes x.dSz r.1)] (w.2 ||| r.2 ||| v.2)
     let refused (a : Int) : Ev Piece := .err 0x05 (BitVec.ofInt 64 a)
     let fits (q : Pos) := hdrOk (num (bytes q)) (wide x.hs)
     let zero (l : List Byte) : Bool := (List.range 256).all fun i => (held l i).1.isZero
     let head (nb : Nat) := 8 + 8 * ((nb + 63) / 64)
     let slot (h : BitVec 256) (nb n i : Nat) : Int := ((hAddr h + head nb + i * n : Nat) : Int)
     let src := (walkBlocks x.hs).map fun w => bytes (start x.hs w)
     let nb := src.length
     let full (l : List (List Byte)) := (l.filter fun y => !zero y).length
     let bitmap := ((List.range nb).filter fun i => !zero (src.getD i [])).foldl (fun t i => t + 2 ^ i) 0
     let dst := walkBlocks x.hd
     let mark (i : Nat) : Bool := (b (hSpace x.hs) (hAddr x.hs + 8 + i / 8)).getLsbD (i % 8)
     let word := leNat (take 8 (hAddr x.hs : Int))
     let n := if wide x.hd then 260 else 132
     let place (k : Nat) := slot x.hs dst.length n ((List.range k).filter mark).length
     (hLayout x.hs = 0 → (∀ p, inExt x.hs p = true → placed (elemAddr x.hs p) x.sSz x.sSz) →
       runs 0x04 = (walkBlocks x.hd).map fun w => piece (linear x.hd (start x.hd w))
         [(blockAddr x.hd (start x.hd w), blockBytes (quantised w).1 (wide x.hd) (quantised w).2.1)] (quantised w).2.2) ∧
     (hLayout x.hs = 1 → hEt x.hs = 12 ∨ hEt x.hs = 13 → (∀ p ∈ walkPos x.hd, placed (blockAddr x.hs p) (size x.hs) 4) →
       runs 0x05 = (walkPos x.hd).map fun p => if fits p then converted p (held (bytes p) (blockOff x.hs p))
         else refused (blockAddr x.hs p)) ∧
     (hLayout x.hs = 1 → hEt x.hs = 12 ∨ hEt x.hs = 13 → nb ≠ 0 → nb < 2 ^ 32 →
       (∀ w ∈ walkBlocks x.hs, placed (blockAddr x.hs (start x.hs w)) (size x.hs) 4 ∧ fits (start x.hs w) = true) →
       runs 0x07 = (walkBlocks x.hs).zipIdx.map (fun q => piece (linear x.hd (start x.hs q.1))
           (if zero (src.getD q.2 []) then [] else [(slot x.hd nb (size x.hs) (full (src.take q.2)), src.getD q.2 [])]) 0) ++
         [piece (hExt x.hd 1 * hExt x.hd 2 * hExt x.hd 3 * hExt x.hd 0) [((hAddr x.hd : Int),
           leBytes 8 (nb + if wide x.hs then 2 ^ 32 else 0) ++ leBytes (8 * ((nb + 63) / 64)) bitmap)] 0]) ∧
     (hLayout x.hs = 2 → placed (hAddr x.hs : Int) (head dst.length + dst.length * n) 1 → dst.length < 2 ^ 32 →
       (word ≠ dst.length + (if wide x.hd then 2 ^ 32 else 0) → ∀ r ∈ runs 0x06, r = refused (hAddr x.hs : Int)) ∧
       (word = dst.length + (if wide x.hd then 2 ^ 32 else 0) → runs 0x06 = dst.zipIdx.map fun q =>
         let goal := blockAddr x.hd (start x.hd q.1)
         let moved (l : List Byte) : Ev Piece := piece (linear x.hd (start x.hd q.1)) [(goal, l)] 0
         if mark q.2 then
           if hdrOk (num (take 4 (place q.2))) (wide x.hd) then moved (take n (place q.2)) else refused (place q.2)
         else moved (leBytes 4 ((if wide x.hd then 0x1100 else 0) + min 255 (256 - q.1.2.2)) ++
           List.replicate (if wide x.hd then 256 else 128) 0)))) ∧
  (∀ (x : XArgs) (b : Nat → Nat → Byte) (red : Bool) (k : Nat) (ys : List Nat),
     let runs (xf : Nat) : List (Ev Piece) := (x.units xf red).map fun u => u.run fun space a => some (0, b space a)
     let piece (n : Nat) (writes : List (Int × List Byte)) (reds : List (Int × X)) (resid : List (Nat × List Byte)) (fp : FpFlags) :
         Ev Piece := .val { pos := n, writes := writes, red := reds, resid := resid, fp := fp }
     let take (space n : Nat) (a : Int) : List Byte := (List.range n).map fun i => b space (a.toNat + i)
     let placed (a : Int) (n : Nat) := 0 ≤ a ∧ a + n ≤ 2 ^ (if hSpace x.hs = 0 then 22 else if hSpace x.hs = 1 then 33 else 48) ∧
       (hSpace x.hs ≤ 1 → a % (esz (hEt x.hs) : Int) = 0)
     let ready := hLayout x.hs = 0 ∧ ∀ p, inExt x.hs p = true → placed (elemAddr x.hs p) x.sSz
     let code (q : Pos) := leNat (take (hSpace x.hs) x.sSz (elemAddr x.hs q))
     let at' (w : Nat × Nat × Nat) (e : Nat) : Pos := posAt x.hs w.1 (256 * w.2.1 + e)
     let f32 (q : Pos) : Nat := if inExt x.hs q then (loadLane x.sEt (code q)).toNat else 0
     let values (w : Nat × Nat × Nat) := (List.range w.2.2).map fun e => f32 (at' w e)
     let place (base : W64) (q : Pos) := base.toNat % 2 ^ 22 + 4 * linear x.hs q
     let table (base : W64) := ∀ w ∈ walkBlocks x.hs, ∀ e < w.2.2, place base (at' w e) + 4 ≤ 2 ^ 22
     let sums (base : W64) (w : Nat × Nat × Nat) := (List.range w.2.2).map fun e =>
       fadd (f32 (at' w e)) (leNat (take 0 4 ((place base (at' w e) : Nat) : Int)))
     let n := x.p0.toNat % 256
     let record (i : Nat) : Int := ((hAddr x.hd + i * (4 + 4 * n) : Nat) : Int)
     let left (kept : List (Nat × Nat)) (y e : Nat) : Nat × FpFlags := match kept.find? fun q => decide (q.1 = e) with
       | some q => fsub y q.2
       | none => (y, 0)
     let flags (l : List (Nat × FpFlags)) := orFlags (l.map (·.2))
     let rank (y : Nat) := if 0x7F800000 < y % 2 ^ 31 then 2 ^ 31 else y % 2 ^ 31
     let c := min k ys.length
     let t := topRecord k ys
     let half (y : Nat) := cvtF (dec32 y) .bf16 .rne false 0
     let o := x.p0.toNat
     let coded (w : Nat × Nat × Nat) := quant ((sums x.p2 w).map (·.1)) w.2.2 (x.p0.getLsbD 4) (o % 16)
       ((Rm.ofShort (o / 32 % 4)).getD .rne) 0
       fun i => (gen x.seed x.sid (BitVec.ofNat 32 (linear x.hd (at' w 0) + i)) (x.p1.setWidth 32)).toNat
     let part (w : Nat × Nat × Nat) (e : Nat) : X := blockElem (coded w).1
       ((blockBytes (coded w).1 (x.p0.getLsbD 4) (coded w).2.1).drop 4) e
     (ys.length ≤ 256 → k < 256 → ∃ ps : List Nat, ps.length = c ∧ ps.Pairwise (· < ·) ∧ (∀ e ∈ ps, e < ys.length) ∧
       (∀ e ∈ ps, ∀ d < ys.length, d ∉ ps → rank (ys.getD d 0) < rank (ys.getD e 0) ∨
         rank (ys.getD d 0) = rank (ys.getD e 0) ∧ e < d) ∧
       t.1 = leBytes 2 c ++ [0, 0] ++ ps.flatMap (fun e => [BitVec.ofNat 8 e, 0] ++ leBytes 2 (half (ys.getD e 0)).1)
         ++ List.replicate (4 * (k - c)) 0 ∧
       t.2.1 = ps.map (fun e => (e, (half (ys.getD e 0)).1 * 2 ^ 16)) ∧ t.2.2 = orFlags (ps.map fun e => (half (ys.getD e 0)).2)) ∧
     (ready → runs 0x08 = (walkBlocks x.hs).zipIdx.map fun q =>
       let r := topRecord n (values q.1)
       piece (q.2 * (4 + 4 * n)) [(record q.2, r.1)] [] [] r.2.2) ∧
     (ready → table x.p1 → runs 0x09 = (walkBlocks x.hs).zipIdx.map fun q =>
       let y := sums x.p1 q.1
       let r := topRecord n (y.map (·.1))
       let back := (List.range q.1.2.2).map fun e => left r.2.1 (y.getD e (0, 0)).1 e
       piece (q.2 * (4 + 4 * n)) [(record q.2, r.1)] [] (back.zipIdx.map fun z => (place x.p1 (at' q.1 z.2), leBytes 4 z.1.1))
         (flags y ||| r.2.2 ||| flags back)) ∧
     (ready → (∀ p, inExt x.hd p = true → inExt x.hs p = true) → runs 0x0C = (walkPos x.hd).map fun p =>
       piece (linear x.hd p) [] [(elemAddr x.hd p, decEt x.sEt (code p))] [] 0) ∧
     (ready → table x.p2 → runs 0x0D = (walkBlocks x.hs).map fun w =>
       piece (linear x.hd (at' w 0)) [] ((List.range w.2.2).map fun e => (elemAddr x.hd (at' w e), part w e))
         ((List.range w.2.2).map fun e =>
           (place x.p2 (at' w e), leBytes 4 (fsub ((sums x.p2 w).getD e (0, 0)).1 (rne32 (part w e)).1).1)) (coded w).2.2))

/-- R57, R58, R69: the value of every code of the floating formats, and, since no conversion changes a value that its
format holds, every finite code converts back to itself without a flag; the sixteen E2M1 codes and the code points
that bound E4M3 and E5M2. R56, R66, R67, R69, R71: a finite value between two codes of a format becomes one of the
two, by the mode, with INEXACT, and UNDERFLOW below the smallest normal: the nearer one, at a tie the even one; the
one below or above in magnitude; or by the draw, compared with the distance, rounded to FP32, in parts of the gap. One
above the largest finite that does not round back to it becomes infinite or the largest finite, with OVERFLOW and
INEXACT. Conversions to integers round the same way and take the limit with INVALID where they do not fit; what NaNs
and infinities become. R70: the minimum and the maximum of two FP32 codes: the other operand of a NaN, the canonical
NaN of two, else the smaller and the larger, −0 being less than +0. -/
def Obligations.CodesAndRoundings : Prop :=
  (let val (s : Bool) (x : X) (v : ℚ) := ∃ m q, x = .fin s m q ∧ (m : ℚ) * 2 ^ q = v
   (∀ (f : FFmt) (c u : Nat) (rm : Rm) (sat : Bool), c < 2 ^ f.width →
     let w := f.frac
     let s := decide (2 ^ (f.width - 1) ≤ c)
     let e := c / 2 ^ w % 2 ^ (f.width - 1 - w)
     let fr := c % 2 ^ w
     let special := e = 2 ^ (f.width - 1 - w) - 1 ∧ (f.hasInf = true ∨ f = .e4m3 ∧ fr = 7)
     let v : ℚ := if e = 0 then 2 ^ (1 - (f.bias : Int)) * ((fr : ℚ) / 2 ^ w)
       else 2 ^ ((e : Int) - f.bias) * (1 + (fr : ℚ) / 2 ^ w)
     (special → decF f c = if f.hasInf = true ∧ fr = 0 then .inf s else .nan) ∧
     (¬special → val s (decF f c) v ∧ cvtF (decF f c) f rm sat u = (c, 0))) ∧
   (∀ i < 8, let v : ℚ := [0, 1 / 2, 1, 3 / 2, 2, 3, 4, 6].getD i 0
     val false (decF .e2m1 i) v ∧ val true (decF .e2m1 (8 + i)) v) ∧
   val false (decF .e4m3 0x01) (1 / 2 ^ 9) ∧ val false (decF .e4m3 0x08) (1 / 2 ^ 6) ∧ val false (decF .e4m3 0x7E) 448 ∧
   (∀ c < 256, ∀ s, decF .e4m3 c ≠ .inf s) ∧
   val false (decF .e5m2 0x01) (1 / 2 ^ 16) ∧ val false (decF .e5m2 0x04) (1 / 2 ^ 14) ∧
   val false (decF .e5m2 0x7B) 57344 ∧ decF .e5m2 0x7C = .inf false ∧ decF .e5m2 0xFC = .inf true) ∧
  (∀ (f : FFmt) (rm : Rm) (sat s : Bool) (m u w : Nat) (signed : Bool) (e : Int),
     let mag (f : FFmt) (c : Nat) : ℚ := if c < 2 ^ f.frac then 2 ^ (1 - (f.bias : Int)) * ((c : ℚ) / 2 ^ f.frac)
       else 2 ^ (((c / 2 ^ f.frac : Nat) : Int) - f.bias) * (1 + ((c % 2 ^ f.frac : Nat) : ℚ) / 2 ^ f.frac)
     let y : ℚ := (m : ℚ) * 2 ^ e
     let sign := if s then 2 ^ (f.width - 1) else 0
     let top := f.maxCode
     let inf := 2 ^ (f.width - 1) - 2 ^ f.frac
     let gap := mag f top - mag f (top - 1)
     let cvt := cvtF (.fin s m e) f rm sat u
     let up (lo gap : ℚ) (odd : Bool) : Prop := match rm with
       | .rne => gap < 2 * (y - lo) ∨ gap = 2 * (y - lo) ∧ odd = true
       | .rtz => False
       | .rdn => s = true
       | .rup => s = false
       | .sr => ∀ (r : Nat) (q : Int), (r : ℚ) * 2 ^ q = y - lo →
           ((u / 256 + 1 : Nat) : ℚ) ≤ 2 ^ 24 * mag .fp32 (cvtF (.fin false r q) .fp32 .rne false 0).1 / gap
     let back := y < mag f top + gap ∧ rm ≠ .sr ∧ ¬up (mag f top) gap (decide (top % 2 = 1))
     let clamps := f.hasInf = false ∨ sat = true ∨ rm = .rtz ∨ rm = .sr ∨ rm = .rup ∧ s = true ∨ rm = .rdn ∧ s = false
     let lo : Int := if signed then -2 ^ (w - 1) else 0
     let hi : Int := if signed then 2 ^ (w - 1) - 1 else 2 ^ w - 1
     let limit := if s then lo else hi
     let whole (r : Nat) : Int := if s then -(r : Int) else r
     let int := cvtI (.fin s m e) w signed rm u
     let nan : Nat := match f with
       | .fp32 => 0x7FC00000
       | .fp16 => 0x7E00
       | .bf16 => 0x7FC0
       | .e5m2 => 0x7E
       | .e4m3 => 0x7F
       | .e2m1 => 0
     (∀ c ≤ top, y = mag f c → cvt = (sign + c, 0)) ∧
     (∀ c < top, mag f c < y → y < mag f (c + 1) →
       let goesUp := up (mag f c) (mag f (c + 1) - mag f c) (decide (c % 2 = 1))
       cvt.2 = (if y < mag f (2 ^ f.frac) then 3 else 1) ∧
         (goesUp → cvt.1 = sign + (c + 1)) ∧ (¬goesUp → cvt.1 = sign + c)) ∧
     (mag f top < y →
       (back → cvt = (sign + top, 1)) ∧ (¬back → clamps → cvt = (sign + top, 5)) ∧ (¬back → ¬clamps → cvt = (sign + inf, 5))) ∧
     cvtF .nan f rm sat u = (nan, if f = .e2m1 then 16 else 0) ∧
     cvtF (.inf s) f rm sat u = (if f.hasInf = true ∧ sat = false then (sign + inf, 0) else (sign + top, 4)) ∧
     (1 ≤ w → (∀ k : Nat, (k : ℚ) ≤ y → y < k + 1 →
         let goesUp := (k : ℚ) < y ∧ up k 1 (decide (k % 2 = 1))
         let fits (r : Nat) := lo ≤ whole r ∧ whole r ≤ hi
         let gives (r : Nat) := (fits r → int = (whole r, if (k : ℚ) = y then 0 else 1)) ∧ (¬fits r → int = (limit, 16))
         (goesUp → gives (k + 1)) ∧ (¬goesUp → gives k)) ∧
       cvtI .nan w signed rm u = (0, 16) ∧ cvtI (.inf s) w signed rm u = (limit, 16))) ∧
  (∀ (a b : Nat), a < 2 ^ 32 → b < 2 ^ 32 →
     let nan (x : Nat) := 0x7F800000 < x % 2 ^ 31
     let rank (x : Nat) : Int := if 2 ^ 31 ≤ x then -1 - ((x % 2 ^ 31 : Nat) : Int) else x
     fmin a b = (if nan a then (if nan b then 0x7FC00000 else b) else if nan b then a else if rank b < rank a then b else a) ∧
     fmax a b = (if nan a then (if nan b then 0x7FC00000 else b) else if nan b then a else if rank a < rank b then b else a))
end

