-- ==== Sys2Proof/Laws/Decode.lean ====
section
/-! SUPPORT. The fields of a word give back what was packed into them (02_words.md R18, R24, R26, R27). -/

namespace Sys2Proof

theorem ext_hi {n m : Nat} (x : BitVec n) (y : BitVec m) (k l : Nat) :
    (x ++ y).extractLsb' (m + k) l = x.extractLsb' k l := by
  apply BitVec.eq_of_getLsbD_eq
  intro i hi
  simp only [BitVec.getLsbD_extractLsb', BitVec.getLsbD_append, hi, decide_true, Bool.true_and]
  rw [if_neg (by omega)]
  congr 1
  omega

theorem ext_lo {n m : Nat} (x : BitVec n) (y : BitVec m) : (x ++ y).extractLsb' 0 m = y := by
  apply BitVec.eq_of_getLsbD_eq
  intro i hi
  simp [BitVec.getLsbD_append, hi]

theorem ext_all {n : Nat} (x : BitVec n) : x.extractLsb' 0 n = x := by
  apply BitVec.eq_of_getLsbD_eq
  intro i hi
  simp [hi]

@[simp] theorem fits_setWidth {n w : Nat} (h : n ≤ w) (x : BitVec n) : fits n (x.setWidth w) = true := by
  simp [fits, BitVec.setWidth_setWidth_of_le x h]

/-! ## Format AR -/

@[simp] theorem arD_packAR (d : BitVec 6) (a : BitVec 6) (b : BitVec 6) (c : BitVec 6) (fn : BitVec 16) :
    arD (packAR d a b c fn) = d :=
  (ext_hi (d ++ a ++ b ++ c) fn 18 6).trans ((ext_hi (d ++ a ++ b) c 12 6).trans ((ext_hi (d ++ a) b 6 6).trans ((ext_hi (d) a 0 6).trans (ext_all d))))

@[simp] theorem arA_packAR (d : BitVec 6) (a : BitVec 6) (b : BitVec 6) (c : BitVec 6) (fn : BitVec 16) :
    arA (packAR d a b c fn) = a :=
  (ext_hi (d ++ a ++ b ++ c) fn 12 6).trans ((ext_hi (d ++ a ++ b) c 6 6).trans ((ext_hi (d ++ a) b 0 6).trans (ext_lo (d) a)))

@[simp] theorem arB_packAR (d : BitVec 6) (a : BitVec 6) (b : BitVec 6) (c : BitVec 6) (fn : BitVec 16) :
    arB (packAR d a b c fn) = b :=
  (ext_hi (d ++ a ++ b ++ c) fn 6 6).trans ((ext_hi (d ++ a ++ b) c 0 6).trans (ext_lo (d ++ a) b))

@[simp] theorem arC_packAR (d : BitVec 6) (a : BitVec 6) (b : BitVec 6) (c : BitVec 6) (fn : BitVec 16) :
    arC (packAR d a b c fn) = c :=
  (ext_hi (d ++ a ++ b ++ c) fn 0 6).trans (ext_lo (d ++ a ++ b) c)

@[simp] theorem arFn_packAR (d : BitVec 6) (a : BitVec 6) (b : BitVec 6) (c : BitVec 6) (fn : BitVec 16) :
    arFn (packAR d a b c fn) = fn :=
  ext_lo (d ++ a ++ b ++ c) fn

/-! ## Format AI -/

@[simp] theorem aiD_packAI (d : BitVec 6) (a : BitVec 6) (imm : BitVec 28) :
    aiD (packAI d a imm) = d :=
  (ext_hi (d ++ a) imm 6 6).trans ((ext_hi (d) a 0 6).trans (ext_all d))

@[simp] theorem aiA_packAI (d : BitVec 6) (a : BitVec 6) (imm : BitVec 28) :
    aiA (packAI d a imm) = a :=
  (ext_hi (d ++ a) imm 0 6).trans (ext_lo (d) a)

@[simp] theorem aiImm_packAI (d : BitVec 6) (a : BitVec 6) (imm : BitVec 28) :
    aiImm (packAI d a imm) = imm :=
  ext_lo (d ++ a) imm

/-! ## Format AL -/

@[simp] theorem alD_packAL (d : BitVec 6) (imm : BitVec 34) :
    alD (packAL d imm) = d :=
  (ext_hi (d) imm 0 6).trans (ext_all d)

@[simp] theorem alImm_packAL (d : BitVec 6) (imm : BitVec 34) :
    alImm (packAL d imm) = imm :=
  ext_lo (d) imm

/-! ## Format AB -/

@[simp] theorem abA_packAB (a : BitVec 6) (b : BitVec 6) (cc : BitVec 4) (off : BitVec 24) :
    abA (packAB a b cc off) = a :=
  (ext_hi (a ++ b ++ cc) off 10 6).trans ((ext_hi (a ++ b) cc 6 6).trans ((ext_hi (a) b 0 6).trans (ext_all a)))

@[simp] theorem abB_packAB (a : BitVec 6) (b : BitVec 6) (cc : BitVec 4) (off : BitVec 24) :
    abB (packAB a b cc off) = b :=
  (ext_hi (a ++ b ++ cc) off 4 6).trans ((ext_hi (a ++ b) cc 0 6).trans (ext_lo (a) b))

@[simp] theorem abCc_packAB (a : BitVec 6) (b : BitVec 6) (cc : BitVec 4) (off : BitVec 24) :
    abCc (packAB a b cc off) = cc :=
  (ext_hi (a ++ b ++ cc) off 0 4).trans (ext_lo (a ++ b) cc)

@[simp] theorem abOff_packAB (a : BitVec 6) (b : BitVec 6) (cc : BitVec 4) (off : BitVec 24) :
    abOff (packAB a b cc off) = off :=
  ext_lo (a ++ b ++ cc) off

/-! ## Format AH -/

@[simp] theorem ahH_packAH (h : BitVec 4) (g : BitVec 4) (a : BitVec 6) (b : BitVec 6) (fld : BitVec 8) (z : BitVec 12) :
    ahH (packAH h g a b fld z) = h :=
  (ext_hi (h ++ g ++ a ++ b ++ fld) z 24 4).trans ((ext_hi (h ++ g ++ a ++ b) fld 16 4).trans ((ext_hi (h ++ g ++ a) b 10 4).trans ((ext_hi (h ++ g) a 4 4).trans ((ext_hi (h) g 0 4).trans (ext_all h)))))

@[simp] theorem ahG_packAH (h : BitVec 4) (g : BitVec 4) (a : BitVec 6) (b : BitVec 6) (fld : BitVec 8) (z : BitVec 12) :
    ahG (packAH h g a b fld z) = g :=
  (ext_hi (h ++ g ++ a ++ b ++ fld) z 20 4).trans ((ext_hi (h ++ g ++ a ++ b) fld 12 4).trans ((ext_hi (h ++ g ++ a) b 6 4).trans ((ext_hi (h ++ g) a 0 4).trans (ext_lo (h) g))))

@[simp] theorem ahA_packAH (h : BitVec 4) (g : BitVec 4) (a : BitVec 6) (b : BitVec 6) (fld : BitVec 8) (z : BitVec 12) :
    ahA (packAH h g a b fld z) = a :=
  (ext_hi (h ++ g ++ a ++ b ++ fld) z 14 6).trans ((ext_hi (h ++ g ++ a ++ b) fld 6 6).trans ((ext_hi (h ++ g ++ a) b 0 6).trans (ext_lo (h ++ g) a)))

@[simp] theorem ahB_packAH (h : BitVec 4) (g : BitVec 4) (a : BitVec 6) (b : BitVec 6) (fld : BitVec 8) (z : BitVec 12) :
    ahB (packAH h g a b fld z) = b :=
  (ext_hi (h ++ g ++ a ++ b ++ fld) z 8 6).trans ((ext_hi (h ++ g ++ a ++ b) fld 0 6).trans (ext_lo (h ++ g ++ a) b))

@[simp] theorem ahFld_packAH (h : BitVec 4) (g : BitVec 4) (a : BitVec 6) (b : BitVec 6) (fld : BitVec 8) (z : BitVec 12) :
    ahFld (packAH h g a b fld z) = fld :=
  (ext_hi (h ++ g ++ a ++ b ++ fld) z 0 8).trans (ext_lo (h ++ g ++ a ++ b) fld)

@[simp] theorem ahZ_packAH (h : BitVec 4) (g : BitVec 4) (a : BitVec 6) (b : BitVec 6) (fld : BitVec 8) (z : BitVec 12) :
    ahZ (packAH h g a b fld z) = z :=
  ext_lo (h ++ g ++ a ++ b ++ fld) z

/-! ## Format AC -/

@[simp] theorem acHd_packAC (hd : BitVec 4) (hs : BitVec 4) (p : BitVec 6) (xf : BitVec 8) (tq : BitVec 4) (flags : BitVec 6) (aux : BitVec 8) :
    acHd (packAC hd hs p xf tq flags aux) = hd :=
  (ext_hi (hd ++ hs ++ p ++ xf ++ tq ++ flags) aux 28 4).trans ((ext_hi (hd ++ hs ++ p ++ xf ++ tq) flags 22 4).trans ((ext_hi (hd ++ hs ++ p ++ xf) tq 18 4).trans ((ext_hi (hd ++ hs ++ p) xf 10 4).trans ((ext_hi (hd ++ hs) p 4 4).trans ((ext_hi (hd) hs 0 4).trans (ext_all hd))))))

@[simp] theorem acHs_packAC (hd : BitVec 4) (hs : BitVec 4) (p : BitVec 6) (xf : BitVec 8) (tq : BitVec 4) (flags : BitVec 6) (aux : BitVec 8) :
    acHs (packAC hd hs p xf tq flags aux) = hs :=
  (ext_hi (hd ++ hs ++ p ++ xf ++ tq ++ flags) aux 24 4).trans ((ext_hi (hd ++ hs ++ p ++ xf ++ tq) flags 18 4).trans ((ext_hi (hd ++ hs ++ p ++ xf) tq 14 4).trans ((ext_hi (hd ++ hs ++ p) xf 6 4).trans ((ext_hi (hd ++ hs) p 0 4).trans (ext_lo (hd) hs)))))

@[simp] theorem acP_packAC (hd : BitVec 4) (hs : BitVec 4) (p : BitVec 6) (xf : BitVec 8) (tq : BitVec 4) (flags : BitVec 6) (aux : BitVec 8) :
    acP (packAC hd hs p xf tq flags aux) = p :=
  (ext_hi (hd ++ hs ++ p ++ xf ++ tq ++ flags) aux 18 6).trans ((ext_hi (hd ++ hs ++ p ++ xf ++ tq) flags 12 6).trans ((ext_hi (hd ++ hs ++ p ++ xf) tq 8 6).trans ((ext_hi (hd ++ hs ++ p) xf 0 6).trans (ext_lo (hd ++ hs) p))))

@[simp] theorem acXf_packAC (hd : BitVec 4) (hs : BitVec 4) (p : BitVec 6) (xf : BitVec 8) (tq : BitVec 4) (flags : BitVec 6) (aux : BitVec 8) :
    acXf (packAC hd hs p xf tq flags aux) = xf :=
  (ext_hi (hd ++ hs ++ p ++ xf ++ tq ++ flags) aux 10 8).trans ((ext_hi (hd ++ hs ++ p ++ xf ++ tq) flags 4 8).trans ((ext_hi (hd ++ hs ++ p ++ xf) tq 0 8).trans (ext_lo (hd ++ hs ++ p) xf)))

@[simp] theorem acTq_packAC (hd : BitVec 4) (hs : BitVec 4) (p : BitVec 6) (xf : BitVec 8) (tq : BitVec 4) (flags : BitVec 6) (aux : BitVec 8) :
    acTq (packAC hd hs p xf tq flags aux) = tq :=
  (ext_hi (hd ++ hs ++ p ++ xf ++ tq ++ flags) aux 6 4).trans ((ext_hi (hd ++ hs ++ p ++ xf ++ tq) flags 0 4).trans (ext_lo (hd ++ hs ++ p ++ xf) tq))

@[simp] theorem acFlags_packAC (hd : BitVec 4) (hs : BitVec 4) (p : BitVec 6) (xf : BitVec 8) (tq : BitVec 4) (flags : BitVec 6) (aux : BitVec 8) :
    acFlags (packAC hd hs p xf tq flags aux) = flags :=
  (ext_hi (hd ++ hs ++ p ++ xf ++ tq ++ flags) aux 0 6).trans (ext_lo (hd ++ hs ++ p ++ xf ++ tq) flags)

@[simp] theorem acAux_packAC (hd : BitVec 4) (hs : BitVec 4) (p : BitVec 6) (xf : BitVec 8) (tq : BitVec 4) (flags : BitVec 6) (aux : BitVec 8) :
    acAux (packAC hd hs p xf tq flags aux) = aux :=
  ext_lo (hd ++ hs ++ p ++ xf ++ tq ++ flags) aux

/-! ## Format AS -/

@[simp] theorem asD_packAS (d : BitVec 6) (a : BitVec 6) (csr : BitVec 12) (imm : BitVec 16) :
    asD (packAS d a csr imm) = d :=
  (ext_hi (d ++ a ++ csr) imm 18 6).trans ((ext_hi (d ++ a) csr 6 6).trans ((ext_hi (d) a 0 6).trans (ext_all d)))

@[simp] theorem asA_packAS (d : BitVec 6) (a : BitVec 6) (csr : BitVec 12) (imm : BitVec 16) :
    asA (packAS d a csr imm) = a :=
  (ext_hi (d ++ a ++ csr) imm 12 6).trans ((ext_hi (d ++ a) csr 0 6).trans (ext_lo (d) a))

@[simp] theorem asCsr_packAS (d : BitVec 6) (a : BitVec 6) (csr : BitVec 12) (imm : BitVec 16) :
    asCsr (packAS d a csr imm) = csr :=
  (ext_hi (d ++ a ++ csr) imm 0 12).trans (ext_lo (d ++ a) csr)

@[simp] theorem asImm_packAS (d : BitVec 6) (a : BitVec 6) (csr : BitVec 12) (imm : BitVec 16) :
    asImm (packAS d a csr imm) = imm :=
  ext_lo (d ++ a ++ csr) imm

/-! ## Format CO -/

@[simp] theorem coZ_packCO (z : BitVec 24) (imm : BitVec 16) :
    coZ (packCO z imm) = z :=
  (ext_hi (z) imm 0 24).trans (ext_all z)

@[simp] theorem coImm_packCO (z : BitVec 24) (imm : BitVec 16) :
    coImm (packCO z imm) = imm :=
  ext_lo (z) imm

/-! ## Format MT -/

@[simp] theorem mtA_packMT (a : BitVec 3) (t1 : BitVec 3) (t2 : BitVec 3) (m : BitVec 3) (m2 : BitVec 3) (z : BitVec 5) (imm : BitVec 20) :
    mtA (packMT a t1 t2 m m2 z imm) = a :=
  (ext_hi (a ++ t1 ++ t2 ++ m ++ m2 ++ z) imm 17 3).trans ((ext_hi (a ++ t1 ++ t2 ++ m ++ m2) z 12 3).trans ((ext_hi (a ++ t1 ++ t2 ++ m) m2 9 3).trans ((ext_hi (a ++ t1 ++ t2) m 6 3).trans ((ext_hi (a ++ t1) t2 3 3).trans ((ext_hi (a) t1 0 3).trans (ext_all a))))))

@[simp] theorem mtT1_packMT (a : BitVec 3) (t1 : BitVec 3) (t2 : BitVec 3) (m : BitVec 3) (m2 : BitVec 3) (z : BitVec 5) (imm : BitVec 20) :
    mtT1 (packMT a t1 t2 m m2 z imm) = t1 :=
  (ext_hi (a ++ t1 ++ t2 ++ m ++ m2 ++ z) imm 14 3).trans ((ext_hi (a ++ t1 ++ t2 ++ m ++ m2) z 9 3).trans ((ext_hi (a ++ t1 ++ t2 ++ m) m2 6 3).trans ((ext_hi (a ++ t1 ++ t2) m 3 3).trans ((ext_hi (a ++ t1) t2 0 3).trans (ext_lo (a) t1)))))

@[simp] theorem mtT2_packMT (a : BitVec 3) (t1 : BitVec 3) (t2 : BitVec 3) (m : BitVec 3) (m2 : BitVec 3) (z : BitVec 5) (imm : BitVec 20) :
    mtT2 (packMT a t1 t2 m m2 z imm) = t2 :=
  (ext_hi (a ++ t1 ++ t2 ++ m ++ m2 ++ z) imm 11 3).trans ((ext_hi (a ++ t1 ++ t2 ++ m ++ m2) z 6 3).trans ((ext_hi (a ++ t1 ++ t2 ++ m) m2 3 3).trans ((ext_hi (a ++ t1 ++ t2) m 0 3).trans (ext_lo (a ++ t1) t2))))

@[simp] theorem mtM_packMT (a : BitVec 3) (t1 : BitVec 3) (t2 : BitVec 3) (m : BitVec 3) (m2 : BitVec 3) (z : BitVec 5) (imm : BitVec 20) :
    mtM (packMT a t1 t2 m m2 z imm) = m :=
  (ext_hi (a ++ t1 ++ t2 ++ m ++ m2 ++ z) imm 8 3).trans ((ext_hi (a ++ t1 ++ t2 ++ m ++ m2) z 3 3).trans ((ext_hi (a ++ t1 ++ t2 ++ m) m2 0 3).trans (ext_lo (a ++ t1 ++ t2) m)))

@[simp] theorem mtM2_packMT (a : BitVec 3) (t1 : BitVec 3) (t2 : BitVec 3) (m : BitVec 3) (m2 : BitVec 3) (z : BitVec 5) (imm : BitVec 20) :
    mtM2 (packMT a t1 t2 m m2 z imm) = m2 :=
  (ext_hi (a ++ t1 ++ t2 ++ m ++ m2 ++ z) imm 5 3).trans ((ext_hi (a ++ t1 ++ t2 ++ m ++ m2) z 0 3).trans (ext_lo (a ++ t1 ++ t2 ++ m) m2))

@[simp] theorem mtZ_packMT (a : BitVec 3) (t1 : BitVec 3) (t2 : BitVec 3) (m : BitVec 3) (m2 : BitVec 3) (z : BitVec 5) (imm : BitVec 20) :
    mtZ (packMT a t1 t2 m m2 z imm) = z :=
  (ext_hi (a ++ t1 ++ t2 ++ m ++ m2 ++ z) imm 0 5).trans (ext_lo (a ++ t1 ++ t2 ++ m ++ m2) z)

@[simp] theorem mtImm_packMT (a : BitVec 3) (t1 : BitVec 3) (t2 : BitVec 3) (m : BitVec 3) (m2 : BitVec 3) (z : BitVec 5) (imm : BitVec 20) :
    mtImm (packMT a t1 t2 m m2 z imm) = imm :=
  ext_lo (a ++ t1 ++ t2 ++ m ++ m2 ++ z) imm

/-! ## Format MC -/

@[simp] theorem mcM_packMC (m : BitVec 3) (z : BitVec 5) (imm : BitVec 32) :
    mcM (packMC m z imm) = m :=
  (ext_hi (m ++ z) imm 5 3).trans ((ext_hi (m) z 0 3).trans (ext_all m))

@[simp] theorem mcZ_packMC (m : BitVec 3) (z : BitVec 5) (imm : BitVec 32) :
    mcZ (packMC m z imm) = z :=
  (ext_hi (m ++ z) imm 0 5).trans (ext_lo (m) z)

@[simp] theorem mcImm_packMC (m : BitVec 3) (z : BitVec 5) (imm : BitVec 32) :
    mcImm (packMC m z imm) = imm :=
  ext_lo (m ++ z) imm

/-! ## Format MB -/

@[simp] theorem mbM_packMB (m : BitVec 3) (z : BitVec 13) (off : BitVec 24) :
    mbM (packMB m z off) = m :=
  (ext_hi (m ++ z) off 13 3).trans ((ext_hi (m) z 0 3).trans (ext_all m))

@[simp] theorem mbZ_packMB (m : BitVec 3) (z : BitVec 13) (off : BitVec 24) :
    mbZ (packMB m z off) = z :=
  (ext_hi (m ++ z) off 0 13).trans (ext_lo (m) z)

@[simp] theorem mbOff_packMB (m : BitVec 3) (z : BitVec 13) (off : BitVec 24) :
    mbOff (packMB m z off) = off :=
  ext_lo (m ++ z) off

/-! ## Format VR -/

@[simp] theorem vrD_packVR (d : BitVec 5) (a : BitVec 5) (b : BitVec 5) (c : BitVec 5) (k : BitVec 3) (ty : BitVec 2) (fn : BitVec 15) :
    vrD (packVR d a b c k ty fn) = d :=
  (ext_hi (d ++ a ++ b ++ c ++ k ++ ty) fn 20 5).trans ((ext_hi (d ++ a ++ b ++ c ++ k) ty 18 5).trans ((ext_hi (d ++ a ++ b ++ c) k 15 5).trans ((ext_hi (d ++ a ++ b) c 10 5).trans ((ext_hi (d ++ a) b 5 5).trans ((ext_hi (d) a 0 5).trans (ext_all d))))))

@[simp] theorem vrA_packVR (d : BitVec 5) (a : BitVec 5) (b : BitVec 5) (c : BitVec 5) (k : BitVec 3) (ty : BitVec 2) (fn : BitVec 15) :
    vrA (packVR d a b c k ty fn) = a :=
  (ext_hi (d ++ a ++ b ++ c ++ k ++ ty) fn 15 5).trans ((ext_hi (d ++ a ++ b ++ c ++ k) ty 13 5).trans ((ext_hi (d ++ a ++ b ++ c) k 10 5).trans ((ext_hi (d ++ a ++ b) c 5 5).trans ((ext_hi (d ++ a) b 0 5).trans (ext_lo (d) a)))))

@[simp] theorem vrB_packVR (d : BitVec 5) (a : BitVec 5) (b : BitVec 5) (c : BitVec 5) (k : BitVec 3) (ty : BitVec 2) (fn : BitVec 15) :
    vrB (packVR d a b c k ty fn) = b :=
  (ext_hi (d ++ a ++ b ++ c ++ k ++ ty) fn 10 5).trans ((ext_hi (d ++ a ++ b ++ c ++ k) ty 8 5).trans ((ext_hi (d ++ a ++ b ++ c) k 5 5).trans ((ext_hi (d ++ a ++ b) c 0 5).trans (ext_lo (d ++ a) b))))

@[simp] theorem vrC_packVR (d : BitVec 5) (a : BitVec 5) (b : BitVec 5) (c : BitVec 5) (k : BitVec 3) (ty : BitVec 2) (fn : BitVec 15) :
    vrC (packVR d a b c k ty fn) = c :=
  (ext_hi (d ++ a ++ b ++ c ++ k ++ ty) fn 5 5).trans ((ext_hi (d ++ a ++ b ++ c ++ k) ty 3 5).trans ((ext_hi (d ++ a ++ b ++ c) k 0 5).trans (ext_lo (d ++ a ++ b) c)))

@[simp] theorem vrK_packVR (d : BitVec 5) (a : BitVec 5) (b : BitVec 5) (c : BitVec 5) (k : BitVec 3) (ty : BitVec 2) (fn : BitVec 15) :
    vrK (packVR d a b c k ty fn) = k :=
  (ext_hi (d ++ a ++ b ++ c ++ k ++ ty) fn 2 3).trans ((ext_hi (d ++ a ++ b ++ c ++ k) ty 0 3).trans (ext_lo (d ++ a ++ b ++ c) k))

@[simp] theorem vrTy_packVR (d : BitVec 5) (a : BitVec 5) (b : BitVec 5) (c : BitVec 5) (k : BitVec 3) (ty : BitVec 2) (fn : BitVec 15) :
    vrTy (packVR d a b c k ty fn) = ty :=
  (ext_hi (d ++ a ++ b ++ c ++ k ++ ty) fn 0 2).trans (ext_lo (d ++ a ++ b ++ c ++ k) ty)

@[simp] theorem vrFn_packVR (d : BitVec 5) (a : BitVec 5) (b : BitVec 5) (c : BitVec 5) (k : BitVec 3) (ty : BitVec 2) (fn : BitVec 15) :
    vrFn (packVR d a b c k ty fn) = fn :=
  ext_lo (d ++ a ++ b ++ c ++ k ++ ty) fn

/-! ## Format VX -/

@[simp] theorem vxD_packVX (d : BitVec 4) (a : BitVec 4) (imm : BitVec 32) :
    vxD (packVX d a imm) = d :=
  (ext_hi (d ++ a) imm 4 4).trans ((ext_hi (d) a 0 4).trans (ext_all d))

@[simp] theorem vxA_packVX (d : BitVec 4) (a : BitVec 4) (imm : BitVec 32) :
    vxA (packVX d a imm) = a :=
  (ext_hi (d ++ a) imm 0 4).trans (ext_lo (d) a)

@[simp] theorem vxImm_packVX (d : BitVec 4) (a : BitVec 4) (imm : BitVec 32) :
    vxImm (packVX d a imm) = imm :=
  ext_lo (d ++ a) imm

/-! ## Format VM -/

@[simp] theorem vmV_packVM (v : BitVec 5) (x : BitVec 4) (et : BitVec 4) (k : BitVec 3) (imm : BitVec 24) :
    vmV (packVM v x et k imm) = v :=
  (ext_hi (v ++ x ++ et ++ k) imm 11 5).trans ((ext_hi (v ++ x ++ et) k 8 5).trans ((ext_hi (v ++ x) et 4 5).trans ((ext_hi (v) x 0 5).trans (ext_all v))))

@[simp] theorem vmX_packVM (v : BitVec 5) (x : BitVec 4) (et : BitVec 4) (k : BitVec 3) (imm : BitVec 24) :
    vmX (packVM v x et k imm) = x :=
  (ext_hi (v ++ x ++ et ++ k) imm 7 4).trans ((ext_hi (v ++ x ++ et) k 4 4).trans ((ext_hi (v ++ x) et 0 4).trans (ext_lo (v) x)))

@[simp] theorem vmEt_packVM (v : BitVec 5) (x : BitVec 4) (et : BitVec 4) (k : BitVec 3) (imm : BitVec 24) :
    vmEt (packVM v x et k imm) = et :=
  (ext_hi (v ++ x ++ et ++ k) imm 3 4).trans ((ext_hi (v ++ x ++ et) k 0 4).trans (ext_lo (v ++ x) et))

@[simp] theorem vmK_packVM (v : BitVec 5) (x : BitVec 4) (et : BitVec 4) (k : BitVec 3) (imm : BitVec 24) :
    vmK (packVM v x et k imm) = k :=
  (ext_hi (v ++ x ++ et ++ k) imm 0 3).trans (ext_lo (v ++ x ++ et) k)

@[simp] theorem vmImm_packVM (v : BitVec 5) (x : BitVec 4) (et : BitVec 4) (k : BitVec 3) (imm : BitVec 24) :
    vmImm (packVM v x et k imm) = imm :=
  ext_lo (v ++ x ++ et ++ k) imm

/-! ## Format VQ -/

@[simp] theorem vqV_packVQ (v : BitVec 4) (x : BitVec 4) (xr : BitVec 4) (en : BitVec 8) (wc : BitVec 1) (rm : BitVec 2) (had : BitVec 2) (z : BitVec 15) :
    vqV (packVQ v x xr en wc rm had z) = v :=
  (ext_hi (v ++ x ++ xr ++ en ++ wc ++ rm ++ had) z 21 4).trans ((ext_hi (v ++ x ++ xr ++ en ++ wc ++ rm) had 19 4).trans ((ext_hi (v ++ x ++ xr ++ en ++ wc) rm 17 4).trans ((ext_hi (v ++ x ++ xr ++ en) wc 16 4).trans ((ext_hi (v ++ x ++ xr) en 8 4).trans ((ext_hi (v ++ x) xr 4 4).trans ((ext_hi (v) x 0 4).trans (ext_all v)))))))

@[simp] theorem vqX_packVQ (v : BitVec 4) (x : BitVec 4) (xr : BitVec 4) (en : BitVec 8) (wc : BitVec 1) (rm : BitVec 2) (had : BitVec 2) (z : BitVec 15) :
    vqX (packVQ v x xr en wc rm had z) = x :=
  (ext_hi (v ++ x ++ xr ++ en ++ wc ++ rm ++ had) z 17 4).trans ((ext_hi (v ++ x ++ xr ++ en ++ wc ++ rm) had 15 4).trans ((ext_hi (v ++ x ++ xr ++ en ++ wc) rm 13 4).trans ((ext_hi (v ++ x ++ xr ++ en) wc 12 4).trans ((ext_hi (v ++ x ++ xr) en 4 4).trans ((ext_hi (v ++ x) xr 0 4).trans (ext_lo (v) x))))))

@[simp] theorem vqXr_packVQ (v : BitVec 4) (x : BitVec 4) (xr : BitVec 4) (en : BitVec 8) (wc : BitVec 1) (rm : BitVec 2) (had : BitVec 2) (z : BitVec 15) :
    vqXr (packVQ v x xr en wc rm had z) = xr :=
  (ext_hi (v ++ x ++ xr ++ en ++ wc ++ rm ++ had) z 13 4).trans ((ext_hi (v ++ x ++ xr ++ en ++ wc ++ rm) had 11 4).trans ((ext_hi (v ++ x ++ xr ++ en ++ wc) rm 9 4).trans ((ext_hi (v ++ x ++ xr ++ en) wc 8 4).trans ((ext_hi (v ++ x ++ xr) en 0 4).trans (ext_lo (v ++ x) xr)))))

@[simp] theorem vqEn_packVQ (v : BitVec 4) (x : BitVec 4) (xr : BitVec 4) (en : BitVec 8) (wc : BitVec 1) (rm : BitVec 2) (had : BitVec 2) (z : BitVec 15) :
    vqEn (packVQ v x xr en wc rm had z) = en :=
  (ext_hi (v ++ x ++ xr ++ en ++ wc ++ rm ++ had) z 5 8).trans ((ext_hi (v ++ x ++ xr ++ en ++ wc ++ rm) had 3 8).trans ((ext_hi (v ++ x ++ xr ++ en ++ wc) rm 1 8).trans ((ext_hi (v ++ x ++ xr ++ en) wc 0 8).trans (ext_lo (v ++ x ++ xr) en))))

@[simp] theorem vqWc_packVQ (v : BitVec 4) (x : BitVec 4) (xr : BitVec 4) (en : BitVec 8) (wc : BitVec 1) (rm : BitVec 2) (had : BitVec 2) (z : BitVec 15) :
    vqWc (packVQ v x xr en wc rm had z) = wc :=
  (ext_hi (v ++ x ++ xr ++ en ++ wc ++ rm ++ had) z 4 1).trans ((ext_hi (v ++ x ++ xr ++ en ++ wc ++ rm) had 2 1).trans ((ext_hi (v ++ x ++ xr ++ en ++ wc) rm 0 1).trans (ext_lo (v ++ x ++ xr ++ en) wc)))

@[simp] theorem vqRm_packVQ (v : BitVec 4) (x : BitVec 4) (xr : BitVec 4) (en : BitVec 8) (wc : BitVec 1) (rm : BitVec 2) (had : BitVec 2) (z : BitVec 15) :
    vqRm (packVQ v x xr en wc rm had z) = rm :=
  (ext_hi (v ++ x ++ xr ++ en ++ wc ++ rm ++ had) z 2 2).trans ((ext_hi (v ++ x ++ xr ++ en ++ wc ++ rm) had 0 2).trans (ext_lo (v ++ x ++ xr ++ en ++ wc) rm))

@[simp] theorem vqHad_packVQ (v : BitVec 4) (x : BitVec 4) (xr : BitVec 4) (en : BitVec 8) (wc : BitVec 1) (rm : BitVec 2) (had : BitVec 2) (z : BitVec 15) :
    vqHad (packVQ v x xr en wc rm had z) = had :=
  (ext_hi (v ++ x ++ xr ++ en ++ wc ++ rm ++ had) z 0 2).trans (ext_lo (v ++ x ++ xr ++ en ++ wc ++ rm) had)

@[simp] theorem vqZ_packVQ (v : BitVec 4) (x : BitVec 4) (xr : BitVec 4) (en : BitVec 8) (wc : BitVec 1) (rm : BitVec 2) (had : BitVec 2) (z : BitVec 15) :
    vqZ (packVQ v x xr en wc rm had z) = z :=
  ext_lo (v ++ x ++ xr ++ en ++ wc ++ rm ++ had) z

/-! ## Format VB -/

@[simp] theorem vbA_packVB (a : BitVec 4) (b : BitVec 4) (cc : BitVec 4) (z : BitVec 4) (off : BitVec 24) :
    vbA (packVB a b cc z off) = a :=
  (ext_hi (a ++ b ++ cc ++ z) off 12 4).trans ((ext_hi (a ++ b ++ cc) z 8 4).trans ((ext_hi (a ++ b) cc 4 4).trans ((ext_hi (a) b 0 4).trans (ext_all a))))

@[simp] theorem vbB_packVB (a : BitVec 4) (b : BitVec 4) (cc : BitVec 4) (z : BitVec 4) (off : BitVec 24) :
    vbB (packVB a b cc z off) = b :=
  (ext_hi (a ++ b ++ cc ++ z) off 8 4).trans ((ext_hi (a ++ b ++ cc) z 4 4).trans ((ext_hi (a ++ b) cc 0 4).trans (ext_lo (a) b)))

@[simp] theorem vbCc_packVB (a : BitVec 4) (b : BitVec 4) (cc : BitVec 4) (z : BitVec 4) (off : BitVec 24) :
    vbCc (packVB a b cc z off) = cc :=
  (ext_hi (a ++ b ++ cc ++ z) off 4 4).trans ((ext_hi (a ++ b ++ cc) z 0 4).trans (ext_lo (a ++ b) cc))

@[simp] theorem vbZ_packVB (a : BitVec 4) (b : BitVec 4) (cc : BitVec 4) (z : BitVec 4) (off : BitVec 24) :
    vbZ (packVB a b cc z off) = z :=
  (ext_hi (a ++ b ++ cc ++ z) off 0 4).trans (ext_lo (a ++ b ++ cc) z)

@[simp] theorem vbOff_packVB (a : BitVec 4) (b : BitVec 4) (cc : BitVec 4) (z : BitVec 4) (off : BitVec 24) :
    vbOff (packVB a b cc z off) = off :=
  ext_lo (a ++ b ++ cc ++ z) off

/-! ## Fields packed into one field -/

theorem ext_high {n m : Nat} (x : BitVec n) (y : BitVec m) : (x ++ y).extractLsb' m n = x :=
  (ext_hi x y 0 n).trans (ext_all x)

theorem ext_low {n m : Nat} (x : BitVec n) (y : BitVec m) : (x ++ y).extractLsb' 0 m = y := ext_lo x y

@[simp] theorem atomFn_zero (b : Bool) (y : BitVec 4) : (0#11 ++ BitVec.ofBool b ++ y).extractLsb' 5 11 = 0#11 :=
  (ext_hi (0#11 ++ BitVec.ofBool b) y 1 11).trans (ext_high (0#11) (BitVec.ofBool b))

@[simp] theorem atomFn_w64 (b : Bool) (y : BitVec 4) : (0#11 ++ BitVec.ofBool b ++ y)[4] = b := by
  rw [← BitVec.getLsbD_eq_getElem (by decide)]
  simp only [BitVec.getLsbD_append]
  simp

@[simp] theorem catomFn_zero (h : BitVec 4) (b b' : Bool) (y : BitVec 4) :
    (h ++ 0#6 ++ BitVec.ofBool b ++ BitVec.ofBool b' ++ y).extractLsb' 6 6 = 0#6 :=
  (ext_hi (h ++ 0#6 ++ BitVec.ofBool b ++ BitVec.ofBool b') y 2 6).trans
    ((ext_hi (h ++ 0#6 ++ BitVec.ofBool b) (BitVec.ofBool b') 1 6).trans
      ((ext_hi (h ++ 0#6) (BitVec.ofBool b) 0 6).trans (ext_low h (0#6))))

@[simp] theorem catomFn_h (h : BitVec 4) (b b' : Bool) (y : BitVec 4) :
    (h ++ 0#6 ++ BitVec.ofBool b ++ BitVec.ofBool b' ++ y).extractLsb' 12 4 = h :=
  (ext_hi (h ++ 0#6 ++ BitVec.ofBool b ++ BitVec.ofBool b') y 8 4).trans
    ((ext_hi (h ++ 0#6 ++ BitVec.ofBool b) (BitVec.ofBool b') 7 4).trans
      ((ext_hi (h ++ 0#6) (BitVec.ofBool b) 6 4).trans (ext_high h (0#6))))

@[simp] theorem catomFn_w64 (h : BitVec 4) (b b' : Bool) (y : BitVec 4) :
    (h ++ 0#6 ++ BitVec.ofBool b ++ BitVec.ofBool b' ++ y)[4] = b' := by
  rw [← BitVec.getLsbD_eq_getElem (by decide)]
  simp only [BitVec.getLsbD_append]
  simp

@[simp] theorem catomFn_acq (h : BitVec 4) (b b' : Bool) (y : BitVec 4) :
    (h ++ 0#6 ++ BitVec.ofBool b ++ BitVec.ofBool b' ++ y)[5] = b := by
  rw [← BitVec.getLsbD_eq_getElem (by decide)]
  simp only [BitVec.getLsbD_append]
  simp

@[simp] theorem clkdivImm_zero (e : BitVec 2) (n : BitVec 4) : (0#10 ++ e ++ n).extractLsb' 6 10 = 0#10 :=
  (ext_hi (0#10 ++ e) n 2 10).trans (ext_high (0#10) e)

@[simp] theorem clkdivImm_eng (e : BitVec 2) (n : BitVec 4) : (0#10 ++ e ++ n).extractLsb' 4 2 = e :=
  (ext_hi (0#10 ++ e) n 0 2).trans (ext_low (0#10) e)

@[simp] theorem zpcImm_zero (wc wr : BitVec 2) : (0#16 ++ wc ++ wr).extractLsb' 4 16 = 0#16 :=
  (ext_hi (0#16 ++ wc) wr 2 16).trans (ext_high (0#16) wc)

@[simp] theorem zpcImm_wc (wc wr : BitVec 2) : (0#16 ++ wc ++ wr).extractLsb' 2 2 = wc :=
  (ext_hi (0#16 ++ wc) wr 0 2).trans (ext_low (0#16) wc)

@[simp] theorem vcvtFn_zero (b : Bool) (r : BitVec 3) (y : BitVec 4) :
    (0#7 ++ BitVec.ofBool b ++ r ++ y).extractLsb' 8 7 = 0#7 :=
  (ext_hi (0#7 ++ BitVec.ofBool b ++ r) y 4 7).trans
    ((ext_hi (0#7 ++ BitVec.ofBool b) r 1 7).trans (ext_high (0#7) (BitVec.ofBool b)))

@[simp] theorem vcvtFn_rm (b : Bool) (r : BitVec 3) (y : BitVec 4) :
    (0#7 ++ BitVec.ofBool b ++ r ++ y).extractLsb' 4 3 = r :=
  (ext_hi (0#7 ++ BitVec.ofBool b ++ r) y 0 3).trans (ext_low (0#7 ++ BitVec.ofBool b) r)

@[simp] theorem vcvtFn_sat (b : Bool) (r : BitVec 3) (y : BitVec 4) : (0#7 ++ BitVec.ofBool b ++ r ++ y)[7] = b := by
  rw [← BitVec.getLsbD_eq_getElem (by decide)]
  simp only [BitVec.getLsbD_append]
  simp

@[simp] theorem cmpiImm_cc (x : BitVec 4) (y : BitVec 24) : (x ++ y).extractLsb' 24 4 = x := ext_high x y
@[simp] theorem cmpiImm_imm (x : BitVec 4) (y : BitVec 24) : (x ++ y).extractLsb' 0 24 = y := ext_low x y
@[simp] theorem atomFn_op (b : Bool) (y : BitVec 4) : (0#11 ++ BitVec.ofBool b ++ y).extractLsb' 0 4 = y :=
  ext_low (0#11 ++ BitVec.ofBool b) y
@[simp] theorem catomFn_op (h : BitVec 4) (b b' : Bool) (y : BitVec 4) :
    (h ++ 0#6 ++ BitVec.ofBool b ++ BitVec.ofBool b' ++ y).extractLsb' 0 4 = y :=
  ext_low (h ++ 0#6 ++ BitVec.ofBool b ++ BitVec.ofBool b') y
@[simp] theorem clkdivImm_n (e : BitVec 2) (n : BitVec 4) : (0#10 ++ e ++ n).extractLsb' 0 4 = n :=
  ext_low (0#10 ++ e) n
@[simp] theorem zpcImm_wr (wc wr : BitVec 2) : (0#16 ++ wc ++ wr).extractLsb' 0 2 = wr := ext_low (0#16 ++ wc) wr
@[simp] theorem vcvtFn_dt (b : Bool) (r : BitVec 3) (y : BitVec 4) :
    (0#7 ++ BitVec.ofBool b ++ r ++ y).extractLsb' 0 4 = y := ext_low (0#7 ++ BitVec.ofBool b ++ r) y
@[simp] theorem quad_zero (v : BitVec 2) : (v ++ 0#2).extractLsb' 0 2 = 0#2 := ext_low v (0#2)
@[simp] theorem quad_number (v : BitVec 2) : (v ++ 0#2).extractLsb' 2 2 = v := ext_high v (0#2)

@[simp] theorem pairCode_pair (d : BitVec 3) : pairCode (0#1 ++ d ++ 0#1) = true := by revert d; decide

@[simp] theorem pair_number (d : BitVec 3) : (0#1 ++ d ++ 0#1).extractLsb' 1 3 = d :=
  (ext_hi (0#1 ++ d) (0#1) 0 3).trans (ext_low (0#1) d)

/-! ## Words (R18) -/

@[simp] theorem wordX_mkWord (c : Ctl) (op : BitVec 8) (x : BitVec 40) : wordX (mkWord c op x) = x :=
  ext_lo (c.wq ++ c.wn ++ c.sq ++ c.sn ++ op) x

@[simp] theorem wordOp_mkWord (c : Ctl) (op : BitVec 8) (x : BitVec 40) : wordOp (mkWord c op x) = op :=
  (ext_hi (c.wq ++ c.wn ++ c.sq ++ c.sn ++ op) x 0 8).trans (ext_lo (c.wq ++ c.wn ++ c.sq ++ c.sn) op)

theorem wq_mkWord (c : Ctl) (op : BitVec 8) (x : BitVec 40) :
    (mkWord c op x).extractLsb' 60 4 = c.wq :=
  (ext_hi (c.wq ++ c.wn ++ c.sq ++ c.sn ++ op) x 20 4).trans ((ext_hi (c.wq ++ c.wn ++ c.sq ++ c.sn) op 12 4).trans ((ext_hi (c.wq ++ c.wn ++ c.sq) c.sn 8 4).trans ((ext_hi (c.wq ++ c.wn) c.sq 4 4).trans ((ext_hi (c.wq) c.wn 0 4).trans (ext_all c.wq)))))

theorem wn_mkWord (c : Ctl) (op : BitVec 8) (x : BitVec 40) :
    (mkWord c op x).extractLsb' 56 4 = c.wn :=
  (ext_hi (c.wq ++ c.wn ++ c.sq ++ c.sn ++ op) x 16 4).trans ((ext_hi (c.wq ++ c.wn ++ c.sq ++ c.sn) op 8 4).trans ((ext_hi (c.wq ++ c.wn ++ c.sq) c.sn 4 4).trans ((ext_hi (c.wq ++ c.wn) c.sq 0 4).trans (ext_lo (c.wq) c.wn))))

theorem sq_mkWord (c : Ctl) (op : BitVec 8) (x : BitVec 40) :
    (mkWord c op x).extractLsb' 52 4 = c.sq :=
  (ext_hi (c.wq ++ c.wn ++ c.sq ++ c.sn ++ op) x 12 4).trans ((ext_hi (c.wq ++ c.wn ++ c.sq ++ c.sn) op 4 4).trans ((ext_hi (c.wq ++ c.wn ++ c.sq) c.sn 0 4).trans (ext_lo (c.wq ++ c.wn) c.sq)))

theorem sn_mkWord (c : Ctl) (op : BitVec 8) (x : BitVec 40) :
    (mkWord c op x).extractLsb' 48 4 = c.sn :=
  (ext_hi (c.wq ++ c.wn ++ c.sq ++ c.sn ++ op) x 8 4).trans ((ext_hi (c.wq ++ c.wn ++ c.sq ++ c.sn) op 0 4).trans (ext_lo (c.wq ++ c.wn ++ c.sq) c.sn))

@[simp] theorem wordCtl_mkWord (c : Ctl) (op : BitVec 8) (x : BitVec 40) : wordCtl (mkWord c op x) = c := by
  unfold wordCtl
  rw [wq_mkWord, wn_mkWord, sq_mkWord, sn_mkWord]

/-- A word whose fields decode to a well-formed instruction decodes to it. -/
theorem decodeWord_mkWord (st : StreamId) (c : Ctl) (op : BitVec 8) (x : BitVec 40) (i : Instr) (hop : op ≠ 0xFF)
    (hd : decodeFields st op.toNat c x = .ok i) (hw : wfError i = none) : decodeWord st (mkWord c op x) = .ok i := by
  unfold decodeWord
  rw [wordOp_mkWord, if_neg hop, wordCtl_mkWord, wordX_mkWord, hd]
  simp only [hw]

/-- ILL keeps the bits beside its opcode (R35). -/
theorem decodeWord_ill (st : StreamId) (rest : BitVec 56) :
    decodeWord st (rest.extractLsb' 40 16 ++ 0xFF#8 ++ rest.extractLsb' 0 40) = .ok (.ill st rest) := by
  have h1 : wordOp (rest.extractLsb' 40 16 ++ 0xFF#8 ++ rest.extractLsb' 0 40) = 0xFF :=
    (ext_hi (rest.extractLsb' 40 16 ++ 0xFF#8) (rest.extractLsb' 0 40) 0 8).trans (ext_low _ _)
  have h2 : wordX (rest.extractLsb' 40 16 ++ 0xFF#8 ++ rest.extractLsb' 0 40) = rest.extractLsb' 0 40 := ext_low _ _
  have h3 : (rest.extractLsb' 40 16 ++ 0xFF#8 ++ rest.extractLsb' 0 40).extractLsb' 48 16 = rest.extractLsb' 40 16 :=
    (ext_hi (rest.extractLsb' 40 16 ++ 0xFF#8) (rest.extractLsb' 0 40) 8 16).trans (ext_high _ _)
  unfold decodeWord
  rw [if_pos h1, h2, h3]
  congr 2
  apply BitVec.eq_of_getLsbD_eq
  intro i hi
  refine BitVec.getLsbD_append.trans ?_
  by_cases h : i < 40
  · simp [h]
  · have : 40 + (i - 40) = i := by omega
    simp [h, this]
    omega

/-! ## Codes -/

@[simp] theorem Cond.ofCode_code4 (x : Cond) : Cond.ofCode (x.code % 16) = some x := by cases x <;> rfl

@[simp] theorem Cond.ofCode_code6 (x : Cond) : Cond.ofCode (x.code % 64) = some x := by cases x <;> rfl

@[simp] theorem Cond.ofCode_code15 (x : Cond) : Cond.ofCode (x.code % 32768) = some x := by cases x <;> rfl

@[simp] theorem Cond.ofCode_code16 (x : Cond) : Cond.ofCode (x.code % 65536) = some x := by cases x <;> rfl

@[simp] theorem LogOp.ofCode_code15 (x : LogOp) : LogOp.ofCode (x.code % 32768) = some x := by cases x <;> rfl

@[simp] theorem LogOp.ofCode_code16 (x : LogOp) : LogOp.ofCode (x.code % 65536) = some x := by cases x <;> rfl

@[simp] theorem HField.ofCode_code8 (x : HField) : HField.ofCode (x.code % 256) = some x := by cases x <;> rfl

@[simp] theorem DqId.ofCode_code6 (x : DqId) : DqId.ofCode (x.code % 64) = some x := by cases x <;> rfl

@[simp] theorem RField.ofCode_code16 (x : RField) : RField.ofCode (x.code % 65536) = some x := by cases x <;> rfl

@[simp] theorem AtomOp.ofCode_code4 (x : AtomOp) : AtomOp.ofCode (x.code % 16) = some x := by cases x <;> rfl

@[simp] theorem AtomOp.ofCode_code16 (x : AtomOp) : AtomOp.ofCode (x.code % 65536) = some x := by cases x <;> rfl

@[simp] theorem Csr.ofCode_code12 (x : Csr) : Csr.ofCode (x.code % 4096) = some x := by cases x <;> rfl

@[simp] theorem Eng.ofCode_code2 (x : Eng) : Eng.ofCode (x.code % 4) = some x := by cases x <;> rfl

@[simp] theorem VTy.ofCode_code2 (x : VTy) : VTy.ofCode (x.code % 4) = some x := by cases x <;> rfl

@[simp] theorem MemTy.ofCode_code4 (x : MemTy) : MemTy.ofCode (x.code % 16) = some x := by cases x <;> rfl

@[simp] theorem RmFull.ofCode_code3 (x : RmFull) : RmFull.ofCode (x.code % 8) = some x := by cases x <;> rfl

@[simp] theorem RmShort.ofCode_code2 (x : RmShort) : RmShort.ofCode (x.code % 4) = some x := by cases x <;> rfl

@[simp] theorem VSrc.ofCode_code (x : VSrc) : VSrc.ofCode (x.code % 32) = some x := by
  cases x with
  | v n => revert n; decide
  | z n => revert n; decide
  | dv => rfl

@[simp] theorem VDst.ofCode_code (x : VDst) : VDst.ofCode (x.code % 32) = some x := by
  cases x with
  | v n => revert n; decide
  | z n => revert n; decide

end Sys2Proof
end

