-- ==== Sys2Proof/Laws/State.lean ====
section
/-! SUPPORT. One lemma per field and update of the state: what an update leaves alone, and what it writes. -/

namespace Sys2Proof.Machine

/-! ## Vectors by number -/

@[simp] theorem vget_vset_same {α : Type} {n : Nat} (v : Vector α n) (i : Nat) (x d : α) (h : i < n) :
    vget (vset v i x) i d = x := by
  simp [vget, vset, h]

@[simp] theorem vget_vset_other {α : Type} {n : Nat} (v : Vector α n) (i j : Nat) (x d : α) (h : i ≠ j) :
    vget (vset v i x) j d = vget v j d := by
  unfold vget vset
  split
  · split
    · simp [h]
    · rfl
  · rfl

/-! ## Cores -/

@[simp] theorem State.onCore_core (s : State) (f : Core → Core) : (s.onCore f).core = f s.core := rfl
@[simp] theorem State.onCore_cur (s : State) (f : Core → Core) : (s.onCore f).cur = s.cur := rfl
@[simp] theorem State.onCore_parked (s : State) (f : Core → Core) : (s.onCore f).parked = s.parked := rfl
@[simp] theorem State.onCore_agenda (s : State) (f : Core → Core) : (s.onCore f).agenda = s.agenda := rfl
@[simp] theorem State.onCore_free (s : State) (f : Core → Core) : (s.onCore f).free = s.free := rfl
@[simp] theorem State.onCore_mem (s : State) (f : Core → Core) : (s.onCore f).mem = s.mem := rfl
@[simp] theorem State.onCore_tags (s : State) (f : Core → Core) : (s.onCore f).tags = s.tags := rfl
@[simp] theorem State.onCore_poison (s : State) (f : Core → Core) : (s.onCore f).poison = s.poison := rfl
@[simp] theorem State.onCore_cache (s : State) (f : Core → Core) : (s.onCore f).cache = s.cache := rfl
@[simp] theorem State.onCore_host (s : State) (f : Core → Core) : (s.onCore f).host = s.host := rfl
@[simp] theorem State.onCore_peers (s : State) (f : Core → Core) : (s.onCore f).peers = s.peers := rfl
@[simp] theorem State.onCore_eptr (s : State) (f : Core → Core) : (s.onCore f).eptr = s.eptr := rfl
@[simp] theorem State.onCore_tlb (s : State) (f : Core → Core) : (s.onCore f).tlb = s.tlb := rfl
@[simp] theorem State.onCore_reply (s : State) (f : Core → Core) : (s.onCore f).reply = s.reply := rfl
@[simp] theorem State.onCore_erg (s : State) (f : Core → Core) : (s.onCore f).erg = s.erg := rfl
@[simp] theorem State.onCore_dist (s : State) (f : Core → Core) : (s.onCore f).dist = s.dist := rfl
@[simp] theorem State.onCore_ten (s : State) (f : Core → Core) : (s.onCore f).ten = s.ten := rfl
@[simp] theorem State.onCore_cl (s : State) (f : Core → Core) : (s.onCore f).cl = s.cl := rfl
@[simp] theorem State.onCore_pw (s : State) (f : Core → Core) : (s.onCore f).pw = s.pw := rfl
@[simp] theorem State.onCore_expo (s : State) (f : Core → Core) : (s.onCore f).expo = s.expo := rfl
@[simp] theorem State.onCore_links (s : State) (f : Core → Core) : (s.onCore f).links = s.links := rfl
@[simp] theorem State.onCore_ck (s : State) (f : Core → Core) : (s.onCore f).ck = s.ck := rfl
@[simp] theorem State.onCore_boot (s : State) (f : Core → Core) : (s.onCore f).boot = s.boot := rfl
@[simp] theorem State.onCore_answer (s : State) (f : Core → Core) : (s.onCore f).answer = s.answer := rfl
@[simp] theorem State.onCore_ril (s : State) (f : Core → Core) : (s.onCore f).ril = s.ril := rfl

@[simp] theorem State.onCore_onCore (s : State) (f g : Core → Core) : (s.onCore f).onCore g = s.onCore (g ∘ f) := rfl

@[simp] theorem State.getCore_cur (s : State) : s.getCore s.cur = s.core := by simp [State.getCore]

@[simp] theorem alGet_alSet_same {α : Type} (d : α) (l : List (Nat × α)) (n : Nat) (x : α) :
    alGet d (alSet l n x) n = x := by
  induction l with
  | nil => simp [alSet, alGet]
  | cons p r ih =>
    obtain ⟨k, y⟩ := p
    unfold alSet
    split
    · simp [alGet]
    · split
      · simp [alGet]
      · simp [alGet, *]

theorem alGet_alSet_other {α : Type} (d : α) (l : List (Nat × α)) (n m : Nat) (x : α) (h : n ≠ m) :
    alGet d (alSet l n x) m = alGet d l m := by
  induction l with
  | nil => simp [alSet, alGet, h]
  | cons p r ih =>
    obtain ⟨k, y⟩ := p
    unfold alSet
    split
    · simp [alGet, h]
    · split
      · subst_vars; simp [alGet, h]
      · simp [alGet, ih]

@[simp] theorem State.getCore_putCore (s : State) (n : Nat) (c : Core) : (s.putCore n c).getCore n = c := by
  unfold State.putCore
  split
  · simp [State.getCore, *]
  · simp [State.getCore, *]

theorem State.getCore_putCore_other (s : State) (n m : Nat) (c : Core) (h : n ≠ m) :
    (s.putCore n c).getCore m = s.getCore m := by
  unfold State.putCore
  split
  · have : m ≠ s.cur := by omega
    simp [State.getCore, this]
  · by_cases hm : m = s.cur
    · simp [State.getCore, hm]
    · simp [State.getCore, hm, alGet_alSet_other _ _ _ _ _ h]

/-! ## Registers of a core -/

theorem csrSlot_lt (n : Csr) : n.slot < 37 := by cases n <;> decide

theorem csrSlot_inj {m n : Csr} (h : m ≠ n) : m.slot ≠ n.slot := by
  revert h; cases m <;> cases n <;> decide

@[simp] theorem Core.csr_setCsr (c : Core) (n : Csr) (x : W64) : (c.setCsr n x).csr n = x := by
  simp [Core.csr, Core.setCsr, csrSlot_lt n]

theorem Core.csr_setCsr_other (c : Core) {m n : Csr} (x : W64) (h : m ≠ n) : (c.setCsr m x).csr n = c.csr n := by
  simp [Core.csr, Core.setCsr, csrSlot_inj h]

@[simp] theorem Core.setCsr_q (c : Core) (n : Csr) (x : W64) : (c.setCsr n x).q = c.q := rfl
@[simp] theorem Core.setCsr_ci (c : Core) (n : Csr) (x : W64) : (c.setCsr n x).ci = c.ci := rfl
@[simp] theorem Core.setCsr_sa (c : Core) (n : Csr) (x : W64) : (c.setCsr n x).sa = c.sa := rfl
@[simp] theorem Core.setCsr_sm (c : Core) (n : Csr) (x : W64) : (c.setCsr n x).sm = c.sm := rfl
@[simp] theorem Core.setCsr_sv (c : Core) (n : Csr) (x : W64) : (c.setCsr n x).sv = c.sv := rfl
@[simp] theorem Core.setCsr_land (c : Core) (n : Csr) (x : W64) : (c.setCsr n x).land = c.land := rfl
@[simp] theorem Core.setCsr_array (c : Core) (n : Csr) (x : W64) : (c.setCsr n x).array = c.array := rfl
@[simp] theorem Core.setCsr_cp (c : Core) (n : Csr) (x : W64) : (c.setCsr n x).cp = c.cp := rfl
@[simp] theorem Core.setCsr_o (c : Core) (n : Csr) (x : W64) : (c.setCsr n x).o = c.o := rfl
@[simp] theorem Core.setCsr_t (c : Core) (n : Csr) (x : W64) : (c.setCsr n x).t = c.t := rfl
@[simp] theorem Core.setCsr_job (c : Core) (n : Csr) (x : W64) : (c.setCsr n x).job = c.job := rfl
@[simp] theorem Core.setCsr_phase (c : Core) (n : Csr) (x : W64) : (c.setCsr n x).phase = c.phase := rfl
@[simp] theorem Core.setCsr_sram (c : Core) (n : Csr) (x : W64) : (c.setCsr n x).r.sram = c.r.sram := rfl
@[simp] theorem Core.setCsr_pres (c : Core) (n : Csr) (x : W64) : (c.setCsr n x).r.pres = c.r.pres := rfl
theorem Core.setCsr_r (c : Core) (n : Csr) (x : W64) :
    (c.setCsr n x).r = { c.r with csr := vset c.r.csr n.slot x } := rfl

@[simp] theorem Core.setStream_r (c : Core) (st : StreamId) (x : Stream) : (c.setStream st x).r = c.r := by
  cases st <;> rfl
@[simp] theorem Core.setStream_q (c : Core) (st : StreamId) (x : Stream) : (c.setStream st x).q = c.q := by
  cases st <;> rfl
@[simp] theorem Core.setStream_land (c : Core) (st : StreamId) (x : Stream) : (c.setStream st x).land = c.land := by
  cases st <;> rfl
@[simp] theorem Core.setStream_array (c : Core) (st : StreamId) (x : Stream) : (c.setStream st x).array = c.array := by
  cases st <;> rfl
@[simp] theorem Core.setStream_cp (c : Core) (st : StreamId) (x : Stream) : (c.setStream st x).cp = c.cp := by
  cases st <;> rfl
@[simp] theorem Core.setStream_o (c : Core) (st : StreamId) (x : Stream) : (c.setStream st x).o = c.o := by
  cases st <;> rfl
@[simp] theorem Core.setStream_ci (c : Core) (st : StreamId) (x : Stream) : (c.setStream st x).ci = c.ci := by
  cases st <;> rfl
@[simp] theorem Core.setStream_t (c : Core) (st : StreamId) (x : Stream) : (c.setStream st x).t = c.t := by
  cases st <;> rfl
@[simp] theorem Core.setStream_job (c : Core) (st : StreamId) (x : Stream) : (c.setStream st x).job = c.job := by
  cases st <;> rfl
@[simp] theorem Core.setStream_phase (c : Core) (st : StreamId) (x : Stream) : (c.setStream st x).phase = c.phase := by
  cases st <;> rfl
@[simp] theorem Core.stream_setStream (c : Core) (st : StreamId) (x : Stream) : (c.setStream st x).stream st = x := by
  cases st <;> rfl
theorem Core.stream_setStream_other (c : Core) {st st' : StreamId} (x : Stream) (h : st ≠ st') :
    (c.setStream st x).stream st' = c.stream st' := by
  cases st <;> cases st' <;> first | rfl | exact absurd rfl h
@[simp] theorem Core.csr_setStream (c : Core) (st : StreamId) (x : Stream) (n : Csr) :
    (c.setStream st x).csr n = c.csr n := by
  cases st <;> rfl
@[simp] theorem Core.inSup_setStream (c : Core) (st : StreamId) (x : Stream) : (c.setStream st x).inSup = c.inSup := by
  cases st <;> rfl

/-! ## The issue of a word -/

@[simp] theorem Queues.tokensAt_dq (q : Queues) (k : Ctl) : (q.tokensAt k).dq = q.dq := by
  unfold Queues.tokensAt; split <;> split <;> rfl
@[simp] theorem Queues.tokensAt_dres (q : Queues) (k : Ctl) : (q.tokensAt k).dres = q.dres := by
  unfold Queues.tokensAt; split <;> split <;> rfl
@[simp] theorem Queues.tokensAt_ring (q : Queues) (k : Ctl) : (q.tokensAt k).ring = q.ring := by
  unfold Queues.tokensAt; split <;> split <;> rfl
@[simp] theorem Queues.tokensAt_ringV (q : Queues) (k : Ctl) : (q.tokensAt k).ringV = q.ringV := by
  unfold Queues.tokensAt; split <;> split <;> rfl
@[simp] theorem Queues.tokensAt_bar (q : Queues) (k : Ctl) : (q.tokensAt k).bar = q.bar := by
  unfold Queues.tokensAt; split <;> split <;> rfl
@[simp] theorem Queues.tokensAt_barV (q : Queues) (k : Ctl) : (q.tokensAt k).barV = q.barV := by
  unfold Queues.tokensAt; split <;> split <;> rfl

/-- The counters a user word is charged with are CSRs; nothing else of the registers changes (11 R286, 13 R313). -/
theorem Core.charge_r (c : Core) : c.charge.r = { c.r with csr := c.charge.r.csr } := by
  unfold Core.charge; split
  · rfl
  · simp only; split <;> rfl
@[simp] theorem Core.charge_q (c : Core) : c.charge.q = c.q := by
  unfold Core.charge; split
  · rfl
  · simp only; split <;> rfl
@[simp] theorem Core.charge_land (c : Core) : c.charge.land = c.land := by
  unfold Core.charge; split
  · rfl
  · simp only; split <;> rfl
@[simp] theorem Core.charge_array (c : Core) : c.charge.array = c.array := by
  unfold Core.charge; split
  · rfl
  · simp only; split <;> rfl
@[simp] theorem Core.charge_cp (c : Core) : c.charge.cp = c.cp := by
  unfold Core.charge; split
  · rfl
  · simp only; split <;> rfl
@[simp] theorem Core.charge_o (c : Core) : c.charge.o = c.o := by
  unfold Core.charge; split
  · rfl
  · simp only; split <;> rfl
@[simp] theorem Core.charge_ci (c : Core) : c.charge.ci = c.ci := by
  unfold Core.charge; split
  · rfl
  · simp only; split <;> rfl
@[simp] theorem Core.charge_t (c : Core) : c.charge.t = c.t := by
  unfold Core.charge; split
  · rfl
  · simp only; split <;> rfl
@[simp] theorem Core.charge_job (c : Core) : c.charge.job = c.job := by
  unfold Core.charge; split
  · rfl
  · simp only; split <;> rfl
@[simp] theorem Core.charge_phase (c : Core) : c.charge.phase = c.phase := by
  unfold Core.charge; split
  · rfl
  · simp only; split <;> rfl
@[simp] theorem Core.charge_stream (c : Core) (st : StreamId) : c.charge.stream st = c.stream st := by
  unfold Core.charge; split
  · rfl
  · simp only; split <;> cases st <;> rfl
theorem Core.charge_csr (c : Core) {n : Csr} (h1 : n ≠ .issued) (h2 : n ≠ .slice) : c.charge.csr n = c.csr n := by
  unfold Core.charge; split
  · rfl
  · simp only; split
    · exact c.csr_setCsr_other _ h1.symm
    · rw [Core.csr_setCsr_other _ _ h2.symm, Core.csr_setCsr_other _ _ h1.symm]

theorem Core.issued_r (c : Core) (p : Plan) : (c.issued p).r = { c.r with csr := (c.issued p).r.csr } := by
  have h : (c.issued p).r = (Core.charge (c.setStream p.st (c.streamAt p))).r := rfl
  rw [h, Core.charge_r, Core.setStream_r]
@[simp] theorem Core.issued_q (c : Core) (p : Plan) : (c.issued p).q = c.q.tokensAt p.ctl := rfl
@[simp] theorem Core.issued_array (c : Core) (p : Plan) : (c.issued p).array = c.array := by simp [Core.issued]
@[simp] theorem Core.issued_cp (c : Core) (p : Plan) : (c.issued p).cp = c.cp := by simp [Core.issued]
@[simp] theorem Core.issued_o (c : Core) (p : Plan) : (c.issued p).o = c.o := by simp [Core.issued]
@[simp] theorem Core.issued_ci (c : Core) (p : Plan) : (c.issued p).ci = c.ci := by simp [Core.issued]
@[simp] theorem Core.issued_t (c : Core) (p : Plan) : (c.issued p).t = c.t := by simp [Core.issued]
@[simp] theorem Core.issued_job (c : Core) (p : Plan) : (c.issued p).job = c.job := by simp [Core.issued]
@[simp] theorem Core.issued_phase (c : Core) (p : Plan) : (c.issued p).phase = c.phase := by simp [Core.issued]
theorem Core.issued_land (c : Core) (p : Plan) :
    (c.issued p).land = if c.silent p then c.land else c.land ++ [p.entry c.inSup] := rfl
theorem Core.issued_csr (c : Core) (p : Plan) {n : Csr} (h1 : n ≠ .issued) (h2 : n ≠ .slice) :
    (c.issued p).csr n = c.csr n := by
  show (Core.charge _).csr n = _
  rw [Core.charge_csr _ h1 h2, Core.csr_setStream]
@[simp] theorem Core.issued_stream (c : Core) (p : Plan) : (c.issued p).stream p.st = c.streamAt p := by
  show Core.stream { (Core.charge _) with q := _, land := _ } p.st = _
  have : ∀ (k : Core) q l, Core.stream { k with q := q, land := l } p.st = k.stream p.st := by
    intro k q l; cases p.st <;> rfl
  rw [this, Core.charge_stream, Core.stream_setStream]
theorem Core.issued_stream_other (c : Core) (p : Plan) {st : StreamId} (h : p.st ≠ st) :
    (c.issued p).stream st = c.stream st := by
  show Core.stream { (Core.charge _) with q := _, land := _ } st = _
  have : ∀ (k : Core) q l, Core.stream { k with q := q, land := l } st = k.stream st := by
    intro k q l; cases st <;> rfl
  rw [this, Core.charge_stream, Core.stream_setStream_other _ _ h]

end Sys2Proof.Machine
end

