-- ==== Sys2Proof/Laws/Engine.lean ====
section
/-! SUPPORT. What a read of device memory changes (the cache of the atomic units and the count of the grains moved for a tenant,
and nothing else), and what an engine's bookkeeping of its own command changes. -/

namespace Sys2Proof.Machine

/-! ## Reads refresh the cache (07 R182) -/

/-- Steps that change the cache alone do so in any number. -/
theorem State.foldl_cache {α : Type} (f : State → α → State) (h : ∀ s x, ∃ l, f s x = { s with cache := l }) (xs : List α)
    (s : State) : ∃ l, xs.foldl f s = { s with cache := l } := by
  induction xs generalizing s with
  | nil => exact ⟨s.cache, rfl⟩
  | cons x xs ih =>
    obtain ⟨l, hl⟩ := h s x
    obtain ⟨k, hk⟩ := ih (f s x)
    exact ⟨k, by rw [List.foldl_cons, hk, hl]⟩

theorem State.touchCache_cache (s : State) (e : Bool) (g : Nat) : ∃ l, s.touchCache e g = { s with cache := l } := by
  unfold State.touchCache
  simp only
  split
  · exact ⟨_, rfl⟩
  · exact ⟨s.cache, rfl⟩

theorem State.usedGrain_cache (s : State) (x : Grain) : ∃ l, s.usedGrain x = { s with cache := l } := by
  unfold State.usedGrain
  split
  · exact s.touchCache_cache false x.num
  · exact ⟨s.cache, rfl⟩

theorem State.usedPath_cache (s : State) (x : Grain) : ∃ l, s.usedPath x = { s with cache := l } :=
  State.foldl_cache _ (fun s k => s.touchCache_cache false k) x.path s

/-- The machine after reads of device memory for a tenant (07 R182, 13 R324). -/
def State.afterReads (s : State) (l : Vector (List Nat) 4) (m : Fin 16 → Vector Nat 8) : State :=
  { s with cache := l, ten := Vector.ofFn fun i => { s.ten[i] with moved := m i } }

theorem State.afterReads_self (s : State) (l : Vector (List Nat) 4) :
    s.afterReads l (fun i => s.ten[i].moved) = { s with cache := l } := by
  have h : (Vector.ofFn fun i : Fin 16 => s.ten[i]) = s.ten := by ext i hi; simp
  show ({ s with cache := l, ten := _ } : State) = _
  rw [h]

@[simp] theorem State.afterReads_again (s : State) (l k : Vector (List Nat) 4) (f m : Fin 16 → Vector Nat 8) :
    (s.afterReads l f).afterReads k m = s.afterReads k m := by
  have h : (Vector.ofFn fun i : Fin 16 => ({ (s.afterReads l f).ten[i] with moved := m i } : Tenant))
      = Vector.ofFn fun i : Fin 16 => { s.ten[i] with moved := m i } := by
    ext i hi; simp [State.afterReads]
  show ({ s with cache := k, ten := _ } : State) = _
  rw [h]; rfl

/-- Steps that each leave the machine as after reads do so in any number. -/
theorem State.foldl_reads {α : Type} (f : State → α → State) (h : ∀ s x, ∃ l m, f s x = s.afterReads l m) (xs : List α)
    (s : State) : ∃ l m, xs.foldl f s = s.afterReads l m := by
  induction xs generalizing s with
  | nil => exact ⟨s.cache, _, (s.afterReads_self s.cache).symm⟩
  | cons x xs ih =>
    obtain ⟨l, m, hl⟩ := h s x
    obtain ⟨k, j, hk⟩ := ih (f s x)
    exact ⟨k, j, by rw [List.foldl_cons, hk, hl, State.afterReads_again]⟩

theorem State.moves_reads (s : State) (t : BitVec 4) (h : Home) (g : Nat) : ∃ m, s.moves t h g = s.afterReads s.cache m := by
  unfold State.moves
  split
  · exact ⟨_, (s.afterReads_self s.cache).symm⟩
  · let v : Vector Nat 8 := vset (s.tenant t).moved (64 * g / 2 ^ 36) (vget (s.tenant t).moved (64 * g / 2 ^ 36) 0 + 1)
    refine ⟨fun i => if i.val = t.toNat then v else s.ten[i].moved, ?_⟩
    have key : vset s.ten t.toNat { (s.tenant t) with moved := v }
        = Vector.ofFn fun i : Fin 16 => { s.ten[i] with moved := if i.val = t.toNat then v else s.ten[i].moved } := by
      have ht : t.toNat < 16 := t.isLt
      ext1 i hi
      by_cases e : i = t.toNat
      · subst e; simp [vset, vget, State.tenant, hi]
      · simp [vset, e, ht, Ne.symm e]
    show ({ s with ten := vset s.ten t.toNat { (s.tenant t) with moved := v } } : State) = _
    rw [key]; rfl

theorem State.usedRange_reads (s : State) (c : Ctx) (space win a n : Nat) :
    ∃ l m, s.usedRange c space win a n = s.afterReads l m :=
  State.foldl_reads _ (fun s g => by
    simp only
    obtain ⟨l, hl⟩ := s.usedPath_cache (s.grainOf c .read space win g none)
    obtain ⟨k, hk⟩ := (s.usedPath (s.grainOf c .read space win g none)).usedGrain_cache (s.grainOf c .read space win g none)
    have hu := hk.trans (show _ = ({ s with cache := k } : State) by rw [hl])
    rw [hu]
    split
    · obtain ⟨m, hm⟩ := ({ s with cache := k } : State).moves_reads c.tenant (s.grainOf c .read space win g none).home
        (s.grainOf c .read space win g none).num
      exact ⟨k, m, hm.trans rfl⟩
    · exact ⟨k, _, (s.afterReads_self k).symm⟩) _ s

theorem State.usedAreas_reads (s : State) (h : Nat) : ∃ l m, s.usedAreas h = s.afterReads l m := s.usedRange_reads _ 2 0 _ 24

theorem State.usedArea_reads (s : State) (c : Ctx) (a : Nat) : ∃ l m, s.usedArea c a = s.afterReads l m :=
  s.usedRange_reads c 2 0 a _

theorem State.usedEntry_reads (s : State) (n b : Nat) : ∃ l m, s.usedEntry n b = s.afterReads l m := by
  have same : ∃ l m, s = s.afterReads l m := ⟨s.cache, _, (s.afterReads_self s.cache).symm⟩
  unfold State.usedEntry
  cases (s.getCore n).img with
  | none => exact same
  | some h =>
    simp only
    cases s.locTab (s.coreCtx n) h with
    | none => exact same
    | some t =>
      obtain ⟨l, m, hl⟩ := s.usedRange_reads (s.coreCtx n) 2 0 (h + 8) 8
      obtain ⟨k, j, hk⟩ := (s.usedRange (s.coreCtx n) 2 0 (h + 8) 8).usedRange_reads (s.coreCtx n) 2 0 (t + 8 * b) 8
      exact ⟨k, j, hk.trans (by rw [hl, State.afterReads_again])⟩

theorem State.usedRoutine_cache (s : State) (t : BitVec 4) : ∃ l, s.usedRoutine t = { s with cache := l } := by
  unfold State.usedRoutine
  simp only
  split
  · exact ⟨s.cache, rfl⟩
  · exact State.foldl_cache _ (fun s i => s.touchCache_cache false _) _ s

/-! ## A started command in its core -/

@[simp] theorem Core.setAct_r (c : Core) (a : Active) : (c.setAct a).r = c.r := rfl
@[simp] theorem Core.setAct_q (c : Core) (a : Active) : (c.setAct a).q = c.q := rfl
@[simp] theorem Core.setAct_o (c : Core) (a : Active) : (c.setAct a).o = c.o := rfl
@[simp] theorem Core.setAct_t (c : Core) (a : Active) : (c.setAct a).t = c.t := rfl
@[simp] theorem Core.setAct_land (c : Core) (a : Active) : (c.setAct a).land = c.land := rfl
@[simp] theorem Core.setAct_job (c : Core) (a : Active) : (c.setAct a).job = c.job := rfl
@[simp] theorem Core.setAct_phase (c : Core) (a : Active) : (c.setAct a).phase = c.phase := rfl
@[simp] theorem Core.setAct_cmds (c : Core) (a : Active) : (c.setAct a).cp.cmds = c.cp.cmds := rfl
@[simp] theorem Core.setAct_groups (c : Core) (a : Active) : (c.setAct a).cp.groups = c.cp.groups := rfl
@[simp] theorem Core.setAct_cb (c : Core) (a : Active) : (c.setAct a).cp.cb = c.cp.cb := rfl

theorem State.setAct_cur_core (s : State) (a : Active) : s.setAct s.cur a = { s with core := s.core.setAct a } := by
  simp [State.setAct, State.putCore]

end Sys2Proof.Machine
end

