-- ==== Sys2Proof/Laws/Exec.lean ====
section
/-! SUPPORT. The meaning of each instruction, by its name: `exec` need never be unfolded. -/

namespace Sys2Proof.Machine

theorem exec_add (c : Ctl) (d : BitVec 6) (a : BitVec 6) (b : BitVec 6) (s : State) :
    exec (.add c d a b) s = execAdd c d a b s := rfl

theorem exec_sub (c : Ctl) (d : BitVec 6) (a : BitVec 6) (b : BitVec 6) (s : State) :
    exec (.sub c d a b) s = execSub c d a b s := rfl

theorem exec_mul (c : Ctl) (d : BitVec 6) (a : BitVec 6) (b : BitVec 6) (s : State) :
    exec (.mul c d a b) s = execMul c d a b s := rfl

theorem exec_mulhs (c : Ctl) (d : BitVec 6) (a : BitVec 6) (b : BitVec 6) (s : State) :
    exec (.mulhs c d a b) s = execMulhs c d a b s := rfl

theorem exec_mulhu (c : Ctl) (d : BitVec 6) (a : BitVec 6) (b : BitVec 6) (s : State) :
    exec (.mulhu c d a b) s = execMulhu c d a b s := rfl

theorem exec_div (c : Ctl) (d : BitVec 6) (a : BitVec 6) (b : BitVec 6) (s : State) :
    exec (.div c d a b) s = execDiv c d a b s := rfl

theorem exec_divu (c : Ctl) (d : BitVec 6) (a : BitVec 6) (b : BitVec 6) (s : State) :
    exec (.divu c d a b) s = execDivu c d a b s := rfl

theorem exec_rem (c : Ctl) (d : BitVec 6) (a : BitVec 6) (b : BitVec 6) (s : State) :
    exec (.rem c d a b) s = execRem c d a b s := rfl

theorem exec_remu (c : Ctl) (d : BitVec 6) (a : BitVec 6) (b : BitVec 6) (s : State) :
    exec (.remu c d a b) s = execRemu c d a b s := rfl

theorem exec_and (c : Ctl) (d : BitVec 6) (a : BitVec 6) (b : BitVec 6) (s : State) :
    exec (.and c d a b) s = execAnd c d a b s := rfl

theorem exec_or (c : Ctl) (d : BitVec 6) (a : BitVec 6) (b : BitVec 6) (s : State) :
    exec (.or c d a b) s = execOr c d a b s := rfl

theorem exec_xor (c : Ctl) (d : BitVec 6) (a : BitVec 6) (b : BitVec 6) (s : State) :
    exec (.xor c d a b) s = execXor c d a b s := rfl

theorem exec_andn (c : Ctl) (d : BitVec 6) (a : BitVec 6) (b : BitVec 6) (s : State) :
    exec (.andn c d a b) s = execAndn c d a b s := rfl

theorem exec_shl (c : Ctl) (d : BitVec 6) (a : BitVec 6) (b : BitVec 6) (s : State) :
    exec (.shl c d a b) s = execShl c d a b s := rfl

theorem exec_shr (c : Ctl) (d : BitVec 6) (a : BitVec 6) (b : BitVec 6) (s : State) :
    exec (.shr c d a b) s = execShr c d a b s := rfl

theorem exec_sar (c : Ctl) (d : BitVec 6) (a : BitVec 6) (b : BitVec 6) (s : State) :
    exec (.sar c d a b) s = execSar c d a b s := rfl

theorem exec_rol (c : Ctl) (d : BitVec 6) (a : BitVec 6) (b : BitVec 6) (s : State) :
    exec (.rol c d a b) s = execRol c d a b s := rfl

theorem exec_min (c : Ctl) (d : BitVec 6) (a : BitVec 6) (b : BitVec 6) (s : State) :
    exec (.min c d a b) s = execMin c d a b s := rfl

theorem exec_max (c : Ctl) (d : BitVec 6) (a : BitVec 6) (b : BitVec 6) (s : State) :
    exec (.max c d a b) s = execMax c d a b s := rfl

theorem exec_minu (c : Ctl) (d : BitVec 6) (a : BitVec 6) (b : BitVec 6) (s : State) :
    exec (.minu c d a b) s = execMinu c d a b s := rfl

theorem exec_maxu (c : Ctl) (d : BitVec 6) (a : BitVec 6) (b : BitVec 6) (s : State) :
    exec (.maxu c d a b) s = execMaxu c d a b s := rfl

theorem exec_clz (c : Ctl) (d : BitVec 6) (a : BitVec 6) (s : State) :
    exec (.clz c d a) s = execClz c d a s := rfl

theorem exec_popc (c : Ctl) (d : BitVec 6) (a : BitVec 6) (s : State) :
    exec (.popc c d a) s = execPopc c d a s := rfl

theorem exec_sel (c : Ctl) (d : BitVec 6) (a : BitVec 6) (b : BitVec 6) (p : BitVec 3) (s : State) :
    exec (.sel c d a b p) s = execSel c d a b p s := rfl

theorem exec_addx (c : Ctl) (d : BitVec 6) (a : BitVec 6) (b : BitVec 6) (n : BitVec 6) (s : State) :
    exec (.addx c d a b n) s = execAddx c d a b n s := rfl

theorem exec_clamp (c : Ctl) (d : BitVec 6) (a : BitVec 6) (b : BitVec 6) (s : State) :
    exec (.clamp c d a b) s = execClamp c d a b s := rfl

theorem exec_addi (c : Ctl) (d : BitVec 6) (a : BitVec 6) (imm : BitVec 28) (s : State) :
    exec (.addi c d a imm) s = execAddi c d a imm s := rfl

theorem exec_andi (c : Ctl) (d : BitVec 6) (a : BitVec 6) (imm : BitVec 28) (s : State) :
    exec (.andi c d a imm) s = execAndi c d a imm s := rfl

theorem exec_ori (c : Ctl) (d : BitVec 6) (a : BitVec 6) (imm : BitVec 28) (s : State) :
    exec (.ori c d a imm) s = execOri c d a imm s := rfl

theorem exec_xori (c : Ctl) (d : BitVec 6) (a : BitVec 6) (imm : BitVec 28) (s : State) :
    exec (.xori c d a imm) s = execXori c d a imm s := rfl

theorem exec_shli (c : Ctl) (d : BitVec 6) (a : BitVec 6) (n : BitVec 6) (s : State) :
    exec (.shli c d a n) s = execShli c d a n s := rfl

theorem exec_shri (c : Ctl) (d : BitVec 6) (a : BitVec 6) (n : BitVec 6) (s : State) :
    exec (.shri c d a n) s = execShri c d a n s := rfl

theorem exec_sari (c : Ctl) (d : BitVec 6) (a : BitVec 6) (n : BitVec 6) (s : State) :
    exec (.sari c d a n) s = execSari c d a n s := rfl

theorem exec_muli (c : Ctl) (d : BitVec 6) (a : BitVec 6) (imm : BitVec 28) (s : State) :
    exec (.muli c d a imm) s = execMuli c d a imm s := rfl

theorem exec_li (c : Ctl) (d : BitVec 6) (imm : BitVec 34) (s : State) :
    exec (.li c d imm) s = execLi c d imm s := rfl

theorem exec_lih (c : Ctl) (d : BitVec 6) (imm : BitVec 32) (s : State) :
    exec (.lih c d imm) s = execLih c d imm s := rfl

theorem exec_cmp (c : Ctl) (cc : Cond) (pd : BitVec 3) (a : BitVec 6) (b : BitVec 6) (s : State) :
    exec (.cmp c cc pd a b) s = execCmp c cc pd a b s := rfl

theorem exec_cmpi (c : Ctl) (cc : Cond) (pd : BitVec 3) (a : BitVec 6) (imm : BitVec 24) (s : State) :
    exec (.cmpi c cc pd a imm) s = execCmpi c cc pd a imm s := rfl

theorem exec_plog (c : Ctl) (op : LogOp) (pd : BitVec 3) (pa : BitVec 3) (pb : BitVec 3) (s : State) :
    exec (.plog c op pd pa pb) s = execPlog c op pd pa pb s := rfl

theorem exec_br (c : Ctl) (cc : Cond) (a : BitVec 6) (b : BitVec 6) (off : BitVec 24) (s : State) :
    exec (.br c cc a b off) s = execBr c cc a b off s := rfl

theorem exec_bp (c : Ctl) (ne : Bool) (p : BitVec 3) (off : BitVec 24) (s : State) :
    exec (.bp c ne p off) s = execBp c ne p off s := rfl

theorem exec_jmp (c : Ctl) (off : BitVec 24) (s : State) :
    exec (.jmp c off) s = execJmp c off s := rfl

theorem exec_call (c : Ctl) (off : BitVec 24) (s : State) :
    exec (.call c off) s = execCall c off s := rfl

theorem exec_jr (c : Ctl) (d : BitVec 6) (a : BitVec 6) (s : State) :
    exec (.jr c d a) s = execJr c d a s := rfl

theorem exec_loop (c : Ctl) (a : BitVec 6) (off : BitVec 24) (s : State) :
    exec (.loop c a off) s = execLoop c a off s := rfl

theorem exec_hset (c : Ctl) (h : BitVec 4) (a : BitVec 6) (fld : HField) (s : State) :
    exec (.hset c h a fld) s = execHset c h a fld s := rfl

theorem exec_hget (c : Ctl) (a : BitVec 6) (g : BitVec 4) (fld : HField) (s : State) :
    exec (.hget c a g fld) s = execHget c a g fld s := rfl

theorem exec_hld (c : Ctl) (h : BitVec 4) (a : BitVec 6) (off : BitVec 8) (s : State) :
    exec (.hld c h a off) s = execHld c h a off s := rfl

theorem exec_hst (c : Ctl) (g : BitVec 4) (a : BitVec 6) (off : BitVec 8) (s : State) :
    exec (.hst c g a off) s = execHst c g a off s := rfl

theorem exec_hmov (c : Ctl) (h : BitVec 4) (g : BitVec 4) (s : State) :
    exec (.hmov c h g) s = execHmov c h g s := rfl

theorem exec_hadv (c : Ctl) (h : BitVec 4) (g : BitVec 4) (a : BitVec 6) (dim : BitVec 2) (s : State) :
    exec (.hadv c h g a dim) s = execHadv c h g a dim s := rfl

theorem exec_hdim (c : Ctl) (h : BitVec 4) (g : BitVec 4) (a : BitVec 6) (b : BitVec 6) (dim : BitVec 2) (s : State) :
    exec (.hdim c h g a b dim) s = execHdim c h g a b dim s := rfl

theorem exec_ld8 (c : Ctl) (d : BitVec 6) (a : BitVec 6) (imm : BitVec 28) (s : State) :
    exec (.ld8 c d a imm) s = execLd8 c d a imm s := rfl

theorem exec_ld16 (c : Ctl) (d : BitVec 6) (a : BitVec 6) (imm : BitVec 28) (s : State) :
    exec (.ld16 c d a imm) s = execLd16 c d a imm s := rfl

theorem exec_ld32 (c : Ctl) (d : BitVec 6) (a : BitVec 6) (imm : BitVec 28) (s : State) :
    exec (.ld32 c d a imm) s = execLd32 c d a imm s := rfl

theorem exec_ld64 (c : Ctl) (d : BitVec 6) (a : BitVec 6) (imm : BitVec 28) (s : State) :
    exec (.ld64 c d a imm) s = execLd64 c d a imm s := rfl

theorem exec_lds8 (c : Ctl) (d : BitVec 6) (a : BitVec 6) (imm : BitVec 28) (s : State) :
    exec (.lds8 c d a imm) s = execLds8 c d a imm s := rfl

theorem exec_lds16 (c : Ctl) (d : BitVec 6) (a : BitVec 6) (imm : BitVec 28) (s : State) :
    exec (.lds16 c d a imm) s = execLds16 c d a imm s := rfl

theorem exec_lds32 (c : Ctl) (d : BitVec 6) (a : BitVec 6) (imm : BitVec 28) (s : State) :
    exec (.lds32 c d a imm) s = execLds32 c d a imm s := rfl

theorem exec_st8 (c : Ctl) (d : BitVec 6) (a : BitVec 6) (imm : BitVec 28) (s : State) :
    exec (.st8 c d a imm) s = execSt8 c d a imm s := rfl

theorem exec_st16 (c : Ctl) (d : BitVec 6) (a : BitVec 6) (imm : BitVec 28) (s : State) :
    exec (.st16 c d a imm) s = execSt16 c d a imm s := rfl

theorem exec_st32 (c : Ctl) (d : BitVec 6) (a : BitVec 6) (imm : BitVec 28) (s : State) :
    exec (.st32 c d a imm) s = execSt32 c d a imm s := rfl

theorem exec_st64 (c : Ctl) (d : BitVec 6) (a : BitVec 6) (imm : BitVec 28) (s : State) :
    exec (.st64 c d a imm) s = execSt64 c d a imm s := rfl

theorem exec_push (c : Ctl) (a : BitVec 6) (q : DqId) (s : State) :
    exec (.push c a q) s = execPush c a q s := rfl

theorem exec_fmt (c : Ctl) (a : BitVec 6) (s : State) :
    exec (.fmt c a) s = execFmt c a s := rfl

theorem exec_pop (c : Ctl) (d : BitVec 6) (q : DqId) (s : State) :
    exec (.pop c d q) s = execPop c d q s := rfl

theorem exec_bout (c : Ctl) (p : BitVec 3) (q : DqId) (s : State) :
    exec (.bout c p q) s = execBout c p q s := rfl

theorem exec_qcnt (c : Ctl) (d : BitVec 6) (q : DqId) (s : State) :
    exec (.qcnt c d q) s = execQcnt c d q s := rfl

theorem exec_rclaim (c : Ctl) (d : BitVec 6) (a : BitVec 6) (ring : BitVec 4) (s : State) :
    exec (.rclaim c d a ring) s = execRclaim c d a ring s := rfl

theorem exec_rfill (c : Ctl) (a : BitVec 6) (ring : BitVec 4) (s : State) :
    exec (.rfill c a ring) s = execRfill c a ring s := rfl

theorem exec_rwaitf (c : Ctl) (d : BitVec 6) (a : BitVec 6) (ring : BitVec 4) (s : State) :
    exec (.rwaitf c d a ring) s = execRwaitf c d a ring s := rfl

theorem exec_rfree (c : Ctl) (a : BitVec 6) (ring : BitVec 4) (s : State) :
    exec (.rfree c a ring) s = execRfree c a ring s := rfl

theorem exec_rset (c : Ctl) (a : BitVec 6) (ring : BitVec 4) (s : State) :
    exec (.rset c a ring) s = execRset c a ring s := rfl

theorem exec_rstat (c : Ctl) (f : RField) (d : BitVec 6) (ring : BitVec 4) (s : State) :
    exec (.rstat c f d ring) s = execRstat c f d ring s := rfl

theorem exec_bset (c : Ctl) (bar : BitVec 3) (s : State) :
    exec (.bset c bar) s = execBset c bar s := rfl

theorem exec_bexp (c : Ctl) (a : BitVec 6) (bar : BitVec 3) (s : State) :
    exec (.bexp c a bar) s = execBexp c a bar s := rfl

theorem exec_barr (c : Ctl) (a : BitVec 6) (bar : BitVec 3) (s : State) :
    exec (.barr c a bar) s = execBarr c a bar s := rfl

theorem exec_bwait (c : Ctl) (a : BitVec 6) (bar : BitVec 3) (s : State) :
    exec (.bwait c a bar) s = execBwait c a bar s := rfl

theorem exec_atom (c : Ctl) (op : AtomOp) (w64 : Bool) (a : BitVec 6) (b : BitVec 6) (cx : BitVec 6) (s : State) :
    exec (.atom c op w64 a b cx) s = execAtom c op w64 a b cx s := rfl

theorem exec_copy (c : Ctl) (hd : BitVec 4) (hs : BitVec 4) (p : BitVec 6) (xf : BitVec 8) (tq : BitVec 4) (flags : BitVec 6) (aux : BitVec 8) (s : State) :
    exec (.copy c hd hs p xf tq flags aux) s = execCopy c hd hs p xf tq flags aux s := rfl

theorem exec_cred (c : Ctl) (hd : BitVec 4) (hs : BitVec 4) (p : BitVec 6) (xf : BitVec 8) (tq : BitVec 4) (flags : BitVec 6) (aux : BitVec 8) (s : State) :
    exec (.cred c hd hs p xf tq flags aux) s = execCred c hd hs p xf tq flags aux s := rfl

theorem exec_catom (c : Ctl) (op : AtomOp) (w64 : Bool) (acq : Bool) (h : BitVec 4) (a : BitVec 6) (b : BitVec 6) (cx : BitVec 6) (s : State) :
    exec (.catom c op w64 acq h a b cx) s = execCatom c op w64 acq h a b cx s := rfl

theorem exec_cclose (c : Ctl) (tq : BitVec 4) (s : State) :
    exec (.cclose c tq) s = execCclose c tq s := rfl

theorem exec_cwait (c : Ctl) (n : BitVec 28) (s : State) :
    exec (.cwait c n) s = execCwait c n s := rfl

theorem exec_xcfg (c : Ctl) (n : BitVec 4) (a : BitVec 6) (s : State) :
    exec (.xcfg c n a) s = execXcfg c n a s := rfl

theorem exec_cpend (c : Ctl) (d : BitVec 6) (s : State) :
    exec (.cpend c d) s = execCpend c d s := rfl

theorem exec_cpendCmd (c : Ctl) (d : BitVec 6) (s : State) :
    exec (.cpendCmd c d) s = execCpendCmd c d s := rfl

theorem exec_obput (c : Ctl) (a : BitVec 6) (b : BitVec 6) (idx : BitVec 10) (s : State) :
    exec (.obput c a b idx) s = execObput c a b idx s := rfl

theorem exec_obwait (c : Ctl) (cc : Cond) (d : BitVec 6) (a : BitVec 6) (b : BitVec 6) (idx : BitVec 10) (s : State) :
    exec (.obwait c cc d a b idx) s = execObwait c cc d a b idx s := rfl

theorem exec_obadd (c : Ctl) (a : BitVec 6) (b : BitVec 6) (idx : BitVec 10) (s : State) :
    exec (.obadd c a b idx) s = execObadd c a b idx s := rfl

theorem exec_obbar (c : Ctl) (a : BitVec 6) (b : BitVec 6) (idx : BitVec 10) (s : State) :
    exec (.obbar c a b idx) s = execObbar c a b idx s := rfl

theorem exec_obseq (c : Ctl) (d : BitVec 6) (s : State) :
    exec (.obseq c d) s = execObseq c d s := rfl

theorem exec_obseqOwn (c : Ctl) (d : BitVec 6) (s : State) :
    exec (.obseqOwn c d) s = execObseqOwn c d s := rfl

theorem exec_frel (c : Ctl) (s : State) :
    exec (.frel c) s = execFrel c s := rfl

theorem exec_facq (c : Ctl) (s : State) :
    exec (.facq c) s = execFacq c s := rfl

theorem exec_obget (c : Ctl) (d : BitVec 6) (a : BitVec 6) (idx : BitVec 10) (s : State) :
    exec (.obget c d a idx) s = execObget c d a idx s := rfl

theorem exec_csrr (c : Ctl) (d : BitVec 6) (csr : Csr) (s : State) :
    exec (.csrr c d csr) s = execCsrr c d csr s := rfl

theorem exec_csrw (c : Ctl) (d : BitVec 6) (a : BitVec 6) (csr : Csr) (s : State) :
    exec (.csrw c d a csr) s = execCsrw c d a csr s := rfl

theorem exec_csrs (c : Ctl) (d : BitVec 6) (a : BitVec 6) (csr : Csr) (s : State) :
    exec (.csrs c d a csr) s = execCsrs c d a csr s := rfl

theorem exec_csrc (c : Ctl) (d : BitVec 6) (a : BitVec 6) (csr : Csr) (s : State) :
    exec (.csrc c d a csr) s = execCsrc c d a csr s := rfl

theorem exec_eret (c : Ctl) (s : State) :
    exec (.eret c) s = execEret c s := rfl

theorem exec_eretImg (c : Ctl) (s : State) :
    exec (.eretImg c) s = execEretImg c s := rfl

theorem exec_yield (c : Ctl) (s : State) :
    exec (.yield c) s = execYield c s := rfl

theorem exec_yieldKill (c : Ctl) (s : State) :
    exec (.yieldKill c) s = execYieldKill c s := rfl

theorem exec_psave (c : Ctl) (a : BitVec 6) (n : BitVec 16) (s : State) :
    exec (.psave c a n) s = execPsave c a n s := rfl

theorem exec_ppull (c : Ctl) (a : BitVec 6) (n : BitVec 16) (s : State) :
    exec (.ppull c a n) s = execPpull c a n s := rfl

theorem exec_pdrop (c : Ctl) (a : BitVec 6) (n : BitVec 16) (s : State) :
    exec (.pdrop c a n) s = execPdrop c a n s := rfl

theorem exec_pstat (c : Ctl) (d : BitVec 6) (a : BitVec 6) (s : State) :
    exec (.pstat c d a) s = execPstat c d a s := rfl

theorem exec_clkdiv (c : Ctl) (e : Eng) (n : BitVec 4) (s : State) :
    exec (.clkdiv c e n) s = execClkdiv c e n s := rfl

theorem exec_phase (c : Ctl) (s : State) :
    exec (.phase c) s = execPhase c s := rfl

theorem exec_tlbinv (c : Ctl) (a : BitVec 6) (s : State) :
    exec (.tlbinv c a) s = execTlbinv c a s := rfl

theorem exec_tlbinvAll (c : Ctl) (s : State) :
    exec (.tlbinvAll c) s = execTlbinvAll c s := rfl

theorem exec_launch (c : Ctl) (d : BitVec 6) (a : BitVec 6) (q : BitVec 3) (s : State) :
    exec (.launch c d a q) s = execLaunch c d a q s := rfl

theorem exec_rdtick (c : Ctl) (d : BitVec 6) (s : State) :
    exec (.rdtick c d) s = execRdtick c d s := rfl

theorem exec_rdiss (c : Ctl) (d : BitVec 6) (s : State) :
    exec (.rdiss c d) s = execRdiss c d s := rfl

theorem exec_lsave (c : Ctl) (s : State) :
    exec (.lsave c) s = execLsave c s := rfl

theorem exec_lrest (c : Ctl) (s : State) :
    exec (.lrest c) s = execLrest c s := rfl

theorem exec_nop (st : StreamId) (c : Ctl) (s : State) :
    exec (.nop st c) s = execNop st c s := rfl

theorem exec_join (st : StreamId) (c : Ctl) (s : State) :
    exec (.join st c) s = execJoin st c s := rfl

theorem exec_trap (st : StreamId) (c : Ctl) (imm : BitVec 16) (s : State) :
    exec (.trap st c imm) s = execTrap st c imm s := rfl

theorem exec_brk (st : StreamId) (c : Ctl) (s : State) :
    exec (.brk st c) s = execBrk st c s := rfl

theorem exec_tfence (st : StreamId) (c : Ctl) (s : State) :
    exec (.tfence st c) s = execTfence st c s := rfl

theorem exec_ill (st : StreamId) (rest : BitVec 56) (s : State) :
    exec (.ill st rest) s = execIll st rest s := rfl

theorem exec_tld (c : Ctl) (t : BitVec 3) (m : BitVec 3) (pitch : BitVec 20) (s : State) :
    exec (.tld c t m pitch) s = execTld c t m pitch s := rfl

theorem exec_tldb (c : Ctl) (t : BitVec 3) (m : BitVec 3) (pitch : BitVec 20) (s : State) :
    exec (.tldb c t m pitch) s = execTldb c t m pitch s := rfl

theorem exec_mma (c : Ctl) (a : BitVec 3) (t1 : BitVec 3) (t2 : BitVec 3) (s : State) :
    exec (.mma c a t1 t2) s = execMma c a t1 t2 s := rfl

theorem exec_rsum (c : Ctl) (w : BitVec 2) (t : BitVec 3) (s : State) :
    exec (.rsum c w t) s = execRsum c w t s := rfl

theorem exec_csum (c : Ctl) (w : BitVec 2) (t : BitVec 3) (s : State) :
    exec (.csum c w t) s = execCsum c w t s := rfl

theorem exec_zpc (c : Ctl) (a : BitVec 3) (wr : BitVec 2) (wc : BitVec 2) (s : State) :
    exec (.zpc c a wr wc) s = execZpc c a wr wc s := rfl

theorem exec_drain (c : Ctl) (a : BitVec 3) (m : BitVec 3) (m2 : BitVec 3) (pitch : BitVec 20) (s : State) :
    exec (.drain c a m m2 pitch) s = execDrain c a m m2 pitch s := rfl

theorem exec_aclr (c : Ctl) (a : BitVec 3) (s : State) :
    exec (.aclr c a) s = execAclr c a s := rfl

theorem exec_amov (c : Ctl) (a : BitVec 3) (b : BitVec 3) (s : State) :
    exec (.amov c a b) s = execAmov c a b s := rfl

theorem exec_tzero (c : Ctl) (t : BitVec 3) (s : State) :
    exec (.tzero c t) s = execTzero c t s := rfl

theorem exec_mli (c : Ctl) (m : BitVec 3) (imm : BitVec 32) (s : State) :
    exec (.mli c m imm) s = execMli c m imm s := rfl

theorem exec_maddi (c : Ctl) (m : BitVec 3) (imm : BitVec 32) (s : State) :
    exec (.maddi c m imm) s = execMaddi c m imm s := rfl

theorem exec_mpop (c : Ctl) (m : BitVec 3) (s : State) :
    exec (.mpop c m) s = execMpop c m s := rfl

theorem exec_mloop (c : Ctl) (m : BitVec 3) (off : BitVec 24) (s : State) :
    exec (.mloop c m off) s = execMloop c m off s := rfl

theorem exec_mbq (c : Ctl) (off : BitVec 24) (s : State) :
    exec (.mbq c off) s = execMbq c off s := rfl

theorem exec_mjmp (c : Ctl) (off : BitVec 24) (s : State) :
    exec (.mjmp c off) s = execMjmp c off s := rfl

theorem exec_msatc (c : Ctl) (m : BitVec 3) (s : State) :
    exec (.msatc c m) s = execMsatc c m s := rfl

theorem exec_vadd (c : Ctl) (d : VDst) (a : VSrc) (b : VSrc) (k : BitVec 3) (ty : VTy) (s : State) :
    exec (.vadd c d a b k ty) s = execVadd c d a b k ty s := rfl

theorem exec_vsub (c : Ctl) (d : VDst) (a : VSrc) (b : VSrc) (k : BitVec 3) (ty : VTy) (s : State) :
    exec (.vsub c d a b k ty) s = execVsub c d a b k ty s := rfl

theorem exec_vmul (c : Ctl) (d : VDst) (a : VSrc) (b : VSrc) (k : BitVec 3) (ty : VTy) (s : State) :
    exec (.vmul c d a b k ty) s = execVmul c d a b k ty s := rfl

theorem exec_vfma (c : Ctl) (d : VDst) (a : VSrc) (b : VSrc) (x : VSrc) (k : BitVec 3) (ty : VTy) (s : State) :
    exec (.vfma c d a b x k ty) s = execVfma c d a b x k ty s := rfl

theorem exec_vmin (c : Ctl) (d : VDst) (a : VSrc) (b : VSrc) (k : BitVec 3) (ty : VTy) (s : State) :
    exec (.vmin c d a b k ty) s = execVmin c d a b k ty s := rfl

theorem exec_vmax (c : Ctl) (d : VDst) (a : VSrc) (b : VSrc) (k : BitVec 3) (ty : VTy) (s : State) :
    exec (.vmax c d a b k ty) s = execVmax c d a b k ty s := rfl

theorem exec_vabs (c : Ctl) (d : VDst) (a : VSrc) (k : BitVec 3) (ty : VTy) (s : State) :
    exec (.vabs c d a k ty) s = execVabs c d a k ty s := rfl

theorem exec_vneg (c : Ctl) (d : VDst) (a : VSrc) (k : BitVec 3) (ty : VTy) (s : State) :
    exec (.vneg c d a k ty) s = execVneg c d a k ty s := rfl

theorem exec_vdiv (c : Ctl) (d : VDst) (a : VSrc) (b : VSrc) (k : BitVec 3) (s : State) :
    exec (.vdiv c d a b k) s = execVdiv c d a b k s := rfl

theorem exec_vsqrt (c : Ctl) (d : VDst) (a : VSrc) (k : BitVec 3) (s : State) :
    exec (.vsqrt c d a k) s = execVsqrt c d a k s := rfl

theorem exec_vrsq (c : Ctl) (d : VDst) (a : VSrc) (k : BitVec 3) (s : State) :
    exec (.vrsq c d a k) s = execVrsq c d a k s := rfl

theorem exec_vrcp (c : Ctl) (d : VDst) (a : VSrc) (k : BitVec 3) (s : State) :
    exec (.vrcp c d a k) s = execVrcp c d a k s := rfl

theorem exec_vexp2 (c : Ctl) (d : VDst) (a : VSrc) (k : BitVec 3) (s : State) :
    exec (.vexp2 c d a k) s = execVexp2 c d a k s := rfl

theorem exec_vlog2 (c : Ctl) (d : VDst) (a : VSrc) (k : BitVec 3) (s : State) :
    exec (.vlog2 c d a k) s = execVlog2 c d a k s := rfl

theorem exec_vexp (c : Ctl) (d : VDst) (a : VSrc) (k : BitVec 3) (s : State) :
    exec (.vexp c d a k) s = execVexp c d a k s := rfl

theorem exec_vand (c : Ctl) (d : VDst) (a : VSrc) (b : VSrc) (k : BitVec 3) (ty : VTy) (s : State) :
    exec (.vand c d a b k ty) s = execVand c d a b k ty s := rfl

theorem exec_vor (c : Ctl) (d : VDst) (a : VSrc) (b : VSrc) (k : BitVec 3) (ty : VTy) (s : State) :
    exec (.vor c d a b k ty) s = execVor c d a b k ty s := rfl

theorem exec_vxor (c : Ctl) (d : VDst) (a : VSrc) (b : VSrc) (k : BitVec 3) (ty : VTy) (s : State) :
    exec (.vxor c d a b k ty) s = execVxor c d a b k ty s := rfl

theorem exec_vshl (c : Ctl) (d : VDst) (a : VSrc) (b : VSrc) (k : BitVec 3) (ty : VTy) (s : State) :
    exec (.vshl c d a b k ty) s = execVshl c d a b k ty s := rfl

theorem exec_vshr (c : Ctl) (d : VDst) (a : VSrc) (b : VSrc) (k : BitVec 3) (ty : VTy) (s : State) :
    exec (.vshr c d a b k ty) s = execVshr c d a b k ty s := rfl

theorem exec_vsar (c : Ctl) (d : VDst) (a : VSrc) (b : VSrc) (k : BitVec 3) (ty : VTy) (s : State) :
    exec (.vsar c d a b k ty) s = execVsar c d a b k ty s := rfl

theorem exec_vcvt (c : Ctl) (d : VDst) (a : VSrc) (x : VSrc) (k : BitVec 3) (ty : VTy) (dt : MemTy) (rm : RmFull) (sat : Bool) (s : State) :
    exec (.vcvt c d a x k ty dt rm sat) s = execVcvt c d a x k ty dt rm sat s := rfl

theorem exec_vcmp (c : Ctl) (cc : Cond) (kd : BitVec 3) (a : VSrc) (b : VSrc) (k : BitVec 3) (ty : VTy) (s : State) :
    exec (.vcmp c cc kd a b k ty) s = execVcmp c cc kd a b k ty s := rfl

theorem exec_vsel (c : Ctl) (d : VDst) (a : VSrc) (b : VSrc) (ks : BitVec 3) (k : BitVec 3) (ty : VTy) (s : State) :
    exec (.vsel c d a b ks k ty) s = execVsel c d a b ks k ty s := rfl

theorem exec_vmov (c : Ctl) (d : VDst) (a : VSrc) (k : BitVec 3) (ty : VTy) (s : State) :
    exec (.vmov c d a k ty) s = execVmov c d a k ty s := rfl

theorem exec_vbrd (c : Ctl) (d : VDst) (a : VSrc) (lane : BitVec 6) (k : BitVec 3) (ty : VTy) (s : State) :
    exec (.vbrd c d a lane k ty) s = execVbrd c d a lane k ty s := rfl

theorem exec_viota (c : Ctl) (d : VDst) (k : BitVec 3) (ty : VTy) (s : State) :
    exec (.viota c d k ty) s = execViota c d k ty s := rfl

theorem exec_vperm (c : Ctl) (d : VDst) (a : VSrc) (b : VSrc) (k : BitVec 3) (ty : VTy) (s : State) :
    exec (.vperm c d a b k ty) s = execVperm c d a b k ty s := rfl

theorem exec_vcomp (c : Ctl) (d : VDst) (a : VSrc) (k : BitVec 3) (ty : VTy) (s : State) :
    exec (.vcomp c d a k ty) s = execVcomp c d a k ty s := rfl

theorem exec_vfirst (c : Ctl) (count : Bool) (d : VDst) (ka : BitVec 3) (k : BitVec 3) (ty : VTy) (s : State) :
    exec (.vfirst c count d ka k ty) s = execVfirst c count d ka k ty s := rfl

theorem exec_klog (c : Ctl) (op : LogOp) (kd : BitVec 3) (ka : BitVec 3) (kb : BitVec 3) (s : State) :
    exec (.klog c op kd ka kb) s = execKlog c op kd ka kb s := rfl

theorem exec_vrsum (c : Ctl) (d : VDst) (a : VSrc) (k : BitVec 3) (ty : VTy) (s : State) :
    exec (.vrsum c d a k ty) s = execVrsum c d a k ty s := rfl

theorem exec_vrmax (c : Ctl) (d : VDst) (a : VSrc) (k : BitVec 3) (ty : VTy) (s : State) :
    exec (.vrmax c d a k ty) s = execVrmax c d a k ty s := rfl

theorem exec_vrmin (c : Ctl) (d : VDst) (a : VSrc) (k : BitVec 3) (ty : VTy) (s : State) :
    exec (.vrmin c d a k ty) s = execVrmin c d a k ty s := rfl

theorem exec_vramax (c : Ctl) (d : VDst) (a : VSrc) (k : BitVec 3) (ty : VTy) (s : State) :
    exec (.vramax c d a k ty) s = execVramax c d a k ty s := rfl

theorem exec_vscan (c : Ctl) (d : VDst) (a : VSrc) (xc : BitVec 4) (k : BitVec 3) (ty : VTy) (s : State) :
    exec (.vscan c d a xc k ty) s = execVscan c d a xc k ty s := rfl

theorem exec_vscanx (c : Ctl) (d : VDst) (a : VSrc) (xc : BitVec 4) (k : BitVec 3) (ty : VTy) (s : State) :
    exec (.vscanx c d a xc k ty) s = execVscanx c d a xc k ty s := rfl

theorem exec_vsort (c : Ctl) (desc : Bool) (d : VDst) (a : VSrc) (k : BitVec 3) (ty : VTy) (s : State) :
    exec (.vsort c desc d a k ty) s = execVsort c desc d a k ty s := rfl

theorem exec_vsortk (c : Ctl) (desc : Bool) (d : BitVec 3) (a : VSrc) (b : VSrc) (k : BitVec 3) (ty : VTy) (s : State) :
    exec (.vsortk c desc d a b k ty) s = execVsortk c desc d a b k ty s := rfl

theorem exec_vmerge (c : Ctl) (desc : Bool) (d : BitVec 3) (a : VSrc) (b : VSrc) (ty : VTy) (s : State) :
    exec (.vmerge c desc d a b ty) s = execVmerge c desc d a b ty s := rfl

theorem exec_vrng (c : Ctl) (d : VDst) (a : VSrc) (b : VSrc) (k : BitVec 3) (ty : VTy) (s : State) :
    exec (.vrng c d a b k ty) s = execVrng c d a b k ty s := rfl

theorem exec_vld (c : Ctl) (v : BitVec 4) (x : BitVec 4) (et : MemTy) (k : BitVec 3) (imm : BitVec 24) (s : State) :
    exec (.vld c v x et k imm) s = execVld c v x et k imm s := rfl

theorem exec_vst (c : Ctl) (v : BitVec 4) (x : BitVec 4) (et : MemTy) (k : BitVec 3) (imm : BitVec 24) (s : State) :
    exec (.vst c v x et k imm) s = execVst c v x et k imm s := rfl

theorem exec_vldx (c : Ctl) (v : BitVec 4) (x : BitVec 4) (et : MemTy) (k : BitVec 3) (vi : BitVec 4) (s : State) :
    exec (.vldx c v x et k vi) s = execVldx c v x et k vi s := rfl

theorem exec_vstx (c : Ctl) (v : BitVec 4) (x : BitVec 4) (et : MemTy) (k : BitVec 3) (vi : BitVec 4) (s : State) :
    exec (.vstx c v x et k vi) s = execVstx c v x et k vi s := rfl

theorem exec_qst (c : Ctl) (v : BitVec 2) (x : BitVec 4) (xr : BitVec 4) (en : BitVec 4) (wc : Bool) (rm : RmShort) (had : BitVec 2) (s : State) :
    exec (.qst c v x xr en wc rm had) s = execQst c v x xr en wc rm had s := rfl

theorem exec_qld (c : Ctl) (v : BitVec 2) (x : BitVec 4) (wc : Bool) (s : State) :
    exec (.qld c v x wc) s = execQld c v x wc s := rfl

theorem exec_zbind (c : Ctl) (z : BitVec 3) (imm : BitVec 32) (s : State) :
    exec (.zbind c z imm) s = execZbind c z imm s := rfl

theorem exec_zrst (c : Ctl) (z : BitVec 3) (s : State) :
    exec (.zrst c z) s = execZrst c z s := rfl

theorem exec_xli (c : Ctl) (d : BitVec 4) (imm : BitVec 32) (s : State) :
    exec (.xli c d imm) s = execXli c d imm s := rfl

theorem exec_xadd (c : Ctl) (d : BitVec 4) (a : BitVec 4) (b : BitVec 4) (s : State) :
    exec (.xadd c d a b) s = execXadd c d a b s := rfl

theorem exec_xaddi (c : Ctl) (d : BitVec 4) (a : BitVec 4) (imm : BitVec 32) (s : State) :
    exec (.xaddi c d a imm) s = execXaddi c d a imm s := rfl

theorem exec_xmul (c : Ctl) (d : BitVec 4) (a : BitVec 4) (b : BitVec 4) (s : State) :
    exec (.xmul c d a b) s = execXmul c d a b s := rfl

theorem exec_xpop (c : Ctl) (d : BitVec 4) (s : State) :
    exec (.xpop c d) s = execXpop c d s := rfl

theorem exec_xpush (c : Ctl) (a : BitVec 4) (s : State) :
    exec (.xpush c a) s = execXpush c a s := rfl

theorem exec_xget (c : Ctl) (d : BitVec 4) (v : BitVec 4) (lane : BitVec 6) (s : State) :
    exec (.xget c d v lane) s = execXget c d v lane s := rfl

theorem exec_xfadd (c : Ctl) (d : BitVec 4) (a : BitVec 4) (b : BitVec 4) (s : State) :
    exec (.xfadd c d a b) s = execXfadd c d a b s := rfl

theorem exec_xfmul (c : Ctl) (d : BitVec 4) (a : BitVec 4) (b : BitVec 4) (s : State) :
    exec (.xfmul c d a b) s = execXfmul c d a b s := rfl

theorem exec_vloop (c : Ctl) (a : BitVec 4) (off : BitVec 24) (s : State) :
    exec (.vloop c a off) s = execVloop c a off s := rfl

theorem exec_vbq (c : Ctl) (off : BitVec 24) (s : State) :
    exec (.vbq c off) s = execVbq c off s := rfl

theorem exec_vbr (c : Ctl) (cc : Cond) (a : BitVec 4) (b : BitVec 4) (off : BitVec 24) (s : State) :
    exec (.vbr c cc a b off) s = execVbr c cc a b off s := rfl

theorem exec_vjmp (c : Ctl) (off : BitVec 24) (s : State) :
    exec (.vjmp c off) s = execVjmp c off s := rfl

theorem exec_vbrf (c : Ctl) (ne : Bool) (k : BitVec 3) (off : BitVec 24) (s : State) :
    exec (.vbrf c ne k off) s = execVbrf c ne k off s := rfl

theorem exec_fetch (st : StreamId) (s : State) :
    exec (.fetch st) s = execFetch st s := rfl

theorem exec_land (s : State) :
    exec (.land) s = execLand s := rfl

theorem exec_start (core : Nat) (s : State) :
    exec (.start core) s = execStart core s := rfl

theorem exec_read (core : Nat) (id : Nat) (space : Nat) (grain : Nat) (tr : Nat) (s : State) :
    exec (.read core id space grain tr) s = execRead core id space grain tr s := rfl

theorem exec_merge (core : Nat) (id : Nat) (grain : Nat) (tr : Nat) (s : State) :
    exec (.merge core id grain tr) s = execMerge core id grain tr s := rfl

theorem exec_write (core : Nat) (nth : Nat) (s : State) :
    exec (.write core nth) s = execWrite core nth s := rfl

theorem exec_atomic (core : Nat) (id : Nat) (grain : Nat) (tr : Nat) (s : State) :
    exec (.atomic core id grain tr) s = execAtomic core id grain tr s := rfl

theorem exec_deliver (core : Nat) (id : Nat) (grain : Nat) (s : State) :
    exec (.deliver core id grain) s = execDeliver core id grain s := rfl

theorem exec_complete (core : Nat) (group : Nat) (s : State) :
    exec (.complete core group) s = execComplete core group s := rfl

theorem exec_rfHook (core : Nat) (id : Nat) (s : State) :
    exec (.rfHook core id) s = execRfHook core id s := rfl

theorem exec_baHook (core : Nat) (id : Nat) (s : State) :
    exec (.baHook core id) s = execBaHook core id s := rfl

theorem exec_remoteAtom (core : Nat) (nth : Nat) (s : State) :
    exec (.remoteAtom core nth) s = execRemoteAtom core nth s := rfl

theorem exec_remoteAtomReply (core : Nat) (nth : Nat) (s : State) :
    exec (.remoteAtomReply core nth) s = execRemoteAtomReply core nth s := rfl

theorem exec_timedDeadline (s : State) :
    exec (.timedDeadline) s = execTimedDeadline s := rfl

theorem exec_transmit (s : State) :
    exec (.transmit) s = execTransmit s := rfl

theorem exec_ergPut (station : Nat) (s : State) :
    exec (.ergPut station) s = execErgPut station s := rfl

theorem exec_ergAdd (station : Nat) (s : State) :
    exec (.ergAdd station) s = execErgAdd station s := rfl

theorem exec_ergBar (station : Nat) (s : State) :
    exec (.ergBar station) s = execErgBar station s := rfl

theorem exec_shootdown (station : Nat) (s : State) :
    exec (.shootdown station) s = execShootdown station s := rfl

theorem exec_clock (station : Nat) (s : State) :
    exec (.clock station) s = execClock station s := rfl

theorem exec_preempt (station : Nat) (s : State) :
    exec (.preempt station) s = execPreempt station s := rfl

theorem exec_config (station : Nat) (s : State) :
    exec (.config station) s = execConfig station s := rfl

theorem exec_jobend (station : Nat) (s : State) :
    exec (.jobend station) s = execJobend station s := rfl

theorem exec_barrierWaitEnd (s : State) :
    exec (.barrierWaitEnd) s = execBarrierWaitEnd s := rfl

theorem exec_replicaRepair (station : Nat) (s : State) :
    exec (.replicaRepair station) s = execReplicaRepair station s := rfl

theorem exec_round (s : State) :
    exec (.round) s = execRound s := rfl

theorem exec_jobStart (core : Nat) (s : State) :
    exec (.jobStart core) s = execJobStart core s := rfl

theorem exec_jobResume (core : Nat) (s : State) :
    exec (.jobResume core) s = execJobResume core s := rfl

theorem exec_sliceExpiry (s : State) :
    exec (.sliceExpiry) s = execSliceExpiry s := rfl

theorem exec_watchdog (s : State) :
    exec (.watchdog) s = execWatchdog s := rfl

theorem exec_trapDelivery (s : State) :
    exec (.trapDelivery) s = execTrapDelivery s := rfl

theorem exec_softError (core : Nat) (place : SoftWhere) (s : State) :
    exec (.softError core place) s = execSoftError core place s := rfl

theorem exec_memorySoftError (grain : Nat) (s : State) :
    exec (.memorySoftError grain) s = execMemorySoftError grain s := rfl

theorem exec_pull (nth : Nat) (s : State) :
    exec (.pull nth) s = execPull nth s := rfl

theorem exec_tricklePull (s : State) :
    exec (.tricklePull) s = execTricklePull s := rfl

theorem exec_blockDrain (core : Nat) (nth : Nat) (fails : Bool) (s : State) :
    exec (.blockDrain core nth fails) s = execBlockDrain core nth fails s := rfl

theorem exec_hostTailWrite (fn : Nat) (q : Nat) (tail : W32) (s : State) :
    exec (.hostTailWrite fn q tail) s = execHostTailWrite fn q tail s := rfl

theorem exec_queueEnable (fn : Nat) (q : Nat) (ctl : W32) (s : State) :
    exec (.queueEnable fn q ctl) s = execQueueEnable fn q ctl s := rfl

theorem exec_doorbell (fn : Nat) (s : State) :
    exec (.doorbell fn) s = execDoorbell fn s := rfl

theorem exec_eventRingEnable (fn : Nat) (ctl : W32) (s : State) :
    exec (.eventRingEnable fn ctl) s = execEventRingEnable fn ctl s := rfl

theorem exec_tenantCreate (t : Nat) (s : State) :
    exec (.tenantCreate t) s = execTenantCreate t s := rfl

theorem exec_tenantDisable (t : Nat) (s : State) :
    exec (.tenantDisable t) s = execTenantDisable t s := rfl

theorem exec_apertureRead (fn : Nat) (off : Nat) (n : Nat) (s : State) :
    exec (.apertureRead fn off n) s = execApertureRead fn off n s := rfl

theorem exec_apertureWrite (fn : Nat) (off : Nat) (bytes : List Byte) (s : State) :
    exec (.apertureWrite fn off bytes) s = execApertureWrite fn off bytes s := rfl

theorem exec_checkpointFull (s : State) :
    exec (.checkpointFull) s = execCheckpointFull s := rfl

theorem exec_checkpointIncremental (s : State) :
    exec (.checkpointIncremental) s = execCheckpointIncremental s := rfl

theorem exec_checkpointEnd (status : Nat) (s : State) :
    exec (.checkpointEnd status) s = execCheckpointEnd status s := rfl

theorem exec_registerWrite (fn : Nat) (off : Nat) (size : Nat) (value : W64) (s : State) :
    exec (.registerWrite fn off size value) s = execRegisterWrite fn off size value s := rfl

theorem exec_powerSample (draw : Nat) (idle : Nat) (inlet : Nat) (tdraw : List Nat) (s : State) :
    exec (.powerSample draw idle inlet tdraw) s = execPowerSample draw idle inlet tdraw s := rfl

theorem exec_throttlePeriod (cluster : Nat) (s : State) :
    exec (.throttlePeriod cluster) s = execThrottlePeriod cluster s := rfl

theorem exec_clockHoldEnd (cluster : Nat) (s : State) :
    exec (.clockHoldEnd cluster) s = execClockHoldEnd cluster s := rfl

theorem exec_phaseTimeout (cluster : Nat) (s : State) :
    exec (.phaseTimeout cluster) s = execPhaseTimeout cluster s := rfl

theorem exec_thermalTrip (cluster : Nat) (s : State) :
    exec (.thermalTrip cluster) s = execThermalTrip cluster s := rfl

theorem exec_park (w : ParkWhat) (s : State) :
    exec (.park w) s = execPark w s := rfl

theorem exec_unpark (cluster : Nat) (s : State) :
    exec (.unpark cluster) s = execUnpark cluster s := rfl

theorem exec_flitReceive (link : Nat) (tagOk : Bool) (s : State) :
    exec (.flitReceive link tagOk) s = execFlitReceive link tagOk s := rfl

theorem exec_keyFlit (link : Nat) (effect : Bool) (s : State) :
    exec (.keyFlit link effect) s = execKeyFlit link effect s := rfl

theorem exec_keyHold (link : Nat) (s : State) :
    exec (.keyHold link) s = execKeyHold link s := rfl

theorem exec_linkDown (link : Nat) (s : State) :
    exec (.linkDown link) s = execLinkDown link s := rfl

theorem exec_reset (s : State) :
    exec (.reset) s = execReset s := rfl

theorem exec_firmwareVerify (readable : Bool) (s : State) :
    exec (.firmwareVerify readable) s = execFirmwareVerify readable s := rfl

theorem exec_hbmTraining (bad : Option (BitVec 3)) (s : State) :
    exec (.hbmTraining bad) s = execHbmTraining bad s := rfl

theorem exec_linkTraining (hopns : List Nat) (s : State) :
    exec (.linkTraining hopns) s = execLinkTraining hopns s := rfl

theorem exec_ergCalibration (bad : Option (BitVec 4)) (s : State) :
    exec (.ergCalibration bad) s = execErgCalibration bad s := rfl

theorem exec_capabilityPublish (s : State) :
    exec (.capabilityPublish) s = execCapabilityPublish s := rfl

theorem exec_routineImageCheck (t : Nat) (s : State) :
    exec (.routineImageCheck t) s = execRoutineImageCheck t s := rfl

theorem exec_getMeasurements (fn : Nat) (s : State) :
    exec (.getMeasurements fn) s = execGetMeasurements fn s := rfl

theorem exec_referenceTick (s : State) :
    exec (.referenceTick) s = execReferenceTick s := rfl

theorem exec_replicaSoftError (station : Nat) (tenant : Nat) (word : Nat) (s : State) :
    exec (.replicaSoftError station tenant word) s = execReplicaSoftError station tenant word s := rfl

theorem exec_thermalTripRelease (cluster : Nat) (s : State) :
    exec (.thermalTripRelease cluster) s = execThermalTripRelease cluster s := rfl

theorem exec_flowRestored (s : State) :
    exec (.flowRestored) s = execFlowRestored s := rfl

theorem exec_keylow (link : Nat) (s : State) :
    exec (.keylow link) s = execKeylow link s := rfl

theorem exec_spdmKeyExchange (fn : Nat) (key : BitVec 256) (s : State) :
    exec (.spdmKeyExchange fn key) s = execSpdmKeyExchange fn key s := rfl

theorem exec_apertureAtomic (fn : Nat) (off : Nat) (op : AtomOp) (w64 : Bool) (b : W64) (cmp : W64) (s : State) :
    exec (.apertureAtomic fn off op w64 b cmp) s = execApertureAtomic fn off op w64 b cmp s := rfl

theorem exec_launchSlotWrite (fn : Nat) (q : Nat) (s : State) :
    exec (.launchSlotWrite fn q) s = execLaunchSlotWrite fn q s := rfl

theorem exec_hostWriteOneToClear (fn : Nat) (off : Nat) (value : W64) (s : State) :
    exec (.hostWriteOneToClear fn off value) s = execHostWriteOneToClear fn off value s := rfl

end Sys2Proof.Machine
end

