-- ==== Sys2Proof/Laws/Issue.lean ====
section
/-! SUPPORT. What the issue of a word can do (02 R20, R21, R37; 14 R341). -/

namespace Sys2Proof.Machine

theorem Core.absentIn_present {c : Core} (h : c.r.pres = []) (rs : Ranges) : c.absentIn rs = none := by
  simp [Core.absentIn, Core.blocksWith, h]

theorem Core.poisonIn_present {c : Core} (h : c.r.pres = []) (rd wr : Ranges) : c.poisonIn rd wr = none := by
  simp [Core.poisonIn, h]

theorem Core.earlyIn_off {c : Core} (h : c.early = false) (rs : Ranges) (n : Nat) : c.earlyIn rs n = none := by
  simp [Core.earlyIn, h]

theorem Core.earlyRegs_off {c : Core} (h : c.early = false) (regs rd : Ranges) (ps : List (BitVec 3)) (n : Nat) :
    c.earlyRegs regs ps rd n = none := by
  simp [Core.earlyRegs, Core.earlyPreds, Core.earlyIn_off h, lowerFlt, h]

/-- A word under `Core.clear` issues unless its own checks or its own wait hold it back. -/
theorem verdict_clear {c : Core} {p : Plan} (h : c.clear p.ctl) (h1 : p.decode = none) (h2 : p.preWait = none)
    (h3 : p.wait = false) (h4 : p.fault = none) (h5 : p.mid = none) (h6 : p.late = none) : verdict c p = .go := by
  obtain ⟨hp, he, hl, ht, hb, hs⟩ := h
  have hs' : ¬((p.ctl.pushes ≠ 0 && decide (64 < (c.tokens p.ctl.sq).length + vget c.q.fres p.ctl.sq.toNat 0 +
      p.ctl.pushes)) = true) := by
    simp only [Bool.and_eq_true, decide_eq_true_eq, not_and]
    intro h; rcases hs with hs | hs <;> omega
  simp only [verdict, h1, hl, h2, h3, h4, h5, h6, Core.absentIn_present hp, Core.earlyIn_off he, Core.earlyRegs_off he,
    Core.poisonIn_present hp, hb, if_neg (Nat.not_lt.mpr ht), if_neg hs', Option.or_none]
  simp

/-- The four answers of the issue point; the machine always goes on. -/
theorem issue_cases (p : Plan) (s : State) (eff : State → State) :
    (∃ f, verdict s.core p = .fault f ∧ issue p s eff = .next (s.onCore fun c => c.raise p.st f)) ∨
    (verdict s.core p = .wait ∧ issue p s eff = .next s) ∨
    (∃ bs, verdict s.core p = .freeze bs ∧ issue p s eff = .next (s.onCore fun c => c.freeze bs)) ∨
    (verdict s.core p = .go ∧ issue p s eff = .next (eff (s.onCore fun c => c.issued p))) := by
  unfold issue
  split <;> simp_all

theorem issue_go {p : Plan} {s : State} (h : verdict s.core p = .go) (eff : State → State) :
    issue p s eff = .next (eff (s.onCore fun c => c.issued p)) := by
  simp [issue, h]

/-- The issue of a word whose plan asks nothing further of the core. -/
theorem issue_clear {p : Plan} {s : State} (h : s.core.clear p.ctl) (h1 : p.decode = none) (h2 : p.preWait = none)
    (h3 : p.wait = false) (h4 : p.fault = none) (h5 : p.mid = none) (h6 : p.late = none) (eff : State → State) :
    issue p s eff = .next (eff (s.onCore fun c => c.issued p)) :=
  issue_go (verdict_clear h h1 h2 h3 h4 h5 h6) eff

/-- Under `Core.clear` the first fault of a word's own description is taken. -/
theorem issue_faults {p : Plan} {s : State} {f : Flt} (h : s.core.clear p.ctl) (h1 : p.decode = none)
    (h2 : p.preWait = none) (h3 : p.wait = false) (h4 : p.fault = some f) (eff : State → State) :
    issue p s eff = s.faults p.st f := by
  obtain ⟨hp, he, hl, ht, hb, hs⟩ := h
  have hs' : ¬((p.ctl.pushes ≠ 0 && decide (64 < (s.core.tokens p.ctl.sq).length +
      vget s.core.q.fres p.ctl.sq.toNat 0 + p.ctl.pushes)) = true) := by
    simp only [Bool.and_eq_true, decide_eq_true_eq, not_and]
    intro h; rcases hs with hs | hs <;> omega
  have hv : verdict s.core p = .fault f := by
    simp only [verdict, h1, hl, h2, h3, h4, Core.absentIn_present hp, Core.earlyRegs_off he, Core.poisonIn_present hp, hb,
      if_neg (Nat.not_lt.mpr ht), if_neg hs']
    simp
  simp [issue, hv, State.faults]

/-- Under `Core.clear` a word whose own wait holds waits: nothing changes (02 R54). -/
theorem issue_waits {p : Plan} {s : State} (h : s.core.clear p.ctl) (h1 : p.decode = none)
    (h2 : p.preWait = none) (h3 : p.wait = true) (eff : State → State) :
    issue p s eff = .next s := by
  obtain ⟨hp, he, hl, ht, hb, hs⟩ := h
  have hs' : ¬((p.ctl.pushes ≠ 0 && decide (64 < (s.core.tokens p.ctl.sq).length +
      vget s.core.q.fres p.ctl.sq.toNat 0 + p.ctl.pushes)) = true) := by
    simp only [Bool.and_eq_true, decide_eq_true_eq, not_and]
    intro h; rcases hs with hs | hs <;> omega
  have hv : verdict s.core p = .wait := by
    simp only [verdict, h1, hl, h2, h3, Core.absentIn_present hp, hb,
      if_neg (Nat.not_lt.mpr ht), if_neg hs']
    simp
  simp [issue, hv]

/-- A fault decided before the word's own wait. -/
theorem issue_preFaults {p : Plan} {s : State} {f : Flt} (h : s.core.clear p.ctl) (h1 : p.decode = none)
    (h2 : p.preWait = some f) (eff : State → State) :
    issue p s eff = s.faults p.st f := by
  obtain ⟨hp, he, hl, ht, hb, hs⟩ := h
  have hs' : ¬((p.ctl.pushes ≠ 0 && decide (64 < (s.core.tokens p.ctl.sq).length +
      vget s.core.q.fres p.ctl.sq.toNat 0 + p.ctl.pushes)) = true) := by
    simp only [Bool.and_eq_true, decide_eq_true_eq, not_and]
    intro h; rcases hs with hs | hs <;> omega
  have hv : verdict s.core p = .fault f := by
    simp only [verdict, h1, hl, h2, Core.absentIn_present hp, hb, if_neg (Nat.not_lt.mpr ht), if_neg hs']
    simp
  simp [issue, hv, State.faults]

/-- A fault decided last. -/
theorem issue_lateFaults {p : Plan} {s : State} {f : Flt} (h : s.core.clear p.ctl) (h1 : p.decode = none) (h2 : p.preWait = none)
    (h3 : p.wait = false) (h4 : p.fault = none) (h5 : p.mid = none) (h6 : p.late = some f) (eff : State → State) :
    issue p s eff = s.faults p.st f := by
  obtain ⟨hp, he, hl, ht, hb, hs⟩ := h
  have hs' : ¬((p.ctl.pushes ≠ 0 && decide (64 < (s.core.tokens p.ctl.sq).length +
      vget s.core.q.fres p.ctl.sq.toNat 0 + p.ctl.pushes)) = true) := by
    simp only [Bool.and_eq_true, decide_eq_true_eq, not_and]
    intro h; rcases hs with hs | hs <;> omega
  have hv : verdict s.core p = .fault f := by
    simp only [verdict, h1, hl, h2, h3, h4, h5, h6, Core.absentIn_present hp, Core.earlyIn_off he, Core.earlyRegs_off he,
      Core.poisonIn_present hp, hb, if_neg (Nat.not_lt.mpr ht), if_neg hs', Option.or_none]
    simp
  simp [issue, hv, State.faults]

/-- What a word leaves in the core depends on these fields of its plan alone. -/
theorem Core.issued_congr {c : Core} {p q : Plan} (h1 : p.st = q.st) (h2 : p.ctl = q.ctl) (h3 : p.next = q.next)
    (h4 : p.extra = q.extra) (h5 : p.lat = q.lat) (h6 : p.acts = q.acts) (h7 : p.fp = q.fp) (h8 : p.sat = q.sat)
    (h9 : p.noEntry = q.noEntry) (h10 : p.fmt = q.fmt) : c.issued p = c.issued q := by
  simp [Core.issued, Core.streamAt, Plan.entry, Core.silent, h1, h2, h3, h4, h5, h6, h7, h8, h9, h10]

end Sys2Proof.Machine
end

