-- ==== Sys2Proof/Laws/Mem.lean ====
section
/-! SUPPORT. Byte memories: reading after a write, and that every operation keeps the canonical form. -/

namespace Sys2Proof.Machine

/-! ## The canonical form from a bound on -/

theorem Mem.wfFrom_cons (lo k : Nat) (b : Byte) (r : Mem) :
    Mem.wfFrom lo ((k, b) :: r) = true ↔ lo ≤ k ∧ b ≠ memInit ∧ Mem.wfFrom (k + 1) r = true := by
  simp [Mem.wfFrom, and_assoc]

/-- A lower bound serves where a higher one does. -/
theorem Mem.wfFrom_mono {m : Mem} {lo hi : Nat} (h : lo ≤ hi) (hm : Mem.wfFrom hi m = true) : Mem.wfFrom lo m = true := by
  cases m with
  | nil => rfl
  | cons p r =>
    obtain ⟨k, b⟩ := p
    rw [Mem.wfFrom_cons] at hm ⊢
    exact ⟨by omega, hm.2⟩

/-- Nothing is listed below the bound. -/
theorem Mem.get_below {m : Mem} {lo a : Nat} (hm : Mem.wfFrom lo m = true) (h : a < lo) : m.get a = memInit := by
  cases m with
  | nil => rfl
  | cons p r =>
    obtain ⟨k, b⟩ := p
    rw [Mem.wfFrom_cons] at hm
    simp [Mem.get, show a < k by omega]

theorem Mem.wfFrom_set {m : Mem} {lo a : Nat} (b : Byte) (hm : Mem.wfFrom lo m = true) (h : lo ≤ a) :
    Mem.wfFrom lo (m.set a b) = true := by
  induction m generalizing lo with
  | nil =>
    by_cases hb : b = memInit
    · simp [Mem.set, hb, Mem.wfFrom]
    · simp [Mem.set, hb, Mem.wfFrom, h]
  | cons p r ih =>
    obtain ⟨k, c⟩ := p
    obtain ⟨h1, h2, h3⟩ := (Mem.wfFrom_cons lo k c r).mp hm
    unfold Mem.set
    split
    · split
      · exact hm
      · rename_i hb
        exact (Mem.wfFrom_cons ..).mpr ⟨h, hb, (Mem.wfFrom_cons ..).mpr ⟨by omega, h2, h3⟩⟩
    · split
      · split
        · exact Mem.wfFrom_mono (by omega) h3
        · rename_i ha hb
          exact (Mem.wfFrom_cons ..).mpr ⟨h, hb, ha ▸ h3⟩
      · exact (Mem.wfFrom_cons ..).mpr ⟨h1, h2, ih h3 (by omega)⟩

/-! ## What a write leaves -/

/-- A write keeps the canonical form. -/
theorem Mem.wf_set {m : Mem} (a : Nat) (b : Byte) (hm : m.wf = true) : (m.set a b).wf = true :=
  Mem.wfFrom_set b hm (Nat.zero_le a)

theorem Mem.get_set_same_from {m : Mem} {lo : Nat} (a : Nat) (b : Byte) (hm : Mem.wfFrom lo m = true) :
    (m.set a b).get a = b := by
  induction m generalizing lo with
  | nil => by_cases hb : b = memInit <;> simp [Mem.set, Mem.get, hb]
  | cons p r ih =>
    obtain ⟨k, c⟩ := p
    obtain ⟨-, -, h3⟩ := (Mem.wfFrom_cons lo k c r).mp hm
    unfold Mem.set
    split
    · rename_i ha
      split
      · rename_i hb; simp [Mem.get, ha, hb]
      · simp [Mem.get]
    · split
      · rename_i ha
        split
        · rename_i hb
          rw [hb]
          exact Mem.get_below h3 (by omega)
        · simp [Mem.get]
      · rename_i h1 h2
        simp only [Mem.get, h1, h2, if_false]
        exact ih h3

theorem Mem.get_set_other_from {m : Mem} {lo a i : Nat} (b : Byte) (hm : Mem.wfFrom lo m = true) (h : i ≠ a) :
    (m.set a b).get i = m.get i := by
  induction m generalizing lo with
  | nil =>
    by_cases hb : b = memInit
    · simp [Mem.set, Mem.get, hb]
    · simp only [Mem.set, Mem.get, hb, if_false, h]
      split <;> rfl
  | cons p r ih =>
    obtain ⟨k, c⟩ := p
    obtain ⟨-, -, h3⟩ := (Mem.wfFrom_cons lo k c r).mp hm
    unfold Mem.set
    split
    · rename_i ha
      split
      · rfl
      · by_cases hi : i < a
        · simp only [Mem.get, if_pos hi, if_pos (show i < k by omega)]
        · simp only [Mem.get, if_neg hi, if_neg h]
    · split
      · rename_i h1 ha
        have hk : i ≠ k := ha ▸ h
        split
        · by_cases hi : i < k
          · simp only [Mem.get, if_pos hi]
            exact Mem.get_below h3 (by omega)
          · simp only [Mem.get, if_neg hi, if_neg hk]
        · by_cases hi : i < k
          · simp only [Mem.get, if_pos hi, if_pos (show i < a by omega)]
          · simp only [Mem.get, if_neg hi, if_neg hk, if_neg h, if_neg (show ¬ i < a by omega)]
      · simp only [Mem.get]
        split
        · rfl
        · split
          · rfl
          · exact ih h3

/-- A read of the address written gives the byte. -/
theorem Mem.get_set_same {m : Mem} (a : Nat) (b : Byte) (hm : m.wf = true) : (m.set a b).get a = b :=
  Mem.get_set_same_from a b hm

/-- A write leaves every other address alone. -/
theorem Mem.get_set_other {m : Mem} {a i : Nat} (b : Byte) (hm : m.wf = true) (h : i ≠ a) : (m.set a b).get i = m.get i :=
  Mem.get_set_other_from b hm h

theorem Mem.get_set {m : Mem} (a i : Nat) (b : Byte) (hm : m.wf = true) :
    (m.set a b).get i = if i = a then b else m.get i := by
  by_cases h : i = a
  · subst h; simp [Mem.get_set_same i b hm]
  · simp [h, Mem.get_set_other b hm h]

/-! ## Several bytes -/

theorem Mem.wf_setN {m : Mem} (a : Nat) (l : List Byte) (hm : m.wf = true) : (Mem.setN m a l).wf = true := by
  induction l generalizing m a with
  | nil => exact hm
  | cons b bs ih => exact ih (a + 1) (Mem.wf_set a b hm)

theorem Mem.wf_setAll {m : Mem} (l : List (Nat × Byte)) (hm : m.wf = true) : (m.setAll l).wf = true := by
  induction l generalizing m with
  | nil => exact hm
  | cons p r ih => exact ih (Mem.wf_set p.1 p.2 hm)

theorem Mem.wfFrom_filter {m : Mem} {lo : Nat} (f : Host.Cell → Bool) (hm : Mem.wfFrom lo m = true) :
    Mem.wfFrom lo (m.filter f) = true := by
  induction m generalizing lo with
  | nil => rfl
  | cons p r ih =>
    obtain ⟨k, c⟩ := p
    obtain ⟨h1, h2, h3⟩ := (Mem.wfFrom_cons lo k c r).mp hm
    rw [List.filter_cons]
    split
    · exact (Mem.wfFrom_cons ..).mpr ⟨h1, h2, ih h3⟩
    · exact Mem.wfFrom_mono (by omega) (ih h3)

theorem Mem.wf_clear {m : Mem} (lo hi : Nat) (hm : m.wf = true) : (m.clear lo hi).wf = true := Mem.wfFrom_filter _ hm

theorem Mem.wf_nil : Mem.wf [] = true := rfl

/-- What several bytes written from an address on leave. -/
theorem Mem.get_setN {m : Mem} (a i : Nat) (l : List Byte) (hm : m.wf = true) :
    (Mem.setN m a l).get i = if a ≤ i ∧ i < a + l.length then l.getD (i - a) 0 else m.get i := by
  induction l generalizing m a with
  | nil => rw [Mem.setN, if_neg (by rw [List.length_nil]; omega)]
  | cons b bs ih =>
    rw [Mem.setN, ih (a + 1) (Mem.wf_set a b hm), Mem.get_set a i b hm]
    by_cases h1 : i = a
    · subst h1
      rw [if_neg (by omega), if_pos rfl, if_pos ⟨by omega, by rw [List.length_cons]; omega⟩, Nat.sub_self]
      rfl
    · by_cases h2 : a + 1 ≤ i ∧ i < a + 1 + bs.length
      · rw [if_pos h2, if_pos ⟨by omega, by rw [List.length_cons]; omega⟩, show i - a = (i - (a + 1)) + 1 by omega]
        rfl
      · rw [if_neg h2, if_neg h1, if_neg]
        rw [List.length_cons]
        omega

/-! ## The bytes of a core, and the machine -/

/-- Replacing a byte of a core keeps its memory's form. -/
theorem Core.wf_setB {c : Core} (a : Nat) (b : Byte) (h : c.r.sram.wf = true) : (c.setB a b).r.sram.wf = true := by
  have hv : ∀ y, ({ c with r := { c.r with v := y } } : Core).r.sram.wf = true := fun _ => h
  have hw : ∀ y, ({ c with r := { c.r with w := y } } : Core).r.sram.wf = true := fun _ => h
  have hx : ∀ y, ({ c with r := { c.r with x := y } } : Core).r.sram.wf = true := fun _ => h
  have hk : ∀ y, ({ c with r := { c.r with k := y } } : Core).r.sram.wf = true := fun _ => h
  have hz : ∀ y, ({ c with r := { c.r with z := y } } : Core).r.sram.wf = true := fun _ => h
  have hm : ∀ y, ({ c with r := { c.r with m := y } } : Core).r.sram.wf = true := fun _ => h
  have hs : ∀ y, ({ c with r := { c.r with s := y } } : Core).r.sram.wf = true := fun _ => h
  have hh : ∀ y, ({ c with r := { c.r with h := y } } : Core).r.sram.wf = true := fun _ => h
  have hp : ∀ y, ({ c with r := { c.r with p := y } } : Core).r.sram.wf = true := fun _ => h
  unfold Core.setB
  dsimp only
  refine (iteInduction (motive := fun x : Core => x.r.sram.wf = true) (fun _ => Mem.wf_set a b h) fun _ => ?_)
  refine (iteInduction (motive := fun x : Core => x.r.sram.wf = true) (fun _ => hv _) fun _ => ?_)
  refine (iteInduction (motive := fun x : Core => x.r.sram.wf = true) (fun _ => hw _) fun _ => ?_)
  refine (iteInduction (motive := fun x : Core => x.r.sram.wf = true) (fun _ => hx _) fun _ => ?_)
  refine (iteInduction (motive := fun x : Core => x.r.sram.wf = true) (fun _ => h) fun _ => ?_)
  refine (iteInduction (motive := fun x : Core => x.r.sram.wf = true) (fun _ => hk _) fun _ => ?_)
  refine (iteInduction (motive := fun x : Core => x.r.sram.wf = true) (fun _ => h) fun _ => ?_)
  refine (iteInduction (motive := fun x : Core => x.r.sram.wf = true) (fun _ => hz _) fun _ => ?_)
  refine (iteInduction (motive := fun x : Core => x.r.sram.wf = true) (fun _ => h) fun _ => ?_)
  refine (iteInduction (motive := fun x : Core => x.r.sram.wf = true) (fun _ => hm _) fun _ => ?_)
  refine (iteInduction (motive := fun x : Core => x.r.sram.wf = true) (fun _ => h) fun _ => ?_)
  refine (iteInduction (motive := fun x : Core => x.r.sram.wf = true) (fun _ => hs _) fun _ => ?_)
  refine (iteInduction (motive := fun x : Core => x.r.sram.wf = true) (fun _ => hh _) fun _ => ?_)
  refine (iteInduction (motive := fun x : Core => x.r.sram.wf = true) (fun _ => hp _) fun _ => ?_)
  exact h

/-- Every core's memory is in form where the machine's are. -/
theorem State.Inv.core {s : State} (h : s.Inv) (n : Nat) : (s.getCore n).r.sram.wf = true := by
  unfold State.getCore
  split
  · exact h.2.2.2.1
  · have go : ∀ l : List (Nat × Core), (∀ p ∈ l, p.2.r.sram.wf = true) → (alGet Core.reset l n).r.sram.wf = true := by
      intro l
      induction l with
      | nil => intro _; rfl
      | cons p r ih =>
        intro hl
        obtain ⟨k, x⟩ := p
        unfold alGet
        split
        · exact hl (k, x) (by simp)
        · exact ih fun q hq => hl q (by simp [hq])
    exact go _ h.2.2.2.2

/-- The entries after one was replaced are the old ones and the new one. -/
theorem mem_alSet {α : Type} {l : List (Nat × α)} {n : Nat} {x : α} {p : Nat × α} (h : p ∈ alSet l n x) :
    p = (n, x) ∨ p ∈ l := by
  induction l with
  | nil => simpa [alSet] using h
  | cons q r ih =>
    obtain ⟨k, y⟩ := q
    unfold alSet at h
    split at h
    · simpa using h
    · split at h
      · simp only [List.mem_cons] at h ⊢
        tauto
      · simp only [List.mem_cons] at h ⊢
        rcases h with h | h
        · exact .inr (.inl h)
        · rcases ih h with h | h
          · exact .inl h
          · exact .inr (.inr h)

/-- A core whose memory is in form may be put back. -/
theorem State.Inv.put {s : State} (h : s.Inv) (n : Nat) {c : Core} (hc : c.r.sram.wf = true) : (s.putCore n c).Inv := by
  unfold State.putCore
  split
  · exact ⟨h.1, h.2.1, h.2.2.1, hc, h.2.2.2.2⟩
  · refine ⟨h.1, h.2.1, h.2.2.1, h.2.2.2.1, fun p hp => ?_⟩
    rcases mem_alSet hp with rfl | hp
    · exact hc
    · exact h.2.2.2.2 p hp

theorem State.Inv.onCore {s : State} (h : s.Inv) (f : Core → Core) (hf : (f s.core).r.sram.wf = true) : (s.onCore f).Inv :=
  ⟨h.1, h.2.1, h.2.2.1, hf, h.2.2.2.2⟩

/-- A byte written at a local address of a core keeps the invariant. -/
theorem State.Inv.setB {s : State} (h : s.Inv) (n a : Nat) (b : Byte) : (s.setB n a b).Inv := by
  unfold State.setB
  split
  · exact h.put _ (Core.wf_setB _ _ (h.core _))
  · exact h.put _ (Core.wf_setB _ _ (h.core _))

theorem State.Inv.setBs {s : State} (h : s.Inv) (n a : Nat) (l : List Byte) : (s.setBs n a l).Inv := by
  induction l generalizing s a with
  | nil => exact h
  | cons b bs ih => exact ih (h.setB n a b) (a + 1)

/-- Selecting another core keeps the invariant. -/
theorem State.Inv.select {s : State} (h : s.Inv) (n : Nat) : (s.select n).Inv := by
  unfold State.select
  split
  · exact h
  · refine ⟨h.1, h.2.1, h.2.2.1, h.core n, fun p hp => ?_⟩
    rcases mem_alSet hp with rfl | hp
    · exact h.2.2.2.1
    · exact h.2.2.2.2 p (List.mem_filter.mp hp).1

/-- A write of a grain of device memory keeps the invariant. -/
theorem State.Inv.devWrite {s : State} (h : s.Inv) (g : Nat) (bs : List (Nat × Byte)) (w : BitVec 12) (r : BitVec 20) :
    (s.devWrite g bs w r).Inv := by
  have key : ∀ t : State, t.mem = s.mem → t.host = s.host → t.peers = s.peers → t.core = s.core → t.parked = s.parked →
      ({ t with mem := putBytes t.mem g bs } : State).Inv := by
    intro t h1 h2 h3 h4 h5
    refine ⟨?_, ?_, ?_, ?_, ?_⟩
    · show (putBytes t.mem g bs).wf = true
      rw [h1]; exact Mem.wf_setAll _ h.1
    · show t.host.wf = true
      rw [h2]; exact h.2.1
    · show ∀ p ∈ t.peers, p.2.mem.wf = true
      rw [h3]; exact h.2.2.1
    · show t.core.r.sram.wf = true
      rw [h4]; exact h.2.2.2.1
    · show ∀ p ∈ t.parked, p.2.r.sram.wf = true
      rw [h5]; exact h.2.2.2.2
  have cache : ∀ (e : Bool) (t : State), (t.touchCache e g).mem = t.mem ∧ (t.touchCache e g).host = t.host ∧
      (t.touchCache e g).peers = t.peers ∧ (t.touchCache e g).core = t.core ∧ (t.touchCache e g).parked = t.parked := by
    intro e t; unfold State.touchCache; dsimp only; split <;> simp
  have gran : ∀ t : State, (t.markGranule g).mem = t.mem ∧ (t.markGranule g).host = t.host ∧
      (t.markGranule g).peers = t.peers ∧ (t.markGranule g).core = t.core ∧ (t.markGranule g).parked = t.parked := by
    intro t; unfold State.markGranule; split
    · dsimp only; split <;> simp
    · simp
  obtain ⟨a1, a2, a3, a4, a5⟩ := cache false s
  obtain ⟨b1, b2, b3, b4, b5⟩ := gran (s.touchCache false g)
  have := key _ (b1.trans a1) (b2.trans a2) (b3.trans a3) (b4.trans a4) (b5.trans a5)
  unfold State.devWrite State.setTag
  dsimp only
  split <;> exact this

end Sys2Proof.Machine
end

