-- ==== Sys2Proof/Laws/PerInstr.lean ====
section
/-! SUPPORT. Statements made for every instruction: a well-formed word decodes to the instruction it encodes
(02_words.md R18 to R35). -/

namespace Sys2Proof.Laws.RoundTrip

/-- The word of a well-formed instruction decodes to it in its stream's map. -/
def Statement (i : Instr) : Prop := ∀ w, encode i = some w → wfError i = none → decodeWord i.stream w = .ok i

theorem add (c : Ctl) (d : BitVec 6) (a : BitVec 6) (b : BitVec 6) :
    Statement (.add c d a b) := by
  intro w h hw
  cases (h : some _ = some _)
  refine decodeWord_mkWord _ _ _ _ _ (by decide) ?_ hw
  change need _ _ = _
  simp [need]

theorem sub (c : Ctl) (d : BitVec 6) (a : BitVec 6) (b : BitVec 6) :
    Statement (.sub c d a b) := by
  intro w h hw
  cases (h : some _ = some _)
  refine decodeWord_mkWord _ _ _ _ _ (by decide) ?_ hw
  change need _ _ = _
  simp [need]

theorem mul (c : Ctl) (d : BitVec 6) (a : BitVec 6) (b : BitVec 6) :
    Statement (.mul c d a b) := by
  intro w h hw
  cases (h : some _ = some _)
  refine decodeWord_mkWord _ _ _ _ _ (by decide) ?_ hw
  change need _ _ = _
  simp [need]

theorem mulhs (c : Ctl) (d : BitVec 6) (a : BitVec 6) (b : BitVec 6) :
    Statement (.mulhs c d a b) := by
  intro w h hw
  cases (h : some _ = some _)
  refine decodeWord_mkWord _ _ _ _ _ (by decide) ?_ hw
  change need _ _ = _
  simp [need]

theorem mulhu (c : Ctl) (d : BitVec 6) (a : BitVec 6) (b : BitVec 6) :
    Statement (.mulhu c d a b) := by
  intro w h hw
  cases (h : some _ = some _)
  refine decodeWord_mkWord _ _ _ _ _ (by decide) ?_ hw
  change need _ _ = _
  simp [need]

theorem div (c : Ctl) (d : BitVec 6) (a : BitVec 6) (b : BitVec 6) :
    Statement (.div c d a b) := by
  intro w h hw
  cases (h : some _ = some _)
  refine decodeWord_mkWord _ _ _ _ _ (by decide) ?_ hw
  change need _ _ = _
  simp [need]

theorem divu (c : Ctl) (d : BitVec 6) (a : BitVec 6) (b : BitVec 6) :
    Statement (.divu c d a b) := by
  intro w h hw
  cases (h : some _ = some _)
  refine decodeWord_mkWord _ _ _ _ _ (by decide) ?_ hw
  change need _ _ = _
  simp [need]

theorem rem (c : Ctl) (d : BitVec 6) (a : BitVec 6) (b : BitVec 6) :
    Statement (.rem c d a b) := by
  intro w h hw
  cases (h : some _ = some _)
  refine decodeWord_mkWord _ _ _ _ _ (by decide) ?_ hw
  change need _ _ = _
  simp [need]

theorem remu (c : Ctl) (d : BitVec 6) (a : BitVec 6) (b : BitVec 6) :
    Statement (.remu c d a b) := by
  intro w h hw
  cases (h : some _ = some _)
  refine decodeWord_mkWord _ _ _ _ _ (by decide) ?_ hw
  change need _ _ = _
  simp [need]

theorem and (c : Ctl) (d : BitVec 6) (a : BitVec 6) (b : BitVec 6) :
    Statement (.and c d a b) := by
  intro w h hw
  cases (h : some _ = some _)
  refine decodeWord_mkWord _ _ _ _ _ (by decide) ?_ hw
  change need _ _ = _
  simp [need]

theorem or (c : Ctl) (d : BitVec 6) (a : BitVec 6) (b : BitVec 6) :
    Statement (.or c d a b) := by
  intro w h hw
  cases (h : some _ = some _)
  refine decodeWord_mkWord _ _ _ _ _ (by decide) ?_ hw
  change need _ _ = _
  simp [need]

theorem xor (c : Ctl) (d : BitVec 6) (a : BitVec 6) (b : BitVec 6) :
    Statement (.xor c d a b) := by
  intro w h hw
  cases (h : some _ = some _)
  refine decodeWord_mkWord _ _ _ _ _ (by decide) ?_ hw
  change need _ _ = _
  simp [need]

theorem andn (c : Ctl) (d : BitVec 6) (a : BitVec 6) (b : BitVec 6) :
    Statement (.andn c d a b) := by
  intro w h hw
  cases (h : some _ = some _)
  refine decodeWord_mkWord _ _ _ _ _ (by decide) ?_ hw
  change need _ _ = _
  simp [need]

theorem shl (c : Ctl) (d : BitVec 6) (a : BitVec 6) (b : BitVec 6) :
    Statement (.shl c d a b) := by
  intro w h hw
  cases (h : some _ = some _)
  refine decodeWord_mkWord _ _ _ _ _ (by decide) ?_ hw
  change need _ _ = _
  simp [need]

theorem shr (c : Ctl) (d : BitVec 6) (a : BitVec 6) (b : BitVec 6) :
    Statement (.shr c d a b) := by
  intro w h hw
  cases (h : some _ = some _)
  refine decodeWord_mkWord _ _ _ _ _ (by decide) ?_ hw
  change need _ _ = _
  simp [need]

theorem sar (c : Ctl) (d : BitVec 6) (a : BitVec 6) (b : BitVec 6) :
    Statement (.sar c d a b) := by
  intro w h hw
  cases (h : some _ = some _)
  refine decodeWord_mkWord _ _ _ _ _ (by decide) ?_ hw
  change need _ _ = _
  simp [need]

theorem rol (c : Ctl) (d : BitVec 6) (a : BitVec 6) (b : BitVec 6) :
    Statement (.rol c d a b) := by
  intro w h hw
  cases (h : some _ = some _)
  refine decodeWord_mkWord _ _ _ _ _ (by decide) ?_ hw
  change need _ _ = _
  simp [need]

theorem min (c : Ctl) (d : BitVec 6) (a : BitVec 6) (b : BitVec 6) :
    Statement (.min c d a b) := by
  intro w h hw
  cases (h : some _ = some _)
  refine decodeWord_mkWord _ _ _ _ _ (by decide) ?_ hw
  change need _ _ = _
  simp [need]

theorem max (c : Ctl) (d : BitVec 6) (a : BitVec 6) (b : BitVec 6) :
    Statement (.max c d a b) := by
  intro w h hw
  cases (h : some _ = some _)
  refine decodeWord_mkWord _ _ _ _ _ (by decide) ?_ hw
  change need _ _ = _
  simp [need]

theorem minu (c : Ctl) (d : BitVec 6) (a : BitVec 6) (b : BitVec 6) :
    Statement (.minu c d a b) := by
  intro w h hw
  cases (h : some _ = some _)
  refine decodeWord_mkWord _ _ _ _ _ (by decide) ?_ hw
  change need _ _ = _
  simp [need]

theorem maxu (c : Ctl) (d : BitVec 6) (a : BitVec 6) (b : BitVec 6) :
    Statement (.maxu c d a b) := by
  intro w h hw
  cases (h : some _ = some _)
  refine decodeWord_mkWord _ _ _ _ _ (by decide) ?_ hw
  change need _ _ = _
  simp [need]

theorem clz (c : Ctl) (d : BitVec 6) (a : BitVec 6) :
    Statement (.clz c d a) := by
  intro w h hw
  cases (h : some _ = some _)
  refine decodeWord_mkWord _ _ _ _ _ (by decide) ?_ hw
  change need _ _ = _
  simp [need]

theorem popc (c : Ctl) (d : BitVec 6) (a : BitVec 6) :
    Statement (.popc c d a) := by
  intro w h hw
  cases (h : some _ = some _)
  refine decodeWord_mkWord _ _ _ _ _ (by decide) ?_ hw
  change need _ _ = _
  simp [need]

theorem sel (c : Ctl) (d : BitVec 6) (a : BitVec 6) (b : BitVec 6) (p : BitVec 3) :
    Statement (.sel c d a b p) := by
  intro w h hw
  cases (h : some _ = some _)
  refine decodeWord_mkWord _ _ _ _ _ (by decide) ?_ hw
  change need _ _ = _
  simp [need]

theorem addx (c : Ctl) (d : BitVec 6) (a : BitVec 6) (b : BitVec 6) (n : BitVec 6) :
    Statement (.addx c d a b n) := by
  intro w h hw
  cases (h : some _ = some _)
  refine decodeWord_mkWord _ _ _ _ _ (by decide) ?_ hw
  change need _ _ = _
  simp [need]

theorem clamp (c : Ctl) (d : BitVec 6) (a : BitVec 6) (b : BitVec 6) :
    Statement (.clamp c d a b) := by
  intro w h hw
  cases (h : some _ = some _)
  refine decodeWord_mkWord _ _ _ _ _ (by decide) ?_ hw
  change need _ _ = _
  simp [need]

theorem addi (c : Ctl) (d : BitVec 6) (a : BitVec 6) (imm : BitVec 28) :
    Statement (.addi c d a imm) := by
  intro w h hw
  cases (h : some _ = some _)
  refine decodeWord_mkWord _ _ _ _ _ (by decide) ?_ hw
  change Except.ok (_ : Instr) = _
  simp

theorem andi (c : Ctl) (d : BitVec 6) (a : BitVec 6) (imm : BitVec 28) :
    Statement (.andi c d a imm) := by
  intro w h hw
  cases (h : some _ = some _)
  refine decodeWord_mkWord _ _ _ _ _ (by decide) ?_ hw
  change Except.ok (_ : Instr) = _
  simp

theorem ori (c : Ctl) (d : BitVec 6) (a : BitVec 6) (imm : BitVec 28) :
    Statement (.ori c d a imm) := by
  intro w h hw
  cases (h : some _ = some _)
  refine decodeWord_mkWord _ _ _ _ _ (by decide) ?_ hw
  change Except.ok (_ : Instr) = _
  simp

theorem xori (c : Ctl) (d : BitVec 6) (a : BitVec 6) (imm : BitVec 28) :
    Statement (.xori c d a imm) := by
  intro w h hw
  cases (h : some _ = some _)
  refine decodeWord_mkWord _ _ _ _ _ (by decide) ?_ hw
  change Except.ok (_ : Instr) = _
  simp

theorem shli (c : Ctl) (d : BitVec 6) (a : BitVec 6) (n : BitVec 6) :
    Statement (.shli c d a n) := by
  intro w h hw
  cases (h : some _ = some _)
  refine decodeWord_mkWord _ _ _ _ _ (by decide) ?_ hw
  change need _ _ = _
  simp [need]

theorem shri (c : Ctl) (d : BitVec 6) (a : BitVec 6) (n : BitVec 6) :
    Statement (.shri c d a n) := by
  intro w h hw
  cases (h : some _ = some _)
  refine decodeWord_mkWord _ _ _ _ _ (by decide) ?_ hw
  change need _ _ = _
  simp [need]

theorem sari (c : Ctl) (d : BitVec 6) (a : BitVec 6) (n : BitVec 6) :
    Statement (.sari c d a n) := by
  intro w h hw
  cases (h : some _ = some _)
  refine decodeWord_mkWord _ _ _ _ _ (by decide) ?_ hw
  change need _ _ = _
  simp [need]

theorem muli (c : Ctl) (d : BitVec 6) (a : BitVec 6) (imm : BitVec 28) :
    Statement (.muli c d a imm) := by
  intro w h hw
  cases (h : some _ = some _)
  refine decodeWord_mkWord _ _ _ _ _ (by decide) ?_ hw
  change Except.ok (_ : Instr) = _
  simp

theorem li (c : Ctl) (d : BitVec 6) (imm : BitVec 34) :
    Statement (.li c d imm) := by
  intro w h hw
  cases (h : some _ = some _)
  refine decodeWord_mkWord _ _ _ _ _ (by decide) ?_ hw
  change Except.ok (_ : Instr) = _
  simp

theorem lih (c : Ctl) (d : BitVec 6) (imm : BitVec 32) :
    Statement (.lih c d imm) := by
  intro w h hw
  cases (h : some _ = some _)
  refine decodeWord_mkWord _ _ _ _ _ (by decide) ?_ hw
  change need _ _ = _
  simp [need]

theorem cmp (c : Ctl) (cc : Cond) (pd : BitVec 3) (a : BitVec 6) (b : BitVec 6) :
    Statement (.cmp c cc pd a b) := by
  intro w h hw
  cases (h : some _ = some _)
  refine decodeWord_mkWord _ _ _ _ _ (by decide) ?_ hw
  change opt _ _ = _
  simp [need, opt]

theorem cmpi (c : Ctl) (cc : Cond) (pd : BitVec 3) (a : BitVec 6) (imm : BitVec 24) :
    Statement (.cmpi c cc pd a imm) := by
  intro w h hw
  cases (h : some _ = some _)
  refine decodeWord_mkWord _ _ _ _ _ (by decide) ?_ hw
  change opt _ _ = _
  simp [need, opt]

theorem plog (c : Ctl) (op : LogOp) (pd : BitVec 3) (pa : BitVec 3) (pb : BitVec 3) :
    Statement (.plog c op pd pa pb) := by
  intro w h hw
  cases (h : some _ = some _)
  refine decodeWord_mkWord _ _ _ _ _ (by decide) ?_ hw
  change opt _ _ = _
  simp [need, opt]

theorem br (c : Ctl) (cc : Cond) (a : BitVec 6) (b : BitVec 6) (off : BitVec 24) :
    Statement (.br c cc a b off) := by
  intro w h hw
  cases (h : some _ = some _)
  refine decodeWord_mkWord _ _ _ _ _ (by decide) ?_ hw
  change opt _ _ = _
  simp [need, opt]

theorem bp (c : Ctl) (ne : Bool) (p : BitVec 3) (off : BitVec 24) :
    Statement (.bp c ne p off) := by
  intro w h hw
  cases (h : some _ = some _)
  refine decodeWord_mkWord _ _ _ _ _ (by decide) ?_ hw
  change need _ _ = _
  simp [need]

theorem jmp (c : Ctl) (off : BitVec 24) :
    Statement (.jmp c off) := by
  intro w h hw
  cases (h : some _ = some _)
  refine decodeWord_mkWord _ _ _ _ _ (by decide) ?_ hw
  change need _ _ = _
  simp [need]

theorem call (c : Ctl) (off : BitVec 24) :
    Statement (.call c off) := by
  intro w h hw
  cases (h : some _ = some _)
  refine decodeWord_mkWord _ _ _ _ _ (by decide) ?_ hw
  change need _ _ = _
  simp [need]

theorem jr (c : Ctl) (d : BitVec 6) (a : BitVec 6) :
    Statement (.jr c d a) := by
  intro w h hw
  cases (h : some _ = some _)
  refine decodeWord_mkWord _ _ _ _ _ (by decide) ?_ hw
  change need _ _ = _
  simp [need]

theorem loop (c : Ctl) (a : BitVec 6) (off : BitVec 24) :
    Statement (.loop c a off) := by
  intro w h hw
  cases (h : some _ = some _)
  refine decodeWord_mkWord _ _ _ _ _ (by decide) ?_ hw
  change need _ _ = _
  simp [need]

theorem hset (c : Ctl) (h : BitVec 4) (a : BitVec 6) (fld : HField) :
    Statement (.hset c h a fld) := by
  intro w h hw
  cases (h : some _ = some _)
  refine decodeWord_mkWord _ _ _ _ _ (by decide) ?_ hw
  change opt _ _ = _
  simp [need, opt]

theorem hget (c : Ctl) (a : BitVec 6) (g : BitVec 4) (fld : HField) :
    Statement (.hget c a g fld) := by
  intro w h hw
  cases (h : some _ = some _)
  refine decodeWord_mkWord _ _ _ _ _ (by decide) ?_ hw
  change opt _ _ = _
  simp [need, opt]

theorem hld (c : Ctl) (h : BitVec 4) (a : BitVec 6) (off : BitVec 8) :
    Statement (.hld c h a off) := by
  intro w h hw
  cases (h : some _ = some _)
  refine decodeWord_mkWord _ _ _ _ _ (by decide) ?_ hw
  change need _ _ = _
  simp [need]

theorem hst (c : Ctl) (g : BitVec 4) (a : BitVec 6) (off : BitVec 8) :
    Statement (.hst c g a off) := by
  intro w h hw
  cases (h : some _ = some _)
  refine decodeWord_mkWord _ _ _ _ _ (by decide) ?_ hw
  change need _ _ = _
  simp [need]

theorem hmov (c : Ctl) (h : BitVec 4) (g : BitVec 4) :
    Statement (.hmov c h g) := by
  intro w h hw
  cases (h : some _ = some _)
  refine decodeWord_mkWord _ _ _ _ _ (by decide) ?_ hw
  change need _ _ = _
  simp [need]

theorem hadv (c : Ctl) (h : BitVec 4) (g : BitVec 4) (a : BitVec 6) (dim : BitVec 2) :
    Statement (.hadv c h g a dim) := by
  intro w h hw
  cases (h : some _ = some _)
  refine decodeWord_mkWord _ _ _ _ _ (by decide) ?_ hw
  change need _ _ = _
  simp [need]

theorem hdim (c : Ctl) (h : BitVec 4) (g : BitVec 4) (a : BitVec 6) (b : BitVec 6) (dim : BitVec 2) :
    Statement (.hdim c h g a b dim) := by
  intro w h hw
  cases (h : some _ = some _)
  refine decodeWord_mkWord _ _ _ _ _ (by decide) ?_ hw
  change need _ _ = _
  simp [need]

theorem ld8 (c : Ctl) (d : BitVec 6) (a : BitVec 6) (imm : BitVec 28) :
    Statement (.ld8 c d a imm) := by
  intro w h hw
  cases (h : some _ = some _)
  refine decodeWord_mkWord _ _ _ _ _ (by decide) ?_ hw
  change Except.ok (_ : Instr) = _
  simp

theorem ld16 (c : Ctl) (d : BitVec 6) (a : BitVec 6) (imm : BitVec 28) :
    Statement (.ld16 c d a imm) := by
  intro w h hw
  cases (h : some _ = some _)
  refine decodeWord_mkWord _ _ _ _ _ (by decide) ?_ hw
  change Except.ok (_ : Instr) = _
  simp

theorem ld32 (c : Ctl) (d : BitVec 6) (a : BitVec 6) (imm : BitVec 28) :
    Statement (.ld32 c d a imm) := by
  intro w h hw
  cases (h : some _ = some _)
  refine decodeWord_mkWord _ _ _ _ _ (by decide) ?_ hw
  change Except.ok (_ : Instr) = _
  simp

theorem ld64 (c : Ctl) (d : BitVec 6) (a : BitVec 6) (imm : BitVec 28) :
    Statement (.ld64 c d a imm) := by
  intro w h hw
  cases (h : some _ = some _)
  refine decodeWord_mkWord _ _ _ _ _ (by decide) ?_ hw
  change Except.ok (_ : Instr) = _
  simp

theorem lds8 (c : Ctl) (d : BitVec 6) (a : BitVec 6) (imm : BitVec 28) :
    Statement (.lds8 c d a imm) := by
  intro w h hw
  cases (h : some _ = some _)
  refine decodeWord_mkWord _ _ _ _ _ (by decide) ?_ hw
  change Except.ok (_ : Instr) = _
  simp

theorem lds16 (c : Ctl) (d : BitVec 6) (a : BitVec 6) (imm : BitVec 28) :
    Statement (.lds16 c d a imm) := by
  intro w h hw
  cases (h : some _ = some _)
  refine decodeWord_mkWord _ _ _ _ _ (by decide) ?_ hw
  change Except.ok (_ : Instr) = _
  simp

theorem lds32 (c : Ctl) (d : BitVec 6) (a : BitVec 6) (imm : BitVec 28) :
    Statement (.lds32 c d a imm) := by
  intro w h hw
  cases (h : some _ = some _)
  refine decodeWord_mkWord _ _ _ _ _ (by decide) ?_ hw
  change Except.ok (_ : Instr) = _
  simp

theorem st8 (c : Ctl) (d : BitVec 6) (a : BitVec 6) (imm : BitVec 28) :
    Statement (.st8 c d a imm) := by
  intro w h hw
  cases (h : some _ = some _)
  refine decodeWord_mkWord _ _ _ _ _ (by decide) ?_ hw
  change Except.ok (_ : Instr) = _
  simp

theorem st16 (c : Ctl) (d : BitVec 6) (a : BitVec 6) (imm : BitVec 28) :
    Statement (.st16 c d a imm) := by
  intro w h hw
  cases (h : some _ = some _)
  refine decodeWord_mkWord _ _ _ _ _ (by decide) ?_ hw
  change Except.ok (_ : Instr) = _
  simp

theorem st32 (c : Ctl) (d : BitVec 6) (a : BitVec 6) (imm : BitVec 28) :
    Statement (.st32 c d a imm) := by
  intro w h hw
  cases (h : some _ = some _)
  refine decodeWord_mkWord _ _ _ _ _ (by decide) ?_ hw
  change Except.ok (_ : Instr) = _
  simp

theorem st64 (c : Ctl) (d : BitVec 6) (a : BitVec 6) (imm : BitVec 28) :
    Statement (.st64 c d a imm) := by
  intro w h hw
  cases (h : some _ = some _)
  refine decodeWord_mkWord _ _ _ _ _ (by decide) ?_ hw
  change Except.ok (_ : Instr) = _
  simp

theorem push (c : Ctl) (a : BitVec 6) (q : DqId) :
    Statement (.push c a q) := by
  intro w h hw
  cases (h : some _ = some _)
  refine decodeWord_mkWord _ _ _ _ _ (by decide) ?_ hw
  change opt _ _ = _
  simp [need, opt]

theorem fmt (c : Ctl) (a : BitVec 6) :
    Statement (.fmt c a) := by
  intro w h hw
  cases (h : some _ = some _)
  refine decodeWord_mkWord _ _ _ _ _ (by decide) ?_ hw
  change need _ _ = _
  simp [need]

theorem pop (c : Ctl) (d : BitVec 6) (q : DqId) :
    Statement (.pop c d q) := by
  intro w h hw
  cases (h : some _ = some _)
  refine decodeWord_mkWord _ _ _ _ _ (by decide) ?_ hw
  change opt _ _ = _
  simp [need, opt]

theorem bout (c : Ctl) (p : BitVec 3) (q : DqId) :
    Statement (.bout c p q) := by
  intro w h hw
  cases (h : some _ = some _)
  refine decodeWord_mkWord _ _ _ _ _ (by decide) ?_ hw
  change opt _ _ = _
  simp [need, opt]

theorem qcnt (c : Ctl) (d : BitVec 6) (q : DqId) :
    Statement (.qcnt c d q) := by
  intro w h hw
  cases (h : some _ = some _)
  refine decodeWord_mkWord _ _ _ _ _ (by decide) ?_ hw
  change opt _ _ = _
  simp [need, opt]

theorem rclaim (c : Ctl) (d : BitVec 6) (a : BitVec 6) (ring : BitVec 4) :
    Statement (.rclaim c d a ring) := by
  intro w h hw
  cases (h : some _ = some _)
  refine decodeWord_mkWord _ _ _ _ _ (by decide) ?_ hw
  change need _ _ = _
  simp [need]

theorem rfill (c : Ctl) (a : BitVec 6) (ring : BitVec 4) :
    Statement (.rfill c a ring) := by
  intro w h hw
  cases (h : some _ = some _)
  refine decodeWord_mkWord _ _ _ _ _ (by decide) ?_ hw
  change need _ _ = _
  simp [need]

theorem rwaitf (c : Ctl) (d : BitVec 6) (a : BitVec 6) (ring : BitVec 4) :
    Statement (.rwaitf c d a ring) := by
  intro w h hw
  cases (h : some _ = some _)
  refine decodeWord_mkWord _ _ _ _ _ (by decide) ?_ hw
  change need _ _ = _
  simp [need]

theorem rfree (c : Ctl) (a : BitVec 6) (ring : BitVec 4) :
    Statement (.rfree c a ring) := by
  intro w h hw
  cases (h : some _ = some _)
  refine decodeWord_mkWord _ _ _ _ _ (by decide) ?_ hw
  change need _ _ = _
  simp [need]

theorem rset (c : Ctl) (a : BitVec 6) (ring : BitVec 4) :
    Statement (.rset c a ring) := by
  intro w h hw
  cases (h : some _ = some _)
  refine decodeWord_mkWord _ _ _ _ _ (by decide) ?_ hw
  change need _ _ = _
  simp [need]

theorem rstat (c : Ctl) (f : RField) (d : BitVec 6) (ring : BitVec 4) :
    Statement (.rstat c f d ring) := by
  intro w h hw
  cases (h : some _ = some _)
  refine decodeWord_mkWord _ _ _ _ _ (by decide) ?_ hw
  change opt _ _ = _
  simp [need, opt]

theorem bset (c : Ctl) (bar : BitVec 3) :
    Statement (.bset c bar) := by
  intro w h hw
  cases (h : some _ = some _)
  refine decodeWord_mkWord _ _ _ _ _ (by decide) ?_ hw
  change need _ _ = _
  simp [need]

theorem bexp (c : Ctl) (a : BitVec 6) (bar : BitVec 3) :
    Statement (.bexp c a bar) := by
  intro w h hw
  cases (h : some _ = some _)
  refine decodeWord_mkWord _ _ _ _ _ (by decide) ?_ hw
  change need _ _ = _
  simp [need]

theorem barr (c : Ctl) (a : BitVec 6) (bar : BitVec 3) :
    Statement (.barr c a bar) := by
  intro w h hw
  cases (h : some _ = some _)
  refine decodeWord_mkWord _ _ _ _ _ (by decide) ?_ hw
  change need _ _ = _
  simp [need]

theorem bwait (c : Ctl) (a : BitVec 6) (bar : BitVec 3) :
    Statement (.bwait c a bar) := by
  intro w h hw
  cases (h : some _ = some _)
  refine decodeWord_mkWord _ _ _ _ _ (by decide) ?_ hw
  change need _ _ = _
  simp [need]

theorem atom (c : Ctl) (op : AtomOp) (w64 : Bool) (a : BitVec 6) (b : BitVec 6) (cx : BitVec 6) :
    Statement (.atom c op w64 a b cx) := by
  intro w h hw
  cases (h : some _ = some _)
  refine decodeWord_mkWord _ _ _ _ _ (by decide) ?_ hw
  change opt _ _ = _
  simp [need, opt]

theorem copy (c : Ctl) (hd : BitVec 4) (hs : BitVec 4) (p : BitVec 6) (xf : BitVec 8) (tq : BitVec 4) (flags : BitVec 6) (aux : BitVec 8) :
    Statement (.copy c hd hs p xf tq flags aux) := by
  intro w h hw
  cases (h : some _ = some _)
  refine decodeWord_mkWord _ _ _ _ _ (by decide) ?_ hw
  change Except.ok (_ : Instr) = _
  simp

theorem cred (c : Ctl) (hd : BitVec 4) (hs : BitVec 4) (p : BitVec 6) (xf : BitVec 8) (tq : BitVec 4) (flags : BitVec 6) (aux : BitVec 8) :
    Statement (.cred c hd hs p xf tq flags aux) := by
  intro w h hw
  cases (h : some _ = some _)
  refine decodeWord_mkWord _ _ _ _ _ (by decide) ?_ hw
  change Except.ok (_ : Instr) = _
  simp

theorem catom (c : Ctl) (op : AtomOp) (w64 : Bool) (acq : Bool) (h : BitVec 4) (a : BitVec 6) (b : BitVec 6) (cx : BitVec 6) :
    Statement (.catom c op w64 acq h a b cx) := by
  intro w h hw
  cases (h : some _ = some _)
  refine decodeWord_mkWord _ _ _ _ _ (by decide) ?_ hw
  change opt _ _ = _
  simp [need, opt]

theorem cclose (c : Ctl) (tq : BitVec 4) :
    Statement (.cclose c tq) := by
  intro w h hw
  cases (h : some _ = some _)
  refine decodeWord_mkWord _ _ _ _ _ (by decide) ?_ hw
  change need _ _ = _
  simp [need]

theorem cwait (c : Ctl) (n : BitVec 28) :
    Statement (.cwait c n) := by
  intro w h hw
  cases (h : some _ = some _)
  refine decodeWord_mkWord _ _ _ _ _ (by decide) ?_ hw
  change need _ _ = _
  simp [need]

theorem xcfg (c : Ctl) (n : BitVec 4) (a : BitVec 6) :
    Statement (.xcfg c n a) := by
  intro w h hw
  cases (h : some _ = some _)
  refine decodeWord_mkWord _ _ _ _ _ (by decide) ?_ hw
  change need _ _ = _
  simp [need]

theorem cpend (c : Ctl) (d : BitVec 6) :
    Statement (.cpend c d) := by
  intro w h hw
  cases (h : some _ = some _)
  refine decodeWord_mkWord _ _ _ _ _ (by decide) ?_ hw
  change (if (arFn (packAR d 0 0 0 0)) = 0 then need ((arA (packAR d 0 0 0 0)) = 0 && (arB (packAR d 0 0 0 0)) = 0 && (arC (packAR d 0 0 0 0)) = 0) (.cpend c (arD (packAR d 0 0 0 0))) else if (arFn (packAR d 0 0 0 0)) = 1 then need ((arA (packAR d 0 0 0 0)) = 0 && (arB (packAR d 0 0 0 0)) = 0 && (arC (packAR d 0 0 0 0)) = 0) (.cpendCmd c (arD (packAR d 0 0 0 0))) else .error .reservedCode) = _
  simp [need]

theorem cpendCmd (c : Ctl) (d : BitVec 6) :
    Statement (.cpendCmd c d) := by
  intro w h hw
  cases (h : some _ = some _)
  refine decodeWord_mkWord _ _ _ _ _ (by decide) ?_ hw
  change (if (arFn (packAR d 0 0 0 1)) = 0 then need ((arA (packAR d 0 0 0 1)) = 0 && (arB (packAR d 0 0 0 1)) = 0 && (arC (packAR d 0 0 0 1)) = 0) (.cpend c (arD (packAR d 0 0 0 1))) else if (arFn (packAR d 0 0 0 1)) = 1 then need ((arA (packAR d 0 0 0 1)) = 0 && (arB (packAR d 0 0 0 1)) = 0 && (arC (packAR d 0 0 0 1)) = 0) (.cpendCmd c (arD (packAR d 0 0 0 1))) else .error .reservedCode) = _
  simp [need]

theorem obput (c : Ctl) (a : BitVec 6) (b : BitVec 6) (idx : BitVec 10) :
    Statement (.obput c a b idx) := by
  intro w h hw
  cases (h : some _ = some _)
  refine decodeWord_mkWord _ _ _ _ _ (by decide) ?_ hw
  change need _ _ = _
  simp [need]

theorem obwait (c : Ctl) (cc : Cond) (d : BitVec 6) (a : BitVec 6) (b : BitVec 6) (idx : BitVec 10) :
    Statement (.obwait c cc d a b idx) := by
  intro w h hw
  cases (h : some _ = some _)
  refine decodeWord_mkWord _ _ _ _ _ (by decide) ?_ hw
  change opt _ _ = _
  simp [need, opt]

theorem obadd (c : Ctl) (a : BitVec 6) (b : BitVec 6) (idx : BitVec 10) :
    Statement (.obadd c a b idx) := by
  intro w h hw
  cases (h : some _ = some _)
  refine decodeWord_mkWord _ _ _ _ _ (by decide) ?_ hw
  change need _ _ = _
  simp [need]

theorem obbar (c : Ctl) (a : BitVec 6) (b : BitVec 6) (idx : BitVec 10) :
    Statement (.obbar c a b idx) := by
  intro w h hw
  cases (h : some _ = some _)
  refine decodeWord_mkWord _ _ _ _ _ (by decide) ?_ hw
  change need _ _ = _
  simp [need]

theorem obseq (c : Ctl) (d : BitVec 6) :
    Statement (.obseq c d) := by
  intro w h hw
  cases (h : some _ = some _)
  refine decodeWord_mkWord _ _ _ _ _ (by decide) ?_ hw
  change (if (arFn (packAR d 0 0 0 0)) = 0 then need ((arA (packAR d 0 0 0 0)) = 0 && (arB (packAR d 0 0 0 0)) = 0 && (arC (packAR d 0 0 0 0)) = 0) (.obseq c (arD (packAR d 0 0 0 0))) else if (arFn (packAR d 0 0 0 0)) = 1 then need ((arA (packAR d 0 0 0 0)) = 0 && (arB (packAR d 0 0 0 0)) = 0 && (arC (packAR d 0 0 0 0)) = 0) (.obseqOwn c (arD (packAR d 0 0 0 0))) else .error .reservedCode) = _
  simp [need]

theorem obseqOwn (c : Ctl) (d : BitVec 6) :
    Statement (.obseqOwn c d) := by
  intro w h hw
  cases (h : some _ = some _)
  refine decodeWord_mkWord _ _ _ _ _ (by decide) ?_ hw
  change (if (arFn (packAR d 0 0 0 1)) = 0 then need ((arA (packAR d 0 0 0 1)) = 0 && (arB (packAR d 0 0 0 1)) = 0 && (arC (packAR d 0 0 0 1)) = 0) (.obseq c (arD (packAR d 0 0 0 1))) else if (arFn (packAR d 0 0 0 1)) = 1 then need ((arA (packAR d 0 0 0 1)) = 0 && (arB (packAR d 0 0 0 1)) = 0 && (arC (packAR d 0 0 0 1)) = 0) (.obseqOwn c (arD (packAR d 0 0 0 1))) else .error .reservedCode) = _
  simp [need]

theorem frel (c : Ctl) :
    Statement (.frel c) := by
  intro w h hw
  cases (h : some _ = some _)
  refine decodeWord_mkWord _ _ _ _ _ (by decide) ?_ hw
  rfl

theorem facq (c : Ctl) :
    Statement (.facq c) := by
  intro w h hw
  cases (h : some _ = some _)
  refine decodeWord_mkWord _ _ _ _ _ (by decide) ?_ hw
  rfl

theorem obget (c : Ctl) (d : BitVec 6) (a : BitVec 6) (idx : BitVec 10) :
    Statement (.obget c d a idx) := by
  intro w h hw
  cases (h : some _ = some _)
  refine decodeWord_mkWord _ _ _ _ _ (by decide) ?_ hw
  change need _ _ = _
  simp [need]

theorem csrr (c : Ctl) (d : BitVec 6) (csr : Csr) :
    Statement (.csrr c d csr) := by
  intro w h hw
  cases (h : some _ = some _)
  refine decodeWord_mkWord _ _ _ _ _ (by decide) ?_ hw
  change opt _ _ = _
  simp [need, opt]

theorem csrw (c : Ctl) (d : BitVec 6) (a : BitVec 6) (csr : Csr) :
    Statement (.csrw c d a csr) := by
  intro w h hw
  cases (h : some _ = some _)
  refine decodeWord_mkWord _ _ _ _ _ (by decide) ?_ hw
  change opt _ _ = _
  simp [need, opt]

theorem csrs (c : Ctl) (d : BitVec 6) (a : BitVec 6) (csr : Csr) :
    Statement (.csrs c d a csr) := by
  intro w h hw
  cases (h : some _ = some _)
  refine decodeWord_mkWord _ _ _ _ _ (by decide) ?_ hw
  change opt _ _ = _
  simp [need, opt]

theorem csrc (c : Ctl) (d : BitVec 6) (a : BitVec 6) (csr : Csr) :
    Statement (.csrc c d a csr) := by
  intro w h hw
  cases (h : some _ = some _)
  refine decodeWord_mkWord _ _ _ _ _ (by decide) ?_ hw
  change opt _ _ = _
  simp [need, opt]

theorem eret (c : Ctl) :
    Statement (.eret c) := by
  intro w h hw
  cases (h : some _ = some _)
  refine decodeWord_mkWord _ _ _ _ _ (by decide) ?_ hw
  change (if (asImm (packAS 0 0 0 0)) = 0 then need ((asD (packAS 0 0 0 0)) = 0 && (asA (packAS 0 0 0 0)) = 0 && (asCsr (packAS 0 0 0 0)) = 0) (.eret c) else if (asImm (packAS 0 0 0 0)) = 1 then need ((asD (packAS 0 0 0 0)) = 0 && (asA (packAS 0 0 0 0)) = 0 && (asCsr (packAS 0 0 0 0)) = 0) (.eretImg c) else .error .reservedCode) = _
  simp [need]

theorem eretImg (c : Ctl) :
    Statement (.eretImg c) := by
  intro w h hw
  cases (h : some _ = some _)
  refine decodeWord_mkWord _ _ _ _ _ (by decide) ?_ hw
  change (if (asImm (packAS 0 0 0 1)) = 0 then need ((asD (packAS 0 0 0 1)) = 0 && (asA (packAS 0 0 0 1)) = 0 && (asCsr (packAS 0 0 0 1)) = 0) (.eret c) else if (asImm (packAS 0 0 0 1)) = 1 then need ((asD (packAS 0 0 0 1)) = 0 && (asA (packAS 0 0 0 1)) = 0 && (asCsr (packAS 0 0 0 1)) = 0) (.eretImg c) else .error .reservedCode) = _
  simp [need]

theorem yield (c : Ctl) :
    Statement (.yield c) := by
  intro w h hw
  cases (h : some _ = some _)
  refine decodeWord_mkWord _ _ _ _ _ (by decide) ?_ hw
  change (if (asImm (packAS 0 0 0 0)) = 0 then need ((asD (packAS 0 0 0 0)) = 0 && (asA (packAS 0 0 0 0)) = 0 && (asCsr (packAS 0 0 0 0)) = 0) (.yield c) else if (asImm (packAS 0 0 0 0)) = 1 then need ((asD (packAS 0 0 0 0)) = 0 && (asA (packAS 0 0 0 0)) = 0 && (asCsr (packAS 0 0 0 0)) = 0) (.yieldKill c) else .error .reservedCode) = _
  simp [need]

theorem yieldKill (c : Ctl) :
    Statement (.yieldKill c) := by
  intro w h hw
  cases (h : some _ = some _)
  refine decodeWord_mkWord _ _ _ _ _ (by decide) ?_ hw
  change (if (asImm (packAS 0 0 0 1)) = 0 then need ((asD (packAS 0 0 0 1)) = 0 && (asA (packAS 0 0 0 1)) = 0 && (asCsr (packAS 0 0 0 1)) = 0) (.yield c) else if (asImm (packAS 0 0 0 1)) = 1 then need ((asD (packAS 0 0 0 1)) = 0 && (asA (packAS 0 0 0 1)) = 0 && (asCsr (packAS 0 0 0 1)) = 0) (.yieldKill c) else .error .reservedCode) = _
  simp [need]

theorem psave (c : Ctl) (a : BitVec 6) (n : BitVec 16) :
    Statement (.psave c a n) := by
  intro w h hw
  cases (h : some _ = some _)
  refine decodeWord_mkWord _ _ _ _ _ (by decide) ?_ hw
  change need _ _ = _
  simp [need]

theorem ppull (c : Ctl) (a : BitVec 6) (n : BitVec 16) :
    Statement (.ppull c a n) := by
  intro w h hw
  cases (h : some _ = some _)
  refine decodeWord_mkWord _ _ _ _ _ (by decide) ?_ hw
  change need _ _ = _
  simp [need]

theorem pdrop (c : Ctl) (a : BitVec 6) (n : BitVec 16) :
    Statement (.pdrop c a n) := by
  intro w h hw
  cases (h : some _ = some _)
  refine decodeWord_mkWord _ _ _ _ _ (by decide) ?_ hw
  change need _ _ = _
  simp [need]

theorem pstat (c : Ctl) (d : BitVec 6) (a : BitVec 6) :
    Statement (.pstat c d a) := by
  intro w h hw
  cases (h : some _ = some _)
  refine decodeWord_mkWord _ _ _ _ _ (by decide) ?_ hw
  change need _ _ = _
  simp [need]

theorem clkdiv (c : Ctl) (e : Eng) (n : BitVec 4) :
    Statement (.clkdiv c e n) := by
  intro w h hw
  cases (h : some _ = some _)
  refine decodeWord_mkWord _ _ _ _ _ (by decide) ?_ hw
  change opt _ _ = _
  simp [need, opt]

theorem phase (c : Ctl) :
    Statement (.phase c) := by
  intro w h hw
  cases (h : some _ = some _)
  refine decodeWord_mkWord _ _ _ _ _ (by decide) ?_ hw
  rfl

theorem tlbinv (c : Ctl) (a : BitVec 6) :
    Statement (.tlbinv c a) := by
  intro w h hw
  cases (h : some _ = some _)
  refine decodeWord_mkWord _ _ _ _ _ (by decide) ?_ hw
  change (if (asImm (packAS 0 a 0 0)) = 0 then need ((asD (packAS 0 a 0 0)) = 0 && (asCsr (packAS 0 a 0 0)) = 0) (.tlbinv c (asA (packAS 0 a 0 0))) else if (asImm (packAS 0 a 0 0)) = 1 then need ((asD (packAS 0 a 0 0)) = 0 && (asA (packAS 0 a 0 0)) = 0 && (asCsr (packAS 0 a 0 0)) = 0) (.tlbinvAll c) else .error .reservedCode) = _
  simp [need]

theorem tlbinvAll (c : Ctl) :
    Statement (.tlbinvAll c) := by
  intro w h hw
  cases (h : some _ = some _)
  refine decodeWord_mkWord _ _ _ _ _ (by decide) ?_ hw
  change (if (asImm (packAS 0 0 0 1)) = 0 then need ((asD (packAS 0 0 0 1)) = 0 && (asCsr (packAS 0 0 0 1)) = 0) (.tlbinv c (asA (packAS 0 0 0 1))) else if (asImm (packAS 0 0 0 1)) = 1 then need ((asD (packAS 0 0 0 1)) = 0 && (asA (packAS 0 0 0 1)) = 0 && (asCsr (packAS 0 0 0 1)) = 0) (.tlbinvAll c) else .error .reservedCode) = _
  simp [need]

theorem launch (c : Ctl) (d : BitVec 6) (a : BitVec 6) (q : BitVec 3) :
    Statement (.launch c d a q) := by
  intro w h hw
  cases (h : some _ = some _)
  refine decodeWord_mkWord _ _ _ _ _ (by decide) ?_ hw
  change need _ _ = _
  simp [need]

theorem rdtick (c : Ctl) (d : BitVec 6) :
    Statement (.rdtick c d) := by
  intro w h hw
  cases (h : some _ = some _)
  refine decodeWord_mkWord _ _ _ _ _ (by decide) ?_ hw
  change need _ _ = _
  simp [need]

theorem rdiss (c : Ctl) (d : BitVec 6) :
    Statement (.rdiss c d) := by
  intro w h hw
  cases (h : some _ = some _)
  refine decodeWord_mkWord _ _ _ _ _ (by decide) ?_ hw
  change need _ _ = _
  simp [need]

theorem lsave (c : Ctl) :
    Statement (.lsave c) := by
  intro w h hw
  cases (h : some _ = some _)
  refine decodeWord_mkWord _ _ _ _ _ (by decide) ?_ hw
  rfl

theorem lrest (c : Ctl) :
    Statement (.lrest c) := by
  intro w h hw
  cases (h : some _ = some _)
  refine decodeWord_mkWord _ _ _ _ _ (by decide) ?_ hw
  rfl

theorem nop (st : StreamId) (c : Ctl) :
    Statement (.nop st c) := by
  intro w h hw
  cases (h : some _ = some _)
  refine decodeWord_mkWord _ _ _ _ _ (by decide) ?_ hw
  rfl

theorem join (st : StreamId) (c : Ctl) :
    Statement (.join st c) := by
  intro w h hw
  cases (h : some _ = some _)
  refine decodeWord_mkWord _ _ _ _ _ (by decide) ?_ hw
  rfl

theorem trap (st : StreamId) (c : Ctl) (imm : BitVec 16) :
    Statement (.trap st c imm) := by
  intro w h hw
  cases (h : some _ = some _)
  refine decodeWord_mkWord _ _ _ _ _ (by decide) ?_ hw
  change need _ (Instr.trap st c _) = _
  simp [need]

theorem brk (st : StreamId) (c : Ctl) :
    Statement (.brk st c) := by
  intro w h hw
  cases (h : some _ = some _)
  refine decodeWord_mkWord _ _ _ _ _ (by decide) ?_ hw
  rfl

theorem tfence (st : StreamId) (c : Ctl) :
    Statement (.tfence st c) := by
  intro w h hw
  cases (h : some _ = some _)
  refine decodeWord_mkWord _ _ _ _ _ (by decide) ?_ hw
  rfl

theorem ill (st : StreamId) (rest : BitVec 56) :
    Statement (.ill st rest) := by
  intro w h hw
  cases (h : some _ = some _)
  exact decodeWord_ill st rest

theorem tld (c : Ctl) (t : BitVec 3) (m : BitVec 3) (pitch : BitVec 20) :
    Statement (.tld c t m pitch) := by
  intro w h hw
  cases (h : some _ = some _)
  refine decodeWord_mkWord _ _ _ _ _ (by decide) ?_ hw
  change need _ _ = _
  simp [need]

theorem tldb (c : Ctl) (t : BitVec 3) (m : BitVec 3) (pitch : BitVec 20) :
    Statement (.tldb c t m pitch) := by
  intro w h hw
  cases (h : some _ = some _)
  refine decodeWord_mkWord _ _ _ _ _ (by decide) ?_ hw
  change need _ _ = _
  simp [need]

theorem mma (c : Ctl) (a : BitVec 3) (t1 : BitVec 3) (t2 : BitVec 3) :
    Statement (.mma c a t1 t2) := by
  intro w h hw
  cases (h : some _ = some _)
  refine decodeWord_mkWord _ _ _ _ _ (by decide) ?_ hw
  change need _ _ = _
  simp [need]

theorem rsum (c : Ctl) (w : BitVec 2) (t : BitVec 3) :
    Statement (.rsum c w t) := by
  intro w h hw
  cases (h : some _ = some _)
  refine decodeWord_mkWord _ _ _ _ _ (by decide) ?_ hw
  change need _ _ = _
  simp [need]

theorem csum (c : Ctl) (w : BitVec 2) (t : BitVec 3) :
    Statement (.csum c w t) := by
  intro w h hw
  cases (h : some _ = some _)
  refine decodeWord_mkWord _ _ _ _ _ (by decide) ?_ hw
  change need _ _ = _
  simp [need]

theorem zpc (c : Ctl) (a : BitVec 3) (wr : BitVec 2) (wc : BitVec 2) :
    Statement (.zpc c a wr wc) := by
  intro w h hw
  cases (h : some _ = some _)
  refine decodeWord_mkWord _ _ _ _ _ (by decide) ?_ hw
  change need _ _ = _
  simp [need]

theorem drain (c : Ctl) (a : BitVec 3) (m : BitVec 3) (m2 : BitVec 3) (pitch : BitVec 20) :
    Statement (.drain c a m m2 pitch) := by
  intro w h hw
  cases (h : some _ = some _)
  refine decodeWord_mkWord _ _ _ _ _ (by decide) ?_ hw
  change need _ _ = _
  simp [need]

theorem aclr (c : Ctl) (a : BitVec 3) :
    Statement (.aclr c a) := by
  intro w h hw
  cases (h : some _ = some _)
  refine decodeWord_mkWord _ _ _ _ _ (by decide) ?_ hw
  change need _ _ = _
  simp [need]

theorem amov (c : Ctl) (a : BitVec 3) (b : BitVec 3) :
    Statement (.amov c a b) := by
  intro w h hw
  cases (h : some _ = some _)
  refine decodeWord_mkWord _ _ _ _ _ (by decide) ?_ hw
  change need _ _ = _
  simp [need]

theorem tzero (c : Ctl) (t : BitVec 3) :
    Statement (.tzero c t) := by
  intro w h hw
  cases (h : some _ = some _)
  refine decodeWord_mkWord _ _ _ _ _ (by decide) ?_ hw
  change need _ _ = _
  simp [need]

theorem mli (c : Ctl) (m : BitVec 3) (imm : BitVec 32) :
    Statement (.mli c m imm) := by
  intro w h hw
  cases (h : some _ = some _)
  refine decodeWord_mkWord _ _ _ _ _ (by decide) ?_ hw
  change need _ _ = _
  simp [need]

theorem maddi (c : Ctl) (m : BitVec 3) (imm : BitVec 32) :
    Statement (.maddi c m imm) := by
  intro w h hw
  cases (h : some _ = some _)
  refine decodeWord_mkWord _ _ _ _ _ (by decide) ?_ hw
  change need _ _ = _
  simp [need]

theorem mpop (c : Ctl) (m : BitVec 3) :
    Statement (.mpop c m) := by
  intro w h hw
  cases (h : some _ = some _)
  refine decodeWord_mkWord _ _ _ _ _ (by decide) ?_ hw
  change need _ _ = _
  simp [need]

theorem mloop (c : Ctl) (m : BitVec 3) (off : BitVec 24) :
    Statement (.mloop c m off) := by
  intro w h hw
  cases (h : some _ = some _)
  refine decodeWord_mkWord _ _ _ _ _ (by decide) ?_ hw
  change need _ _ = _
  simp [need]

theorem mbq (c : Ctl) (off : BitVec 24) :
    Statement (.mbq c off) := by
  intro w h hw
  cases (h : some _ = some _)
  refine decodeWord_mkWord _ _ _ _ _ (by decide) ?_ hw
  change need _ _ = _
  simp [need]

theorem mjmp (c : Ctl) (off : BitVec 24) :
    Statement (.mjmp c off) := by
  intro w h hw
  cases (h : some _ = some _)
  refine decodeWord_mkWord _ _ _ _ _ (by decide) ?_ hw
  change need _ _ = _
  simp [need]

theorem msatc (c : Ctl) (m : BitVec 3) :
    Statement (.msatc c m) := by
  intro w h hw
  cases (h : some _ = some _)
  refine decodeWord_mkWord _ _ _ _ _ (by decide) ?_ hw
  change need _ _ = _
  simp [need]

theorem vadd (c : Ctl) (d : VDst) (a : VSrc) (b : VSrc) (k : BitVec 3) (ty : VTy) :
    Statement (.vadd c d a b k ty) := by
  intro w h hw
  cases (h : some _ = some _)
  refine decodeWord_mkWord _ _ _ _ _ (by decide) ?_ hw
  change opt _ _ = _
  simp [need, opt]

theorem vsub (c : Ctl) (d : VDst) (a : VSrc) (b : VSrc) (k : BitVec 3) (ty : VTy) :
    Statement (.vsub c d a b k ty) := by
  intro w h hw
  cases (h : some _ = some _)
  refine decodeWord_mkWord _ _ _ _ _ (by decide) ?_ hw
  change opt _ _ = _
  simp [need, opt]

theorem vmul (c : Ctl) (d : VDst) (a : VSrc) (b : VSrc) (k : BitVec 3) (ty : VTy) :
    Statement (.vmul c d a b k ty) := by
  intro w h hw
  cases (h : some _ = some _)
  refine decodeWord_mkWord _ _ _ _ _ (by decide) ?_ hw
  change opt _ _ = _
  simp [need, opt]

theorem vfma (c : Ctl) (d : VDst) (a : VSrc) (b : VSrc) (x : VSrc) (k : BitVec 3) (ty : VTy) :
    Statement (.vfma c d a b x k ty) := by
  intro w h hw
  cases (h : some _ = some _)
  refine decodeWord_mkWord _ _ _ _ _ (by decide) ?_ hw
  change opt _ _ = _
  simp [need, opt]

theorem vmin (c : Ctl) (d : VDst) (a : VSrc) (b : VSrc) (k : BitVec 3) (ty : VTy) :
    Statement (.vmin c d a b k ty) := by
  intro w h hw
  cases (h : some _ = some _)
  refine decodeWord_mkWord _ _ _ _ _ (by decide) ?_ hw
  change opt _ _ = _
  simp [need, opt]

theorem vmax (c : Ctl) (d : VDst) (a : VSrc) (b : VSrc) (k : BitVec 3) (ty : VTy) :
    Statement (.vmax c d a b k ty) := by
  intro w h hw
  cases (h : some _ = some _)
  refine decodeWord_mkWord _ _ _ _ _ (by decide) ?_ hw
  change opt _ _ = _
  simp [need, opt]

theorem vabs (c : Ctl) (d : VDst) (a : VSrc) (k : BitVec 3) (ty : VTy) :
    Statement (.vabs c d a k ty) := by
  intro w h hw
  cases (h : some _ = some _)
  refine decodeWord_mkWord _ _ _ _ _ (by decide) ?_ hw
  change opt _ _ = _
  simp [need, opt]

theorem vneg (c : Ctl) (d : VDst) (a : VSrc) (k : BitVec 3) (ty : VTy) :
    Statement (.vneg c d a k ty) := by
  intro w h hw
  cases (h : some _ = some _)
  refine decodeWord_mkWord _ _ _ _ _ (by decide) ?_ hw
  change opt _ _ = _
  simp [need, opt]

theorem vdiv (c : Ctl) (d : VDst) (a : VSrc) (b : VSrc) (k : BitVec 3) :
    Statement (.vdiv c d a b k) := by
  intro w h hw
  cases (h : some _ = some _)
  refine decodeWord_mkWord _ _ _ _ _ (by decide) ?_ hw
  change opt _ _ = _
  simp [need, opt]

theorem vsqrt (c : Ctl) (d : VDst) (a : VSrc) (k : BitVec 3) :
    Statement (.vsqrt c d a k) := by
  intro w h hw
  cases (h : some _ = some _)
  refine decodeWord_mkWord _ _ _ _ _ (by decide) ?_ hw
  change opt _ _ = _
  simp [need, opt]

theorem vrsq (c : Ctl) (d : VDst) (a : VSrc) (k : BitVec 3) :
    Statement (.vrsq c d a k) := by
  intro w h hw
  cases (h : some _ = some _)
  refine decodeWord_mkWord _ _ _ _ _ (by decide) ?_ hw
  change opt _ _ = _
  simp [need, opt]

theorem vrcp (c : Ctl) (d : VDst) (a : VSrc) (k : BitVec 3) :
    Statement (.vrcp c d a k) := by
  intro w h hw
  cases (h : some _ = some _)
  refine decodeWord_mkWord _ _ _ _ _ (by decide) ?_ hw
  change opt _ _ = _
  simp [need, opt]

theorem vexp2 (c : Ctl) (d : VDst) (a : VSrc) (k : BitVec 3) :
    Statement (.vexp2 c d a k) := by
  intro w h hw
  cases (h : some _ = some _)
  refine decodeWord_mkWord _ _ _ _ _ (by decide) ?_ hw
  change opt _ _ = _
  simp [need, opt]

theorem vlog2 (c : Ctl) (d : VDst) (a : VSrc) (k : BitVec 3) :
    Statement (.vlog2 c d a k) := by
  intro w h hw
  cases (h : some _ = some _)
  refine decodeWord_mkWord _ _ _ _ _ (by decide) ?_ hw
  change opt _ _ = _
  simp [need, opt]

theorem vexp (c : Ctl) (d : VDst) (a : VSrc) (k : BitVec 3) :
    Statement (.vexp c d a k) := by
  intro w h hw
  cases (h : some _ = some _)
  refine decodeWord_mkWord _ _ _ _ _ (by decide) ?_ hw
  change opt _ _ = _
  simp [need, opt]

theorem vand (c : Ctl) (d : VDst) (a : VSrc) (b : VSrc) (k : BitVec 3) (ty : VTy) :
    Statement (.vand c d a b k ty) := by
  intro w h hw
  cases (h : some _ = some _)
  refine decodeWord_mkWord _ _ _ _ _ (by decide) ?_ hw
  change opt _ _ = _
  simp [need, opt]

theorem vor (c : Ctl) (d : VDst) (a : VSrc) (b : VSrc) (k : BitVec 3) (ty : VTy) :
    Statement (.vor c d a b k ty) := by
  intro w h hw
  cases (h : some _ = some _)
  refine decodeWord_mkWord _ _ _ _ _ (by decide) ?_ hw
  change opt _ _ = _
  simp [need, opt]

theorem vxor (c : Ctl) (d : VDst) (a : VSrc) (b : VSrc) (k : BitVec 3) (ty : VTy) :
    Statement (.vxor c d a b k ty) := by
  intro w h hw
  cases (h : some _ = some _)
  refine decodeWord_mkWord _ _ _ _ _ (by decide) ?_ hw
  change opt _ _ = _
  simp [need, opt]

theorem vshl (c : Ctl) (d : VDst) (a : VSrc) (b : VSrc) (k : BitVec 3) (ty : VTy) :
    Statement (.vshl c d a b k ty) := by
  intro w h hw
  cases (h : some _ = some _)
  refine decodeWord_mkWord _ _ _ _ _ (by decide) ?_ hw
  change opt _ _ = _
  simp [need, opt]

theorem vshr (c : Ctl) (d : VDst) (a : VSrc) (b : VSrc) (k : BitVec 3) (ty : VTy) :
    Statement (.vshr c d a b k ty) := by
  intro w h hw
  cases (h : some _ = some _)
  refine decodeWord_mkWord _ _ _ _ _ (by decide) ?_ hw
  change opt _ _ = _
  simp [need, opt]

theorem vsar (c : Ctl) (d : VDst) (a : VSrc) (b : VSrc) (k : BitVec 3) (ty : VTy) :
    Statement (.vsar c d a b k ty) := by
  intro w h hw
  cases (h : some _ = some _)
  refine decodeWord_mkWord _ _ _ _ _ (by decide) ?_ hw
  change opt _ _ = _
  simp [need, opt]

theorem vcvt (c : Ctl) (d : VDst) (a : VSrc) (x : VSrc) (k : BitVec 3) (ty : VTy) (dt : MemTy) (rm : RmFull) (sat : Bool) :
    Statement (.vcvt c d a x k ty dt rm sat) := by
  intro w h hw
  cases (h : some _ = some _)
  refine decodeWord_mkWord _ _ _ _ _ (by decide) ?_ hw
  change opt _ _ = _
  simp [need, opt]

theorem vcmp (c : Ctl) (cc : Cond) (kd : BitVec 3) (a : VSrc) (b : VSrc) (k : BitVec 3) (ty : VTy) :
    Statement (.vcmp c cc kd a b k ty) := by
  intro w h hw
  cases (h : some _ = some _)
  refine decodeWord_mkWord _ _ _ _ _ (by decide) ?_ hw
  change opt _ _ = _
  simp [need, opt]

theorem vsel (c : Ctl) (d : VDst) (a : VSrc) (b : VSrc) (ks : BitVec 3) (k : BitVec 3) (ty : VTy) :
    Statement (.vsel c d a b ks k ty) := by
  intro w h hw
  cases (h : some _ = some _)
  refine decodeWord_mkWord _ _ _ _ _ (by decide) ?_ hw
  change opt _ _ = _
  simp [need, opt]

theorem vmov (c : Ctl) (d : VDst) (a : VSrc) (k : BitVec 3) (ty : VTy) :
    Statement (.vmov c d a k ty) := by
  intro w h hw
  cases (h : some _ = some _)
  refine decodeWord_mkWord _ _ _ _ _ (by decide) ?_ hw
  change opt _ _ = _
  simp [need, opt]

theorem vbrd (c : Ctl) (d : VDst) (a : VSrc) (lane : BitVec 6) (k : BitVec 3) (ty : VTy) :
    Statement (.vbrd c d a lane k ty) := by
  intro w h hw
  cases (h : some _ = some _)
  refine decodeWord_mkWord _ _ _ _ _ (by decide) ?_ hw
  change opt _ _ = _
  simp [need, opt]

theorem viota (c : Ctl) (d : VDst) (k : BitVec 3) (ty : VTy) :
    Statement (.viota c d k ty) := by
  intro w h hw
  cases (h : some _ = some _)
  refine decodeWord_mkWord _ _ _ _ _ (by decide) ?_ hw
  change opt _ _ = _
  simp [need, opt]

theorem vperm (c : Ctl) (d : VDst) (a : VSrc) (b : VSrc) (k : BitVec 3) (ty : VTy) :
    Statement (.vperm c d a b k ty) := by
  intro w h hw
  cases (h : some _ = some _)
  refine decodeWord_mkWord _ _ _ _ _ (by decide) ?_ hw
  change opt _ _ = _
  simp [need, opt]

theorem vcomp (c : Ctl) (d : VDst) (a : VSrc) (k : BitVec 3) (ty : VTy) :
    Statement (.vcomp c d a k ty) := by
  intro w h hw
  cases (h : some _ = some _)
  refine decodeWord_mkWord _ _ _ _ _ (by decide) ?_ hw
  change opt _ _ = _
  simp [need, opt]

theorem vfirst (c : Ctl) (count : Bool) (d : VDst) (ka : BitVec 3) (k : BitVec 3) (ty : VTy) :
    Statement (.vfirst c count d ka k ty) := by
  intro w h hw
  cases (h : some _ = some _)
  refine decodeWord_mkWord _ _ _ _ _ (by decide) ?_ hw
  change opt _ _ = _
  simp [need, opt]

theorem klog (c : Ctl) (op : LogOp) (kd : BitVec 3) (ka : BitVec 3) (kb : BitVec 3) :
    Statement (.klog c op kd ka kb) := by
  intro w h hw
  cases (h : some _ = some _)
  refine decodeWord_mkWord _ _ _ _ _ (by decide) ?_ hw
  change opt _ _ = _
  simp [need, opt]

theorem vrsum (c : Ctl) (d : VDst) (a : VSrc) (k : BitVec 3) (ty : VTy) :
    Statement (.vrsum c d a k ty) := by
  intro w h hw
  cases (h : some _ = some _)
  refine decodeWord_mkWord _ _ _ _ _ (by decide) ?_ hw
  change opt _ _ = _
  simp [need, opt]

theorem vrmax (c : Ctl) (d : VDst) (a : VSrc) (k : BitVec 3) (ty : VTy) :
    Statement (.vrmax c d a k ty) := by
  intro w h hw
  cases (h : some _ = some _)
  refine decodeWord_mkWord _ _ _ _ _ (by decide) ?_ hw
  change opt _ _ = _
  simp [need, opt]

theorem vrmin (c : Ctl) (d : VDst) (a : VSrc) (k : BitVec 3) (ty : VTy) :
    Statement (.vrmin c d a k ty) := by
  intro w h hw
  cases (h : some _ = some _)
  refine decodeWord_mkWord _ _ _ _ _ (by decide) ?_ hw
  change opt _ _ = _
  simp [need, opt]

theorem vramax (c : Ctl) (d : VDst) (a : VSrc) (k : BitVec 3) (ty : VTy) :
    Statement (.vramax c d a k ty) := by
  intro w h hw
  cases (h : some _ = some _)
  refine decodeWord_mkWord _ _ _ _ _ (by decide) ?_ hw
  change opt _ _ = _
  simp [need, opt]

theorem vscan (c : Ctl) (d : VDst) (a : VSrc) (xc : BitVec 4) (k : BitVec 3) (ty : VTy) :
    Statement (.vscan c d a xc k ty) := by
  intro w h hw
  cases (h : some _ = some _)
  refine decodeWord_mkWord _ _ _ _ _ (by decide) ?_ hw
  change opt _ _ = _
  simp [need, opt]

theorem vscanx (c : Ctl) (d : VDst) (a : VSrc) (xc : BitVec 4) (k : BitVec 3) (ty : VTy) :
    Statement (.vscanx c d a xc k ty) := by
  intro w h hw
  cases (h : some _ = some _)
  refine decodeWord_mkWord _ _ _ _ _ (by decide) ?_ hw
  change opt _ _ = _
  simp [need, opt]

theorem vsort (c : Ctl) (desc : Bool) (d : VDst) (a : VSrc) (k : BitVec 3) (ty : VTy) :
    Statement (.vsort c desc d a k ty) := by
  intro w h hw
  cases (h : some _ = some _)
  refine decodeWord_mkWord _ _ _ _ _ (by decide) ?_ hw
  change opt _ _ = _
  simp [need, opt]

theorem vsortk (c : Ctl) (desc : Bool) (d : BitVec 3) (a : VSrc) (b : VSrc) (k : BitVec 3) (ty : VTy) :
    Statement (.vsortk c desc d a b k ty) := by
  intro w h hw
  cases (h : some _ = some _)
  refine decodeWord_mkWord _ _ _ _ _ (by decide) ?_ hw
  change opt _ _ = _
  simp [need, opt]

theorem vmerge (c : Ctl) (desc : Bool) (d : BitVec 3) (a : VSrc) (b : VSrc) (ty : VTy) :
    Statement (.vmerge c desc d a b ty) := by
  intro w h hw
  cases (h : some _ = some _)
  refine decodeWord_mkWord _ _ _ _ _ (by decide) ?_ hw
  change opt _ _ = _
  simp [need, opt]

theorem vrng (c : Ctl) (d : VDst) (a : VSrc) (b : VSrc) (k : BitVec 3) (ty : VTy) :
    Statement (.vrng c d a b k ty) := by
  intro w h hw
  cases (h : some _ = some _)
  refine decodeWord_mkWord _ _ _ _ _ (by decide) ?_ hw
  change opt _ _ = _
  simp [need, opt]

theorem vld (c : Ctl) (v : BitVec 4) (x : BitVec 4) (et : MemTy) (k : BitVec 3) (imm : BitVec 24) :
    Statement (.vld c v x et k imm) := by
  intro w h hw
  cases (h : some _ = some _)
  refine decodeWord_mkWord _ _ _ _ _ (by decide) ?_ hw
  change opt _ _ = _
  simp [need, opt]

theorem vst (c : Ctl) (v : BitVec 4) (x : BitVec 4) (et : MemTy) (k : BitVec 3) (imm : BitVec 24) :
    Statement (.vst c v x et k imm) := by
  intro w h hw
  cases (h : some _ = some _)
  refine decodeWord_mkWord _ _ _ _ _ (by decide) ?_ hw
  change opt _ _ = _
  simp [need, opt]

theorem vldx (c : Ctl) (v : BitVec 4) (x : BitVec 4) (et : MemTy) (k : BitVec 3) (vi : BitVec 4) :
    Statement (.vldx c v x et k vi) := by
  intro w h hw
  cases (h : some _ = some _)
  refine decodeWord_mkWord _ _ _ _ _ (by decide) ?_ hw
  change opt _ _ = _
  simp [need, opt]

theorem vstx (c : Ctl) (v : BitVec 4) (x : BitVec 4) (et : MemTy) (k : BitVec 3) (vi : BitVec 4) :
    Statement (.vstx c v x et k vi) := by
  intro w h hw
  cases (h : some _ = some _)
  refine decodeWord_mkWord _ _ _ _ _ (by decide) ?_ hw
  change opt _ _ = _
  simp [need, opt]

theorem qst (c : Ctl) (v : BitVec 2) (x : BitVec 4) (xr : BitVec 4) (en : BitVec 4) (wc : Bool) (rm : RmShort) (had : BitVec 2) :
    Statement (.qst c v x xr en wc rm had) := by
  intro w h hw
  cases (h : some _ = some _)
  refine decodeWord_mkWord _ _ _ _ _ (by decide) ?_ hw
  change opt _ _ = _
  simp [need, opt]

theorem qld (c : Ctl) (v : BitVec 2) (x : BitVec 4) (wc : Bool) :
    Statement (.qld c v x wc) := by
  intro w h hw
  cases (h : some _ = some _)
  refine decodeWord_mkWord _ _ _ _ _ (by decide) ?_ hw
  change need _ _ = _
  simp [need]

theorem zbind (c : Ctl) (z : BitVec 3) (imm : BitVec 32) :
    Statement (.zbind c z imm) := by
  intro w h hw
  cases (h : some _ = some _)
  refine decodeWord_mkWord _ _ _ _ _ (by decide) ?_ hw
  change need _ _ = _
  simp [need]

theorem zrst (c : Ctl) (z : BitVec 3) :
    Statement (.zrst c z) := by
  intro w h hw
  cases (h : some _ = some _)
  refine decodeWord_mkWord _ _ _ _ _ (by decide) ?_ hw
  change need _ _ = _
  simp [need]

theorem xli (c : Ctl) (d : BitVec 4) (imm : BitVec 32) :
    Statement (.xli c d imm) := by
  intro w h hw
  cases (h : some _ = some _)
  refine decodeWord_mkWord _ _ _ _ _ (by decide) ?_ hw
  change need _ _ = _
  simp [need]

theorem xadd (c : Ctl) (d : BitVec 4) (a : BitVec 4) (b : BitVec 4) :
    Statement (.xadd c d a b) := by
  intro w h hw
  cases (h : some _ = some _)
  refine decodeWord_mkWord _ _ _ _ _ (by decide) ?_ hw
  change need _ _ = _
  simp [need]

theorem xaddi (c : Ctl) (d : BitVec 4) (a : BitVec 4) (imm : BitVec 32) :
    Statement (.xaddi c d a imm) := by
  intro w h hw
  cases (h : some _ = some _)
  refine decodeWord_mkWord _ _ _ _ _ (by decide) ?_ hw
  change Except.ok (_ : Instr) = _
  simp

theorem xmul (c : Ctl) (d : BitVec 4) (a : BitVec 4) (b : BitVec 4) :
    Statement (.xmul c d a b) := by
  intro w h hw
  cases (h : some _ = some _)
  refine decodeWord_mkWord _ _ _ _ _ (by decide) ?_ hw
  change need _ _ = _
  simp [need]

theorem xpop (c : Ctl) (d : BitVec 4) :
    Statement (.xpop c d) := by
  intro w h hw
  cases (h : some _ = some _)
  refine decodeWord_mkWord _ _ _ _ _ (by decide) ?_ hw
  change need _ _ = _
  simp [need]

theorem xpush (c : Ctl) (a : BitVec 4) :
    Statement (.xpush c a) := by
  intro w h hw
  cases (h : some _ = some _)
  refine decodeWord_mkWord _ _ _ _ _ (by decide) ?_ hw
  change need _ _ = _
  simp [need]

theorem xget (c : Ctl) (d : BitVec 4) (v : BitVec 4) (lane : BitVec 6) :
    Statement (.xget c d v lane) := by
  intro w h hw
  cases (h : some _ = some _)
  refine decodeWord_mkWord _ _ _ _ _ (by decide) ?_ hw
  change need _ _ = _
  simp [need]

theorem xfadd (c : Ctl) (d : BitVec 4) (a : BitVec 4) (b : BitVec 4) :
    Statement (.xfadd c d a b) := by
  intro w h hw
  cases (h : some _ = some _)
  refine decodeWord_mkWord _ _ _ _ _ (by decide) ?_ hw
  change need _ _ = _
  simp [need]

theorem xfmul (c : Ctl) (d : BitVec 4) (a : BitVec 4) (b : BitVec 4) :
    Statement (.xfmul c d a b) := by
  intro w h hw
  cases (h : some _ = some _)
  refine decodeWord_mkWord _ _ _ _ _ (by decide) ?_ hw
  change need _ _ = _
  simp [need]

theorem vloop (c : Ctl) (a : BitVec 4) (off : BitVec 24) :
    Statement (.vloop c a off) := by
  intro w h hw
  cases (h : some _ = some _)
  refine decodeWord_mkWord _ _ _ _ _ (by decide) ?_ hw
  change need _ _ = _
  simp [need]

theorem vbq (c : Ctl) (off : BitVec 24) :
    Statement (.vbq c off) := by
  intro w h hw
  cases (h : some _ = some _)
  refine decodeWord_mkWord _ _ _ _ _ (by decide) ?_ hw
  change need _ _ = _
  simp [need]

theorem vbr (c : Ctl) (cc : Cond) (a : BitVec 4) (b : BitVec 4) (off : BitVec 24) :
    Statement (.vbr c cc a b off) := by
  intro w h hw
  cases (h : some _ = some _)
  refine decodeWord_mkWord _ _ _ _ _ (by decide) ?_ hw
  change opt _ _ = _
  simp [need, opt]

theorem vjmp (c : Ctl) (off : BitVec 24) :
    Statement (.vjmp c off) := by
  intro w h hw
  cases (h : some _ = some _)
  refine decodeWord_mkWord _ _ _ _ _ (by decide) ?_ hw
  change need _ _ = _
  simp [need]

theorem vbrf (c : Ctl) (ne : Bool) (k : BitVec 3) (off : BitVec 24) :
    Statement (.vbrf c ne k off) := by
  intro w h hw
  cases (h : some _ = some _)
  refine decodeWord_mkWord _ _ _ _ _ (by decide) ?_ hw
  change need _ _ = _
  simp [need]

theorem fetch (st : StreamId) :
    Statement (.fetch st) := by
  intro w h
  cases (h : none = some w)

theorem land :
    Statement (.land) := by
  intro w h
  cases (h : none = some w)

theorem start (core : Nat) :
    Statement (.start core) := by
  intro w h
  cases (h : none = some w)

theorem read (core : Nat) (id : Nat) (space : Nat) (grain : Nat) (tr : Nat) :
    Statement (.read core id space grain tr) := by
  intro w h
  cases (h : none = some w)

theorem merge (core : Nat) (id : Nat) (grain : Nat) (tr : Nat) :
    Statement (.merge core id grain tr) := by
  intro w h
  cases (h : none = some w)

theorem write (core : Nat) (nth : Nat) :
    Statement (.write core nth) := by
  intro w h
  cases (h : none = some w)

theorem atomic (core : Nat) (id : Nat) (grain : Nat) (tr : Nat) :
    Statement (.atomic core id grain tr) := by
  intro w h
  cases (h : none = some w)

theorem deliver (core : Nat) (id : Nat) (grain : Nat) :
    Statement (.deliver core id grain) := by
  intro w h
  cases (h : none = some w)

theorem complete (core : Nat) (group : Nat) :
    Statement (.complete core group) := by
  intro w h
  cases (h : none = some w)

theorem rfHook (core : Nat) (id : Nat) :
    Statement (.rfHook core id) := by
  intro w h
  cases (h : none = some w)

theorem baHook (core : Nat) (id : Nat) :
    Statement (.baHook core id) := by
  intro w h
  cases (h : none = some w)

theorem remoteAtom (core : Nat) (nth : Nat) :
    Statement (.remoteAtom core nth) := by
  intro w h
  cases (h : none = some w)

theorem remoteAtomReply (core : Nat) (nth : Nat) :
    Statement (.remoteAtomReply core nth) := by
  intro w h
  cases (h : none = some w)

theorem timedDeadline :
    Statement (.timedDeadline) := by
  intro w h
  cases (h : none = some w)

theorem transmit :
    Statement (.transmit) := by
  intro w h
  cases (h : none = some w)

theorem ergPut (station : Nat) :
    Statement (.ergPut station) := by
  intro w h
  cases (h : none = some w)

theorem ergAdd (station : Nat) :
    Statement (.ergAdd station) := by
  intro w h
  cases (h : none = some w)

theorem ergBar (station : Nat) :
    Statement (.ergBar station) := by
  intro w h
  cases (h : none = some w)

theorem shootdown (station : Nat) :
    Statement (.shootdown station) := by
  intro w h
  cases (h : none = some w)

theorem clock (station : Nat) :
    Statement (.clock station) := by
  intro w h
  cases (h : none = some w)

theorem preempt (station : Nat) :
    Statement (.preempt station) := by
  intro w h
  cases (h : none = some w)

theorem config (station : Nat) :
    Statement (.config station) := by
  intro w h
  cases (h : none = some w)

theorem jobend (station : Nat) :
    Statement (.jobend station) := by
  intro w h
  cases (h : none = some w)

theorem barrierWaitEnd :
    Statement (.barrierWaitEnd) := by
  intro w h
  cases (h : none = some w)

theorem replicaRepair (station : Nat) :
    Statement (.replicaRepair station) := by
  intro w h
  cases (h : none = some w)

theorem round :
    Statement (.round) := by
  intro w h
  cases (h : none = some w)

theorem jobStart (core : Nat) :
    Statement (.jobStart core) := by
  intro w h
  cases (h : none = some w)

theorem jobResume (core : Nat) :
    Statement (.jobResume core) := by
  intro w h
  cases (h : none = some w)

theorem sliceExpiry :
    Statement (.sliceExpiry) := by
  intro w h
  cases (h : none = some w)

theorem watchdog :
    Statement (.watchdog) := by
  intro w h
  cases (h : none = some w)

theorem trapDelivery :
    Statement (.trapDelivery) := by
  intro w h
  cases (h : none = some w)

theorem softError (core : Nat) (place : SoftWhere) :
    Statement (.softError core place) := by
  intro w h
  cases (h : none = some w)

theorem memorySoftError (grain : Nat) :
    Statement (.memorySoftError grain) := by
  intro w h
  cases (h : none = some w)

theorem pull (nth : Nat) :
    Statement (.pull nth) := by
  intro w h
  cases (h : none = some w)

theorem tricklePull :
    Statement (.tricklePull) := by
  intro w h
  cases (h : none = some w)

theorem blockDrain (core : Nat) (nth : Nat) (fails : Bool) :
    Statement (.blockDrain core nth fails) := by
  intro w h
  cases (h : none = some w)

theorem hostTailWrite (fn : Nat) (q : Nat) (tail : W32) :
    Statement (.hostTailWrite fn q tail) := by
  intro w h
  cases (h : none = some w)

theorem queueEnable (fn : Nat) (q : Nat) (ctl : W32) :
    Statement (.queueEnable fn q ctl) := by
  intro w h
  cases (h : none = some w)

theorem doorbell (fn : Nat) :
    Statement (.doorbell fn) := by
  intro w h
  cases (h : none = some w)

theorem eventRingEnable (fn : Nat) (ctl : W32) :
    Statement (.eventRingEnable fn ctl) := by
  intro w h
  cases (h : none = some w)

theorem tenantCreate (t : Nat) :
    Statement (.tenantCreate t) := by
  intro w h
  cases (h : none = some w)

theorem tenantDisable (t : Nat) :
    Statement (.tenantDisable t) := by
  intro w h
  cases (h : none = some w)

theorem apertureRead (fn : Nat) (off : Nat) (n : Nat) :
    Statement (.apertureRead fn off n) := by
  intro w h
  cases (h : none = some w)

theorem apertureWrite (fn : Nat) (off : Nat) (bytes : List Byte) :
    Statement (.apertureWrite fn off bytes) := by
  intro w h
  cases (h : none = some w)

theorem checkpointFull :
    Statement (.checkpointFull) := by
  intro w h
  cases (h : none = some w)

theorem checkpointIncremental :
    Statement (.checkpointIncremental) := by
  intro w h
  cases (h : none = some w)

theorem checkpointEnd (status : Nat) :
    Statement (.checkpointEnd status) := by
  intro w h
  cases (h : none = some w)

theorem registerWrite (fn : Nat) (off : Nat) (size : Nat) (value : W64) :
    Statement (.registerWrite fn off size value) := by
  intro w h
  cases (h : none = some w)

theorem powerSample (draw : Nat) (idle : Nat) (inlet : Nat) (tdraw : List Nat) :
    Statement (.powerSample draw idle inlet tdraw) := by
  intro w h
  cases (h : none = some w)

theorem throttlePeriod (cluster : Nat) :
    Statement (.throttlePeriod cluster) := by
  intro w h
  cases (h : none = some w)

theorem clockHoldEnd (cluster : Nat) :
    Statement (.clockHoldEnd cluster) := by
  intro w h
  cases (h : none = some w)

theorem phaseTimeout (cluster : Nat) :
    Statement (.phaseTimeout cluster) := by
  intro w h
  cases (h : none = some w)

theorem thermalTrip (cluster : Nat) :
    Statement (.thermalTrip cluster) := by
  intro w h
  cases (h : none = some w)

theorem park (w : ParkWhat) :
    Statement (.park w) := by
  intro w h
  cases (h : none = some w)

theorem unpark (cluster : Nat) :
    Statement (.unpark cluster) := by
  intro w h
  cases (h : none = some w)

theorem flitReceive (link : Nat) (tagOk : Bool) :
    Statement (.flitReceive link tagOk) := by
  intro w h
  cases (h : none = some w)

theorem keyFlit (link : Nat) (effect : Bool) :
    Statement (.keyFlit link effect) := by
  intro w h
  cases (h : none = some w)

theorem keyHold (link : Nat) :
    Statement (.keyHold link) := by
  intro w h
  cases (h : none = some w)

theorem linkDown (link : Nat) :
    Statement (.linkDown link) := by
  intro w h
  cases (h : none = some w)

theorem reset :
    Statement (.reset) := by
  intro w h
  cases (h : none = some w)

theorem firmwareVerify (readable : Bool) :
    Statement (.firmwareVerify readable) := by
  intro w h
  cases (h : none = some w)

theorem hbmTraining (bad : Option (BitVec 3)) :
    Statement (.hbmTraining bad) := by
  intro w h
  cases (h : none = some w)

theorem linkTraining (hopns : List Nat) :
    Statement (.linkTraining hopns) := by
  intro w h
  cases (h : none = some w)

theorem ergCalibration (bad : Option (BitVec 4)) :
    Statement (.ergCalibration bad) := by
  intro w h
  cases (h : none = some w)

theorem capabilityPublish :
    Statement (.capabilityPublish) := by
  intro w h
  cases (h : none = some w)

theorem routineImageCheck (t : Nat) :
    Statement (.routineImageCheck t) := by
  intro w h
  cases (h : none = some w)

theorem getMeasurements (fn : Nat) :
    Statement (.getMeasurements fn) := by
  intro w h
  cases (h : none = some w)

theorem referenceTick :
    Statement (.referenceTick) := by
  intro w h
  cases (h : none = some w)

theorem replicaSoftError (station : Nat) (tenant : Nat) (word : Nat) :
    Statement (.replicaSoftError station tenant word) := by
  intro w h
  cases (h : none = some w)

theorem thermalTripRelease (cluster : Nat) :
    Statement (.thermalTripRelease cluster) := by
  intro w h
  cases (h : none = some w)

theorem flowRestored :
    Statement (.flowRestored) := by
  intro w h
  cases (h : none = some w)

theorem keylow (link : Nat) :
    Statement (.keylow link) := by
  intro w h
  cases (h : none = some w)

theorem spdmKeyExchange (fn : Nat) (key : BitVec 256) :
    Statement (.spdmKeyExchange fn key) := by
  intro w h
  cases (h : none = some w)

theorem apertureAtomic (fn : Nat) (off : Nat) (op : AtomOp) (w64 : Bool) (b : W64) (cmp : W64) :
    Statement (.apertureAtomic fn off op w64 b cmp) := by
  intro w h
  cases (h : none = some w)

theorem launchSlotWrite (fn : Nat) (q : Nat) :
    Statement (.launchSlotWrite fn q) := by
  intro w h
  cases (h : none = some w)

theorem hostWriteOneToClear (fn : Nat) (off : Nat) (value : W64) :
    Statement (.hostWriteOneToClear fn off value) := by
  intro w h
  cases (h : none = some w)

end Sys2Proof.Laws.RoundTrip
end

