-- ==== Sys2Proof/Laws/Words.lean ====
section
/-! SUPPORT. What the words of each shared shape do when nothing holds them back (02 R20, R21, R37). -/

namespace Sys2Proof.Machine

/-- A plan under `Core.clear` that asks nothing further answers as any plan with the same results. -/
theorem issue_goes {p q : Plan} {s : State} (h : s.core.clear p.ctl) (h1 : p.decode = none) (h2 : p.preWait = none)
    (h3 : p.wait = false) (h4 : p.fault = none) (h5 : p.mid = none) (h6 : p.late = none)
    (hq : s.core.issued p = s.core.issued q) : issue p s = s.goes q := by
  rw [issue_clear h h1 h2 h3 h4 h5 h6]
  simp [State.goes, State.onCore, hq]

/-- The same for a word with a further effect on its own core. -/
theorem issue_goesWith {p q : Plan} {s : State} {f g : Core → Core} (h : s.core.clear p.ctl) (h1 : p.decode = none)
    (h2 : p.preWait = none) (h3 : p.wait = false) (h4 : p.fault = none) (h5 : p.mid = none) (h6 : p.late = none)
    (hq : s.core.issued p = s.core.issued q) (hf : f (s.core.issued q) = g (s.core.issued q)) :
    issue p s (fun s => s.onCore f) = s.goesWith q g := by
  rw [issue_clear h h1 h2 h3 h4 h5 h6]
  simp [State.goesWith, State.onCore, hq, hf]

theorem aluWord_clear {c : Ctl} {s : State} (h : s.core.clear c) (d a b : BitVec 6) (l : Nat) (f : W64 → W64 → W64) :
    aluWord c d a b l f s = s.yields c d l (f (s.core.sreg a) (s.core.sreg b)) :=
  issue_clear h rfl rfl rfl rfl rfl rfl _

theorem immWord_clear {c : Ctl} {s : State} (h : s.core.clear c) (d a : BitVec 6) (l : Nat) (f : W64 → W64) :
    immWord c d a l f s = s.yields c d l (f (s.core.sreg a)) :=
  issue_clear h rfl rfl rfl rfl rfl rfl _

theorem handleWord_clear {c : Ctl} {s : State} (h : s.core.clear c) (hh : BitVec 4) (regs : Ranges) (v : BitVec 256) :
    handleWord c hh regs v s = s.goes (.of .a c (s.core.latA 1) [.handle hh.toNat v]) :=
  issue_goes h rfl rfl rfl rfl rfl rfl rfl

theorem loadWord_clear {c : Ctl} {s : State} (h : s.core.clear c) (d a : BitVec 6) (imm : BitVec 28) (n : Nat)
    (ext : Nat → W64) (hf : s.core.accessFault (s.core.ea a imm) n false = none) :
    loadWord c d a imm n ext s =
      s.yields c d (6 + lentTicks (s.core.ea a imm)) (ext (s.getLe (s.core.ea a imm) n)) := by
  refine issue_goes h rfl rfl rfl hf rfl rfl ?_
  simp only [hf]
  rfl

theorem storeWord_clear {c : Ctl} {s : State} (h : s.core.clear c) (d a : BitVec 6) (imm : BitVec 28) (n : Nat)
    (hf : s.core.accessFault (s.core.ea a imm) n true = none) :
    storeWord c d a imm n s = s.goes (.of .a c (s.core.latA (4 + lentTicks (s.core.ea a imm)))
      (if zAddr (s.core.ea a imm) then [] else
        [.write (s.core.ea a imm) 1 0 (leBytes n (s.core.sreg d).toNat)])) := by
  exact issue_goes h rfl rfl rfl hf rfl rfl rfl

end Sys2Proof.Machine
end

