-- ==== Sys2Proof/Laws/Vector.lean ====
section
/-! SUPPORT. What a VR word does when nothing holds it back (06 R136, R137, R157; 02 R53). -/

namespace Sys2Proof.Machine

/-- The fault of a destination does not depend on the results. -/
theorem writeDst_fault (c : Core) (z : Vector (BitVec 512) 8) (d : VDst) (m : W64) (l l' : List W32) :
    (writeDst c z d m l).fault = (writeDst c z d m l').fault := by
  cases d <;> rfl

theorem vset_vget {α : Type} {n : Nat} (v : Vector α n) (i : Nat) (d : α) : vset v i (vget v i d) = v := by
  unfold vset vget
  split <;> simp

/-- The namings of z and DV of a VR word, at once. -/
theorem setZ_popDv (z : Vector (BitVec 512) 8) (n : Nat) (s : State) :
    setZ z (popDv n s) = s.onCore fun c =>
      { c with r := { c.r with z := z }, q := { c.q with dq := vset c.q.dq 2 ((vget c.q.dq 2 []).drop n) } } := by
  cases n with
  | zero => simp [setZ, popDv, State.onCore, vset_vget]
  | succ n => rfl

/-- A VR word whose lanes have the results and flags of `f`. -/
theorem vrWord_clear {ctl : Ctl} {s : State} (h : s.core.clear ctl) (d : VDst) (xs : List VSrc) (k : BitVec 3)
    (mask : Core → W64) (l : Nat) (g : Core → List (List W32) → List W32 × List FpFlags) (f : Nat → W32 × FpFlags)
    (more : List LAct) (regs : Ranges) (hr : s.vrReady d xs (mask s.core))
    (hv : (g s.core (readSrcs s xs).vals).1 = (List.range 64).map fun i => (f i).1)
    (hf : ∀ i < 64, (g s.core (readSrcs s xs).vals).2.getD i 0 = (f i).2) :
    vrWord ctl d xs k mask l g s more regs = s.vrGoes ctl d xs (mask s.core) l f more := by
  obtain ⟨h1, h2, h3⟩ := hr
  have hl : ((List.range 64).filter (maskBit (mask s.core))).map (fun l => (g s.core (readSrcs s xs).vals).2.getD l 0) =
      ((List.range 64).filter fun i => (mask s.core).getLsbD i).map fun i => (f i).2 := by
    refine List.map_congr_left fun i hi => hf i ?_
    exact List.mem_range.mp (List.mem_filter.mp hi).1
  unfold vrWord State.vrGoes
  simp only [hv, hl, setZ_popDv]
  refine issue_goesWith h rfl rfl ?_ ?_ rfl rfl ?_ rfl
  · simpa using h1
  · show (readSrcs s xs).fault.or _ = none
    rw [h2, Option.none_or, writeDst_fault _ _ _ _ _ []]
    exact h3
  · refine Core.issued_congr rfl rfl rfl rfl ?_ rfl rfl rfl rfl rfl
    rfl

/-- A lane function of up to three operands. -/
theorem lanewise_vals (f : W32 → W32 → W32 → W32 × FpFlags) (c : Core) (vs : List (List W32)) :
    (lanewise f c vs).1 = (List.range 64).map fun l =>
      (f ((srcOf vs 0).getD l 0) ((srcOf vs 1).getD l 0) ((srcOf vs 2).getD l 0)).1 := by
  simp [lanewise]

theorem lanewise_flags (f : W32 → W32 → W32 → W32 × FpFlags) (c : Core) (vs : List (List W32)) {i : Nat} (h : i < 64) :
    (lanewise f c vs).2.getD i 0 = (f ((srcOf vs 0).getD i 0) ((srcOf vs 1).getD i 0) ((srcOf vs 2).getD i 0)).2 := by
  simp [lanewise, List.getD, h]

/-- A word that computes lane by lane. -/
theorem lanewise_clear {ctl : Ctl} {s : State} (h : s.core.clear ctl) (d : VDst) (xs : List VSrc) (k : BitVec 3)
    (mask : Core → W64) (l : Nat) (f : W32 → W32 → W32 → W32 × FpFlags) (hr : s.vrReady d xs (mask s.core)) :
    vrWord ctl d xs k mask l (lanewise f) s = s.vrGoes ctl d xs (mask s.core) l fun i =>
      f ((readSrcs s xs).lane 0 i) ((readSrcs s xs).lane 1 i) ((readSrcs s xs).lane 2 i) :=
  vrWord_clear h d xs k mask l (lanewise f) _ [] [] hr (lanewise_vals f _ _) fun _ hi => lanewise_flags f _ _ hi

end Sys2Proof.Machine
end

