-- ==== Sys2Proof/Tests/Slice0.lean ====
section
/-! SUPPORT. Tests: ill-formed words are refused; words of the specification decode to the instructions their text
names; small steps with results computed by hand from the rules; for every statement that has premises, a state and
operands that meet them. -/

namespace Sys2Proof.Tests

-- one theorem after the other: each waits for the kernel's check of those before it, and many at a time fill the memory
set_option Elab.async false

open Sys2Proof.Machine

def k0 : Ctl := ⟨0, 0, 0, 0⟩

/-- The machine after reset, its selected core changed. -/
def on (f : Core → Core) : State := State.reset.onCore f

def withS (n : Nat) (x : W64) (c : Core) : Core := { c with r := { c.r with s := vset c.r.s n x } }
def withX (n : Nat) (x : W64) (c : Core) : Core := { c with r := { c.r with x := vset c.r.x n x } }
def withH (n : Nat) (x : BitVec 256) (c : Core) : Core := { c with r := { c.r with h := vset c.r.h n x } }
def withQ (q : DqId) (l : List QEnt) (c : Core) : Core := { c with q := { c.q with dq := vset c.q.dq q.no l } }
def withRes (q : DqId) (n : Nat) (c : Core) : Core := { c with q := { c.q with dres := vset c.q.dres q.no n } }
def withMem (m : Mem) (c : Core) : Core := { c with r := { c.r with sram := m } }
def hotter (c : Core) : Core := c.setCsr .cls 2
def super (c : Core) : Core := c.setCsr .status 1
def ent (x : W64) : QEnt := { val := x, status := 0, faddr := 0 }

/-- The selected core after a step that answers a next state. -/
def after (o : Out) : Core := match o with
  | .next s => s.core
  | _ => Core.reset

/-! ## Ill-formed words -/

theorem test_refuse_badCount : wfError (.add ⟨0, 1, 0, 0⟩ 1 2 3) = some .badCount := by decide
theorem test_refuse_badFifo : wfError (.add ⟨1, 0, 0, 0⟩ 1 2 3) = some .badFifo := by decide
theorem test_refuse_fields : wfError (.loop k0 0 4) ≠ none ∧ wfError (.cmp k0 .al 1 2 0) ≠ none ∧
    wfError (.push k0 1 .ya) ≠ none ∧ wfError (.pop k0 1 .dm) ≠ none ∧ wfError (.atom k0 .fadd true 1 2 0) ≠ none ∧
    wfError (.atom k0 .add true 1 2 3) ≠ none ∧ wfError (.copy k0 1 2 61 0 0 0 0) ≠ none ∧
    wfError (.cwait k0 17) ≠ none ∧ wfError (.cclose k0 1) ≠ none := by decide
theorem test_refuse_unassigned : decodeWord .a 0x0000FE0000000000 = .error .unassigned := by decide
theorem test_refuse_unusedField : decodeWord .a 0x0000000C10800001 = .error .unusedField := by decide
theorem test_refuse_count : decodeWord .a 0x0100000C10800000 = .error .badCount := by decide
theorem test_refuse_fifo : decodeWord .m 0x3000104000001000 = .error .badFifo := by decide

/-! ## Words of the specification -/

theorem test_decode_alu : decodeWord .a 0x0000181020C30000 = .ok (.addx k0 4 2 3 3) ∧
    decodeWord .a 0x0000282489ABCDEF = .ok (.li k0 9 0x089ABCDEF) ∧
    decodeWord .a 0x0000292401234567 = .ok (.lih k0 9 0x01234567) := by decide
theorem test_decode_predicates : decodeWord .a 0x00002D0475000064 = .ok (.cmpi k0 .geu 1 7 100) ∧
    decodeWord .a 0x0000310C01000004 = .ok (.bp k0 true 3 4) := by decide
theorem test_decode_handles_memory : decodeWord .a 0x00003D3318001000 = .ok (.hadv k0 3 3 6 1) ∧
    decodeWord .a 0x0000481C2FFFFFFE = .ok (.st16 k0 7 2 (-2)) := by decide
theorem test_decode_queues : decodeWord .a 0x0000500090020000 = .ok (.push k0 9 .dv) ∧
    decodeWord .a 0x0000610030020000 = .ok (.bexp k0 3 2) := by decide
theorem test_decode_copies : decodeWord .a 0x000071623035C100 = .ok (.cred k0 6 2 12 0x0D 7 1 0) ∧
    decodeWord .a 0x0000720020C45009 = .ok (.catom k0 .cas false false 5 2 3 4) ∧
    decodeWord .a 0x0000730000024000 = .ok (.cclose k0 9) ∧ decodeWord .a 0x0000740000000002 = .ok (.cwait k0 2) ∧
    decodeWord .a 0x0000750090000003 = .ok (.xcfg k0 3 9) := by decide
theorem test_decode_erg : decodeWord .a 0x00007B0003000005 = .ok (.obbar k0 0 12 5) := by decide
theorem test_decode_system : decodeWord .a 0x0000801400600000 = .ok (.csrr k0 5 .tick) ∧
    decodeWord .a 0x0000840000000001 = .ok (.eretImg k0) ∧ decodeWord .a 0x0000860380000100 = .ok (.psave k0 56 256) ∧
    decodeWord .a 0x00008A0000000024 = .ok (.clkdiv k0 .v 4) ∧ decodeWord .a 0x00008D1090000002 = .ok (.launch k0 4 9 2) ∧
    decodeWord .a 0x0000F40000000000 = .ok (.tfence .a k0) := by decide
theorem test_decode_matrix : decodeWord .m 0x1000000010000104 = .ok (.tld ⟨1, 0, 0, 0⟩ 0 1 260) ∧
    decodeWord .m 0x1040022080000000 = .ok (.mma ⟨1, 0, 4, 0⟩ 1 0 1) ∧ decodeWord .m 0x0000050000000004 = .ok (.zpc k0 0 0 1) ∧
    decodeWord .m 0x000013A000FFFFFD = .ok (.mloop k0 5 (-3)) := by decide
theorem test_decode_vector : decodeWord .v 0x0000031E03800000 = .ok (.vfma k0 (.v 3) .dv (.v 1) .dv 0 .f) ∧
    decodeWord .v 0x000029218E000000 = .ok (.vsortk k0 false 2 (.v 6) (.v 7) 0 .f) ∧
    decodeWord .v 0x0000348340380000 = .ok (.qst k0 2 3 4 3 true .rne 0) ∧
    decodeWord .v 0x0000465900000011 = .ok (.xget k0 5 9 17) := by decide

/-! ## Small steps

Results by hand from the rules cited. -/

/-- The scalar that the youngest result in flight writes. -/
def landing (o : Out) : Option (Nat × W64) := match (after o).land with
  | [{ acts := [.scalar n x], .. }] => some (n, x)
  | _ => none

def two (x y : W64) : State := on (withS 2 y ∘ withS 1 x)

/-- R87, R89: the corners of the arithmetic. -/
theorem test_div_corners : landing (exec (.div k0 3 1 2) (two (BitVec.ofInt 64 (-2 ^ 63)) (-1))) = some (3, BitVec.ofInt 64 (-2 ^ 63)) ∧
    landing (exec (.rem k0 3 1 2) (two (-7) 2)) = some (3, -1) := by decide
theorem test_divu_by_zero : landing (exec (.divu k0 3 1 2) (two 5 0)) = some (3, 0xFFFFFFFFFFFFFFFF) ∧
    landing (exec (.remu k0 3 1 2) (two 5 0)) = some (3, 5) := by decide
theorem test_mulhs : landing (exec (.mulhs k0 3 1 2) (two (-1) 2)) = some (3, 0xFFFFFFFFFFFFFFFF) := by decide
theorem test_mulhu : landing (exec (.mulhu k0 3 1 2) (two (-1) 2)) = some (3, 1) := by decide
theorem test_sar_counts_modulo_64 : landing (exec (.sar k0 3 1 2) (two 0x8000000000000000 65)) = some (3, 0xC000000000000000) := by decide
theorem test_clz_zero : landing (exec (.clz k0 3 1) (two 0 0)) = some (3, 64) := by decide
theorem test_clamp : landing (exec (.clamp k0 3 1 2) (two 9 5)) = some (3, 4) ∧
    landing (exec (.clamp k0 3 1 2) (two 9 0)) = some (3, 0) := by decide
theorem test_lih_keeps_the_low_half : landing (exec (.lih k0 1 0x01234567) (two 0xFFFFFFFF89ABCDEF 0)) = some (1, 0x0123456789ABCDEF) := by
  decide

/-- R97: a relative target wraps modulo the window's size. -/
theorem test_branch_wraps : (after (exec (.jmp k0 (-3)) (on fun c => c.setCsr .codea 0x0000001000000000))).sa.pc = 13 := by decide

/-- R51, R88: the result of ADD lands one tick after issue, that of MUL three. -/
theorem test_latencies : ((after (exec (.add k0 3 1 2) (two 1 2))).land.map (·.rem)) = [1] ∧
    ((after (exec (.mul k0 3 1 2) (two 1 2))).land.map (·.rem)) = [3] := by decide

/-- R80: s0 discards what is written, and its result still lands; a jump has none. -/
theorem test_s0_discards : (after (exec (.div k0 0 1 2) (two 1 2))).land.map (fun e => (e.rem, e.acts)) = [(20, [.discard])] ∧
    (after (exec (.add k0 0 1 2) (two 1 2))).land.map (fun e => (e.rem, e.acts)) = [(1, [.discard])] ∧
    (after (exec (.jmp k0 3) (on fun c => c.setCsr .codea 0x0000001000000000))).land = [] := by decide

/-- R57: the sum of 1 and 1 is 2; 1 over 3 rounds to 3EAAAAAB and is inexact. -/
theorem test_float : (fadd 0x3F800000 0x3F800000).1 = 0x40000000 ∧ (fdiv 0x3F800000 0x40400000).1 = 0x3EAAAAAB := by decide

/-- R331, R334: BRK traps after its issue, with cause 0x13, to TRAPVEC. -/
theorem test_brk_notes_its_cause : ((after (exec (.brk .a k0) State.reset)).t.stops.map fun x => (x.kind, x.code)) =
    [(.after, 0x13)] := by decide

/-- R37: a supervisor word in user mode notes PRIVILEGED before issue and its counter stays. -/
theorem test_privileged : ((after (exec (.eret k0) State.reset)).t.stops.map fun x => (x.kind, x.code)) = [(.before, 0x02)] ∧
    (after (exec (.eret k0) State.reset)).sa.pc = State.reset.core.sa.pc := by decide

/-- A program word placed by hand is decoded and issued by the next step. -/
theorem test_step_runs_the_word_placed :
    landing (step (State.reset.withFetchWord 64 0x0000200410000005)) = some (1, 5) := by decide

/-! ## Premises of the statements about words

For each statement, states and operands at the bounds of its clauses. -/

/-- A wait for one token and a signal of sixteen, in FIFOs that hold exactly these. -/
def tight : State := on fun c => { c with q := { c.q with
  fifo := vset (vset c.q.fifo 3 [plainTok]) 1 (List.replicate 48 plainTok) } }

/-- AluAndImmediateWordsIssueWithResults, DivideFamilyTruncatesAndNeverFaults and every other premise of this kind. -/
theorem test_premise_clear : State.reset.core.clear k0 ∧ tight.core.clear ⟨3, 0, 1, 15⟩ ∧
    (on super).core.clear k0 ∧ (on hotter).core.clear k0 := by decide

theorem test_premise_PredicateWordsCompare : ∀ op ∈ [LogOp.and, .or, .xor, .andn], op ≠ .not := by decide

theorem test_premise_BranchesTakeTheirTargets :
    let s := on fun c => c.setCsr .codea 0x0002000000000000
    s.core.clear k0 ∧ s.core.winSize .a = 2 ^ 17 ∧ State.reset.core.winSize .a ≤ 2 ^ 17 := by decide

theorem test_premise_HandleWordsReadWriteAndMove :
    let ea (s : State) := ((s.core.sreg 1 + BitVec.ofNat 64 (32 * (0 : BitVec 8).toNat)) &&& ~~~0x1F).toNat
    let at' (x : W64) := on (withS 1 x)
    let hot (x : W64) := on (hotter ∘ withS 1 x)
    (0x200000 ≤ ea (at' 0x200000) ∧ (at' 0x200000).core.clear k0) ∧
    (ea (at' 0x100000) < 0x200000 ∧ 0x100000 ≤ ea (at' 0x100000) ∧ (at' 0x100000).core.hot = false ∧ (at' 0x100000).core.clear k0) ∧
    (ea (at' 0xFFFE0) < 0x100000 ∧ (at' 0xFFFE0).core.clear k0) ∧
    (0x100000 ≤ ea (hot 0x1FFFE0) ∧ ea (hot 0x1FFFE0) < 0x200000 ∧ (hot 0x1FFFE0).core.hot = true ∧ (hot 0x1FFFE0).core.clear k0) := by
  decide

theorem test_premise_LoadsAndStoresMoveBytes :
    (∀ n ∈ [1, 2, 4, 8], (on hotter).core.mayAccess 0x100000 n false ∧ (on hotter).core.mayAccess (0x200000 - n) n true ∧
      State.reset.core.mayAccess (0x100000 - n) n false ∧ State.reset.core.mayAccess 0 n true) ∧
    State.reset.core.mayAccess 0x301900 8 true ∧ zAddr 0x301900 = true ∧ State.reset.core.mayAccess 0x303000 8 false := by decide

theorem test_premise_AccessesOutsideTheMapFault :
    let out (ea n : Nat) : Prop := 0x400000 ≤ ea ∨ ea % n ≠ 0 ∨ mapped ea = false ∨ mapped (ea + n - 1) = false
    let ea (x : W64) := ((on (withS 1 x)).core.sreg 1 + (0 : BitVec 28).signExtend 64).toNat
    (∀ n ∈ [1, 2, 4, 8], out (ea 0x400000) n ∧ out (ea 0x208200) n) ∧ (∀ n ∈ [2, 4, 8], out (ea 1) n) ∧
    viewAddr (ea 0x303000) = true ∧ viewAddr (ea 0x303238) = true ∧
    (∀ n ∈ [1, 2, 4, 8], ea 0x100000 % n = 0 ∧ lentAddr (ea 0x100000) = true ∧ mapped (ea 0x100000) = true ∧
      mapped (ea 0x100000 + n - 1) = true ∧ (on (withS 1 0x100000)).core.hot = false) := by decide

theorem test_premise_AtomsAreReservedAndComputed :
    let room (s : State) := (s.core.dq .aq).length + vget s.core.q.dres 6 0
    let x : W64 := 0x8000000000000008
    let y : W64 := 0x8000000000400008
    room (on (withRes .aq 31)) = 31 ∧ (on (withRes .aq 31)).core.clear k0 ∧
    [(0xFFFF8 : W64), x, y].all (fun z => z.toNat % 8 = 0) = true ∧
    ((0xFFFF8 : W64).getLsbD 63 = false) ∧ ((on hotter).core.hot = true) ∧
    (x.getLsbD 63 = true ∧ x.toNat / 2 ^ 33 = 2 ^ 30 ∧ x.toNat % 2 ^ 33 / 2 ^ 22 = State.reset.cur ∧ x.toNat % 2 ^ 33 % 2 ^ 22 = 8) ∧
    (y.getLsbD 63 = true ∧ y.toNat / 2 ^ 33 = 2 ^ 30 ∧ y.toNat % 2 ^ 33 / 2 ^ 22 ≠ State.reset.cur) ∧
    0xFFFFFFFF < 2 ^ 32 ∧ 0xFFFFFFFFFFFFFFFF < 2 ^ 64 := by decide

/-- aq without a place; addresses that ATOM refuses, of every sort; the lent window, named both ways, outside hot class. -/
theorem test_premise_atoms_that_wait_or_fault :
    let room (s : State) := (s.core.dq .aq).length + vget s.core.q.dres 6 0
    let opa (x : W64) := x.toNat % 2 ^ 33
    let own (x : W64) := x.getLsbD 63 = true ∧ x.toNat / 2 ^ 33 = 2 ^ 30 ∧ opa x / 2 ^ 22 = State.reset.cur
    ¬room (on (withRes .aq 32)) < 32 ∧ (4 : W64).toNat % 8 ≠ 0 ∧ (2 : W64).toNat % 4 ≠ 0 ∧
    ((0x200000 : W64).getLsbD 63 = false ∧ 0x200000 ≤ (0x200000 : W64).toNat) ∧
    ((0xC000000000000000 : W64).getLsbD 63 = true ∧ (0xC000000000000000 : W64).toNat / 2 ^ 33 ≠ 2 ^ 30) ∧
    (own 0x8000000000200000 ∧ 0x200000 ≤ opa 0x8000000000200000 % 2 ^ 22) ∧
    State.reset.core.hot = false ∧ (own 0x8000000000100000 ∧ opa 0x8000000000100000 % 2 ^ 22 = 0x100000) ∧
    (0x1FFFF8 : W64).getLsbD 63 = false ∧ (0x1FFFF8 : W64).toNat < 0x200000 := by decide

theorem test_premise_DataQueuesPushAndPop :
    let used (q : DqId) (s : State) := (s.core.dq q).length + vget s.core.q.dres q.no 0
    (∀ q ∈ [DqId.fq, .dm, .dv, .bm, .bv], used q (on (withRes q (q.depth - 1))) < q.depth ∧
      q.depth ≤ used q (on (withRes q q.depth)) ∧ (on (withRes q q.depth)).core.clear k0) ∧
    (on (withQ .aq [ent 7])).core.dq .aq = [ent 7] ∧ (ent 7).status = 0 ∧ (on (withQ .aq [ent 7])).core.clear k0 ∧
    (on (withQ .aq [{ ent 7 with status := 9 }])).core.dq .aq = [{ ent 7 with status := 9 }] ∧ (9 : BitVec 8) ≠ 0 ∧
    State.reset.core.dq .ya = [] := by decide

def ring4 : Ring := { head := 0xFFFFFFFF, tail := 1, claimed := 2, base := 0x40, valid := true, lcnt := 2, slot := 16 }
def ringS (k : W64) : State := on fun c => { withS 1 k c with q := { c.q with ring := vset c.q.ring 5 ring4 } }

/-- A ring of four with two filled slots, one open, and wrapped counters; and descriptors at 8. -/
theorem test_premise_RingWordsKeepTheirCounters :
    let r (s : State) := vget s.core.q.ring 5 .reset
    let k (s : State) := (s.core.sreg 1).toNat
    let filled (s : State) := ((r s).tail - (r s).head).toNat
    let held (s : State) := ((r s).claimed - (r s).head).toNat
    let opened (s : State) := ((r s).claimed - (r s).tail).toNat
    (r State.reset).valid = false ∧ (∀ n < 6, (ringS (BitVec.ofNat 64 n)).core.clear k0 ∧ (r (ringS (BitVec.ofNat 64 n))).valid = true) ∧
    4 < k (ringS 5) ∧ (k (ringS 2) ≤ 4 ∧ 4 - held (ringS 2) < k (ringS 2)) ∧ (k (ringS 1) ≤ 4 - held (ringS 1)) ∧
    (k (ringS 4) ≤ 4 ∧ filled (ringS 3) < k (ringS 3)) ∧ k (ringS 2) ≤ filled (ringS 2) ∧ opened (ringS 2) < k (ringS 2) ∧
    k (ringS 1) ≤ opened (ringS 1) := by decide

theorem test_premise_RingDescriptors :
    let s (m : Mem) := on (withMem m ∘ withS 1 8)
    let x (m : Mem) := leNat ((s m).getLs 8 8)
    let ok (x : Nat) := x / 2 ^ 22 % 4 = 0 ∧ x / 2 ^ 44 % 2 ^ 20 = 0 ∧ x / 2 ^ 24 % 2 ^ 16 ≠ 0 ∧ x / 2 ^ 40 % 16 ≤ 12 ∧
      x % 2 ^ 22 + x / 2 ^ 24 % 2 ^ 16 * 2 ^ (x / 2 ^ 40 % 16) ≤ 0x100000
    ok (x [(9, 0xF0), (10, 0x0F), (12, 1), (13, 4)]) ∧ ¬ok (x []) ∧ ((on (withS 1 4)).core.sreg 1).toNat % 8 ≠ 0 ∧
    0x100000 ≤ ((on (withS 1 0x100000)).core.sreg 1).toNat ∧ (s []).core.clear k0 := by decide

def barS (posted : Bool) (pending : W32) (k : W64) : State := on fun c => { withS 1 k c with q := { c.q with
  bar := vset c.q.bar 2 { posted := posted, phase := false, pending := pending } } }

theorem test_premise_BarrierWordsCountAndComplete :
    let b (s : State) := vget s.core.q.bar 2 .reset
    let k (s : State) := (s.core.sreg 1).toNat
    let up (s : State) := (b s).pending.toInt + (k s : Int)
    let down (s : State) := (b s).pending.toInt - (k s : Int)
    (b (barS true 5 0)).posted = true ∧ 2 ^ 31 ≤ k (barS false 0 0x80000000) ∧ 2 ^ 31 ≤ up (barS false 1 0x7FFFFFFF) ∧
    (up (barS false 0 0x7FFFFFFF) = 2 ^ 31 - 1 ∧ (b (barS false 0 1)).posted = false) ∧ up (barS false 0xFFFFFFFB 5) = 0 ∧
    2 ^ 32 ≤ k (barS false 0 0x100000000) ∧ down (barS true 4 5) < 0 ∧ down (barS false 0 0x80000001) < -2 ^ 31 ∧
    0 < down (barS true 5 4) ∧ down (barS true 5 5) = 0 ∧ down (barS false 0 0x80000000) = -2 ^ 31 ∧
    (b (barS false 0 0)).phase = ((barS false 0 0).core.sreg 1).getLsbD 0 ∧
    (b (barS false 0 1)).phase ≠ ((barS false 0 1).core.sreg 1).getLsbD 0 ∧ (barS true 5 4).core.clear k0 := by decide

def flying (sup : Bool) : Land :=
  { st := .a, rem := 1, age := 0, sq := 0, sn := 0, fp := 0, sat := 0, sup := sup, fmt := 0, acts := [.scalar 1 0] }

theorem test_premise_CommonAndSupervisorWords :
    State.reset.core.cp.groups = [] ∧ State.reset.core.cp.unobs = [] ∧ State.reset.core.inSup = false ∧ (on super).core.inSup = true ∧
    (∀ e ∈ (on fun c => { c with land := [flying true] }).core.land, e.st = StreamId.a →
      e.sup ≠ (on fun c => { c with land := [flying true] }).core.inSup) ∧
    (∀ x ∈ State.reset.core.cp.ratoms, x.sup ≠ State.reset.core.inSup) ∧
    (let x : RAtom := { seq := 0, opa := 0, op := .add, w64 := true, b := 0, c := 0, sq := 0, sn := 0, sup := false, reply := none }
     ∃ y ∈ (on fun c => { c with cp := { c.cp with ratoms := [x] } }).core.cp.ratoms, y.sup = State.reset.core.inSup) ∧
    (∃ e ∈ (on fun c => { c with land := [flying false] }).core.land, e.st = StreamId.a ∧
      e.sup = (on fun c => { c with land := [flying false] }).core.inSup) := by decide

theorem test_premise_ErgWordsTransmit :
    State.reset.core.ownApplied ∧ State.reset.core.mayRelease ∧ (on super).core.ownApplied ∧ (on super).core.mayRelease ∧
    ((on (withRes .aq 31)).core.dq .aq).length + vget (on (withRes .aq 31)).core.q.dres 6 0 < 32 ∧
    ¬((on (withRes .aq 32)).core.dq .aq).length + vget (on (withRes .aq 32)).core.q.dres 6 0 < 32 ∧
    (1 ≤ ((on (withS 1 0xFFFFFFFF)).core.sreg 1).toNat ∧ ((on (withS 1 0xFFFFFFFF)).core.sreg 1).toNat < 2 ^ 32) ∧
    2 ^ 32 ≤ ((on (withS 1 0x100000000)).core.sreg 1).toNat ∧
    (let s := on fun c => { c with o := { c.o with unsent := 1 } }
     ¬(s.core.ownApplied ∧ s.core.mayRelease) ∧ s.core.clear k0) := by decide

/-- A log of one PUT of 5 to word 7 of tenant 0, applied as the core sees it. -/
def sent : State :=
  let s := on fun c => { c with o := { c.o with seen := 1 } }
  { s with erg := { s.erg with log := [{ kind := 0, tenant := 0, word := 7, source := 0, arg := 0, value := 5, origin := none,
                                         rel := none, fn := none }] } }

theorem test_premise_ErgWordsReadAndFence :
    sent.core.ownApplied ∧ (vget sent.erg.st (sent.cur / 256) .reset).damaged = none ∧ sent.core.clear k0 ∧
    condHolds .ne (sent.erg.wordAt sent.core.o.seen 0 7) (sent.core.sreg 0) = true ∧
    condHolds .eq (sent.erg.wordAt sent.core.o.seen 0 7) (sent.core.sreg 0) = false ∧
    sent.core.o.unsent = 0 ∧ (on fun c => { c with o := { c.o with unsent := 1 } }).core.o.unsent ≠ 0 := by decide

/-- A dense FP32 handle of n elements. -/
def hnd (addr space n : Nat) : BitVec 256 := BitVec.ofNat 256 (addr + space * 2 ^ 60 + n * 2 ^ 64 + 2 ^ 80 + 2 ^ 96 + 2 ^ 112)

/-- A heap of 16 MiB from address 0, that may be read, written and used by atomics, in latency class 1. -/
def heap (c : Core) : Core := { c with r := { c.r with csr := vset (vset c.r.csr 11 0x6100000001000000) 10 0 } }

def copyS (hd hs : BitVec 256) : State := on (heap ∘ withH 1 hs ∘ withH 2 hd)

/-- The arguments of COPY h2, h1 with these flags. -/
def argsOf (s : State) : XArgs :=
  ({ s.core.newCmd .copy (.copy k0 2 1 0 0 0 0 0) with hd := s.core.hreg 2, hs := s.core.hreg 1 } : Cmd).args

/-- Every link of the package in key hold. -/
def keyed (s : State) : State :=
  { s with links := .replicate 24 { Link.reset with state := 3 }, boot := { s.boot with trained := 0x122 } }

/-- A local copy of two elements; the same into a lent range, off its alignment, and from the heap. -/
theorem test_premise_CopyWordsPostCommands :
    let good := copyS (hnd 0x100 0 2) (hnd 0x200 0 2)
    let lent := copyS (hnd 0x100000 0 2) (hnd 0x200 0 2)
    let odd := copyS (hnd 0x102 0 2) (hnd 0x200 0 2)
    let ok (s : State) (f : BitVec 6) := transformOk (argsOf s) 0 1 f false
    let bad (s : State) := ((argsOf s).touches 0).findSome? Touch.bad
    let lents (s : State) := ((argsOf s).touches 0).findSome? Touch.lent
    good.core.clear k0 ∧ good.core.ownApplied ∧ good.core.cp.cmds.length < 8 ∧ good.core.cp.groups.length < 16 ∧
    (encode (.copy k0 2 1 0 0 0 0 0)).isSome = true ∧ ok good 0 = true ∧ ok good 0b010000 = true ∧
    ok (copyS (hnd 0x100 0 2) (hnd 0x200 0 3)) 0 = false ∧ good.timingBad (argsOf good) 0 0b100 = true ∧
    ok odd 0 = true ∧ odd.timingBad (argsOf odd) 0 0 = false ∧ bad odd = some 0x102 ∧
    ok lent 0 = true ∧ lent.timingBad (argsOf lent) 0 0 = false ∧ bad lent = none ∧ lent.core.hot = false ∧ lents lent = some 0x100000 ∧
    bad good = none ∧ lents good = none ∧ (0b100 : BitVec 6).getLsbD 2 = true := by decide

theorem test_premise_timed_copies :
    let timed := copyS (hnd 0x100 0 2) (hnd 0x2000 2 2)
    transformOk (argsOf timed) 0 1 0b100 false = true ∧ timed.timingBad (argsOf timed) 0 0b100 = false ∧
    ((argsOf timed).touches 0).findSome? Touch.bad = none ∧ ((argsOf timed).touches 0).findSome? Touch.lent = none ∧
    (timed.timedPlaces (argsOf timed) 0).all (fun q => match q.2 with
      | .ok _ => true
      | .error _ => false) = true ∧ (timed.timedPlaces (argsOf timed) 0).isEmpty = false ∧
    timed.timedBlocked (argsOf timed) 0 timed.core.cp.nextCmd = false := by decide

/-- A timed copy from a page whose table lies behind a held link; from one of latency class 0; from no page at all; and a form that
is not timed. -/
theorem test_premise_timed_pages :
    let from' (s : State) := s.onCore fun c => withH 2 (hnd 0x100 0 2) (withH 1 (hnd 0x2000000 2 2) c)
    let behind := keyed ((from' (copyS 0 0)).onCore fun c => c.setCsr .ptroot 0x8000007000000000)
    let slow := (copyS (hnd 0x100 0 2) (hnd 0x2000 2 2)).onCore fun c => c.setCsr .heaplim 0x6000000001000000
    let none' := from' (copyS 0 0)
    let now (s : State) := timedForm (argsOf s) 0 0b100
    (now behind = true ∧ transformOk (argsOf behind) 0 1 0b100 false = true ∧
      behind.timedBlocked (argsOf behind) 0 behind.core.cp.nextCmd = true) ∧
    (now slow = true ∧ slow.timedBlocked (argsOf slow) 0 slow.core.cp.nextCmd = false ∧ slow.timingBad (argsOf slow) 0 0b100 = true) ∧
    (now none' = true ∧ none'.timedBlocked (argsOf none') 0 none'.core.cp.nextCmd = false ∧
      none'.timingBad (argsOf none') 0 0b100 = false ∧ ((argsOf none').touches 0).findSome? Touch.bad = none ∧
      ((argsOf none').touches 0).findSome? Touch.lent = none ∧ ((none'.timedPlaces (argsOf none') 0).any fun q => match q.2 with
        | .ok _ => false
        | .error _ => true) = true) ∧
    now (copyS (hnd 0x100 0 2) (hnd 0x200 0 2)) = false := by decide +kernel

def group (n : Nat) : Group := { id := n, tq := 0, closed := true, fail := none, after := none, fp := 0 }

theorem test_premise_copy_places :
    let cmd := State.reset.core.newCmd .close (.cclose k0 0)
    let full := on fun c => { c with cp := { c.cp with cmds := List.replicate 8 cmd } }
    let groups := on fun c => { c with cp := { c.cp with groups := (List.range 16).map group } }
    let opened := on fun c => { c with cp := { c.cp with groups := (List.range 15).map group ++ [{ group 15 with closed := false }] } }
    ¬(full.core.cp.cmds.length < 8) ∧ full.core.clear k0 ∧
    ¬(groups.core.cp.openGroup.isSome = true ∨ groups.core.cp.groups.length < 16) ∧ groups.core.cp.openGroup = none ∧
    opened.core.cp.openGroup.isSome = true ∧ opened.core.cp.groups.length = 16 := by decide

theorem test_premise_CommandGroupsAndGraphs :
    let s (a : Nat) := on (withH 1 (hnd a 2 1))
    let hv (s : State) := s.core.hreg 1
    (¬(hSpace (hv (s 8)) < 2) ∧ (hAddr (hv (s 8)) + ((s 8).core.sreg 0).toNat) % 2 ^ 48 % 8 = 0) ∧
    (hAddr (hv (s 4)) + ((s 4).core.sreg 0).toNat) % 2 ^ 48 % 8 ≠ 0 ∧ hSpace (hnd 8 1 1) < 2 ∧ hSpace (hnd 8 3 1) = 3 ∧
    AtomOp.xor ≠ .swap ∧ AtomOp.xor ≠ .add ∧ AtomOp.xor ≠ .cas ∧
    (let c := (on fun c => { c with cp := { c.cp with groups := [group 0, group 1] } }).core.cp
     c.unobs = [] ∧ c.groups.length ≤ (2 : BitVec 28).toNat ∧ (1 : BitVec 28).toNat < c.groups.length) ∧
    (let c := (on fun c => { c with cp := { c.cp with unobs := [(3, { status := 8, faddr := 0, poff := none })] } }).core.cp
     c.unobs ≠ [] ∧ c.groups.length ≤ (0 : BitVec 28).toNat) := by
  decide

/-- Handles that CATOM refuses for what they hold: reserved bits of both words, and a LAYOUT that there is not. -/
theorem test_premise_bad_handles :
    (hnd 8 2 1 ||| 1 <<< 48).toNat / 2 ^ 48 % 2 ^ 12 ≠ 0 ∧ (hnd 8 2 1 ||| 1 <<< 255).toNat / 2 ^ 240 ≠ 0 ∧
    (hnd 8 2 1 ||| 1 <<< 240).toNat / 2 ^ 240 ≠ 0 ∧ (hnd 8 2 1).toNat / 2 ^ 48 % 2 ^ 12 = 0 ∧ (hnd 8 2 1).toNat / 2 ^ 240 = 0 ∧
    2 < hLayout (hnd 8 2 1 ||| BitVec.ofNat 256 (3 * 2 ^ 236)) ∧ 4 < hSpace (hnd 8 5 1) := by decide

/-- Zeros are no graph; a PASS of the source is one (R246). -/
theorem test_premise_graphs :
    let img (s : State) (ad : Nat) := (List.range (s.getLe ad 8 / 2 ^ 60 % 16 + 2)).map fun j => BitVec.ofNat 64 (s.getLe (ad + 8 * j) 8)
    let named := on fun c => { c with cp := { c.cp with cmds := [State.reset.core.newCmd .copy (.copy k0 0 0 0 0x13 0 0 0)] } }
    (∃ x ∈ named.core.cp.cmds, (x.kind = .copy ∨ x.kind = .cred) ∧ x.xf = 0x10 + 3) ∧
    ¬(∃ x ∈ State.reset.core.cp.cmds, (x.kind = .copy ∨ x.kind = .cred) ∧ x.xf = 0x10 + 3) ∧
    ((on (withS 1 4)).core.sreg 1).toNat % 8 ≠ 0 ∧ 0x200000 ≤ ((on (withS 1 0x200000)).core.sreg 1).toNat ∧
    (let ad (x : W64) := ((on (withS 1 x)).core.sreg 1).toNat
     let len (s : State) (a : Nat) := 8 * (s.getLe a 8 / 2 ^ 60 % 16 + 2)
     (ad 0x1FFFF8 < 0x200000 ∧ 0x200000 < ad 0x1FFFF8 + 16) ∧
     (ad 0x1FFFF0 + 16 ≤ 0x200000 ∧ 0x100000 ≤ ad 0x1FFFF0 ∧ State.reset.core.hot = false) ∧
     ((on hotter).core.hot = true ∧ len State.reset 0x100000 = 16 ∧ ad 0x1FFFF0 + 16 ≤ 0x200000) ∧
     (ad 0xFFFF8 < 0x100000 ∧ 0x100000 < ad 0xFFFF8 + len State.reset 0xFFFF8) ∧
     (ad 0xFFFF0 % 8 = 0 ∧ ad 0xFFFF0 + len State.reset 0xFFFF0 ≤ 0x100000)) ∧
    (graphBad (img State.reset 0x40)).isSome = true ∧
    graphBad (img (on (withMem [(0x4D, 0xF8), (0x4E, 0x1F), (0x4F, 2)])) 0x40) = none ∧
    (graphBad [1, 0] = some 0 ∧ graphBad [0, 0] = some 1 ∧ [(1 : W64), 0].length = (1 : W64).toNat / 2 ^ 60 + 2) := by decide

theorem test_premise_CsrWordsReadAndChange :
    (on super).core.inSup = true ∧ State.reset.core.inSup = false ∧
    Csr.tick ∈ ([.seed, .streamid, .cls, .divs, .throttle, .tick, .issued, .slice, .breach, .satflags, .fpflags, .tenant,
      .jobidx] : List Csr) ∧
    Csr.debug ∉ ([.seed, .streamid, .cls, .divs, .throttle, .tick, .issued, .slice, .breach, .satflags, .fpflags, .tenant,
      .jobidx] : List Csr) ∧ Csr.tick ≠ .satflags ∧ Csr.tick ≠ .fpflags ∧
    Csr.status ∈ ([.status, .cause, .faddr, .finfo, .seed, .streamid, .cls, .divs, .throttle, .tenant, .jobidx] : List Csr) ∧
    Csr.debug ∉ ([.status, .cause, .faddr, .finfo, .seed, .streamid, .cls, .divs, .throttle, .tenant, .jobidx] : List Csr) ∧
    State.reset.core.t.sliced = false := by decide

/-- A routine whose image, of nothing yet, has its header at 0x10000 of the heap. -/
def saving : State := on (heap ∘ super ∘ fun c => c.setCsr .imgdesc 0x8000000000010000)
def imageless : State := on super

theorem test_premise_ReturnsFromSupervisorMode :
    imageless.core.clear k0 ∧ imageless.core.inSup = true ∧ (∀ e ∈ imageless.core.land, e.sup = false) ∧
    imageless.saveWaits = false ∧ (∀ x ∈ imageless.core.cp.ratoms, x.sup = false) ∧ imageless.core.imgValid = false ∧
    (on fun c => { super c with o := { c.o with unsent := 1 } }).saveWaits = true ∧
    saving.saveWaits = false ∧ saving.core.imgValid = true := by decide

def farHeap (c : Core) : Core := c.setCsr .heapoff 0x7000000000
def isOk {α β : Type} (x : Except α β) : Bool := match x with
  | .ok _ => true
  | .error _ => false

/-- LSAVE of one result to the area at 0, its two grains distinct; the area beyond the heap, for LSAVE and LREST; a heap behind held
links. -/
theorem test_premise_landing_areas :
    let held := keyed (saving.onCore farHeap)
    let flies := saving.onCore fun c => { c with land := [flying false] }
    let beyond : State := { flies with mem := [(0x10013, 2)] }
    let own (s : State) := (s.core.land.filter fun e => !e.sup).map fun e => { e with acts := e.acts.map LAct.viewStores }
    let put (s : State) (la : Nat) := ((s.onCore fun k => k.issued (.of .a k0 s.core.sa.div [])).usedAreas 0x10000).placeWrite (s.coreCtx s.cur) 2 0 la (areaBytes (own s))
    let x (i : Nat) := flies.grainOf (flies.coreCtx 0) .write 2 0 (i / 64) none
    (saving.core.clear k0 ∧ saving.core.inSup = true ∧ saving.core.imgWaits = false ∧ saving.core.imgValid = true ∧
      imageless.core.imgWaits = false ∧ imageless.core.imgValid = false) ∧
    (held.landHeld 0x10000 = true ∧ held.lrestHeld 0x10000 = true ∧ flies.landHeld 0x10000 = false ∧ saving.lrestHeld 0x10000 = false) ∧
    (flies.imgAreas 0x10000 = some (0, 0, 0) ∧ (areaBytes (own flies)).length = 128 ∧ isOk (put flies 0) = true ∧
      (∀ i < 2, (flies.coreCtx 0).inHeap (64 * i) = true ∧ (x (64 * i)).home = .dev ∧ (x (64 * i)).stat.all (· = 0) = true) ∧ (x 0).num ≠ (x 64).num) ∧
    (beyond.landHeld 0x10000 = false ∧ beyond.lrestHeld 0x10000 = false ∧ beyond.imgAreas 0x10000 = some (0, 0x2000000, 0) ∧
      isOk (put beyond 0x2000000) = false ∧ (beyond.readArea (beyond.coreCtx 0) 0x2000000).isSome = false) ∧
    (saving.readArea (saving.coreCtx 0) 0).isSome = true ∧
    (let s := on (super ∘ fun c => c.setCsr .imgdesc 0x8000000000010000)
     s.imgAreas 0x10000 = none ∧ s.core.imgValid = true ∧ s.landHeld 0x10000 = false ∧ s.lrestHeld 0x10000 = false) := by decide +kernel

/-- A list of one entry, and a memory that holds its area at 0 and reads as it. -/
theorem test_premise_LandingAreaHoldsItsEntries :
    let e : Land := { flying false with acts := [.write 0x40 1 0 [1, 2]] }
    let s : State := { saving with mem := [(0, 1), (64, 64), (66, 128), (69, 4), (90, 16), (96, 1), (97, 2)] }
    (e.sup = false ∧ 1 ≤ e.rem ∧ e.rem < 2 ^ 16 ∧ e.age < 2 ^ 32 ∧ e.sq.toNat ≤ 9 ∧ (0x40 : Nat) < 2 ^ 22) ∧
    (areaBytes [e]).length = 128 ∧
    ([(0, 128), (0, 64), (64, 64), (64, 32), (96, 2), (127, 1), (128, 0)].all fun p =>
      match s.placeRead (s.coreCtx 0) 2 0 p.1 p.2 with
      | .ok l => l = ((areaBytes [e]).drop p.1).take p.2
      | .error _ => false) = true := by decide +kernel

/-- The image of `saving` can be written part by part; with blocks outgoing its IDENT comes later; a landing list, records or a
header that cannot be written; a heap behind held links. -/
theorem test_premise_YieldSavesAndReleases :
    let cmd := State.reset.core.newCmd .close (.cclose k0 0)
    let held := keyed (saving.onCore farHeap)
    let edge := on (heap ∘ super ∘ fun c => c.setCsr .imgdesc 0x8000000000FFF000)
    let flies (s : State) := s.onCore fun c => { c with land := [flying false] }
    let s0 (s : State) (h : Nat) := (s.onCore fun k => k.issued { Plan.of .a k0 1 [] with noEntry := true }).usedAreas h
    let put (t : State) (a : Nat) (bs : List Byte) := t.placeWrite (t.coreCtx t.cur) 2 0 a bs
    let records (t : State) (ca : Nat) := put t ca (t.core.cp.cmds.flatMap (Cmd.bytes t.core.cp.groups))
    let header (t : State) (h ca : Nat) := put t (h + 8) ((t.core.header 0 0 ca t.core.cp.cmds.length).drop 8)
    let ident (t : State) (h : Nat) := put t.freezeDrains h (leBytes 8 t.core.ident.toNat)
    let own (s : State) := (s.core.land.filter fun e => !e.sup).map fun e => { e with acts := e.acts.map LAct.viewStores }
    (saving.core.clear k0 ∧ saving.core.inSup = true ∧ saving.saveWaits = false ∧ saving.core.imgValid = true ∧
      saving.saveHeld 0x10000 = false ∧ own saving = [] ∧ saving.imgAreas 0x10000 = some (0, 0, 0) ∧ saving.core.outgoing = []) ∧
    (match records (s0 saving 0x10000) 0 with
      | .error _ => false
      | .ok b => match header b 0x10000 0 with
        | .error _ => false
        | .ok d => isOk (ident d 0x10000)) = true ∧
    (saving.onCore fun c => { c with t := { c.t with drains :=
      [{ block := 5, bytes := none, loc := none, img := 0, xlat := .replicate 7 0, tenant := 0, save := none }] } }).core.outgoing ≠ [] ∧
    (imageless.saveWaits = false ∧ imageless.core.imgValid = false) ∧ held.saveHeld 0x10000 = true ∧
    (let s : State := { flies saving with mem := [(0x10013, 2)] }
     own s ≠ [] ∧ s.imgAreas 0x10000 = some (0, 0x2000000, 0) ∧ s.saveHeld 0x10000 = false ∧
     isOk (put (s0 s 0x10000) 0x2000000 (areaBytes (own s))) = false) ∧
    (let s : State := { saving.onCore (fun c => { c with cp := { c.cp with cmds := [cmd] } }) with mem := [(0x1001B, 2)] }
     s.imgAreas 0x10000 = some (0, 0, 0x2000000) ∧ s.saveWaits = false ∧ s.saveHeld 0x10000 = false ∧ own s = [] ∧
     isOk (records (s0 s 0x10000) 0x2000000) = false) ∧
    (edge.saveWaits = false ∧ edge.core.imgValid = true ∧ edge.saveHeld 0xFFF000 = false ∧ edge.imgAreas 0xFFF000 = some (0, 0, 0) ∧
      isOk (header (s0 edge 0xFFF000) 0xFFF000 0) = false) := by decide +kernel

theorem test_premise_PresenceWordsActOnTheirRange :
    saving.core.imgWaits = false ∧ saving.core.imgValid = true ∧ imageless.core.imgValid = false ∧
    (let flight : Land := { flying true with acts := [.csr .imgdesc .write 0 none] }
     (on fun c => { super c with land := [flight] }).core.imgWaits = true) ∧
    State.reset.core.presOf 294 = .present ∧ (on fun c => c.setPres 320 .absent).core.presOf 320 = .absent ∧
    (on fun c => c.setPres 403 .poisoned).core.presOf 403 = .poisoned ∧ (on fun c => c.setPres 0 .outgoing).core.presOf 0 = .outgoing := by
  decide

/-- The saving routine with blocks 5, 6 and 7 absent, poisoned and outgoing, and those of its registers present. -/
def blocky (s : State) : State := s.onCore fun c => ((c.setPres 5 .absent).setPres 6 .poisoned).setPres 7 .outgoing

theorem test_premise_presence_words :
    let s := blocky (saving.onCore (withS 1 5))
    let beyond : State := { s with mem := [(0x1000B, 2)] }
    let held := keyed (s.onCore farHeap)
    let x := s.grainOf (s.coreCtx 0) .write 2 0 0 none
    (s.core.ready k0 ∧ s.core.inSup = true ∧ (∀ r ∈ s.core.sRange 1, ∀ b ∈ blocksIn r.1 r.2, s.core.presOf b = .present) ∧
      (s.core.sreg 1).toNat = 5 ∧ s.core.imgWaits = false ∧ s.core.imgValid = true) ∧
    ([5, 6, 7].map s.core.presOf = [Pres.absent, .poisoned, .outgoing] ∧ s.core.presOf 8 = .present ∧
      (∀ b ∈ [5, 6, 7], s.psaveHeld b = false ∧ s.entryHeld 0 b = false) ∧ held.entryHeld 0 6 = true ∧ held.psaveHeld 6 = true) ∧
    (s.locEntry 0 6 = some (0, 48) ∧ isOk ((s.usedEntry 0 6).placeWrite (s.coreCtx 0) 2 0 48 (leBytes 8 0x0000040000000000)) = true ∧
      x.home = .dev ∧ x.stat.all (· = 0) = true ∧ x.leaf = none) ∧
    beyond.locEntry 0 6 = none := by decide +kernel

theorem test_premise_loads :
    imageless.loadHeld = false ∧ imageless.core.imgValid = false ∧ imageless.saveWaits = false ∧
    (keyed (saving.onCore farHeap)).loadHeld = true := by decide +kernel

/-! That the image of `saving`, once written, is loaded again (`loadImage`, ContextsAreSavedAndReleased and JobsArePlacedStartedAndResumed)
the kernel does not evaluate in reasonable time: its header has 8 KiB. An evaluation outside the package has shown it. -/

theorem test_premise_SavedContexts :
    let q : Core := withQ .fq [ent 1] State.reset.core
    (∀ i < 16, (q.tokens (BitVec.ofNat 4 i)).length ≤ 64) ∧ (q.dq .fq).length ≤ DqId.fq.depth ∧ q.cp.groups.length ≤ 16 ∧
    (∀ g ∈ [group 1], g.fail.map (fun f => f.2.status) ≠ some 0) ∧ Csr.tick ≠ .imgdesc ∧ Csr.tick ≠ .throttle := by decide

def withCl (f : Cluster → Cluster) : State := { State.reset with cl := vset State.reset.cl 0 (f (vget State.reset.cl 0 .reset)) }

theorem test_premise_ClockWordsAndCounters :
    let least (s : State) (e : Eng) := if e = .m ∨ e = .v then
      (if (s.core.csr .cls).toNat % 4 = 0 then 4 else if (s.core.csr .cls).toNat % 4 = 1 then 2 else 1) else 1
    (3 : BitVec 4).toNat < least State.reset .v ∧ least State.reset .m ≤ (4 : BitVec 4).toNat ∧
    least (on hotter) .v ≤ (1 : BitVec 4).toNat ∧ (0 : BitVec 4).toNat < least (on hotter) .a ∧
    (vget (withCl fun c => { c with req := .pending 3 }).cl 0 .reset).req = .pending 3 ∧
    (vget State.reset.cl (State.reset.cur / 256) .reset).req = .none ∧ State.reset.cur < 2048 := by decide

def withQ0 (f : LQueue → LQueue) : State :=
  let x := vget State.reset.ten 0 .reset
  { State.reset with ten := vset State.reset.ten 0 { x with q := vset x.q 0 (f .reset) } }

def posted (n : Nat) : LQueue → LQueue := fun q =>
  { q with en := true, devpost := true, addr := 0x0002000000000000, resv := List.replicate n { pos := 0, core := 0, bytes := [], esn := 0, xlat := .replicate 7 0 } }

/-- A reservation of a queue at 0x1000 of the heap, or of no place at all. -/
def slotted (heaped : Bool) : State := withQ0 fun q => { q with
  en := true
  devpost := true
  addr := 0x2002000000001000
  resv := [{ pos := 1, core := 0, bytes := (List.range 128).map (BitVec.ofNat 8), esn := 0,
             xlat := if heaped then vset (.replicate 7 0) 1 0x6100000001000000 else .replicate 7 0 }] }

theorem test_premise_launch_slots :
    let y (s : State) := vget (vget s.ten 0 .reset).q 0 .reset
    let r (b : Bool) := (y (slotted b)).resv.headD { pos := 0, core := 0, bytes := [], esn := 0, xlat := .replicate 7 0 }
    let c (b : Bool) : Ctx := { (slotted b).tenantCtx 0 128 with xlat := (r b).xlat }
    let x (b : Bool) (g : Nat) := (slotted b).grainOf (c b) .write 2 0 g none
    (r true).bytes.length = 128 ∧ (y (slotted true)).addr.toNat / 2 ^ 60 = 2 ∧
    (y (slotted true)).addr.toNat % 2 ^ 48 + 128 * ((r true).pos.toNat % 2 ^ ((y (slotted true)).addr.toNat / 2 ^ 48 % 16)) = 0x1080 ∧
    (∀ i < 128, (c true).inHeap (0x1080 + i) = true) ∧ (x true 66).num ≠ (x true 67).num ∧
    (∀ k < 2, (x true (66 + k)).home = .dev ∧ ∀ i < 64, (x true (66 + k)).stat.getD i 0 = 0) ∧
    (x false 66).stat.getD 0 0 ≠ 0 ∧
    (match (slotted true).placeWrite (c true) 2 0 0x1080 (r true).bytes with
      | .ok _ => true
      | .error _ => false) = true ∧
    (match (slotted false).placeWrite (c false) 2 0 0x1080 (r false).bytes with
      | .ok _ => false
      | .error _ => true) = true := by decide +kernel

theorem test_premise_RecordsAreLaunchedAndPosted :
    let x (s : State) := vget (vget s.ten 0 .reset).q 0 .reset
    let pos (s : State) : W32 := (x s).tail + BitVec.ofNat 32 (x s).resv.length
    let room (s : State) := (x s).en = true ∧ (x s).devpost = true ∧ (pos s - (x s).head).toNat < 2 ^ ((x s).addr.toNat / 2 ^ 48 % 16)
    room (withQ0 (posted 3)) ∧ ¬room (withQ0 (posted 4)) ∧ (withQ0 (posted 3)).core.ownApplied ∧
    (withQ0 (posted 3)).core.mayRelease ∧ (withQ0 (posted 3)).core.clear k0 ∧ 0x100000 < 0xFFF88 + 128 ∧ 0xFFF80 + 128 ≤ 0x100000 ∧
    0xFFF80 % 8 = 0 ∧
    (let s := withQ0 fun q => { q with en := true, addr := 0x0002000000000000, head := 0xFFFFFFFE }
     (x s).en = true ∧ (x s).devpost = false ∧ ((2 : W32) - (x s).head).toNat ≤ 4 ∧ 4 < ((3 : W32) - (x s).head).toNat) ∧
    (x State.reset).en = false ∧ (3 : W32).getLsbD 0 = true ∧ (2 : W32).getLsbD 0 = false ∧ (x (withQ0 (posted 1))).resv ≠ [] := by
  decide

/-- A format word: AF, BF, CF, M, N, K, DF. -/
def fmtW (af bf cf m n k df : Nat) : W64 :=
  BitVec.ofNat 64 (af * 2 ^ 60 + bf * 2 ^ 55 + cf * 2 ^ 52 + m * 2 ^ 44 + n * 2 ^ 37 + k * 2 ^ 28 + df * 2 ^ 7)
def withF (x : W64) (c : Core) : Core := withQ .fq [ent x] c
def withM (n : Nat) (x : W32) (c : Core) : Core := { c with r := { c.r with m := vset c.r.m n x } }

theorem test_premise_TileCommandsCheckAndLoad :
    let usable (s : State) (n : BitVec 3) := n.toNat < 4 ∨ s.core.hot = true
    State.reset.core.array = 0 ∧ ¬usable State.reset 4 ∧ usable State.reset 3 ∧ usable (on hotter) 7 ∧
    State.reset.core.dq .fq = [] ∧ (on (withF 0xF)).core.dq .fq = [ent 0xF] ∧ fmtOk 0xF = false ∧
    fmtAF (fmtW 0 4 1 2 2 4 3).toNat ≠ 4 ∧ fmtBF (fmtW 4 0 1 2 2 4 3).toNat ≠ 5 ∧ fmtCF (fmtW 4 4 0 2 2 4 3).toNat = 0 ∧
    fmtOk (fmtW 4 4 1 128 64 256 4).toNat = true ∧ (on (withF (fmtW 4 4 1 2 2 4 3))).core.clear k0 := by decide

/-- Two rows of E2M1 blocks (NC) with zero headers; a row off its alignment, one beyond the shade windows, and a header
whose check bits are wrong. -/
theorem test_premise_tile_rows :
    let src (s : State) (i : Nat) := (s.core.mreg 1).toNat + i * 132
    let at' (x : W32) := on (withF (fmtW 1 1 0 2 2 256 0) ∘ withM 1 x)
    let bad := on (withMem [(0x84, 1), (0x85, 0xFF)] ∘ withF (fmtW 1 1 0 2 2 256 0))
    fmtAF (fmtW 1 1 0 2 2 256 0).toNat = 1 ∧ fmtOk (fmtW 1 1 0 2 2 256 0).toNat = true ∧
    (∀ j < 2, src (at' 0) j % 4 = 0 ∧ src (at' 0) j + 132 ≤ 0x100000 ∧ hdrOk ((at' 0).getLe (src (at' 0) j) 4) false = true) ∧
    (src (at' 2) 0 % 4 ≠ 0) ∧ (0x200000 ≤ src (at' 0x1FFF7C) 1 ∧ src (at' 0x1FFF7C) 0 % 4 = 0 ∧ src (at' 0x1FFF7C) 0 + 132 ≤ 0x200000) ∧
    (0x200000 ≤ src (at' 0x200000) 0 ∧ src (at' 0x200000) 0 % 4 = 0) ∧
    (src (at' 0x1FFF7C) 1 = 0x200000 ∧ src (at' 0x1FFFF8) 0 % 4 = 0 ∧ src (at' 0x1FFFF8) 0 < 0x200000 ∧ 0x200000 < src (at' 0x1FFFF8) 0 + 132) ∧
    (hdrOk (bad.getLe 0x84 4) false = false ∧ hdrOk (bad.getLe 0 4) false = true) := by decide

theorem test_premise_MatrixProductsAccumulate :
    let s := on (withF (fmtW 4 4 1 2 2 4 3))
    let b := on (withF (fmtW 1 1 0 2 2 256 0))
    (on fun c => { c with array := 1 }).core.array ≠ 0 ∧ s.core.array = 0 ∧ s.core.dq .fq = [ent (fmtW 4 4 1 2 2 4 3)] ∧
    fmtOk (ent (fmtW 4 4 1 2 2 4 3)).val.toNat = true ∧ fmtM (fmtW 4 4 1 0 2 4 3).toNat = 0 ∧ fmtN (fmtW 4 4 1 2 2 4 3).toNat ≠ 0 ∧
    (∀ i < 2, hdrOk (b.getLe (0x200000 + 0x8000 + 4 * i) 4) false = true) ∧
    fmtCF (fmtW 4 5 1 2 2 4 3).toNat = 1 ∧ 2 ≤ fmtAF (fmtW 4 5 1 2 2 4 3).toNat ∧ 2 ≤ fmtBF (fmtW 4 5 1 2 2 4 3).toNat := by decide

/-- Two tiles of block rows, with a bad header in the second row of the first or of the second; formats of no product; a run
that clamps; lists of terms. -/
theorem test_premise_products :
    let f := (fmtW 1 1 0 2 2 256 0).toNat
    let hdr (s : State) (t i : Nat) := hdrOk (s.getLe (0x200000 + 0x10000 * t + 0x8000 + 4 * i) 4) false
    let bad (t : Nat) : State := on (withMem [(0x208004 + 0x10000 * t, 1), (0x208005 + 0x10000 * t, 0xFF)])
    let eights : List Byte := List.replicate 260 0x80
    (fmtAF f = 1 ∧ fmtBF f = 1 ∧ fmtM f = 2 ∧ fmtN f = 2 ∧ fmtCF f = 0 ∧ fmtK f ≠ 0 ∧ fmtM f ≤ 128 ∧ fmtN f ≤ 64) ∧
    (hdr (bad 0) 0 1 = false ∧ hdr (bad 0) 0 0 = true) ∧
    ((∀ i < 2, hdr (bad 1) 0 i = true) ∧ hdr (bad 1) 1 1 = false ∧ hdr (bad 1) 1 0 = true) ∧
    (fmtOk (fmtW 1 1 0 2 2 0 0).toNat = true ∧ fmtK (fmtW 1 1 0 2 2 0 0).toNat = 0) ∧
    (fmtOk (fmtW 4 4 2 2 2 4 3).toNat = true ∧ fmtCF (fmtW 4 4 2 2 2 4 3).toNat = 2 ∧ fmtK (fmtW 4 4 2 2 2 4 3).toNat ≠ 0) ∧
    mmaElem (fmtW 4 4 2 2 2 4 3).toNat eights eights 0x7FFFFFFF = (0x7FFFFFFF, true) ∧
    (mmaElem (fmtW 4 4 2 2 2 4 3).toNat eights eights 0).2 = false ∧
    X.nan ∈ [X.inf true, X.nan] ∧ (X.inf true ∈ [X.inf false, X.inf true] ∧ X.inf false ∈ [X.inf false, X.inf true]) ∧
    (X.inf true ∈ [X.inf true, X.fin false 1 0] ∧ X.inf false ∉ [X.inf true, X.fin false 1 0] ∧ X.nan ∉ [X.inf true, X.fin false 1 0]) ∧
    (∀ p ∈ [X.fin true 0 0, X.fin false 3 (-1)], p.isFin = true) ∧ [X.fin true 0 0] ≠ [] := by decide

/-- A drain of 2 by 2 elements to 0x1000, FP32 and quantised with a table of zeros; a table whose shift is 64. -/
theorem test_premise_SumsCorrectionsAndDrains :
    let s := on (withF (fmtW 4 4 1 2 2 4 4) ∘ withM 1 0x1000)
    let e (s : State) (j : Nat) := s.getLs ((s.core.mreg 2).toNat + 8 * j) 8
    let bad := on (withMem [(0x0C, 64)] ∘ withF (fmtW 4 4 1 2 2 4 4) ∘ withM 1 0x1000)
    s.core.clear k0 ∧ fmtOk (fmtW 4 4 1 2 2 4 4).toNat = true ∧ fmtCF (fmtW 4 4 1 2 2 4 4).toNat ≠ 0 ∧
    fmtAF (fmtW 5 5 1 2 2 4 4).toNat = 5 ∧ fmtBF (fmtW 5 5 1 2 2 4 4).toNat = 5 ∧
    fmtDF (fmtW 4 4 1 2 2 4 4).toNat = 4 ∧ (s.core.mreg 2).toNat + 8 * 2 ≤ 0x100000 ∧
    (∀ i < 2, ((s.core.mreg 1).toNat + i * 64) % 1 = 0 ∧ (s.core.mreg 1).toNat + i * 64 + 2 ≤ 0x100000) ∧
    (∀ j < 2, ((e s j).getD 4 0).toNat ≤ 63 ∧ (e s j).getD 6 0 = 0 ∧ (e s j).getD 7 0 = 0) ∧
    (∃ j < 2, 63 < ((e bad j).getD 4 0).toNat) ∧
    (Rm.ofShort (fmtRM (fmtW 0 0 0 2 2 4 0).toNat) = some .rne ∧ fmtDF (fmtW 0 0 0 2 2 4 0).toNat = 0 ∧ fmtCF (fmtW 0 0 0 2 2 4 0).toNat = 0 ∧
      fmtCF (fmtW 4 4 1 2 2 4 0).toNat ≠ 0 ∧ ∀ k < 6, fmtDF (fmtW 4 4 1 2 2 4 k).toNat = k) := by decide

theorem test_premise_MatrixRegisterAndControlWords :
    (on hotter).core.hot = true ∧ (on (withQ .dm [ent 1])).core.dq .dm = [ent 1] ∧ State.reset.core.dq .dm = [] ∧
    (on (withQ .bm [ent 0])).core.dq .bm = [ent 0] ∧ (on (withQ .bm [ent 1])).core.dq .bm = [ent 1] ∧ State.reset.core.dq .bm = [] := by
  decide

/-- Operands of every form are ready: registers, dv with an entry, a bound z. -/
theorem test_premise_VectorLaneWordsIssueWithResults :
    State.reset.vrReady (.v 1) [.v 2, .v 3, .v 4] (BitVec.allOnes 64) ∧
    (on (withQ .dv [ent 5, ent 6])).vrReady (.v 1) [.dv, .v 3, .dv] (BitVec.allOnes 64) ∧
    State.reset.vrReady (.v 15) [] (State.reset.core.kreg 0) ∧ RmFull.rne ≠ .sr ∧ VTy.i ≠ .f ∧ VTy.u ≠ .f := by decide

theorem test_premise_MaskWordsSelectAndCompare :
    let r := readSrcs (on (withQ .dv [ent 5])) [.dv, .v 1]
    r.dv ≤ ((on (withQ .dv [ent 5])).core.dq .dv).length ∧ r.fault = none ∧ State.reset.vrReady (.v 0) [] (State.reset.core.kreg 0) ∧
    State.reset.vrReady (.v 0) [.v 1] (BitVec.allOnes 64) := by decide

/-- A NaN and a number; lanes for the halving tree. -/
theorem test_premise_lane_values :
    dec32 0x7FC00000 = .nan ∧ dec32 0x7F800001 = .nan ∧ dec32 0x80000000 ≠ .nan ∧ dec32 0x7F800000 ≠ .nan ∧
    (List.replicate 32 (0 : Nat)).length = 2 ^ 5 ∧ ([7] : List Nat).length = 2 ^ 0 := by decide

theorem test_premise_ReductionsAndScans : State.reset.vrReady (.v 0) [.v 1] (BitVec.allOnes 64) ∧ VTy.i ≠ .f := by decide

theorem test_premise_SortsAndMerges :
    State.reset.vrReady (.v 14) [.v 1, .v 2] (BitVec.allOnes 64) ∧ (List.replicate 64 ((0 : W32), (0 : W32))).length ≤ 64 ∧
    (List.replicate 64 (0 : W32)).length = 64 ∧ ¬((0 : Nat) = 64) ∧ keyBefore .f false 0x80000000 0 = true ∧
    keyBefore .f false 0x7FC00000 0xFFFFFFFF = false := by decide

def withZ2 (x : BitVec 512) (c : Core) : Core := { c with r := { c.r with z := vset c.r.z 2 x } }

/-- z2 bound for reading at 0, for writing at 0x100 of one element, used up; and unbound. -/
theorem test_premise_StreamOperandsWalkTheirPattern :
    let z (s : State) := vget s.core.r.z 2 0
    let put (x : BitVec 512) := on (withZ2 x)
    let one : BitVec 512 := 0x1000100010000000000000000 ||| 1 <<< 288
    let s := put one
    let w := put (0x10000100 ||| one)
    let used := put (1 <<< 256 ||| one)
    (z State.reset).getLsbD 288 = false ∧ (z w).getLsbD 28 ≠ false ∧ (z s).getLsbD 28 ≠ true ∧
    (z used).toNat / 2 ^ 256 % 2 ^ 32 = 1 ∧ Et.ofCode ((z s).toNat / 2 ^ 24 % 16) = some .f32 ∧
    ((z s).getLsbD 288 = true ∧ elemOk 4 false 0 = true ∧ ∀ i < 4, lentAddr i = false) ∧
    ((z w).getLsbD 288 = true ∧ elemOk 4 true 0x100 = true ∧ ∀ i < 4, lentAddr (0x100 + i) = false) := by decide +kernel

/-- A load and a store of all lanes; a first lane outside the map, and a lane in a read-only view. -/
theorem test_premise_VectorMemoryWords :
    (∀ l < 64, let a : Nat := 0x100 + l * 4
      elemOk 4 true (a : Int) = true ∧ elemOk 4 false (a : Int) = true ∧ ∀ i < 4, lentAddr (a + i) = false) ∧
    elemOk 4 false (-4) = false ∧ elemOk 4 false 0x303000 = true ∧ elemOk 4 true 0x303000 = false ∧ elemOk 2 false 1 = false := by decide

theorem test_premise_blocks_of_the_vector_stream :
    let a (s : State) := (s.core.xreg 1).toNat
    let at' (x : W64) := on (withX 1 x)
    a (at' 2) % 4 ≠ 0 ∧ ¬(a (at' 0x1FFF00) + 260 ≤ 0x200000) ∧ (a (at' 0x100000) + 260 ≤ 0x200000 ∧ (at' 0x100000).core.hot = false) ∧
    (a (at' 0xFFEFC) + 260 ≤ 0x100000 ∧ a (at' 0xFFEFC) % 4 = 0) ∧
    hdrOk (leNat (((at' 0).getLs 0 132).take 4)) false = true ∧ hdrOk (leNat (((at' 0).getLs 0 260).take 4)) true = false := by decide

theorem test_premise_VectorScalarStreamAndControlWords :
    let legal (x : Nat) := x / 2 ^ 29 % 2 ^ 35 = 0 ∧ x / 2 ^ 22 % 4 = 0 ∧ x / 2 ^ 24 % 16 ≤ 10 ∧ x / 2 ^ 112 % 2 ^ 16 = 0 ∧
      x / 2 ^ 224 % 2 ^ 32 = 0
    let x (m : Mem) := leNat ((on (withMem m)).getLs 0 32)
    legal (x [(3, 10)]) ∧ ¬legal (x [(3, 11)]) ∧ ¬legal (x [(28, 1)]) ∧ (8 : W32).toNat % 32 ≠ 0 ∧ 0x200000 ≤ (0x200000 : W32).toNat ∧
    (0x100000 ≤ (0x1FFFE0 : W32).toNat ∧ State.reset.core.hot = false ∧ (on hotter).core.hot = true) ∧
    (vget (on (withZ2 (1 <<< 288))).core.r.z 2 0).getLsbD 288 = true ∧
    (on (withQ .bv [ent 1])).core.dq .bv = [ent 1] ∧ State.reset.core.dq .bv = [] ∧
    ((on (withRes .ya 63)).core.dq .ya).length + vget (on (withRes .ya 63)).core.q.dres 5 0 < 64 ∧
    64 ≤ ((on (withRes .ya 64)).core.dq .ya).length + vget (on (withRes .ya 64)).core.q.dres 5 0 := by decide +kernel

/-! ## Premises of the statements about ticks, traps and the device -/

/-- ADDI s1, s1, 5 at the issue of the A stream of a running job. -/
def placed : State := State.reset.withFetchWord 64 0x0000200410000005
def atPhase (p : Phase) (f : Core → Core) : State :=
  { placed with core := f { placed.core with phase := p, sa := { placed.core.sa with word := none } } }

theorem test_premise_FetchTakesTheWordAtTheCounter :
    let valid (s : State) := 1 ≤ (s.core.csr .codea).toNat / 2 ^ 32 ∧ (s.core.csr .codea).toNat % 2 ^ 22 % 8 = 0 ∧
      (s.core.csr .codea).toNat % 2 ^ 22 + 8 * ((s.core.csr .codea).toNat / 2 ^ 32) ≤ 0x100000
    let s (x : W64) := atPhase (.fetch .a) fun c => c.setCsr .codea x
    ((s 0x0000000100000000).core.phase = .fetch .a ∧ (s 0x0000000100000000).core.turn .a = true ∧
      ((s 0x0000000100000000).core.stream .a).word = none ∧ (s 0x0000000100000000).core.inSup = false ∧
      (s 0x0000000100000000).core.r.pres = [] ∧ (s 0x0000000100000000).core.early = false) ∧
    valid (s 0x00000001000FFFF8) ∧ ¬valid (s 0x00000002000FFFF8) ∧ ¬valid (s 0) ∧ ¬valid (s 0x0000000100000004) ∧
    (atPhase (.fetch .a) super).core.turn .a = true ∧ (atPhase (.fetch .a) super).core.inSup = true ∧
    (atPhase (.fetch .m) super).core.turn .m = false ∧ (placed.core.stream .a).word ≠ none ∧
    (atPhase (.fetch .v) id).core.phase = .fetch .v ∧
    (∃ x ∈ (atPhase (.fetch .m) fun c => c.raise .m (flt 0x01)).core.t.stops, x.st = some .m) ∧
    ((atPhase (.fetch .a) fun c => { c with sa := { c.sa with pc := 9 } }).core.stream .a).pc.toNat % 4 = 1 := by decide

/-- R341: a word whose block was pulled after its fetch asked for it is fetched on the same tick still. -/
theorem test_touch_fetches_again : (match (atPhase .touch id).touchStep with
    | .next s => s.core.phase
    | _ => .touch) = .fetch .a := by decide

theorem test_premise_StepIssuesTheDecodedWord :
    placed.agenda = [.core placed.cur] ∧ placed.cur < 2048 ∧ (placed.core.job.map (·.phase)) = some .running ∧
    placed.core.t.pulls = [] ∧ placed.core.phase = .issue .a ∧ placed.core.inSup = false ∧ placed.core.t.pf = none ∧
    placed.core.t.ret = false ∧ placed.core.barWait = none ∧ (placed.core.stream .a).joined = false ∧
    (placed.core.stream .a).bound = 0 ∧ (placed.core.stream .a).hold = 0 ∧ (placed.core.stream .a).word = some 0x0000200410000005 ∧
    decodeWord .a 0x0000200410000005 = .ok (.addi k0 1 1 5) ∧ decodeWord .a 0x0000FE0000000000 = .error .unassigned ∧
    (match exec (.addi k0 1 1 5) { placed with agenda := [] } with
      | .next t => t.core.runs && t.core.t.pulls.isEmpty
      | _ => false) = true := by decide

/-- A stream that a routine holds, and the barrier wait that ends on the tick's M step. -/
theorem test_premise_held_streams :
    (let s := atPhase (.issue .a) fun c => { c with sa := { c.sa with hold := 1 } }
     s.core.held = true ∧ s.core.phase = .issue .a) ∧
    placed.barEnds = false ∧ (vget State.reset.ten 0 .reset).evwait = [] := by decide

theorem test_premise_IssueMovesOneStreamOn :
    placed.core.inSup = false ∧ (on super).core.inSup = true ∧ 0 < (1024 : Nat) ∧ 1024 ≤ 2 ^ 17 ∧
    ((Plan.of .a k0 1 []).acts = [] ∧ (Plan.of .a k0 1 []).fp = 0 ∧ (Plan.of .a k0 1 []).sat = 0 ∧ k0.sq = 0) := by decide

theorem test_premise_ResultsLandAndStoresChangeTheirBytesAlone :
    0x1FFFFF + [(7 : Byte)].length ≤ 0x200000 ∧ cell 0 0x2FFFFF = cell 0 0x2FFFFF ∧ cell 0 0x10 ≠ cell 0 0x11 ∧
    cell 0 0x100010 ≠ cell 0 0x10 ∧ (atPhase .land id).core.phase = .land ∧ (atPhase .land id).core.r.pres = [] ∧
    (atPhase .land id).core.land = [] ∧ (atPhase .land id).atomHeld [] = false ∧ (atPhase .land id).core.replayMode = 0 := by decide

theorem test_premise_RegisterResultsLandAndConstantsHold :
    (63 : BitVec 6) ≠ 0 ∧ 56 ≤ (56 : BitVec 6).toNat ∧ (55 : BitVec 6).toNat < 56 ∧ (on super).core.inSup = true ∧
    State.reset.core.inSup = false := by decide

def cause (k : StopKind) (st : Option StreamId) (code : BitVec 8) : Stop :=
  { kind := k, st := st, code := code, imm := 0, faddr := 0, status := 0, block := 0, poff := none }

theorem test_premise_TakingATrapSavesTheStreams :
    firstStop [] = none ∧
    firstStop [cause .async none 0x18, cause .after (some .a) 0x12, cause .before (some .v) 0x01, cause .before (some .m) 0x01] =
      some (cause .before (some .m) 0x01) ∧
    firstStop [cause .async none 0x18, cause .async none 0x14] = some (cause .async none 0x14) ∧
    (cause .async none 0x18).kind = .async ∧ (cause .after none 0x12).kind ≠ .async := by decide

theorem test_premise_EncodedWordsDecodeToTheirInstruction :
    isWord (.add k0 3 1 2) = true ∧ wfError (.add k0 3 1 2) = none ∧ isWord (.ill .m 5) = true ∧ wfError (.ill .m 5) = none ∧
    isWord (.vadd ⟨9, 15, 6, 15⟩ (.z 7) .dv (.z 6) 7 .u) = true ∧
    wfError (.vadd ⟨9, 15, 6, 15⟩ (.z 7) .dv (.z 6) 7 .u) = none := by decide

theorem test_premise_DecodedWordsEncodeBack :
    decodeWord .a 0x0000000C10800000 = .ok (.add k0 3 1 2) ∧ ((Instr.add k0 3 1 2).ctl?).isSome = true := by decide

/-- A machine with a byte in every kind of memory, about to step. -/
theorem test_premise_StepsKeepMemoriesCanonical :
    let s : State := { placed with mem := [(0, 1), (5, 2)], host := [(7, 1)], core := withMem [(9, 9)] placed.core,
                                   parked := [(3, withMem [(0, 1)] Core.reset)] }
    s.Inv ∧ (step s = .next (match step s with
      | .next t => t
      | _ => s)) := by
  refine ⟨?_, rfl⟩
  unfold State.Inv
  decide

/-- Every cluster at a temperature. -/
def junctions (t : Nat) : State := { State.reset with pw := { State.reset.pw with junction := .replicate 8 t } }

theorem test_premise_PowerIsSampledAndClocksStep :
    let p (draw below : Nat) := (draw : Nat) < 4096 ∧ below ≤ 9
    let goal := min 2400 State.reset.pw.cap.toNat - 50 * (25 - 40)
    State.reset.pw.unatt = false ∧ 420 ≤ min 2400 State.reset.pw.cap.toNat ∧ p 2201 0 ∧ goal < 2201 ∧ 2200 ≤ goal ∧
    95 * goal ≤ 100 * 2090 ∧ 100 * 2089 < 95 * goal ∧ 2400 - 50 * (43 - 40) = 2250 ∧
    (vget (withCl fun c => { c with hold := some 3 }).cl 0 .reset).hold = some 3 ∧
    (vget (withCl fun c => { c with req := .pending 3 }).cl 0 .reset).req = .pending 3 ∧
    (∀ p ∈ (State.reset.cur, State.reset.core) :: State.reset.parked, p.1 / 256 = 0 → p.2.runs = false) ∧
    ¬(∀ p ∈ (placed.cur, placed.core) :: placed.parked, p.1 / 256 = 0 → p.2.runs = false) ∧
    3 ≤ ({ State.reset.boot with stage := 3 } : Boot).stage.toNat ∧ State.reset.boot.flowLow = false ∧
    ({ State.reset.boot with flowLow := true } : Boot).flowLow = true ∧
    (vget (withCl fun c => { c with parked := true }).cl 0 .reset).parked = true ∧ (0 : BitVec 3).toNat = 0 ∧
    ([105, 94, 115, 99, 104, 95, 114, 100].map fun t => vget (junctions t).pw.junction 0 0) = [105, 94, 115, 99, 104, 95, 114, 100] ∧
    5 ≤ State.reset.pw.flow ∧ ({ State.reset.pw with flow := 4 } : Power).flow < 5 := by decide

def withLink (f : Link → Link) : State := { State.reset with links := vset State.reset.links 23 (f .reset) }

theorem test_premise_LinksCountFlitsAndChangeKeys :
    let l (s : State) := vget s.links 23 .reset
    (l (withLink fun l => { l with state := 2 })).state = 2 ∧
    (l (withLink fun l => { l with state := 2, ctr := 0xFFFFFFFFFF })).ctr.toNat = 2 ^ 40 - 1 ∧
    (l (withLink fun l => { l with ctr := 0x8000000000 })).ctr.toNat = 2 ^ 39 ∧
    (l (withLink fun l => { l with state := 3 })).state = 3 ∧ 2 ≤ (l (withLink fun l => { l with state := 3 })).state.toNat ∧ (l (withLink fun l => { l with bad := 16 })).bad = 16 ∧
    (l (withLink fun l => { l with retries := 255 })).retries = 255 := by decide

def atStage (n : BitVec 8) (err : BitVec 8) : State := { State.reset with boot := { State.reset.boot with stage := n, err := err } }

theorem test_premise_BringUpRunsItsStages :
    let stands (s : State) (k : Nat) := s.boot.stage.toNat = k ∧ (s.boot.err = 0 ∨ 0x20 ≤ s.boot.err.toNat ∧ s.boot.err.toNat < 0x38)
    stands (atStage 2 0) 2 ∧ stands (atStage 3 0) 3 ∧ stands (atStage 4 0) 4 ∧ stands (atStage 5 0x37) 5 ∧ stands (atStage 6 0x20) 6 ∧
    linkUsed 0x222 0 = true ∧ linkUsed 0x122 4 = false ∧ 1 ≤ [32].getD 0 0 ∧ [32].getD 0 0 ≤ 32 ∧ 32 < [33].getD 0 0 ∧
    (let fails (hops : List Nat) (i : Nat) := linkUsed 0x222 i = true ∧ ¬(1 ≤ hops.getD i 0 ∧ hops.getD i 0 ≤ 32)
     fails [33] 0 ∧ ∀ i < 24, ¬fails (List.replicate 24 32) i) ∧
    (∀ l ∈ (atStage 4 0).links.toList, l.state ≠ 1) ∧
    (∃ l ∈ (withLink fun l => { l with state := 1 }).links.toList, l.state = 1) ∧
    (atStage 2 1).boot.stage.toNat < 3 ∧ 3 ≤ (atStage 3 0).boot.stage.toNat ∧ (match State.reset.routine 0 with
      | .ok _ => true
      | .error _ => false) = true ∧
    (match ({ State.reset with poison := [0] } : State).routine 0 with
      | .ok _ => true
      | .error c => c = 0x0C) = true := by decide

def withT (f : Tenant → Tenant) (s : State) : State := { s with ten := vset s.ten 0 (f (vget s.ten 0 .reset)) }

theorem test_premise_HostWritesAndTenants :
    let x (s : State) := vget s.ten 0 .reset
    let s0 := withT (fun x => { x with ten := true }) State.reset
    let z (s : State) := vget s.erg.st 9 .reset
    3 % 4 ≠ 0 ∧ 0x10000 ≤ 0x10000 ∧ (1 ≠ 4 ∧ 1 ≠ 8) ∧ 1 ≠ 0 ∧ (x (withT (fun x => { x with busy := true }) s0)).busy = true ∧
    (x s0).busy = false ∧ ((x s0).reqHi.toNat / 2 ^ 60 % 16 = 0 ∧ (x s0).ten = true) ∧ (x State.reset).ten = false ∧
    State.reset.boot.stage.toNat < 3 ∧ 3 ≤ (atStage 3 0).boot.stage.toNat ∧ (∀ p ∈ State.reset.parked, p.1 ≠ State.reset.cur) ∧
    State.reset.ck.recv = false ∧ ({ State.reset with ck := { State.reset.ck with recv := true } } : State).ck.recv = true ∧
    (∀ m ∈ (z State.reset).queue, ¬(m.kind = 0 ∧ m.source = 9 ∧ m.tenant = 0)) ∧
    (placed.core.job.map fun j => (j.tenant, j.phase)) = some (0, .running) := by decide

/-- Tenant 0 with the heap of `heap` at addresses from 0 on. -/
def heaped : State := withT (fun x => { x with xlat := vset x.xlat 1 0x6100000001000000 }) State.reset

theorem test_premise_aperture :
    let found (s : State) (g : Nat) := s.readGrain (s.grainOf (s.tenantCtx 0 129) .read 2 0 g none)
    let sick : State := { heaped with poison := [1] }
    (found heaped 0).all (fun p => p.1 = 0) = true ∧ (found heaped 1).all (fun p => p.1 = 0) = true ∧
    (found sick 0).all (fun p => p.1 = 0) = true ∧ ((found sick 1).find? (fun q => q.1 ≠ 0)).map (·.1) = some 0x0C ∧
    ((found State.reset 0).find? (fun q => q.1 ≠ 0)).map (·.1) = some 0x08 ∧
    (heaped.grainOf (heaped.tenantCtx 0 129) .write 2 0 0 none).stat.all (· = 0) = true ∧
    (State.reset.grainOf (State.reset.tenantCtx 0 129) .write 2 0 0 none).stat.find? (fun q => q ≠ 0) = some 0x08 ∧
    (match heaped.virtWrite (heaped.tenantCtx 0 129) 0 [1, 2] with
      | .ok _ => true
      | .error _ => false) = true := by decide

/-- A package of a domain with two planes, its links up, its buddy ready, no job and no tenant. -/
def paired : State :=
  let s : State := { State.reset with links := .replicate 24 { Link.reset with state := 2 },
                                      boot := { State.reset.boot with trained := 0x222, stage := 6 } }
  { s with peers := [(s.buddy, { mem := [], tags := [], poison := [], expo := [], recv := true })] }

theorem test_premise_checkpoints :
    3 ≤ paired.boot.stage.toNat ∧ State.reset.boot.stage.toNat < 3 ∧ paired.quiet = true ∧ paired.buddyLinked = true ∧ (paired.peer paired.buddy).recv = true ∧ paired.ck.busy = false ∧
    placed.quiet = false ∧ State.reset.buddyLinked = false ∧
    (({ paired with peers := [] } : State).peer paired.buddy).recv = false := by decide

def message (k : BitVec 4) (v : W64) (arg : BitVec 42) : Msg :=
  { kind := k, tenant := 0, word := 7, source := 0, arg := arg, value := v, origin := none, rel := none, fn := none }

theorem test_premise_StationsTransmitAndApplyMessages :
    let s : State := { atStage 6 0 with erg := { State.reset.erg with log := [message 0 5 0, message 7 0 0] } }
    let z (s : State) (n : Nat) := vget s.erg.st n .reset
    6 ≤ s.boot.stage.toNat ∧ s.erg.caravan < 10 ∧ (∀ m ∈ (z s 0).queue, m.origin = none) ∧ (z s 9).damaged = none ∧
    s.erg.log[(z s 9).applied]? = some (message 0 5 0) ∧ (message 3 0x10000 1).arg.getLsbD 0 = true ∧
    (message 4 16 3).arg.toNat % 8 = 3 ∧ (message 5 0x200 0).value.getLsbD 9 = true ∧ (message 5 1 0).value.getLsbD 0 = true ∧
    (message 7 1 0x100).arg.getLsbD 8 = true ∧
    (let l : Live := { seq := 0, left := 1, handed := true, notify := false }
     BitVec.ofNat 32 (0 * 2 ^ 29 + (l.seq.toNat + 1) % 2 ^ 29) = (message 7 1 0).value.setWidth 32 ∧ l.left = 1 ∧ l.handed = true) := by
  decide

/-- An ADD of core 0, in replay, whose log lies behind a held link, or does not. -/
theorem test_premise_adds_in_replay :
    let s (off : W64) : State :=
      { placed with core := ((heap placed.core).setCsr .heapoff off).setCsr .replay 0x8000000000000000
                    erg := { placed.erg with log := [{ message 1 5 0 with origin := some 0 }] } }
    (keyed (s 0x7000000000)).addHeld 0 = true ∧ (s 0).addHeld 0 = false := by decide +kernel

theorem test_premise_barrier_wait_and_repair :
    let s := atPhase (.issue .m) fun c => { c with o := { c.o with barw := some { word := 7, target := some 0 } } }
    let d : State := { State.reset with erg := { State.reset.erg with
      st := vset State.reset.erg.st 9 { (vget State.reset.erg.st 9 .reset) with damaged := some 1031 } } }
    let u := atPhase (.issue .m) fun c => { super c with o := { c.o with sbarw := some { word := 7, target := some 0 } } }
    (u.core.phase = .issue .m ∧ u.core.inSup = true ∧ u.core.o.sbarw = some { word := 7, target := some 0 } ∧
      (vget u.erg.st (u.cur / 256) .reset).damaged = none ∧ ((u.erg.wordAt u.core.o.seen 0 7) - 0).toNat < 2 ^ 63) ∧
    State.reset.boot.stage.toNat < 3 ∧ 3 ≤ (atStage 3 0).boot.stage.toNat ∧
    s.core.phase = .issue .m ∧ s.core.inSup = false ∧ s.core.o.barw = some { word := 7, target := some 0 } ∧
    (vget s.erg.st (s.cur / 256) .reset).damaged = none ∧ ((s.erg.wordAt s.core.o.seen 0 7) - 0).toNat < 2 ^ 63 ∧
    ((0 : W64) - (BitVec.ofNat 64 (2 ^ 63))).toNat ≥ 2 ^ 63 ∧ (vget d.erg.st 9 .reset).damaged = some (1024 * 1 + 7) := by decide

theorem test_premise_TicksEndInOrder :
    let at' (p : Phase) (f : Core → Core) := (atPhase p f).core
    let stuck (n : Nat) (c : Core) : Core := { c with t := { c.t with stuck := n } }
    let halt (x : Stream) : Stream := { x with joined := true }
    let slice (c : Core) : Core := c.setCsr .slice 1
    let stalled (c : Core) : Core := { c with sa := { c.sa with stalled := true, word := some 0 }, sm := halt c.sm, sv := halt c.sv }
    let joined (c : Core) : Core := { c with sa := halt c.sa, sm := halt c.sm, sv := halt c.sv }
    let hit (c : Core) : Core := { c with t := { c.t with stops := [cause .before (some .a) 0x01] } }
    ((at' .watchdog id).phase = .watchdog ∧ (at' .watchdog id).inSup = false ∧ (at' .watchdog id).t.ret = false ∧
      2 ^ 24 ≤ (at' .watchdog (stuck (2 ^ 24 - 1))).t.stuck + 1 ∧ ¬(2 ^ 24 ≤ (at' .watchdog (stuck (2 ^ 24 - 2))).t.stuck + 1)) ∧
    (at' .watchdog stalled).stuckTick = true ∧ (at' .watchdog id).stuckTick = false ∧
    ((at' .slice slice).csr .slice ≠ 0 ∧ (at' .slice id).csr .slice = 0 ∧ (atPhase .slice id).crowded = false ∧
      (atPhase .slice id).erg.log.length < (at' .slice id).o.acq + 2 ^ 46) ∧
    ((at' .slice fun c => { super c with t := { c.t with sliced := true } }).t.sliced = true ∧ (at' .slice super).inSup = true ∧
      (at' .slice super).t.sliced = false ∧ (at' .slice joined).sa.joined = true) ∧
    ((at' .trap id).t.stops = [] ∧ (at' .trap id).t.preempt = false ∧ (at' .trap id).t.expired = false ∧ (at' .trap id).t.pf = none ∧
      firstStop (at' .trap hit).t.stops = some (cause .before (some .a) 0x01) ∧ (at' .trap id).o.barw = none ∧
      (at' .trap (super ∘ hit)).inSup = true) ∧
    ((at' .tickEnd super).inSup = true ∧ (at' .tickEnd joined).land = [] ∧ (at' .tickEnd joined).cp.groups = [] ∧
      (at' .tickEnd joined).cp.ratoms = [] ∧
      (at' .tickEnd joined).sa.joined = true ∧ (at' .tickEnd joined).sm.joined = true ∧ (at' .tickEnd joined).sv.joined = true) := by
  decide

/-- A log that an acquire lies 2^46 behind. -/
theorem test_premise_old_acquires (m : Msg) :
    let s : State := { atPhase .slice id with erg := { (atPhase .slice id).erg with log := List.replicate (2 ^ 46) m } }
    s.core.o.acq + 2 ^ 46 ≤ s.erg.log.length ∧ s.core.phase = .slice ∧ s.core.inSup = false ∧ s.core.t.ret = false ∧
      s.core.sa.joined = false := by
  have h : (atPhase .slice id).core.phase = .slice ∧ (atPhase .slice id).core.inSup = false ∧
      (atPhase .slice id).core.t.ret = false ∧ (atPhase .slice id).core.sa.joined = false := by decide
  refine ⟨?_, h⟩
  show 0 + 2 ^ 46 ≤ (List.replicate (2 ^ 46) m).length
  simp only [List.length_replicate]
  omega

theorem test_premise_blocks :
    let c := (placed.core.setPres 5 .absent)
    let s : State := { placed with core := { c with t := { c.t with pulls := [5], bg := [(5, some 0)] } } }
    s.core.t.pulls[0]? = some 5 ∧ s.core.presOf 5 = .absent ∧ s.draining s.cur 5 = false ∧ s.pullHeld s.cur 5 = false ∧ (s.pullBlock s.cur 5).isSome = false ∧
    (s.pullFrom s.cur 5 (some 0)).isSome = true ∧ s.pullFrom s.cur 5 none = none ∧ s.core.runs = true ∧
    s.core.t.bg = [(5, some 0)] ∧ (placed.core.csr .presmode).getLsbD 0 = false ∧ placed.core.t.bg = [] ∧
    (let d : Drain := { block := 5, bytes := none, loc := none, img := 0, xlat := .replicate 7 0, tenant := 0, save := none }
     let t : State := { placed with core := { placed.core with t := { placed.core.t with drains := [d] } } }
     (t.getCore 0).t.drains[0]? = some d ∧ t.drainHeld 0 d = false) ∧
    (0 : BitVec 9).toNat < 295 ∧ (403 : BitVec 9).toNat < 404 ∧ 64 * 0x21840000 % 2 ^ 36 ≥ 0x861000000 ∧
    64 * 0x2183FFFF % 2 ^ 36 < 0x861000000 := by decide

/-- Block 284, of handles, absent, pulled from a page of the heap; block 285 drained to it, still in place or held since the release. -/
theorem test_premise_bytes_of_blocks :
    let loc (a : Nat) : W64 := BitVec.ofNat 64 (2 ^ 62 + a / 64)
    let c := (heap placed.core).setPres 284 .absent
    let s : State := { placed with core := { c with t := { c.t with bg := [(284, some (loc 0x1000))] } } }
    let d (b : Option (List Byte)) : Drain := { block := 285, bytes := b, loc := some (loc 0x2000), img := 0, xlat := (s.coreCtx 0).xlat, tenant := 0, save := none }
    let out (b : Option (List Byte)) := s.placeWrite (if (d b).bytes = none then s.coreCtx 0
      else { s.coreCtx 0 with xlat := (d b).xlat, tenant := (d b).tenant }) (locKind (loc 0x2000) + 1) (locWin (loc 0x2000))
      (64 * ((loc 0x2000).toNat % 2 ^ 42)) ((d b).bytes.getD ((List.range 128).map fun i => s.getB 0 (0x302280 + i)))
    (locOk (loc 0x1000) = true ∧ (loc 0x1000).getLsbD 42 = false ∧ locKind (loc 0x1000) ≠ 0 ∧ s.core.runs = true ∧
      s.core.t.bg = [(284, some (loc 0x1000))] ∧ s.core.presOf 284 = .absent ∧ s.draining s.cur 284 = false ∧
      s.locHeld s.cur 284 (some (loc 0x1000)) = false) ∧
    (match s.placeRead (s.coreCtx 0) 2 0 (64 * ((loc 0x1000).toNat % 2 ^ 42)) 128 with
      | .ok l => decide (l.length = 128)
      | .error _ => false) = true ∧
    (s.core.presOf 285 ≠ .poisoned ∧ s.core.t.idents = [] ∧ locOk (loc 0x2000) = true ∧ locKind (loc 0x2000) ≠ 0) ∧
    (match out none with
      | .ok _ => true
      | .error _ => false) = true ∧
    (match out (some (List.replicate 128 1)) with
      | .ok _ => true
      | .error _ => false) = true := by decide +kernel

def job (p : JobPhase) : Job := { someJob with phase := p }
def waiting (p : JobPhase) (f : Tenant → Tenant) : State :=
  let s := withT (f ∘ fun x => { x with ten := true, imgOk := true }) heaped
  { s with core := { s.core with job := some (job p) } }

theorem test_premise_JobsArePlacedStartedAndResumed :
    let s := waiting .placed id
    let z := vget s.erg.st 0 .reset
    s.core.job = some (job .placed) ∧ (job .placed).phase = .placed ∧ s.core.o.unsent = 0 ∧ s.core.o.own ≤ z.applied ∧
    (job .placed).waitEsn ≤ z.applied ∧ z.damaged = none ∧ s.tenantFree 0 = true ∧
    (match s.routine 0 with
      | .ok _ => true
      | .error _ => false) = true ∧
    (match s.virtRead (s.tenantCtx 0 128) 0 0 with
      | .ok _ => true
      | .error _ => false) = true ∧
    (match s.virtRead (s.tenantCtx 0 128) 0x1000000 8 with
      | .ok _ => true
      | .error e => e.1 ≠ 0) = true ∧
    (match ({ s with poison := [0] } : State).routine 0 with
      | .ok _ => false
      | .error _ => true) = true ∧
    (match ({ waiting .resuming id with poison := [0] } : State).routine 0 with
      | .ok _ => false
      | .error _ => true) = true ∧
    (waiting .resuming id).core.job = some (job .resuming) ∧ (waiting .resuming id).identPending 0 = false ∧
    ({ State.reset with boot := { State.reset.boot with caps := true } } : State).boot.caps = true := by decide

/-- Tenant 0 waits to resume a job whose image stands where memory is zero. -/
theorem test_premise_images :
    let s := waiting .resuming id
    ((s.select 0).onCore fun _ => s.core.forImage (job .resuming) (s.tenant 0) [] 0).loadImage = none := by decide +kernel

def farTenant (x : Tenant) : Tenant := { x with xlat := vset x.xlat 2 0x7000000000 }

/-- A link in key hold on the way of the host, of a LAUNCH slot, of a start and of a resumption. -/
theorem test_premise_held_links :
    let apt (s : State) (a : Acc) := (s.grainOf (s.tenantCtx 0 129) a 2 0 0 none).held
    let far := withT farTenant (keyed heaped)
    let slot (s : State) (o : W64) := s.writeHeld { s.tenantCtx 0 128 with xlat := vset (vset (.replicate 7 0) 1 0x6100000001000000) 2 o } 2 0 0x1080 128
    let wait (p : JobPhase) (g : Tenant → Tenant) := waiting p g
    let away (x : Tenant) : Tenant := farTenant { x with supimg := 0x4000000001 }
    let j : Job := { job .resuming with img := 0x8000000000010000 }
    let resumes (j : Job) (s : State) : State := ((s.usedRoutine 0).select 0).onCore fun _ => s.core.forImage j (s.tenant 0) [] 0
    apt far .read = true ∧ apt far .write = true ∧ apt far .atomic = true ∧ apt heaped .read = false ∧
    slot (keyed (slotted true)) 0x7000000000 = true ∧ slot (slotted true) 0 = false ∧
    ((keyed (wait .placed away)).routineHeld 0 0 = true ∧ (wait .placed id).routineHeld 0 0 = false) ∧
    (let s := keyed (wait .placed away)
     s.rangeHeld (s.tenantCtx 0 128) 2 0 0 8 = true ∧ (wait .placed id).rangeHeld ((wait .placed id).tenantCtx 0 128) 2 0 0 0 = false) ∧
    (resumes j (keyed (wait .resuming farTenant))).loadHeld = true ∧ (resumes (job .resuming) (wait .resuming id)).loadHeld = false := by
  decide +kernel

/-- A buddy behind links in key hold, its copies still to be made; a package that receives the checkpoints of the one below it. -/
theorem test_premise_checkpoints_behind_links :
    let held : State := { paired with links := .replicate 24 { Link.reset with state := 3 } }
    let todo (s : State) : State := { s with ck := { s.ck with busy := true, todo := true, cmd := 1 } }
    let takes : State := { paired with ck := { paired.ck with recv := true } }
    (held.buddyLinked = true ∧ held.buddyHeld = true ∧ paired.buddyHeld = false ∧ held.quiet = true ∧ (held.peer held.buddy).recv = true) ∧
    ((todo held).ck.busy = true ∧ (todo held).ck.todo = true ∧ (todo paired).buddyHeld = false ∧ (todo State.reset).buddyLinked = false) ∧
    (takes.ck.recv = true ∧ domZ takes.boot.trained ≠ 1 ∧ ∀ d < 4, (vget takes.links (6 * d + 5) Link.reset).state = 2) ∧
    paired.ck.recv = false := by decide

/-- A page-fault stop of the A stream: the M stream has ticks left, or none, and stands at its boundary. -/
theorem test_premise_page_fault_stops :
    let s (m : Nat) := atPhase .trap fun c => { c with t := { c.t with pf := some { stop := cause .before (some .a) 0x01, leftM := m, leftV := 0 } } }
    (∀ m < 2, (s m).core.phase = .trap ∧ (s m).core.inSup = false ∧ (s m).core.t.ret = false ∧ (s m).core.t.stops = [] ∧
      (s m).core.t.preempt = false ∧ (s m).core.t.pf.isSome = true ∧ (s m).core.o.barw = none ∧ (s m).core.sv.bound = 0 ∧
      (s m).core.sm.bound = 0 ∧ (s m).core.sm.joined = false ∧ (s m).core.sm.stalled = false) ∧
    ((s 1).core.t.pf.map (·.leftM) = some 1 ∧ (s 0).core.t.pf.map (·.leftM) = some 0) := by decide

/-- Block 284, of handles, asked for by a word: its location says nothing is kept, poisoned, or kept at 0x1000; a held link on the way. -/
theorem test_premise_pulls_on_demand :
    let s (m : Mem) : State :=
      let c := ((heap placed.core).setPres 284 .absent).setCsr .imgdesc 0x8000000000010000
      { placed with mem := m, core := { c with t := { c.t with pulls := [284] } } }
    let at' : W64 := 0x4000000000000040
    ((s []).core.t.pulls[0]? = some 284 ∧ (s []).core.presOf 284 = .absent ∧ (s []).draining 0 284 = false ∧ (s []).pullHeld 0 284 = false ∧
      ((s []).pullBlock 0 284).isSome = true ∧ (keyed ((s []).onCore farHeap)).pullHeld 0 284 = true) ∧
    ((s []).locEntry 0 284 = some (0, 2272) ∧ locOk 0 = true ∧ locKind 0 = 0) ∧
    ((s [(2277, 4)]).locEntry 0 284 = some (0x0000040000000000, 2272) ∧ locOk 0x0000040000000000 = true ∧ (0x0000040000000000 : W64).getLsbD 42 = true) ∧
    ((s [(2272, 0x40), (2279, 0x40)]).locEntry 0 284 = some (at', 2272) ∧ locOk at' = true ∧ at'.getLsbD 42 = false ∧ locKind at' ≠ 0 ∧
      isOk ((s [(2272, 0x40), (2279, 0x40)]).placeRead ((s []).coreCtx 0) 2 0 0x1000 128) = true) := by decide +kernel

/-- The drain of block 285 for save 3: the last that its IDENT waits for, or not; behind a held link. -/
theorem test_premise_drains_of_a_save :
    let c := heap placed.core
    let d : Drain := { block := 285, bytes := none, loc := some 0x4000000000000080, img := 0, xlat := .replicate 7 0, tenant := 0, save := some 3 }
    let i (l : List Nat) : IdentW := { no := 3, img := 0x8000000000010000, blocks := l, word := 1, xlat := ((placed.onCore heap).coreCtx 0).xlat, tenant := 0 }
    let s (l : List Nat) : State := { placed with core := { c with t := { c.t with drains := [d], idents := [i l] } } }
    let ctx := (s []).saveCtx 0 (i []).xlat 0
    ((s [285]).core.t.idents = [i [285]] ∧ d.save = some (i [285]).no ∧ (s [285]).drainHeld 0 d = false ∧
      ((s [285]).drainTo 0 d).isSome = true ∧ (s [285]).writeHeld ctx 2 0 0x10000 8 = false ∧
      isOk ((s [285]).placeWrite ctx 2 0 0x10000 (leBytes 8 1)) = true) ∧
    ((i [285, 286]).blocks.erase d.block ≠ [] ∧ (i [285, 285]).blocks.erase d.block ≠ [] ∧ (i [285]).blocks.erase d.block = []) ∧
    (keyed ((s [285]).onCore farHeap)).drainHeld 0 d = true := by decide +kernel

/-- An enforced log of one atomic with old value 1, and a local ATOM over zeros due. -/
def enforced : State :=
  let e : Land := { st := .a, rem := 0, age := 0, sq := 0, sn := 0, fp := 0, sat := 0, sup := false, fmt := 0,
                    acts := [.atom 0 .add true 0x40 1 0] }
  let log := [((0 : Nat), (8 : Byte)), (8, 1), (64, 3), (72, 1)]
  let c : Core := { heaped.core with phase := .land, land := [e] }
  { heaped with mem := log, core := (c.setCsr .replay 0x8000000000000000).setCsr .heaplim 0x6100000001000000 }
theorem test_premise_replay : enforced.core.phase = .land ∧ enforced.core.r.pres = [] ∧
    enforced.atomHeld (enforced.core.land.filter fun e => decide (e.rem = 0) && e.sup == enforced.core.inSup) = true := by decide +kernel

/-- A record of one iteration at the head of queue 0, its conditions latched. -/
def headed : State := withT (fun x => { x with
  ten := true
  imgOk := true
  q := vset x.q 0 { LQueue.reset with
    en := true
    tail := 1
    cur := some { words := [0, 0, 0, 0, 0, 0, 0x100, 0, 0x100000001, 0x100000001, 0x100000001, 0x100000001, 0, 0, 0, 0],
                  next := 0, latched := true, condEsn := 0, age := 0 } } }) { State.reset with boot := { State.reset.boot with caps := true } }

theorem test_premise_rounds :
    let l (h : State) := h.cands.filter fun c => (h.coreFor c).isSome || !(h.victims c).isEmpty
    ((headed.readHeads.choose (l headed.readHeads)).map fun p => (p.1.queue, headed.readHeads.coreFor p.1)) = some (some 0, some 0) ∧
    (State.reset.readHeads.choose (l State.reset.readHeads)).isNone = true ∧ headed.boot.caps = true := by decide +kernel

/-! ## Premises of the statements about commands -/

def next (o : Out) : State := match o with
  | .next s => s
  | _ => State.reset

/-- COPY h2, h1 of two elements with these handles, posted. -/
def copied (hd hs : BitVec 256) : State := next (exec (.copy k0 2 1 0 0 0 0 0) (copyS hd hs))
def begun (hd hs : BitVec 256) : State := next (exec (.start 0) (copied hd hs))
def firstAct (s : State) : Active :=
  s.core.cp.act.headD { cmd := s.core.newCmd .close (.cclose k0 0), got := [], done := [], fail := none, took := [], applied := false, rfDone := false, baDone := false,
                         past := [], spare := [], pins := [], race := none, ahead := [] }

/-- From the heap to the heap: the command is posted, starts as the first of its row whose turn it is, and needs grain 128 of its
source. Core 1 with a command, and the pointer at it, comes first. -/
theorem test_premise_CommandsStartAndRead :
    let s := copied (hnd 0x1000 2 2) (hnd 0x2000 2 2)
    let t := begun (hnd 0x1000 2 2) (hnd 0x2000 2 2)
    let a := firstAct t
    let x := t.grainOf (a.cmd.ctx 0) .read 2 0 128 (t.choice 0 a 2 0 128 0)
    let other : State := { s with parked := [(1, s.core)], eptr := vset s.eptr 0 1 }
    (s.clockStopped 0 = false ∧ s.core.issuing = false ∧ (vget s.eptr (0 / 16) 0).toNat = 0 ∧
      s.core.cp.cmds.length = 1 ∧ s.core.cp.cmds.all (fun m => s.mayStart 0 m && !m.retime) = true ∧ s.core.cp.act = []) ∧
    ((∀ k < 16, (k + 16 - 0) % 16 < (0 + 16 - 0) % 16 → s.canStart k = false) ∧
      (1 / 16 = 0 / 16 ∧ (1 % 16 + 16 - 1) % 16 < (0 % 16 + 16 - 1) % 16 ∧ other.canStart 1 = true)) ∧
    (withCl fun c => { c with parked := true }).clockStopped 0 = true ∧
    (t.core.actOf 0).isSome = true ∧ t.core.cp.act.length = 1 ∧ t.core.cp.cmds = [] ∧
    (2, 128) ∈ walkNeeds (t.seen 0 a) a ∧ t.unreachable x = false ∧ t.writeBefore 0 0 (x.home, x.num) = false ∧ x.loc = none ∧
    t.core.cp.cb = [] ∧ x.checked = false ∧
    t.pathWaits 0 a (tookKey 2 a.cmd.sWin 128) x = false ∧ t.replyRoom 0 = true ∧ vget t.reply 0 0 < 1024 ∧ a.past.isEmpty = true ∧ x.stat.contains 0x16 = false ∧ (t.core.written a).isEmpty = true ∧
    (t.stands 0 a { a with got := [{ space := 2, grain := 128, got := t.readGrain x }] }).isSome = true := by decide +kernel

/-- Its source read; its destination grain 64 merged. -/
def readIn (hd hs : BitVec 256) : State := next (exec (.read 0 0 2 128 0) (begun hd hs))
def far : BitVec 256 := hnd 0x1000 2 2
def src : BitVec 256 := hnd 0x2000 2 2
def merged : State := next (exec (.merge 0 0 64 0) (readIn far src))

/-- A grain that a later write has passed. -/
theorem test_premise_passed_grains :
    let t := begun far src
    let y : GotGrain := { space := 2, grain := 128, got := List.replicate 64 (0, 7) }
    let u := t.setAct 0 { firstAct t with past := [y] }
    let a := firstAct u
    (u.core.actOf 0).isSome = true ∧ (2, 128) ∈ walkNeeds (u.seen 0 a) a ∧
    a.past.find? (fun z => z.space = 2 && z.grain = 128) = some y ∧ (u.stands 0 a { a with got := a.got ++ [y] }).isSome = true := by
  decide +kernel

theorem test_premise_races :
    let t := begun far src
    let raced : State := { t with tags := [{ grain := 128, writer := 5, region := 0 }] }
    let own : State := { t with tags := [{ grain := 128, writer := 0, region := 0 }] }
    raced.races 0 (firstAct t).cmd 128 = true ∧ t.races 0 (firstAct t).cmd 128 = false ∧ own.races 0 (firstAct t).cmd 128 = false := by
  decide +kernel

theorem test_premise_WritesMergeAndBecomeVisible :
    let s := readIn far src
    let a := firstAct s
    let w := s.seen 0 a
    let x := s.grainOf (a.cmd.ctx 0) .write 2 0 64 (s.choice 0 a 2 0 64 0)
    let h := (x.home, x.num)
    let e := merged.core.cp.cb.headD { home := .host, grain := 0, lone := false, epoch := 0, parts := [] }
    (s.clockStopped 0 = false ∧ (s.core.actOf 0).isSome = true ∧ 2 ≤ a.cmd.dSpace ∧ a.cmd.red = false ∧ 64 ∈ required w a ∧
      2 * 64 ∉ a.done ∧ grainReady w a 64 = true ∧ s.readFirst 0 a w (lastUnit w 64) h = false ∧
      s.writeFirst 0 a w .write 64 h = false ∧ s.writeBefore 0 0 h = false ∧ s.readBefore 0 0 h = false ∧
      s.pathWaits 0 a (tookKey 2 a.cmd.dWin 64) x = false ∧ x.pheld = false ∧ a.pins.isEmpty = true ∧ (s.readAhead 0 a.cmd h).isSome = true ∧ s.core.cp.cb = [] ∧ x.stat.all (· = 0) = true) ∧
    (let f : CbEnt := { home := x.home, grain := x.num, lone := false, epoch := a.cmd.frel, parts := [] }
     f.home = x.home ∧ f.grain = x.num ∧ f.lone = false ∧ flagREL a.cmd.flags = false ∧ f.epoch = a.cmd.frel) ∧
    merged.core.cp.cb.length = 1 ∧ e.parts ≠ [] ∧ e.home = .dev ∧ e.parts.all (fun p => merged.partStatus 0 e p = 0) = true ∧
    e.parts.all (fun p => merged.partHeld 0 p = false ∧ p.covered = false) = true ∧
    merged.together 0 merged.core.cp.cb.length [e] = some [e] ∧ merged.claimed 0 (e.home, e.grain) = false ∧
    (e.parts.foldl (fun r p => r.bind fun t => t.settlePart 0 p) (some merged)).isSome = true ∧
    (vget (firstAct merged).cmd.xlat 6 0).getLsbD 63 = false := by decide +kernel

/-- The same with a covered part, and a write of another core that is not released: the part fails, and leaves the buffer. -/
theorem test_premise_a_part_that_fails :
    let cover (s : State) : State := { s.onCore (fun c => { c with cp := { c.cp with cb := c.cp.cb.map fun e =>
      { e with parts := e.parts.map fun p => { p with covered := true } } } }) with tags := [{ grain := 64, writer := 5, region := 0 }] }
    let s := cover merged
    s.core.cp.cb.all (fun e => s.together 0 1 [e] = some [e] ∧ e.parts.length = 1 ∧ e.parts.all (fun p => s.partStatus 0 e p = 0x0B ∧
      ((s.failPart 0 p 0x0B).map fun u => u.core.cp.cb) = some [])) = true ∧ s.core.cp.cb.length = 1 := by decide +kernel

/-- CATOM.add of the word at 0x1000 of the heap, started; its reply. -/
def atomed : State := next (exec (.start 0) (next (exec (.catom k0 .add false false 2 3 4 0) (copyS far src))))

theorem test_premise_AtomicsArePerformedAndAnswered :
    let a := firstAct atomed
    let ad := a.cmd.atomAt
    let x := atomed.grainOf (a.cmd.ctx 0) .atomic 2 0 (ad / 64) (atomed.choice 0 a 2 0 (ad / 64) 0)
    let t := next (exec (.atomic 0 0 (ad / 64) 0) atomed)
    let sick : State := { atomed with poison := [64] }
    let host := next (exec (.start 0) (next (exec (.catom k0 .xor false false 2 3 4 0) (copyS far src))))
    (atomed.clockStopped 0 = false ∧ (atomed.core.actOf 0).isSome = true ∧ a.cmd.kind = .catom ∧ a.got.isEmpty = true ∧ ad = 0x1000 ∧
      x.held = false ∧ atomed.atomicBefore 0 0 (x.home, x.num) = false ∧ atomed.pathWaits 0 a (tookKey 2 a.cmd.dWin (ad / 64)) x = false ∧ atomed.dirtyHeld (a.cmd.ctx 0) ad = false ∧
      (((atomed.readGrain x).drop 0).take 4).all (fun p => p.1 = 0) = true ∧ x.leaf = none ∧ x.home = .dev ∧
      atomed.core.replayMode = 0 ∧ a.cmd.atomOp.1 = .add ∧ hostOp .add = true) ∧
    ((firstAct host).cmd.atomOp.1 ∉ [AtomOp.swap, .add, .cas]) ∧
    ((((sick.readGrain x).drop 0).take 4).find? (fun q => q.1 ≠ 0)).isSome = true ∧
    (firstAct t).got.isEmpty = false ∧ t.core.phase = .arrive := by decide +kernel

/-- The atomic of a command whose heap lies behind a held link. -/
theorem test_premise_held_atomics :
    let s := keyed (next (exec (.start 0) (next (exec (.catom k0 .add false false 2 3 4 0) ((copyS far src).onCore farHeap)))))
    let a := firstAct s
    (s.core.actOf 0).isSome = true ∧ a.cmd.kind = .catom ∧ a.got.isEmpty = true ∧
    (s.grainOf (a.cmd.ctx 0) .atomic 2 0 (a.cmd.atomAt / 64) (s.choice 0 a 2 0 (a.cmd.atomAt / 64) 0)).held = true := by decide +kernel

theorem test_premise_contributions :
    let s := next (exec (.read 0 0 2 128 0) (next (exec (.start 0) (next (exec (.cred k0 2 1 0 0x0C 0 0 0)
      (copyS (hnd 0x1000 2 1) (hnd 0x2000 2 1)))))))
    let a := firstAct s
    let w := s.seen 0 a
    let y := s.grainOf (a.cmd.ctx 0) .reduce 2 0 64 (s.choice 0 a 2 0 64 0)
    let h := (y.home, y.num)
    let reds := grainReds w (grainEnd w a 64) 64
    let ahead := s.readAhead 0 a.cmd h
    (s.clockStopped 0 = false ∧ (s.core.actOf 0).isSome = true ∧ a.cmd.kind ≠ .catom ∧ a.cmd.red = true ∧ 64 ∈ required w a ∧
      2 * 64 ∉ a.done ∧ grainReady w a 64 = true ∧ y.held = false ∧ s.pathWaits 0 a (tookKey 2 a.cmd.dWin 64) y = false ∧ s.dirtyHeld (a.cmd.ctx 0) (64 * 64) = false ∧ s.readFirst 0 a w (lastUnit w 64) h = false ∧
      a.pins.isEmpty = true ∧ (64 :: reds.flatMap fun r => spanGrains (r.1 : Nat) a.cmd.args.dSz).eraseDups = [64] ∧
      (ahead.bind fun u => u.settle 0 a (u.actNow 0 a) 64).isSome = true ∧ s.writeFirst 0 a w .reduce 64 h = false ∧ s.writeBefore 0 0 h = false ∧ s.readBefore 0 0 h = false ∧
      s.atomicBefore 0 0 h = false ∧ s.core.cp.cb = [] ∧ (s.readGrain y).all (fun p => p.1 = 0) = true ∧ s.core.replayMode = 0) ∧
    (reds.map (·.1) = [0x1000] ∧ 0x1000 % 64 + a.cmd.args.dSz ≤ 64 ∧ y.home = .dev ∧ y.leaf = none) := by
  decide +kernel

/-- A dirty log behind held links. -/
theorem test_premise_held_logs :
    let s := keyed (next (exec (.start 0) (next (exec (.catom k0 .add false false 2 3 4 0)
      ((copyS far src).onCore fun c => c.setCsr .dirtymap 0x8000007000000000)))))
    let a := firstAct s
    (s.core.actOf 0).isSome = true ∧ a.cmd.kind = .catom ∧ a.got.isEmpty = true ∧ a.cmd.dSpace = 2 ∧
    s.dirtyHeld (a.cmd.ctx 0) a.cmd.atomAt = true := by decide +kernel

/-- A full reply space of engine 0, of which nothing has been given back: how much has, is a free value. -/
def full : State := { begun far src with reply := vset (begun far src).reply 0 1024 }
theorem test_premise_reply_space (h : Config.sunk full.free = 0) :
    ((2, 128) ∈ walkNeeds (full.seen 0 (firstAct full)) (firstAct full) ∧ (firstAct full).past.isEmpty = true ∧
      vget (begun far src).reply 0 0 < 1024) ∧ full.replyRoom 0 = false := by
  have k : vget full.reply 0 0 = 1024 := by decide +kernel
  exact ⟨by decide +kernel, by simp [State.replyRoom, h, k]⟩

/-- A contribution whose grain lies behind a held link. -/
theorem test_premise_held_contributions :
    let t := next (exec (.read 0 0 2 128 0) (next (exec (.start 0) (next (exec (.cred k0 2 1 0 0x0C 0 0 0)
      (copyS (hnd 0x1000 2 1) (hnd 0x2000 2 1)))))))
    let b := firstAct t
    let s := keyed (t.setAct 0 { b with cmd := { b.cmd with xlat := vset b.cmd.xlat 2 0x7000000000 } })
    let a := firstAct s
    let w := s.seen 0 a
    (s.core.actOf 0).isSome = true ∧ a.cmd.red = true ∧ 64 ∈ required w a ∧ grainReady w a 64 = true ∧ 2 * 64 ∉ a.done ∧
    a.pins.isEmpty = true ∧ (s.grainOf (a.cmd.ctx 0) .reduce 2 0 64 (s.choice 0 a 2 0 64 0)).held = true := by decide +kernel

def near : BitVec 256 := hnd 0x100 0 2

theorem test_premise_deliveries :
    let s := readIn near src
    let a := firstAct s
    let x := s.localGrain 0 4 true
    (s.core.actOf 0).isSome = true ∧ a.cmd.kind = .copy ∧ a.cmd.dSpace = 0 ∧ a.cmd.due = none ∧ s.core.phase = .arrive ∧
    s.core.r.pres = [] ∧ 64 * 4 + 64 ≤ 0x200000 ∧ (deliverable (s.seen 0 a) a 4).isSome = true ∧ 2 * 4 ∉ a.done ∧
    s.writeBefore 0 0 (x.home, x.num) = false ∧ s.readBefore 0 0 (x.home, x.num) = false ∧ x.stat.all (· = 0) = true ∧
    s.readFirst 0 a (s.seen 0 a) (lastUnit (s.seen 0 a) 4) (x.home, x.num) = false ∧
    (s.readAhead 0 a.cmd (x.home, x.num)).isSome = true ∧ a.cmd.wholeBlocks = false ∧ s.clockStopped 0 = false := by decide +kernel

theorem test_premise_groups :
    let s (g : Group) := on fun c => { c with cp := { c.cp with groups := [g] } }
    let g := { group 3 with tq := 9 }
    let bad := { group 3 with fail := some (0, { status := 8, faddr := 0, poff := none }) }
    (s g).groupReady 0 g = true ∧ (s bad).groupReady 0 bad = true ∧ (s (group 3)).groupReady 0 (group 3) = true ∧
    State.reset.core.phase = .arrive ∧ State.reset.clockStopped 0 = false ∧ (s g).core.cp.groups.find? (fun y => y.id = 3) = some g := by decide

/-- COPY of two elements from the heap to the scratchpad with RF and BA, delivered: 8 bytes. -/
def hooked (f : Core → Core) : State :=
  let s := next (exec (.copy k0 2 1 0 0 0 0b110000 0x05) (copyS near src))
  let t := next (exec (.deliver 0 0 8) (next (exec (.read 0 0 2 128 0) (next (exec (.start 0) s)))))
  t.onCore f

theorem test_premise_hooks :
    let a := firstAct (hooked id)
    let bar (s : State) := vget s.core.q.bar 0 .reset
    let ring (s : State) := vget s.core.q.ring 5 .reset
    let post (n : W32) (c : Core) : Core := { c with q := { c.q with bar := vset c.q.bar 0 { posted := true, phase := false, pending := n } } }
    ((hooked id).core.actOf 0).isSome = true ∧ a.cmd.dSpace = 0 ∧ (hooked id).core.phase = .arrive ∧ (hooked id).settled 0 a = true ∧
    (walkFail ((hooked id).seen 0 a) a).isNone = true ∧ a.cmd.flags.getLsbD 4 = true ∧ a.cmd.flags.getLsbD 5 = true ∧
    a.rfDone = false ∧ a.baDone = false ∧ (a.cmd.aux.extractLsb' 0 4).toNat = 5 ∧ walkCount ((hooked id).seen 0 a) = 8 ∧
    (ring (hooked id)).valid = false ∧ (hooked id).clockStopped 0 = false ∧
    (let s := hooked fun c => { c with q := { c.q with ring := vset c.q.ring 5 ring4 } }
     (ring s).valid = true ∧ ((ring s).claimed - (ring s).tail).toNat ≠ 0) ∧
    0 < (bar (hooked (post 9))).pending.toInt - 8 ∧ (bar (hooked (post 8))).pending.toInt - 8 = 0 ∧
    (bar (hooked (post 7))).pending.toInt - 8 < 0 ∧
    ((bar (hooked id)).posted = false ∧ -(2 ^ 31) ≤ (bar (hooked id)).pending.toInt - 8) := by decide +kernel

def ratom (opa : Nat) (reply : Option (W64 × BitVec 8 × W64)) : RAtom :=
  { seq := 0, opa := opa, op := .add, w64 := true, b := 1, c := 0, sq := 1, sn := 0, sup := false, reply := reply }
def asking (opa : Nat) (reply : Option (W64 × BitVec 8 × W64)) : State :=
  let c := { placed.core with phase := .arrive }
  { placed with core := { c with cp := { c.cp with ratoms := [ratom opa reply] } }, parked := [(1, c)] }

theorem test_premise_RemoteAtomsAndDeadlinesAct :
    let s := asking (2 ^ 22 + 0xFFFF8) none
    let tc := s.getCore 1
    s.core.cp.ratoms = [ratom (2 ^ 22 + 0xFFFF8) none] ∧ tc.phase = .arrive ∧ s.diesDown (0 / 512) (1 / 512) = false ∧
    s.clockStopped 1 = false ∧ s.diesHeld (0 / 512) (1 / 512) = false ∧ s.clockStopped 0 = false ∧
    tc.runs = true ∧ tc.tenant = s.core.tenant ∧ (2 ^ 22 + 0xFFFF8) % 2 ^ 22 < 0x100000 ∧ tc.presOf (0xFFFF8 / 0x1000) = .present ∧
    s.core.replayMode ≠ 2 ∧ ¬((s.getCore 2).runs = true) ∧ State.reset.diesDown 0 (1024 / 512) = true ∧
    (asking 0 (some (0, 0, 0))).core.cp.ratoms = [ratom 0 (some (0, 0, 0))] := by decide

/-- A timed copy at its deadline, still unstarted; started and read. -/
theorem test_premise_deadlines :
    let due (s : State) : State := s.onCore fun c => { c with cp := { c.cp with
      cmds := c.cp.cmds.map (fun m => { m with due := some 0 }),
      act := c.cp.act.map (fun a => { a with cmd := { a.cmd with due := some 0 } }) } }
    let s := due (copied near src)
    let t := due (readIn near src)
    let runs (s : State) : State := s.onCore fun c => { c with job := some someJob }
    let a := firstAct t
    let h := t.timedHome 0 a 4
    let lost := next (exec (.read 0 0 2 128 0) { due (begun near src) with poison := [128] })
    let gone := t.onCore fun c => c.setPres 0 .absent
    -- an earlier untimed command that still reads what the timed one writes
    let older := t.onCore fun c => { c with cp := { c.cp with act := (firstAct (begun far near) :: [{ a with cmd := { a.cmd with id := 1 } }]) } }
    (s.core.phase = .arrive ∧ s.core.cp.cmds.any (fun m => m.due = some 0) = true ∧ s.core.cp.act = [] ∧ s.clockStopped 0 = false ∧
      s.core.t.pulls = [] ∧ (runs s).cur = 0 ∧ (runs s).core.job = some someJob ∧ someJob.phase = .running) ∧
    (t.core.cp.cmds.isEmpty = true ∧ t.core.cp.act.length = 1 ∧ a.cmd.due = some 0 ∧ a.applied = false ∧
      (t.core.actOf a.cmd.id).isSome = true ∧ decided (t.seen 0 a) a = true ∧ (walkFail (t.seen 0 a) a).isNone = true ∧
      ((t.core.before a.cmd.id).map (·.cmd.id)) = [] ∧ t.deadlinePulls 0 = [] ∧
      t.dueNext.isSome = true ∧ t.cur = 0 ∧ t.core.dueNow = true ∧ a.cmd.dSpace = 0 ∧ t.core.r.pres = [] ∧
      (timedData (t.seen 0 a)).map (·.1) = [4] ∧ (t.readAhead 0 a.cmd h).isSome = true) ∧
    (let u := due (begun near src)
     u.core.cp.cmds.isEmpty = true ∧ u.core.cp.act.length = 1 ∧ (firstAct u).cmd.due = some 0 ∧
       decided (u.seen 0 (firstAct u)) (firstAct u) = false) ∧
    (lost.core.cp.act.length = 1 ∧ decided (lost.seen 0 (firstAct lost)) (firstAct lost) = true ∧
      (walkFail (lost.seen 0 (firstAct lost)) (firstAct lost)).isSome = true ∧ (firstAct lost).isDue = true) ∧
    (gone.deadlineWaits 0 = false ∧ gone.deadlinePulls 0 = [0]) ∧
    ((older.core.before 1).map (·.cmd.due) = [none] ∧ older.deadlineWaits 0 = true) := by decide +kernel

theorem test_premise_CodesHaveTheirValuesAndConvertBack :
    (0xFF : Nat) < 2 ^ FFmt.e4m3.width ∧ (0x7C / 2 ^ FFmt.e5m2.frac % 2 ^ (FFmt.e5m2.width - 1 - FFmt.e5m2.frac) = 31 ∧ FFmt.e5m2.hasInf = true) ∧
    (0x7F / 2 ^ FFmt.e4m3.frac % 2 ^ (FFmt.e4m3.width - 1 - FFmt.e4m3.frac) = 15 ∧ 0x7F % 2 ^ FFmt.e4m3.frac = 7) ∧
    ¬(0x7E % 2 ^ FFmt.e4m3.frac = 7) ∧ FFmt.e4m3.hasInf = false := by decide

/-- Values at a code, between two codes, above the largest one within its gap and far beyond it; between two integers. -/
theorem test_premise_RoundingsChooseANeighbour :
    let mag (f : FFmt) (c : Nat) : ℚ := if c < 2 ^ f.frac then 2 ^ (1 - (f.bias : Int)) * ((c : ℚ) / 2 ^ f.frac)
      else 2 ^ (((c / 2 ^ f.frac : Nat) : Int) - f.bias) * (1 + ((c % 2 ^ f.frac : Nat) : ℚ) / 2 ^ f.frac)
    let y (m : Nat) (e : Int) : ℚ := (m : ℚ) * 2 ^ e
    let top := FFmt.e2m1.maxCode
    let gap := mag .e2m1 top - mag .e2m1 (top - 1)
    y 3 (-1) = mag .e2m1 3 ∧ (2 < top ∧ mag .e2m1 2 < y 5 (-2) ∧ y 5 (-2) < mag .e2m1 3) ∧
    (mag .e2m1 top < y 13 (-1) ∧ y 13 (-1) < mag .e2m1 top + gap ∧ ¬(gap < 2 * (y 13 (-1) - mag .e2m1 top)) ∧
      ¬(gap = 2 * (y 13 (-1) - mag .e2m1 top) ∧ top % 2 = 1)) ∧
    (mag .e2m1 top + gap < y 100 0 ∧ FFmt.e2m1.hasInf = false) ∧
    (mag .fp16 FFmt.fp16.maxCode < y 1 20 ∧ FFmt.fp16.hasInf = true) ∧
    (((1 : Nat) : ℚ) ≤ y 5 (-2) ∧ y 5 (-2) < (1 : Nat) + 1) := by decide +kernel

/-- A block of zeros but for one value that the largest scale of SEL 3 does not reach; values at, between and above the codes of a
selector. -/
theorem test_premise_QuantisedBlocksChooseTheirCodes :
    let xs : List Nat := 0x7F7FFFFF :: List.replicate 255 0
    let val (m : Nat) (e : Int) : ℚ := (m : ℚ) * 2 ^ e
    let mag (x : X) : ℚ := match x with
      | .fin _ m e => val m e
      | _ => 0
    let grid (k : Nat) : ℚ := mag (decSel true 0 k)
    (xs.length = 256 ∧ (∀ x ∈ xs, x < 2 ^ 32) ∧ (8 : Nat).testBit 3 = true) ∧
    (127 : ℚ) ≤ val 127 0 ∧ (5 < 127 ∧ grid 5 ≤ val 5 0 ∧ val 5 0 < grid 6) ∧ (grid 5 < val 11 (-1) ∧ val 11 (-1) < grid 6) ∧
    (∀ c ∈ ([0, 1, 255, 0xFEFE, 0xFEFF] : List Nat), (if c < 256 then (c : ℚ) / 2 ^ 134 else
      2 ^ (((c / 256 : Nat) : Int) - 127) * (1 + ((c % 256 : Nat) : ℚ) / 256)) * 1 < mag (dec32 0x7F7FFFFF)) := by decide +kernel

/-- Units that touch grains 0 and 1, the second one failing or not, and one that met a race; the number of a unit is its place. -/
theorem test_premise_CommandsPerformWhatPrecedesAFailure :
    let put (a : Int) : Ev Piece := .val { pos := 0, writes := [(a, [1, 2, 3, 4])] }
    let unit (i : Nat) (a : Int) (r : Ev Piece) : Seen :=
      { idx := i, unit := { pos := i, dest := fun _ => [(a, 4)], run := fun _ => r }, res := r, grains := [a.toNat / 64] }
    let good := [unit 0 0 (put 0), unit 1 64 (put 64)]
    let fails := [unit 0 0 (put 0), unit 1 64 (.err 5 0), unit 2 128 (put 128)]
    let races := [unit 0 64 (.err 0x0B 64)]
    let a := firstAct (begun far src)
    ((firstAct (begun far src)).fail.isNone = true ∧ a.cmd.wholeBlocks = false ∧ 2 ≤ a.cmd.dSpace) ∧
    [good, fails, races].all (fun w => w.map (·.idx) == List.range w.length) = true ∧
    (0 ∈ required good a ∧ 1 ∈ required good a ∧ 0 ∈ required fails a ∧ 1 ∉ required fails a) ∧
    ((deliverable fails a 1).isNone = true ∧ (deliverable fails a 2).isSome = true) ∧
    (races.all (fun u => !u.failed) = true ∧ 1 ∈ spanGrains 64 4 ∧ 1 ∉ required races a) := by decide +kernel

/-- Two elements at 0x100, of a handle that the transforms read: every position lies in place; a table at 0. -/
theorem test_premise_TransformsYieldTheirBytes :
    let h := hnd 0x100 0 2
    hLayout h = 0 ∧ hSpace h = 0 ∧ esz (hEt h) = 4 ∧ walkPos h = [⟨0, 0, 0, 0⟩, ⟨1, 0, 0, 0⟩] ∧ walkBlocks h = [(0, 0, 2)] ∧
    (∀ p, inExt h p = true → p = ⟨0, 0, 0, 0⟩ ∨ p = ⟨1, 0, 0, 0⟩) ∧
    (elemAddr h ⟨0, 0, 0, 0⟩ = 0x100 ∧ elemAddr h ⟨1, 0, 0, 0⟩ = 0x104 ∧ elemAddr h ⟨1, 0, 0, 0⟩ % 4 = 0) ∧
    (0 : W64).toNat % 2 ^ 22 + 4 * (hExt h 1 * (hExt h 2 * hExt h 3)) ≤ 2 ^ 22 := by
  refine ⟨by decide, by decide, by decide, by decide +kernel, by decide +kernel, ?_, by decide +kernel, by decide +kernel⟩
  intro p hp
  have e : hExt (hnd 0x100 0 2) 0 = 2 ∧ hExt (hnd 0x100 0 2) 1 = 1 ∧ hExt (hnd 0x100 0 2) 2 = 1 ∧ hExt (hnd 0x100 0 2) 3 = 1 := by
    decide +kernel
  simp only [inExt, e.1, e.2.1, e.2.2.1, e.2.2.2, Bool.and_eq_true, decide_eq_true_eq] at hp
  cases p
  simp only [Pos.mk.injEq] at hp ⊢
  omega

/-- Handles of blocks in place: NC blocks at 0x100 and 0x1000, and a packed one whose word names one block. -/
theorem test_premise_blocks_of_transforms :
    let blk (a : Nat) (lay : Nat) : BitVec 256 := BitVec.ofNat 256 (a + 13 * 2 ^ 216 + 256 * 2 ^ 64 + 2 ^ 80 + 2 ^ 96 + 2 ^ 112 + lay * 2 ^ 236)
    (hEt (blk 0x100 1) = 13 ∧ hLayout (blk 0x100 1) = 1 ∧ hLayout (blk 0x100 2) = 2 ∧ walkBlocks (blk 0x100 1) = [(0, 0, 256)] ∧
      blockAddr (blk 0x100 1) (posAt (blk 0x100 1) 0 0) = 0x100 ∧ (0x100 : Int) % 4 = 0) ∧
    (hdrOk 0 false = true ∧ hdrOk 0x1100 false = false ∧ leNat ([1, 0, 0, 0, 0, 0, 0, 0] : List Byte) = 1) := by decide +kernel

end Sys2Proof.Tests
end

section
/-! PROOFS. CSR words: their decode check and their issue, and what one leaves on its landing tick (14 R330, R349; 13 R314). -/

namespace Sys2Proof.Machine

/-- A fault of the word's own decoding is taken before anything else (02 R37 steps 1 to 3). -/
theorem issue_decodeFaults {p : Plan} {s : State} {f : Flt} (h : p.decode = some f) (eff : State → State) :
    issue p s eff = s.faults p.st f := by
  have hv : verdict s.core p = .fault f := by simp only [verdict, h]
  simp only [issue, hv, State.faults]

/-! ## CSR words at their issue (14 R330, R349) -/

theorem Core.csrFault_of_allowed {c : Core} {ok : Bool} (h : c.inSup = true ∨ ok = true) : c.csrFault ok = none := by
  rcases h with h | h <;> simp [Core.csrFault, Core.privileged, h]

theorem Core.csrFault_of_refused {c : Core} {ok : Bool} (h : ¬(c.inSup = true ∨ ok = true)) :
    c.csrFault ok = some (flt 0x02) := by
  rw [not_or, Bool.not_eq_true, Bool.not_eq_true] at h
  simp [Core.csrFault, Core.privileged, h]

/-- The CSRs that user mode may read. -/
theorem csr_userRead_iff (n : Csr) : n.userRead = true ↔ n ∈ ([.seed, .streamid, .cls, .divs, .throttle, .tick, .issued,
    .slice, .breach, .satflags, .fpflags, .tenant, .jobidx] : List Csr) := by
  cases n <;> decide

/-- The CSRs that user mode may write. -/
theorem csr_userWrite_iff (n : Csr) : n.userWrite = true ↔ n = .satflags ∨ n = .fpflags := by
  cases n <;> decide

/-- The CSRs that no CSR word changes. -/
theorem csr_not_writable_iff (n : Csr) : n.writable = false ↔ n ∈ ([.status, .cause, .faddr, .finfo, .seed, .streamid, .cls,
    .divs, .throttle, .tenant, .jobidx] : List Csr) := by
  cases n <;> decide

theorem execCsrr_allowed {c : Ctl} {s : State} (h : s.core.clear c) (d : BitVec 6) {n : Csr}
    (hr : s.core.inSup = true ∨ n.userRead = true) : execCsrr c d n s = s.yields c d 1 (s.core.csr n) :=
  issue_clear h (Core.csrFault_of_allowed hr) rfl rfl rfl rfl rfl _

theorem execCsrr_refused (c : Ctl) (d : BitVec 6) {n : Csr} {s : State} (hr : ¬(s.core.inSup = true ∨ n.userRead = true)) :
    execCsrr c d n s = s.faults .a (flt 0x02) :=
  issue_decodeFaults (Core.csrFault_of_refused hr) _

theorem csrWord_allowed {c : Ctl} {s : State} (h : s.core.clear c) (op : CsrOp) (d a : BitVec 6) {n : Csr}
    (hw : s.core.inSup = true ∨ n.userWrite = true) :
    csrWord c op d a n s = s.goes (.of .a c s.core.sa.div [.csr n op (s.core.sreg a) (s.core.oldTo d)]) := by
  refine issue_goes h (Core.csrFault_of_allowed hw) rfl rfl rfl rfl rfl ?_
  exact Core.issued_congr rfl rfl rfl rfl (Nat.one_mul _) rfl rfl rfl rfl rfl

theorem csrWord_refused (c : Ctl) (op : CsrOp) (d a : BitVec 6) {n : Csr} {s : State}
    (hw : ¬(s.core.inSup = true ∨ n.userWrite = true)) : csrWord c op d a n s = s.faults .a (flt 0x02) :=
  issue_decodeFaults (Core.csrFault_of_refused hw) _

theorem Core.oldTo_eq (c : Core) (d : BitVec 6) : c.oldTo d =
    if d = 0 then none
    else if c.inSup = true ∧ 56 ≤ d.toNat then some (true, d.toNat - 56) else some (false, d.toNat) := by
  simp [Core.oldTo]

/-! ## CSR words on their landing tick (14 R349; 00 R6; 13 R314) -/

/-- The new value of a CSR, bit by bit: reserved bits stay clear (R6). -/
theorem csrNew_getLsbD (n : Csr) (op : CsrOp) (old v : W64) {i : Nat} (hi : i < 64) :
    (csrNew n op old v).getLsbD i = (n.mask.getLsbD i && match op with
      | .write => v.getLsbD i
      | .set => old.getLsbD i || v.getLsbD i
      | .clear => old.getLsbD i && !v.getLsbD i) := by
  cases op <;> simp [csrNew, hi, Bool.and_comm]

/-- The CSRs after a CSR word has landed (R349). -/
def Core.csrsAfter (k : Core) (n : Csr) (op : CsrOp) (v : W64) : Vector W64 37 :=
  if n.writable then vset k.r.csr n.slot (csrNew n op (k.csr n) v) else k.r.csr

/-- What a landing CSR word leaves: the CSRs, the note of a write of SLICE, and the scalar that takes the old value. -/
theorem Core.landCsr_eq (k : Core) (n : Csr) (op : CsrOp) (v : W64) (res : Option (Bool × Nat)) :
    k.landCsr n op v res = { k with
      r := { k.r with
        csr := k.csrsAfter n op v
        s := match res with
          | some (false, j) => if j = 0 then k.r.s else vset k.r.s j (k.csr n)
          | _ => k.r.s
        sh := match res with
          | some (true, j) => vset k.r.sh j (k.csr n)
          | _ => k.r.sh }
      t := { k.t with sliced := n = .slice || k.t.sliced } } := by
  have hc : (if n.writable then k.setCsr n (csrNew n op (k.csr n) v) else k) =
      { k with r := { k.r with csr := k.csrsAfter n op v } } := by
    unfold Core.csrsAfter
    split <;> rfl
  unfold Core.landCsr
  simp only [hc]
  by_cases hn : n = .slice
  · subst hn
    match res with
    | none | some (true, _) => rfl
    | some (false, j) => by_cases hj : j = 0 <;> simp [hj, Core.putScalar]
  · match res with
    | none | some (true, _) => simp [hn, Core.putShadow]
    | some (false, j) => by_cases hj : j = 0 <;> simp [hn, hj, Core.putScalar]

theorem Core.landCsr_csr_same (k : Core) (n : Csr) (op : CsrOp) (v : W64) (res : Option (Bool × Nat)) :
    (k.landCsr n op v res).csr n = if n.writable then csrNew n op (k.csr n) v else k.csr n := by
  rw [Core.landCsr_eq]
  show vget (k.csrsAfter n op v) n.slot 0 = _
  unfold Core.csrsAfter
  split
  · exact vget_vset_same _ _ _ _ (csrSlot_lt n)
  · rfl

theorem Core.landCsr_csr_other (k : Core) {n m : Csr} (op : CsrOp) (v : W64) (res : Option (Bool × Nat)) (h : m ≠ n) :
    (k.landCsr n op v res).csr m = k.csr m := by
  rw [Core.landCsr_eq]
  show vget (k.csrsAfter n op v) m.slot 0 = _
  unfold Core.csrsAfter
  split
  · exact vget_vset_other _ _ _ _ _ (csrSlot_inj h.symm)
  · rfl

/-- The job's scalars after the landing: the one that takes the old value, s0 never. -/
theorem Core.landCsr_s (k : Core) (n : Csr) (op : CsrOp) (v : W64) (res : Option (Bool × Nat)) {j : Nat} (hj : j < 64) :
    vget (k.landCsr n op v res).r.s j 0 = if res = some (false, j) ∧ j ≠ 0 then k.csr n else vget k.r.s j 0 := by
  rw [Core.landCsr_eq]
  match res with
  | none | some (true, _) => simp
  | some (false, i) =>
    by_cases h0 : i = 0
    · simp [h0]
      omega
    · by_cases hij : i = j
      · subst hij; simp [h0, hj]
      · simp [h0, hij]

/-- The shadow scalars after the landing. -/
theorem Core.landCsr_sh (k : Core) (n : Csr) (op : CsrOp) (v : W64) (res : Option (Bool × Nat)) {j : Nat} (hj : j < 8) :
    vget (k.landCsr n op v res).r.sh j 0 = if res = some (true, j) then k.csr n else vget k.r.sh j 0 := by
  rw [Core.landCsr_eq]
  match res with
  | none | some (false, _) => simp
  | some (true, i) =>
    by_cases hij : i = j
    · subst hij; simp [hj]
    · simp [hij]

/-- Settles O15: a CSR word in user mode passes its decode check exactly for the CSRs listed, and on its landing tick it leaves
the state of `Core.landCsr_eq`. -/
theorem csrWordsReadAndChange : Obligations.CsrWordsReadAndChange := by
  unfold Obligations.CsrWordsReadAndChange
  refine ⟨fun c d a n s h => ?_, fun k n op v res => ?_⟩
  · dsimp only
    rw [← csr_userRead_iff, ← csr_userWrite_iff, ← Core.oldTo_eq]
    refine ⟨fun hr => execCsrr_allowed h d hr, fun hr => execCsrr_refused c d hr, fun hw => ?_, fun hw => ?_⟩
    · exact ⟨csrWord_allowed h .write d a hw, csrWord_allowed h .set d a hw, csrWord_allowed h .clear d a hw⟩
    · exact ⟨csrWord_refused c .write d a hw, csrWord_refused c .set d a hw, csrWord_refused c .clear d a hw⟩
  · refine ⟨fun i hi => ?_, fun m hm => k.landCsr_csr_other op v res hm, fun j hj => k.landCsr_s n op v res hj,
      fun j hj => k.landCsr_sh n op v res hj, ?_, ?_⟩
    · rw [k.landCsr_csr_same]
      cases hn : n.writable
      · rw [if_neg Bool.false_ne_true, if_pos ((csr_not_writable_iff n).mp hn)]
      · rw [if_pos rfl, if_neg fun hf => Bool.false_ne_true (((csr_not_writable_iff n).mpr hf).symm.trans hn)]
        exact csrNew_getLsbD n op (k.csr n) v hi
    · rw [k.landCsr_eq]
    · rw [k.landCsr_eq]
      simp

end Sys2Proof.Machine
end

section
/-! PROOFS. MMA at its issue: its wait, its format word, its headers, and what it leaves in flight (05 R117, R119). -/

namespace Sys2Proof.Machine

/-! ## Format words (05 R114 to R117) -/

/-- A register that is not lent, or a core in hot class: no LENT fault (R117 step 1). -/
theorem Core.lentReg_usable {c : Core} {n : BitVec 3} (h : n.toNat < 4 ∨ c.hot = true) (addr : Nat) :
    c.lentReg addr n = none := by
  rcases h with h | h
  · simp [Core.lentReg, Nat.not_le.mpr h]
  · simp [Core.lentReg, h]

theorem Core.fmtWord_cons {c : Core} {e : QEnt} {rest : List QEnt} (h : c.dq .fq = e :: rest) : c.fmtWord = e.val.toNat := by
  simp [Core.fmtWord, Core.headVal, h]

/-- A good format word at the head of fq passes steps 2 and 3 of R117. -/
theorem Core.fmtFault_good {c : Core} {e : QEnt} {rest : List QEnt} (h : c.dq .fq = e :: rest)
    (hok : fmtOk e.val.toNat = true) : c.fmtFault none true = none := by
  simp [Core.fmtFault, h, Core.fmtWord_cons h, hok]

/-! ## Headers (R117 step 5; 03 R65) -/

/-- No header is bad. -/
theorem headerFault_none {s : State} {wc : Bool} {n : Nat} {at' : Nat → Nat}
    (h : ∀ i < n, hdrOk (s.getLe (at' i) 4) wc = true) : headerFault s wc ((List.range n).map at') = none := by
  simp only [headerFault, Option.map_eq_none_iff, List.find?_eq_none, List.mem_map, List.mem_range]
  rintro _ ⟨i, hi, rfl⟩
  simp [h i hi]

/-- The first bad header is the one told. -/
theorem headerFault_first {s : State} {wc : Bool} {n i : Nat} {at' : Nat → Nat} (hi : i < n)
    (hbad : hdrOk (s.getLe (at' i) 4) wc = false) (h : ∀ q < i, hdrOk (s.getLe (at' q) 4) wc = true) :
    headerFault s wc ((List.range n).map at') = some (flt 0x05 (at' i)) := by
  have hf : (List.range n).find? (fun q => !hdrOk (s.getLe (at' q) 4) wc) = some i := by
    rw [List.find?_range_eq_some]
    exact ⟨by simp [hbad], List.mem_range.mpr hi, fun q hq => by simp [h q hq]⟩
  rw [headerFault, List.find?_map]
  simp only [Function.comp_def, hf, Option.map_some]

/-! ## A fault of a tile command's tables or headers (R117) -/

/-- Under `Core.clear` a fault decided after the touches is taken where the word's description raises none. -/
theorem issue_midFaults {p : Plan} {s : State} {f : Flt} (h : s.core.clear p.ctl) (h1 : p.decode = none)
    (h2 : p.preWait = none) (h3 : p.wait = false) (h4 : p.fault = none) (h5 : p.mid = some f) (eff : State → State) :
    issue p s eff = s.faults p.st f := by
  obtain ⟨hp, he, hl, ht, hb, hs⟩ := h
  have hs' : ¬((p.ctl.pushes ≠ 0 && decide (64 < (s.core.tokens p.ctl.sq).length +
      vget s.core.q.fres p.ctl.sq.toNat 0 + p.ctl.pushes)) = true) := by
    simp only [Bool.and_eq_true, decide_eq_true_eq, not_and]
    intro h; rcases hs with hs | hs <;> omega
  have hv : verdict s.core p = .fault f := by
    simp only [verdict, h1, hl, h2, h3, h4, h5, Core.absentIn_present hp, Core.earlyIn_off he, Core.earlyRegs_off he,
      Core.poisonIn_present hp, hb, if_neg (Nat.not_lt.mpr ht), if_neg hs', Option.none_or, Option.some_or]
    simp
  simp only [issue, hv, State.faults]

/-! ## MMA at its issue (R117, R119, R122) -/

/-- A stream keeps its divisor when a word issues. -/
theorem Core.issued_div (c : Core) (p : Plan) (st : StreamId) : ((c.issued p).stream st).div = (c.stream st).div := by
  by_cases h : p.st = st
  · subst h
    rw [Core.issued_stream]
    rfl
  · rw [Core.issued_stream_other _ _ h]

/-- The header check of an operand of n rows (R117 step 5). -/
def mmaHeaders (s : State) (t : BitVec 3) (f n : Nat) : Option Flt :=
  if f ≤ 1 then headerFault s (f = 0) ((List.range n).map fun i => tileAddr t + 0x8000 + 4 * i) else none

theorem mmaHeaders_none {s : State} {t : BitVec 3} {f n : Nat}
    (h : f ≤ 1 → ∀ i < n, hdrOk (s.getLe (tileAddr t + 0x8000 + 4 * i) 4) (f = 0) = true) : mmaHeaders s t f n = none := by
  unfold mmaHeaders
  split
  next hf => exact headerFault_none (h hf)
  next => rfl

theorem mmaHeaders_first {s : State} {t : BitVec 3} {f n i : Nat} (hf : f ≤ 1) (hi : i < n)
    (hbad : hdrOk (s.getLe (tileAddr t + 0x8000 + 4 * i) 4) (f = 0) = false)
    (h : ∀ q < i, hdrOk (s.getLe (tileAddr t + 0x8000 + 4 * q) 4) (f = 0) = true) :
    mmaHeaders s t f n = some (flt 0x05 (tileAddr t + 0x8000 + 4 * i)) :=
  (if_pos hf).trans (headerFault_first (at' := fun i => tileAddr t + 0x8000 + 4 * i) hi hbad h)

/-- An extent of the region; 0 for both where one is 0 (R117). -/
def liveRows (x r : Nat) : Nat := if fmtM x ≠ 0 && fmtN x ≠ 0 then r else 0

theorem liveRows_empty {x : Nat} (h : fmtM x = 0 ∨ fmtN x = 0) (r : Nat) : liveRows x r = 0 := by
  rcases h with h | h <;> simp [liveRows, h]

theorem liveRows_live {x : Nat} (hm : fmtM x ≠ 0) (hn : fmtN x ≠ 0) (r : Nat) : liveRows x r = r := by
  simp [liveRows, hm, hn]

/-- An MMA in flight (R119; 01 R17, 07 R166). -/
def mmaFlight (ctl : Ctl) (a t u : BitVec 3) (e : QEnt) (s : State) (acts : List LAct) : Plan :=
  { Plan.of .m ctl (kEff e.val.toNat * s.core.sm.div + 24 + namesLent [a, t, u]) acts with fmt := e.val }

/-- What an MMA lands; nothing where its region is empty (R117, R122). -/
def mmaActs (a t u : BitVec 3) (e : QEnt) (s : State) : List LAct :=
  let x := e.val.toNat
  if liveRows x (fmtM x) = 0 then []
  else [.mma (accAddr a) e.val (tileBytes s t (liveRows x (fmtM x))) (tileBytes s u (liveRows x (fmtN x)))]

/-- The core after an MMA's issue: its format word is popped, and the array occupied where there is a region (R117, R119). -/
def Core.mmaIssued (k : Core) (x occupied : Nat) : Core :=
  { k.dqDrop .fq 1 with array := if liveRows x (fmtM x) = 0 then k.array else occupied }

section
variable {c : Ctl} {s : State}

/-- An MMA waits while the array is occupied (R119). -/
theorem execMma_waits (h : s.core.clear c) (harr : s.core.array ≠ 0) (a t u : BitVec 3) :
    exec (.mma c a t u) s = .next s := by
  rw [exec_mma]
  unfold execMma
  exact issue_waits h rfl rfl (decide_eq_true harr) _

variable {a t u : BitVec 3} {e : QEnt} {rest : List QEnt}

/-- The header checks of an MMA, rows of the first tile before those of the second (R117). -/
def mmaMid (t u : BitVec 3) (e : QEnt) (s : State) : Option Flt :=
  let x := e.val.toNat
  (mmaHeaders s t (fmtAF x) (liveRows x (fmtM x))).or (mmaHeaders s u (fmtBF x) (liveRows x (fmtN x)))

/-- An MMA that names registers in reach, under a good format word, waits for the array and otherwise faults for a header
alone. -/
theorem execMma_good (ha : a.toNat < 4 ∨ s.core.hot = true) (ht : t.toNat < 4 ∨ s.core.hot = true)
    (hu : u.toNat < 4 ∨ s.core.hot = true) (hq : s.core.dq .fq = e :: rest) (hok : fmtOk e.val.toNat = true) :
    ∃ p : Plan, exec (.mma c a t u) s =
        issue p s (fun y => y.onCore fun k => k.mmaIssued e.val.toNat (kEff e.val.toNat * k.sm.div)) ∧
      p.st = .m ∧ p.ctl = c ∧ p.decode = none ∧ p.preWait = none ∧ p.wait = decide (s.core.array ≠ 0) ∧
      p.fault = none ∧ p.mid = mmaMid t u e s ∧ p.late = none ∧
      s.core.issued p = s.core.issued (mmaFlight c a t u e s (mmaActs a t u e s)) := by
  rw [exec_mma]
  unfold execMma
  simp only [Core.fmtWord_cons hq, Core.lentReg_usable ha, Core.lentReg_usable ht, Core.lentReg_usable hu, Option.none_or,
    Core.fmtFault_good hq hok, Option.isNone_none, Bool.and_true, BitVec.ofNat_toNat, BitVec.setWidth_eq]
  refine ⟨_, rfl, ?_⟩
  exact ⟨rfl, rfl, rfl, rfl, rfl, rfl, rfl, rfl, Core.issued_congr rfl rfl rfl rfl rfl rfl rfl rfl rfl rfl⟩

section
variable (h : s.core.clear c) (harr : s.core.array = 0) (ha : a.toNat < 4 ∨ s.core.hot = true)
  (ht : t.toNat < 4 ∨ s.core.hot = true) (hu : u.toNat < 4 ∨ s.core.hot = true) (hq : s.core.dq .fq = e :: rest)
  (hok : fmtOk e.val.toNat = true)
include h harr ha ht hu hq hok

/-- With good headers an MMA issues (R117, R119). -/
theorem execMma_goes (hmid : mmaMid t u e s = none) :
    exec (.mma c a t u) s = s.goesWith (mmaFlight c a t u e s (mmaActs a t u e s)) fun k =>
      k.mmaIssued e.val.toNat (kEff e.val.toNat * s.core.sm.div) := by
  obtain ⟨p, hp, -, hctl, hdec, hpre, hwait, hfault, hpmid, hlate, hissued⟩ := execMma_good (c := c) ha ht hu hq hok
  rw [hp]
  refine issue_goesWith (hctl ▸ h) hdec hpre ?_ hfault (hpmid.trans hmid) hlate hissued ?_
  · simp [hwait, harr]
  · have hdiv : (s.core.issued (mmaFlight c a t u e s (mmaActs a t u e s))).sm.div = s.core.sm.div :=
      Core.issued_div _ _ .m
    rw [hdiv]

/-- A bad header faults (R117). -/
theorem execMma_faults {f : Flt} (hmid : mmaMid t u e s = some f) : exec (.mma c a t u) s = s.faults .m f := by
  obtain ⟨p, hp, hst, hctl, hdec, hpre, hwait, hfault, hpmid, -, -⟩ := execMma_good (c := c) ha ht hu hq hok
  rw [hp, ← hst]
  refine issue_midFaults (hctl ▸ h) hdec hpre ?_ hfault (hpmid.trans hmid) _
  simp [hwait, harr]

/-- R117: with M or N = 0 an MMA pops its format word and nothing else. -/
theorem execMma_empty (hmn : fmtM e.val.toNat = 0 ∨ fmtN e.val.toNat = 0) :
    exec (.mma c a t u) s = s.goesWith (mmaFlight c a t u e s []) (·.dqDrop .fq 1) := by
  have hmid : mmaMid t u e s = none := by
    simp [mmaMid, liveRows_empty hmn, mmaHeaders, headerFault]
  rw [execMma_goes h harr ha ht hu hq hok hmid]
  simp only [mmaActs, Core.mmaIssued, liveRows_empty hmn, if_true]
  rfl

variable (hm : fmtM e.val.toNat ≠ 0) (hn : fmtN e.val.toNat ≠ 0)
include hm hn

/-- R119, R122: with good headers an MMA reads both tiles, pops its format word and occupies the array. -/
theorem execMma_multiplies
    (hA : fmtAF e.val.toNat ≤ 1 → ∀ i < fmtM e.val.toNat,
      hdrOk (s.getLe (tileAddr t + 0x8000 + 4 * i) 4) (fmtAF e.val.toNat = 0) = true)
    (hB : fmtBF e.val.toNat ≤ 1 → ∀ i < fmtN e.val.toNat,
      hdrOk (s.getLe (tileAddr u + 0x8000 + 4 * i) 4) (fmtBF e.val.toNat = 0) = true) :
    exec (.mma c a t u) s = s.goesWith
      (mmaFlight c a t u e s
        [.mma (accAddr a) e.val (tileBytes s t (fmtM e.val.toNat)) (tileBytes s u (fmtN e.val.toNat))])
      fun k => { k.dqDrop .fq 1 with array := kEff e.val.toNat * s.core.sm.div } := by
  have hmid : mmaMid t u e s = none := by
    simp only [mmaMid, liveRows_live hm hn, mmaHeaders_none hA, mmaHeaders_none hB, Option.none_or]
  rw [execMma_goes h harr ha ht hu hq hok hmid]
  simp only [mmaActs, Core.mmaIssued, liveRows_live hm hn, if_neg hm]

/-- R117: the first bad header of the first tile. -/
theorem execMma_badFirst {i : Nat} (hf : fmtAF e.val.toNat ≤ 1) (hi : i < fmtM e.val.toNat)
    (hbad : hdrOk (s.getLe (tileAddr t + 0x8000 + 4 * i) 4) (fmtAF e.val.toNat = 0) = false)
    (hA : ∀ q < i, hdrOk (s.getLe (tileAddr t + 0x8000 + 4 * q) 4) (fmtAF e.val.toNat = 0) = true) :
    exec (.mma c a t u) s = s.faults .m (flt 0x05 (tileAddr t + 0x8000 + 4 * i)) := by
  refine execMma_faults h harr ha ht hu hq hok ?_
  simp only [mmaMid, liveRows_live hm hn, mmaHeaders_first hf hi hbad hA, Option.some_or]

/-- R117: the first bad header of the second tile, where the first tile has none. -/
theorem execMma_badSecond {i : Nat}
    (hA : fmtAF e.val.toNat ≤ 1 → ∀ q < fmtM e.val.toNat,
      hdrOk (s.getLe (tileAddr t + 0x8000 + 4 * q) 4) (fmtAF e.val.toNat = 0) = true)
    (hf : fmtBF e.val.toNat ≤ 1) (hi : i < fmtN e.val.toNat)
    (hbad : hdrOk (s.getLe (tileAddr u + 0x8000 + 4 * i) 4) (fmtBF e.val.toNat = 0) = false)
    (hB : ∀ q < i, hdrOk (s.getLe (tileAddr u + 0x8000 + 4 * q) 4) (fmtBF e.val.toNat = 0) = true) :
    exec (.mma c a t u) s = s.faults .m (flt 0x05 (tileAddr u + 0x8000 + 4 * i)) := by
  refine execMma_faults h harr ha ht hu hq hok ?_
  simp only [mmaMid, liveRows_live hm hn, mmaHeaders_none hA, mmaHeaders_first hf hi hbad hB, Option.none_or]
end
end

end Sys2Proof.Machine
end

section
/-! PROOFS. Bytes and words written below the register windows, and the landing of an MMA (05 R112, R113; 07 R161, R166). -/

namespace Sys2Proof.Machine

/-! ## Bytes of the scratchpad, the tiles and the accumulators (07 R161, R166) -/

theorem lentTo_lt (n a : Nat) : (lentTo n a).2 < 0x300000 := by
  unfold lentTo
  split
  · show 0x40000 * (_ % 4) + a % 0x40000 < _
    omega
  · show (if a < 0x280000 then 0x200000 else 0x280000) + 0x10000 * (_ % 4) + a % 0x10000 < _
    split <;> omega

theorem cell_lt {a : Nat} (n : Nat) (h : a < 0x300000) : (cell n a).2 < 0x300000 := by
  unfold cell
  split
  · exact lentTo_lt n a
  · exact h

/-- An address names the byte of its cell. -/
theorem State.getB_cell (s : State) (n a : Nat) : s.getB n a = (s.getCore (cell n a).1).getB (cell n a).2 := by
  unfold State.getB cell
  split <;> rfl

theorem State.setB_cell (s : State) (n a : Nat) (b : Byte) :
    s.setB n a b = s.putCore (cell n a).1 ((s.getCore (cell n a).1).setB (cell n a).2 b) := by
  unfold State.setB cell
  split <;> rfl

theorem State.getL_eq (s : State) (a : Nat) : s.getL a = s.getB s.cur a := by
  unfold State.getL State.getB
  rw [State.getCore_cur]

@[simp] theorem State.putCore_cur (s : State) (n : Nat) (c : Core) : (s.putCore n c).cur = s.cur := by
  unfold State.putCore
  split <;> rfl

@[simp] theorem State.setB_cur (s : State) (n a : Nat) (b : Byte) : (s.setB n a b).cur = s.cur := by
  rw [State.setB_cell, State.putCore_cur]

@[simp] theorem State.setBs_cur (s : State) (n a : Nat) (l : List Byte) : (s.setBs n a l).cur = s.cur := by
  induction l generalizing s a with
  | nil => rfl
  | cons b bs ih => rw [State.setBs, ih, State.setB_cur]

/-- A byte of a core's memory after one was replaced. -/
theorem Core.getB_setB {c : Core} {a i : Nat} (b : Byte) (hc : c.r.sram.wf = true) (ha : a < 0x300000) (hi : i < 0x300000) :
    (c.setB a b).getB i = if i = a then b else c.getB i := by
  simp only [Core.getB, Core.setB, if_pos ha, if_pos hi, Mem.get_set a i b hc]

/-- Where the memories are in form, a byte below the register windows reads what was written last in its cell. -/
theorem State.getB_setB {s : State} (h : s.Inv) {a i : Nat} (n m : Nat) (b : Byte) (ha : a < 0x300000) (hi : i < 0x300000) :
    (s.setB n a b).getB m i = if cell m i = cell n a then b else s.getB m i := by
  rw [State.setB_cell, State.getB_cell, s.getB_cell m i]
  by_cases hn : (cell m i).1 = (cell n a).1
  · rw [hn, State.getCore_putCore, Core.getB_setB b (h.core _) (cell_lt n ha) (cell_lt m hi)]
    simp [Prod.ext_iff, hn]
  · rw [State.getCore_putCore_other _ _ _ _ (Ne.symm hn), if_neg fun e => hn (congrArg Prod.fst e)]

/-- Bytes written leave every other cell alone. -/
theorem State.getB_setBs_other {s : State} (h : s.Inv) {a i : Nat} (n m : Nat) {l : List Byte}
    (ha : a + l.length ≤ 0x300000) (hi : i < 0x300000) (hc : ∀ k < l.length, cell m i ≠ cell n (a + k)) :
    (s.setBs n a l).getB m i = s.getB m i := by
  induction l generalizing s a with
  | nil => rfl
  | cons b bs ih =>
    rw [List.length_cons] at ha hc
    have hrest : ∀ k < bs.length, cell m i ≠ cell n (a + 1 + k) := fun k hk => by
      rw [Nat.add_right_comm, Nat.add_assoc]
      exact hc (k + 1) (by omega)
    rw [State.setBs, ih (h.setB n a b) (by omega) hrest, State.getB_setB h n m b (by omega) hi]
    exact if_neg (hc 0 (Nat.succ_pos _))

/-- Bytes written in cells of their own are read back. -/
theorem State.getB_setBs_same {s : State} (h : s.Inv) {a k : Nat} (n : Nat) {l : List Byte} (ha : a + l.length ≤ 0x300000)
    (hk : k < l.length) (hc : ∀ i < l.length, ∀ j < l.length, cell n (a + i) = cell n (a + j) → i = j) :
    (s.setBs n a l).getB n (a + k) = l.getD k 0 := by
  induction l generalizing s a k with
  | nil => exact absurd hk (Nat.not_lt_zero k)
  | cons b bs ih =>
    rw [List.length_cons] at ha hk hc
    have shift : ∀ i, a + 1 + i = a + (i + 1) := fun i => by omega
    rw [State.setBs]
    cases k with
    | zero =>
      have hrest : ∀ i < bs.length, cell n (a + 0) ≠ cell n (a + 1 + i) := fun i hi e => by
        rw [shift] at e
        exact absurd (hc 0 (by omega) (i + 1) (by omega) e) (by omega)
      rw [State.getB_setBs_other (h.setB n a b) n n (by omega) (by omega) hrest,
        State.getB_setB h n n b (by omega) (by omega)]
      exact if_pos rfl
    | succ k =>
      rw [← shift k, ih (h.setB n a b) (by omega) (by omega) fun i hi j hj e => ?_]
      · rfl
      · rw [shift, shift] at e
        have := hc (i + 1) (by omega) (j + 1) (by omega) e
        omega

/-- With no block refused, bytes below the register windows are all written. -/
theorem State.putL_eq_setBs (s : State) {a : Nat} {l : List Byte} (ha : a + l.length ≤ 0x300000) :
    s.putL [] a l = s.setBs s.cur a l := by
  induction l generalizing s a with
  | nil => rfl
  | cons b bs ih =>
    rw [List.length_cons] at ha
    have hz : zAddr a = false := by
      unfold zAddr
      simp
      omega
    rw [State.putL]
    simp only [hz, List.isEmpty_nil, Bool.not_true, Bool.false_and, Bool.or_self, Bool.false_eq_true, if_false]
    rw [ih _ (by omega), State.setB_cur, State.setBs]

/-! ## Words -/

@[simp] theorem leBytes_length (n x : Nat) : (leBytes n x).length = n := by
  induction n generalizing x with
  | zero => rfl
  | succ n ih => rw [leBytes, List.length_cons, ih]

/-- The bytes of a number name it (00 R3). -/
theorem leNat_leBytes {n x : Nat} (h : x < 256 ^ n) : leNat (leBytes n x) = x := by
  induction n generalizing x with
  | zero => simp [leBytes, leNat] at h ⊢; omega
  | succ n ih =>
    rw [Nat.pow_succ] at h
    rw [leBytes, leNat, ih (by omega), BitVec.toNat_ofNat, Nat.mod_eq_of_lt (b := 2 ^ 8) (by omega)]
    omega

/-- n bytes that read as those of a number read as the number. -/
theorem State.getLe_of_bytes {s : State} {a n x : Nat} (hx : x < 256 ^ n)
    (h : ∀ k < n, s.getB s.cur (a + k) = (leBytes n x).getD k 0) : s.getLe a n = x := by
  have hl : s.getLs a n = leBytes n x := by
    refine List.ext_getElem (by simp [State.getLs]) fun k hk hk' => ?_
    rw [leBytes_length] at hk'
    simp only [State.getLs, List.getElem_map, List.getElem_range, State.getL_eq, h k hk']
    simp [List.getD, hk']
  rw [State.getLe, hl, leNat_leBytes hx]

/-- The bytes of a region of words lie in cells of their own. -/
def ownCells (n dest words : Nat) : Prop :=
  ∀ i < 4 * words, ∀ j < 4 * words, cell n (dest + i) = cell n (dest + j) → i = j

theorem State.putL_inv {s : State} (h : s.Inv) {a : Nat} {l : List Byte} (ha : a + l.length ≤ 0x300000) :
    (s.putL [] a l).Inv := by
  rw [s.putL_eq_setBs ha]
  exact h.setBs _ _ _

theorem State.putL_cur (s : State) {a : Nat} {l : List Byte} (ha : a + l.length ≤ 0x300000) :
    (s.putL [] a l).cur = s.cur := by
  rw [s.putL_eq_setBs ha, State.setBs_cur]

section
variable {dest words : Nat} {l : List (Nat × W32)}

/-- Words written leave every other cell alone. -/
theorem State.getB_putWords_other {s : State} (h : s.Inv) (hd : dest + 4 * words ≤ 0x300000) (hl : ∀ p ∈ l, p.1 < words)
    {m i : Nat} (hi : i < 0x300000) (hc : ∀ p ∈ l, ∀ k < 4, cell m i ≠ cell s.cur (dest + 4 * p.1 + k)) :
    (s.putWords [] dest l).getB m i = s.getB m i := by
  induction l generalizing s with
  | nil => rfl
  | cons p r ih =>
    have hp : dest + 4 * p.1 + (leBytes 4 p.2.toNat).length ≤ 0x300000 := by
      have := hl p (List.mem_cons_self ..)
      rw [leBytes_length]
      omega
    have hstep : (s.putL [] (dest + 4 * p.1) (leBytes 4 p.2.toNat)).getB m i = s.getB m i := by
      rw [s.putL_eq_setBs hp]
      refine State.getB_setBs_other h _ _ hp hi fun k hk => hc p (List.mem_cons_self ..) k ?_
      rwa [leBytes_length] at hk
    rw [← hstep]
    refine ih (State.putL_inv h hp) (fun q hq => hl q (List.mem_cons_of_mem _ hq)) fun q hq k hk => ?_
    rw [s.putL_cur hp]
    exact hc q (List.mem_cons_of_mem _ hq) k hk

theorem State.putWords_cur (s : State) (hd : dest + 4 * words ≤ 0x300000) (hl : ∀ p ∈ l, p.1 < words) :
    (s.putWords [] dest l).cur = s.cur := by
  induction l generalizing s with
  | nil => rfl
  | cons p r ih =>
    have := hl p (List.mem_cons_self ..)
    exact (ih _ fun q hq => hl q (List.mem_cons_of_mem _ hq)).trans
      (s.putL_cur (by rw [leBytes_length]; omega))

/-- Words written at different places of a region with cells of its own are read back. -/
theorem State.getLe_putWords_mem {s : State} (h : s.Inv) (hd : dest + 4 * words ≤ 0x300000) (hl : ∀ p ∈ l, p.1 < words)
    (hown : ownCells s.cur dest words) (hn : (l.map (·.1)).Nodup) {p : Nat × W32} (hp : p ∈ l) :
    (s.putWords [] dest l).getLe (dest + 4 * p.1) 4 = p.2.toNat := by
  induction l generalizing s with
  | nil => cases hp
  | cons q r ih =>
    have hq := hl q (List.mem_cons_self ..)
    have hr : ∀ p ∈ r, p.1 < words := fun p hp => hl p (List.mem_cons_of_mem _ hp)
    obtain ⟨hqr, hn⟩ := List.nodup_cons.mp hn
    have hlen : dest + 4 * q.1 + (leBytes 4 q.2.toNat).length ≤ 0x300000 := by
      rw [leBytes_length]
      omega
    have hinv := State.putL_inv h hlen
    have hcur := s.putL_cur hlen
    rcases List.mem_cons.mp hp with rfl | hp
    · refine State.getLe_of_bytes p.2.isLt fun k hk => ?_
      have hother : ∀ q ∈ r, ∀ j < 4, cell s.cur (dest + 4 * p.1 + k) ≠ cell s.cur (dest + 4 * q.1 + j) := by
        intro q hq' j hj e
        rw [Nat.add_assoc, Nat.add_assoc] at e
        have hsame := hown _ (by omega) _ (by have := hr q hq'; omega) e
        exact hqr (List.mem_map.mpr ⟨q, hq', show q.1 = p.1 by omega⟩)
      rw [State.putWords_cur s hd hl]
      show (State.putWords (s.putL [] _ _) [] dest r).getB _ _ = _
      rw [State.getB_putWords_other hinv hd hr (by omega) (by rw [hcur]; exact hother), s.putL_eq_setBs hlen]
      refine State.getB_setBs_same h _ hlen (by rwa [leBytes_length]) fun i hi j hj e => ?_
      rw [leBytes_length] at hi hj
      rw [Nat.add_assoc, Nat.add_assoc] at e
      have hsame := hown _ (by omega) _ (by omega) e
      omega
    · exact ih hinv hr (by rw [hcur]; exact hown) hn hp
end

/-! ## The region of an accumulator (05 R109, R112, R113) -/

/-- A byte of an accumulator keeps its place within the register, lent or not. -/
theorem cell_acc_offset (n : Nat) (a : BitVec 3) {i : Nat} (hi : i < 0x8000) :
    (cell n (accAddr a + i)).2 % 0x10000 = i := by
  have ha := a.isLt
  unfold cell accAddr
  split
  · show (lentTo n _).2 % 0x10000 = i
    unfold lentTo
    rw [if_neg (by omega), if_neg (by omega)]
    show (0x280000 + 0x10000 * (_ % 4) + _ % 0x10000) % 0x10000 = i
    omega
  · show _ % 0x10000 = i
    omega

/-- An accumulator is a region of 8192 words with cells of their own. -/
theorem ownCells_acc (n : Nat) (a : BitVec 3) : ownCells n (accAddr a) 8192 := by
  intro i hi j hj e
  rw [← cell_acc_offset n a (show i < 0x8000 by omega), e, cell_acc_offset n a (by omega)]

section
variable (m n : Nat) (rd : Nat → W32) (f : Nat → Nat → W32 → W32 × Bool)

theorem mem_updRegion {p : Nat × W32} : p ∈ (updRegion m n rd f).1 ↔
    ∃ i < m, ∃ j < n, p = (64 * i + j, (f i j (rd (64 * i + j))).1) := by
  simp only [updRegion, List.mem_map, List.mem_flatMap, List.mem_range]
  constructor
  · rintro ⟨_, ⟨i, hi, j, hj, rfl⟩, rfl⟩
    exact ⟨i, hi, j, hj, rfl⟩
  · rintro ⟨i, hi, j, hj, rfl⟩
    exact ⟨_, ⟨i, hi, j, hj, rfl⟩, rfl⟩

theorem updRegion_clamps : (updRegion m n rd f).2 = true ↔ ∃ i < m, ∃ j < n, (f i j (rd (64 * i + j))).2 = true := by
  simp only [updRegion, List.any_eq_true, List.mem_flatMap, List.mem_map, List.mem_range]
  constructor
  · rintro ⟨_, ⟨i, hi, j, hj, rfl⟩, h⟩
    exact ⟨i, hi, j, hj, h⟩
  · rintro ⟨i, hi, j, hj, h⟩
    exact ⟨_, ⟨i, hi, j, hj, rfl⟩, h⟩

/-- Rows of at most 64 words do not meet. -/
theorem updRegion_nodup (hn : n ≤ 64) : ((updRegion m n rd f).1.map (·.1)).Nodup := by
  have hl : (updRegion m n rd f).1.map (·.1) = (List.range m).flatMap fun i => (List.range n).map (64 * i + ·) := by
    simp [updRegion, List.map_flatMap, Function.comp_def]
  rw [hl, List.nodup_flatMap]
  refine ⟨fun i _ => List.nodup_range.map fun _ _ h => Nat.add_left_cancel h, ?_⟩
  refine List.nodup_range.imp fun {i i'} hne => ?_
  simp only [Function.onFun, List.disjoint_left, List.mem_map, List.mem_range]
  rintro _ ⟨j, hj, rfl⟩ ⟨j', hj', h⟩
  omega
end

/-- R112, R113, R122: where the memories are in form, an MMA that lands gives each element of its region the value that its old
value and the two rows make, tells a clamp, and changes no other byte of the tiles, the accumulators or the scratchpad. -/
theorem mma_lands {s : State} (h : s.Inv) (a : BitVec 3) (fmt : W64) (ra rb : List Byte) (hm : fmtM fmt.toNat ≤ 128)
    (hn : fmtN fmt.toNat ≤ 64) :
    let at' (i j : Nat) := accAddr a + 4 * (64 * i + j)
    let e (i j : Nat) := mmaElem fmt.toNat ((ra.drop (260 * i)).take 260) ((rb.drop (260 * j)).take 260)
      (BitVec.ofNat 32 (s.getLe (at' i j) 4))
    let clamps := ∃ i < fmtM fmt.toNat, ∃ j < fmtN fmt.toNat, (e i j).2 = true
    let r := s.landAct [] (.mma (accAddr a) fmt ra rb)
    (∀ i < fmtM fmt.toNat, ∀ j < fmtN fmt.toNat, r.1.getLe (at' i j) 4 = (e i j).1.toNat) ∧
    (clamps → r.2 = 1) ∧ (¬clamps → r.2 = 0) ∧
    ∀ n b, b < 0x300000 →
      (∀ i < fmtM fmt.toNat, ∀ j < fmtN fmt.toNat, ∀ k < 4, cell n b ≠ cell s.cur (at' i j + k)) →
      r.1.getB n b = s.getB n b := by
  intro at' e clamps r
  let words := mmaLand fmt.toNat ra rb (s.word32 (accAddr a))
  have hclamps : words.2 = true ↔ clamps := updRegion_clamps ..
  have hd : accAddr a + 4 * 8192 ≤ 0x300000 := by
    have := a.isLt
    unfold accAddr
    omega
  have hl : ∀ p ∈ words.1, p.1 < 8192 := by
    intro p hp
    obtain ⟨i, hi, j, hj, rfl⟩ := (mem_updRegion ..).mp hp
    show 64 * i + j < 8192
    omega
  refine ⟨fun i hi j hj => ?_, fun hc => if_pos (hclamps.mpr hc), fun hc => if_neg (mt hclamps.mp hc),
    fun n b hb hcell => ?_⟩
  · exact State.getLe_putWords_mem h hd hl (ownCells_acc s.cur a) (updRegion_nodup _ _ _ _ hn)
      (p := (64 * i + j, (e i j).1)) ((mem_updRegion ..).mpr ⟨i, hi, j, hj, rfl⟩)
  · refine State.getB_putWords_other h hd hl hb fun p hp k hk => ?_
    obtain ⟨i, hi, j, hj, rfl⟩ := (mem_updRegion ..).mp hp
    exact hcell i hi j hj k hk

end Sys2Proof.Machine
end

section
/-! PROOFS. The element that an MMA makes: runs of products, accumulators, exact sums (05 R122; 03 R70; 00 R7). -/

namespace Sys2Proof.Machine

/-! ## Runs of indices (05 R122) -/

/-- Runs of 32 indices, the last one shorter, one after the other. -/
theorem flatMap_runs (k n : Nat) :
    ((List.range n).flatMap fun g => (List.range (min 32 (k - 32 * g))).map (32 * g + ·)) = List.range (min k (32 * n)) := by
  induction n with
  | zero => simp
  | succ n ih =>
    rw [List.range_succ, List.flatMap_append, ih, List.flatMap_singleton]
    rcases Nat.le_total (32 * n) k with h | h
    · rw [show min k (32 * (n + 1)) = 32 * n + min 32 (k - 32 * n) by omega, List.range_add, Nat.min_eq_right h]
    · rw [show min 32 (k - 32 * n) = 0 by omega, show min k (32 * (n + 1)) = min k (32 * n) by omega]
      simp

/-- The runs of a product together are its indices in order. -/
theorem groupsOf_flatten (x : Nat) : (groupsOf x).flatten = List.range (fmtK x) := by
  by_cases hk : fmtK x = 0
  · simp [groupsOf, hk]
  · simp only [groupsOf, if_neg hk]
    split
    · simp
    · rw [← List.flatMap_def, flatMap_runs]
      congr 1
      unfold ceilDiv
      omega

/-- The run of indices whose quotient by 32 is g. -/
theorem filter_run (k g : Nat) : ((List.range k).filter fun q => q / 32 = g) =
    (List.range (min 32 (k - 32 * g))).map (32 * g + ·) := by
  refine List.Perm.eq_of_pairwise (le := (· < ·)) ?_ ?_ ?_ ?_
  · intro a b _ _ h h'
    omega
  · exact List.pairwise_lt_range.filter _
  · exact List.pairwise_lt_range.map _ fun _ _ h => by omega
  · refine (List.perm_ext_iff_of_nodup (List.nodup_range.filter _) (List.nodup_range.map fun _ _ h => ?_)).mpr fun q => ?_
    · exact Nat.add_left_cancel h
    · simp only [List.mem_filter, List.mem_range, List.mem_map, decide_eq_true_eq]
      constructor
      · rintro ⟨hq, rfl⟩
        exact ⟨q % 32, by omega, by omega⟩
      · rintro ⟨r, hr, rfl⟩
        omega

/-- The runs: the whole row where a role is a block format, else 32 indices each. -/
theorem groupsOf_eq {x : Nat} (hk : fmtK x ≠ 0) : groupsOf x =
    if fmtAF x ≤ 1 ∨ fmtBF x ≤ 1 then [List.range (fmtK x)]
    else (List.range ((fmtK x + 31) / 32)).map fun g => (List.range (fmtK x)).filter fun k => k / 32 = g := by
  simp only [groupsOf, if_neg hk, Bool.or_eq_true, decide_eq_true_eq, filter_run]
  rfl

/-! ## The element of a product (R122, R7) -/

/-- SAT32 of R7 clamps to the two ends of 32 bits. -/
theorem sat32_eq (v : Int) : sat32 v = max (-2 ^ 31) (min (2 ^ 31 - 1) v) := by
  unfold sat32
  split
  · omega
  · split <;> omega

/-- The value an element starts from. -/
def mmaStart (x : Nat) (old : W32) : W32 := if fmtZF x then 0 else old

section
variable (x : Nat) (ra rb : List Byte) (old : W32)

/-- The product of the integer codes of two rows at an index. -/
def intProduct (k : Nat) : Int :=
  elemInt (elem (fmtAF x) (fmtAS x) ra k) * elemInt (elem (fmtBF x) (fmtBS x) rb k)

/-- The product of two rows at an index (R122). -/
def exactProduct (k : Nat) : X :=
  elemProd (scaleVal (hdrScale (leNat (ra.take 4)))) (scaleVal (hdrScale (leNat (rb.take 4))))
    (elem (fmtAF x) (fmtAS x) ra k) (elem (fmtBF x) (fmtBS x) rb k)

/-- With K = 0 nothing is added (R122). -/
theorem mmaElem_empty (hk : fmtK x = 0) : mmaElem x ra rb old = (mmaStart x old, false) := by
  simp [mmaElem, groupsOf, hk, mmaStart]

theorem foldl_add_eq_sum (f : Nat → Int) (l : List Nat) (t : Int) : l.foldl (fun t k => t + f k) t = t + (l.map f).sum := by
  induction l generalizing t with
  | nil => simp
  | cons k l ih => rw [List.foldl_cons, ih, List.map_cons, List.sum_cons, Int.add_assoc]

/-- Runs that leave the flag alone. -/
theorem foldl_fst {α : Type} (f : W32 → α → W32) (gs : List α) (z : W32) (b : Bool) :
    gs.foldl (fun (acc : W32 × Bool) g => (f acc.1 g, acc.2)) (z, b) = (gs.foldl f z, b) := by
  induction gs generalizing z with
  | nil => rfl
  | cons g gs ih => rw [List.foldl_cons, ih, List.foldl_cons]

/-- Adding run after run and wrapping each time wraps the whole sum once. -/
theorem foldl_wrap (f : Nat → Int) (gs : List (List Nat)) (z : W32) :
    gs.foldl (fun acc g => BitVec.ofInt 32 (acc.toInt + (g.map f).sum)) z =
      BitVec.ofInt 32 (z.toInt + (gs.flatten.map f).sum) := by
  induction gs generalizing z with
  | nil => simp
  | cons g gs ih =>
    rw [List.foldl_cons, ih, List.flatten_cons, List.map_append, List.sum_append]
    simp only [BitVec.ofInt_add, BitVec.ofInt_toInt, BitVec.add_assoc]

/-- R122: an integer accumulator that wraps receives the sum of the products on top of its old value, whatever the runs. -/
theorem mmaElem_wraps (hc : fmtCF x = 1) : mmaElem x ra rb old =
    (BitVec.ofInt 32 ((mmaStart x old).toInt + ((List.range (fmtK x)).map (intProduct x ra rb)).sum), false) := by
  rw [← groupsOf_flatten, ← foldl_wrap, ← foldl_fst]
  simp only [mmaElem, hc, foldl_add_eq_sum, zero_add, if_neg Nat.one_ne_zero, if_true]
  rfl

/-- R122, R7: with a saturating integer accumulator each run's sum is added and clamped. -/
theorem mmaElem_saturates (hc : fmtCF x = 2) : mmaElem x ra rb old = (groupsOf x).foldl (fun acc g =>
    let v := acc.1.toInt + (g.map (intProduct x ra rb)).sum
    let c := max (-2 ^ 31) (min (2 ^ 31 - 1) v)
    (BitVec.ofInt 32 c, acc.2 || decide (c ≠ v))) (mmaStart x old, false) := by
  simp only [← sat32_eq]
  simp only [mmaElem, hc, foldl_add_eq_sum, zero_add, if_neg two_ne_zero, if_neg (show 2 ≠ 1 by decide)]
  rfl

/-- R122, R70: with a floating accumulator each run of products is summed exactly and added with one rounding. -/
theorem mmaElem_floats (hc : fmtCF x = 0) : mmaElem x ra rb old = ((groupsOf x).foldl (fun acc g =>
    BitVec.ofNat 32 (rne32 ((dec32 acc.toNat).add (sumProds (g.map (exactProduct x ra rb)))).1).1) (mmaStart x old),
    false) := by
  rw [← foldl_fst]
  simp only [mmaElem, hc, if_true]
  rfl
end

/-! ## Exact sums (03 R70) -/

/-- The real value of a finite one; 0 for the others. -/
def X.real (x : X) : ℚ :=
  match x with
  | .fin s m e => (if s then -1 else 1) * (m : ℚ) * 2 ^ e
  | _ => 0

/-- A magnitude with its sign. -/
def signedMag (s : Bool) (m : Nat) : Int := if s then -(m : Int) else m

theorem X.real_fin (s : Bool) (m : Nat) (e : Int) : (X.fin s m e).real = (signedMag s m : ℚ) * 2 ^ e := by
  cases s <;> simp [X.real, signedMag]

theorem signedMag_natAbs (r : Int) : signedMag (r < 0) r.natAbs = r := by
  unfold signedMag
  split
  next h => have := of_decide_eq_true h; omega
  next h => have := of_decide_eq_false (Bool.not_eq_true _ ▸ h); omega

/-- A signed magnitude as a multiple of a smaller power of two. -/
theorem signedMag_shiftTo (s : Bool) (m : Nat) {e q : Int} (h : q ≤ e) :
    (signedMag s (shiftTo m e q) : ℚ) * 2 ^ q = signedMag s m * 2 ^ e := by
  obtain ⟨n, rfl⟩ := Int.le.dest h
  have hn : (q + n - q).toNat = n := by omega
  rw [shiftTo, hn, Nat.shiftLeft_eq, zpow_add₀ two_ne_zero, zpow_natCast]
  cases s <;> simp [signedMag] <;> ring

/-- −0. -/
def X.negZero (x : X) : Prop := ∃ e, x = .fin true 0 e

theorem X.negZero_fin (s : Bool) (m : Nat) (e : Int) : (X.fin s m e).negZero ↔ s = true ∧ m = 0 := by
  simp [X.negZero]

/-- The sum of two finite values is exact, and −0 only for two −0. -/
theorem X.add_fin (s t : Bool) (m n : Nat) (e f : Int) : ∃ b k g, ((X.fin s m e).add (.fin t n f)).1 = .fin b k g ∧
    (X.fin b k g).real = (X.fin s m e).real + (X.fin t n f).real ∧
    ((X.fin b k g).negZero ↔ (X.fin s m e).negZero ∧ (X.fin t n f).negZero) := by
  let q := min e f
  let r := signedMag s (shiftTo m e q) + signedMag t (shiftTo n f q)
  have hadd : (X.fin s m e).add (.fin t n f) =
      if r = 0 then (.fin (s && t && m = 0 && n = 0) 0 q, 0) else (.fin (r < 0) r.natAbs q, 0) := rfl
  have hreal : (r : ℚ) * 2 ^ q = (X.fin s m e).real + (X.fin t n f).real := by
    rw [X.real_fin, X.real_fin, ← signedMag_shiftTo s m (Int.min_le_left e f), ← signedMag_shiftTo t n (Int.min_le_right e f),
      ← add_mul, ← Int.cast_add]
  rw [hadd, ← hreal]
  simp only [X.negZero_fin]
  by_cases hr : r = 0
  · rw [if_pos hr]
    refine ⟨_, 0, q, rfl, ?_, ?_⟩
    · simp [X.real, hr]
    · simp only [Bool.and_eq_true, decide_eq_true_eq]
      tauto
  · rw [if_neg hr]
    refine ⟨_, r.natAbs, q, rfl, ?_, ?_⟩
    · rw [X.real_fin, signedMag_natAbs]
    · have hk : r.natAbs ≠ 0 := mt Int.natAbs_eq_zero.mp hr
      have hmn : ¬(m = 0 ∧ n = 0) := by
        rintro ⟨rfl, rfl⟩
        simp [r, signedMag, shiftTo] at hr
      tauto

/-- Finite terms on top of a finite value: the sum is exact, and −0 only where every one of them is −0 (R70). -/
theorem foldl_add_fin {ps : List X} (hps : ∀ p ∈ ps, p.isFin = true) (s : Bool) (m : Nat) (e : Int) :
    ∃ b k g, ps.foldl (fun (y x : X) => (y.add x).1) (.fin s m e) = .fin b k g ∧
      (X.fin b k g).real = (X.fin s m e).real + (ps.map X.real).sum ∧
      ((X.fin b k g).negZero ↔ (X.fin s m e).negZero ∧ ∀ p ∈ ps, p.negZero) := by
  induction ps generalizing s m e with
  | nil => exact ⟨s, m, e, rfl, by simp, by simp⟩
  | cons p ps ih =>
    obtain ⟨t, n, f, rfl⟩ : ∃ t n f, p = .fin t n f := by
      have := hps p (List.mem_cons_self ..)
      cases p with
      | fin t n f => exact ⟨t, n, f, rfl⟩
      | inf _ | nan => cases this
    obtain ⟨b, k, g, hadd, hreal, hzero⟩ := X.add_fin s t m n e f
    obtain ⟨b', k', g', hfold, hreal', hzero'⟩ := ih (fun p hp => hps p (List.mem_cons_of_mem _ hp)) b k g
    refine ⟨b', k', g', by rw [List.foldl_cons, hadd, hfold], ?_, ?_⟩
    · rw [hreal', hreal, List.map_cons, List.sum_cons, add_assoc]
    · rw [hzero', hzero, List.forall_mem_cons, and_assoc]

/-- R70: an exact sum of finite terms is their sum, −0 only where every term is. -/
theorem sumProds_fin {l : List X} (hne : l ≠ []) (hl : ∀ p ∈ l, p.isFin = true) :
    ∃ b m e, sumProds l = .fin b m e ∧ (sumProds l).real = (l.map X.real).sum ∧
      ((sumProds l).negZero ↔ ∀ p ∈ l, p.negZero) := by
  cases l with
  | nil => exact absurd rfl hne
  | cons p ps =>
    have hp := hl p (List.mem_cons_self ..)
    cases p with
    | inf _ | nan => cases hp
    | fin s m e =>
      obtain ⟨b, k, g, hfold, hreal, hzero⟩ := foldl_add_fin (fun q hq => hl q (List.mem_cons_of_mem _ hq)) s m e
      refine ⟨b, k, g, hfold, ?_, ?_⟩
      · rw [show sumProds (.fin s m e :: ps) = .fin b k g from hfold, hreal, List.map_cons, List.sum_cons]
      · rw [show sumProds (.fin s m e :: ps) = .fin b k g from hfold, hzero, List.forall_mem_cons]

/-- NaN or infinities of both signs are among the terms. -/
def sumsToNan (l : List X) : Prop := X.nan ∈ l ∨ X.inf true ∈ l ∧ X.inf false ∈ l

/-- Infinities of this sign alone are among the terms, and no NaN. -/
def sumsToInf (b : Bool) (l : List X) : Prop := X.inf b ∈ l ∧ X.inf (!b) ∉ l ∧ X.nan ∉ l

/-- Adding the first two terms keeps what makes a sum NaN. -/
theorem sumsToNan_add {y p : X} {ps : List X} (h : sumsToNan (y :: p :: ps)) : sumsToNan ((y.add p).1 :: ps) := by
  unfold sumsToNan at h ⊢
  cases y with
  | nan => simp [X.add]
  | inf a =>
    cases p with
    | nan => simp [X.add]
    | inf c =>
      by_cases hac : a = c
      · subst hac
        simpa [X.add] using h
      · simp [X.add, hac]
    | fin => simpa [X.add] using h
  | fin s m e =>
    cases p with
    | nan => simp [X.add]
    | inf c => simpa [X.add] using h
    | fin t n f =>
      obtain ⟨b, k, g, hadd, -⟩ := X.add_fin s t m n e f
      rw [hadd]
      simpa using h

/-- Adding the first two terms keeps what makes a sum an infinity. -/
theorem sumsToInf_add {b : Bool} {y p : X} {ps : List X} (h : sumsToInf b (y :: p :: ps)) : sumsToInf b ((y.add p).1 :: ps) := by
  unfold sumsToInf at h ⊢
  cases y with
  | nan => simp at h
  | inf a =>
    cases p with
    | nan => simp at h
    | inf c => cases a <;> cases c <;> cases b <;> simp [X.add] at h ⊢ <;> exact h
    | fin => simpa [X.add] using h
  | fin s m e =>
    cases p with
    | nan => simp at h
    | inf c => simpa [X.add] using h
    | fin t n f =>
      obtain ⟨b, k, g, hadd, -⟩ := X.add_fin s t m n e f
      rw [hadd]
      simpa using h

/-- R70: a sum is NaN with a NaN or with infinities of both signs among its terms. -/
theorem sumProds_nan {l : List X} (h : sumsToNan l) : sumProds l = .nan := by
  cases l with
  | nil => simp [sumsToNan] at h
  | cons y ps =>
    induction ps generalizing y with
    | nil =>
      rcases h with h | ⟨h, h'⟩
      · exact (List.mem_singleton.mp h).symm
      · cases (List.mem_singleton.mp h).trans (List.mem_singleton.mp h').symm
    | cons p ps ih => exact ih _ (sumsToNan_add h)

/-- R70: a sum is an infinity with one of that sign, none of the other and no NaN among its terms. -/
theorem sumProds_inf {b : Bool} {l : List X} (h : sumsToInf b l) : sumProds l = .inf b := by
  cases l with
  | nil => simp [sumsToInf] at h
  | cons y ps =>
    induction ps generalizing y with
    | nil => exact (List.mem_singleton.mp h.1).symm
    | cons p ps ih => exact ih _ (sumsToInf_add h)

end Sys2Proof.Machine
end

section
/-! PROOFS. The statement on MMA fails for a memory list out of canonical form. -/

namespace Sys2Proof.Machine

/-- A machine whose core lists the first byte of a0 twice. -/
def listedTwice : State :=
  State.reset.onCore fun c => { c with r := { c.r with sram := [(0x280000, 1), (0x280000, 2)] } }

/-- Its memory is out of the canonical form (15 R365). -/
theorem listedTwice_not_inv : ¬ listedTwice.Inv := by
  intro ⟨_, _, _, hcore, _⟩
  exact absurd hcore (by decide)

/-- A format word with M = N = 1, K = 0 and ZF: the one element of the region becomes 0 (05 R115, R122). -/
def zeroesOneElement : W64 := BitVec.ofNat 64 (2 ^ 44 + 2 ^ 37 + 2 ^ 11)

/-- Writing 0 takes one of the two entries out of the list, and the other shows. -/
theorem listedTwice_landed :
    (listedTwice.landAct [] (.mma 0x280000 zeroesOneElement [] [])).1.getLe 0x280000 4 = 2 ∧
    (mmaElem zeroesOneElement.toNat [] [] (BitVec.ofNat 32 (listedTwice.getLe 0x280000 4))).1.toNat = 0 := by
  decide

/-- Refutes O22: its clause on the landing speaks of every state, and where a core's memory list holds an address twice an
element does not read what was written. Where the memories are in form the clause holds (`mma_lands`); the lemmas before it
and `mmaElem_wraps`, `mmaElem_floats`, `mmaElem_saturates` and `sumProds_fin` give the other clauses in the model's terms. -/
theorem not_matrixProductsAccumulate : ¬ Obligations.MatrixProductsAccumulate := by
  unfold Obligations.MatrixProductsAccumulate
  intro ⟨_, hland, _⟩
  have h := (hland 0 zeroesOneElement [] [] listedTwice (by decide) (by decide)).1 0 (by decide) 0 (by decide)
  exact absurd ((listedTwice_landed.1.symm.trans h).trans listedTwice_landed.2) (by decide)

end Sys2Proof.Machine
end

section
/-! PROOFS. Tile commands before their issue, and the tile loads (05 R115, R117, R118, R121; 07 R166; 14 R340). -/

namespace Sys2Proof.Machine

/-! ## Steps 1 to 3 of R117 -/

/-- A lent register outside hot class raises LENT (R117 step 1). -/
theorem Core.lentReg_refused {c : Core} {n : BitVec 3} (h : ¬(n.toNat < 4 ∨ c.hot = true)) (addr : Nat) :
    c.lentReg addr n = some (flt 0x06 addr) := by
  rw [not_or, Nat.not_lt, Bool.not_eq_true] at h
  simp [Core.lentReg, h.1, h.2]

theorem Core.fmtFault_lent (c : Core) (f : Flt) (extra : Bool) : c.fmtFault (some f) extra = some f := rfl

/-- An empty fq raises FORMAT_UNDERFLOW (R117 step 2). -/
theorem Core.fmtFault_empty {c : Core} (h : c.dq .fq = []) (extra : Bool) : c.fmtFault none extra = some (flt 0x03) := by
  simp [Core.fmtFault, h]

/-- A format word that R115 or the command refuses raises FORMAT_INVALID (R117 step 3). -/
theorem Core.fmtFault_refused {c : Core} {e : QEnt} {rest : List QEnt} {extra : Bool} (h : c.dq .fq = e :: rest)
    (hbad : (fmtOk e.val.toNat && extra) = false) : c.fmtFault none extra = some (flt 0x04) := by
  simp [Core.fmtFault, h, Core.fmtWord_cons h, hbad]

theorem isIntF_eq_false {f : Nat} (h4 : f ≠ 4) (h5 : f ≠ 5) : isIntF f = false := by
  simp [isIntF, h4, h5]

/-! ## Each tile command raises what its first steps find -/

section
variable {c : Ctl} {s : State} {f : Flt} (h : s.core.clear c)
include h

theorem tileLoad_faults (t m : BitVec 3) (pitch : BitVec 20) (role rowsOf : Nat → Nat)
    (hf : s.core.fmtFault (s.core.lentReg (tileAddr t) t) true = some f) :
    tileLoad c t m pitch role rowsOf s = s.faults .m f := by
  unfold tileLoad
  exact issue_faults h rfl rfl rfl (by simp only [hf, Option.some_or]) _

theorem execMma_refused (harr : s.core.array = 0) (a t u : BitVec 3)
    (hf : s.core.fmtFault (((s.core.lentReg (accAddr a) a).or (s.core.lentReg (tileAddr t) t)).or
      (s.core.lentReg (tileAddr u) u)) true = some f) : execMma c a t u s = s.faults .m f := by
  unfold execMma
  exact issue_faults h rfl rfl (by simp [harr]) hf _

theorem sumWord_faults (w : BitVec 2) (t : BitVec 3) (role : Nat → Nat) (sign : Nat → Bool) (rowsOf : Nat → Nat)
    (hf : s.core.fmtFault (s.core.lentReg (tileAddr t) t) (isIntF (role s.core.fmtWord)) = some f) :
    sumWord c w t role sign rowsOf s = s.faults .m f := by
  unfold sumWord
  exact issue_faults h rfl rfl rfl hf _

theorem execZpc_faults (a : BitVec 3) (w v : BitVec 2)
    (hf : s.core.fmtFault (s.core.lentReg (accAddr a) a) (fmtCF s.core.fmtWord ≠ 0) = some f) :
    execZpc c a w v s = s.faults .m f := by
  unfold execZpc
  exact issue_faults h rfl rfl rfl hf _

theorem execDrain_faults (a m m2 : BitVec 3) (pitch : BitVec 20)
    (hf : s.core.fmtFault (s.core.lentReg (accAddr a) a) true = some f) :
    execDrain c a m m2 pitch s = s.faults .m f := by
  unfold execDrain
  exact issue_faults h rfl rfl rfl (by simp only [hf, Option.some_or]) _

theorem execAclr_faults (a : BitVec 3) (hf : s.core.lentReg (accAddr a) a = some f) :
    execAclr c a s = s.faults .m f :=
  issue_faults h rfl rfl rfl hf _

theorem execAmov_faults (a b : BitVec 3) (hf : s.core.lentReg (accAddr a) a = some f) :
    execAmov c a b s = s.faults .m f :=
  issue_faults h rfl rfl rfl (by simp only [hf, Option.some_or]) _

theorem execTzero_faults (t : BitVec 3) (hf : s.core.lentReg (tileAddr t) t = some f) :
    execTzero c t s = s.faults .m f :=
  issue_faults h rfl rfl rfl hf _

/-- Where the registers are in reach and fq refuses every command alike, each tile command with a format word faults so. -/
theorem tileCommands_fault (harr : s.core.array = 0) {a t u : BitVec 3} (m m2 : BitVec 3) (w v : BitVec 2)
    (pitch : BitVec 20)
    (ht : t.toNat < 4 ∨ s.core.hot = true) (ha : a.toNat < 4 ∨ s.core.hot = true) (hu : u.toNat < 4 ∨ s.core.hot = true)
    (hf : ∀ extra, s.core.fmtFault none extra = some f) :
    ∀ i ∈ [Instr.tld c t m pitch, .tldb c t m pitch, .mma c a t u, .rsum c w t, .csum c w t, .zpc c a w v,
      .drain c a m m2 pitch], exec i s = s.faults .m f := by
  have hlent (b : Bool) (n : BitVec 3) (addr : Nat) (hn : n.toNat < 4 ∨ s.core.hot = true) :
      s.core.fmtFault (s.core.lentReg addr n) b = some f := by
    rw [Core.lentReg_usable hn, hf]
  have hmma : s.core.fmtFault (((s.core.lentReg (accAddr a) a).or (s.core.lentReg (tileAddr t) t)).or
      (s.core.lentReg (tileAddr u) u)) true = some f := by
    rw [Core.lentReg_usable ha, Core.lentReg_usable ht, Core.lentReg_usable hu]
    exact hf true
  simp only [List.forall_mem_cons, exec_tld, exec_tldb, exec_mma, exec_rsum, exec_csum, exec_zpc, exec_drain]
  exact ⟨tileLoad_faults h t m pitch _ _ (hlent _ t _ ht), tileLoad_faults h t m pitch _ _ (hlent _ t _ ht),
    execMma_refused h harr a t u hmma, sumWord_faults h w t _ _ _ (hlent _ t _ ht),
    sumWord_faults h w t _ _ _ (hlent _ t _ ht), execZpc_faults h a w v (hlent _ a _ ha),
    execDrain_faults h a m m2 pitch (hlent _ a _ ha), List.forall_mem_nil _⟩
end

/-! ## Rows in the scratchpad and the shade windows (R117 step 4; 07 R161) -/

/-- A row of rb bytes is aligned and ends within the shade windows. -/
abbrev rowFits (al rb a : Nat) : Prop := a % al = 0 ∧ (rb = 0 ∨ a + rb ≤ 0x200000)

/-- The rows of a tile load in memory. -/
def rowPieces (src : Nat → Nat) (rb n : Nat) : Ranges := (List.range n).map fun i => (src i, rb)

theorem rowPieces_mem {src : Nat → Nat} {rb n : Nat} {p : Nat × Nat} (h : p ∈ rowPieces src rb n) :
    ∃ j < n, p = (src j, rb) := by
  simp only [rowPieces, List.mem_map, List.mem_range] at h
  obtain ⟨j, hj, rfl⟩ := h
  exact ⟨j, hj, rfl⟩

theorem rowPieces_split (src : Nat → Nat) (rb : Nat) {j n : Nat} (h : j < n) :
    ∃ qs, rowPieces src rb n = rowPieces src rb j ++ [(src j, rb)] ++ qs := by
  obtain ⟨k, rfl⟩ := Nat.exists_eq_add_of_lt h
  refine ⟨((List.range k).map (j + 1 + ·)).map fun i => (src i, rb), ?_⟩
  rw [rowPieces, rowPieces, show j + k + 1 = j + 1 + k by omega, List.range_add, List.range_succ]
  simp

theorem shadeBounds_append (ps qs : Ranges) (al : Nat) :
    shadeBounds (ps ++ qs) al = (shadeBounds ps al).or (shadeBounds qs al) := by
  simp only [shadeBounds, List.findSome?_append]

theorem shadeBounds_fits {src : Nat → Nat} {rb n al : Nat} (h : ∀ j < n, rowFits al rb (src j)) :
    shadeBounds (rowPieces src rb n) al = none := by
  simp only [shadeBounds, List.findSome?_eq_none_iff]
  intro p hp
  obtain ⟨j, hj, rfl⟩ := rowPieces_mem hp
  obtain ⟨hal, hend⟩ := h j hj
  rcases hend with h0 | hend
  · simp [hal, h0]
  · by_cases h0 : rb = 0
    · simp [hal, h0]
    · simp [hal, h0, show ¬0x200000 ≤ src j by omega, Nat.not_lt.mpr hend]

/-- The first row out of place is the one told. -/
theorem shadeBounds_first {src : Nat → Nat} {rb n al j : Nat} {f : Flt} (hj : j < n) (h : ∀ q < j, rowFits al rb (src q))
    (hbad : shadeBounds [(src j, rb)] al = some f) : shadeBounds (rowPieces src rb n) al = some f := by
  obtain ⟨qs, hqs⟩ := rowPieces_split src rb hj
  rw [hqs, shadeBounds_append, shadeBounds_append, shadeBounds_fits h, hbad, Option.none_or, Option.some_or]

theorem shadeBounds_off {a rb al : Nat} (h : a % al ≠ 0 ∨ rb ≠ 0 ∧ 0x200000 ≤ a) :
    shadeBounds [(a, rb)] al = some (flt 0x07 a) := by
  by_cases hal : a % al = 0
  · obtain ⟨h0, hlo⟩ := h.resolve_left (not_not_intro hal)
    simp [shadeBounds, hal, h0, hlo]
  · simp [shadeBounds, hal]

theorem shadeBounds_beyond {a rb al : Nat} (hal : a % al = 0) (hlo : a < 0x200000) (hhi : 0x200000 < a + rb) :
    shadeBounds [(a, rb)] al = some (flt 0x07 0x200000) := by
  simp [shadeBounds, hal, show rb ≠ 0 by omega, Nat.not_le.mpr hlo, hhi]

/-- A place below the tiles is lent where it lies in a shade window (07 R161). -/
theorem lentAddr_below {a : Nat} (h : a < 0x200000) : lentAddr a = decide (0x100000 ≤ a) := by
  simp [lentAddr, inTile, inAcc, h, Nat.not_le.mpr h, show ¬0x280000 ≤ a by omega]

/-- A row within the shade windows meets them where its end does. -/
theorem lentAddr_row {a rb : Nat} (h0 : rb ≠ 0) (h : a + rb ≤ 0x200000) :
    (lentAddr a || lentAddr (a + rb - 1)) = decide (0x100000 < a + rb) := by
  rw [lentAddr_below (show a < 0x200000 by omega), lentAddr_below (show a + rb - 1 < 0x200000 by omega), ← Bool.decide_or]
  exact decide_eq_decide.mpr (by omega)

theorem Core.shadeLent_none {c : Core} {src : Nat → Nat} {rb n : Nat}
    (h : ∀ j < n, rb = 0 ∨ c.hot = true ∨ src j + rb ≤ 0x100000) : c.shadeLent (rowPieces src rb n) = none := by
  unfold Core.shadeLent
  split
  · rfl
  next hcold =>
    rw [List.findSome?_eq_none_iff]
    intro p hp
    obtain ⟨j, hj, rfl⟩ := rowPieces_mem hp
    by_cases h0 : rb = 0
    · simp [h0]
    · have hend : src j + rb ≤ 0x100000 := ((h j hj).resolve_left h0).resolve_left hcold
      have hlent := lentAddr_row h0 (show src j + rb ≤ 0x200000 by omega)
      rw [decide_eq_false (by omega), Bool.or_eq_false_iff] at hlent
      simp [hlent.1, hlent.2]

theorem anyShade_rows {src : Nat → Nat} {rb n : Nat} (h : ∀ j < n, rb = 0 ∨ src j + rb ≤ 0x200000) :
    anyShade (rowPieces src rb n) = (List.range n).any fun j => rb ≠ 0 && decide (0x100000 < src j + rb) := by
  have hrow : ∀ j < n, (rb ≠ 0 && (lentAddr (src j) || lentAddr (src j + rb - 1))) =
      (rb ≠ 0 && decide (0x100000 < src j + rb)) := fun j hj => by
    rcases h j hj with h0 | hend
    · simp [h0]
    · by_cases h0 : rb = 0
      · simp [h0]
      · rw [lentAddr_row h0 hend]
  rw [Bool.eq_iff_iff]
  simp only [anyShade, rowPieces, List.any_map, List.any_eq_true, List.mem_range, Function.comp_apply]
  exact exists_congr fun j => and_congr_right fun hj => by rw [hrow j hj]

/-! ## Tile loads (R121) -/

/-- Alignment of a row by its format code (R121). -/
def loadAlign (f : Nat) : Nat := if f ≤ 1 then 4 else if is16 f then 2 else 1

/-- Where row j of a tile load lies. -/
def loadSrc (s : State) (m : BitVec 3) (pitch : BitVec 20) (j : Nat) : Nat := (s.core.mreg m).toNat + j * pitch.toNat

/-- The bytes of a row's codes, padded with zeros (R121). -/
def loadData (s : State) (src : Nat → Nat) (f rb n : Nat) : List Byte :=
  (List.range n).flatMap fun j => ((s.getLs (src j) rb).drop (if f ≤ 1 then 4 else 0)).takeD 256 0

/-- The headers of the rows; zero for a format without (R121). -/
def loadHeaders (s : State) (src : Nat → Nat) (f rb n : Nat) : List Byte :=
  (List.range n).flatMap fun j => if f ≤ 1 then (s.getLs (src j) rb).take 4 else [0, 0, 0, 0]

/-- A tile or a row of the load is lent (01 R17, 07 R166). -/
def loadLent (t : BitVec 3) (src : Nat → Nat) (rb n : Nat) : Bool :=
  4 ≤ t.toNat || (List.range n).any fun j => rb ≠ 0 && decide (0x100000 < src j + rb)

/-- A tile load in flight (R118, R121; 14 R340). -/
def loadFlight (c : Ctl) (t : BitVec 3) (src : Nat → Nat) (f rb n : Nat) (e : QEnt) (s : State) : Plan :=
  { Plan.of .m c (((16 + (n + 1) / 2 + if loadLent t src rb n then 4 else 0) * s.core.sm.div + 1) / 2)
      (if n = 0 then [] else [.write (tileAddr t) n 256 (loadData s src f rb n),
        .write (tileAddr t + 0x8000) 1 0 (loadHeaders s src f rb n)]) with fmt := e.val }

theorem loadLent_ticks {t : BitVec 3} {src : Nat → Nat} {rb n : Nat} (h : ∀ j < n, rb = 0 ∨ src j + rb ≤ 0x200000) :
    max (if anyShade (rowPieces src rb n) then 4 else 0) (namesLent [t]) = if loadLent t src rb n then 4 else 0 := by
  rw [anyShade_rows h, loadLent, namesLent, List.any_cons, List.any_nil, Bool.or_false]
  cases decide (4 ≤ t.toNat) <;> cases (List.range n).any fun j => rb ≠ 0 && decide (0x100000 < src j + rb) <;> rfl

section
variable {c : Ctl} {s : State} {t m : BitVec 3} {pitch : BitVec 20} {role rowsOf : Nat → Nat} {e : QEnt} {rest : List QEnt}
  (ht : t.toNat < 4 ∨ s.core.hot = true) (hq : s.core.dq .fq = e :: rest) (hok : fmtOk e.val.toNat = true)
include ht hq hok

/-- A tile load of a tile in reach, under a good format word, issues a plan whose faults are those of its rows. -/
theorem tileLoad_good {f rb n : Nat} (hf : f = role e.val.toNat) (hrb : rb = rowBytes f (fmtK e.val.toNat))
    (hn : n = rowsOf e.val.toNat) : ∃ p : Plan,
    tileLoad c t m pitch role rowsOf s = issue p s (fun y => y.onCore (·.dqDrop .fq 1)) ∧
    p.st = .m ∧ p.ctl = c ∧ p.decode = none ∧ p.preWait = none ∧ p.wait = false ∧ p.late = none ∧
    p.fault = (shadeBounds (rowPieces (loadSrc s m pitch) rb n) (loadAlign f)).or
      (s.core.shadeLent (rowPieces (loadSrc s m pitch) rb n)) ∧
    (p.fault = none → p.mid = if f ≤ 1 then headerFault s (f = 0) ((List.range n).map (loadSrc s m pitch)) else none) ∧
    (p.fault = none → (∀ j < n, rb = 0 ∨ loadSrc s m pitch j + rb ≤ 0x200000) →
      s.core.issued p = s.core.issued (loadFlight c t (loadSrc s m pitch) f rb n e s)) := by
  subst hf hrb hn
  unfold tileLoad
  simp only [Core.fmtWord_cons hq, Core.lentReg_usable ht, Core.fmtFault_good hq hok, Option.none_or,
    BitVec.ofNat_toNat, BitVec.setWidth_eq]
  refine ⟨_, rfl, rfl, rfl, rfl, rfl, rfl, rfl, rfl, fun hnone => ?_, fun hnone hend => ?_⟩
  · dsimp only at hnone ⊢
    simp only [hnone, Option.isNone_none, Bool.true_and, decide_eq_true_eq, List.map_map]
    rfl
  · refine Core.issued_congr rfl rfl rfl rfl ?_ ?_ rfl rfl rfl rfl
    · exact congrArg (fun k => latHalf s.core.sm.div (16 + ceilDiv _ 2 + k)) (loadLent_ticks hend)
    · dsimp only at hnone ⊢
      simp only [hnone, Option.isNone_none, Bool.not_true, Bool.or_false, decide_eq_true_eq]
      by_cases hf : role e.val.toNat ≤ 1
      · simp only [loadFlight, Plan.of, loadData, loadHeaders, hf, if_true]
        rfl
      · simp only [loadFlight, Plan.of, loadData, loadHeaders, hf, if_false]
        rfl

section
variable (h : s.core.clear c) {f rb : Nat} (hf : f = role e.val.toNat) (hrb : rb = rowBytes f (fmtK e.val.toNat))
include h hf hrb

/-- A row out of place faults (R117 step 4). -/
theorem tileLoad_badRow {j : Nat} {x : Flt} (hj : j < rowsOf e.val.toNat)
    (hfit : ∀ q < j, rowFits (loadAlign f) rb (loadSrc s m pitch q))
    (hbad : shadeBounds [(loadSrc s m pitch j, rb)] (loadAlign f) = some x) :
    tileLoad c t m pitch role rowsOf s = s.faults .m x := by
  obtain ⟨p, hp, hst, hctl, hdec, hpre, hwait, -, hfault, -, -⟩ :=
    tileLoad_good (c := c) (m := m) (pitch := pitch) ht hq hok hf hrb rfl
  rw [hp, ← hst]
  exact issue_faults (hctl ▸ h) hdec hpre hwait
    (hfault.trans (by rw [shadeBounds_first hj hfit hbad, Option.some_or])) _

variable (hfit : ∀ j < rowsOf e.val.toNat, rowFits (loadAlign f) rb (loadSrc s m pitch j))
  (hreach : ∀ j < rowsOf e.val.toNat, rb = 0 ∨ s.core.hot = true ∨ loadSrc s m pitch j + rb ≤ 0x100000)
include hfit hreach

/-- With every row in place and in reach, a bad header faults (R117 step 5). -/
theorem tileLoad_badHeader {j : Nat} (hblock : f ≤ 1) (hj : j < rowsOf e.val.toNat)
    (hbad : hdrOk (s.getLe (loadSrc s m pitch j) 4) (f = 0) = false)
    (hgood : ∀ q < j, hdrOk (s.getLe (loadSrc s m pitch q) 4) (f = 0) = true) :
    tileLoad c t m pitch role rowsOf s = s.faults .m (flt 0x05 (loadSrc s m pitch j)) := by
  obtain ⟨p, hp, hst, hctl, hdec, hpre, hwait, -, hfault, hmid, -⟩ :=
    tileLoad_good (c := c) (m := m) (pitch := pitch) ht hq hok hf hrb rfl
  rw [shadeBounds_fits hfit, Core.shadeLent_none hreach, Option.none_or] at hfault
  rw [hp, ← hst]
  exact issue_midFaults (hctl ▸ h) hdec hpre hwait hfault
    ((hmid hfault).trans ((if_pos hblock).trans (headerFault_first hj hbad hgood))) _

/-- With every row in place and in reach, and good headers, a tile load issues (R118, R121). -/
theorem tileLoad_goes
    (hgood : f ≤ 1 → ∀ j < rowsOf e.val.toNat, hdrOk (s.getLe (loadSrc s m pitch j) 4) (f = 0) = true) :
    tileLoad c t m pitch role rowsOf s =
      s.goesWith (loadFlight c t (loadSrc s m pitch) f rb (rowsOf e.val.toNat) e s) (·.dqDrop .fq 1) := by
  obtain ⟨p, hp, -, hctl, hdec, hpre, hwait, hlate, hfault, hmid, hissued⟩ :=
    tileLoad_good (c := c) (m := m) (pitch := pitch) ht hq hok hf hrb rfl
  rw [shadeBounds_fits hfit, Core.shadeLent_none hreach, Option.none_or] at hfault
  have hmid' : p.mid = none := by
    rw [hmid hfault]
    split
    next hblock => exact headerFault_none (hgood hblock)
    next => rfl
  rw [hp]
  exact issue_goesWith (hctl ▸ h) hdec hpre hwait hfault hmid' hlate (hissued hfault fun j hj => (hfit j hj).2) rfl
end
end

/-! ## The statement -/

theorem rowBytes_eq (f k : Nat) : rowBytes f k =
    if f = 0 then 260 else if f = 1 then 132 else if f = 2 ∨ f = 3 then 2 * k else if f = 5 then (k + 1) / 2 else k := by
  simp [rowBytes, is16, ceilDiv]

theorem loadAlign_eq (f : Nat) : loadAlign f = if f ≤ 1 then 4 else if f = 2 ∨ f = 3 then 2 else 1 := by
  simp [loadAlign, is16]

/-- TLD serves the rows of A, TLDB those of B (R121). -/
theorem exec_tileLoad (second : Bool) (c : Ctl) (t m : BitVec 3) (pitch : BitVec 20) (s : State) :
    exec (if second then .tldb c t m pitch else .tld c t m pitch) s =
      tileLoad c t m pitch (fun x => if second then fmtBF x else fmtAF x) (fun x => if second then fmtN x else fmtM x) s := by
  cases second <;> rfl

/-- Settles O21: the first faults of a tile command are those of R117's steps, and a tile load whose rows are in place
issues the plan of `loadFlight`. -/
theorem tileCommandsCheckAndLoad : Obligations.TileCommandsCheckAndLoad := by
  unfold Obligations.TileCommandsCheckAndLoad
  refine ⟨fun c a t u m m2 w v pitch s h harr => ?_, fun c t m pitch e rest second s h ht hq hok => ?_⟩
  · refine ⟨fun ht => ?_, fun ha => ?_, fun ht ha hu hq => ?_, fun ht ha hu e rest hq => ?_⟩
    · have hl := Core.lentReg_refused ht (tileAddr t)
      have hf (b : Bool) : s.core.fmtFault (s.core.lentReg (tileAddr t) t) b = some (flt 0x06 (tileAddr t)) := by
        rw [hl, Core.fmtFault_lent]
      exact ⟨tileLoad_faults h t m pitch _ _ (hf _), tileLoad_faults h t m pitch _ _ (hf _),
        sumWord_faults h w t _ _ _ (hf _), sumWord_faults h w t _ _ _ (hf _), execTzero_faults h t hl⟩
    · have hl := Core.lentReg_refused ha (accAddr a)
      have hf (b : Bool) : s.core.fmtFault (s.core.lentReg (accAddr a) a) b = some (flt 0x06 (accAddr a)) := by
        rw [hl, Core.fmtFault_lent]
      have hmma : s.core.fmtFault (((s.core.lentReg (accAddr a) a).or (s.core.lentReg (tileAddr t) t)).or
          (s.core.lentReg (tileAddr u) u)) true = some (flt 0x06 (accAddr a)) := by
        rw [hl, Option.some_or, Option.some_or, Core.fmtFault_lent]
      exact ⟨execMma_refused h harr a t u hmma, execZpc_faults h a w v (hf _), execDrain_faults h a m m2 pitch (hf _),
        execAclr_faults h a hl, execAmov_faults h a u hl⟩
    · exact tileCommands_fault h harr m m2 w v pitch ht ha hu fun extra => Core.fmtFault_empty hq extra
    · have hrefused {n : BitVec 3} (hn : n.toNat < 4 ∨ s.core.hot = true) (addr : Nat) {extra : Bool}
          (hx : extra = false) : s.core.fmtFault (s.core.lentReg addr n) extra = some (flt 0x04) := by
        rw [Core.lentReg_usable hn, Core.fmtFault_refused hq (by rw [hx, Bool.and_false])]
      have hx := Core.fmtWord_cons hq
      refine ⟨fun hbad => ?_, fun h4 h5 => ?_, fun h4 h5 => ?_, fun h0 => ?_⟩
      · exact tileCommands_fault h harr m m2 w v pitch ht ha hu fun extra =>
          Core.fmtFault_refused hq (by rw [hbad, Bool.false_and])
      · exact sumWord_faults h w t _ _ _ (hrefused ht _ (by rw [hx, isIntF_eq_false h4 h5]))
      · exact sumWord_faults h w t _ _ _ (hrefused ht _ (by rw [hx, isIntF_eq_false h4 h5]))
      · exact execZpc_faults h a w v (hrefused ha _ (by rw [hx]; exact decide_eq_false (not_not_intro h0)))
  · dsimp only
    simp only [exec_tileLoad, ← rowBytes_eq, ← loadAlign_eq]
    refine ⟨fun hfit hreach hgood => ?_, fun j hj hbad hfit => ?_, fun j hj hal hlo hhi hfit => ?_,
      fun hfit hreach hblock j hj hbad hgood => ?_⟩
    · exact tileLoad_goes ht hq hok h rfl rfl hfit hreach hgood
    · exact tileLoad_badRow ht hq hok h rfl rfl hj hfit (shadeBounds_off hbad)
    · exact tileLoad_badRow ht hq hok h rfl rfl hj hfit (shadeBounds_beyond hal hlo hhi)
    · exact tileLoad_badHeader ht hq hok h rfl rfl hfit hreach hblock hj hbad hgood

end Sys2Proof.Machine
end

section
/-! PROOFS. What an event leaves to the power manager: its registers, and each tenant's floor and draw (13 R324, R328;
15 R357). -/

namespace Sys2Proof.Machine

/-! ## Floors and draws of the tenants -/

/-- Each tenant's floor and draw. -/
def State.shares (s : State) : Vector (BitVec 12 × BitVec 12) 16 := s.ten.map fun x => (x.floor, x.tdraw)

/-- What a sample of the power manager works on: its registers, and each tenant's floor and draw. -/
def State.metered (s : State) : Power × Vector (BitVec 12 × BitVec 12) 16 := (s.pw, s.shares)

theorem State.metered_iff {s : State} {p : Power} {v : Vector (BitVec 12 × BitVec 12) 16} :
    s.metered = (p, v) ↔ s.pw = p ∧ s.shares = v := Prod.mk_inj

theorem State.tenant_eq (s : State) (t : BitVec 4) : s.tenant t = s.ten[t.toNat]'t.isLt := by
  simp [State.tenant, vget, t.isLt]

theorem State.setTenant_ten (s : State) (t : BitVec 4) (x : Tenant) : (s.setTenant t x).ten = s.ten.set t.toNat x t.isLt := by
  simp [State.setTenant, vset, t.isLt]

theorem State.setTenant_metered {s : State} {t : BitVec 4} {x : Tenant} (hf : x.floor = (s.tenant t).floor)
    (hd : x.tdraw = (s.tenant t).tdraw) : (s.setTenant t x).metered = s.metered := by
  rw [State.tenant_eq] at hf hd
  refine Prod.ext rfl (Vector.ext fun i hi => ?_)
  simp only [State.metered, State.shares, State.setTenant_ten, Vector.getElem_map, Vector.getElem_set]
  split
  next hti => subst hti; rw [hf, hd]
  next => rfl

/-! ## Steps in any number -/

theorem State.foldl_metered {α : Type} {f : State → α → State} (h : ∀ s x, (f s x).metered = s.metered) (xs : List α)
    (s : State) : (xs.foldl f s).metered = s.metered := by
  induction xs generalizing s with
  | nil => rfl
  | cons x xs ih => rw [List.foldl_cons, ih, h]

/-- The same of steps that may fail, a failure being the end. -/
theorem State.foldl_ok_metered {ε α : Type} {f : Except ε State → α → Except ε State}
    (herr : ∀ e x, f (.error e) x = .error e)
    (h : ∀ s x t, f (.ok s) x = .ok t → t.metered = s.metered) (xs : List α) {s t : State}
    (ht : xs.foldl f (.ok s) = .ok t) : t.metered = s.metered := by
  have stays (e : ε) (ys : List α) : ys.foldl f (.error e) = .error e := by
    induction ys with
    | nil => rfl
    | cons y ys ih => rw [List.foldl_cons, herr, ih]
  induction xs generalizing s with
  | nil => cases ht; rfl
  | cons x xs ih =>
    rw [List.foldl_cons] at ht
    cases hx : f (.ok s) x with
    | error e => rw [hx, stays] at ht; cases ht
    | ok u => exact (ih (hx ▸ ht)).trans (h s x u hx)

/-! ## Device memory -/

@[simp] theorem State.touchCache_metered (s : State) (enter : Bool) (g : Nat) : (s.touchCache enter g).metered = s.metered := by
  obtain ⟨l, hl⟩ := s.touchCache_cache enter g
  rw [hl]
  rfl

@[simp] theorem State.usedPath_metered (s : State) (x : Grain) : (s.usedPath x).metered = s.metered := by
  obtain ⟨l, hl⟩ := s.usedPath_cache x
  rw [hl]
  rfl

@[simp] theorem State.moves_metered (s : State) (t : BitVec 4) (h : Home) (g : Nat) : (s.moves t h g).metered = s.metered := by
  unfold State.moves
  split
  · rfl
  · exact State.setTenant_metered rfl rfl

@[simp] theorem State.markGranule_metered (s : State) (g : Nat) : (s.markGranule g).metered = s.metered := by
  unfold State.markGranule
  split
  · simp only
    split <;> rfl
  · rfl

@[simp] theorem State.setTag_metered (s : State) (g : Nat) (w : BitVec 12) (r : BitVec 20) :
    (s.setTag g w r).metered = s.metered := by
  unfold State.setTag
  simp only
  split <;> rfl

@[simp] theorem State.devWrite_metered (s : State) (g : Nat) (bs : List (Nat × Byte)) (w : BitVec 12) (r : BitVec 20) :
    (s.devWrite g bs w r).metered = s.metered := by
  unfold State.devWrite
  rw [State.setTag_metered]
  exact (State.markGranule_metered _ g).trans (s.touchCache_metered false g)

@[simp] theorem State.devOr_metered (s : State) (a : Nat) (b : Byte) : (s.devOr a b).metered = s.metered :=
  (State.markGranule_metered _ _).trans (s.touchCache_metered true _)

@[simp] theorem State.writeGrain_metered (s : State) (h : Home) (g : Nat) (bs : List (Nat × Byte)) (w : BitVec 12)
    (r : BitVec 20) : (s.writeGrain h g bs w r).metered = s.metered := by
  cases h with
  | dev => exact s.devWrite_metered g bs w r
  | host | peer | core => rfl

theorem State.virtWrite_metered {s t : State} {c : Ctx} {v : Nat} {bs : List Byte} (h : s.virtWrite c v bs = .ok t) :
    t.metered = s.metered := by
  refine State.foldl_ok_metered (fun e g => rfl) (fun s g t ht => ?_) _ h
  simp only at ht
  split at ht
  · cases ht
  · split at ht <;> cases ht <;> simp

@[simp] theorem State.keep_metered (s : State) (t : TlbEnt) : (s.keep t).metered = s.metered := by
  unfold State.keep
  split <;> rfl

@[simp] theorem State.noteDist_metered (s : State) (c : Ctx) (v n : Nat) : (s.noteDist c v n).metered = s.metered := by
  unfold State.noteDist
  split
  · rfl
  · refine State.foldl_metered (fun s i => ?_) _ s
    simp only
    split
    · rfl
    · exact State.keep_metered _ _

/-! ## Events (R357) -/

@[simp] theorem State.raise_metered (s : State) (t : BitVec 4) (v : Nat) : (s.raise t v).metered = s.metered := by
  unfold State.raise
  simp only
  split
  · exact State.setTenant_metered rfl rfl
  · rfl

@[simp] theorem State.setNote_metered (s : State) (t : BitVec 4) (note : W32) : (s.setNote t note).metered = s.metered :=
  State.setTenant_metered (s := s) (t := t) (x := { (s.tenant t) with note := note }) rfl rfl

@[simp] theorem State.noticed_metered (s : State) (t : BitVec 4) (code : Nat) : (s.noticed t code).metered = s.metered := by
  simp [State.noticed]

theorem State.emit_metered (s : State) (t : BitVec 4) (ty code : Nat) (w1 w2 w3 : W64) :
    (s.emit t ty code w1 w2 w3).metered = s.metered := by
  have drop (u : State) (hu : u.metered = s.metered) : (if ty = 3 then u.noticed t code else u).metered = s.metered := by
    split
    · rw [State.noticed_metered, hu]
    · exact hu
  unfold State.emit
  simp only
  split
  · exact drop s rfl
  · split
    · exact drop _ (State.setTenant_metered rfl rfl)
    · split
      · exact drop s rfl
      next s0 h0 =>
        have hs0 : (s0.noteDist (s.tenantCtx t distEng) (s.tenant t).slotAt 32).metered = s.metered := by
          rw [State.noteDist_metered, State.virtWrite_metered h0]
        split
        · refine (State.noticed_metered _ t code).trans (Eq.trans ?_ hs0)
          exact State.setTenant_metered rfl rfl
        · refine (State.raise_metered _ t 0).trans (Eq.trans ?_ hs0)
          exact State.setTenant_metered rfl rfl

theorem State.flushEvents_metered (s : State) (t : BitVec 4) (n : Nat) : (s.flushEvents t n).metered = s.metered := by
  induction n generalizing s with
  | zero => rfl
  | succ n ih =>
    unfold State.flushEvents
    simp only
    split
    · rfl
    · split
      · rfl
      · refine (ih _).trans ((State.emit_metered _ t _ _ _ _ _).trans ?_)
        exact State.setTenant_metered rfl rfl

@[simp] theorem State.event_metered (s : State) (t : BitVec 4) (ty code : Nat) (w1 w2 w3 : W64) :
    (s.event t ty code w1 w2 w3).metered = s.metered := by
  unfold State.event
  simp only
  split
  · exact s.emit_metered t ty code w1 w2 w3
  · refine (State.flushEvents_metered _ t _).trans ?_
    exact State.setTenant_metered rfl rfl

end Sys2Proof.Machine
end

section
/-! PROOFS. What a sample of the power manager leaves: the values it publishes, and its ladder (13 R324 to R328). -/

namespace Sys2Proof.Machine

/-! ## Registers, floors and draws -/

/-- A change of the registers after steps that leave them. -/
theorem State.metered_onPw {s u : State} (h : u.metered = s.metered) (f : Power → Power) :
    State.metered { u with pw := f u.pw } = (f s.pw, s.shares) := by
  obtain ⟨hpw, hsh⟩ := State.metered_iff.mp h
  exact State.metered_iff.mpr ⟨congrArg f hpw, hsh⟩

theorem State.shares_get (s : State) {i : Nat} (hi : i < 16) :
    s.shares[i] = ((vget s.ten i .reset).floor, (vget s.ten i .reset).tdraw) := by
  simp [State.shares, vget, hi]

theorem State.floorSum_eq (s : State) : s.floorSum = (s.shares.toList.map fun x => x.1.toNat).sum := by
  simp [State.floorSum, State.shares, Vector.toList_map, Function.comp_def]

/-! ## Publishing (R324) -/

/-- A tenant's draw is published, and the grains moved for it are counted anew. -/
def State.meter (d : BitVec 4 → BitVec 12) (s : State) (t : BitVec 4) : State :=
  s.setTenant t { (s.tenant t) with tdraw := d t, moved := .replicate 8 0 }

theorem State.meter_shares (d : BitVec 4 → BitVec 12) (s : State) (t : BitVec 4) :
    (s.meter d t).shares = s.shares.set t.toNat (s.shares[t.toNat].1, d t) t.isLt := by
  refine Vector.ext fun i hi => ?_
  simp only [State.meter, State.shares, State.setTenant_ten, State.tenant_eq, Vector.getElem_map, Vector.getElem_set]
  split <;> rfl

/-- The first n tenants' draws are published: the registers and the floors stay. -/
theorem State.foldl_meter (d : BitVec 4 → BitVec 12) (s : State) (n : Nat) (hn : n ≤ 16) :
    (((List.range n).map (BitVec.ofNat 4)).foldl (State.meter d) s).metered = (s.pw, Vector.ofFn fun i =>
      (s.shares[i].1, if i.val < n then d (BitVec.ofNat 4 i) else s.shares[i].2)) := by
  induction n with
  | zero =>
    refine State.metered_iff.mpr ⟨rfl, Vector.ext fun i hi => ?_⟩
    simp
  | succ n ih =>
    have ih := ih (by omega)
    rw [List.range_succ, List.map_append, List.foldl_append]
    generalize ((List.range n).map (BitVec.ofNat 4)).foldl (State.meter d) s = u at ih
    obtain ⟨hpw, hsh⟩ := State.metered_iff.mp ih
    have htn : (BitVec.ofNat 4 n).toNat = n := by rw [BitVec.toNat_ofNat]; omega
    refine State.metered_iff.mpr ⟨hpw, Vector.ext fun i hi => ?_⟩
    rw [List.map_singleton, List.foldl_cons, List.foldl_nil, State.meter_shares, Vector.getElem_set]
    simp only [hsh, htn, Vector.getElem_ofFn]
    by_cases hni : n = i
    · subst hni; simp
    · have hlt : i < n + 1 ↔ i < n := by omega
      simp only [hni, if_false, hlt]

theorem State.publish_eq (s : State) (draw idle inlet : Nat) (draws : List Nat) :
    s.publish draw idle inlet draws =
      ((List.range 16).map (BitVec.ofNat 4)).foldl
        (State.meter fun t => BitVec.ofNat 12 (s.attributed (draws.take drawCount) idle t))
        { s with pw := { s.pw.sensed draws with
          draw := BitVec.ofNat 12 draw, idle := BitVec.ofNat 12 idle, inlet := inlet } } := rfl

theorem State.publish_metered (s : State) (draw idle inlet : Nat) (draws : List Nat) :
    (s.publish draw idle inlet draws).metered = (
      { s.pw.sensed draws with draw := BitVec.ofNat 12 draw, idle := BitVec.ofNat 12 idle, inlet := inlet },
      Vector.ofFn fun i => (s.shares[i].1,
        BitVec.ofNat 12 (s.attributed (draws.take drawCount) idle (BitVec.ofNat 4 i)))) := by
  rw [State.publish_eq, State.foldl_meter _ _ 16 le_rfl]
  refine Prod.ext rfl (Vector.ext fun i hi => ?_)
  simp only [Vector.getElem_ofFn, hi, if_true]
  rfl

/-! ## Notices and floors (R327, R328) -/

@[simp] theorem State.notices_metered (s : State) (ts : List (BitVec 4)) (bit : Nat) (mask : BitVec 4 → Nat) :
    (s.notices ts bit mask).metered = s.metered :=
  State.foldl_metered (fun s t => s.event_metered t _ _ _ _ _) ts s

theorem State.scaleFloors_metered (s : State) :
    s.scaleFloors.metered = ({ s.pw with scaled := decide (s.pw.acting < s.floorSum) }, s.shares) := by
  unfold State.scaleFloors
  simp only
  split
  · exact State.notices_metered _ _ _ _
  · rfl

/-! ## The ladder (R325, R326) -/

@[simp] theorem State.setCluster_metered (s : State) (n : Nat) (c : Cluster) : (s.setCluster n c).metered = s.metered := rfl

@[simp] theorem State.askClock_metered (s : State) (n k : Nat) : (s.askClock n k).metered = s.metered := rfl

theorem State.tellHot_metered (s : State) : ∃ o, s.tellHot.metered = ({ s.pw with told := o }, s.shares) :=
  ⟨_, State.notices_metered _ _ _ _⟩

theorem State.holdAbove_metered (s : State) : ∃ h, s.holdAbove.metered = ({ s.pw with held := h }, s.shares) :=
  ⟨_, State.notices_metered _ _ _ _⟩

/-- At most one more step stands on the ladder. -/
def oneMore (l k : List Rung) : Prop := k = l ∨ ∃ r, k = r :: l

theorem State.lowerOne_metered {s t : State} (h : s.lowerOne = some t) :
    ∃ l, t.metered = ({ s.pw with ladder := l }, s.shares) ∧ oneMore s.pw.ladder l := by
  unfold State.lowerOne at h
  simp only at h
  split at h
  · cases h
  · obtain ⟨p, -, rfl⟩ := Option.map_eq_some_iff.mp h
    split
    · exact ⟨_, rfl, .inl rfl⟩
    · exact ⟨_, rfl, .inr ⟨_, rfl⟩⟩

theorem State.gateMore_metered {s t : State} (h : s.gateMore = some t) :
    ∃ l, t.metered = ({ s.pw with ladder := l }, s.shares) ∧ oneMore s.pw.ladder l := by
  unfold State.gateMore at h
  simp only at h
  split at h
  · cases h
  · cases h
    have hgate (xs : List Nat) : (xs.foldl (fun s n => s.setCluster n { (s.cluster n) with g := (s.cluster n).g + 1 })
        s).metered = s.metered := State.foldl_metered (fun u n => u.setCluster_metered n _) xs s
    rw [State.notices_metered]
    exact ⟨_, State.metered_onPw (hgate _) fun p => { p with ladder := .gate _ :: p.ladder }, .inr ⟨_, rfl⟩⟩

theorem State.takeStep_metered (s : State) : ∃ l h o,
    s.takeStep.metered = ({ s.pw with ladder := l, held := h, told := o }, s.shares) ∧ oneMore s.pw.ladder l := by
  unfold State.takeStep
  simp only
  split
  next t ht =>
    obtain ⟨l, hl, hmore⟩ := State.lowerOne_metered ht
    exact ⟨l, _, _, hl, hmore⟩
  · split
    · obtain ⟨o, ho⟩ := State.tellHot_metered { s with pw := { s.pw with ladder := .hot :: s.pw.ladder } }
      exact ⟨_, _, o, ho, .inr ⟨_, rfl⟩⟩
    · split
      · obtain ⟨h, hh⟩ := State.holdAbove_metered { s with pw := { s.pw with ladder := .hold :: s.pw.ladder } }
        exact ⟨_, h, _, hh, .inr ⟨_, rfl⟩⟩
      · cases hg : s.gateMore with
        | none => exact ⟨_, _, _, rfl, .inl rfl⟩
        | some t =>
          obtain ⟨l, hl, hmore⟩ := State.gateMore_metered hg
          exact ⟨l, _, _, hl, hmore⟩

theorem State.undoStep_metered (s : State) : ∃ h o,
    s.undoStep.metered = ({ s.pw with ladder := s.pw.ladder.tail, held := h, told := o }, s.shares) := by
  unfold State.undoStep
  split
  next hl =>
    have htail : s.pw.ladder.tail = s.pw.ladder := by rw [hl]; rfl
    exact ⟨s.pw.held, s.pw.told, by rw [htail]; rfl⟩
  next r rest hl =>
    rw [show s.pw.ladder.tail = rest by rw [hl]; rfl]
    cases r with
    | lower n =>
      simp only
      split <;> exact ⟨_, _, rfl⟩
    | hot | hold => exact ⟨_, _, rfl⟩
    | gate mask =>
      refine ⟨_, _, State.foldl_metered (fun u n => ?_) _ _⟩
      simp only
      split <;> rfl

/-- Sparing the tenants at or below their floors changes who is held, and nothing else of the ladder. -/
theorem State.spare_metered (s : State) : ∃ h, s.spare.metered = ({ s.pw with held := h }, s.shares) := by
  have hkeep (u : State) : ((List.range 8).foldl (fun s n =>
      if (s.cluster n).g ≠ 0 && !s.gateable n then s.setCluster n { (s.cluster n) with g := 0, stopped := false } else s)
      u).metered = u.metered := State.foldl_metered (fun v n => by simp only; split <;> rfl) _ u
  unfold State.spare
  simp only
  rw [hkeep]
  split
  · exact s.holdAbove_metered
  · exact ⟨s.pw.held, rfl⟩

theorem State.unattainable_metered (s : State) :
    ∃ l, s.unattainable.metered = ({ s.pw with unatt := true, ladder := l, below := 0 }, s.shares) := by
  have hask (xs : List Nat) : (xs.foldl (fun s n => s.askClock n 0) s).metered = s.metered :=
    State.foldl_metered (fun u n => u.askClock_metered n 0) xs s
  unfold State.unattainable
  simp only
  rw [State.notices_metered]
  exact ⟨_, State.metered_onPw (hask _) fun p => { p with unatt := true, ladder := _ ++ p.ladder, below := 0 }⟩

theorem State.attainable_metered (s : State) : ∃ l,
    s.attainable.metered = ({ s.pw with unatt := false, ladder := l, held := 0, told := 0, below := 0 }, s.shares) := by
  refine ⟨_, State.foldl_metered (fun s n => ?_) _ _⟩
  rfl

/-- What one sample may do to the ladder and to the count of samples below 95 % of the cap that is pursued (R325; DEDUCED,
log 32). -/
def Power.climbs (p : Power) (l : List Rung) (b : Nat) : Prop :=
  (p.pursued < p.draw.toNat → b = 0 ∧ oneMore p.ladder l) ∧
  (p.draw.toNat ≤ p.pursued → 95 * p.pursued ≤ 100 * p.draw.toNat → b = 0 ∧ l = p.ladder) ∧
  (100 * p.draw.toNat < 95 * p.pursued →
    b = min 10 (p.below + 1) ∧ l = if 9 ≤ p.below then p.ladder.tail else p.ladder)

theorem State.ladderSample_metered (s : State) : ∃ l b h o, s.ladderSample.metered =
    ({ s.pw with ladder := l, below := b, held := h, told := o }, s.shares) ∧ s.pw.climbs l b := by
  have htold : ∃ o, (if s.pw.ladder.contains .hot then s.tellHot else s).metered = ({ s.pw with told := o }, s.shares) := by
    split
    · exact s.tellHot_metered
    · exact ⟨s.pw.told, rfl⟩
  unfold State.ladderSample
  simp only
  obtain ⟨o, hu⟩ := htold
  generalize (if s.pw.ladder.contains .hot then s.tellHot else s) = u at hu ⊢
  obtain ⟨hpw, hsh⟩ := State.metered_iff.mp hu
  have hcap : u.pw.pursued = s.pw.pursued := by rw [hpw]; rfl
  have hdraw : u.pw.draw = s.pw.draw := by rw [hpw]
  have hbelow : u.pw.below = s.pw.below := by rw [hpw]
  split
  next habove =>
    rw [hcap, hdraw] at habove
    obtain ⟨l, h, o, hm, hmore⟩ := State.takeStep_metered { u with pw := { u.pw with below := 0 } }
    refine ⟨l, 0, h, o, hm.trans (Prod.ext (by simp only [hpw]) hsh), ?_⟩
    simp only [hpw] at hmore
    exact ⟨fun _ => ⟨rfl, hmore⟩, by omega, by omega⟩
  next habove =>
    rw [hcap, hdraw] at habove
    split
    next hlow =>
      rw [hcap, hdraw] at hlow
      rw [hbelow]
      split
      next hten =>
        obtain ⟨h, o, hm⟩ := State.undoStep_metered { u with pw := { u.pw with below := min 10 (s.pw.below + 1) } }
        refine ⟨s.pw.ladder.tail, min 10 (s.pw.below + 1), h, o, hm.trans (Prod.ext (by simp only [hpw]) hsh),
          by omega, by omega, fun _ => ⟨rfl, ?_⟩⟩
        rw [if_pos (by omega)]
      next hten =>
        refine ⟨s.pw.ladder, min 10 (s.pw.below + 1), s.pw.held, o, State.metered_iff.mpr ⟨by simp only [hpw], hsh⟩,
          by omega, by omega, fun _ => ⟨rfl, ?_⟩⟩
        rw [if_neg (by omega)]
    next hlow =>
      rw [hcap, hdraw] at hlow
      exact ⟨s.pw.ladder, 0, s.pw.held, o, State.metered_iff.mpr ⟨by simp only [hpw], hsh⟩, by omega,
        fun _ _ => ⟨rfl, rfl⟩, by omega⟩

/-! ## A sample as a whole (R324 to R327) -/

theorem State.spare_of_metered {u : State} {p : Power} {v : Vector (BitVec 12 × BitVec 12) 16} (hu : u.metered = (p, v)) :
    ∃ h, u.spare.metered = ({ p with held := h }, v) := by
  obtain ⟨rfl, rfl⟩ := State.metered_iff.mp hu
  exact u.spare_metered

/-- What follows the publishing: every cluster goes down where the cap is below IDLE, else the ladder. -/
def State.pursue (s : State) : State :=
  if s.pw.acting < s.pw.idle.toNat then (if s.pw.unatt then s else s.unattainable).spare
  else (if s.pw.unatt then s.attainable else s).ladderSample.spare

theorem execPowerSample_eq {s : State} (hv : s.boot.verified = true) (draw idle inlet : Nat) (draws : List Nat) :
    execPowerSample draw idle inlet draws s = .next (s.publish draw idle inlet draws).scaleFloors.pursue := by
  simp [execPowerSample, hv, State.pursue]

theorem State.pursue_metered (s : State) : ∃ l b h o, s.pursue.metered =
    ({ s.pw with unatt := decide (s.pw.acting < s.pw.idle.toNat), ladder := l, below := b, held := h, told := o }, s.shares) ∧
    (s.pw.unatt = false → s.pw.idle.toNat ≤ s.pw.acting → s.pw.climbs l b) := by
  unfold State.pursue
  split
  next hlow =>
    rw [decide_eq_true hlow]
    have hnot {l : List Rung} {b : Nat} : s.pw.idle.toNat ≤ s.pw.acting → s.pw.climbs l b := fun h => absurd hlow (by omega)
    split
    next hunatt =>
      obtain ⟨h, hm⟩ := s.spare_metered
      exact ⟨s.pw.ladder, s.pw.below, h, s.pw.told, hm.trans (by rw [← hunatt]), fun _ => hnot⟩
    next =>
      obtain ⟨l, hl⟩ := s.unattainable_metered
      obtain ⟨h, hm⟩ := State.spare_of_metered hl
      exact ⟨l, 0, h, s.pw.told, hm, fun _ => hnot⟩
  next hlow =>
    rw [decide_eq_false hlow]
    split
    next hunatt =>
      obtain ⟨l, hl⟩ := s.attainable_metered
      obtain ⟨hpw, hsh⟩ := State.metered_iff.mp hl
      obtain ⟨l, b, _, o, hm, -⟩ := s.attainable.ladderSample_metered
      obtain ⟨h, hm⟩ := State.spare_of_metered hm
      refine ⟨l, b, h, o, hm.trans (Prod.ext (by simp only [hpw]) hsh), fun hoff => ?_⟩
      rw [hunatt] at hoff
      cases hoff
    next hunatt =>
      obtain ⟨l, b, _, o, hm, hclimb⟩ := s.ladderSample_metered
      obtain ⟨h, hm⟩ := State.spare_of_metered hm
      refine ⟨l, b, h, o, hm.trans ?_, fun _ _ => hclimb⟩
      rw [← Bool.eq_false_iff.mpr hunatt]

theorem State.publish_floorSum (s : State) (draw idle inlet : Nat) (draws : List Nat) :
    (s.publish draw idle inlet draws).floorSum = s.floorSum := by
  obtain ⟨-, hsh⟩ := State.metered_iff.mp (s.publish_metered draw idle inlet draws)
  have hfloors : (s.publish draw idle inlet draws).shares.map Prod.fst = s.shares.map Prod.fst := by
    rw [hsh]
    refine Vector.ext fun i hi => ?_
    simp only [Vector.getElem_map, Vector.getElem_ofFn]
    rfl
  have hsum (u : State) : u.floorSum = ((u.shares.map Prod.fst).toList.map BitVec.toNat).sum := by
    rw [u.floorSum_eq, Vector.toList_map, List.map_map]
    rfl
  rw [hsum, hsum, hfloors]

theorem Power.sensed_junction (p : Power) (l : List Nat) {i : Nat} (hi : i < 8) :
    vget (p.sensed l).junction i 0 = l.getD (drawCount + i) (vget p.junction i 0) := by
  simp [Power.sensed, vget, hi]

/-- A sample of verified firmware: what is published, and where the ladder stands after it. -/
theorem execPowerSample_spec {s : State} (hv : s.boot.verified = true) (draw idle inlet : Nat) (draws : List Nat) :
    ∃ t l b h o, execPowerSample draw idle inlet draws s = .next t ∧
      let p : Power := { s.pw.sensed draws with
        draw := BitVec.ofNat 12 draw, idle := BitVec.ofNat 12 idle, inlet := inlet,
        scaled := decide (s.pw.acting < s.floorSum) }
      t.pw = { p with unatt := decide (p.acting < p.idle.toNat), ladder := l, below := b, held := h, told := o } ∧
      (∀ i < 16, (vget t.ten i .reset).tdraw =
          BitVec.ofNat 12 (s.attributed (draws.take drawCount) idle (BitVec.ofNat 4 i)) ∧
        (vget t.ten i .reset).floor = (vget s.ten i .reset).floor) ∧
      (p.unatt = false → p.idle.toNat ≤ p.acting → p.climbs l b) := by
  obtain ⟨hpw, hsh⟩ := State.metered_iff.mp (s.publish_metered draw idle inlet draws)
  obtain ⟨hpw1, hsh1⟩ := State.metered_iff.mp (s.publish draw idle inlet draws).scaleFloors_metered
  rw [State.publish_floorSum, hpw] at hpw1
  rw [hsh] at hsh1
  obtain ⟨l, b, h, o, hm, hclimb⟩ := (s.publish draw idle inlet draws).scaleFloors.pursue_metered
  rw [hpw1, hsh1] at hm
  rw [hpw1] at hclimb
  obtain ⟨hpw2, hsh2⟩ := State.metered_iff.mp hm
  refine ⟨_, l, b, h, o, execPowerSample_eq hv draw idle inlet draws, hpw2, fun i hi => ?_, hclimb⟩
  have ht := State.shares_get (s.publish draw idle inlet draws).scaleFloors.pursue hi
  simp only [hsh2, Vector.getElem_ofFn] at ht
  obtain ⟨hfloor, hdraw⟩ := Prod.mk_inj.mp ht
  exact ⟨hdraw.symm, hfloor.symm.trans (congrArg Prod.fst (s.shares_get hi))⟩

end Sys2Proof.Machine
end

section
/-! PROOFS. Steps of the clusters' clocks: holds, throttling, trips, parking and the return (13 R320 to R329). -/

namespace Sys2Proof.Machine

/-! ## One cluster -/

theorem State.runsIn_eq_false_iff {n : Nat} {s : State} :
    s.runsIn n = false ↔ ∀ p ∈ (s.cur, s.core) :: s.parked, p.1 / 256 = n → p.2.runs = false := by
  simp only [State.runsIn, State.cores, List.any_eq_false, Bool.and_eq_true, decide_eq_true_eq, not_and, Bool.not_eq_true]
  rfl

section
variable {n : Nat} (hn : n < 8) (s : State)
include hn

theorem onCluster_eq (f : Cluster → Cluster) :
    onCluster n f s = .next { s with cl := vset s.cl n (f (vget s.cl n .reset)) } := by
  simp only [onCluster, hn, if_true]
  rfl

theorem onManaged_eq (f : Cluster → Cluster) : onManaged n f s =
    .next { s with cl := vset s.cl n (if s.boot.verified then f (vget s.cl n .reset) else vget s.cl n .reset) } :=
  onCluster_eq hn s _

/-! ## Clock changes (R320, R321, R323) -/

/-- A hold ends with the new step. -/
theorem execClockHoldEnd_held {k : BitVec 4} (h : (vget s.cl n .reset).hold = some k) : execClockHoldEnd n s =
    .next { s with cl := vset s.cl n { vget s.cl n .reset with hold := none, k := k } } := by
  rw [execClockHoldEnd, onCluster_eq hn, h]

/-- A change that no phase mark took begins at once where the cluster runs no job. -/
theorem execPhaseTimeout_idle {k : BitVec 4} (h : (vget s.cl n .reset).req = .pending k) (hidle : s.runsIn n = false) :
    execPhaseTimeout n s = .next { s with cl := vset s.cl n { vget s.cl n .reset with req := .none, hold := some k } } := by
  simp only [execPhaseTimeout, onCluster_eq hn, h, hidle, Cluster.mark]
  rfl

/-- Else it waits for a job boundary. -/
theorem execPhaseTimeout_busy {k : BitVec 4} (h : (vget s.cl n .reset).req = .pending k) (hruns : s.runsIn n = true) :
    execPhaseTimeout n s = .next { s with cl := vset s.cl n { vget s.cl n .reset with req := .boundary k } } := by
  simp only [execPhaseTimeout, onCluster_eq hn, h, hruns]
  rfl

/-- The stopped part of a throttled cluster's period begins, or ends. -/
theorem execThrottlePeriod_eq : execThrottlePeriod n s = .next { s with cl := vset s.cl n { vget s.cl n .reset with
    stopped := if (vget s.cl n .reset).g = 0 then false else !(vget s.cl n .reset).stopped } } := by
  rw [execThrottlePeriod, onCluster_eq hn]
  by_cases h : (vget s.cl n .reset).g = 0 <;> simp [h]

/-! ## Heat (R329) -/

/-- At 105 °C a trip sends its message. -/
theorem execThermalTrip_hot (hv : s.boot.verified = true) (hot : 105 ≤ vget s.pw.junction n 0) : execThermalTrip n s =
    .next ((s.setCluster n { vget s.cl n .reset with tripped := true }).send 9 (clockMsg n 0 true)) := by
  simp [execThermalTrip, hn, hv, State.junction, hot, State.cluster]

/-- Verified firmware releases a trip below 95 °C. -/
theorem execThermalTripRelease_cool (hv : s.boot.verified = true) (cool : vget s.pw.junction n 0 < 95) :
    execThermalTripRelease n s = .next { s with cl := vset s.cl n { vget s.cl n .reset with tripped := false } } := by
  rw [execThermalTripRelease, onManaged_eq hn]
  simp [hv, State.junction, cool]

theorem execThermalTripRelease_hot (hot : 95 ≤ vget s.pw.junction n 0) :
    execThermalTripRelease n s = .next { s with cl := vset s.cl n (vget s.cl n .reset) } := by
  rw [execThermalTripRelease, onManaged_eq hn]
  simp [State.junction, Nat.not_lt.mpr hot]

/-- Verified firmware parks a cluster at 115 °C. -/
theorem execPark_hot {m : BitVec 3} (hm : m.toNat = n) (hv : s.boot.verified = true) (hot : 115 ≤ vget s.pw.junction n 0) :
    execPark (.cluster m) s = .next { s with cl := vset s.cl n { vget s.cl n .reset with parked := true } } := by
  simp only [execPark, hm, onManaged_eq hn]
  simp [hv, State.junction, hot]

theorem execPark_cool {m : BitVec 3} (hm : m.toNat = n) (cool : vget s.pw.junction n 0 < 115) :
    execPark (.cluster m) s = .next { s with cl := vset s.cl n (vget s.cl n .reset) } := by
  simp only [execPark, hm, onManaged_eq hn]
  simp [State.junction, Nat.not_le.mpr cool]

/-- A parked cluster returns at k = 0 below 100 °C. -/
theorem execUnpark_cool (hv : s.boot.verified = true) (hp : (vget s.cl n .reset).parked = true)
    (cool : vget s.pw.junction n 0 < 100) : execUnpark n s =
    .next { s with cl := vset s.cl n (Cluster.coldStart { vget s.cl n .reset with parked := false }) } := by
  rw [execUnpark, onManaged_eq hn]
  simp [hv, hp, State.junction, cool]

theorem execUnpark_hot (hot : 100 ≤ vget s.pw.junction n 0) :
    execUnpark n s = .next { s with cl := vset s.cl n (vget s.cl n .reset) } := by
  rw [execUnpark, onManaged_eq hn]
  simp [State.junction, Nat.not_lt.mpr hot]
end

/-- Below 105 °C there is no trip. -/
theorem execThermalTrip_cool {n : Nat} {s : State} (cool : vget s.pw.junction n 0 < 105) : execThermalTrip n s = .next s := by
  simp [execThermalTrip, State.junction, Nat.not_le.mpr cool]

/-! ## Flow (R329) -/

/-- Below 0.5 L/min every cluster parks, and the host hears of it. -/
theorem execPark_lowFlow {s : State} (hv : s.boot.verified = true) (hoff : s.boot.flowLow = false) (hlow : s.pw.flow < 5) :
    execPark .flow s = .next { s with boot := { s.boot with flowLow := true }, ril := s.ril ++ [.lowFlow] } := by
  simp [execPark, hv, hoff, hlow, State.tell]

theorem execPark_flows {s : State} (h : 5 ≤ s.pw.flow) : execPark .flow s = .next s := by
  simp [execPark, h]

/-- Once the flow is back, every cluster resumes at k = 0. -/
theorem execFlowRestored_flows {s : State} (hon : s.boot.flowLow = true) (h : 5 ≤ s.pw.flow) : execFlowRestored s =
    .next { s with boot := { s.boot with flowLow := false }, cl := s.cl.map Cluster.coldStart } := by
  simp [execFlowRestored, hon, h]

theorem execFlowRestored_lowFlow {s : State} (hlow : s.pw.flow < 5) : execFlowRestored s = .next s := by
  simp [execFlowRestored, Nat.not_le.mpr hlow]

/-! ## The statement -/

/-- Settles O45: a sample leaves what `execPowerSample_spec` says, and each clock step has its own lemma above. -/
theorem powerIsSampledAndClocksStep : Obligations.PowerIsSampledAndClocksStep := by
  unfold Obligations.PowerIsSampledAndClocksStep
  refine ⟨fun draw idle inlet draws s hdraw hidle hup => ?_, fun n k s hn => ?_⟩
  · have hd : (BitVec.ofNat 12 draw).toNat = draw := by rw [BitVec.toNat_ofNat, Nat.mod_eq_of_lt hdraw]
    have hi : (BitVec.ofNat 12 idle).toNat = idle := by rw [BitVec.toNat_ofNat, Nat.mod_eq_of_lt hidle]
    obtain ⟨t, l, b, h, o, ht, hpw, hten, hclimb⟩ :=
      execPowerSample_spec (s := s) (decide_eq_true hup) draw idle inlet draws
    refine ⟨t, ht, ?_⟩
    rw [hpw]
    simp only [Power.climbs, hd, hi] at hclimb
    exact ⟨rfl, hd, hi, rfl, fun i h8 => s.pw.sensed_junction draws h8, rfl, by simp only [hi]; rfl, rfl, hten, hclimb⟩
  · dsimp only
    have hverified (hup : 3 ≤ s.boot.stage.toNat) : s.boot.verified = true := decide_eq_true hup
    refine ⟨execClockHoldEnd_held hn s, fun hreq hidle => ?_, fun hreq hbusy => ?_, execThrottlePeriod_eq hn s,
      fun hup => execThermalTrip_hot hn s (hverified hup), fun hup => execThermalTripRelease_cool hn s (hverified hup),
      fun m hup hm => execPark_hot hn s hm (hverified hup), fun hup => execUnpark_cool hn s (hverified hup),
      fun m hm => ⟨execThermalTrip_cool, execThermalTripRelease_hot hn s, execPark_cool hn s hm, execUnpark_hot hn s⟩,
      execPark_flows, execFlowRestored_lowFlow, fun hup => execPark_lowFlow (hverified hup), fun hon hflow => ?_⟩
    · exact execPhaseTimeout_idle hn s hreq (State.runsIn_eq_false_iff.mpr hidle)
    · have hruns : s.runsIn n = true := Bool.of_not_eq_false fun hf => hbusy (State.runsIn_eq_false_iff.mp hf)
      exact execPhaseTimeout_busy hn s hreq hruns
    · refine ⟨s.cl.map Cluster.coldStart, fun i h8 => ?_, execFlowRestored_flows hon hflow⟩
      simp [vget, h8, Cluster.coldStart]

end Sys2Proof.Machine
end


section
/-! PROOFS. The fields that a decoder reads pack to the bits it read: the converse of the laws of the fields (02 R18, R24 to
R27, R36). -/

namespace Sys2Proof

/-! ## Operand formats (R24, R26) -/

theorem packAR_eq_iff {d a b c : BitVec 6} {fn : BitVec 16} {y : BitVec 40} :
    packAR d a b c fn = y ↔ d = arD y ∧ a = arA y ∧ b = arB y ∧ c = arC y ∧ fn = arFn y := by
  constructor
  · rintro rfl
    simp
  · rintro ⟨rfl, rfl, rfl, rfl, rfl⟩
    simp only [packAR, arD, arA, arB, arC, arFn, BitVec.extractLsb'_append_extractLsb'_eq_extractLsb']
    exact BitVec.extractLsb'_eq_self

theorem packAI_eq_iff {d a : BitVec 6} {imm : BitVec 28} {y : BitVec 40} :
    packAI d a imm = y ↔ d = aiD y ∧ a = aiA y ∧ imm = aiImm y := by
  constructor
  · rintro rfl
    simp
  · rintro ⟨rfl, rfl, rfl⟩
    simp only [packAI, aiD, aiA, aiImm, BitVec.extractLsb'_append_extractLsb'_eq_extractLsb']
    exact BitVec.extractLsb'_eq_self

theorem packAL_eq_iff {d : BitVec 6} {imm : BitVec 34} {y : BitVec 40} :
    packAL d imm = y ↔ d = alD y ∧ imm = alImm y := by
  constructor
  · rintro rfl
    simp
  · rintro ⟨rfl, rfl⟩
    simp only [packAL, alD, alImm, BitVec.extractLsb'_append_extractLsb'_eq_extractLsb']
    exact BitVec.extractLsb'_eq_self

theorem packAB_eq_iff {a b : BitVec 6} {cc : BitVec 4} {off : BitVec 24} {y : BitVec 40} :
    packAB a b cc off = y ↔ a = abA y ∧ b = abB y ∧ cc = abCc y ∧ off = abOff y := by
  constructor
  · rintro rfl
    simp
  · rintro ⟨rfl, rfl, rfl, rfl⟩
    simp only [packAB, abA, abB, abCc, abOff, BitVec.extractLsb'_append_extractLsb'_eq_extractLsb']
    exact BitVec.extractLsb'_eq_self

theorem packAH_eq_iff {h g : BitVec 4} {a b : BitVec 6} {fld : BitVec 8} {z : BitVec 12} {y : BitVec 40} :
    packAH h g a b fld z = y ↔ h = ahH y ∧ g = ahG y ∧ a = ahA y ∧ b = ahB y ∧ fld = ahFld y ∧ z = ahZ y := by
  constructor
  · rintro rfl
    simp
  · rintro ⟨rfl, rfl, rfl, rfl, rfl, rfl⟩
    simp only [packAH, ahH, ahG, ahA, ahB, ahFld, ahZ, BitVec.extractLsb'_append_extractLsb'_eq_extractLsb']
    exact BitVec.extractLsb'_eq_self

theorem packAC_eq_iff {hd hs : BitVec 4} {p : BitVec 6} {xf : BitVec 8} {tq : BitVec 4} {flags : BitVec 6}
    {aux : BitVec 8} {y : BitVec 40} :
    packAC hd hs p xf tq flags aux = y ↔
      hd = acHd y ∧ hs = acHs y ∧ p = acP y ∧ xf = acXf y ∧ tq = acTq y ∧ flags = acFlags y ∧ aux = acAux y := by
  constructor
  · rintro rfl
    simp
  · rintro ⟨rfl, rfl, rfl, rfl, rfl, rfl, rfl⟩
    simp only [packAC, acHd, acHs, acP, acXf, acTq, acFlags, acAux, BitVec.extractLsb'_append_extractLsb'_eq_extractLsb']
    exact BitVec.extractLsb'_eq_self

theorem packAS_eq_iff {d a : BitVec 6} {csr : BitVec 12} {imm : BitVec 16} {y : BitVec 40} :
    packAS d a csr imm = y ↔ d = asD y ∧ a = asA y ∧ csr = asCsr y ∧ imm = asImm y := by
  constructor
  · rintro rfl
    simp
  · rintro ⟨rfl, rfl, rfl, rfl⟩
    simp only [packAS, asD, asA, asCsr, asImm, BitVec.extractLsb'_append_extractLsb'_eq_extractLsb']
    exact BitVec.extractLsb'_eq_self

theorem packCO_eq_iff {z : BitVec 24} {imm : BitVec 16} {y : BitVec 40} :
    packCO z imm = y ↔ z = coZ y ∧ imm = coImm y := by
  constructor
  · rintro rfl
    simp
  · rintro ⟨rfl, rfl⟩
    simp only [packCO, coZ, coImm, BitVec.extractLsb'_append_extractLsb'_eq_extractLsb']
    exact BitVec.extractLsb'_eq_self

theorem packMT_eq_iff {a t1 t2 m m2 : BitVec 3} {z : BitVec 5} {imm : BitVec 20} {y : BitVec 40} :
    packMT a t1 t2 m m2 z imm = y ↔
      a = mtA y ∧ t1 = mtT1 y ∧ t2 = mtT2 y ∧ m = mtM y ∧ m2 = mtM2 y ∧ z = mtZ y ∧ imm = mtImm y := by
  constructor
  · rintro rfl
    simp
  · rintro ⟨rfl, rfl, rfl, rfl, rfl, rfl, rfl⟩
    simp only [packMT, mtA, mtT1, mtT2, mtM, mtM2, mtZ, mtImm, BitVec.extractLsb'_append_extractLsb'_eq_extractLsb']
    exact BitVec.extractLsb'_eq_self

theorem packMC_eq_iff {m : BitVec 3} {z : BitVec 5} {imm : BitVec 32} {y : BitVec 40} :
    packMC m z imm = y ↔ m = mcM y ∧ z = mcZ y ∧ imm = mcImm y := by
  constructor
  · rintro rfl
    simp
  · rintro ⟨rfl, rfl, rfl⟩
    simp only [packMC, mcM, mcZ, mcImm, BitVec.extractLsb'_append_extractLsb'_eq_extractLsb']
    exact BitVec.extractLsb'_eq_self

theorem packMB_eq_iff {m : BitVec 3} {z : BitVec 13} {off : BitVec 24} {y : BitVec 40} :
    packMB m z off = y ↔ m = mbM y ∧ z = mbZ y ∧ off = mbOff y := by
  constructor
  · rintro rfl
    simp
  · rintro ⟨rfl, rfl, rfl⟩
    simp only [packMB, mbM, mbZ, mbOff, BitVec.extractLsb'_append_extractLsb'_eq_extractLsb']
    exact BitVec.extractLsb'_eq_self

theorem packVR_eq_iff {d a b c : BitVec 5} {k : BitVec 3} {ty : BitVec 2} {fn : BitVec 15} {y : BitVec 40} :
    packVR d a b c k ty fn = y ↔
      d = vrD y ∧ a = vrA y ∧ b = vrB y ∧ c = vrC y ∧ k = vrK y ∧ ty = vrTy y ∧ fn = vrFn y := by
  constructor
  · rintro rfl
    simp
  · rintro ⟨rfl, rfl, rfl, rfl, rfl, rfl, rfl⟩
    simp only [packVR, vrD, vrA, vrB, vrC, vrK, vrTy, vrFn, BitVec.extractLsb'_append_extractLsb'_eq_extractLsb']
    exact BitVec.extractLsb'_eq_self

theorem packVX_eq_iff {d a : BitVec 4} {imm : BitVec 32} {y : BitVec 40} :
    packVX d a imm = y ↔ d = vxD y ∧ a = vxA y ∧ imm = vxImm y := by
  constructor
  · rintro rfl
    simp
  · rintro ⟨rfl, rfl, rfl⟩
    simp only [packVX, vxD, vxA, vxImm, BitVec.extractLsb'_append_extractLsb'_eq_extractLsb']
    exact BitVec.extractLsb'_eq_self

theorem packVM_eq_iff {v : BitVec 5} {x et : BitVec 4} {k : BitVec 3} {imm : BitVec 24} {y : BitVec 40} :
    packVM v x et k imm = y ↔ v = vmV y ∧ x = vmX y ∧ et = vmEt y ∧ k = vmK y ∧ imm = vmImm y := by
  constructor
  · rintro rfl
    simp
  · rintro ⟨rfl, rfl, rfl, rfl, rfl⟩
    simp only [packVM, vmV, vmX, vmEt, vmK, vmImm, BitVec.extractLsb'_append_extractLsb'_eq_extractLsb']
    exact BitVec.extractLsb'_eq_self

theorem packVQ_eq_iff {v x xr : BitVec 4} {en : BitVec 8} {wc : BitVec 1} {rm had : BitVec 2} {z : BitVec 15} {y : BitVec 40} :
    packVQ v x xr en wc rm had z = y ↔
      v = vqV y ∧ x = vqX y ∧ xr = vqXr y ∧ en = vqEn y ∧ wc = vqWc y ∧ rm = vqRm y ∧ had = vqHad y ∧ z = vqZ y := by
  constructor
  · rintro rfl
    simp
  · rintro ⟨rfl, rfl, rfl, rfl, rfl, rfl, rfl, rfl⟩
    simp only [packVQ, vqV, vqX, vqXr, vqEn, vqWc, vqRm, vqHad, vqZ, BitVec.extractLsb'_append_extractLsb'_eq_extractLsb']
    exact BitVec.extractLsb'_eq_self

theorem packVB_eq_iff {a b cc z : BitVec 4} {off : BitVec 24} {y : BitVec 40} :
    packVB a b cc z off = y ↔ a = vbA y ∧ b = vbB y ∧ cc = vbCc y ∧ z = vbZ y ∧ off = vbOff y := by
  constructor
  · rintro rfl
    simp
  · rintro ⟨rfl, rfl, rfl, rfl, rfl⟩
    simp only [packVB, vbA, vbB, vbCc, vbZ, vbOff, BitVec.extractLsb'_append_extractLsb'_eq_extractLsb']
    exact BitVec.extractLsb'_eq_self

/-! ## Fields within fields (02 R29; 04 R94; 06 R137, R140; 07 R175) -/

theorem ofBool_getLsbD {w : Nat} (x : BitVec w) (i : Nat) : BitVec.ofBool (x.getLsbD i) = x.extractLsb' i 1 := by
  apply BitVec.eq_of_getLsbD_eq
  intro j hj
  obtain rfl : j = 0 := by omega
  simp

/-- A field holds a narrower one and zeros above it. -/
theorem fits_iff {n w : Nat} {x : BitVec w} : fits n x = true ↔ (x.setWidth n).setWidth w = x := by
  simp [fits]

/-- A flag in the lowest bit of a field. -/
theorem ofBool_low {w : Nat} (x : BitVec w) : BitVec.ofBool (x.getLsbD 0) = x.setWidth 1 := by
  apply BitVec.eq_of_getLsbD_eq
  intro j hj
  obtain rfl : j = 0 := by omega
  simp

theorem cmpiImm_eq_iff {cc : BitVec 4} {imm : BitVec 24} {x : BitVec 28} :
    cc ++ imm = x ↔ cc = x.extractLsb' 24 4 ∧ imm = x.extractLsb' 0 24 := by
  constructor
  · rintro rfl
    simp
  · rintro ⟨rfl, rfl⟩
    simp only [BitVec.extractLsb'_append_extractLsb'_eq_extractLsb']
    exact BitVec.extractLsb'_eq_self

theorem atomFn_eq_iff {b : Bool} {z : BitVec 4} {fn : BitVec 16} :
    0#11 ++ BitVec.ofBool b ++ z = fn ↔ fn.extractLsb' 5 11 = 0#11 ∧ b = fn.getLsbD 4 ∧ z = fn.extractLsb' 0 4 := by
  constructor
  · rintro rfl
    simp
  · rintro ⟨h, rfl, rfl⟩
    simp only [← h, ofBool_getLsbD, BitVec.extractLsb'_append_extractLsb'_eq_extractLsb']
    exact BitVec.extractLsb'_eq_self

theorem catomFn_eq_iff {h : BitVec 4} {b b' : Bool} {z : BitVec 4} {fn : BitVec 16} :
    h ++ 0#6 ++ BitVec.ofBool b ++ BitVec.ofBool b' ++ z = fn ↔
      h = fn.extractLsb' 12 4 ∧ fn.extractLsb' 6 6 = 0#6 ∧ b = fn.getLsbD 5 ∧ b' = fn.getLsbD 4 ∧ z = fn.extractLsb' 0 4 := by
  constructor
  · rintro rfl
    simp
  · rintro ⟨rfl, h, rfl, rfl, rfl⟩
    simp only [← h, ofBool_getLsbD, BitVec.extractLsb'_append_extractLsb'_eq_extractLsb']
    exact BitVec.extractLsb'_eq_self

theorem clkdivImm_eq_iff {e : BitVec 2} {n : BitVec 4} {imm : BitVec 16} :
    0#10 ++ e ++ n = imm ↔ imm.extractLsb' 6 10 = 0#10 ∧ e = imm.extractLsb' 4 2 ∧ n = imm.extractLsb' 0 4 := by
  constructor
  · rintro rfl
    simp
  · rintro ⟨h, rfl, rfl⟩
    simp only [← h, BitVec.extractLsb'_append_extractLsb'_eq_extractLsb']
    exact BitVec.extractLsb'_eq_self

theorem zpcImm_eq_iff {wc wr : BitVec 2} {imm : BitVec 20} :
    0#16 ++ wc ++ wr = imm ↔ imm.extractLsb' 4 16 = 0#16 ∧ wc = imm.extractLsb' 2 2 ∧ wr = imm.extractLsb' 0 2 := by
  constructor
  · rintro rfl
    simp
  · rintro ⟨h, rfl, rfl⟩
    simp only [← h, BitVec.extractLsb'_append_extractLsb'_eq_extractLsb']
    exact BitVec.extractLsb'_eq_self

theorem vcvtFn_eq_iff {b : Bool} {r : BitVec 3} {z : BitVec 4} {fn : BitVec 15} :
    0#7 ++ BitVec.ofBool b ++ r ++ z = fn ↔
      fn.extractLsb' 8 7 = 0#7 ∧ b = fn.getLsbD 7 ∧ r = fn.extractLsb' 4 3 ∧ z = fn.extractLsb' 0 4 := by
  constructor
  · rintro rfl
    simp
  · rintro ⟨h, rfl, rfl, rfl⟩
    simp only [← h, ofBool_getLsbD, BitVec.extractLsb'_append_extractLsb'_eq_extractLsb']
    exact BitVec.extractLsb'_eq_self

theorem quad_eq_iff {v : BitVec 2} {x : BitVec 4} :
    v ++ 0#2 = x ↔ v = x.extractLsb' 2 2 ∧ x.extractLsb' 0 2 = 0#2 := by
  constructor
  · rintro rfl
    simp
  · rintro ⟨rfl, h⟩
    simp only [← h, BitVec.extractLsb'_append_extractLsb'_eq_extractLsb']
    exact BitVec.extractLsb'_eq_self

/-- A pair's field is the number of the pair and zeros around it (06 R137). -/
theorem pairCode_iff {x : BitVec 5} : pairCode x = true ↔ 0#1 ++ x.extractLsb' 1 3 ++ 0#1 = x := by
  revert x; decide

/-! ## Codes (R25, R27, R28, R30) -/

theorem Cond.ofCode_eq_some {k : Nat} {x : Cond} : Cond.ofCode k = some x ↔ x.code = k := by
  refine ⟨fun h => ?_, by rintro rfl; cases x <;> rfl⟩
  unfold Cond.ofCode at h
  split at h <;> cases h <;> rfl

theorem LogOp.ofCode_eq_some {k : Nat} {x : LogOp} : LogOp.ofCode k = some x ↔ x.code = k := by
  refine ⟨fun h => ?_, by rintro rfl; cases x <;> rfl⟩
  unfold LogOp.ofCode at h
  split at h <;> cases h <;> rfl

theorem HField.ofCode_eq_some {k : Nat} {x : HField} : HField.ofCode k = some x ↔ x.code = k := by
  refine ⟨fun h => ?_, by rintro rfl; cases x <;> rfl⟩
  unfold HField.ofCode at h
  split at h <;> cases h <;> rfl

theorem DqId.ofCode_eq_some {k : Nat} {x : DqId} : DqId.ofCode k = some x ↔ x.code = k := by
  refine ⟨fun h => ?_, by rintro rfl; cases x <;> rfl⟩
  unfold DqId.ofCode at h
  split at h <;> cases h <;> rfl

theorem RField.ofCode_eq_some {k : Nat} {x : RField} : RField.ofCode k = some x ↔ x.code = k := by
  refine ⟨fun h => ?_, by rintro rfl; cases x <;> rfl⟩
  unfold RField.ofCode at h
  split at h <;> cases h <;> rfl

theorem AtomOp.ofCode_eq_some {k : Nat} {x : AtomOp} : AtomOp.ofCode k = some x ↔ x.code = k := by
  refine ⟨fun h => ?_, by rintro rfl; cases x <;> rfl⟩
  unfold AtomOp.ofCode at h
  split at h <;> cases h <;> rfl

theorem Csr.ofCode_eq_some {k : Nat} {x : Csr} : Csr.ofCode k = some x ↔ x.code = k := by
  refine ⟨fun h => ?_, by rintro rfl; cases x <;> rfl⟩
  unfold Csr.ofCode at h
  split at h <;> cases h <;> rfl

theorem Eng.ofCode_eq_some {k : Nat} {x : Eng} : Eng.ofCode k = some x ↔ x.code = k := by
  refine ⟨fun h => ?_, by rintro rfl; cases x <;> rfl⟩
  unfold Eng.ofCode at h
  split at h <;> cases h <;> rfl

theorem VTy.ofCode_eq_some {k : Nat} {x : VTy} : VTy.ofCode k = some x ↔ x.code = k := by
  refine ⟨fun h => ?_, by rintro rfl; cases x <;> rfl⟩
  unfold VTy.ofCode at h
  split at h <;> cases h <;> rfl

theorem MemTy.ofCode_eq_some {k : Nat} {x : MemTy} : MemTy.ofCode k = some x ↔ x.code = k := by
  refine ⟨fun h => ?_, by rintro rfl; cases x <;> rfl⟩
  unfold MemTy.ofCode at h
  split at h <;> cases h <;> rfl

theorem RmFull.ofCode_eq_some {k : Nat} {x : RmFull} : RmFull.ofCode k = some x ↔ x.code = k := by
  refine ⟨fun h => ?_, by rintro rfl; cases x <;> rfl⟩
  unfold RmFull.ofCode at h
  split at h <;> cases h <;> rfl

theorem RmShort.ofCode_eq_some {k : Nat} {x : RmShort} : RmShort.ofCode k = some x ↔ x.code = k := by
  refine ⟨fun h => ?_, by rintro rfl; cases x <;> rfl⟩
  unfold RmShort.ofCode at h
  split at h <;> cases h <;> rfl

theorem VSrc.ofCode_eq_some {k : Nat} {x : VSrc} : VSrc.ofCode k = some x ↔ x.code = k := by
  constructor
  · unfold VSrc.ofCode
    split
    · rintro ⟨⟩
      exact Nat.mod_eq_of_lt ‹_›
    · split
      · rintro ⟨⟩
        simp only [VSrc.code, BitVec.toNat_ofNat]
        omega
      · split <;> rintro ⟨⟩
        exact Eq.symm ‹_›
  · rintro rfl
    cases x with
    | v n => revert n; decide
    | z n => revert n; decide
    | dv => rfl

theorem VDst.ofCode_eq_some {k : Nat} {x : VDst} : VDst.ofCode k = some x ↔ x.code = k := by
  constructor
  · unfold VDst.ofCode
    split
    · rintro ⟨⟩
      exact Nat.mod_eq_of_lt ‹_›
    · split <;> rintro ⟨⟩
      simp only [VDst.code, BitVec.toNat_ofNat]
      omega
  · rintro rfl
    cases x with
    | v n => revert n; decide
    | z n => revert n; decide

end Sys2Proof
end

section
/-! PROOFS. Words and instructions name each other: decoding undoes encoding, and encoding undoes decoding (02 R18 to R36). -/

namespace Sys2Proof.Laws.RoundTrip

/-- Every instruction meets its round-trip law. -/
theorem every_instr (i : Instr) : Statement i :=
  Instr.casesOn i
    add sub mul mulhs mulhu div divu rem remu and or xor andn shl shr sar rol min max minu maxu clz popc sel addx clamp
    addi andi ori xori shli shri sari muli li lih cmp cmpi plog br bp jmp call jr loop hset hget hld hst hmov hadv hdim
    ld8 ld16 ld32 ld64 lds8 lds16 lds32 st8 st16 st32 st64 push fmt pop bout qcnt rclaim rfill rwaitf rfree rset rstat
    bset bexp barr bwait atom copy cred catom cclose cwait xcfg cpend cpendCmd obput obwait obadd obbar obseq obseqOwn
    frel facq obget csrr csrw csrs csrc eret eretImg yield yieldKill psave ppull pdrop pstat clkdiv phase tlbinv
    tlbinvAll launch rdtick rdiss lsave lrest nop join trap brk tfence ill tld tldb mma rsum csum zpc drain aclr amov
    tzero mli maddi mpop mloop mbq mjmp msatc vadd vsub vmul vfma vmin vmax vabs vneg vdiv vsqrt vrsq vrcp vexp2 vlog2
    vexp vand vor vxor vshl vshr vsar vcvt vcmp vsel vmov vbrd viota vperm vcomp vfirst klog vrsum vrmax vrmin vramax
    vscan vscanx vsort vsortk vmerge vrng vld vst vldx vstx qst qld zbind zrst xli xadd xaddi xmul xpop xpush xget xfadd
    xfmul vloop vbq vbr vjmp vbrf fetch land start read merge write atomic deliver complete rfHook baHook remoteAtom
    remoteAtomReply timedDeadline transmit ergPut ergAdd ergBar shootdown clock preempt config jobend barrierWaitEnd
    replicaRepair round jobStart jobResume sliceExpiry watchdog trapDelivery softError memorySoftError pull tricklePull
    blockDrain hostTailWrite queueEnable doorbell eventRingEnable tenantCreate tenantDisable apertureRead apertureWrite
    checkpointFull checkpointIncremental checkpointEnd registerWrite powerSample throttlePeriod clockHoldEnd phaseTimeout
    thermalTrip park unpark flitReceive keyFlit keyHold linkDown reset firmwareVerify hbmTraining linkTraining
    ergCalibration capabilityPublish routineImageCheck getMeasurements referenceTick replicaSoftError thermalTripRelease
    flowRestored keylow spdmKeyExchange apertureAtomic launchSlotWrite hostWriteOneToClear

end Sys2Proof.Laws.RoundTrip

namespace Sys2Proof

/-! ## Encoding, then decoding -/

/-- Exactly the words of the streams have an encoding. -/
theorem encode_isSome (i : Instr) : (encode i).isSome = Machine.isWord i := by
  cases i <;> rfl

/-- Fetching reads the word whose bytes come first, the first at the lowest address (00 R3). -/
theorem decodeBytes_leBytes {st : StreamId} {w : W64} {i : Instr} (h : decodeWord st w = .ok i) (rest : List Byte) :
    decodeBytes st (Machine.leBytes 8 w.toNat ++ rest) = .ok (i, rest) := by
  have hlen : (Machine.leBytes 8 w.toNat).length = 8 := Machine.leBytes_length ..
  have hword : BitVec.ofNat 64 (Machine.leNat (Machine.leBytes 8 w.toNat)) = w := by
    rw [Machine.leNat_leBytes w.isLt, BitVec.ofNat_toNat, BitVec.setWidth_eq]
  have hlong : ¬(Machine.leBytes 8 w.toNat ++ rest).length < 8 := by simp [hlen]
  unfold decodeBytes
  rw [if_neg hlong, List.take_left' hlen, List.drop_left' hlen, hword, h]

/-- Settles O39: a word instruction has an encoding (`encode_isSome`), its round-trip law decodes that, and fetching takes
exactly its eight bytes. -/
theorem encodedWordsDecodeToTheirInstruction : Obligations.EncodedWordsDecodeToTheirInstruction := by
  unfold Obligations.EncodedWordsDecodeToTheirInstruction
  intro i rest hword hwf
  obtain ⟨w, hw⟩ := Option.isSome_iff_exists.mp ((encode_isSome i).trans hword)
  exact ⟨w, hw, decodeBytes_leBytes (Laws.RoundTrip.every_instr i w hw hwf) rest⟩

/-! ## Decoding, then encoding -/

theorem need_ok {b : Bool} {i j : Instr} : need b i = .ok j ↔ b = true ∧ i = j := by
  cases b <;> simp [need]

/-- The instruction belongs to the stream and carries the wait and signal, and these bits are its opcode and operands. -/
def Encoded (st : StreamId) (c : Ctl) (op : BitVec 8) (y : BitVec 40) (i : Instr) : Prop :=
  encode i = some (mkWord c op y) ∧ i.ctl? = some (st, c)

/-- What an entry of a stream's map decodes encodes to the bits read. -/
def Encodes (st : StreamId) (c : Ctl) (op : BitVec 8) (y : BitVec 40) (r : Except DecodeError Instr) : Prop :=
  ∀ i, r = .ok i → Encoded st c op y i

section
variable {st : StreamId} {c : Ctl} {op : BitVec 8} {y : BitVec 40}

theorem encoded_of_operands {x : BitVec 40} {i : Instr} (he : encode i = some (mkWord c op x)) (hc : i.ctl? = some (st, c))
    (hx : x = y) : Encoded st c op y i := ⟨hx ▸ he, hc⟩

theorem encodes_error {e : DecodeError} : Encodes st c op y (.error e) := by
  rintro _ ⟨⟩

theorem encodes_need {b : Bool} {i : Instr} : Encodes st c op y (need b i) ↔ (b = true → Encoded st c op y i) := by
  constructor
  · exact fun h hb => h i (need_ok.mpr ⟨hb, rfl⟩)
  · rintro h j hj
    obtain ⟨hb, rfl⟩ := need_ok.mp hj
    exact h hb

theorem encodes_opt {α : Type} {o : Option α} {f : α → Except DecodeError Instr} :
    Encodes st c op y (opt o f) ↔ ∀ x, o = some x → Encodes st c op y (f x) := by
  cases o <;> simp [opt, encodes_error]

theorem encodes_ite {p : Prop} [Decidable p] {r r' : Except DecodeError Instr} :
    Encodes st c op y (if p then r else r') ↔ (p → Encodes st c op y r) ∧ (¬p → Encodes st c op y r') := by
  split <;> simp_all
end

/-- An entry of the A map: its codes and its unused fields are as the checks leave them, and so the operand bits that `encode`
packs for its instruction are the bits read. -/
theorem decodeA_encodes (op : Nat) (c : Ctl) (y : BitVec 40) : Encodes .a c (BitVec.ofNat 8 op) y (decodeA op c y) := by
  unfold decodeA
  split
  all_goals simp only [encodes_error, encodes_opt, encodes_need, encodes_ite, Cond.ofCode_eq_some, LogOp.ofCode_eq_some,
    HField.ofCode_eq_some, DqId.ofCode_eq_some, RField.ofCode_eq_some, AtomOp.ofCode_eq_some, Csr.ofCode_eq_some,
    Eng.ofCode_eq_some, fits_iff, Bool.and_eq_true, decide_eq_true_eq, implies_true, and_true]
  any_goals refine And.intro ?_ ?_
  all_goals intros
  all_goals refine encoded_of_operands rfl rfl ?_
  all_goals simp only [packAR_eq_iff, packAI_eq_iff, packAL_eq_iff, packAC_eq_iff, packAB_eq_iff, packAH_eq_iff, packAS_eq_iff,
    cmpiImm_eq_iff, atomFn_eq_iff, catomFn_eq_iff, clkdivImm_eq_iff, ofBool_low, BitVec.ofNat_toNat, BitVec.setWidth_eq,
    BitVec.ofNat_eq_ofNat, and_self, *]

/-- The same of the M map. -/
theorem decodeM_encodes (op : Nat) (c : Ctl) (y : BitVec 40) : Encodes .m c (BitVec.ofNat 8 op) y (decodeM op c y) := by
  unfold decodeM
  split
  all_goals simp only [encodes_error, encodes_need, fits_iff, Bool.and_eq_true, decide_eq_true_eq]
  all_goals intros
  all_goals refine encoded_of_operands rfl rfl ?_
  all_goals simp only [packMT_eq_iff, packMC_eq_iff, packMB_eq_iff, zpcImm_eq_iff, BitVec.ofNat_eq_ofNat, and_self, *]

/-- The same of the V map. -/
theorem decodeV_encodes (op : Nat) (c : Ctl) (y : BitVec 40) : Encodes .v c (BitVec.ofNat 8 op) y (decodeV op c y) := by
  unfold decodeV
  split
  all_goals simp only [encodes_error, encodes_opt, encodes_need, Cond.ofCode_eq_some, LogOp.ofCode_eq_some,
    VTy.ofCode_eq_some, MemTy.ofCode_eq_some, RmFull.ofCode_eq_some, RmShort.ofCode_eq_some, VSrc.ofCode_eq_some,
    VDst.ofCode_eq_some, fits_iff, pairCode_iff, Bool.and_eq_true, decide_eq_true_eq]
  all_goals intros
  all_goals refine encoded_of_operands rfl rfl ?_
  all_goals simp only [packVR_eq_iff, packVX_eq_iff, packVM_eq_iff, packVQ_eq_iff, packVB_eq_iff, vcvtFn_eq_iff, quad_eq_iff,
    ofBool_low, BitVec.ofNat_toNat, BitVec.setWidth_eq, BitVec.ofNat_eq_ofNat, and_self, *]

/-- The same of the common row. -/
theorem decodeCommon_encodes (st : StreamId) (op : Nat) (c : Ctl) (y : BitVec 40) :
    Encodes st c (BitVec.ofNat 8 op) y (decodeCommon st op c y) := by
  unfold decodeCommon
  split
  all_goals simp only [encodes_error, encodes_need, decide_eq_true_eq]
  all_goals intros
  all_goals refine encoded_of_operands rfl rfl ?_
  all_goals simp only [packCO_eq_iff, and_self, *]

theorem decodeFields_encodes (st : StreamId) (op : Nat) (c : Ctl) (y : BitVec 40) :
    Encodes st c (BitVec.ofNat 8 op) y (decodeFields st op c y) := by
  unfold decodeFields
  split
  · exact decodeCommon_encodes st op c y
  · cases st with
    | a => exact decodeA_encodes op c y
    | m => exact decodeM_encodes op c y
    | v => exact decodeV_encodes op c y

theorem mkWord_fields (w : W64) : mkWord (wordCtl w) (wordOp w) (wordX w) = w := by
  simp only [mkWord, wordCtl, wordOp, wordX, BitVec.extractLsb'_append_extractLsb'_eq_extractLsb']
  exact BitVec.extractLsb'_eq_self

/-- A word with a stream's wait and signal is one of that stream. -/
theorem stream_of_ctl {i : Instr} {st : StreamId} {c : Ctl} (h : i.ctl? = some (st, c)) : i.stream = st := by
  unfold Instr.stream
  split
  · cases h
  · rw [h]

/-- A word whose opcode is ILL's encodes back: ILL keeps every other bit (R35). -/
theorem encode_ill {st : StreamId} {w : W64} (h : wordOp w = 0xFF) :
    encode (.ill st (w.extractLsb' 48 16 ++ wordX w)) = some w := by
  have hhi : (w.extractLsb' 48 16 ++ wordX w).extractLsb' 40 16 = w.extractLsb' 48 16 := ext_high ..
  have hlo : (w.extractLsb' 48 16 ++ wordX w).extractLsb' 0 40 = wordX w := ext_low ..
  calc encode (.ill st (w.extractLsb' 48 16 ++ wordX w))
      = some (w.extractLsb' 48 16 ++ 0xFF#8 ++ wordX w) := congrArg₂ (fun a b => some (a ++ 0xFF#8 ++ b)) hhi hlo
    _ = some (w.extractLsb' 48 16 ++ w.extractLsb' 40 8 ++ w.extractLsb' 0 40) := by rw [← show wordOp w = 0xFF#8 from h]; rfl
    _ = some w := by
      simp only [BitVec.extractLsb'_append_extractLsb'_eq_extractLsb']
      exact congrArg some BitVec.extractLsb'_eq_self

/-- The two ways in which a word decodes: as ILL, or by its fields, well-formed. -/
theorem decodeWord_ok {st : StreamId} {w : W64} {i : Instr} (h : decodeWord st w = .ok i) :
    (wordOp w = 0xFF ∧ i = .ill st (w.extractLsb' 48 16 ++ wordX w)) ∨
    (decodeFields st (wordOp w).toNat (wordCtl w) (wordX w) = .ok i ∧ wfError i = none) := by
  unfold decodeWord at h
  split at h
  next hop =>
    cases h
    exact .inl ⟨hop, rfl⟩
  next =>
    split at h
    · cases h
    next j hj =>
      split at h
      · cases h
      next hwf =>
        cases h
        exact .inr ⟨hj, hwf⟩

/-- Settles O40: a word decodes as ILL or by its fields (`decodeWord_ok`), and what the fields decode to encodes to them
(`decodeFields_encodes`). -/
theorem decodedWordsEncodeBack : Obligations.DecodedWordsEncodeBack := by
  unfold Obligations.DecodedWordsEncodeBack
  intro st w i h
  rcases decodeWord_ok h with ⟨hop, rfl⟩ | ⟨hfields, hwf⟩
  · exact ⟨encode_ill hop, rfl, rfl, fun hctl => absurd hctl Bool.false_ne_true⟩
  · obtain ⟨henc, hctl⟩ := decodeFields_encodes st (wordOp w).toNat (wordCtl w) (wordX w) i hfields
    rw [BitVec.ofNat_toNat, BitVec.setWidth_eq, mkWord_fields] at henc
    exact ⟨henc, stream_of_ctl hctl, by simp [Machine.isWord, hctl], fun _ => hwf⟩

/-! ## Printed words -/

/-- Settles O41: each printed word is decoded. -/
theorem printedWordsDecode : Obligations.PrintedWordsDecode := by
  unfold Obligations.PrintedWordsDecode
  refine ⟨?_, ?_, ?_, ?_, ?_, ?_, ?_, ?_, ?_, ?_, ?_, ?_, ?_, ?_⟩ <;> decide

end Sys2Proof
end

section
/-! PROOFS. Integer, immediate and predicate words of the A stream (04 R87 to R95; 02 R25). -/

namespace Sys2Proof.Machine

/-! ## Results (R88, R91, R92) -/

theorem opMin_eq (x y : W64) : opMin x y = if y.toInt < x.toInt then y else x := by
  simp [opMin, BitVec.slt]

theorem opMax_eq (x y : W64) : opMax x y = if x.toInt < y.toInt then y else x := by
  simp [opMax, BitVec.slt]

theorem opMinu_eq (x y : W64) : opMinu x y = if y.toNat < x.toNat then y else x := by
  simp [opMinu, BitVec.ult]

theorem opMaxu_eq (x y : W64) : opMaxu x y = if x.toNat < y.toNat then y else x := by
  simp [opMaxu, BitVec.ult]

theorem opClamp_eq (x y : W64) :
    opClamp x y = if x.toInt < 0 ∨ y.toInt ≤ 0 then 0 else if y.toInt ≤ x.toInt then y - 1 else x := by
  simp [opClamp, BitVec.slt, BitVec.sle]

theorem popCount_eq (x : W64) : popCount x = (List.range 64).countP fun i => x.getLsbD i :=
  List.countP_eq_length_filter.symm

/-- CLZ counts the zero bits above the highest one bit. -/
theorem leadZeros_spec (x : W64) : leadZeros x ≤ 64 ∧ (∀ i < leadZeros x, x.getLsbD (63 - i) = false) ∧
    (leadZeros x < 64 → x.getLsbD (63 - leadZeros x) = true) := by
  by_cases hx : x = 0
  · subst hx
    simp [leadZeros]
  · have hne : x.toNat ≠ 0 := fun h => hx (BitVec.eq_of_toNat_eq h)
    have hlog : x.toNat.log2 < 64 := (Nat.log2_lt hne).mpr x.isLt
    rw [leadZeros, if_neg hx]
    refine ⟨by omega, fun i hi => ?_, fun _ => ?_⟩
    · refine Nat.testBit_lt_two_pow ((Nat.log2_lt hne).mp ?_)
      omega
    · rw [show 63 - (63 - x.toNat.log2) = x.toNat.log2 by omega]
      exact Nat.testBit_log2 hne

/-- A shift count of six bits is below the width. -/
theorem shiftCount_mod (n : BitVec 6) : n.toNat % 64 = n.toNat := Nat.mod_eq_of_lt n.isLt

/-- LIH: the immediate above the low half. -/
theorem lih_eq (imm : BitVec 32) (x : W64) :
    imm ++ x.setWidth 32 = imm.setWidth 64 <<< 32 ||| (x &&& 0xFFFFFFFF) := by
  have low (i : Nat) : (0xFFFFFFFF : W64).getLsbD i = decide (i < 32) := by
    rw [show (0xFFFFFFFF : W64) = (BitVec.allOnes 32).setWidth 64 from rfl, BitVec.getLsbD_setWidth, BitVec.getLsbD_allOnes]
    simp; omega
  apply BitVec.eq_of_getLsbD_eq
  intro i hi
  rw [BitVec.getLsbD_append, BitVec.getLsbD_or, BitVec.getLsbD_and, low]
  by_cases h : i < 32
  · simp [h, hi]
  · simp [h, hi]

/-! ## Issue -/

section
variable {c : Ctl} {s : State} (h : s.core.clear c)
include h

theorem execSel_clear (d a b : BitVec 6) (p : BitVec 3) :
    execSel c d a b p s = s.yields c d 1 (if s.core.preg p then s.core.sreg a else s.core.sreg b) :=
  issue_clear h rfl rfl rfl rfl rfl rfl _

theorem execLi_clear (d : BitVec 6) (imm : BitVec 34) : execLi c d imm s = s.yields c d 1 (imm.signExtend 64) :=
  issue_clear h rfl rfl rfl rfl rfl rfl _

/-- A word that writes a predicate. -/
theorem execCmp_clear (cc : Cond) (pd : BitVec 3) (a b : BitVec 6) : execCmp c cc pd a b s =
    s.goes (.of .a c s.core.sa.div (pWrite pd (condHolds cc (s.core.sreg a) (s.core.sreg b)))) :=
  issue_goes h rfl rfl rfl rfl rfl rfl (Core.issued_congr rfl rfl rfl rfl (Nat.one_mul _) rfl rfl rfl rfl rfl)

theorem execCmpi_clear (cc : Cond) (pd : BitVec 3) (a : BitVec 6) (imm : BitVec 24) : execCmpi c cc pd a imm s =
    s.goes (.of .a c s.core.sa.div (pWrite pd (condHolds cc (s.core.sreg a) (imm.signExtend 64)))) :=
  issue_goes h rfl rfl rfl rfl rfl rfl (Core.issued_congr rfl rfl rfl rfl (Nat.one_mul _) rfl rfl rfl rfl rfl)

theorem execPlog_clear (op : LogOp) (pd pa pb : BitVec 3) : execPlog c op pd pa pb s =
    s.goes (.of .a c s.core.sa.div (pWrite pd (plogOp op (s.core.preg pa) (s.core.preg pb)))) :=
  issue_goes h rfl rfl rfl rfl rfl rfl (Core.issued_congr rfl rfl rfl rfl (Nat.one_mul _) rfl rfl rfl rfl rfl)

end

/-- The seven conditions on 64-bit words (02 R25). -/
theorem condHolds_spec (x y : W64) :
     condHolds .eq x y = decide (x = y) ∧ condHolds .ne x y = decide (x ≠ y) ∧
     condHolds .lt x y = decide (x.toInt < y.toInt) ∧ condHolds .ge x y = decide (y.toInt ≤ x.toInt) ∧
     condHolds .ltu x y = decide (x.toNat < y.toNat) ∧ condHolds .geu x y = decide (y.toNat ≤ x.toNat) ∧
     condHolds .al x y = true := by
  refine ⟨beq_eq_decide x y, ?_, rfl, ?_, rfl, ?_, rfl⟩
  · simp [condHolds, bne, beq_eq_decide]
  · rw [condHolds, BitVec.slt, ← decide_not]; exact decide_eq_decide.mpr Int.not_lt
  · rw [condHolds, BitVec.ult, ← decide_not]; exact decide_eq_decide.mpr Nat.not_lt

/-- Settles O1: each word is one issue of its operator; the operators, the counts and the conditions are the integer functions
that the statement writes out. -/
theorem aluImmediateAndPredicateWords : Obligations.AluImmediateAndPredicateWords := by
  unfold Obligations.AluImmediateAndPredicateWords
  refine ⟨fun c d a b n p s h => ?_, fun c d a n imm i34 i32 s h => ?_, fun c cc op pd pa pb a b imm s h hop => ?_,
    fun x y => condHolds_spec x y⟩
  · have alu := fun l f => aluWord_clear h d a b l f
    have imm := fun l f => immWord_clear h d a l f
    dsimp only
    rw [← opMin_eq, ← opMax_eq, ← opMinu_eq, ← opMaxu_eq, ← opClamp_eq, ← popCount_eq]
    obtain ⟨hz, hzero, hone⟩ := leadZeros_spec (s.core.sreg a)
    have addx := alu 1 fun x y => x + opShl y n.toNat
    rw [opShl, shiftCount_mod] at addx
    exact ⟨alu 1 (· + ·), alu 1 (· - ·), alu 3 (· * ·), alu 3 opMulhs, alu 3 opMulhu, alu 1 (· &&& ·), alu 1 (· ||| ·),
      alu 1 (· ^^^ ·), alu 1 fun x y => x &&& ~~~y, alu 1 fun x y => opShl x y.toNat, alu 1 fun x y => opShr x y.toNat,
      alu 1 fun x y => opSar x y.toNat, alu 1 fun x y => x.rotateLeft (y.toNat % 64), alu 1 opMin, alu 1 opMax, alu 1 opMinu,
      alu 1 opMaxu, ⟨leadZeros (s.core.sreg a), hz, imm 1 fun x => BitVec.ofNat 64 (leadZeros x), hzero, hone⟩,
      imm 1 fun x => BitVec.ofNat 64 (popCount x), execSel_clear h d a b p, addx, alu 1 opClamp⟩
  · have word := fun l f => immWord_clear h d a l f
    have shl := word 1 (opShl · n.toNat)
    have shr := word 1 (opShr · n.toNat)
    have sar := word 1 (opSar · n.toNat)
    have lih := immWord_clear h d d 1 fun x => i32 ++ x.setWidth 32
    rw [opShl, shiftCount_mod] at shl
    rw [opShr, shiftCount_mod] at shr
    rw [opSar, shiftCount_mod] at sar
    rw [lih_eq] at lih
    exact ⟨word 1 (· + imm.signExtend 64), word 1 (· &&& imm.signExtend 64), word 1 (· ||| imm.signExtend 64),
      word 1 (· ^^^ imm.signExtend 64), shl, shr, sar, word 3 (· * imm.signExtend 64), execLi_clear h d i34, lih⟩
  · refine ⟨execCmp_clear h cc pd a b, execCmpi_clear h cc pd a imm, ?_⟩
    cases op with
    | not => exact absurd rfl hop
    | _ => exact execPlog_clear h _ pd pa pb

end Sys2Proof.Machine
end

section
/-! PROOFS. What a landing store changes where the memories are in form; the statement on it fails for a memory list out of
canonical form (07 R161, R166; 14 R340; 15 R365). -/

namespace Sys2Proof.Machine

/-! ## Where the memories are in form (R161, R166) -/

theorem neighbour_ne (n d : Nat) : neighbour n d ≠ n := by
  unfold neighbour coreX coreY clusterOf
  simp only
  split
  · simp; omega
  · split
    · simp; omega
    · split <;> simp <;> omega

/-- The scratchpad and the shade windows of a core name cells of their own. -/
theorem cell_inj (n : Nat) {a b : Nat} (ha : a < 0x200000) (hb : b < 0x200000) (h : cell n a = cell n b) : a = b := by
  have lent {x : Nat} (hx : x < 0x200000) : cell n x = if 0x100000 ≤ x then lentTo n x else (n, x) := by
    have : lentAddr x = decide (0x100000 ≤ x) := by
      simp [lentAddr, hx, show ¬0x240000 ≤ x by omega, show ¬0x2C0000 ≤ x by omega]
    simp [cell, this]
  rw [lent ha, lent hb, lentTo, lentTo, if_pos ha, if_pos hb] at h
  split at h <;> split at h
  · have := congrArg Prod.snd h
    simp only at this
    omega
  · exact absurd (congrArg Prod.fst h) (neighbour_ne n _)
  · exact absurd (congrArg Prod.fst h).symm (neighbour_ne n _)
  · exact congrArg Prod.snd h

/-- A write of consecutive bytes. -/
theorem State.landAct_write (s : State) {a : Nat} {data : List Byte} (h : a + data.length ≤ 0x300000) :
    (s.landAct [] (.write a 1 0 data)).1 = s.setBs s.cur a data := by
  rw [← s.putL_eq_setBs h]
  simp [State.landAct, State.putRows]

theorem State.setB_getCore (s : State) (n a : Nat) (b : Byte) (ha : a < 0x300000) (k : Nat) :
    ∃ m : Mem, (s.setB n a b).getCore k = { s.getCore k with r := { (s.getCore k).r with sram := m } } := by
  rw [State.setB_cell]
  by_cases hk : (cell n a).1 = k
  · rw [hk, State.getCore_putCore, Core.setB, if_pos (cell_lt n ha)]
    exact ⟨_, rfl⟩
  · rw [State.getCore_putCore_other _ _ _ _ hk]
    exact ⟨_, rfl⟩

/-- Bytes written change the memories alone. -/
theorem State.setBs_getCore (s : State) (n : Nat) {a : Nat} {l : List Byte} (ha : a + l.length ≤ 0x300000) (k : Nat) :
    ∃ m : Mem, (s.setBs n a l).getCore k = { s.getCore k with r := { (s.getCore k).r with sram := m } } := by
  induction l generalizing s a with
  | nil => exact ⟨_, rfl⟩
  | cons b bs ih =>
    rw [List.length_cons] at ha
    obtain ⟨m, hm⟩ := ih (s.setB n a b) (a := a + 1) (by omega)
    obtain ⟨m', hm'⟩ := s.setB_getCore n a b (by omega) k
    exact ⟨m, by rw [State.setBs, hm, hm']⟩

theorem State.setBs_frame (s : State) (n a : Nat) (l : List Byte) :
    s.setBs n a l = { s with core := (s.setBs n a l).core, parked := (s.setBs n a l).parked } := by
  induction l generalizing s a with
  | nil => rfl
  | cons b bs ih =>
    have hset : s.setB n a b = { s with core := (s.setB n a b).core, parked := (s.setB n a b).parked } := by
      rw [State.setB_cell, State.putCore]
      split <;> rfl
    rw [State.setBs, ih]
    rw [hset]

/-- A store of consecutive bytes changes exactly the cells that they name, as every core sees them. -/
theorem write_lands {s : State} (h : s.Inv) {a : Nat} {data : List Byte} (ha : a + data.length ≤ 0x200000) :
    let t := (s.landAct [] (.write a 1 0 data)).1
    (∀ n b i, b < 0x300000 → i < data.length → cell n b = cell s.cur (a + i) → t.getB n b = data.getD i 0) ∧
    (∀ n b, b < 0x300000 → (∀ i < data.length, cell n b ≠ cell s.cur (a + i)) → t.getB n b = s.getB n b) ∧
    (∀ n, ∃ m : Mem, t.getCore n = { s.getCore n with r := { (s.getCore n).r with sram := m } }) ∧
    t = { s with core := t.core, parked := t.parked } := by
  rw [s.landAct_write (by omega)]
  refine ⟨fun n b i _ hi hcell => ?_, fun n b hb hother => s.getB_setBs_other h s.cur n (by omega) hb hother,
    s.setBs_getCore s.cur (by omega), s.setBs_frame s.cur a data⟩
  rw [State.getB_cell, hcell, ← State.getB_cell]
  exact State.getB_setBs_same h s.cur (by omega) hi fun j hj k hk e => by
    have := cell_inj s.cur (by omega) (by omega) e
    omega

/-! ## A memory out of form -/

/-- A machine whose core lists the first byte of its scratchpad twice. -/
def firstByteTwice : State :=
  State.reset.onCore fun c => { c with r := { c.r with sram := [(0, 1), (0, 2)] } }

/-- Its memory is out of the canonical form (15 R365). -/
theorem firstByteTwice_not_inv : ¬ firstByteTwice.Inv := by
  intro ⟨_, _, _, hcore, _⟩
  exact absurd hcore (by decide)

/-- Storing 0 takes one of the two entries out of the list, and the other shows. -/
theorem firstByteTwice_stored : (firstByteTwice.landAct [] (.write 0 1 0 [0])).1.getB firstByteTwice.cur 0 = 2 := by
  decide

/-- Refutes O36: its clause on a store speaks of every state, and where a core's memory list holds an address twice a byte
does not read what was stored. Where the memories are in form the clause holds (`write_lands`). -/
theorem not_resultsLandAndStoresChangeTheirBytesAlone : ¬ Obligations.ResultsLandAndStoresChangeTheirBytesAlone := by
  unfold Obligations.ResultsLandAndStoresChangeTheirBytesAlone
  intro ⟨hstore, _⟩
  have h := (hstore 0 [0] firstByteTwice (by decide)).1 firstByteTwice.cur 0 0 (by decide) (by decide) rfl
  exact absurd (firstByteTwice_stored.symm.trans h) (by decide)

end Sys2Proof.Machine
end

section
/-! PROOFS. The frame of an issue (02 R19, R20, R21, R52, R53; 04 R96; 11 R286; 13 R313; 14 R336). -/

namespace Sys2Proof.Machine

/-! ## The word counter (R19, R96) -/

theorem winSize_eq (x : W64) : winSize x = x.toNat / 2 ^ 32 := by
  rw [winSize, bits, Nat.shiftRight_eq_div_pow]
  exact Nat.mod_eq_of_lt (by have := x.isLt; omega)

/-- The size of a stream's window in words, as both modes see it. -/
theorem Core.winSize_eq (c : Core) (st : StreamId) :
    c.winSize st = if c.inSup then 1024 else (c.csr (codeCsr st)).toNat / 2 ^ 32 := by
  rw [Core.winSize, Machine.winSize_eq]

/-- A word counter holds any number below a window's size. -/
theorem toNat_pc {n : Nat} (h : n < 2 ^ 17) : (BitVec.ofNat 17 n).toNat = n := Nat.mod_eq_of_lt h

theorem pcMove_toNat {size : Nat} (h0 : 0 < size) (h : size ≤ 2 ^ 17) (pc : BitVec 17) (k : Int) :
    (pcMove size pc k).toNat = (((pc.toNat : Int) + k) % (size : Int)).toNat := by
  rw [pcMove, if_neg h0.ne', toNat_pc]
  have := Int.emod_lt_of_pos ((pc.toNat : Int) + k) (Int.natCast_pos.mpr h0)
  omega

/-- Where each kind of word leaves the counter of its stream. -/
theorem Core.target_toNat (c : Core) (st : StreamId) (n : Next) (h0 : 0 < c.winSize st) (h : c.winSize st ≤ 2 ^ 17) :
    (c.target st n).toNat = match n with
      | .seq => ((c.stream st).pc.toNat + 1) % c.winSize st
      | .rel off => ((((c.stream st).pc.toNat : Int) + off.toInt) % (c.winSize st : Int)).toNat
      | .abs n => n % c.winSize st := by
  cases n with
  | seq =>
    rw [Core.target, pcMove_toNat h0 h]
    exact Int.toNat_natCast _
  | rel off => exact pcMove_toNat h0 h _ _
  | abs n =>
    rw [Core.target, if_neg h0.ne']
    exact toNat_pc (Nat.lt_of_lt_of_le (Nat.mod_lt n h0) h)

/-! ## The token FIFOs (R20, R21) -/

/-- A word pops its tokens of the FIFO it waits at and of no other. -/
theorem Queues.tokensAt_fifo (q : Queues) (k : Ctl) {i : Nat} (h0 : 1 ≤ i) (h : i < 10) :
    vget (q.tokensAt k).fifo i [] =
      if i = k.wq.toNat then (vget q.fifo i []).drop (k.wn.toNat + 1) else vget q.fifo i [] := by
  have hfifo : (q.tokensAt k).fifo =
      if k.wq = 0 then q.fifo else vset q.fifo k.wq.toNat ((vget q.fifo k.wq.toNat []).drop k.pops) := by
    unfold Queues.tokensAt
    split <;> split <;> rfl
  rw [hfifo]
  by_cases hw : k.wq = 0
  · have hi : i ≠ k.wq.toNat := by rw [hw]; exact Nat.ne_of_gt h0
    rw [if_pos hw, if_neg hi]
  · rw [if_neg hw, Ctl.pops, if_neg hw]
    split
    · next hi => rw [← hi, vget_vset_same _ _ _ _ h]
    · next hi => rw [vget_vset_other _ _ _ _ _ (Ne.symm hi)]

/-- A word reserves its places in the FIFO it signals and in no other. -/
theorem Queues.tokensAt_fres (q : Queues) (k : Ctl) {i : Nat} (h0 : 1 ≤ i) (h : i < 10) :
    vget (q.tokensAt k).fres i 0 = vget q.fres i 0 + if i = k.sq.toNat then k.sn.toNat + 1 else 0 := by
  have hfres : (q.tokensAt k).fres =
      if k.sq = 0 then q.fres else vset q.fres k.sq.toNat (vget q.fres k.sq.toNat 0 + k.pushes) := by
    unfold Queues.tokensAt
    split <;> split <;> rfl
  rw [hfres]
  by_cases hs : k.sq = 0
  · have hi : i ≠ k.sq.toNat := by rw [hs]; exact Nat.ne_of_gt h0
    rw [if_pos hs, if_neg hi, Nat.add_zero]
  · rw [if_neg hs, Ctl.pushes, if_neg hs]
    split
    · next hi => rw [← hi, vget_vset_same _ _ _ _ h]
    · next hi => rw [vget_vset_other _ _ _ _ _ (Ne.symm hi), Nat.add_zero]

theorem Queues.tokensAt_frame (q : Queues) (k : Ctl) :
    q.tokensAt k = { q with fifo := (q.tokensAt k).fifo, fres := (q.tokensAt k).fres } := by
  unfold Queues.tokensAt
  split <;> split <;> rfl

/-! ## The counters (R286, R313) and the landing list (R336) -/

theorem Core.charge_inSup {c : Core} (h : c.inSup = true) : c.charge = c := by rw [Core.charge, if_pos h]

/-- In user mode a word counts in ISSUED and uses up a count of SLICE that is not 0. -/
theorem Core.charge_user {c : Core} (h : c.inSup = false) : c.charge.csr .issued = c.csr .issued + 1 ∧
    c.charge.csr .slice = if c.csr .slice = 0 then 0 else c.csr .slice - 1 := by
  have hslice : (c.setCsr .issued (c.csr .issued + 1)).csr .slice = c.csr .slice := c.csr_setCsr_other _ (by decide)
  rw [Core.charge, if_neg (by simp [h])]
  simp only [hslice]
  by_cases h0 : c.csr .slice = 0
  · rw [if_pos h0, if_pos h0]
    exact ⟨c.csr_setCsr _ _, hslice.trans h0⟩
  · rw [if_neg h0, if_neg h0, Core.csr_setCsr_other _ _ (by decide)]
    exact ⟨c.csr_setCsr _ _, Core.csr_setCsr _ _ _⟩

/-- The CSRs after an issue are those after its charge. -/
theorem Core.issued_csr_charge (c : Core) (p : Plan) (n : Csr) :
    (c.issued p).csr n = (c.setStream p.st (c.streamAt p)).charge.csr n :=
  rfl

theorem Core.silent_iff (c : Core) (p : Plan) : c.silent p = true ↔ p.noEntry = true ∨
    p.acts = [] ∧ p.fp = 0 ∧ p.sat = 0 ∧ p.ctl.sq = 0 ∧ p.lat ≤ (c.stream p.st).div := by
  simp [Core.silent, and_assoc]

/-- R52: a taken branch holds its stream for one engine tick more. -/
theorem Core.streamAt_eq (c : Core) (p : Plan) : c.streamAt p =
    { c.stream p.st with pc := c.target p.st p.next, word := none, hold := (1 + p.extra + (match p.next with
        | .seq => 0
        | _ => 1)) * (c.stream p.st).div } := by
  rw [Core.streamAt]
  cases p.next <;> rfl

/-- Settles O35, from a law for each part that an issue touches and the laws of what it leaves. -/
theorem issueMovesOneStreamOn : Obligations.IssueMovesOneStreamOn := by
  unfold Obligations.IssueMovesOneStreamOn
  intro k p
  dsimp only
  rw [← k.winSize_eq p.st, ← k.silent_iff p]
  refine ⟨⟨_, (k.issued_stream p).trans (k.streamAt_eq p), k.target_toNat p.st p.next⟩,
    fun st hst => k.issued_stream_other p hst.symm, fun q h0 h => k.q.tokensAt_fifo p.ctl h0 h,
    fun q h0 h => k.q.tokensAt_fres p.ctl h0 h, k.q.tokensAt_frame p.ctl,
    fun h => ?_, fun h => ?_, k.issued_r p, fun n h1 h2 => k.issued_csr p h1 h2, fun h => ?_, fun h => ?_,
    k.issued_array p, k.issued_cp p, k.issued_o p, k.issued_t p, k.issued_job p, k.issued_phase p⟩
  · rw [Core.issued_land, if_pos h]
  · rw [Core.issued_land, if_neg h]
    rfl
  · rw [Core.issued_csr_charge, Core.issued_csr_charge, Core.charge_inSup (by simpa using h)]
    exact ⟨Core.csr_setStream _ _ _ _, Core.csr_setStream _ _ _ _⟩
  · obtain ⟨hissued, hslice⟩ := (k.setStream p.st (k.streamAt p)).charge_user (by simpa using h)
    rw [Core.csr_setStream] at hissued hslice
    exact ⟨hissued, hslice⟩

end Sys2Proof.Machine
end

section
/-! PROOFS. The common row of every stream, and the supervisor words in user mode (02 R35 to R37; 11 R283, R284; 14 R338,
R339, R350). -/

namespace Sys2Proof.Machine

/-- R51: a latency of 1 scales with the stream's divisor, in the M and V streams from divisor 2. -/
theorem Core.latOne_eq (c : Core) (st : StreamId) :
    c.latOne st = if st = .a then (c.stream st).div else ((c.stream st).div + 1) / 2 := by
  cases st <;> simp [Core.latOne, Core.lat, Core.latA, latHalf, ceilDiv, Core.stream]

theorem Core.superFault_user {c : Core} (h : c.inSup = false) (code : BitVec 8) : c.superFault code = none := by
  simp [Core.superFault, h]

theorem Core.superFault_sup {c : Core} (h : c.inSup = true) (code : BitVec 8) : c.superFault code = some (flt code) := by
  simp [Core.superFault, h]

theorem Core.privileged_user {c : Core} (h : c.inSup = false) : c.privileged = some (flt 0x02) := by
  simp [Core.privileged, h]

/-- R338: TFENCE's wait, for results and for remote ATOMs of the mode. -/
theorem Core.inFlight_iff (c : Core) (st : StreamId) : c.inFlight st = true ↔
    (∃ e ∈ c.land, e.st = st ∧ e.sup = c.inSup) ∨ (st = .a ∧ ∃ r ∈ c.cp.ratoms, r.sup = c.inSup) := by
  simp [Core.inFlight, Core.atomFlight]

theorem Copies.closeOpen_none {cp : Copies} (h : cp.groups = []) : cp.closeOpen = cp := by
  rw [Copies.closeOpen, h]
  cases cp
  simp_all

section
variable {c : Ctl} {s : State} (h : s.core.clear c)
include h

theorem execNop_clear (st : StreamId) : execNop st c s = s.goes (.of st c (s.core.latOne st) []) :=
  issue_clear h rfl rfl rfl rfl rfl rfl _

theorem execJoin_clear {st : StreamId} (hst : st ≠ .a) : execJoin st c s = s.goesWith (.of st c (s.core.latOne st) [])
    fun k => k.setStream st { k.stream st with joined := true } := by
  rw [execJoin, if_pos hst]
  exact issue_clear h rfl rfl rfl rfl rfl rfl _

/-- JOIN of the A stream, with no group and nothing to observe. -/
theorem execJoin_clear_a (hg : s.core.cp.groups = []) (hu : s.core.cp.unobs = []) : execJoin .a c s =
    s.goesWith (.of .a c s.core.sa.div []) fun k => { k with sa := { k.sa with joined := true } } := by
  have hgo : verdict s.core { st := .a, ctl := c, lat := s.core.latOne .a } = .go := verdict_clear h rfl rfl rfl rfl rfl rfl
  have hclose : (s.onCore fun k => { k with cp := k.cp.closeOpen }) = s := by
    rw [State.onCore, Copies.closeOpen_none hg]
  simp only [execJoin, hgo, hclose, hg, hu, ne_eq, not_true, if_false, List.isEmpty_nil, Bool.not_true, Bool.false_eq_true,
    if_true]
  refine (issue_go hgo _).trans ?_
  rw [Core.latOne_eq]
  rfl

/-- TRAP and BRK in user mode. -/
theorem afterTrap_user (hu : s.core.inSup = false) (st : StreamId) (code : BitVec 8) (imm : BitVec 16) :
    afterTrap st c code imm s = s.goesWith { Plan.of st c 1 [] with noEntry := true } fun k =>
      { k with q := { k.q with fres := s.core.q.fres }, t := { k.t with stops := k.t.stops ++
        [{ kind := .after, st := some st, code := code, imm := imm, faddr := 0, status := 0, block := 0,
           poff := none }] } } := by
  rw [afterTrap, Core.superFault_user hu]
  exact issue_clear h rfl rfl rfl rfl rfl rfl _

/-- TRAP and BRK in supervisor mode. -/
theorem afterTrap_sup (hs : s.core.inSup = true) (st : StreamId) (code : BitVec 8) (imm : BitVec 16) :
    afterTrap st c code imm s = s.faults st (flt code) := by
  rw [afterTrap, Core.superFault_sup hs]
  exact issue_faults h rfl rfl rfl rfl _

theorem execTfence_clear {st : StreamId} (hf : s.core.inFlight st = false) :
    execTfence st c s = s.goes (.of st c (s.core.latOne st) []) := by
  rw [execTfence, hf]
  exact issue_clear h rfl rfl rfl rfl rfl rfl _

theorem execTfence_waits {st : StreamId} (hf : s.core.inFlight st = true) : execTfence st c s = .next s := by
  rw [execTfence, hf]
  exact issue_waits h rfl rfl rfl _

end

/-- A supervisor word in user mode faults by its decoding, before it would wait for anything. -/
theorem supervisorWord_user {s : State} (h : s.core.inSup = false) (c : Ctl) (d a : BitVec 6) (n : BitVec 16) {i : Instr}
    (hi : i ∈ [Instr.eret c, .eretImg c, .yield c, .yieldKill c, .lsave c, .lrest c, .psave c a n, .ppull c a n, .pdrop c a n,
      .pstat c d a, .tlbinv c a, .tlbinvAll c]) : exec i s = s.faults .a (flt 0x02) := by
  have hp := Core.privileged_user h
  simp only [List.mem_cons, List.not_mem_nil, or_false] at hi
  rcases hi with rfl | rfl | rfl | rfl | rfl | rfl | rfl | rfl | rfl | rfl | rfl | rfl
  all_goals
    simp only [exec_eret, exec_eretImg, exec_yield, exec_yieldKill, exec_lsave, exec_lrest, exec_psave, exec_ppull,
      exec_pdrop, exec_pstat, exec_tlbinv, exec_tlbinvAll, execEret, execEretImg, execYield, execYieldKill, yieldWord,
      execLsave, execLrest, execPsave, execPpull, execPdrop, rangeWord, execPstat, execTlbinv, execTlbinvAll, tlbWord]
    exact issue_decodeFaults hp _

/-- Settles O10: each word is one issue; the supervisor words fault by their decoding. -/
theorem commonAndSupervisorWords : Obligations.CommonAndSupervisorWords := by
  unfold Obligations.CommonAndSupervisorWords
  refine ⟨fun st c imm rest s h => ?_, fun c d a n s hu i hi => supervisorWord_user hu c d a n hi⟩
  dsimp only
  rw [← Core.latOne_eq]
  refine ⟨execNop_clear h st, execJoin_clear h, execJoin_clear_a h,
    fun hu => ⟨afterTrap_user h hu st 0x12 imm, afterTrap_user h hu st 0x13 0⟩,
    fun hs => ⟨afterTrap_sup h hs st 0x12 imm, afterTrap_sup h hs st 0x13 0⟩, fun hland hatom => ?_, fun hf => ?_, rfl⟩
  · refine execTfence_clear h (Bool.eq_false_iff.mpr fun hf => ?_)
    rcases (s.core.inFlight_iff st).mp hf with ⟨e, he, hst, hsup⟩ | ⟨hst, r, hr, hsup⟩
    · exact hland e he hst hsup
    · exact hatom hst r hr hsup
  · exact execTfence_waits h ((s.core.inFlight_iff st).mpr hf)

end Sys2Proof.Machine
end

section
/-! PROOFS. The fetch of a stream's next word (02 R19, R38; 07 R163, R164; 14 R335). -/

namespace Sys2Proof.Machine

theorem winBase_eq (x : W64) : winBase x = x.toNat % 2 ^ 22 := rfl

/-- R163: a valid code window. -/
theorem winValid_iff (x : W64) : winValid x = true ↔
    1 ≤ x.toNat / 2 ^ 32 ∧ x.toNat % 2 ^ 22 % 8 = 0 ∧ x.toNat % 2 ^ 22 + 8 * (x.toNat / 2 ^ 32) ≤ 0x100000 := by
  simp [winValid, winSize_eq, winBase_eq, and_assoc]

theorem Core.fetched_iff (c : Core) (st : StreamId) : c.fetched st = true ↔
    c.turn st = false ∨ (c.stream st).word ≠ none ∨ ∃ x ∈ c.t.stops, x.st = some st := by
  simp [Core.fetched, Option.isSome_iff_ne_none, or_assoc]

/-- Below the shade windows a local address reads the core's own scratchpad. -/
theorem State.getL_scratchpad (s : State) {a : Nat} (h : a < 0x100000) : s.getL a = s.core.r.sram.get a := by
  have hl : lentAddr a = false := by simp [lentAddr]; omega
  simp [State.getL, hl, Core.getB, show a < 0x300000 by omega]

/-- What does not change the scratchpad does not change what a window's word reads. -/
theorem State.getLs_onCore_scratchpad (s : State) {f : Core → Core} (hf : (f s.core).r.sram = s.core.r.sram) {a n : Nat}
    (h : a + n ≤ 0x100000) : (s.onCore f).getLs a n = s.getLs a n := by
  refine List.map_congr_left fun i hi => ?_
  have hi : a + i < 0x100000 := by have := List.mem_range.mp hi; omega
  rw [State.getL_scratchpad _ hi, State.getL_scratchpad _ hi]
  exact congrArg (·.get (a + i)) hf

/-- The core at its fetch, its program counter wrapped. -/
theorem Core.wrapPc_of {c : Core} {st : StreamId} (h : c.inSup = true ∨ winValid (c.csr (codeCsr st)) = true) :
    c.wrapPc st = c.setStream st { c.stream st with pc := BitVec.ofNat 17 ((c.stream st).pc.toNat % c.winSize st) } := by
  rw [Core.wrapPc, if_pos (by simpa using h)]

theorem Core.wrapPc_of_invalid {c : Core} {st : StreamId} (hu : c.inSup = false) (h : winValid (c.csr (codeCsr st)) = false) :
    c.wrapPc st = c := by
  rw [Core.wrapPc, hu, h]
  rfl

@[simp] theorem Core.wrapPc_r (c : Core) (st : StreamId) : (c.wrapPc st).r = c.r := by
  unfold Core.wrapPc
  split
  · exact c.setStream_r st _
  · rfl

/-- A stream takes up a word at a wrapped program counter. -/
theorem Core.setStream_setStream (c : Core) (st : StreamId) (x y : Stream) :
    (c.setStream st x).setStream st y = c.setStream st y := by
  cases st <;> rfl

theorem State.take_wrapPc {s : State} {st : StreamId} (h : s.core.inSup = true ∨ winValid (s.core.csr (codeCsr st)) = true)
    (w : W64) (p : Phase) : ((s.onCore fun k => k.wrapPc st).onCore fun k =>
      { k.setStream st { k.stream st with word := some w } with phase := p }) =
    s.onCore fun k => { k.setStream st { k.stream st with
      pc := BitVec.ofNat 17 ((s.core.stream st).pc.toNat % s.core.winSize st), word := some w } with phase := p } := by
  simp [State.onCore, Core.wrapPc_of h, Core.setStream_setStream]

section
variable {st : StreamId} {s : State} (hp : s.core.phase = .fetch st)
include hp

theorem execFetch_passes (h : s.core.fetched st = true) :
    execFetch st s = .next (s.onCore fun k => { k with phase := afterFetch st }) := by
  simp [execFetch, hp, h]

theorem execFetch_sup (h : s.core.fetched st = false) (hs : s.core.inSup = true) : execFetch st s =
    let pc := (s.core.stream st).pc.toNat % 1024
    .next (s.onCore fun k => { k.setStream st { k.stream st with
      pc := BitVec.ofNat 17 pc, word := some (k.r.sup.getD pc 0) } with phase := afterFetch st }) := by
  have hpc : (BitVec.ofNat 17 ((s.core.stream st).pc.toNat % 1024)).toNat = (s.core.stream st).pc.toNat % 1024 :=
    toNat_pc (by omega)
  have hsize : s.core.winSize st = 1024 := by rw [Core.winSize, if_pos hs]
  simp [execFetch, hp, h, State.onCore, Core.wrapPc_of (.inl hs), hs, hsize, hpc, Core.setStream_setStream]

theorem execFetch_invalid (h : s.core.fetched st = false) (hu : s.core.inSup = false)
    (hv : winValid (s.core.csr (codeCsr st)) = false) : execFetch st s =
    .next (s.onCore fun k => { k.raise st (flt 0x07 (s.core.wordAddr st)) with phase := afterFetch st }) := by
  simp [execFetch, hp, h, State.onCore, Core.wrapPc_of_invalid hu hv, hu, hv, Core.fetchFault]

theorem execFetch_valid (h : s.core.fetched st = false) (hu : s.core.inSup = false)
    (hv : winValid (s.core.csr (codeCsr st)) = true) (hpres : s.core.r.pres = []) (he : s.core.early = false) :
    execFetch st s =
    let pc := (s.core.stream st).pc.toNat % s.core.winSize st
    .next (s.onCore fun k => { k.setStream st { k.stream st with
      pc := BitVec.ofNat 17 pc,
      word := some (BitVec.ofNat 64 (leNat (s.getLs (winBase (s.core.csr (codeCsr st)) + 8 * pc) 8))) }
        with phase := afterFetch st }) := by
  obtain ⟨h1, -, h3⟩ := (winValid_iff _).mp hv
  have hsize : s.core.winSize st = (s.core.csr (codeCsr st)).toNat / 2 ^ 32 := by rw [Core.winSize_eq, if_neg (by simp [hu])]
  have hlt : (s.core.stream st).pc.toNat % s.core.winSize st < s.core.winSize st := Nat.mod_lt _ (by omega)
  have hpc : (BitVec.ofNat 17 ((s.core.stream st).pc.toNat % s.core.winSize st)).toNat =
      (s.core.stream st).pc.toNat % s.core.winSize st := toNat_pc (by omega)
  have hbytes := s.getLs_onCore_scratchpad (f := (·.wrapPc st)) (by rw [Core.wrapPc_r])
    (a := winBase (s.core.csr (codeCsr st)) + 8 * ((s.core.stream st).pc.toNat % s.core.winSize st)) (n := 8)
    (by rw [winBase_eq]; omega)
  have hcsr (n : Csr) : (s.core.wrapPc st).csr n = s.core.csr n := by
    rw [Core.csr, Core.wrapPc_r, Core.csr]
  have haddr : (s.core.wrapPc st).wordAddr st =
      winBase (s.core.csr (codeCsr st)) + 8 * ((s.core.stream st).pc.toNat % s.core.winSize st) := by
    rw [Core.wordAddr, hcsr, Core.wrapPc_of (.inr hv), Core.stream_setStream, hpc]
  have hsup : (s.core.wrapPc st).inSup = false := by rw [Core.inSup, hcsr]; exact hu
  have hpres' : (s.core.wrapPc st).r.pres = [] := by rw [Core.wrapPc_r, hpres]
  have hfault (a : Nat) : (s.core.wrapPc st).fetchFault st a = none := by
    rw [Core.fetchFault, hcsr, if_pos hv, Core.earlyIn_off (by rw [Core.early, hcsr]; exact he), Core.poisonIn_present hpres']
    rfl
  simp only [execFetch, hp, h, ne_eq, not_true, if_false, Bool.false_eq_true, State.onCore_core, hsup, hcsr, hv, if_true,
    Core.absentIn_present hpres', hfault, haddr]
  rw [State.take_wrapPc (.inr hv), State.getLe, hbytes]

end

/-- Settles O33, from the law of each kind of fetch. -/
theorem fetchTakesTheWordAtTheCounter : Obligations.FetchTakesTheWordAtTheCounter := by
  unfold Obligations.FetchTakesTheWordAtTheCounter
  intro st s hp k csr base size pc next valid passes takes
  have hfetched (h : ¬passes) : k.fetched st = false := Bool.eq_false_iff.mpr fun hf => h ((k.fetched_iff st).mp hf)
  have hwin : winValid (k.csr (codeCsr st)) = true ↔ valid := winValid_iff (k.csr (codeCsr st))
  refine ⟨fun h => execFetch_passes hp ((k.fetched_iff st).mpr h), fun h hs => execFetch_sup hp (hfetched h) hs,
    fun h hu hv => execFetch_invalid hp (hfetched h) hu (Bool.eq_false_iff.mpr fun hw => hv (hwin.mp hw)),
    fun h hu hv hpres he => ?_⟩
  have hsize : k.winSize st = size := by rw [Core.winSize_eq, if_neg (by simp [hu])]; rfl
  have hword := execFetch_valid hp (hfetched h) hu (hwin.mpr hv) hpres he
  rw [hsize] at hword
  exact hword

end Sys2Proof.Machine
end

section
/-! PROOFS. The statement on the issue step fails for a core that is held for the translations of a timed COPY (09 R233). -/

namespace Sys2Proof.Machine

/-! ## The issue step of a stream (R48, R54) -/

/-- A running core with its domain not frozen goes on with its tick. -/
theorem State.advance_running {s : State} {j : Job} (hj : s.core.job = some j) (hr : j.phase = .running)
    (hp : s.core.t.pulls = []) : s.advance = s.tickStep := by
  simp [State.advance, hj, hr, hp]

/-- The move of the selected core is the next step of its tick. -/
theorem step_core {s : State} {rest : List Move} {j : Job} (ha : s.agenda = .core s.cur :: rest) (hc : s.cur < 2048)
    (hj : s.core.job = some j) (hr : j.phase = .running) (hp : s.core.t.pulls = []) :
    step s = ({ s with agenda := rest } : State).tickStep := by
  have hadv := State.advance_running (s := { s with agenda := rest }) hj hr hp
  simp [step, ha, State.move, State.runCore, Nat.not_le.mpr hc, State.select, hadv]

theorem State.tickStep_issue {s : State} {st : StreamId} (h : s.core.phase = .issue st) (hb : s.barEnds = false) :
    s.tickStep = s.issueStep st := by
  simp [State.tickStep, h, hb]

/-- A core that is held for the translations of a timed COPY stands at the touches before its issue (R233). -/
theorem State.issueStep_held {s : State} (ht : s.core.turn .a = true) (h : s.timedHold = true) :
    s.issueStep .a = .next (s.onCore fun c => { c with phase := .touch }) := by
  simp [State.issueStep, ht, h]

/-- Any other stream with its word at its boundary tries it. -/
theorem State.issueStep_tries {s : State} {st : StreamId} {w : W64} (ht : s.core.turn st = true)
    (h : st = .a → s.timedHold = false) (hw : (s.core.stream st).word = some w) : s.issueStep st = s.tryWord st w := by
  have hheld : (decide (st = .a) && s.timedHold) = false := by
    by_cases hst : st = .a
    · rw [h hst, Bool.and_false]
    · rw [decide_eq_false hst, Bool.false_and]
  simp [State.issueStep, ht, hheld, hw]

/-- A word that decodes is executed, and the core goes on. -/
theorem State.tryWord_ok {s t : State} {st : StreamId} {w : W64} {i : Instr} (hi : decodeWord st w = .ok i)
    (hx : exec i s = .next t) : s.tryWord st w = .next (t.onCore fun c => s.core.tried c st i) := by
  simp [State.tryWord, hi, hx]

/-- An undecodable word raises ILLEGAL_WORD. -/
theorem State.tryWord_error {s : State} {st : StreamId} {w : W64} {e} (h : decodeWord st w = .error e) :
    s.tryWord st w = .next (s.onCore fun c => { c.raise st (flt 0x01) with phase := afterIssue st }) := by
  simp [State.tryWord, h]

/-! ## A core that is held -/

/-- A timed COPY of two elements (R222, R233). -/
def timedCopy : Instr := .copy { wq := 0, wn := 0, sq := 0, sn := 0 } 2 1 0 0 0 0b100 0

/-- A core at the issue of a timed COPY whose source page lies behind a link in key hold. -/
def heldForTranslation : State :=
  let source : BitVec 256 := BitVec.ofNat 256 (0x2000000 + 2 * 2 ^ 60 + 2 * 2 ^ 64 + 2 ^ 80 + 2 ^ 96 + 2 ^ 112)
  let dest : BitVec 256 := BitVec.ofNat 256 (0x100 + 2 * 2 ^ 64 + 2 ^ 80 + 2 ^ 96 + 2 ^ 112)
  let s := State.reset.onCore fun c =>
    let c1 := c.setCsr .ptroot 0x8000007000000000
    { c1 with r := { c1.r with h := vset (vset c1.r.h 1 source) 2 dest }, sa := { c1.sa with word := encode timedCopy },
              job := some someJob, phase := .issue .a }
  { s with links := .replicate 24 { Link.reset with state := 3 }, boot := { s.boot with trained := 0x122 },
           agenda := [.core s.cur] }

/-- The word of the timed COPY. -/
def timedCopyWord : W64 := (encode timedCopy).getD 0

theorem timedCopyWord_decodes : decodeWord .a timedCopyWord = .ok timedCopy := by decide

/-- The state that the move is made in: its move is off the agenda. -/
def translatesAtIssue : State := { heldForTranslation with agenda := [] }

theorem translatesAtIssue_holds : translatesAtIssue.timedHold = true := by decide +kernel

/-- The word waits, for what it would translate now. -/
theorem timedCopy_waits : exec timedCopy translatesAtIssue = .next translatesAtIssue := by
  have h := translatesAtIssue_holds
  have hword : translatesAtIssue.core.sa.word = some timedCopyWord := by decide
  simp only [State.timedHold, hword, Option.map_some, timedCopyWord_decodes, timedCopy] at h
  simp only [timedCopy, exec_copy, execCopy, postCopy]
  rw [if_pos h]

/-- The core stands at the touches before its issue, not at the next stream. -/
theorem step_heldForTranslation :
    step heldForTranslation = .next (translatesAtIssue.onCore fun c => { c with phase := .touch }) :=
  calc step heldForTranslation
    _ = translatesAtIssue.tickStep := step_core (j := someJob) rfl (by decide) rfl rfl rfl
    _ = translatesAtIssue.issueStep .a := State.tickStep_issue rfl (by decide)
    _ = .next (translatesAtIssue.onCore fun c => { c with phase := .touch }) :=
      State.issueStep_held (by decide) translatesAtIssue_holds

/-- Refutes O34: its clause on a decoded word speaks of a timed COPY too, and while its translations cannot be made the core
stands at the touches before its issue (R233) and does not go on to the next stream. For every other word `step_core`,
`State.issueStep_tries`, `State.tryWord_ok` and `State.tryWord_error` say what the step does. -/
theorem not_stepIssuesTheDecodedWord : ¬ Obligations.StepIssuesTheDecodedWord := by
  unfold Obligations.StepIssuesTheDecodedWord
  intro h
  obtain ⟨hissue, -, -⟩ := h heldForTranslation .a timedCopyWord [] someJob rfl (by decide) rfl rfl rfl rfl (fun _ => rfl)
    rfl rfl (by decide) rfl rfl (by decide)
  obtain ⟨c, hstep, hnext, -⟩ := hissue timedCopy translatesAtIssue timedCopyWord_decodes timedCopy_waits
  obtain ⟨b, hc⟩ := hnext (by decide) rfl
  rw [step_heldForTranslation, hc] at hstep
  injection hstep with hs
  have hphase : Phase.touch = .issue .m := congrArg (fun s => s.core.phase) hs
  exact absurd hphase (by decide)

end Sys2Proof.Machine
end

section
/-! PROOFS. The mask words of the V stream: VCMP, KLOG, VFIRST and VCOMP (02 R25; 06 R142, R143). -/

namespace Sys2Proof.Machine

/-! ## Order of values (R25, R143) -/

theorem shiftTo_real (m : Nat) {e q : Int} (h : q ≤ e) : (shiftTo m e q : ℚ) * 2 ^ q = (m : ℚ) * 2 ^ e := by
  simpa [signedMag] using signedMag_shiftTo false m h

theorem magLt_iff (m : Nat) (e : Int) (n : Nat) (f : Int) :
    magLt m e n f = true ↔ (m : ℚ) * 2 ^ e < (n : ℚ) * 2 ^ f := by
  rw [← shiftTo_real m (Int.min_le_right f e), ← shiftTo_real n (Int.min_le_left f e),
    mul_lt_mul_iff_left₀ (zpow_pos two_pos _), Nat.cast_lt]
  simp [magLt, magLe]

/-- The order of two finite values is that of the numbers they stand for. -/
theorem X.ltNum_fin (s : Bool) (m : Nat) (e : Int) (t : Bool) (n : Nat) (f : Int) :
    (X.fin s m e).ltNum (.fin t n f) = true ↔ (X.fin s m e).real < (X.fin t n f).real := by
  have hm : (0 : ℚ) ≤ (m : ℚ) * 2 ^ e := by positivity
  have hn : (0 : ℚ) ≤ (n : ℚ) * 2 ^ f := by positivity
  by_cases h0 : m = 0 ∧ n = 0
  · simp [X.ltNum, X.real, h0]
  · have hpos : 0 < (m : ℚ) * 2 ^ e + (n : ℚ) * 2 ^ f := by
      rcases not_and_or.mp h0 with h | h
      · have : 0 < (m : ℚ) * 2 ^ e := by positivity
        linarith
      · have : 0 < (n : ℚ) * 2 ^ f := by positivity
        linarith
    cases s <;> cases t <;> simp [X.ltNum, h0, X.real, magLt_iff] <;> linarith

/-- The order of VCMP on two values that are not NaN. -/
def X.below (x y : X) : Prop :=
  match x, y with
  | .fin _ _ _, .fin _ _ _ => x.real < y.real
  | .inf true, .fin _ _ _ => True
  | .fin _ _ _, .inf t => t = false
  | .inf true, .inf t => t = false
  | _, _ => False

theorem X.ltNum_iff (x y : X) : x.ltNum y = true ↔ x.below y := by
  cases x with
  | nan => simp [X.ltNum, X.below]
  | inf s => cases y <;> cases s <;> simp [X.ltNum, X.below]
  | fin s m e =>
    cases y with
    | fin t n f => exact X.ltNum_fin s m e t n f
    | inf t => simp [X.ltNum, X.below]
    | nan => simp [X.ltNum, X.below]

/-- The four conditions of VCMP as an order decides them. -/
def laneOrder (ty : VTy) (p q : W32) (lt gt : Prop) : Prop :=
  (laneCond .lt ty p q = true ↔ lt) ∧ (laneCond .ge ty p q = true ↔ ¬lt) ∧ (laneCond .eq ty p q = true ↔ ¬lt ∧ ¬gt) ∧
    (laneCond .ne ty p q = true ↔ lt ∨ gt)

theorem laneOrder_i (p q : W32) : laneOrder .i p q (p.toInt < q.toInt) (q.toInt < p.toInt) := by
  have hp : (p.signExtend 64).toInt = p.toInt := BitVec.toInt_signExtend_of_le (by decide)
  have hq : (q.signExtend 64).toInt = q.toInt := BitVec.toInt_signExtend_of_le (by decide)
  have heq : p.signExtend 64 = q.signExtend 64 ↔ p.toInt = q.toInt := by rw [← BitVec.toInt_inj, hp, hq]
  obtain ⟨ceq, cne, clt, cge, -⟩ := condHolds_spec (p.signExtend 64) (q.signExtend 64)
  simp only [laneOrder, laneCond, ceq, cne, clt, cge, decide_eq_true_eq, heq, hp, hq, ne_eq]
  exact ⟨trivial, not_lt.symm, by omega, by omega⟩

theorem laneOrder_u (p q : W32) : laneOrder .u p q (p.toNat < q.toNat) (q.toNat < p.toNat) := by
  have heq : p.setWidth 64 = q.setWidth 64 ↔ p.toNat = q.toNat := by
    rw [← BitVec.toNat_inj, BitVec.toNat_setWidth_of_le (by decide), BitVec.toNat_setWidth_of_le (by decide)]
  obtain ⟨ceq, cne, -⟩ := condHolds_spec (p.setWidth 64) (q.setWidth 64)
  simp only [laneOrder, laneCond, ceq, cne, decide_eq_true_eq, heq, ne_eq, BitVec.ult,
    Bool.not_eq_true', decide_eq_false_iff_not]
  exact ⟨trivial, trivial, by omega, by omega⟩

/-- As FP32, with no NaN. -/
theorem laneOrder_f {p q : W32} (hp : dec32 p.toNat ≠ .nan) (hq : dec32 q.toNat ≠ .nan) :
    laneOrder .f p q ((dec32 p.toNat).below (dec32 q.toNat)) ((dec32 q.toNat).below (dec32 p.toNat)) := by
  have isNan {x : X} (h : x ≠ .nan) : x.isNan = false := by cases x <;> simp_all [X.isNan]
  simp only [laneOrder, laneCond, isNan hp, isNan hq, ← X.ltNum_iff]
  cases (dec32 p.toNat).ltNum (dec32 q.toNat) <;> cases (dec32 q.toNat).ltNum (dec32 p.toNat) <;> simp

/-- With a NaN only NE holds. -/
theorem laneCond_nan {p q : W32} (h : dec32 p.toNat = .nan ∨ dec32 q.toNat = .nan) (cc : Cond) :
    laneCond cc .f p q = decide (cc = .ne) := by
  have hnan : (dec32 p.toNat).isNan || (dec32 q.toNat).isNan := by
    rcases h with h | h <;> simp [h, X.isNan]
  simp [laneCond, hnan]

/-! ## Bits of a mask -/

/-- The number that `bitsToW64` builds from the first n bits. -/
theorem bitsFold_spec (p : Nat → Bool) (n : Nat) :
    let x := (List.range n).foldl (fun t l => if p l then t + 2 ^ l else t) 0
    x < 2 ^ n ∧ ∀ l < n, x.testBit l = p l := by
  induction n with
  | zero => simp
  | succ n ih =>
    obtain ⟨hlt, hbit⟩ := ih
    simp only [List.range_succ, List.foldl_append, List.foldl_cons, List.foldl_nil]
    set x := (List.range n).foldl (fun t l => if p l then t + 2 ^ l else t) 0
    have hself : x.testBit n = false := Nat.testBit_lt_two_pow hlt
    cases hp : p n with
    | false =>
      refine ⟨by simp; omega, fun l hl => ?_⟩
      rcases Nat.lt_succ_iff_lt_or_eq.mp hl with h | rfl
      · simpa using hbit l h
      · simpa [hp] using hself
    | true =>
      refine ⟨by simp; omega, fun l hl => ?_⟩
      simp only [if_true]
      rcases Nat.lt_succ_iff_lt_or_eq.mp hl with h | rfl
      · rw [Nat.add_comm, Nat.testBit_two_pow_add_gt h]
        exact hbit l h
      · rw [Nat.add_comm, Nat.testBit_two_pow_add_eq, hself, hp]
        rfl

theorem bitsToW64_getLsbD (p : Nat → Bool) {l : Nat} (h : l < 64) : (bitsToW64 p).getLsbD l = p l := by
  obtain ⟨hlt, hbit⟩ := bitsFold_spec p 64
  rw [bitsToW64, BitVec.getLsbD, BitVec.toNat_ofNat, Nat.mod_eq_of_lt hlt]
  exact hbit l h

/-! ## The lanes that a mask selects (R142) -/

theorem zipIdx_eq {l : List W32} (h : l.length = 64) : l.zipIdx = (List.range 64).map fun i => (l.getD i 0, i) := by
  refine List.ext_getElem (by simp [h]) fun i h1 h2 => ?_
  have hi : i < l.length := by simpa using h1
  simp [hi]

theorem selected_eq (m : W64) {l : List W32} (h : l.length = 64) :
    selected m l = ((List.range 64).filter fun i => m.getLsbD i).map fun i => l.getD i 0 := by
  rw [selected, zipIdx_eq h, List.filter_map, List.map_map]
  rfl

/-- A list of up to 64 lanes, zeros after it. -/
theorem pad_eq {l : List W32} (h : l.length ≤ 64) :
    l ++ List.replicate (64 - l.length) 0 = (List.range 64).map fun i => l[i]?.getD 0 := by
  refine List.ext_getElem (by simp; omega) fun i h1 h2 => ?_
  rcases Nat.lt_or_ge i l.length with hi | hi
  · simp [hi]
  · simp [hi]

theorem srcLanes_length (s : State) (a : VSrc) : (srcOf (readSrcs s [a]).vals 0).length = 64 := by
  cases a with
  | v n => simp [readSrcs, VRead.name, srcOf, vLanes]
  | dv => simp [readSrcs, VRead.name, srcOf]
  | z n =>
    simp only [readSrcs, VRead.name, srcOf, List.foldl_cons, List.foldl_nil, List.nil_append, List.getD_cons_zero]
    split <;> simp

/-! ## The words (R142, R143) -/

/-- A word that names no z and no DV leaves them. -/
theorem Core.namings_none {k : Core} {z : Vector (BitVec 512) 8} (h : k.r.z = z) :
    ({ k with r := { k.r with z := z }, q := { k.q with dq := vset k.q.dq 2 ((vget k.q.dq 2 []).drop 0) } } : Core) = k := by
  subst h
  rw [List.drop_zero, vset_vget]

section
variable {c : Ctl} {s : State} (h : s.core.clear c)
include h

/-- A word whose result is a mask. -/
theorem maskWord_clear (kd : BitVec 3) (xs : List VSrc) (regs : Ranges) (mask : Core → Option W64)
    (f : Core → List (List W32) → W64) (hdv : (readSrcs s xs).dv ≤ (s.core.dq .dv).length)
    (hf : (readSrcs s xs).fault = none) : maskWord c kd xs regs mask f s =
    s.goesWith { Plan.of .v c (((8 + if (readSrcs s xs).lent then 4 else 0) * s.core.sv.div + 1) / 2 +
          bankExtra xs * s.core.sv.div)
        (if kd = 0 then [] else [.kbits kd.toNat (mask s.core) (f s.core (readSrcs s xs).vals)]) with
        extra := bankExtra xs } fun k =>
      { k with r := { k.r with z := (readSrcs s xs).z },
               q := { k.q with dq := vset k.q.dq 2 ((vget k.q.dq 2 []).drop (readSrcs s xs).dv) } } := by
  unfold maskWord
  simp only [setZ_popDv]
  exact issue_goesWith h rfl rfl (decide_eq_false (Nat.not_lt.mpr hdv)) hf rfl rfl
    (Core.issued_congr rfl rfl rfl rfl rfl rfl rfl rfl rfl rfl) rfl

theorem execKlog_clear (op : LogOp) (kd ka kb : BitVec 3) : execKlog c op kd ka kb s =
    s.goes (.of .v c ((8 * s.core.sv.div + 1) / 2)
      (if kd = 0 then [] else [.kbits kd.toNat none (klogOp op (s.core.kreg ka) (s.core.kreg kb))])) := by
  have hz (p : Plan) : (s.core.issued p).r.z = s.core.r.z := by rw [Core.issued_r]
  have hlat : s.core.lat .v (8 + if (readSrcs s []).lent then 4 else 0) + bankExtra [] * s.core.sv.div =
      (8 * s.core.sv.div + 1) / 2 := by
    rw [show bankExtra [] = 0 from rfl, Nat.zero_mul]
    rfl
  unfold execKlog maskWord
  simp only [setZ_popDv]
  exact issue_goesWith (g := id) h rfl rfl rfl rfl rfl rfl
    (Core.issued_congr rfl rfl rfl rfl hlat rfl rfl rfl rfl rfl) (Core.namings_none (hz _))

/-- A word that gives every lane one number. -/
theorem execVfirst_clear (count : Bool) (d : VDst) (ka k : BitVec 3) (ty : VTy) (hr : s.vrReady d [] (s.core.kreg k)) :
    execVfirst c count d ka k ty s = s.vrGoes c d [] (s.core.kreg k) 10 fun _ => (BitVec.ofNat 32
      (if count then popCount (s.core.kreg ka) else ((List.range 64).find? (maskBit (s.core.kreg ka))).getD 64), 0) := by
  unfold execVfirst
  refine vrWord_clear h d [] k (kMask k) 10 _ (fun _ => (_, 0)) [] (kRange ka) hr ?_ ?_
  · simp
  · simp

theorem execVcomp_clear (d : VDst) (a : VSrc) (k : BitVec 3) (ty : VTy) (hr : s.vrReady d [a] (BitVec.allOnes 64)) :
    execVcomp c d a k ty s = s.vrGoes c d [a] (BitVec.allOnes 64) 10 fun l =>
      (((((List.range 64).filter fun l => (s.core.kreg k).getLsbD l)[l]?).map fun i =>
        (readSrcs s [a]).lane 0 i).getD 0, 0) := by
  unfold execVcomp
  refine vrWord_clear h d [a] k allLanes 10 _ (fun l => (_, 0)) [] [] hr ?_ ?_
  · rw [selected_eq _ (srcLanes_length s a)]
    refine (pad_eq ?_).trans ?_
    · simpa using List.length_filter_le _ (List.range 64)
    · simp [List.getElem?_map, VRead.lane]
  · simp

end

/-- R142: the number of VFIRST, the lowest set bit or 64. -/
theorem firstBit_spec (m : W64) : let i := ((List.range 64).find? (maskBit m)).getD 64
    i ≤ 64 ∧ (∀ l < i, m.getLsbD l = false) ∧ (i < 64 → m.getLsbD i = true) := by
  cases hf : (List.range 64).find? (maskBit m) with
  | none => simpa [maskBit] using List.find?_range_eq_none.mp hf
  | some i =>
    obtain ⟨hbit, hmem, hbelow⟩ := List.find?_range_eq_some.mp hf
    exact ⟨(List.mem_range.mp hmem).le, fun l hl => by simpa [maskBit] using hbelow l hl, fun _ => hbit⟩

theorem klogOp_getLsbD (op : LogOp) (a b : W64) {l : Nat} (h : l < 64) : (klogOp op a b).getLsbD l = true ↔ match op with
    | .and => a.getLsbD l && b.getLsbD l
    | .or => a.getLsbD l || b.getLsbD l
    | .xor => a.getLsbD l != b.getLsbD l
    | .andn => a.getLsbD l && !b.getLsbD l
    | .not => !a.getLsbD l := by
  cases op <;> simp [klogOp, h]

/-- Settles O26: the conditions from the order of each type (`laneOrder_f`, `laneOrder_i`, `laneOrder_u`), the words from
one issue each. -/
theorem maskWordsSelectAndCompare : Obligations.MaskWordsSelectAndCompare := by
  unfold Obligations.MaskWordsSelectAndCompare
  refine ⟨fun p q ty => ⟨?_, ?_⟩, fun c cc op kd ka kb k d a b ty s h => ⟨?_, ?_, ?_, ?_⟩⟩
  · rintro ⟨rfl, hnan⟩
    simp [laneCond_nan hnan]
  · intro hnum
    cases ty with
    | f =>
      obtain ⟨hp, hq⟩ := not_or.mp fun h => hnum ⟨rfl, h⟩
      exact laneOrder_f hp hq
    | i => exact laneOrder_i p q
    | u => exact laneOrder_u p q
  · intro hdv hf
    refine ⟨bitsToW64 fun l => laneCond cc ty ((readSrcs s [a, b]).lane 0 l) ((readSrcs s [a, b]).lane 1 l),
      fun l hl => ?_, ?_⟩
    · rw [bitsToW64_getLsbD _ hl]
    · exact maskWord_clear h kd [a, b] (kRange k) (fun c => if k = 0 then none else some (c.kreg k))
        (fun _ vs => bitsToW64 fun l => laneCond cc ty ((srcOf vs 0).getD l 0) ((srcOf vs 1).getD l 0)) hdv hf
  · exact ⟨_, fun l hl => klogOp_getLsbD op _ _ hl, execKlog_clear h op kd ka kb⟩
  · intro hr
    obtain ⟨hi, hbelow, hbit⟩ := firstBit_spec (s.core.kreg ka)
    exact ⟨_, _, hi, hbelow, hbit, popCount_eq _, execVfirst_clear h false d ka k ty hr, execVfirst_clear h true d ka k ty hr⟩
  · intro hr
    exact execVcomp_clear h d a k ty hr

end Sys2Proof.Machine
end

section
/-! PROOFS. The reductions and scans of the V stream (03 R73, R74; 06 R145, R146). -/

namespace Sys2Proof.Machine

/-! ## The halving tree (03 R73) -/

theorem treeSum_singleton (x : Nat) : (treeSum 0 [x]).1 = x := rfl

/-- One halving adds the two halves term by term. -/
theorem halve_append {u v : List Nat} (h : u.length = v.length) : (halve (u ++ v)).1 =
    List.zipWith (fun p q => (rne32 ((dec32 p).add (dec32 q)).1).1) u v := by
  have hw : (u ++ v).length / 2 = u.length := by rw [List.length_append]; omega
  simp only [halve, hw, List.take_left, List.drop_left, List.map_zipWith]
  rfl

theorem treeSum_append (n : Nat) {u v : List Nat} (h : u.length = v.length) : (treeSum (n + 1) (u ++ v)).1 =
    (treeSum n (List.zipWith (fun p q => (rne32 ((dec32 p).add (dec32 q)).1).1) u v)).1 := by
  rw [← halve_append h]
  rfl

/-! ## The lanes that take part (06 R145) -/

/-- The lanes of source a under mask k, an identity standing for the lanes that it switches off. -/
def State.partLane (s : State) (a : VSrc) (k : BitVec 3) (ident : W32) (l : Nat) : W32 :=
  if (s.core.kreg k).getLsbD l then (readSrcs s [a]).lane 0 l else ident

def State.partLanes (s : State) (a : VSrc) (k : BitVec 3) (ident : W32) : List W32 :=
  (List.range 64).map (s.partLane a k ident)

theorem contrib_eq (s : State) (a : VSrc) (k : BitVec 3) (ident : W32) :
    contrib (s.core.kreg k) ident (srcOf (readSrcs s [a]).vals 0) = s.partLanes a k ident := by
  rw [contrib, zipIdx_eq (srcLanes_length s a), List.map_map]
  rfl

section
variable {c : Ctl} {s : State} (h : s.core.clear c) {d : VDst} {a : VSrc} (hr : s.vrReady d [a] (BitVec.allOnes 64))
include h hr

theorem redWord_clear (k : BitVec 3) (ident : W32) (f : List W32 → W32 × FpFlags) :
    redWord c d a k ident f s = s.vrGoes c d [a] (BitVec.allOnes 64) 14 fun _ => f (s.partLanes a k ident) := by
  unfold redWord
  refine vrWord_clear h d [a] k allLanes 14 _ (fun _ => f (s.partLanes a k ident)) [] [] hr ?_ fun i hi => ?_
  · simp only [contrib_eq, List.map_const', List.length_range]
  · simp only [contrib_eq, List.getD_replicate _ hi]

end

/-- Settles O27: one halving is `treeSum_append`; the word is one issue. -/
theorem vrsumIsTheHalvingTree : Obligations.VrsumIsTheHalvingTree := by
  unfold Obligations.VrsumIsTheHalvingTree
  refine ⟨treeSum_singleton, fun n u v hu hv => treeSum_append n (hu.trans hv.symm), fun c d a k s h hr => ?_⟩
  have hlanes : (s.partLanes a k 0).map (·.toNat) = (List.range 64).map fun l =>
      if (s.core.kreg k).getLsbD l then ((readSrcs s [a]).lane 0 l).toNat else 0 := by
    rw [State.partLanes, List.map_map]
    refine List.map_congr_left fun l _ => ?_
    simp only [State.partLane, Function.comp_apply, apply_ite BitVec.toNat]
    rfl
  rw [exec_vrsum, execVrsum, redWord_clear h hr, hlanes]
  rfl

/-! ## Flags of many operations (03 R78) -/

theorem foldl_or_getLsbD {α : Type} (g : α → FpFlags) (l : List α) (f : FpFlags) (i : Nat) :
    (l.foldl (fun f x => f ||| g x) f).getLsbD i = true ↔ f.getLsbD i = true ∨ ∃ x ∈ l, (g x).getLsbD i = true := by
  induction l generalizing f with
  | nil => simp
  | cons x l ih => simp only [List.foldl_cons, ih, BitVec.getLsbD_or, Bool.or_eq_true, List.exists_mem_cons_iff, or_assoc]

theorem orFlags_getLsbD (l : List FpFlags) (i : Nat) : (orFlags l).getLsbD i = true ↔ ∃ f ∈ l, f.getLsbD i = true := by
  simpa [orFlags] using foldl_or_getLsbD (fun f => f) l 0 i

/-! ## Extremes of a list (06 R145) -/

/-- A fold that picks one of two at each step picks a greatest of the list. -/
theorem foldLanes_max {f : W32 → W32 → W32} {v : W32 → Int} (hf : ∀ x y, f x y = if v x < v y then y else x)
    {l : List W32} (hl : l ≠ []) : foldLanes f l ∈ l ∧ ∀ x ∈ l, v x ≤ v (foldLanes f l) := by
  obtain ⟨x, l, rfl⟩ := List.exists_cons_of_ne_nil hl
  rw [show foldLanes f (x :: l) = l.foldl f x from rfl]
  clear hl
  induction l generalizing x with
  | nil => simp
  | cons y l ih =>
    obtain ⟨hmem, hmax⟩ := ih (f x y)
    obtain ⟨hxy, hall⟩ := List.forall_mem_cons.mp hmax
    have hpick : (f x y = x ∨ f x y = y) ∧ v x ≤ v (f x y) ∧ v y ≤ v (f x y) := by
      rw [hf]
      split
      next hlt => exact ⟨.inr rfl, hlt.le, le_rfl⟩
      next hge => exact ⟨.inl rfl, le_rfl, not_lt.mp hge⟩
    obtain ⟨heq, hx, hy⟩ := hpick
    refine ⟨?_, List.forall_mem_cons.mpr ⟨hx.trans hxy, List.forall_mem_cons.mpr ⟨hy.trans hxy, hall⟩⟩⟩
    rcases List.mem_cons.mp hmem with h | h
    · rw [List.foldl_cons, h]
      rcases heq with he | he <;> simp [he]
    · exact List.mem_cons_of_mem _ (List.mem_cons_of_mem _ h)

theorem foldLanes_add (l : List W32) : foldLanes (· + ·) l = l.sum := by
  cases l with
  | nil => rfl
  | cons x l =>
    have h (l : List W32) (x : W32) : l.foldl (· + ·) x = x + l.sum := by
      induction l generalizing x with
      | nil => simp
      | cons y l ih => rw [List.foldl_cons, ih, List.sum_cons, add_assoc]
    rw [List.sum_cons]
    exact h l x

theorem maxW_i (x y : W32) : maxW .i x y = if x.toInt < y.toInt then y else x := by
  simp [maxW, BitVec.slt]

theorem maxW_u (x y : W32) : maxW .u x y = if (x.toNat : Int) < y.toNat then y else x := by
  simp [maxW, BitVec.ult]

theorem minW_i (x y : W32) : minW .i x y = if -x.toInt < -y.toInt then y else x := by
  simp [minW, BitVec.slt]

theorem minW_u (x y : W32) : minW .u x y = if -(x.toNat : Int) < -y.toNat then y else x := by
  simp [minW, BitVec.ult]

theorem absI_toNat (x : W32) : (absI x).toNat = x.toInt.natAbs := by
  have hx := x.isLt
  by_cases h : 2 * x.toNat < 2 ^ 32
  · have hi : x.toInt = x.toNat := by rw [BitVec.toInt_eq_toNat_cond, if_pos h]
    have hs : x.slt 0 = false := by simp [BitVec.slt, hi]
    rw [absI, hs, hi]
    rfl
  · have hi : x.toInt = x.toNat - 2 ^ 32 := by rw [BitVec.toInt_eq_toNat_cond, if_neg h]; rfl
    have hs : x.slt 0 = true := by simp [BitVec.slt, hi]; omega
    rw [absI, hs, if_pos rfl, hi, BitVec.toNat_sub, show (0 : W32).toNat = 0 from rfl]
    omega

theorem State.partLanes_ne_nil (s : State) (a : VSrc) (k : BitVec 3) (ident : W32) : s.partLanes a k ident ≠ [] := by
  simp [State.partLanes]

/-! ## Scans (03 R74; 06 R146) -/

/-- A step of a scan at distance d, on the values of all lanes. -/
def hop (op : Nat → Nat → Nat × FpFlags) (d : Nat) (v : Nat → Nat) (l : Nat) : Nat :=
  if d ≤ l then (op (v (l - d)) (v l)).1 else v l

/-- The values before each of the six steps of R74, with the step's distance. -/
def hops (op : Nat → Nat → Nat × FpFlags) (v : Nat → Nat) : List (Nat × (Nat → Nat)) :=
  let v1 := hop op 1 v
  let v2 := hop op 2 v1
  let v4 := hop op 4 v2
  let v8 := hop op 8 v4
  let v16 := hop op 16 v8
  [(1, v), (2, v1), (4, v2), (8, v4), (16, v8), (32, v16)]

/-- The values after the six steps of R74. -/
def hopped (op : Nat → Nat → Nat × FpFlags) (v : Nat → Nat) : Nat → Nat :=
  hop op 32 (hop op 16 (hop op 8 (hop op 4 (hop op 2 (hop op 1 v)))))

section
variable (op : Nat → Nat → Nat × FpFlags) (v : Nat → Nat) {d n : Nat}

theorem zipWith_hop : List.zipWith op ((List.range n).map v) (((List.range n).map v).drop d) =
    (List.range (n - d)).map fun j => op (v j) (v (d + j)) := by
  refine List.ext_getElem (by simp) fun j h1 h2 => ?_
  simp

theorem scanStep_values (hd : d ≤ n) : (scanStep op d ((List.range n).map v)).1 = (List.range n).map (hop op d v) := by
  have hlow : (List.range n).take d = List.range d := by rw [List.take_range, Nat.min_eq_left hd]
  have hsplit : List.range n = List.range d ++ (List.range (n - d)).map (d + ·) := by
    rw [← List.range_add, Nat.add_sub_cancel' hd]
  simp only [scanStep, zipWith_hop op v, List.map_map, ← List.map_take, hlow]
  rw [hsplit, List.map_append, List.map_map]
  congr 1
  · refine List.map_congr_left fun l hl => ?_
    rw [hop, if_neg (by simpa using hl)]
  · refine List.map_congr_left fun j _ => ?_
    simp [hop]

theorem scanStep_flags (hd : d ≤ n) (i : Nat) : (scanStep op d ((List.range n).map v)).2.getLsbD i = true ↔
    ∃ l < n, d ≤ l ∧ (op (v (l - d)) (v l)).2.getLsbD i = true := by
  simp only [scanStep, zipWith_hop op v, foldl_or_getLsbD, List.mem_map, List.mem_range, exists_exists_and_eq_and]
  constructor
  · rintro (h0 | ⟨j, hj, h⟩)
    · simp at h0
    · exact ⟨d + j, by omega, by omega, by simpa using h⟩
  · rintro ⟨l, hl, hdl, h⟩
    exact .inr ⟨l - d, by omega, by rwa [Nat.add_sub_cancel' hdl]⟩

theorem scanAll_values : (scanAll op ((List.range 64).map v)).1 = (List.range 64).map (hopped op v) := by
  simp only [scanAll, List.foldl_cons, List.foldl_nil]
  rw [scanStep_values op v (by decide), scanStep_values _ _ (by decide), scanStep_values _ _ (by decide),
    scanStep_values _ _ (by decide), scanStep_values _ _ (by decide), scanStep_values _ _ (by decide)]
  rfl

theorem scanAll_flags (i : Nat) : (scanAll op ((List.range 64).map v)).2.getLsbD i = true ↔
    ∃ p ∈ hops op v, ∃ l < 64, p.1 ≤ l ∧ (op (p.2 (l - p.1)) (p.2 l)).2.getLsbD i = true := by
  simp only [scanAll, List.foldl_cons, List.foldl_nil, BitVec.getLsbD_or, Bool.or_eq_true]
  rw [scanStep_values op v (by decide), scanStep_values _ _ (by decide), scanStep_values _ _ (by decide),
    scanStep_values _ _ (by decide), scanStep_values _ _ (by decide), scanStep_flags _ _ (by decide),
    scanStep_flags _ _ (by decide), scanStep_flags _ _ (by decide), scanStep_flags _ _ (by decide),
    scanStep_flags _ _ (by decide), scanStep_flags _ _ (by decide)]
  simp [hops, or_assoc]

end

/-- What each lane gets before the carry: the scan itself, or that of the lane below (06 R146). -/
def scanned (excl : Bool) (u : Nat → Nat) (l : Nat) : Nat := if excl then (if l = 0 then 0 else u (l - 1)) else u l

theorem scanned_values (excl : Bool) (u : Nat → Nat) : (if excl then 0 :: ((List.range 64).map u).take 63
    else (List.range 64).map u) = (List.range 64).map (scanned excl u) := by
  cases excl with
  | false => rfl
  | true =>
    refine List.ext_getElem (by simp) fun l h1 h2 => ?_
    cases l with
    | zero => simp [scanned]
    | succ l => simp [scanned]

section
variable (ty : VTy) (excl : Bool) (carry : Nat) (v : Nat → Nat)

theorem scanLanes_values : (scanLanes ty excl carry ((List.range 64).map v)).1 =
    (List.range 64).map fun l => (scanAdd ty (scanned excl (hopped (scanAdd ty) v) l) carry).1 := by
  simp only [scanLanes, scanAll_values, scanned_values, List.map_map]
  rfl

theorem scanLanes_out : (scanLanes ty excl carry ((List.range 64).map v)).2.1 =
    (scanAdd ty (hopped (scanAdd ty) v 63) carry).1 := by
  simp [scanLanes, scanAll_values]

theorem scanLanes_flags (i : Nat) : (scanLanes ty excl carry ((List.range 64).map v)).2.2.getLsbD i = true ↔
    (∃ p ∈ hops (scanAdd ty) v, ∃ l < 64, p.1 ≤ l ∧ (scanAdd ty (p.2 (l - p.1)) (p.2 l)).2.getLsbD i = true) ∨
    (∃ l < 64, (scanAdd ty (scanned excl (hopped (scanAdd ty) v) l) carry).2.getLsbD i = true) ∨
    (scanAdd ty (hopped (scanAdd ty) v 63) carry).2.getLsbD i = true := by
  simp only [scanLanes, scanAll_values, scanned_values, BitVec.getLsbD_or, Bool.or_eq_true, scanAll_flags,
    orFlags_getLsbD, or_assoc]
  simp

end

/-! ## Integer scans -/

/-- The sum of two lanes of integers leaves no flag. -/
theorem scanAdd_int {ty : VTy} (h : ty ≠ .f) (x y : Nat) : scanAdd ty x y = ((x + y) % 2 ^ 32, 0) := by
  cases ty with
  | f => exact absurd rfl h
  | i | u => rfl

theorem ofNat_mod (x : Nat) : BitVec.ofNat 32 (x % 2 ^ 32) = BitVec.ofNat 32 x := BitVec.eq_of_toNat_eq (by simp)

/-- If every lane holds the sum of the d lanes up to it, a step at distance d doubles that. -/
theorem hop_window {ty : VTy} (h : ty ≠ .f) {x : List W32} {v : Nat → Nat} {d : Nat}
    (hv : ∀ l < x.length, BitVec.ofNat 32 (v l) = (x.take (l + 1)).sum - (x.take (l + 1 - d)).sum) :
    ∀ l < x.length, BitVec.ofNat 32 (hop (scanAdd ty) d v l) = (x.take (l + 1)).sum - (x.take (l + 1 - 2 * d)).sum := by
  intro l hl
  unfold hop
  split
  next hd =>
    have hlow := hv (l - d) (by omega)
    rw [show l - d + 1 = l + 1 - d by omega, show l + 1 - d - d = l + 1 - 2 * d by omega] at hlow
    rw [scanAdd_int h, ofNat_mod, BitVec.ofNat_add, hlow, hv l hl]
    ring
  next hd => rw [hv l hl, show l + 1 - d = 0 by omega, show l + 1 - 2 * d = 0 by omega]

/-- The six steps together give each lane the sum of the lanes up to it. -/
theorem hopped_sum {ty : VTy} (h : ty ≠ .f) {x : List W32} {v : Nat → Nat} (hx : x.length = 64)
    (hv : ∀ l < 64, BitVec.ofNat 32 (v l) = x.getD l 0) {l : Nat} (hl : l < 64) :
    BitVec.ofNat 32 (hopped (scanAdd ty) v l) = (x.take (l + 1)).sum := by
  have h0 : ∀ l < x.length, BitVec.ofNat 32 (v l) = (x.take (l + 1)).sum - (x.take (l + 1 - 1)).sum := by
    intro l hl
    rw [List.sum_take_succ _ _ hl, hv l (hx ▸ hl)]
    simp [hl]
  have h6 := hop_window h (hop_window h (hop_window h (hop_window h (hop_window h (hop_window h h0)))))
  rw [hopped, h6 l (hx ▸ hl), show l + 1 - 2 * (2 * (2 * (2 * (2 * (2 * 1))))) = 0 by omega]
  simp

/-- What each lane gets of an integer scan: the sum of the lanes up to it, or below it. -/
theorem scanned_sum {ty : VTy} (h : ty ≠ .f) {x : List W32} {v : Nat → Nat} (hx : x.length = 64)
    (hv : ∀ l < 64, BitVec.ofNat 32 (v l) = x.getD l 0) (excl : Bool) {l : Nat} (hl : l < 64) :
    BitVec.ofNat 32 (scanned excl (hopped (scanAdd ty) v) l) = (x.take (if excl then l else l + 1)).sum := by
  cases excl with
  | false => exact hopped_sum h hx hv hl
  | true =>
    cases l with
    | zero => simp [scanned]
    | succ l => exact hopped_sum h hx hv (by omega)

theorem scanLanes_int_flags {ty : VTy} (h : ty ≠ .f) (excl : Bool) (carry : Nat) (v : Nat → Nat) :
    (scanLanes ty excl carry ((List.range 64).map v)).2.2 = 0 := by
  refine BitVec.eq_of_getLsbD_eq fun i _ => ?_
  rw [Bool.eq_iff_iff, scanLanes_flags]
  simp [scanAdd_int h]

/-! ## The words (06 R145, R146) -/

section
variable {c : Ctl} {s : State} (h : s.core.clear c) {d : VDst} {a : VSrc} (hr : s.vrReady d [a] (BitVec.allOnes 64))
include h hr

/-- The lanes of a scan as numbers. -/
def State.partNat (s : State) (a : VSrc) (k : BitVec 3) (l : Nat) : Nat := (s.partLane a k 0 l).toNat

theorem scanWord_clear (xc : BitVec 4) (k : BitVec 3) (ty : VTy) (excl : Bool) :
    let carry := (s.core.xreg xc).toNat % 2 ^ 32
    let u := hopped (scanAdd ty) (s.partNat a k)
    scanWord c d a xc k ty excl s = s.vrGoes c d [a] (BitVec.allOnes 64) 16
      (fun l => (BitVec.ofNat 32 (scanAdd ty (scanned excl u l) carry).1,
        (scanLanes ty excl carry ((List.range 64).map (s.partNat a k))).2.2))
      [.xreg xc.toNat (BitVec.ofNat 64 (scanAdd ty (u 63) carry).1)] := by
  have hlanes : (contrib (s.core.kreg k) 0 (srcOf (readSrcs s [a]).vals 0)).map (·.toNat) =
      (List.range 64).map (s.partNat a k) := by
    rw [contrib_eq, State.partLanes, List.map_map]
    rfl
  simp only [scanWord, hlanes, scanLanes_out]
  refine vrWord_clear h d [a] k allLanes 16 _ (fun l => (_, _)) _ _ hr ?_ fun i hi => ?_
  · simp only [hlanes, scanLanes_values, List.map_map]
    rfl
  · simp only [hlanes, List.getD_replicate _ hi]

omit h hr in
/-- Only the 64 lanes of a result count. -/
theorem State.vrGoes_congr {xs : List VSrc} {m : W64} {n : Nat} {f g : Nat → W32 × FpFlags} {more : List LAct}
    (hfg : ∀ l < 64, f l = g l) : s.vrGoes c d xs m n f more = s.vrGoes c d xs m n g more := by
  have hvals : (List.range 64).map (fun i => (f i).1) = (List.range 64).map fun i => (g i).1 :=
    List.map_congr_left fun i hi => by rw [hfg i (List.mem_range.mp hi)]
  have hflags : ((List.range 64).filter fun i => m.getLsbD i).map (fun i => (f i).2) =
      ((List.range 64).filter fun i => m.getLsbD i).map fun i => (g i).2 :=
    List.map_congr_left fun i hi => by rw [hfg i (List.mem_range.mp (List.mem_filter.mp hi).1)]
  simp only [State.vrGoes, hvals, hflags]

theorem intScan_clear (xc : BitVec 4) (k : BitVec 3) {ty : VTy} (hty : ty ≠ .f) (excl : Bool) :
    let carry : W32 := (s.core.xreg xc).setWidth 32
    let upTo (l : Nat) : W32 := ((s.partLanes a k 0).take l).sum
    scanWord c d a xc k ty excl s = s.vrGoes c d [a] (BitVec.allOnes 64) 16
      (fun l => (upTo (if excl then l else l + 1) + carry, 0)) [.xreg xc.toNat ((upTo 64 + carry).setWidth 64)] := by
  intro carry upTo
  have hcarry : BitVec.ofNat 32 ((s.core.xreg xc).toNat % 2 ^ 32) = carry := by
    rw [ofNat_mod]
    rfl
  have hx : (s.partLanes a k 0).length = 64 := by simp [State.partLanes]
  have hv : ∀ l < 64, BitVec.ofNat 32 (s.partNat a k l) = (s.partLanes a k 0).getD l 0 := by
    intro l hl
    simp [State.partNat, State.partLanes, hl]
  have hadd (y : Nat) : BitVec.ofNat 32 (scanAdd ty y ((s.core.xreg xc).toNat % 2 ^ 32)).1 = BitVec.ofNat 32 y + carry := by
    rw [scanAdd_int hty, ofNat_mod, BitVec.ofNat_add, hcarry]
  have hout : BitVec.ofNat 64 (scanAdd ty (hopped (scanAdd ty) (s.partNat a k) 63) ((s.core.xreg xc).toNat % 2 ^ 32)).1 =
      (upTo 64 + carry).setWidth 64 := by
    rw [show upTo 64 = _ from (hopped_sum hty hx hv (show 63 < 64 by decide)).symm, ← hadd]
    refine BitVec.eq_of_toNat_eq ?_
    simp [scanAdd_int hty]
  rw [scanWord_clear h hr, hout, scanLanes_int_flags hty]
  refine State.vrGoes_congr fun l hl => ?_
  rw [hadd, scanned_sum hty hx hv excl hl]

end

section
variable {c : Ctl} {s : State} (h : s.core.clear c) {d : VDst} {a : VSrc} (hr : s.vrReady d [a] (BitVec.allOnes 64))
include h hr

theorem execVrsum_int (k : BitVec 3) {ty : VTy} (hty : ty ≠ .f) : exec (.vrsum c d a k ty) s =
    s.vrGoes c d [a] (BitVec.allOnes 64) 14 fun _ => ((s.partLanes a k 0).sum, 0) := by
  rw [exec_vrsum, execVrsum, redWord_clear h hr]
  cases ty with
  | f => exact absurd rfl hty
  | i | u => simp only [foldLanes_add]

theorem execVrmax_clear (k : BitVec 3) (ty : VTy) : exec (.vrmax c d a k ty) s =
    s.vrGoes c d [a] (BitVec.allOnes 64) 14 fun _ => (foldLanes (maxW ty) (s.partLanes a k (maxIdent ty)), 0) := by
  rw [exec_vrmax, execVrmax, redWord_clear h hr]

theorem execVrmin_clear (k : BitVec 3) (ty : VTy) : exec (.vrmin c d a k ty) s =
    s.vrGoes c d [a] (BitVec.allOnes 64) 14 fun _ => (foldLanes (minW ty) (s.partLanes a k (minIdent ty)), 0) := by
  rw [exec_vrmin, execVrmin, redWord_clear h hr]

theorem execVramax_i_clear (k : BitVec 3) : exec (.vramax c d a k .i) s =
    s.vrGoes c d [a] (BitVec.allOnes 64) 14 fun _ => (foldLanes (maxW .u) ((s.partLanes a k 0).map absI), 0) := by
  rw [exec_vramax, execVramax, redWord_clear h hr]

theorem execVramax_f_clear (k : BitVec 3) : exec (.vramax c d a k .f) s =
    s.vrGoes c d [a] (BitVec.allOnes 64) 14 fun _ =>
      (foldLanes (maxW .f) ((s.partLanes a k 0).map fun x => BitVec.ofNat 32 (fabs x.toNat)), 0) := by
  rw [exec_vramax, execVramax, redWord_clear h hr]

theorem floatScan_clear (xc : BitVec 4) (k : BitVec 3) (excl : Bool) :
    let carry := (s.core.xreg xc).toNat % 2 ^ 32
    let u := hopped fadd (s.partNat a k)
    ∃ g : FpFlags, (∀ i < 5, g.getLsbD i = true ↔
      (∃ p ∈ hops fadd (s.partNat a k), ∃ l < 64, p.1 ≤ l ∧ (fadd (p.2 (l - p.1)) (p.2 l)).2.getLsbD i = true) ∨
      (∃ l < 64, (fadd (scanned excl u l) carry).2.getLsbD i = true) ∨ (fadd (u 63) carry).2.getLsbD i = true) ∧
    scanWord c d a xc k .f excl s = s.vrGoes c d [a] (BitVec.allOnes 64) 16
      (fun l => (BitVec.ofNat 32 (fadd (scanned excl u l) carry).1, g)) [.xreg xc.toNat (BitVec.ofNat 64 (fadd (u 63) carry).1)] :=
  ⟨_, fun i _ => scanLanes_flags .f excl _ _ i, scanWord_clear h hr xc k .f excl⟩

end

/-- Settles O28: the reductions are folds over the lanes that take part (`redWord_clear`, `foldLanes_max`), the scans the six
steps of R74 (`scanWord_clear`, `intScan_clear`). -/
theorem reductionsAndScans : Obligations.ReductionsAndScans := by
  unfold Obligations.ReductionsAndScans
  intro c d a xc k ty s h hr lane all gives carryF step v1 v2 v4 v8 v16 u steps below flagged scans
  have hall (ident : W32) : all ident = s.partLanes a k ident := rfl
  clear_value all
  obtain rfl : all = s.partLanes a k := funext hall
  refine ⟨fun hty => execVrsum_int h hr k hty, ⟨_, execVrmax_clear h hr k .i, ?_⟩, ⟨_, execVrmax_clear h hr k .u, ?_⟩,
    ⟨_, execVrmin_clear h hr k .i, ?_⟩, ⟨_, execVrmin_clear h hr k .u, ?_⟩, ⟨_, execVramax_i_clear h hr k, ?_⟩,
    execVrmax_clear h hr k .f, execVrmin_clear h hr k .f, execVramax_f_clear h hr k, fun hty => ?_, ?_, ?_⟩
  · exact foldLanes_max maxW_i (s.partLanes_ne_nil a k _)
  · obtain ⟨hmem, hmax⟩ := foldLanes_max maxW_u (s.partLanes_ne_nil a k (maxIdent .u))
    exact ⟨hmem, fun x hx => Int.ofNat_le.mp (hmax x hx)⟩
  · obtain ⟨hmem, hmax⟩ := foldLanes_max minW_i (s.partLanes_ne_nil a k (minIdent .i))
    exact ⟨hmem, fun x hx => neg_le_neg_iff.mp (hmax x hx)⟩
  · obtain ⟨hmem, hmax⟩ := foldLanes_max minW_u (s.partLanes_ne_nil a k (minIdent .u))
    exact ⟨hmem, fun x hx => Int.ofNat_le.mp (neg_le_neg_iff.mp (hmax x hx))⟩
  · obtain ⟨hmem, hmax⟩ := foldLanes_max maxW_u (l := (s.partLanes a k 0).map absI) (by simp [s.partLanes_ne_nil])
    refine ⟨?_, fun x hx => ?_⟩
    · obtain ⟨x, hx, he⟩ := List.mem_map.mp hmem
      exact ⟨x, hx, he ▸ absI_toNat x⟩
    · rw [← absI_toNat]
      exact Int.ofNat_le.mp (hmax _ (List.mem_map_of_mem hx))
  · exact ⟨(exec_vscan ..).trans (intScan_clear h hr xc k hty false), (exec_vscanx ..).trans (intScan_clear h hr xc k hty true)⟩
  · exact floatScan_clear h hr xc k false
  · exact floatScan_clear h hr xc k true

end Sys2Proof.Machine
end

section
/-! PROOFS. The values of floating codes, and the grid on which a format rounds (03 R56, R57, R69). -/

namespace Sys2Proof.Machine

/-! ## Magnitudes and their binary exponents -/

theorem bitLen_spec {m : Nat} (h : m ≠ 0) : 2 ^ (bitLen m - 1) ≤ m ∧ m < 2 ^ bitLen m ∧ 1 ≤ bitLen m := by
  simp only [bitLen, h, if_false, Nat.add_sub_cancel]
  exact ⟨Nat.log2_self_le h, Nat.lt_log2_self, by omega⟩

theorem two_zpow_pos (e : Int) : (0 : ℚ) < 2 ^ e := zpow_pos two_pos e

theorem two_zpow_add_nat (e : Int) (n : Nat) : (2 : ℚ) ^ (e + n) = 2 ^ n * 2 ^ e := by
  rw [zpow_add₀ two_ne_zero, zpow_natCast, mul_comm]

/-- A magnitude lies in the binade of its highest bit. -/
theorem mag_binade {m : Nat} (h : m ≠ 0) (e : Int) :
    (2 : ℚ) ^ (e + bitLen m - 1) ≤ m * 2 ^ e ∧ (m : ℚ) * 2 ^ e < 2 ^ (e + bitLen m - 1 + 1) := by
  obtain ⟨hlo, hhi, h1⟩ := bitLen_spec h
  have e1 : e + bitLen m - 1 = e + (bitLen m - 1 : Nat) := by omega
  have e2 : e + bitLen m - 1 + 1 = e + (bitLen m : Nat) := by omega
  rw [e2, e1, two_zpow_add_nat, two_zpow_add_nat]
  exact ⟨mul_le_mul_of_nonneg_right (by exact_mod_cast hlo) (two_zpow_pos e).le,
    mul_lt_mul_of_pos_right (by exact_mod_cast hhi) (two_zpow_pos e)⟩

theorem binade_unique {y : ℚ} {a b : Int} (ha : 2 ^ a ≤ y) (ha' : y < 2 ^ (a + 1)) (hb : 2 ^ b ≤ y) (hb' : y < 2 ^ (b + 1)) :
    a = b := by
  have h1 : a < b + 1 := (zpow_lt_zpow_iff_right₀ one_lt_two).mp (ha.trans_lt hb')
  have h2 : b < a + 1 := (zpow_lt_zpow_iff_right₀ one_lt_two).mp (hb.trans_lt ha')
  omega

theorem magLe_iff (m : Nat) (e : Int) (n : Nat) (f : Int) :
    magLe m e n f = true ↔ (m : ℚ) * 2 ^ e ≤ (n : ℚ) * 2 ^ f := by
  rw [← not_lt, ← magLt_iff]
  simp [magLt]

/-- A magnitude split at 2^q: a multiple of 2^q and a rest below it. -/
theorem splitAt_spec (m : Nat) (e q : Int) : ((splitAt m e q).1 : ℚ) * 2 ^ q + (splitAt m e q).2 * 2 ^ e = m * 2 ^ e ∧
    ((splitAt m e q).2 : ℚ) * 2 ^ e < 2 ^ q := by
  unfold splitAt
  split
  next h => simp [shiftTo_real m h, two_zpow_pos q]
  next h =>
    have hq : (2 : ℚ) ^ q = 2 ^ (q - e).toNat * 2 ^ e := by
      rw [← two_zpow_add_nat]
      congr 1
      omega
    dsimp only
    rw [hq, Nat.shiftRight_eq_div_pow]
    constructor
    · rw [← mul_assoc, ← add_mul]
      congr 1
      exact_mod_cast Nat.div_add_mod' m _
    · refine mul_lt_mul_of_pos_right ?_ (two_zpow_pos e)
      exact_mod_cast Nat.mod_lt _ (by positivity)

/-- The multiple of 2^q at or below a magnitude. -/
theorem splitAt_floor {m : Nat} {e q : Int} {k : Nat} (h : (k : ℚ) * 2 ^ q ≤ m * 2 ^ e) (h' : (m : ℚ) * 2 ^ e < (k + 1) * 2 ^ q) :
    (splitAt m e q).1 = k := by
  obtain ⟨hsum, hrest⟩ := splitAt_spec m e q
  have hnn : (0 : ℚ) ≤ (splitAt m e q).2 * 2 ^ e := by positivity
  have hpos := two_zpow_pos q
  have h1 : ((splitAt m e q).1 : ℚ) < k + 1 := lt_of_mul_lt_mul_right (by linarith) hpos.le
  have h2 : (k : ℚ) < (splitAt m e q).1 + 1 := lt_of_mul_lt_mul_right (by linarith) hpos.le
  have h1' : (splitAt m e q).1 < k + 1 := by exact_mod_cast h1
  have h2' : k < (splitAt m e q).1 + 1 := by exact_mod_cast h2
  omega

theorem splitAt_exact {m : Nat} {e q : Int} {k : Nat} (h : (k : ℚ) * 2 ^ q = m * 2 ^ e) : (splitAt m e q).1 = k :=
  splitAt_floor h.le (by rw [← h]; exact mul_lt_mul_of_pos_right (lt_add_one _) (two_zpow_pos q))

theorem splitAt_rest {m : Nat} {e q : Int} {k : Nat} (h : (splitAt m e q).1 = k) :
    ((splitAt m e q).2 : ℚ) * 2 ^ e = m * 2 ^ e - k * 2 ^ q := by
  rw [← (splitAt_spec m e q).1, h]
  ring

/-! ## Codes and their magnitudes (R56, R57) -/

/-- The magnitude that a code without its sign bit stands for; the formula also goes on beyond the format's codes. -/
def FFmt.mag (f : FFmt) (c : Nat) : ℚ :=
  if c < 2 ^ f.frac then 2 ^ (1 - (f.bias : Int)) * ((c : ℚ) / 2 ^ f.frac)
  else 2 ^ (((c / 2 ^ f.frac : Nat) : Int) - f.bias) * (1 + ((c % 2 ^ f.frac : Nat) : ℚ) / 2 ^ f.frac)

/-- The exponent of the grid of the (j + 1)st exponent code. -/
def FFmt.grid (f : FFmt) (j : Nat) : Int := j + 1 - (f.bias : Int) - f.frac

theorem FFmt.two_zpow_grid (f : FFmt) (j : Nat) : (2 : ℚ) ^ f.grid j = 2 ^ ((j : Int) + 1 - f.bias) / 2 ^ f.frac := by
  rw [FFmt.grid, zpow_sub₀ two_ne_zero, zpow_natCast]

/-- The k-th multiple of the grid j has the code k + j·2^w, where it is no smaller than a normal of that grid. -/
theorem FFmt.mag_grid (f : FFmt) {k j : Nat} (hk : k ≤ 2 * 2 ^ f.frac) (hj : j = 0 ∨ 2 ^ f.frac ≤ k) :
    f.mag (k + j * 2 ^ f.frac) = k * 2 ^ f.grid j := by
  have hw : 0 < 2 ^ f.frac := by positivity
  have hwq : (2 : ℚ) ^ f.frac ≠ 0 := by positivity
  rw [f.two_zpow_grid, FFmt.mag]
  generalize hW : 2 ^ f.frac = W at hk hj hw
  have hWq : (2 : ℚ) ^ f.frac = W := by exact_mod_cast hW
  rw [hWq] at hwq ⊢
  rcases Nat.lt_or_ge k W with hlow | hlow
  · obtain rfl := hj.resolve_right (by omega)
    simp only [Nat.zero_mul, Nat.add_zero, hlow, if_true]
    push_cast
    ring
  · have hc : ¬(k + j * W < W) := by nlinarith
    rw [if_neg hc]
    rcases Nat.lt_or_ge k (2 * W) with hlt | hge
    · obtain ⟨r, rfl⟩ := Nat.exists_eq_add_of_le hlow
      have hr : r < W := by omega
      have hdiv : (W + r + j * W) / W = j + 1 := by
        rw [show W + r + j * W = r + (j + 1) * W by ring, Nat.add_mul_div_right _ _ hw, Nat.div_eq_of_lt hr, Nat.zero_add]
      have hmod : (W + r + j * W) % W = r := by
        rw [show W + r + j * W = r + (j + 1) * W by ring, Nat.add_mul_mod_self_right, Nat.mod_eq_of_lt hr]
      rw [hdiv, hmod]
      push_cast
      field_simp
    · obtain rfl : k = 2 * W := by omega
      have hdiv : (2 * W + j * W) / W = j + 2 := by
        rw [show 2 * W + j * W = (j + 2) * W by ring, Nat.mul_div_cancel _ hw]
      have hmod : (2 * W + j * W) % W = 0 := by
        rw [show 2 * W + j * W = (j + 2) * W by ring, Nat.mul_mod_left]
      rw [hdiv, hmod, show ((j + 2 : Nat) : Int) - f.bias = (j : Int) + 1 - f.bias + (1 : Nat) by push_cast; ring,
        two_zpow_add_nat]
      push_cast
      field_simp
      ring

/-- Every code is a multiple of its grid. -/
theorem FFmt.code_split (f : FFmt) (c : Nat) : ∃ k j : Nat, c = k + j * 2 ^ f.frac ∧ k < 2 * 2 ^ f.frac ∧ (j = 0 ∨ 2 ^ f.frac ≤ k) := by
  have hw : 0 < 2 ^ f.frac := by positivity
  generalize 2 ^ f.frac = W at hw
  rcases Nat.lt_or_ge c W with h | h
  · exact ⟨c, 0, by omega, by omega, .inl rfl⟩
  · have hdm := Nat.div_add_mod' c W
    have hmod := Nat.mod_lt c hw
    have hdiv : 1 ≤ c / W := (Nat.one_le_div_iff hw).mpr h
    obtain ⟨j, hj⟩ := Nat.exists_eq_add_of_le hdiv
    refine ⟨W + c % W, j, ?_, by omega, .inr (by omega)⟩
    rw [hj] at hdm
    linarith

/-- The next code stands one step of the grid above. -/
theorem FFmt.mag_succ (f : FFmt) {k j : Nat} (hk : k < 2 * 2 ^ f.frac) (hj : j = 0 ∨ 2 ^ f.frac ≤ k) :
    f.mag (k + j * 2 ^ f.frac + 1) = (k + 1) * 2 ^ f.grid j := by
  have h := f.mag_grid (k := k + 1) (j := j) hk (hj.imp_right fun h => h.trans (Nat.le_succ k))
  rw [show k + j * 2 ^ f.frac + 1 = k + 1 + j * 2 ^ f.frac by ring, h]
  push_cast
  rfl

theorem FFmt.mag_strictMono (f : FFmt) : StrictMono f.mag := by
  refine strictMono_nat_of_lt_succ fun c => ?_
  obtain ⟨k, j, rfl, hk, hj⟩ := f.code_split c
  rw [f.mag_succ hk hj, f.mag_grid hk.le hj]
  exact mul_lt_mul_of_pos_right (lt_add_one _) (two_zpow_pos _)

theorem FFmt.mag_zero (f : FFmt) : f.mag 0 = 0 := by
  simp [FFmt.mag]

theorem FFmt.mag_normal (f : FFmt) : f.mag (2 ^ f.frac) = 2 ^ (1 - (f.bias : Int)) := by
  have hw : 0 < 2 ^ f.frac := by positivity
  simp [FFmt.mag, Nat.div_self hw]

/-- Between two neighbouring codes lies no third. -/
theorem FFmt.code_unique (f : FFmt) {y : ℚ} {c d : Nat} (hc : f.mag c ≤ y) (hc' : y < f.mag (c + 1)) (hd : f.mag d ≤ y)
    (hd' : y < f.mag (d + 1)) : c = d := by
  have h1 := f.mag_strictMono.lt_iff_lt.mp (hc.trans_lt hd')
  have h2 := f.mag_strictMono.lt_iff_lt.mp (hd.trans_lt hc')
  omega

/-! ## The grid on which a value is rounded (R69) -/

/-- The grid that rounds a magnitude holds the code below it. -/
theorem FFmt.quantum_code (f : FFmt) {m : Nat} (hm : m ≠ 0) (e : Int) : ∃ k j : Nat, f.quantum m e = f.grid j ∧
    k < 2 * 2 ^ f.frac ∧ (j = 0 ∨ 2 ^ f.frac ≤ k) ∧ (k : ℚ) * 2 ^ f.grid j ≤ m * 2 ^ e ∧
    (m : ℚ) * 2 ^ e < (k + 1) * 2 ^ f.grid j := by
  obtain ⟨hlo, hhi⟩ := mag_binade hm e
  set E := e + bitLen m - 1 with hE
  obtain ⟨j, hj⟩ : ∃ j : Nat, max E (1 - (f.bias : Int)) = j + 1 - f.bias := ⟨(max E (1 - (f.bias : Int)) + f.bias - 1).toNat, by omega⟩
  have hgrid : f.quantum m e = f.grid j := by
    rw [FFmt.quantum, FFmt.grid, ← hE, hj]
  obtain ⟨hsum, hrest⟩ := splitAt_spec m e (f.grid j)
  have hnn : (0 : ℚ) ≤ (splitAt m e (f.grid j)).2 * 2 ^ e := by positivity
  have hpos := two_zpow_pos (f.grid j)
  have hW : (2 : ℚ) ^ f.frac * 2 ^ f.grid j = 2 ^ (max E (1 - (f.bias : Int))) := by
    rw [f.two_zpow_grid, ← hj]
    field_simp
  refine ⟨(splitAt m e (f.grid j)).1, j, hgrid, ?_, ?_, by linarith, by linarith⟩
  · have htop : (m : ℚ) * 2 ^ e < 2 * 2 ^ f.frac * 2 ^ f.grid j := by
      rw [mul_assoc, hW, ← zpow_one_add₀ two_ne_zero]
      exact hhi.trans_le (zpow_le_zpow_right₀ one_le_two (by omega))
    have : ((splitAt m e (f.grid j)).1 : ℚ) < 2 * 2 ^ f.frac := lt_of_mul_lt_mul_right (by linarith) hpos.le
    exact_mod_cast this
  · by_cases hsub : E ≤ 1 - (f.bias : Int)
    · rw [max_eq_right hsub] at hj
      exact .inl (by omega)
    · right
      have hmax : max E (1 - (f.bias : Int)) = E := by omega
      rw [hmax] at hW
      have : ((2 : ℚ) ^ f.frac) < (splitAt m e (f.grid j)).1 + 1 := lt_of_mul_lt_mul_right (by linarith) hpos.le
      exact Nat.lt_succ_iff.mp (by exact_mod_cast this)

/-! ## Codes with a sign (R56, R57) -/

/-- The sign bit of a format's code. -/
def FFmt.signBit (f : FFmt) (s : Bool) : Nat := if s then 2 ^ (f.width - 1) else 0

theorem FFmt.width_eq (f : FFmt) : f.width - 1 = f.frac + f.ebits := by cases f <;> rfl

theorem FFmt.frac_pos (f : FFmt) : 1 ≤ f.frac := by cases f <;> decide

theorem FFmt.maxCode_lt (f : FFmt) : f.maxCode < 2 ^ (f.width - 1) := by cases f <;> decide

/-- The exponent and the fraction of a code that stands for an infinity or a NaN (R56). -/
def FFmt.special (f : FFmt) (e fr : Nat) : Prop := e = 2 ^ f.ebits - 1 ∧ (f.hasInf = true ∨ f = .e4m3 ∧ fr = 7)

theorem FFmt.special_iff (f : FFmt) {c : Nat} (h : c < 2 ^ (f.width - 1)) :
    f.special (c / 2 ^ f.frac) (c % 2 ^ f.frac) ↔ f.maxCode < c := by
  have hdm := Nat.div_add_mod c (2 ^ f.frac)
  have hmod := Nat.mod_lt c (show 0 < 2 ^ f.frac by positivity)
  cases f <;> simp only [FFmt.special, FFmt.width, FFmt.ebits, FFmt.frac, FFmt.hasInf, FFmt.maxCode] at * <;> simp <;> omega

section
variable (f : FFmt)

theorem FFmt.signBit_testBit (s : Bool) {c : Nat} (h : c < 2 ^ (f.width - 1)) :
    (f.signBit s + c).testBit (f.width - 1) = s := by
  cases s with
  | false => simpa [FFmt.signBit] using Nat.testBit_lt_two_pow h
  | true => simp [FFmt.signBit, Nat.testBit_two_pow_add_eq, Nat.testBit_lt_two_pow h]

theorem FFmt.signBit_mod (s : Bool) (c : Nat) : (f.signBit s + c) % 2 ^ f.frac = c % 2 ^ f.frac := by
  cases s with
  | false => simp [FFmt.signBit]
  | true => simp [FFmt.signBit, f.width_eq, pow_add]

theorem FFmt.signBit_exponent (s : Bool) {c : Nat} (h : c < 2 ^ (f.width - 1)) :
    ((f.signBit s + c) >>> f.frac) % 2 ^ f.ebits = c / 2 ^ f.frac := by
  have hdiv : c / 2 ^ f.frac < 2 ^ f.ebits := by
    rw [f.width_eq, pow_add] at h
    exact Nat.div_lt_of_lt_mul h
  rw [Nat.shiftRight_eq_div_pow]
  cases s with
  | false => simp [FFmt.signBit, Nat.mod_eq_of_lt hdiv]
  | true =>
    simp only [FFmt.signBit, if_true, f.width_eq, pow_add]
    rw [Nat.add_comm, Nat.add_mul_div_left _ _ (by positivity), Nat.add_mod_right, Nat.mod_eq_of_lt hdiv]

/-- Every code is a sign bit over a magnitude code. -/
theorem FFmt.code_sign {c : Nat} (h : c < 2 ^ f.width) : ∃ r < 2 ^ (f.width - 1),
    c = f.signBit (decide (2 ^ (f.width - 1) ≤ c)) + r := by
  have hw : 2 ^ f.width = 2 * 2 ^ (f.width - 1) := by
    rw [← pow_succ', Nat.sub_add_cancel (by cases f <;> decide)]
  by_cases hs : 2 ^ (f.width - 1) ≤ c
  · exact ⟨c - 2 ^ (f.width - 1), by omega, by simp [FFmt.signBit, hs]⟩
  · exact ⟨c, by omega, by simp [FFmt.signBit, hs]⟩

theorem decF_special (s : Bool) {c : Nat} (h : c < 2 ^ (f.width - 1)) (hc : f.maxCode < c) :
    decF f (f.signBit s + c) = if f.hasInf = true ∧ c % 2 ^ f.frac = 0 then .inf s else .nan := by
  obtain ⟨he, hsp⟩ := (f.special_iff h).mpr hc
  have hpos : 2 ^ f.ebits - 1 ≠ 0 := by cases f <;> decide
  simp only [decF, f.signBit_testBit s h, f.signBit_mod, f.signBit_exponent s h, he, hpos, if_false]
  rcases hsp with hinf | ⟨rfl, hfr⟩
  · simp [hinf]
  · simp [hfr, FFmt.hasInf]

/-- A finite code stands for its magnitude under its sign (R57). -/
theorem decF_finite (s : Bool) {c : Nat} (hc : c ≤ f.maxCode) :
    ∃ m q, decF f (f.signBit s + c) = .fin s m q ∧ (m : ℚ) * 2 ^ q = f.mag c := by
  have h : c < 2 ^ (f.width - 1) := hc.trans_lt f.maxCode_lt
  have hsp := (f.special_iff h).not.mpr (not_lt.mpr hc)
  rw [FFmt.special, not_and_or, not_or] at hsp
  have hw : 0 < 2 ^ f.frac := by positivity
  simp only [decF, f.signBit_testBit s h, f.signBit_mod, f.signBit_exponent s h]
  by_cases he : c / 2 ^ f.frac = 0
  · have hlt : c < 2 ^ f.frac := (Nat.div_eq_zero_iff_lt hw).mp he
    refine ⟨c, 1 - f.bias - f.frac, by simp [he, Nat.mod_eq_of_lt hlt], ?_⟩
    have hg := f.mag_grid (k := c) (j := 0) (by omega) (.inl rfl)
    rw [Nat.zero_mul, Nat.add_zero] at hg
    rw [hg, FFmt.grid]
    norm_num
  · obtain ⟨j, hj⟩ := Nat.exists_eq_succ_of_ne_zero he
    refine ⟨2 ^ f.frac + c % 2 ^ f.frac, (c / 2 ^ f.frac : Nat) - (f.bias : Int) - f.frac, ?_, ?_⟩
    · rw [if_neg he, if_neg, if_neg]
      · simp only [Bool.and_eq_true, decide_eq_true_eq]
        tauto
      · simp only [Bool.and_eq_true, decide_eq_true_eq]
        tauto
    · have hmod := Nat.mod_lt c hw
      have hg := f.mag_grid (k := 2 ^ f.frac + c % 2 ^ f.frac) (j := j) (by omega) (.inr (by omega))
      have hdm := Nat.div_add_mod' c (2 ^ f.frac)
      rw [hj, Nat.succ_mul] at hdm
      rw [show 2 ^ f.frac + c % 2 ^ f.frac + j * 2 ^ f.frac = c by omega] at hg
      rw [hg, FFmt.grid, hj]
      push_cast
      ring_nf

theorem FFmt.above_iff (m : Nat) (e : Int) : f.above m e = true ↔ f.mag f.maxCode < m * 2 ^ e := by
  obtain ⟨mm, q, hd, hv⟩ := decF_finite f false (c := f.maxCode) le_rfl
  rw [FFmt.signBit, if_neg (by decide), Nat.zero_add] at hd
  simp only [FFmt.above, hd, magLt_iff, hv]

theorem FFmt.belowNormal_iff {m : Nat} (hm : m ≠ 0) (e : Int) :
    f.belowNormal m e = true ↔ (m : ℚ) * 2 ^ e < f.mag (2 ^ f.frac) := by
  simp [FFmt.belowNormal, hm, magLt_iff, f.mag_normal]

/-- A magnitude on the format's grid gets its code. -/
theorem FFmt.encode_eq (s : Bool) {k c : Nat} {q : Int} (h : (k : ℚ) * 2 ^ q = f.mag c) :
    f.encode s k q = f.signBit s + c := by
  unfold FFmt.encode FFmt.signBit
  by_cases hk : k = 0
  · subst hk
    rw [Nat.cast_zero, zero_mul, ← f.mag_zero] at h
    obtain rfl := f.mag_strictMono.injective h
    simp
  · rw [if_neg hk]
    obtain ⟨hlo, hhi⟩ := mag_binade hk q
    rw [h] at hlo hhi
    have hlow : q + bitLen k - 1 < 1 - (f.bias : Int) ↔ c < 2 ^ f.frac := by
      rw [← f.mag_strictMono.lt_iff_lt, f.mag_normal]
      constructor
      · exact fun hlt => hhi.trans_le (zpow_le_zpow_right₀ one_le_two (by omega))
      · exact fun hlt => (zpow_lt_zpow_iff_right₀ one_lt_two).mp (hlo.trans_lt hlt)
    dsimp only
    split
    next hsub =>
      have hc := hlow.mp hsub
      have hg := f.mag_grid (k := c) (j := 0) (by omega) (.inl rfl)
      rw [Nat.zero_mul, Nat.add_zero, FFmt.grid, ← h, Nat.cast_zero, zero_add] at hg
      rw [splitAt_exact hg.symm]
    next hnorm =>
      have hc : ¬c < 2 ^ f.frac := hlow.not.mp hnorm
      obtain ⟨n, j, rfl, hn, hj⟩ := f.code_split c
      have hn' : 2 ^ f.frac ≤ n := by
        rcases hj with rfl | hj
        · omega
        · exact hj
      have hg := f.mag_grid hn.le hj
      have hW : (2 : ℚ) ^ f.frac * 2 ^ f.grid j = 2 ^ ((j : Int) + 1 - f.bias) := by
        rw [f.two_zpow_grid]
        field_simp
      have hE : q + bitLen k - 1 = (j : Int) + 1 - f.bias := by
        refine binade_unique hlo hhi ?_ ?_
        · rw [hg, ← hW]
          exact mul_le_mul_of_nonneg_right (by exact_mod_cast hn') (two_zpow_pos _).le
        · rw [hg, zpow_add_one₀ two_ne_zero, ← hW, mul_right_comm]
          exact mul_lt_mul_of_pos_right (by rw [mul_comm]; exact_mod_cast hn) (two_zpow_pos _)
      have hsplit : (splitAt k q (q + bitLen k - 1 - f.frac)).1 = n := by
        rw [hE]
        exact splitAt_exact (hg.symm.trans h.symm)
      rw [hsplit, hE, show ((j : Int) + 1 - f.bias + f.bias).toNat = j + 1 by omega, Nat.succ_mul]
      omega

end

end Sys2Proof.Machine
end

section
/-! PROOFS. What a conversion that rounds makes of a value: neighbours, overflow, the draw (03 R66, R69, R71). -/

namespace Sys2Proof.Machine

/-! ## Rounding to a grid (R66, R69, R71) -/

/-- The mode takes the upper of two neighbours a gap apart, for a magnitude y above the lower one (R66, R71). -/
def roundsUp (rm : Rm) (s : Bool) (u : Nat) (y lo gap : ℚ) (odd : Bool) : Prop :=
  match rm with
  | .rne => gap < 2 * (y - lo) ∨ gap = 2 * (y - lo) ∧ odd = true
  | .rtz => False
  | .rdn => s = true
  | .rup => s = false
  | .sr => ∀ (r : Nat) (q : Int), (r : ℚ) * 2 ^ q = y - lo →
      ((u / 256 + 1 : Nat) : ℚ) ≤ 2 ^ 24 * FFmt.mag .fp32 (cvtF (.fin false r q) .fp32 .rne false 0).1 / gap

theorem roundTo_zero (rm : Rm) (s : Bool) (e q : Int) (u : Nat) : roundTo rm s 0 e q u = (0, false) := by
  have : splitAt 0 e q = (0, 0) := by
    unfold splitAt
    split <;> simp [shiftTo]
  simp [roundTo, this]

theorem splitAt_rest_eq_zero_iff {m : Nat} {e q : Int} {k : Nat} (h : (splitAt m e q).1 = k) :
    (splitAt m e q).2 = 0 ↔ (k : ℚ) * 2 ^ q = m * 2 ^ e := by
  have hr := splitAt_rest h
  constructor
  · intro h0
    rw [h0] at hr
    simp at hr
    linarith
  · intro he
    rw [he, sub_self] at hr
    have := mul_eq_zero.mp hr
    exact_mod_cast this.resolve_right (two_zpow_pos e).ne'

theorem roundTo_exact {m : Nat} {e q : Int} {k : Nat} (h : (k : ℚ) * 2 ^ q = m * 2 ^ e) (rm : Rm) (s : Bool) (u : Nat) :
    roundTo rm s m e q u = (k, false) := by
  have hk := splitAt_exact h
  simp [roundTo, hk, (splitAt_rest_eq_zero_iff hk).mpr h]

section
variable {m : Nat} {e q : Int} {k : Nat} (hlo : (k : ℚ) * 2 ^ q < m * 2 ^ e) (hhi : (m : ℚ) * 2 ^ e < (k + 1) * 2 ^ q)
include hlo hhi

theorem splitAt_between : (splitAt m e q).1 = k ∧ (splitAt m e q).2 ≠ 0 := by
  have hk := splitAt_floor hlo.le hhi
  exact ⟨hk, fun h => hlo.ne ((splitAt_rest_eq_zero_iff hk).mp h)⟩

/-- Round to nearest, ties to even, between two multiples of a grid. -/
theorem rneTo_between (s : Bool) (u : Nat) :
    (roundsUp .rne s u (m * 2 ^ e) (k * 2 ^ q) (2 ^ q) (k % 2 = 1) → rneTo m e q = k + 1) ∧
    (¬roundsUp .rne s u (m * 2 ^ e) (k * 2 ^ q) (2 ^ q) (k % 2 = 1) → rneTo m e q = k) := by
  obtain ⟨hk, hr⟩ := splitAt_between hlo hhi
  have hlt : e < q := by
    by_contra hge
    exact hr (by simp [splitAt, not_lt.mp hge])
  have hq : (2 : ℚ) ^ q = (2 ^ (q - e).toNat : Nat) * 2 ^ e := by
    rw [Nat.cast_pow, Nat.cast_ofNat, ← two_zpow_add_nat]
    congr 1
    omega
  have hrest := splitAt_rest hk
  have h1 : 2 ^ (q - e).toNat < 2 * (splitAt m e q).2 ↔ (2 : ℚ) ^ q < 2 * (m * 2 ^ e - k * 2 ^ q) := by
    rw [← hrest, hq, ← mul_assoc, mul_lt_mul_iff_left₀ (two_zpow_pos e)]
    exact_mod_cast Iff.rfl
  have h2 : 2 * (splitAt m e q).2 = 2 ^ (q - e).toNat ↔ (2 : ℚ) ^ q = 2 * (m * 2 ^ e - k * 2 ^ q) := by
    rw [← hrest, hq, ← mul_assoc, mul_left_inj' (two_zpow_pos e).ne', eq_comm]
    exact_mod_cast Iff.rfl
  simp only [roundsUp, decide_eq_true_eq, ← h1, ← h2]
  exact ⟨fun h => by simp [rneTo, hr, hk, h], fun h => by simp [rneTo, hr, hk, h]⟩

end

/-- Between two multiples of the grid 2^q the rounding takes the one that `roundsUp` says. -/
def RoundsBetween (rm : Rm) (s : Bool) (m : Nat) (e q : Int) (u : Nat) : Prop :=
  ∀ k : Nat, (k : ℚ) * 2 ^ q < m * 2 ^ e → (m : ℚ) * 2 ^ e < (k + 1) * 2 ^ q →
    (roundsUp rm s u (m * 2 ^ e) (k * 2 ^ q) (2 ^ q) (k % 2 = 1) → roundTo rm s m e q u = (k + 1, true)) ∧
    (¬roundsUp rm s u (m * 2 ^ e) (k * 2 ^ q) (2 ^ q) (k % 2 = 1) → roundTo rm s m e q u = (k, true))

theorem roundsBetween_of_ne_sr {rm : Rm} (h : rm ≠ .sr) (s : Bool) (m : Nat) (e q : Int) (u : Nat) :
    RoundsBetween rm s m e q u := by
  intro k hlo hhi
  obtain ⟨hk, hr⟩ := splitAt_between hlo hhi
  cases rm with
  | rne =>
    obtain ⟨hup, hdown⟩ := rneTo_between hlo hhi s u
    exact ⟨fun h => by simp [roundTo, hr, hup h], fun h => by simp [roundTo, hr, hdown h]⟩
  | rtz => simp [roundsUp, roundTo, hk, hr]
  | rdn => cases s <;> simp [roundsUp, roundTo, hk, hr]
  | rup => cases s <;> simp [roundsUp, roundTo, hk, hr]
  | sr => exact absurd rfl h

/-! ## Conversion of a finite value (R69) -/

section
variable (f : FFmt) (rm : Rm) (s sat : Bool) (u m : Nat) (e : Int)

/-- A value that rounds to a finite code. -/
theorem cvtF_of_roundTo {k c : Nat} {b : Bool} (hr : roundTo rm s m e (f.quantum m e) u = (k, b))
    (hsr : rm = .sr → (m : ℚ) * 2 ^ e ≤ f.mag f.maxCode) (hk : (k : ℚ) * 2 ^ f.quantum m e = f.mag c) (hc : c ≤ f.maxCode) :
    cvtF (.fin s m e) f rm sat u = (f.signBit s + c, if b then (if (m : ℚ) * 2 ^ e < f.mag (2 ^ f.frac) then 3 else 1) else 0) := by
  have hin : (decide (rm = .sr) && f.above m e) = false := by
    rw [Bool.and_eq_false_imp]
    intro h
    rw [← Bool.not_eq_true, f.above_iff, not_lt]
    exact hsr (of_decide_eq_true h)
  have habove : f.above k (f.quantum m e) = false := by
    rw [← Bool.not_eq_true, f.above_iff, hk, not_lt]
    exact f.mag_strictMono.monotone hc
  simp only [cvtF, hin, hr, habove, f.encode_eq s hk]
  cases b with
  | false => rfl
  | true =>
    have hm : m ≠ 0 := by
      rintro rfl
      rw [roundTo_zero] at hr
      cases hr
    by_cases hb : (m : ℚ) * 2 ^ e < f.mag (2 ^ f.frac)
    · have := (f.belowNormal_iff hm e).mpr hb
      simp [this, hb]
      rfl
    · have := (f.belowNormal_iff hm e).not.mpr hb
      simp [this, hb]
      rfl

/-- The formats and modes for which a value above the largest finite becomes the largest finite (R69). -/
def FFmt.clamps (f : FFmt) (rm : Rm) (sat s : Bool) : Prop :=
  f.hasInf = false ∨ sat = true ∨ rm = .rtz ∨ rm = .sr ∨ rm = .rup ∧ s = true ∨ rm = .rdn ∧ s = false

/-- A value that rounds beyond the largest finite code. -/
theorem cvtF_overflow (hover : (rm = .sr ∧ f.mag f.maxCode < m * 2 ^ e) ∨ rm ≠ .sr ∧
      f.mag f.maxCode < (roundTo rm s m e (f.quantum m e) u).1 * 2 ^ f.quantum m e) :
    (f.clamps rm sat s → cvtF (.fin s m e) f rm sat u = (f.signBit s + f.maxCode, 5)) ∧
    (¬f.clamps rm sat s → cvtF (.fin s m e) f rm sat u = (f.infCode s, 5)) := by
  rcases hover with ⟨rfl, h⟩ | ⟨hrm, h⟩
  · simp [cvtF, (f.above_iff m e).mpr h, FFmt.clamps, FFmt.maxSigned, FFmt.signBit]
    rfl
  · simp only [cvtF, hrm, decide_false, Bool.false_and, (f.above_iff _ _).mpr h, if_true, FFmt.clamps, FFmt.maxSigned]
    have hflags : fOVERFLOW ||| fINEXACT = 5 := rfl
    cases rm <;> cases s <;> simp_all [FFmt.signBit]

end

/-! ## Codes beside a value -/

/-- A magnitude lies at a code or between two neighbouring codes. -/
theorem FFmt.exists_code (f : FFmt) (m : Nat) (e : Int) : ∃ c, f.mag c ≤ m * 2 ^ e ∧ (m : ℚ) * 2 ^ e < f.mag (c + 1) := by
  by_cases hm : m = 0
  · have h01 := f.mag_strictMono (Nat.zero_lt_one)
    rw [f.mag_zero] at h01
    exact ⟨0, by simp [hm, f.mag_zero], by simpa [hm] using h01⟩
  · obtain ⟨k, j, -, hk, hj, hlo, hhi⟩ := f.quantum_code hm e
    rw [← f.mag_grid hk.le hj] at hlo
    rw [← f.mag_succ hk hj] at hhi
    exact ⟨_, hlo, hhi⟩

/-- The grid that rounds a magnitude is that of the code at or below it. -/
theorem FFmt.quantum_of_code (f : FFmt) {m c : Nat} {e : Int} (hm : m ≠ 0) (hlo : f.mag c ≤ m * 2 ^ e)
    (hhi : (m : ℚ) * 2 ^ e < f.mag (c + 1)) : ∃ k : Nat, f.mag c = k * 2 ^ f.quantum m e ∧
      f.mag (c + 1) = (k + 1) * 2 ^ f.quantum m e ∧ k % 2 = c % 2 := by
  obtain ⟨k, j, hq, hk, hj, hlo', hhi'⟩ := f.quantum_code hm e
  rw [← f.mag_grid hk.le hj] at hlo'
  rw [← f.mag_succ hk hj] at hhi'
  obtain rfl := f.code_unique hlo hhi hlo' hhi'
  rw [hq]
  refine ⟨k, f.mag_grid hk.le hj, f.mag_succ hk hj, ?_⟩
  obtain ⟨w, hw⟩ := Nat.exists_eq_add_of_le f.frac_pos
  rw [hw, pow_add, pow_one, ← Nat.mul_assoc, Nat.mul_comm j 2, Nat.mul_assoc, Nat.add_mul_mod_self_left]

theorem roundTo_floor_or_succ (rm : Rm) (s : Bool) (m : Nat) (e q : Int) (u : Nat) :
    (roundTo rm s m e q u).1 = (splitAt m e q).1 ∨ (roundTo rm s m e q u).1 = (splitAt m e q).1 + 1 := by
  unfold roundTo
  dsimp only
  split
  next h => exact .inl rfl
  next h =>
    cases rm with
    | rne =>
      simp only [rneTo, h, if_false]
      split <;> simp
    | rtz => exact .inl rfl
    | rdn => cases s <;> simp
    | rup => cases s <;> simp
    | sr => dsimp only; split <;> simp

/-- What a rounding gives on a format's grid is the code below or the one above. -/
theorem FFmt.roundTo_code (f : FFmt) {m c : Nat} {e : Int} (hm : m ≠ 0) (hlo : f.mag c ≤ m * 2 ^ e)
    (hhi : (m : ℚ) * 2 ^ e < f.mag (c + 1)) (rm : Rm) (s : Bool) (u : Nat) :
    ((roundTo rm s m e (f.quantum m e) u).1 : ℚ) * 2 ^ f.quantum m e = f.mag c ∨
    ((roundTo rm s m e (f.quantum m e) u).1 : ℚ) * 2 ^ f.quantum m e = f.mag (c + 1) := by
  obtain ⟨k, hk, hk', -⟩ := f.quantum_of_code hm hlo hhi
  have hfloor := splitAt_floor (hk ▸ hlo) (hk' ▸ hhi)
  rw [hk, hk']
  rcases roundTo_floor_or_succ rm s m e (f.quantum m e) u with h | h
  · exact .inl (by rw [h, hfloor])
  · exact .inr (by rw [h, hfloor]; push_cast; rfl)

theorem FFmt.normal_le_maxCode (f : FFmt) : 2 ^ f.frac ≤ f.maxCode := by cases f <;> decide

/-- The gap below the largest finite magnitude is the one above it. -/
theorem FFmt.top_gap (f : FFmt) : f.mag f.maxCode - f.mag (f.maxCode - 1) = f.mag (f.maxCode + 1) - f.mag f.maxCode := by
  obtain ⟨k, j, htop, hk, hk'⟩ : ∃ k j, f.maxCode = k + j * 2 ^ f.frac + 1 ∧ 2 ^ f.frac ≤ k ∧ k + 1 < 2 * 2 ^ f.frac := by
    cases f with
    | fp32 => exact ⟨2 * 2 ^ 23 - 2, 253, by decide⟩
    | fp16 => exact ⟨2 * 2 ^ 10 - 2, 29, by decide⟩
    | bf16 => exact ⟨2 * 2 ^ 7 - 2, 253, by decide⟩
    | e5m2 => exact ⟨6, 29, by decide⟩
    | e4m3 => exact ⟨13, 14, by decide⟩
    | e2m1 => exact ⟨2, 2, by decide⟩
  rw [htop, Nat.add_sub_cancel, show k + j * 2 ^ f.frac + 1 = k + 1 + j * 2 ^ f.frac by ring,
    f.mag_succ hk' (.inr (by omega)), f.mag_grid (by omega) (.inr (by omega)), f.mag_grid (by omega) (.inr hk)]
  push_cast
  ring

section
variable (f : FFmt) (rm : Rm) (s sat : Bool) (u m : Nat) (e : Int)

/-- A value that the format holds keeps it (R69). -/
theorem cvtF_exact {c : Nat} (hc : c ≤ f.maxCode) (hy : (m : ℚ) * 2 ^ e = f.mag c) :
    cvtF (.fin s m e) f rm sat u = (f.signBit s + c, 0) := by
  have hle : (m : ℚ) * 2 ^ e ≤ f.mag f.maxCode := hy ▸ f.mag_strictMono.monotone hc
  by_cases hm : m = 0
  · have hc0 : c = 0 := f.mag_strictMono.injective (by rw [← hy, hm, f.mag_zero]; simp)
    refine cvtF_of_roundTo (k := 0) (b := false) f rm s sat u m e ?_ (fun _ => hle) ?_ hc
    · rw [hm, roundTo_zero]
    · rw [hc0, f.mag_zero]
      simp
  · have hnext := f.mag_strictMono (Nat.lt_succ_self c)
    obtain ⟨k, hk, -⟩ := f.quantum_of_code hm hy.ge (hy ▸ hnext)
    exact cvtF_of_roundTo (b := false) f rm s sat u m e (roundTo_exact (by rw [← hk, hy]) rm s u) (fun _ => hle) hk.symm hc

/-- Between two neighbouring codes the rounding takes the one that `roundsUp` says. -/
theorem FFmt.roundTo_between {c : Nat} (hlo : f.mag c < m * 2 ^ e) (hhi : (m : ℚ) * 2 ^ e < f.mag (c + 1))
    (hr : RoundsBetween rm s m e (f.quantum m e) u) :
    let up := roundsUp rm s u (m * 2 ^ e) (f.mag c) (f.mag (c + 1) - f.mag c) (c % 2 = 1)
    (up → ∃ k : Nat, roundTo rm s m e (f.quantum m e) u = (k, true) ∧ (k : ℚ) * 2 ^ f.quantum m e = f.mag (c + 1)) ∧
    (¬up → ∃ k : Nat, roundTo rm s m e (f.quantum m e) u = (k, true) ∧ (k : ℚ) * 2 ^ f.quantum m e = f.mag c) := by
  have hm : m ≠ 0 := by
    rintro rfl
    rw [Nat.cast_zero, zero_mul, ← f.mag_zero] at hlo
    exact Nat.not_lt_zero _ (f.mag_strictMono.lt_iff_lt.mp hlo)
  obtain ⟨k, hk, hk', hpar⟩ := f.quantum_of_code hm hlo.le hhi
  obtain ⟨hup, hdown⟩ := hr k (hk ▸ hlo) (hk' ▸ hhi)
  have hgap : f.mag (c + 1) - f.mag c = 2 ^ f.quantum m e := by
    rw [hk, hk']
    ring
  rw [← hk, hpar] at hup hdown
  rw [hgap]
  exact ⟨fun h => ⟨_, hup h, by rw [hk']; push_cast; rfl⟩, fun h => ⟨_, hdown h, hk.symm⟩⟩

/-- A value between two neighbouring codes becomes one of them, by the mode (R66, R69). -/
theorem cvtF_between {c : Nat} (hc : c < f.maxCode) (hlo : f.mag c < m * 2 ^ e) (hhi : (m : ℚ) * 2 ^ e < f.mag (c + 1))
    (hr : RoundsBetween rm s m e (f.quantum m e) u) :
    let up := roundsUp rm s u (m * 2 ^ e) (f.mag c) (f.mag (c + 1) - f.mag c) (c % 2 = 1)
    let fl : FpFlags := if (m : ℚ) * 2 ^ e < f.mag (2 ^ f.frac) then 3 else 1
    (up → cvtF (.fin s m e) f rm sat u = (f.signBit s + (c + 1), fl)) ∧
    (¬up → cvtF (.fin s m e) f rm sat u = (f.signBit s + c, fl)) := by
  have hle : (m : ℚ) * 2 ^ e ≤ f.mag f.maxCode := hhi.le.trans (f.mag_strictMono.monotone hc)
  obtain ⟨hup, hdown⟩ := f.roundTo_between rm s u m e hlo hhi hr
  refine ⟨fun h => ?_, fun h => ?_⟩
  · obtain ⟨k, hk, hv⟩ := hup h
    exact cvtF_of_roundTo f rm s sat u m e hk (fun _ => hle) hv hc
  · obtain ⟨k, hk, hv⟩ := hdown h
    exact cvtF_of_roundTo f rm s sat u m e hk (fun _ => hle) hv hc.le

/-- A value above the largest finite one (R69). -/
theorem cvtF_beyond (hy : f.mag f.maxCode < m * 2 ^ e) :
    let gap := f.mag f.maxCode - f.mag (f.maxCode - 1)
    let back := (m : ℚ) * 2 ^ e < f.mag f.maxCode + gap ∧ rm ≠ .sr ∧
      ¬roundsUp rm s u (m * 2 ^ e) (f.mag f.maxCode) gap (f.maxCode % 2 = 1)
    (back → cvtF (.fin s m e) f rm sat u = (f.signBit s + f.maxCode, 1)) ∧
    (¬back → f.clamps rm sat s → cvtF (.fin s m e) f rm sat u = (f.signBit s + f.maxCode, 5)) ∧
    (¬back → ¬f.clamps rm sat s → cvtF (.fin s m e) f rm sat u = (f.infCode s, 5)) := by
  have hm : m ≠ 0 := by
    rintro rfl
    rw [Nat.cast_zero, zero_mul, ← f.mag_zero] at hy
    exact Nat.not_lt_zero _ (f.mag_strictMono.lt_iff_lt.mp hy)
  rw [f.top_gap]
  intro gap back
  have hgap : f.mag f.maxCode + gap = f.mag (f.maxCode + 1) := add_sub_cancel _ _
  have hover (hback : ¬back) : (rm = .sr ∧ f.mag f.maxCode < m * 2 ^ e) ∨ rm ≠ .sr ∧
      f.mag f.maxCode < (roundTo rm s m e (f.quantum m e) u).1 * 2 ^ f.quantum m e := by
    by_cases hsr : rm = .sr
    · exact .inl ⟨hsr, hy⟩
    · refine .inr ⟨hsr, ?_⟩
      by_cases hin : (m : ℚ) * 2 ^ e < f.mag (f.maxCode + 1)
      · have hup := of_not_not fun hup => hback ⟨hgap ▸ hin, hsr, hup⟩
        obtain ⟨k, hk, hv⟩ := (f.roundTo_between rm s u m e hy hin (roundsBetween_of_ne_sr hsr s m e _ u)).1 hup
        rw [hk, hv]
        exact f.mag_strictMono (Nat.lt_succ_self _)
      · obtain ⟨c, hlo, hhi⟩ := f.exists_code m e
        have hc : f.maxCode < c := Nat.succ_lt_succ_iff.mp (f.mag_strictMono.lt_iff_lt.mp ((not_lt.mp hin).trans_lt hhi))
        have hcode := f.mag_strictMono hc
        rcases f.roundTo_code hm hlo hhi rm s u with h | h
        · rwa [h]
        · rw [h]
          exact hcode.trans (f.mag_strictMono (Nat.lt_succ_self c))
  refine ⟨fun ⟨hin, hsr, hdown⟩ => ?_, fun hback => (cvtF_overflow f rm s sat u m e (hover hback)).1,
    fun hback => (cvtF_overflow f rm s sat u m e (hover hback)).2⟩
  obtain ⟨k, hk, hv⟩ := (f.roundTo_between rm s u m e hy (hgap ▸ hin) (roundsBetween_of_ne_sr hsr s m e _ u)).2 hdown
  have hnormal : ¬(m : ℚ) * 2 ^ e < f.mag (2 ^ f.frac) :=
    not_lt.mpr ((f.mag_strictMono.monotone f.normal_le_maxCode).trans hy.le)
  rw [cvtF_of_roundTo f rm s sat u m e hk (fun h => absurd h hsr) hv le_rfl, if_pos rfl, if_neg hnormal]

end

/-! ## RNE32 and the draw of stochastic rounding (R7, R71) -/

/-- A magnitude as a number. -/
def magVal (p : Nat × Int) : ℚ := p.1 * 2 ^ p.2

theorem roundTo_rne (s : Bool) (m : Nat) (e q : Int) (u : Nat) : (roundTo .rne s m e q u).1 = rneTo m e q := by
  unfold roundTo
  dsimp only
  split
  next h => simp [rneTo, h]
  next h => rfl

theorem rne32Mag_eq {m : Nat} (hm : m ≠ 0) (e : Int) : magVal (rne32Mag m e) =
    (roundTo .rne false m e (FFmt.quantum .fp32 m e) 0).1 * 2 ^ FFmt.quantum .fp32 m e := by
  simp [rne32Mag, hm, magVal, roundTo_rne]

theorem ne_zero_of_mag_pos {m : Nat} {e : Int} (h : (0 : ℚ) < m * 2 ^ e) : m ≠ 0 := by
  rintro rfl
  simp at h

/-- RNE32 of a magnitude that is no larger than the largest finite FP32. -/
theorem rne32Mag_code {m : Nat} {e : Int} (hy : (m : ℚ) * 2 ^ e ≤ FFmt.mag .fp32 (FFmt.maxCode .fp32)) :
    magVal (rne32Mag m e) = FFmt.mag .fp32 (cvtF (.fin false m e) .fp32 .rne false 0).1 := by
  by_cases hm : m = 0
  · subst hm
    rw [cvtF_exact .fp32 .rne false false 0 0 e (c := 0) (by decide) (by simp [FFmt.mag_zero])]
    simp [rne32Mag, magVal, FFmt.signBit, FFmt.mag_zero]
  · obtain ⟨c, hlo, hhi⟩ := FFmt.exists_code .fp32 m e
    have hsign (c : Nat) : FFmt.signBit .fp32 false + c = c := Nat.zero_add c
    have hcode {k c : Nat} {b : Bool} (hr : roundTo .rne false m e (FFmt.quantum .fp32 m e) 0 = (k, b))
        (hk : (k : ℚ) * 2 ^ FFmt.quantum .fp32 m e = FFmt.mag .fp32 c) (hc : c ≤ FFmt.maxCode .fp32) :
        magVal (rne32Mag m e) = FFmt.mag .fp32 (cvtF (.fin false m e) .fp32 .rne false 0).1 := by
      rw [cvtF_of_roundTo .fp32 .rne false false 0 m e hr (fun _ => hy) hk hc, rne32Mag_eq hm, hr, hk, hsign]
    have hmax : c ≤ FFmt.maxCode .fp32 := (FFmt.mag_strictMono .fp32).le_iff_le.mp (hlo.trans hy)
    rcases FFmt.roundTo_code .fp32 hm hlo hhi .rne false 0 with h | h
    · exact hcode rfl h hmax
    · rcases hmax.lt_or_eq with hlt | rfl
      · exact hcode rfl h hlt
      · obtain ⟨k, hk, hk', -⟩ := FFmt.quantum_of_code .fp32 hm hlo hhi
        rw [roundTo_exact (k := k) (hk ▸ le_antisymm hlo hy)] at h
        rw [← hk] at h
        exact absurd h (FFmt.mag_strictMono .fp32 (Nat.lt_succ_self _)).ne

/-- A magnitude of at most 24 bits in the range of the normals is its own RNE32. -/
theorem rne32Mag_short {m k : Nat} {e E : Int} (hk : k < 2 ^ 24) (hv : (m : ℚ) * 2 ^ e = k * 2 ^ E)
    (hy : (2 : ℚ) ^ (-126 : Int) ≤ m * 2 ^ e) : magVal (rne32Mag m e) = m * 2 ^ e := by
  have hpos := (two_zpow_pos (-126)).trans_le hy
  have hm : m ≠ 0 := ne_zero_of_mag_pos hpos
  have hk0 : k ≠ 0 := ne_zero_of_mag_pos (hv ▸ hpos)
  obtain ⟨h1, h2⟩ := mag_binade hm e
  obtain ⟨h3, h4⟩ := mag_binade hk0 E
  rw [← hv] at h3 h4
  have hbin := binade_unique h1 h2 h3 h4
  have hlow : -126 ≤ e + bitLen m - 1 := by
    have := (zpow_lt_zpow_iff_right₀ one_lt_two).mp (hy.trans_lt h2)
    omega
  have hlen : bitLen k ≤ 24 := by
    obtain ⟨hk1, -, hk2⟩ := bitLen_spec hk0
    have := (Nat.pow_lt_pow_iff_right (show 1 < 2 by decide)).mp (hk1.trans_lt hk)
    omega
  have hq : FFmt.quantum .fp32 m e ≤ E := by
    simp only [FFmt.quantum, FFmt.bias, FFmt.frac]
    omega
  rw [rne32Mag_eq hm, roundTo_exact ((shiftTo_real k hq).trans hv.symm), shiftTo_real k hq, hv]

/-- RNE32 of a magnitude below the normals stays there or becomes the least normal. -/
theorem rne32Mag_small {m : Nat} {e : Int} (hy : (m : ℚ) * 2 ^ e < 2 ^ (-126 : Int)) :
    magVal (rne32Mag m e) ≤ 2 ^ (-126 : Int) := by
  by_cases hm : m = 0
  · simp [rne32Mag, hm, magVal]
  · have hn : FFmt.mag .fp32 (2 ^ 23) = 2 ^ (-126 : Int) := FFmt.mag_normal .fp32
    obtain ⟨c, hlo, hhi⟩ := FFmt.exists_code .fp32 m e
    have hc : c + 1 ≤ 2 ^ 23 := (FFmt.mag_strictMono .fp32).lt_iff_lt.mp (hlo.trans_lt (hn ▸ hy))
    have hmono := (FFmt.mag_strictMono .fp32).monotone
    rw [rne32Mag_eq hm, ← hn]
    rcases FFmt.roundTo_code .fp32 hm hlo hhi .rne false 0 with h | h
    · rw [h]
      exact hmono (Nat.le_of_succ_le hc)
    · rw [h]
      exact hmono hc

/-- On a power of two that FP32 holds, RNE32 has no effect. -/
theorem rne32Mag_pow {q : Int} (hq : -149 ≤ q) : ∃ n : Nat, rne32Mag 1 q = (2 ^ n, q - n) := by
  have hQ : FFmt.quantum .fp32 1 q ≤ q := by
    simp only [FFmt.quantum, FFmt.bias, FFmt.frac, show bitLen 1 = 1 from rfl]
    omega
  refine ⟨(q - FFmt.quantum .fp32 1 q).toNat, ?_⟩
  have hsplit : splitAt 1 q (FFmt.quantum .fp32 1 q) = (2 ^ (q - FFmt.quantum .fp32 1 q).toNat, 0) := by
    simp [splitAt, hQ, shiftTo, Nat.one_shiftLeft]
  simp only [rne32Mag, one_ne_zero, if_false, rneTo, hsplit, if_true, Prod.mk.injEq, true_and]
  omega

/-- Dividing by a power of two is exact. -/
theorem divMag_pow (m : Nat) (e : Int) (n : Nat) (q : Int) :
    divMag m e (2 ^ n) (q - n) = (m * 2 ^ 98, e - q - 98) := by
  have hlen : bitLen (2 ^ n) = n + 1 := by simp [bitLen]
  have hprod : m <<< (n + 1 + 96) = m * 2 ^ 97 * 2 ^ n := by
    rw [Nat.shiftLeft_eq, Nat.mul_assoc, ← pow_add]
    congr 2
    omega
  simp only [divMag, hlen, hprod, Nat.mul_mod_left, Nat.mul_div_cancel _ (Nat.two_pow_pos n), if_true, Prod.mk.injEq]
  exact ⟨by ring, by push_cast; ring⟩

theorem le_splitAt_iff (n m : Nat) (e : Int) : n ≤ (splitAt m e 0).1 ↔ (n : ℚ) ≤ m * 2 ^ e := by
  obtain ⟨hsum, hrest⟩ := splitAt_spec m e 0
  rw [zpow_zero, mul_one] at hsum
  rw [zpow_zero] at hrest
  have hnn : (0 : ℚ) ≤ (splitAt m e 0).2 * 2 ^ e := by positivity
  constructor
  · intro h
    have : (n : ℚ) ≤ (splitAt m e 0).1 := by exact_mod_cast h
    linarith
  · intro h
    have : (n : ℚ) < (splitAt m e 0).1 + 1 := by linarith
    exact Nat.lt_succ_iff.mp (by exact_mod_cast this)

/-- The draw of R71 on a gap that is a power of two: the distance, rounded to FP32, in parts of the gap. -/
theorem srUp_iff {m : Nat} {e q : Int} (hq : -149 ≤ q) (u : Nat)
    (hy : (m : ℚ) * 2 ^ e ≤ FFmt.mag .fp32 (FFmt.maxCode .fp32)) : srUp m e 1 q u = true ↔
      ((u / 256 + 1 : Nat) : ℚ) ≤ 2 ^ 24 * FFmt.mag .fp32 (cvtF (.fin false m e) .fp32 .rne false 0).1 / 2 ^ q := by
  obtain ⟨n, hn⟩ := rne32Mag_pow hq
  have hcode := rne32Mag_code hy
  obtain ⟨k, j, hc, hk, hj⟩ := FFmt.code_split .fp32 (cvtF (.fin false m e) .fp32 .rne false 0).1
  rw [← hcode]
  rw [hc, FFmt.mag_grid .fp32 hk.le hj] at hcode
  obtain ⟨⟨am, ae⟩, ha⟩ : ∃ p, rne32Mag m e = p := ⟨_, rfl⟩
  rw [ha] at hcode ⊢
  have hquot : ((am * 2 ^ 98 : Nat) : ℚ) * 2 ^ (ae - q - 98) = magVal (am, ae) / 2 ^ q := by
    rw [magVal, zpow_sub₀ two_ne_zero, zpow_sub₀ two_ne_zero]
    push_cast
    field_simp
  have hdraw : srUp m e 1 q u = true ↔
      ((u / 256 + 1 : Nat) : ℚ) ≤ 2 ^ 24 * magVal (rne32Mag (am * 2 ^ 98) (ae - q - 98)) := by
    have hup : srUp m e 1 q u =
        decide (u >>> 8 < (splitAt (rne32Mag (am * 2 ^ 98) (ae - q - 98)).1 ((rne32Mag (am * 2 ^ 98) (ae - q - 98)).2 + 24) 0).1) := by
      simp [srUp, ha, hn, divMag_pow]
    rw [hup, decide_eq_true_eq, Nat.lt_iff_add_one_le, Nat.shiftRight_eq_div_pow, le_splitAt_iff, magVal,
      zpow_add₀ two_ne_zero, ← mul_assoc, mul_comm _ ((2 : ℚ) ^ (24 : Int))]
    rfl
  rw [hdraw, mul_div_assoc, ← hquot]
  rcases lt_or_ge (((am * 2 ^ 98 : Nat) : ℚ) * 2 ^ (ae - q - 98)) (2 ^ (-126 : Int)) with hlow | hhigh
  · have hone : (1 : ℚ) ≤ ((u / 256 + 1 : Nat) : ℚ) := by exact_mod_cast Nat.succ_pos _
    have hlt {x : ℚ} (hx : x ≤ 2 ^ (-126 : Int)) : 2 ^ 24 * x < 1 :=
      (mul_le_mul_of_nonneg_left hx (by norm_num)).trans_lt (by norm_num)
    exact iff_of_false (not_le.mpr ((hlt (rne32Mag_small hlow)).trans_le hone)) (not_le.mpr ((hlt hlow.le).trans_le hone))
  · rw [rne32Mag_short hk (hquot.trans ?_) hhigh]
    · exact FFmt.grid .fp32 j - q
    · rw [hcode, zpow_sub₀ two_ne_zero, mul_div_assoc]

/-- RNE32 depends on the value alone. -/
theorem cvtF_rne_congr {m n : Nat} {e f : Int} (h : (m : ℚ) * 2 ^ e = n * 2 ^ f)
    (hy : (m : ℚ) * 2 ^ e ≤ FFmt.mag .fp32 (FFmt.maxCode .fp32)) :
    cvtF (.fin false m e) .fp32 .rne false 0 = cvtF (.fin false n f) .fp32 .rne false 0 := by
  obtain ⟨c, hlo, hhi⟩ := FFmt.exists_code .fp32 m e
  have hc : c ≤ FFmt.maxCode .fp32 := (FFmt.mag_strictMono .fp32).le_iff_le.mp (hlo.trans hy)
  rcases hlo.eq_or_lt with heq | hlt
  · rw [cvtF_exact .fp32 _ _ _ _ _ _ hc heq.symm, cvtF_exact .fp32 _ _ _ _ _ _ hc (h.symm.trans heq.symm)]
  · have hc : c < FFmt.maxCode .fp32 := (FFmt.mag_strictMono .fp32).lt_iff_lt.mp (hlt.trans_le hy)
    have hr (m : Nat) (e : Int) := roundsBetween_of_ne_sr (show Rm.rne ≠ .sr by decide) false m e (FFmt.quantum .fp32 m e) 0
    obtain ⟨hup, hdown⟩ := cvtF_between .fp32 .rne false false 0 m e hc hlt hhi (hr m e)
    obtain ⟨hup', hdown'⟩ := cvtF_between .fp32 .rne false false 0 n f hc (h ▸ hlt) (h ▸ hhi) (hr n f)
    rw [← h] at hup' hdown'
    by_cases hu : roundsUp .rne false 0 (m * 2 ^ e) (FFmt.mag .fp32 c) (FFmt.mag .fp32 (c + 1) - FFmt.mag .fp32 c) (c % 2 = 1)
    · rw [hup hu, hup' hu]
    · rw [hdown hu, hdown' hu]

/-- Rounding on a grid whose gap FP32 holds takes the multiple that `roundsUp` says, by any mode. -/
theorem roundsBetween {q : Int} (hq : -149 ≤ q) (hq' : q ≤ 127) (rm : Rm) (s : Bool) (m : Nat) (e : Int) (u : Nat) :
    RoundsBetween rm s m e q u := by
  by_cases hsr : rm = .sr
  · subst hsr
    intro k hlo hhi
    obtain ⟨hk, hr⟩ := splitAt_between hlo hhi
    have hrest := splitAt_rest hk
    have hmax : (2 : ℚ) ^ (127 : Int) ≤ FFmt.mag .fp32 (FFmt.maxCode .fp32) := by
      norm_num [FFmt.mag, FFmt.maxCode, FFmt.frac, FFmt.bias]
    have hdist : ((splitAt m e q).2 : ℚ) * 2 ^ e ≤ FFmt.mag .fp32 (FFmt.maxCode .fp32) := by
      refine le_trans ?_ hmax
      have : ((splitAt m e q).2 : ℚ) * 2 ^ e < 2 ^ q := by linarith
      exact this.le.trans (zpow_le_zpow_right₀ one_le_two hq')
    have hup : roundsUp .sr s u (m * 2 ^ e) (k * 2 ^ q) (2 ^ q) (k % 2 = 1) ↔ srUp (splitAt m e q).2 e 1 q u = true := by
      rw [srUp_iff hq u hdist]
      exact ⟨fun h => h _ _ hrest, fun h r p hp => by rw [← cvtF_rne_congr (hrest.trans hp.symm) hdist]; exact h⟩
    rw [hup]
    exact ⟨fun h => by simp [roundTo, hr, hk, h], fun h => by simp [roundTo, hr, hk, h]⟩
  · exact roundsBetween_of_ne_sr hsr s m e q u

end Sys2Proof.Machine
end

section
/-! PROOFS. Conversions to integers, the order of FP32 codes, and the statement on codes and roundings (03 R69, R70). -/

namespace Sys2Proof.Machine

theorem FFmt.infCode_eq (f : FFmt) (s : Bool) : f.infCode s = f.signBit s + (2 ^ (f.width - 1) - 2 ^ f.frac) := by
  rw [FFmt.infCode, FFmt.signBit, f.width_eq, pow_add, Nat.sub_mul, one_mul, mul_comm (2 ^ f.ebits)]

/-- The gaps between the codes of every format are among those that FP32 holds. -/
theorem FFmt.quantum_bounds (f : FFmt) {m : Nat} {e : Int} (hm : m ≠ 0) (hy : (m : ℚ) * 2 ^ e ≤ f.mag f.maxCode) :
    -149 ≤ f.quantum m e ∧ f.quantum m e ≤ 127 := by
  have htop : f.mag f.maxCode < 2 ^ (128 : Int) := by
    cases f <;> norm_num [FFmt.mag, FFmt.maxCode, FFmt.frac, FFmt.bias]
  have hbin : e + bitLen m - 1 < 128 :=
    (zpow_lt_zpow_iff_right₀ one_lt_two).mp (((mag_binade hm e).1.trans hy).trans_lt htop)
  have hfmt : f.bias + f.frac ≤ 150 ∧ 1 ≤ f.bias := by cases f <;> decide
  obtain ⟨h1, h2⟩ := hfmt
  unfold FFmt.quantum
  omega

theorem FFmt.roundsBetween (f : FFmt) (rm : Rm) (s : Bool) {m : Nat} {e : Int} (u : Nat) (h0 : (0 : ℚ) < m * 2 ^ e)
    (hy : (m : ℚ) * 2 ^ e ≤ f.mag f.maxCode) : RoundsBetween rm s m e (f.quantum m e) u := by
  obtain ⟨hlo, hhi⟩ := f.quantum_bounds (ne_zero_of_mag_pos h0) hy
  exact Machine.roundsBetween hlo hhi rm s m e u

theorem FFmt.mag_nonneg (f : FFmt) (c : Nat) : 0 ≤ f.mag c := by
  rw [← f.mag_zero]
  exact f.mag_strictMono.monotone (Nat.zero_le c)

/-! ## Conversions to integers (R69) -/

/-- The least and the greatest number of an integer format. -/
def intLo (w : Nat) (signed : Bool) : Int := if signed then -2 ^ (w - 1) else 0
def intHi (w : Nat) (signed : Bool) : Int := if signed then 2 ^ (w - 1) - 1 else 2 ^ w - 1

theorem intLo_eq (w : Nat) (signed : Bool) : (if signed then -((2 ^ (w - 1) : Nat) : Int) else 0) = intLo w signed := by
  simp [intLo]

theorem intHi_eq (w : Nat) (signed : Bool) :
    (if signed then ((2 ^ (w - 1) : Nat) : Int) - 1 else ((2 ^ w : Nat) : Int) - 1) = intHi w signed := by
  simp [intHi]

theorem cvtI_inf (w : Nat) (s signed : Bool) (rm : Rm) (u : Nat) : cvtI (.inf s) w signed rm u =
    (if s then intLo w signed else intHi w signed, 16) := by
  simp only [cvtI, intLo_eq, intHi_eq]
  rfl

theorem cvtI_of_roundTo {s : Bool} {m : Nat} {e : Int} {rm : Rm} {u r : Nat} {b : Bool} (w : Nat) (signed : Bool)
    (hr : roundTo rm s m e 0 u = (r, b)) :
    let i : Int := if s then -(r : Int) else r
    cvtI (.fin s m e) w signed rm u = if intLo w signed ≤ i ∧ i ≤ intHi w signed then (i, if b then 1 else 0)
      else (if s then intLo w signed else intHi w signed, 16) := by
  intro i
  by_cases h : intLo w signed ≤ i ∧ i ≤ intHi w signed
  · have h' : ¬(i < intLo w signed ∨ intHi w signed < i) := by omega
    simp only [cvtI, hr, intLo_eq, intHi_eq]
    rw [if_neg (by simpa [i] using h'), if_pos h]
    rfl
  · have h' : i < intLo w signed ∨ intHi w signed < i := by omega
    simp only [cvtI, hr, intLo_eq, intHi_eq]
    rw [if_pos (by simpa [i] using h'), if_neg h]
    rfl

/-! ## The order of FP32 codes (R70) -/

/-- The order of R70 on codes of FP32: by the magnitude code under its sign, −0 below +0, NaNs above all. -/
def keyRank (x : Nat) : Int :=
  if 0x7F800000 < x % 2 ^ 31 then 2 ^ 31 else if 2 ^ 31 ≤ x then -1 - ((x % 2 ^ 31 : Nat) : Int) else x

/-- What an FP32 code stands for: a finite value, an infinity or a NaN. -/
inductive CodeKind (x : Nat) : X → Prop where
  | fin (s : Bool) (r m : Nat) (e : Int) (hx : x = FFmt.signBit .fp32 s + r) (hr : r < 0x7F800000)
      (hv : (m : ℚ) * 2 ^ e = FFmt.mag .fp32 r) : CodeKind x (.fin s m e)
  | inf (s : Bool) (hx : x = FFmt.signBit .fp32 s + 0x7F800000) : CodeKind x (.inf s)
  | nan (hx : 0x7F800000 < x % 2 ^ 31) : CodeKind x .nan

theorem dec32_kind {x : Nat} (h : x < 2 ^ 32) : CodeKind x (dec32 x) := by
  obtain ⟨r, hr, hx⟩ := FFmt.code_sign .fp32 h
  generalize decide (2 ^ (FFmt.width .fp32 - 1) ≤ x) = s at hx
  have hmod : x % 2 ^ 31 = r := by
    have hr : r < 2 ^ 31 := hr
    cases s <;> simp only [FFmt.signBit, FFmt.width, if_true] at hx <;> simp at hx <;> omega
  rcases Nat.lt_trichotomy r 0x7F800000 with hlt | heq | hgt
  · obtain ⟨m, e, hd, hv⟩ := decF_finite .fp32 s (c := r) (Nat.le_of_lt_succ hlt)
    rw [dec32, hx, hd]
    exact .fin s r m e rfl hlt hv
  · have hd := decF_special .fp32 s hr (by rw [heq]; decide)
    rw [if_pos ⟨rfl, by rw [heq]; rfl⟩] at hd
    rw [dec32, hx, hd]
    exact .inf s (by rw [heq])
  · have hd := decF_special .fp32 s hr (by show 0x7F7FFFFF < r; omega)
    rw [if_neg (by
      rintro ⟨-, h0⟩
      have h0 : r % 2 ^ 23 = 0 := h0
      have hr : r < 2 ^ 31 := hr
      omega)] at hd
    have hn : dec32 x = .nan := by rw [dec32, hx, hd]
    rw [hn]
    exact .nan (by omega)

theorem keyRank_signed (s : Bool) {r : Nat} (hr : r ≤ 0x7F800000) :
    keyRank (FFmt.signBit .fp32 s + r) = if s then -1 - (r : Int) else r := by
  cases s with
  | false =>
    have h1 : r % 2 ^ 31 = r := Nat.mod_eq_of_lt (by omega)
    simp only [FFmt.signBit, Bool.false_eq_true, if_false, Nat.zero_add, keyRank, h1]
    rw [if_neg (by omega), if_neg (by omega)]
  | true =>
    have h1 : (2 ^ 31 + r) % 2 ^ 31 = r := by omega
    simp only [FFmt.signBit, FFmt.width, if_true, keyRank, Nat.add_one_sub_one, h1]
    rw [if_neg (by omega), if_pos (by omega)]

theorem keyRank_nan {x : Nat} (h : 0x7F800000 < x % 2 ^ 31) : keyRank x = 2 ^ 31 := if_pos h

/-- The key order of two finite values: that of the numbers, −0 below +0. -/
theorem X.keyLt_fin (s : Bool) (m : Nat) (e : Int) (t : Bool) (n : Nat) (f : Int) :
    (X.fin s m e).keyLt (.fin t n f) = true ↔ (X.fin s m e).real < (X.fin t n f).real ∨
      (X.fin s m e).real = (X.fin t n f).real ∧ s = true ∧ t = false := by
  have h1 := X.ltNum_fin s m e t n f
  have h2 := X.ltNum_fin t n f s m e
  simp only [X.keyLt]
  rcases lt_trichotomy (X.fin s m e).real (X.fin t n f).real with h | h | h
  · simp [h1.mpr h, h]
  · have h1' : (X.fin s m e).ltNum (.fin t n f) = false := by rw [← Bool.not_eq_true, h1]; exact h.not_lt
    have h2' : (X.fin t n f).ltNum (.fin s m e) = false := by rw [← Bool.not_eq_true, h2]; exact h.not_gt
    simp [h1', h2', h, X.neg?]
  · have h1' : (X.fin s m e).ltNum (.fin t n f) = false := by rw [← Bool.not_eq_true, h1]; exact h.not_gt
    simp [h1', h2.mpr h, h.not_gt, h.ne']

theorem keyLt_iff_rank {a b : Nat} {x y : X} (hx : CodeKind a x) (hy : CodeKind b y) :
    x.keyLt y = true ↔ keyRank a < keyRank b := by
  cases hx with
  | nan ha =>
    rw [keyRank_nan ha]
    cases hy with
    | nan hb => simp [X.keyLt, keyRank_nan hb]
    | inf t hb => cases t <;> simp [X.keyLt, hb, keyRank_signed]
    | fin t r n f hb hr hv => cases t <;> simp [X.keyLt, hb, keyRank_signed _ hr.le] <;> omega
  | inf s ha =>
    rw [ha, keyRank_signed s le_rfl]
    cases hy with
    | nan hb => cases s <;> simp [X.keyLt, keyRank_nan hb]
    | inf t hb => cases s <;> cases t <;> simp [X.keyLt, X.ltNum, X.neg?, hb, keyRank_signed]
    | fin t r n f hb hr hv => cases s <;> cases t <;> simp [X.keyLt, X.ltNum, hb, keyRank_signed _ hr.le] <;> omega
  | fin s r m e ha hr hv =>
    rw [ha, keyRank_signed s hr.le]
    cases hy with
    | nan hb => cases s <;> simp [X.keyLt, keyRank_nan hb] <;> omega
    | inf t hb => cases s <;> cases t <;> simp [X.keyLt, X.ltNum, hb, keyRank_signed] <;> omega
    | fin t q n f hb hq hw =>
      rw [hb, keyRank_signed t hq.le, X.keyLt_fin]
      have hmono := FFmt.mag_strictMono .fp32
      have h1 := FFmt.mag_nonneg .fp32 r
      have h2 := FFmt.mag_nonneg .fp32 q
      cases s with
      | false =>
        cases t with
        | false => simp [X.real, hv, hw, hmono.lt_iff_lt]
        | true =>
          simp only [X.real, hv, Bool.false_eq_true, if_false, if_true, false_and, and_false, or_false, one_mul]
          exact iff_of_false (by linarith) (by omega)
      | true =>
        cases t with
        | false =>
          simp only [X.real, mul_assoc, hv, hw, if_true, Bool.false_eq_true, if_false, and_true, one_mul]
          exact iff_of_true ((lt_or_eq_of_le (by linarith))) (by omega)
        | true => simp [X.real, hv, hw, hmono.lt_iff_lt]

theorem dec32_keyLt {a b : Nat} (ha : a < 2 ^ 32) (hb : b < 2 ^ 32) :
    (dec32 a).keyLt (dec32 b) = decide (keyRank a < keyRank b) :=
  Bool.eq_iff_iff.mpr ((keyLt_iff_rank (dec32_kind ha) (dec32_kind hb)).trans decide_eq_true_iff.symm)

theorem dec32_isNan {x : Nat} (h : x < 2 ^ 32) : (dec32 x).isNan = decide (0x7F800000 < x % 2 ^ 31) := by
  have hnot (s : Bool) {r : Nat} (hr : r ≤ 0x7F800000) : ¬0x7F800000 < (FFmt.signBit .fp32 s + r) % 2 ^ 31 := by
    cases s <;> simp only [FFmt.signBit, FFmt.width, if_true] <;> simp <;> omega
  obtain hk := dec32_kind h
  generalize dec32 x = y at hk
  cases hk with
  | fin s r m e hx hr hv => exact (decide_eq_false (hx ▸ hnot s hr.le)).symm
  | inf s hx => exact (decide_eq_false (hx ▸ hnot s le_rfl)).symm
  | nan hx => exact (decide_eq_true hx).symm

/-- −0 below +0, without NaNs. -/
def numRank (x : Nat) : Int := if 2 ^ 31 ≤ x then -1 - ((x % 2 ^ 31 : Nat) : Int) else x

theorem keyRank_num {x : Nat} (h : ¬0x7F800000 < x % 2 ^ 31) : keyRank x = numRank x := if_neg h

section
variable {a b : Nat} (ha : a < 2 ^ 32) (hb : b < 2 ^ 32)
include ha hb

theorem fmin_eq : fmin a b = if 0x7F800000 < a % 2 ^ 31 then (if 0x7F800000 < b % 2 ^ 31 then 0x7FC00000 else b)
    else if 0x7F800000 < b % 2 ^ 31 then a else if numRank b < numRank a then b else a := by
  unfold fmin
  rw [dec32_isNan ha, dec32_isNan hb, dec32_keyLt hb ha]
  by_cases h1 : 0x7F800000 < a % 2 ^ 31
  · by_cases h2 : 0x7F800000 < b % 2 ^ 31 <;> simp only [h1, h2, decide_true, decide_false, if_true, if_false]
    rfl
  · by_cases h2 : 0x7F800000 < b % 2 ^ 31
    · simp only [h1, h2, decide_true, decide_false, if_true, if_false]
    · simp only [h1, h2, decide_false, if_false, keyRank_num h1, keyRank_num h2, decide_eq_true_eq]

theorem fmax_eq : fmax a b = if 0x7F800000 < a % 2 ^ 31 then (if 0x7F800000 < b % 2 ^ 31 then 0x7FC00000 else b)
    else if 0x7F800000 < b % 2 ^ 31 then a else if numRank a < numRank b then b else a := by
  unfold fmax
  rw [dec32_isNan ha, dec32_isNan hb, dec32_keyLt ha hb]
  by_cases h1 : 0x7F800000 < a % 2 ^ 31
  · by_cases h2 : 0x7F800000 < b % 2 ^ 31 <;> simp only [h1, h2, decide_true, decide_false, if_true, if_false]
    rfl
  · by_cases h2 : 0x7F800000 < b % 2 ^ 31
    · simp only [h1, h2, decide_true, decide_false, if_true, if_false]
    · simp only [h1, h2, decide_false, if_false, keyRank_num h1, keyRank_num h2, decide_eq_true_eq]

end

/-! ## The statement -/

/-- What a conversion makes of NaN. -/
theorem cvtF_nan (f : FFmt) (rm : Rm) (sat : Bool) (u : Nat) : cvtF .nan f rm sat u = (match f with
    | .fp32 => 0x7FC00000
    | .fp16 => 0x7E00
    | .bf16 => 0x7FC0
    | .e5m2 => 0x7E
    | .e4m3 => 0x7F
    | .e2m1 => 0, if f = .e2m1 then 16 else 0) := by
  cases f <;> rfl

theorem cvtF_inf (f : FFmt) (rm : Rm) (s sat : Bool) (u : Nat) : cvtF (.inf s) f rm sat u =
    if f.hasInf = true ∧ sat = false then (f.infCode s, 0) else (f.signBit s + f.maxCode, 4) := by
  cases sat <;> cases hf : f.hasInf <;> simp [cvtF, hf, FFmt.maxSigned, FFmt.signBit] <;> rfl

/-- A code that is no infinity and no NaN stands for its value, and that value converts back to it (R57, R69). -/
theorem decF_value (f : FFmt) (c u : Nat) (rm : Rm) (sat : Bool) (h : c < 2 ^ f.width) :
    let s := decide (2 ^ (f.width - 1) ≤ c)
    let e := c / 2 ^ f.frac % 2 ^ f.ebits
    let fr := c % 2 ^ f.frac
    let v : ℚ := if e = 0 then 2 ^ (1 - (f.bias : Int)) * ((fr : ℚ) / 2 ^ f.frac)
      else 2 ^ ((e : Int) - f.bias) * (1 + (fr : ℚ) / 2 ^ f.frac)
    (f.special e fr → decF f c = if f.hasInf = true ∧ fr = 0 then .inf s else .nan) ∧
    (¬f.special e fr → (∃ m q, decF f c = .fin s m q ∧ (m : ℚ) * 2 ^ q = v) ∧ cvtF (decF f c) f rm sat u = (c, 0)) := by
  intro s e fr v
  obtain ⟨r, hr, hx⟩ := f.code_sign h
  have he : e = r / 2 ^ f.frac := by
    rw [← f.signBit_exponent s hr, ← hx, Nat.shiftRight_eq_div_pow]
  have hfr : fr = r % 2 ^ f.frac := by
    rw [← f.signBit_mod s r, ← hx]
  have hv : v = f.mag r := by
    have hw : 0 < 2 ^ f.frac := by positivity
    simp only [v, FFmt.mag, he, hfr, Nat.div_eq_zero_iff_lt hw]
    split
    next hlt => rw [Nat.mod_eq_of_lt hlt]
    next => rfl
  rw [he, hfr, f.special_iff hr]
  refine ⟨fun hsp => ?_, fun hnot => ?_⟩
  · rw [hx]
    exact decF_special f s hr hsp
  · obtain ⟨m, q, hd, hmq⟩ := decF_finite f s (not_lt.mp hnot)
    rw [← hx] at hd
    refine ⟨⟨m, q, hd, hmq.trans hv.symm⟩, ?_⟩
    rw [hd, cvtF_exact f rm s sat u m q (not_lt.mp hnot) hmq, ← hx]

theorem cvtI_spec {s : Bool} {m : Nat} {e : Int} {rm : Rm} {u k : Nat} (w : Nat) (signed : Bool) (hlo : (k : ℚ) ≤ m * 2 ^ e)
    (hhi : (m : ℚ) * 2 ^ e < k + 1) :
    let goesUp := (k : ℚ) < m * 2 ^ e ∧ roundsUp rm s u (m * 2 ^ e) k 1 (k % 2 = 1)
    let gives (r : Nat) := let i : Int := if s then -(r : Int) else r
      cvtI (.fin s m e) w signed rm u = if intLo w signed ≤ i ∧ i ≤ intHi w signed
        then (i, if (k : ℚ) = m * 2 ^ e then 0 else 1) else (if s then intLo w signed else intHi w signed, 16)
    (goesUp → gives (k + 1)) ∧ (¬goesUp → gives k) := by
  intro goesUp gives
  rcases hlo.eq_or_lt with heq | hlt
  · have hr := cvtI_of_roundTo w signed (roundTo_exact (q := 0) (by simpa using heq) rm s u)
    exact ⟨fun h => absurd heq h.1.ne, fun _ => by simpa [gives, heq] using hr⟩
  · obtain ⟨hup, hdown⟩ := roundsBetween (q := 0) (by decide) (by decide) rm s m e u k (by simpa using hlt) (by simpa using hhi)
    simp only [zpow_zero, mul_one] at hup hdown
    refine ⟨fun h => ?_, fun h => ?_⟩
    · simpa [gives, hlt.ne] using cvtI_of_roundTo w signed (hup h.2)
    · simpa [gives, hlt.ne] using cvtI_of_roundTo w signed (hdown fun hu => h ⟨hlt, hu⟩)

/-- The magnitudes of E2M1 (R56). -/
theorem decF_e2m1 (i : Nat) (h : i < 8) (s : Bool) : ∃ m q, decF .e2m1 (FFmt.signBit .e2m1 s + i) = .fin s m q ∧
    (m : ℚ) * 2 ^ q = [0, 1 / 2, 1, 3 / 2, 2, 3, 4, 6].getD i 0 := by
  obtain ⟨m, q, hd, hv⟩ := decF_finite .e2m1 s (c := i) (Nat.le_of_lt_succ h)
  refine ⟨m, q, hd, hv.trans ?_⟩
  interval_cases i <;> norm_num [FFmt.mag, FFmt.frac, FFmt.bias]

/-- The value of a finite code without a sign. -/
theorem decF_unsigned (f : FFmt) {c : Nat} {v : ℚ} (hc : c ≤ f.maxCode) (hv : f.mag c = v) :
    ∃ m q, decF f c = .fin false m q ∧ (m : ℚ) * 2 ^ q = v := by
  obtain ⟨m, q, hd, hm⟩ := decF_finite f false hc
  exact ⟨m, q, (Nat.zero_add c ▸ hd :), hm.trans hv⟩

/-- Settles O60: the values and the way back from `decF_value`, a rounding conversion from `cvtF_exact`, `cvtF_between` and
`cvtF_beyond`, one to integers from `cvtI_spec`, the order of FP32 codes from `dec32_keyLt`. -/
theorem codesAndRoundings : Obligations.CodesAndRoundings := by
  unfold Obligations.CodesAndRoundings
  refine ⟨⟨fun f c u rm sat h => decF_value f c u rm sat h, fun i hi => ⟨?_, decF_e2m1 i hi true⟩, ?_, ?_, ?_, ?_, ?_, ?_, ?_,
    by decide, by decide⟩, fun f rm sat s m u w signed e => ⟨?_, ?_, ?_, cvtF_nan f rm sat u, ?_, fun hw => ?_⟩,
    fun a b ha hb => ⟨fmin_eq ha hb, fmax_eq ha hb⟩⟩
  · obtain ⟨m, q, hd, hv⟩ := decF_e2m1 i hi false
    exact ⟨m, q, (Nat.zero_add i ▸ hd :), hv⟩
  · exact decF_unsigned .e4m3 (by decide) (by norm_num [FFmt.mag, FFmt.frac, FFmt.bias])
  · exact decF_unsigned .e4m3 (by decide) (by norm_num [FFmt.mag, FFmt.frac, FFmt.bias])
  · exact decF_unsigned .e4m3 (by decide) (by norm_num [FFmt.mag, FFmt.frac, FFmt.bias])
  · intro c hc s
    obtain ⟨r, hr, hx⟩ := FFmt.code_sign .e4m3 hc
    rcases le_or_gt r (FFmt.maxCode .e4m3) with hle | hgt
    · obtain ⟨m, q, hd, -⟩ := decF_finite .e4m3 (decide (2 ^ (FFmt.width .e4m3 - 1) ≤ c)) hle
      rw [hx, hd]
      exact X.noConfusion
    · rw [hx, decF_special .e4m3 _ hr hgt]
      exact X.noConfusion
  · exact decF_unsigned .e5m2 (by decide) (by norm_num [FFmt.mag, FFmt.frac, FFmt.bias])
  · exact decF_unsigned .e5m2 (by decide) (by norm_num [FFmt.mag, FFmt.frac, FFmt.bias])
  · exact decF_unsigned .e5m2 (by decide) (by norm_num [FFmt.mag, FFmt.frac, FFmt.bias])
  · exact fun c hc hy => cvtF_exact f rm s sat u m e hc hy
  · intro c hc hlo hhi
    have hr := f.roundsBetween rm s u ((f.mag_nonneg c).trans_lt hlo) (hhi.le.trans (f.mag_strictMono.monotone hc))
    obtain ⟨hup, hdown⟩ := cvtF_between f rm s sat u m e hc hlo hhi hr
    refine ⟨?_, fun h => congrArg Prod.fst (hup h), fun h => congrArg Prod.fst (hdown h)⟩
    by_cases h : roundsUp rm s u (m * 2 ^ e) (f.mag c) (f.mag (c + 1) - f.mag c) (c % 2 = 1)
    · exact congrArg Prod.snd (hup h)
    · exact congrArg Prod.snd (hdown h)
  · intro hy
    have hbeyond := cvtF_beyond f rm s sat u m e hy
    rw [f.infCode_eq] at hbeyond
    exact hbeyond
  · have hinf := cvtF_inf f rm s sat u
    rw [f.infCode_eq] at hinf
    exact hinf
  · refine ⟨fun k hlo hhi => ?_, rfl, cvtI_inf w s signed rm u⟩
    obtain ⟨hup, hdown⟩ := cvtI_spec w signed hlo hhi
    exact ⟨fun h => ⟨fun hf => (hup h).trans (if_pos hf), fun hf => (hup h).trans (if_neg hf)⟩,
      fun h => ⟨fun hf => (hdown h).trans (if_pos hf), fun hf => (hdown h).trans (if_neg hf)⟩⟩

end Sys2Proof.Machine
end

section
/-! PROOFS. The sorts and merges of the V stream (03 R70; 06 R147, R148). -/

namespace Sys2Proof.Machine

/-! ## The order of keys (03 R70; 06 R147) -/

/-- The rank of a key under a type. -/
def laneRank (ty : VTy) (x : W32) : Int :=
  match ty with
  | .f => keyRank x.toNat
  | .i => x.toInt
  | .u => x.toNat

/-- The rank by which a sort goes: descending turns it round. -/
def sortRank (ty : VTy) (desc : Bool) (x : W32) : Int := if desc then -laneRank ty x else laneRank ty x

theorem keyBefore_eq (ty : VTy) (desc : Bool) (x y : W32) :
    keyBefore ty desc x y = decide (sortRank ty desc x < sortRank ty desc y) := by
  have hlt (x y : W32) : (match ty with
      | .f => (dec32 x.toNat).keyLt (dec32 y.toNat)
      | .i => x.slt y
      | .u => x.ult y) = decide (laneRank ty x < laneRank ty y) := by
    cases ty with
    | f => exact dec32_keyLt x.isLt y.isLt
    | i => rfl
    | u => simp [laneRank, BitVec.ult]
  cases desc with
  | false => exact hlt x y
  | true =>
    have hneg : sortRank ty true x < sortRank ty true y ↔ laneRank ty y < laneRank ty x := neg_lt_neg_iff
    simp only [hneg]
    exact hlt y x

theorem keyBefore_false_iff (ty : VTy) (desc : Bool) (x y : W32) :
    keyBefore ty desc x y = false ↔ sortRank ty desc y ≤ sortRank ty desc x := by
  rw [keyBefore_eq, decide_eq_false_iff_not, not_lt]

/-! ## Sorting by insertion (06 R147) -/

section
variable (ty : VTy) (desc : Bool)

/-- The rank of a pair's key. -/
def pairRank (p : W32 × W32) : Int := sortRank ty desc p.1

theorem sortIns_perm (x : W32 × W32) (l : List (W32 × W32)) : (sortIns ty desc x l).Perm (x :: l) := by
  induction l with
  | nil => exact .rfl
  | cons y r ih =>
    unfold sortIns
    split
    · exact .rfl
    · exact (ih.cons y).trans (.swap x y r)

/-- In order: no key strictly precedes an earlier one. -/
def Ordered (l : List (W32 × W32)) : Prop := l.Pairwise fun p q => pairRank ty desc p ≤ pairRank ty desc q

variable {ty desc}

theorem sortIns_ordered (x : W32 × W32) {l : List (W32 × W32)} (h : Ordered ty desc l) : Ordered ty desc (sortIns ty desc x l) := by
  induction l with
  | nil => simp [sortIns, Ordered]
  | cons y r ih =>
    obtain ⟨hy, hr⟩ := List.pairwise_cons.mp h
    unfold sortIns
    rw [keyBefore_eq]
    split
    next hlt =>
      have hxy : pairRank ty desc x ≤ pairRank ty desc y := (of_decide_eq_true hlt).le
      refine List.pairwise_cons.mpr ⟨fun q hq => ?_, h⟩
      rcases List.mem_cons.mp hq with rfl | hq
      · exact hxy
      · exact hxy.trans (hy q hq)
    next hge =>
      have hyx : pairRank ty desc y ≤ pairRank ty desc x := by simpa [pairRank] using hge
      refine List.pairwise_cons.mpr ⟨fun q hq => ?_, ih hr⟩
      rcases List.mem_cons.mp ((sortIns_perm ty desc x r).mem_iff.mp hq) with rfl | hq
      · exact hyx
      · exact hy q hq

/-- A pair goes behind those with an equal key. -/
theorem sortIns_filter (x : W32 × W32) {l : List (W32 × W32)} (h : Ordered ty desc l) (n : Int) :
    (sortIns ty desc x l).filter (pairRank ty desc · = n) = l.filter (pairRank ty desc · = n) ++ [x].filter (pairRank ty desc · = n) := by
  induction l with
  | nil => rfl
  | cons y r ih =>
    obtain ⟨hy, hr⟩ := List.pairwise_cons.mp h
    unfold sortIns
    rw [keyBefore_eq]
    split
    next hlt =>
      have hlt : pairRank ty desc x < pairRank ty desc y := of_decide_eq_true hlt
      by_cases hx : pairRank ty desc x = n
      · have hnone : (y :: r).filter (pairRank ty desc · = n) = [] := by
          refine List.filter_eq_nil_iff.mpr fun q hq => ?_
          have : pairRank ty desc y ≤ pairRank ty desc q := by
            rcases List.mem_cons.mp hq with rfl | hq
            · exact le_rfl
            · exact hy q hq
          simp only [decide_eq_true_eq]
          omega
        rw [hnone, List.filter_cons, hnone]
        simp [hx]
      · simp [List.filter_cons, hx]
    next => rw [List.filter_cons, List.filter_cons, ih hr]; split <;> rfl

theorem sortAll_spec (l : List (W32 × W32)) {r : List (W32 × W32)} (h : Ordered ty desc r) :
    (l.foldl (fun r x => sortIns ty desc x r) r).Perm (r ++ l) ∧ Ordered ty desc (l.foldl (fun r x => sortIns ty desc x r) r) ∧
    ∀ n, (l.foldl (fun r x => sortIns ty desc x r) r).filter (pairRank ty desc · = n) = (r ++ l).filter (pairRank ty desc · = n) := by
  induction l generalizing r with
  | nil => simpa using h
  | cons x l ih =>
    obtain ⟨hperm, hord, hfilter⟩ := ih (sortIns_ordered x h)
    refine ⟨?_, hord, fun n => ?_⟩
    · exact hperm.trans (((sortIns_perm ty desc x r).append_right l).trans List.perm_middle.symm)
    · rw [List.foldl_cons, hfilter, List.filter_append, sortIns_filter x h, List.append_assoc, ← List.filter_append,
        ← List.filter_append, List.singleton_append]

end

/-- The pairs that a mask selects, and the others. -/
theorem selected_others (m : W64) {l : List (W32 × W32)} (h : l.length ≤ 64) :
    selected (~~~m) l = (l.zipIdx.filter fun p => !(m.getLsbD p.2)).map (·.1) := by
  refine congrArg _ (List.filter_congr fun p hp => ?_)
  obtain ⟨-, hlt, -⟩ := List.mem_zipIdx hp
  simp only [maskBit, BitVec.getLsbD_not]
  rw [decide_eq_true (by omega), Bool.true_and]

theorem selected_length (m : W64) {l : List (W32 × W32)} (h : l.length ≤ 64) :
    (selected m l).length + (selected (~~~m) l).length = l.length := by
  rw [selected_others m h, selected, List.length_map, List.length_map]
  have := (List.filter_append_perm (fun p : (W32 × W32) × Nat => maskBit m p.2) l.zipIdx).length_eq
  rw [List.length_append, List.length_zipIdx] at this
  exact this

theorem sortLanes_length (ty : VTy) (desc : Bool) (m : W64) {l : List (W32 × W32)} (h : l.length ≤ 64) :
    (sortLanes ty desc m l).length = l.length := by
  obtain ⟨hperm, -⟩ := sortAll_spec (ty := ty) (desc := desc) (selected m l) (r := []) .nil
  rw [sortLanes, List.length_append, hperm.length_eq, List.nil_append, selected_length m h]

/-! ## Merging (06 R148) -/

theorem mergeRun_length (ty : VTy) (desc : Bool) (n : Nat) (as bs : List W32) (h : as.length + bs.length ≤ n) :
    (mergeRun ty desc n as bs).length = as.length + bs.length := by
  induction n generalizing as bs with
  | zero =>
    obtain ⟨ha, hb⟩ : as = [] ∧ bs = [] := by
      constructor <;> exact List.eq_nil_of_length_eq_zero (by omega)
    simp [ha, hb, mergeRun]
  | succ n ih =>
    cases as with
    | nil => simp [mergeRun]
    | cons a as =>
      cases bs with
      | nil => simp [mergeRun]
      | cons b bs =>
        simp only [List.length_cons] at h
        unfold mergeRun
        split
        · rw [List.length_cons, ih _ _ (by simp; omega)]
          simp
          omega
        · rw [List.length_cons, ih _ _ (by simp; omega)]
          simp
          omega

/-- How many of the first n elements of a merge are A's. -/
def takenA (ty : VTy) (desc : Bool) : Nat → List W32 → List W32 → Nat
  | 0, _, _ => 0
  | _, [], _ => 0
  | n, _, [] => n
  | n + 1, a :: as, b :: bs =>
    if keyBefore ty desc b a then takenA ty desc n (a :: as) bs else takenA ty desc n as (b :: bs) + 1

/-- A merge takes A's element where B is used up, or where B's does not strictly precede it. -/
def takesA (ty : VTy) (desc : Bool) (as bs : List W32) (i j : Nat) : Prop :=
  j = bs.length ∨ i < as.length ∧ keyBefore ty desc (bs.getD j 0) (as.getD i 0) = false

theorem mergeRun_spec (ty : VTy) (desc : Bool) (N : Nat) (as bs : List W32) (h : as.length + bs.length ≤ N) (n : Nat)
    (hn : n < as.length + bs.length) :
    let i (n : Nat) := takenA ty desc n as bs
    let j := n - i n
    i n ≤ n ∧ (takesA ty desc as bs (i n) j → (mergeRun ty desc N as bs).getD n 0 = as.getD (i n) 0 ∧ i (n + 1) = i n + 1) ∧
      (¬takesA ty desc as bs (i n) j → (mergeRun ty desc N as bs).getD n 0 = bs.getD j 0 ∧ i (n + 1) = i n) := by
  induction N generalizing as bs n with
  | zero => omega
  | succ N ih =>
    cases as with
    | nil =>
      have hi (n : Nat) : takenA ty desc n [] bs = 0 := by cases n <;> rfl
      simp only [List.length_nil, Nat.zero_add] at hn
      simp only [hi, takesA, mergeRun, List.length_nil]
      exact ⟨Nat.zero_le n, fun ht => by omega, fun _ => ⟨rfl, trivial⟩⟩
    | cons a as =>
      cases bs with
      | nil =>
        have hi (n : Nat) : takenA ty desc n (a :: as) [] = n := by cases n <;> rfl
        simp only [hi, takesA, mergeRun, Nat.sub_self, List.length_nil]
        simp
      | cons b bs =>
        simp only [List.length_cons] at h hn
        by_cases hb : keyBefore ty desc b a = true
        · have hi (n : Nat) : takenA ty desc (n + 1) (a :: as) (b :: bs) = takenA ty desc n (a :: as) bs := if_pos hb
          have hout : mergeRun ty desc (N + 1) (a :: as) (b :: bs) = b :: mergeRun ty desc N (a :: as) bs := if_pos hb
          cases n with
          | zero =>
            have h0 : takenA ty desc 0 (a :: as) (b :: bs) = 0 ∧ takenA ty desc 0 (a :: as) bs = 0 := ⟨rfl, rfl⟩
            simp [takesA, hi, hout, h0, hb]
          | succ n =>
            obtain ⟨hle, hA, hB⟩ := ih (a :: as) bs (by simp; omega) n (by simp; omega)
            dsimp only at hle
            have hj : n + 1 - takenA ty desc n (a :: as) bs = n - takenA ty desc n (a :: as) bs + 1 := by omega
            simp only [takesA, hi, hout, hj, List.length_cons, List.getD_cons_succ, Nat.add_right_cancel_iff] at hA hB ⊢
            exact ⟨by omega, hA, hB⟩
        · have hi (n : Nat) : takenA ty desc (n + 1) (a :: as) (b :: bs) = takenA ty desc n as (b :: bs) + 1 := if_neg hb
          have hout : mergeRun ty desc (N + 1) (a :: as) (b :: bs) = a :: mergeRun ty desc N as (b :: bs) := if_neg hb
          cases n with
          | zero =>
            have h0 : takenA ty desc 0 (a :: as) (b :: bs) = 0 ∧ takenA ty desc 0 as (b :: bs) = 0 := ⟨rfl, rfl⟩
            simp [takesA, hi, hout, h0, hb]
          | succ n =>
            obtain ⟨hle, hA, hB⟩ := ih as (b :: bs) (by simp; omega) n (by simp; omega)
            dsimp only at hle
            simp only [takesA, hi, hout, Nat.add_sub_add_right, List.length_cons, List.getD_cons_succ,
              Nat.add_right_cancel_iff, Nat.add_lt_add_iff_right] at hA hB ⊢
            exact ⟨by omega, hA, hB⟩

/-! ## The words (06 R137, R147, R148) -/

/-- Nothing of a word's destination is missing where every block is present. -/
theorem issue_dst {p q : Plan} {s : State} (h : s.core.clear p.ctl) (hq : q = { p with dst := q.dst }) (eff : State → State) :
    issue q s eff = issue p s eff := by
  obtain ⟨hp, he, -⟩ := h
  have hv : verdict s.core q = verdict s.core p := by
    rw [hq]
    simp only [verdict, Core.absentIn_present hp, Core.earlyIn_off he, Core.earlyRegs_off he, Core.poisonIn_present hp]
  rw [hq] at hv ⊢
  simp only [issue, hv]
  rfl

theorem VRead.name_length (s : State) (r : VRead) (x : VSrc) : ∃ l : List W32, l.length = 64 ∧ (r.name s x).vals = r.vals ++ [l] := by
  cases x with
  | v n => exact ⟨_, by simp [vLanes], rfl⟩
  | dv => exact ⟨_, by simp, rfl⟩
  | z n =>
    refine ⟨_, ?_, rfl⟩
    split <;> simp

theorem readSrcs_pair (s : State) (a b : VSrc) : ∃ u v : List W32, u.length = 64 ∧ v.length = 64 ∧ (readSrcs s [a, b]).vals = [u, v] := by
  obtain ⟨u, hu, h1⟩ := VRead.name_length s { z := s.core.r.z } a
  obtain ⟨v, hv, h2⟩ := VRead.name_length s (VRead.name s { z := s.core.r.z } a) b
  refine ⟨u, v, hu, hv, h2.trans ?_⟩
  rw [h1]
  rfl

theorem list_eq_range {α : Type} {l : List α} {n : Nat} (h : l.length = n) (d : α) : l = (List.range n).map fun i => l.getD i d := by
  subst h
  refine List.ext_getElem (by simp) fun i h1 h2 => ?_
  simp [h1]

section
variable {c : Ctl} {s : State} (h : s.core.clear c)
include h

theorem execVsort_clear (desc : Bool) (d : VDst) (a : VSrc) (k : BitVec 3) (ty : VTy)
    (hr : s.vrReady d [a] (BitVec.allOnes 64)) :
    let single := (List.range 64).map fun l => ((readSrcs s [a]).lane 0 l, (0 : W32))
    exec (.vsort c desc d a k ty) s = s.vrGoes c d [a] (BitVec.allOnes 64) 40 fun l =>
      (((sortLanes ty desc (s.core.kreg k) single).getD l (0, 0)).1, 0) := by
  intro single
  have hsrc : (srcOf (readSrcs s [a]).vals 0).map (fun x => (x, (0 : W32))) = single := by
    rw [list_eq_range (srcLanes_length s a) 0, List.map_map]
    rfl
  have hlen : (sortLanes ty desc (s.core.kreg k) single).length = 64 := by
    rw [sortLanes_length _ _ _ (by simp [single])]
    simp [single]
  rw [exec_vsort, execVsort]
  refine vrWord_clear h d [a] k allLanes 40 _ (fun l => (_, 0)) [] [] hr ?_ fun i hi => by simp
  simp only [hsrc]
  conv_lhs => rw [list_eq_range hlen (0, 0), List.map_map]
  rfl

theorem vrWord_dst (d : VDst) (xs : List VSrc) (k : BitVec 3) (mask : Core → W64) (l : Nat)
    (f : Core → List (List W32) → List W32 × List FpFlags) (more : List LAct) (rs : Ranges) :
    vrWord c d xs k mask l f s (more := more) (dst := rs) = vrWord c d xs k mask l f s (more := more) := by
  unfold vrWord
  exact issue_dst (by exact h) rfl _

/-- A word that writes a pair of registers. -/
theorem pairWord_clear (d : BitVec 3) (xs : List VSrc) (k : BitVec 3) (l : Nat)
    (f : Core → List (List W32) → List W32 × List W32) (hr : s.vrReady (.v (BitVec.ofNat 4 (2 * d.toNat))) xs (BitVec.allOnes 64))
    (g : Nat → W32) (hg : (f s.core (readSrcs s xs).vals).1 = (List.range 64).map g) :
    pairWord c d xs k l f s = s.vrGoes c (.v (BitVec.ofNat 4 (2 * d.toNat))) xs (BitVec.allOnes 64) l (fun i => (g i, 0))
      [.lanes (2 * d.toNat + 1) (BitVec.allOnes 64) (f s.core (readSrcs s xs).vals).2] := by
  have hpair : ∀ d : BitVec 3, d ++ 0#1 = BitVec.ofNat 4 (2 * d.toNat) ∧ (d ++ 1#1).toNat = 2 * d.toNat + 1 := by decide
  obtain ⟨hlo, hhi⟩ := hpair d
  simp only [pairWord, hlo, hhi, vrWord_dst h]
  exact vrWord_clear h _ xs k allLanes l _ (fun i => (g i, 0)) _ [] hr hg fun i _ => by simp

theorem execVsortk_clear (desc : Bool) (d : BitVec 3) (a b : VSrc) (k : BitVec 3) (ty : VTy)
    (hr : s.vrReady (.v (BitVec.ofNat 4 (2 * d.toNat))) [a, b] (BitVec.allOnes 64)) :
    let pairs := (List.range 64).map fun l => ((readSrcs s [a, b]).lane 0 l, (readSrcs s [a, b]).lane 1 l)
    let sorted := sortLanes ty desc (s.core.kreg k) pairs
    exec (.vsortk c desc d a b k ty) s =
      s.vrGoes c (.v (BitVec.ofNat 4 (2 * d.toNat))) [a, b] (BitVec.allOnes 64) 40 (fun l => ((sorted.getD l (0, 0)).1, 0))
        [.lanes (2 * d.toNat + 1) (BitVec.allOnes 64) (sorted.map (·.2))] := by
  intro pairs sorted
  obtain ⟨u, v, hu, hv, hvals⟩ := readSrcs_pair s a b
  have hzip : (srcOf (readSrcs s [a, b]).vals 0).zip (srcOf (readSrcs s [a, b]).vals 1) = pairs := by
    have h0 : srcOf (readSrcs s [a, b]).vals 0 = u := by rw [hvals]; rfl
    have h1 : srcOf (readSrcs s [a, b]).vals 1 = v := by rw [hvals]; rfl
    simp only [pairs, VRead.lane, h0, h1]
    conv_lhs => rw [list_eq_range hu 0, list_eq_range hv 0, List.zip_map']
  have hlen : sorted.length = 64 := by
    rw [sortLanes_length _ _ _ (by simp [pairs])]
    simp [pairs]
  rw [exec_vsortk, execVsortk, pairWord_clear h d [a, b] k 40 _ hr fun l => (sorted.getD l (0, 0)).1]
  · simp only [hzip, List.unzip_eq_map]
    rfl
  · simp only [hzip, List.unzip_eq_map]
    conv_lhs => rw [show sortLanes ty desc (s.core.kreg k) pairs = _ from list_eq_range hlen (0, 0), List.map_map]
    rfl

theorem execVmerge_clear (desc : Bool) (d : BitVec 3) (a b : VSrc) (ty : VTy)
    (hr : s.vrReady (.v (BitVec.ofNat 4 (2 * d.toNat))) [a, b] (BitVec.allOnes 64)) :
    let out := mergeRun ty desc 128 ((List.range 64).map ((readSrcs s [a, b]).lane 0)) ((List.range 64).map ((readSrcs s [a, b]).lane 1))
    exec (.vmerge c desc d a b ty) s =
      s.vrGoes c (.v (BitVec.ofNat 4 (2 * d.toNat))) [a, b] (BitVec.allOnes 64) 24 (fun l => (out.getD l 0, 0))
        [.lanes (2 * d.toNat + 1) (BitVec.allOnes 64) (out.drop 64)] := by
  intro out
  obtain ⟨u, v, hu, hv, hvals⟩ := readSrcs_pair s a b
  have hout : mergeRun ty desc 128 (srcOf (readSrcs s [a, b]).vals 0) (srcOf (readSrcs s [a, b]).vals 1) = out := by
    have h0 : srcOf (readSrcs s [a, b]).vals 0 = u := by rw [hvals]; rfl
    have h1 : srcOf (readSrcs s [a, b]).vals 1 = v := by rw [hvals]; rfl
    have hu' : (List.range 64).map ((readSrcs s [a, b]).lane 0) = u := by
      rw [list_eq_range hu 0, ← h0]
      rfl
    have hv' : (List.range 64).map ((readSrcs s [a, b]).lane 1) = v := by
      rw [list_eq_range hv 0, ← h1]
      rfl
    rw [h0, h1]
    simp only [out, hu', hv']
  have hlen : out.length = 128 := by
    rw [show out.length = _ from mergeRun_length ty desc 128 _ _ (by simp)]
    simp
  rw [exec_vmerge, execVmerge, pairWord_clear h d [a, b] 0 24 _ hr fun l => out.getD l 0]
  · simp only [hout]
  · simp only [hout]
    refine List.ext_getElem (by simp [hlen]) fun l h1 h2 => ?_
    have hl : l < out.length := by simp at h1; omega
    simp [hl]

end

theorem lane_sign (x : W32) : x.getLsbD 31 = true ↔ 2 ^ 31 ≤ x.toNat := by
  have hx := x.isLt
  rw [BitVec.getLsbD, Nat.testBit_eq_decide_div_mod_eq, decide_eq_true_eq]
  omega

/-- Settles O29: the words are one issue each; the sort is an insertion (`sortAll_spec`), the merge `mergeRun_spec`, the
orders those of `keyBefore_eq`. -/
theorem sortsAndMerges : Obligations.SortsAndMerges := by
  unfold Obligations.SortsAndMerges
  refine ⟨fun c desc d p a b k ty s h => ⟨execVsort_clear h desc d a k ty, execVsortk_clear h desc p a b k ty, fun hr => ?_⟩,
    fun ty desc m l hl => ?_, fun ty desc x y as bs => ⟨?_, fun ha hb => ?_⟩⟩
  · have hmerge := execVmerge_clear h desc p a b ty hr
    simpa only [List.map_map, Function.comp_def] using hmerge
  · obtain ⟨hperm, hord, hfilter⟩ := sortAll_spec (ty := ty) (desc := desc) (selected m l) (r := []) .nil
    refine ⟨_, by rw [sortLanes, selected_others m hl], hperm, ?_, fun x => ?_⟩
    · exact hord.imp fun hpq => (keyBefore_false_iff ty desc _ _).mpr hpq
    · have hsame (l : List (W32 × W32)) : l.filter (fun p => !keyBefore ty desc p.1 x && !keyBefore ty desc x p.1) =
          l.filter (pairRank ty desc · = sortRank ty desc x) := by
        refine List.filter_congr fun p _ => ?_
        rw [Bool.eq_iff_iff, Bool.and_eq_true, Bool.not_eq_true', Bool.not_eq_true', keyBefore_false_iff,
          keyBefore_false_iff, decide_eq_true_iff, pairRank, and_comm]
        exact le_antisymm_iff.symm
      rw [hsame, hsame]
      exact hfilter _
  · have hrank (x : W32) : laneRank ty x = (match ty with
        | .f => if 0x7F800000 < x.toNat % 2 ^ 31 then 2 ^ 31
          else if x.getLsbD 31 then -1 - ((x.toNat % 2 ^ 31 : Nat) : Int) else (x.toNat : Int)
        | .i => x.toInt
        | .u => (x.toNat : Int)) := by
      cases ty with
      | f => simp only [laneRank, keyRank, lane_sign]
      | i | u => rfl
    rw [keyBefore_eq]
    cases desc with
    | false => exact congrArg₂ (fun p q : Int => decide (p < q)) (hrank x) (hrank y)
    | true =>
      have hneg : sortRank ty true x < sortRank ty true y ↔ laneRank ty y < laneRank ty x := neg_lt_neg_iff
      simp only [hneg]
      exact congrArg₂ (fun p q : Int => decide (p < q)) (hrank y) (hrank x)
  · have hspec := mergeRun_spec ty desc 128 as bs (by omega)
    refine ⟨by rw [mergeRun_length ty desc 128 as bs (by omega), ha, hb], fun n => takenA ty desc n as bs, rfl, fun n hn => ?_⟩
    have hn := hspec n (by omega)
    simpa only [takesA, ha, hb] using hn

end Sys2Proof.Machine
end

section
/-! PROOFS. Rounding to a selector's grid, quotients with a sticky bit, and the least scale (03 R59, R62 to R64, R68, R71, R77). -/

namespace Sys2Proof.Machine

/-! ## The magnitudes of a selector (03 R62 to R64) -/

/-- The magnitude of a selector's code. -/
def selMag (wc : Bool) (sel k : Nat) : ℚ := magVal (codeMag wc sel k)

/-- The largest magnitude code of a selector (R62). -/
def selTop (wc : Bool) (sel : Nat) : Nat := magCodes wc sel - 1

theorem selMag_steps : ∀ wc, ∀ sel < 4, ∀ k < selTop wc sel,
    magLt (codeMag wc sel k).1 (codeMag wc sel k).2 (codeMag wc sel (k + 1)).1 (codeMag wc sel (k + 1)).2 = true := by
  decide +kernel

theorem selMag_qmax : ∀ wc, ∀ sel < 4,
    magLe (codeMag wc sel (selTop wc sel)).1 (codeMag wc sel (selTop wc sel)).2 (qmax wc sel).1 (qmax wc sel).2 = true ∧
    magLe (qmax wc sel).1 (qmax wc sel).2 (codeMag wc sel (selTop wc sel)).1 (codeMag wc sel (selTop wc sel)).2 = true := by
  decide +kernel

theorem codeMag_zero : ∀ wc, ∀ sel < 4, (codeMag wc sel 0).1 = 0 := by decide

section
variable {wc : Bool} {sel : Nat} (hsel : sel < 4)
include hsel

theorem selMag_lt_succ {k : Nat} (hk : k < selTop wc sel) : selMag wc sel k < selMag wc sel (k + 1) :=
  (magLt_iff _ _ _ _).mp (selMag_steps wc sel hsel k hk)

theorem selMag_top : selMag wc sel (selTop wc sel) = magVal (qmax wc sel) :=
  le_antisymm ((magLe_iff _ _ _ _).mp (selMag_qmax wc sel hsel).1) ((magLe_iff _ _ _ _).mp (selMag_qmax wc sel hsel).2)

theorem selMag_mono {j k : Nat} (hjk : j ≤ k) (hk : k ≤ selTop wc sel) : selMag wc sel j ≤ selMag wc sel k := by
  induction k, hjk using Nat.le_induction with
  | base => exact le_rfl
  | succ k _ ih => exact (ih (Nat.le_of_succ_le hk)).trans (selMag_lt_succ hsel hk).le

/-! ## Rounding to a selector's grid (03 R68, R71) -/

/-- The magnitude code at or below a value. -/
theorem loCode_eq {m : Nat} {e : Int} {k n : Nat} (hkn : k ≤ n) (hn : n ≤ selTop wc sel) (hlo : selMag wc sel k ≤ m * 2 ^ e)
    (hhi : k < selTop wc sel → (m : ℚ) * 2 ^ e < selMag wc sel (k + 1)) : loCode wc sel m e n = k := by
  induction n, hkn using Nat.le_induction with
  | base =>
    cases k with
    | zero => rfl
    | succ k => exact if_pos ((magLe_iff _ _ _ _).mpr hlo)
  | succ n hkn ih =>
    refine (if_neg ?_).trans (ih (Nat.le_of_succ_le hn))
    rw [magLe_iff, not_le]
    exact (hhi (by omega)).trans_le (selMag_mono hsel (by omega) hn)

end

/-- The mode takes the upper of two neighbours on a selector's grid; the draw of SR apart (R68). -/
def selUp (rm : Rm) (neg : Bool) (y lo hi : ℚ) (k : Nat) : Prop :=
  match rm with
  | .rne => hi - y < y - lo ∨ hi - y = y - lo ∧ k % 2 = 1
  | .rdn => neg = true
  | .rup => neg = false
  | _ => False

section
variable {wc : Bool} {sel : Nat} (hsel : sel < 4) (rm : Rm) (neg : Bool) (m : Nat) (e : Int) (w : Nat)
include hsel

omit hsel in
/-- At Qmax and above the value becomes Qmax (R68). -/
theorem roundSel_top (h : magVal (qmax wc sel) ≤ m * 2 ^ e) :
    roundSel wc sel rm neg m e w = signCode wc sel neg (selTop wc sel) :=
  if_pos ((magLe_iff _ _ _ _).mpr h)

section
variable {k : Nat} (hk : k < selTop wc sel) (hlo : selMag wc sel k ≤ m * 2 ^ e) (hhi : (m : ℚ) * 2 ^ e < selMag wc sel (k + 1))
include hk hlo hhi

/-- Below Qmax the rounding compares the value with its two neighbours on a common grid. -/
theorem roundSel_eq : ∃ (b : Int) (y l h : Nat), (y : ℚ) * 2 ^ b = m * 2 ^ e ∧ (l : ℚ) * 2 ^ b = selMag wc sel k ∧
    (h : ℚ) * 2 ^ b = selMag wc sel (k + 1) ∧ ∀ w, roundSel wc sel rm neg m e w = if y = l then signCode wc sel neg k else
      signCode wc sel neg (if (match rm with
        | .rne => decide (h - y < y - l) || (decide (h - y = y - l) && decide (k % 2 = 1))
        | .rtz => false
        | .rdn => neg
        | .rup => !neg
        | .sr => srUp (y - l) b (h - l) b w) then k + 1 else k) := by
  have hq : ¬magLe (qmax wc sel).1 (qmax wc sel).2 m e = true := by
    rw [magLe_iff, not_le]
    exact hhi.trans_le ((selMag_mono hsel hk le_rfl).trans (selMag_top hsel).le)
  have hlow : loCode wc sel m e (magCodes wc sel - 1) = k := loCode_eq hsel hk.le le_rfl hlo fun _ => hhi
  have hb : min e (min (codeMag wc sel k).2 (codeMag wc sel (k + 1)).2) ≤ e := min_le_left _ _
  have hb1 : min e (min (codeMag wc sel k).2 (codeMag wc sel (k + 1)).2) ≤ (codeMag wc sel k).2 :=
    (min_le_right _ _).trans (min_le_left _ _)
  have hb2 : min e (min (codeMag wc sel k).2 (codeMag wc sel (k + 1)).2) ≤ (codeMag wc sel (k + 1)).2 :=
    (min_le_right _ _).trans (min_le_right _ _)
  refine ⟨_, _, _, _, shiftTo_real m hb, shiftTo_real _ hb1, shiftTo_real _ hb2, fun w => ?_⟩
  unfold roundSel
  simp only [hlow]
  exact (if_neg hq).trans rfl

theorem roundSel_exact (h : selMag wc sel k = m * 2 ^ e) : roundSel wc sel rm neg m e w = signCode wc sel neg k := by
  obtain ⟨b, y, l, h', hy, hl, -, hr⟩ := roundSel_eq hsel rm neg m e hk hlo hhi
  have hyl : y = l := by
    have : (y : ℚ) * 2 ^ b = l * 2 ^ b := by rw [hy, hl, h]
    exact_mod_cast mul_right_cancel₀ (two_zpow_pos b).ne' this
  rw [hr, if_pos hyl]

theorem roundSel_between (h : selMag wc sel k < m * 2 ^ e) (hrm : rm ≠ .sr) :
    (selUp rm neg (m * 2 ^ e) (selMag wc sel k) (selMag wc sel (k + 1)) k →
      roundSel wc sel rm neg m e w = signCode wc sel neg (k + 1)) ∧
    (¬selUp rm neg (m * 2 ^ e) (selMag wc sel k) (selMag wc sel (k + 1)) k →
      roundSel wc sel rm neg m e w = signCode wc sel neg k) := by
  obtain ⟨b, y, l, h', hy, hl, hh, hr⟩ := roundSel_eq hsel rm neg m e hk hlo hhi
  have hb := two_zpow_pos b
  rw [← hy, ← hl] at h
  have hly : l < y := by exact_mod_cast lt_of_mul_lt_mul_right h hb.le
  rw [← hy, ← hh] at hhi
  have hyh : y < h' := by exact_mod_cast lt_of_mul_lt_mul_right hhi hb.le
  rw [hr, if_neg (by omega), ← hy, ← hl, ← hh]
  have hnear : (h' : ℚ) * 2 ^ b - y * 2 ^ b = (h' - y : Nat) * 2 ^ b := by rw [Nat.cast_sub hyh.le, sub_mul]
  have hfar : (y : ℚ) * 2 ^ b - l * 2 ^ b = (y - l : Nat) * 2 ^ b := by rw [Nat.cast_sub hly.le, sub_mul]
  have hlt : (h' : ℚ) * 2 ^ b - y * 2 ^ b < y * 2 ^ b - l * 2 ^ b ↔ h' - y < y - l := by
    rw [hnear, hfar, mul_lt_mul_iff_left₀ hb, Nat.cast_lt]
  have heq : (h' : ℚ) * 2 ^ b - y * 2 ^ b = y * 2 ^ b - l * 2 ^ b ↔ h' - y = y - l := by
    rw [hnear, hfar, mul_left_inj' hb.ne', Nat.cast_inj]
  cases rm with
  | rne =>
    simp only [selUp, hlt, heq]
    exact ⟨fun hu => by simp [hu], fun hu => by simp [hu]⟩
  | rtz => simp [selUp]
  | rdn => cases neg <;> simp [selUp]
  | rup => cases neg <;> simp [selUp]
  | sr => exact absurd rfl hrm

theorem roundSel_draw (h : selMag wc sel k < m * 2 ^ e) : ∃ t, ∀ w, roundSel wc sel .sr neg m e w =
    if w / 256 < t then signCode wc sel neg (k + 1) else signCode wc sel neg k := by
  obtain ⟨b, y, l, h', hy, hl, -, hr⟩ := roundSel_eq hsel .sr neg m e hk hlo hhi
  have hyl : y ≠ l := by
    rintro rfl
    exact h.ne (hl.symm.trans hy)
  have hdraw (dm : Nat) (de : Int) (gm : Nat) (ge : Int) : ∃ t, ∀ w, srUp dm de gm ge w = decide (w / 256 < t) :=
    ⟨_, fun w => by rw [srUp, Nat.shiftRight_eq_div_pow]⟩
  obtain ⟨t, ht⟩ := hdraw (y - l) b (h' - l) b
  refine ⟨t, fun w => ?_⟩
  rw [hr, if_neg hyl, ht]
  simp only [decide_eq_true_eq, apply_ite (signCode wc sel neg)]

end
end

/-! ## Quotients with a sticky bit -/

/-- A quotient keeps at least 96 bits, and its lowest bit says whether something is left over. -/
theorem divMag_spec {m n : Nat} (hn : 0 < n) (e f : Int) :
    let r := divMag m e n f
    let q : ℚ := m * 2 ^ e / (n * 2 ^ f)
    (r.1 % 2 = 0 → magVal r = q) ∧ (r.1 % 2 = 1 → ((r.1 - 1 : Nat) : ℚ) * 2 ^ r.2 < q ∧ q < ((r.1 + 1 : Nat) : ℚ) * 2 ^ r.2) ∧
      (0 < m → 2 ^ 96 ≤ r.1) := by
  set k := bitLen n + 96 with hk
  set Q := m <<< k / n with hQ
  have hdm : n * Q + m <<< k % n = m <<< k := Nat.div_add_mod (m <<< k) n
  have hmod := Nat.mod_lt (m <<< k) hn
  have hnq : (0 : ℚ) < n := by exact_mod_cast hn
  have hshift : ((m <<< k : Nat) : ℚ) = m * 2 ^ k := by rw [Nat.shiftLeft_eq]; push_cast; rfl
  have hexp : (2 : ℚ) ^ (e - f - k - 1) = 2 ^ e / 2 ^ f / 2 ^ k / 2 := by
    rw [zpow_sub₀ two_ne_zero, zpow_sub₀ two_ne_zero, zpow_sub₀ two_ne_zero, zpow_natCast, zpow_one]
  have hpos : (0 : ℚ) < 2 ^ e / 2 ^ f / 2 ^ k := by positivity
  have hquot : (m : ℚ) * 2 ^ e / (n * 2 ^ f) = ((m <<< k : Nat) : ℚ) / n * (2 ^ e / 2 ^ f / 2 ^ k) := by
    rw [hshift]
    field_simp
  have hlow (h0 : 0 < m) : 2 ^ 96 ≤ Q := by
    obtain ⟨-, hlt, -⟩ := bitLen_spec hn.ne'
    rw [hQ, Nat.le_div_iff_mul_le hn, Nat.shiftLeft_eq, hk, pow_add]
    calc 2 ^ 96 * n ≤ 2 ^ bitLen n * 2 ^ 96 := by rw [mul_comm]; exact Nat.mul_le_mul_right _ hlt.le
      _ ≤ m * (2 ^ bitLen n * 2 ^ 96) := Nat.le_mul_of_pos_left _ h0
  by_cases hr : m <<< k % n = 0
  · have hdiv : divMag m e n f = (2 * Q, e - f - k - 1) := by simp [divMag, ← hk, ← hQ, hr]
    rw [hdiv]
    refine ⟨fun _ => ?_, fun h => by simp at h, fun h0 => by have := hlow h0; dsimp only; omega⟩
    have hex : ((m <<< k : Nat) : ℚ) = n * Q := by exact_mod_cast (by rw [hr] at hdm; exact hdm.symm)
    rw [hquot, hex, magVal, hexp]
    push_cast
    field_simp
  · have hdiv : divMag m e n f = (2 * Q + 1, e - f - k - 1) := by simp [divMag, ← hk, ← hQ, hr]
    rw [hdiv]
    refine ⟨fun h => by dsimp only at h; omega, fun _ => ?_, fun h0 => by have := hlow h0; dsimp only; omega⟩
    obtain ⟨hbelow, habove⟩ : Q * n < m <<< k ∧ m <<< k < (Q + 1) * n := by
      rw [Nat.succ_mul, Nat.mul_comm Q n]
      generalize m <<< k = N at hdm hmod hr ⊢
      omega
    have hlo : (Q : ℚ) < ((m <<< k : Nat) : ℚ) / n := by
      rw [lt_div_iff₀ hnq]
      exact_mod_cast hbelow
    have hhi : ((m <<< k : Nat) : ℚ) / n < Q + 1 := by
      rw [div_lt_iff₀ hnq]
      exact_mod_cast habove
    have h1 : ((2 * Q + 1 - 1 : Nat) : ℚ) * 2 ^ (e - f - k - 1) = Q * (2 ^ e / 2 ^ f / 2 ^ k) := by
      rw [hexp, Nat.add_sub_cancel]
      push_cast
      ring
    have h2 : ((2 * Q + 1 + 1 : Nat) : ℚ) * 2 ^ (e - f - k - 1) = (Q + 1) * (2 ^ e / 2 ^ f / 2 ^ k) := by
      rw [hexp]
      push_cast
      ring
    rw [h1, h2, hquot]
    exact ⟨mul_lt_mul_of_pos_right hlo hpos, mul_lt_mul_of_pos_right hhi hpos⟩

/-- A quotient with its sticky bit is at most twice the exact one. -/
theorem divMag_le {m n : Nat} (hn : 0 < n) (e f : Int) : magVal (divMag m e n f) ≤ 2 * (m * 2 ^ e / (n * 2 ^ f)) := by
  obtain ⟨heven, hodd, -⟩ := divMag_spec (m := m) hn e f
  have hq : (0 : ℚ) ≤ m * 2 ^ e / (n * 2 ^ f) := by positivity
  rcases Nat.mod_two_eq_zero_or_one (divMag m e n f).1 with h | h
  · rw [heven h]
    linarith
  · obtain ⟨hlo, -⟩ := hodd h
    by_cases hm : m = 0
    · subst hm
      have : (divMag 0 e n f).1 = 0 := by simp [divMag]
      omega
    · have h96 := (divMag_spec (m := m) hn e f).2.2 (Nat.pos_of_ne_zero hm)
      have hle : ((divMag m e n f).1 : ℚ) ≤ 2 * ((divMag m e n f).1 - 1 : Nat) := by
        exact_mod_cast (by omega : (divMag m e n f).1 ≤ 2 * ((divMag m e n f).1 - 1))
      have := mul_le_mul_of_nonneg_right hle (two_zpow_pos (divMag m e n f).2).le
      rw [magVal]
      linarith

/-! ## Scales (03 R59) -/

/-- The value of a UE8M8 scale: an FP32 magnitude of eight fraction bits. -/
def scaleMag (c : Nat) : ℚ := FFmt.mag .fp32 (2 ^ 15 * c)

theorem scaleMag_strictMono : StrictMono scaleMag := fun a b h =>
  FFmt.mag_strictMono .fp32 (Nat.mul_lt_mul_of_pos_left h (by decide))

theorem scaleMag_zero : scaleMag 0 = 0 := FFmt.mag_zero .fp32

theorem scaleMag_grid {k j : Nat} (hk : k ≤ 512) (hj : j = 0 ∨ 256 ≤ k) : scaleMag (k + j * 256) = k * 2 ^ ((j : Int) - 134) := by
  have h := FFmt.mag_grid .fp32 (k := 2 ^ 15 * k) (j := j) (by simp [FFmt.frac]; omega)
    (hj.imp_right fun h => by simp [FFmt.frac]; omega)
  have hcode : 2 ^ 15 * k + j * 2 ^ FFmt.frac .fp32 = 2 ^ 15 * (k + j * 256) := by
    rw [show 2 ^ FFmt.frac .fp32 = 2 ^ 15 * 256 from rfl]
    ring
  rw [hcode] at h
  rw [scaleMag, h, FFmt.grid, show (j : Int) - 134 = (j + 1 - (FFmt.bias .fp32 : Int) - (FFmt.frac .fp32 : Int)) + (15 : Nat) by
    simp [FFmt.bias, FFmt.frac]; ring, two_zpow_add_nat]
  push_cast
  ring

theorem scaleMag_eq (c : Nat) : scaleMag c =
    if c < 256 then (c : ℚ) / 2 ^ 134 else 2 ^ (((c / 256 : Nat) : Int) - 127) * (1 + ((c % 256 : Nat) : ℚ) / 256) := by
  split
  next h =>
    have := scaleMag_grid (k := c) (j := 0) (by omega) (.inl rfl)
    rw [Nat.zero_mul, Nat.add_zero] at this
    rw [this]
    norm_num
    ring
  next h =>
    have hdm := Nat.div_add_mod' c 256
    have := scaleMag_grid (k := 256 + c % 256) (j := c / 256 - 1) (by omega) (.inr (by omega))
    rw [show 256 + c % 256 + (c / 256 - 1) * 256 = c by omega] at this
    rw [this, show ((c / 256 : Nat) : Int) - 127 = ((c / 256 - 1 : Nat) : Int) - 134 + (8 : Nat) by omega, two_zpow_add_nat]
    push_cast
    ring

/-- What a scale code of 16 bits stands for. -/
theorem scaleVal_mag {c : Nat} (h : c < 2 ^ 16) : ∃ n f, scaleVal c = .fin false n f ∧ (n : ℚ) * 2 ^ f = scaleMag c ∧ (n = 0 ↔ c = 0) := by
  have he : bits 15 8 c = c / 256 := by simp [bits, Nat.shiftRight_eq_div_pow]; omega
  have hf : bits 7 0 c = c % 256 := by simp [bits]
  by_cases h0 : c / 256 = 0
  · refine ⟨c % 256, -134, by simp [scaleVal, he, hf, h0], ?_, by omega⟩
    have := scaleMag_grid (k := c) (j := 0) (by omega) (.inl rfl)
    rw [Nat.zero_mul, Nat.add_zero] at this
    rw [this, Nat.mod_eq_of_lt (by omega)]
    norm_num
  · refine ⟨256 + c % 256, (c / 256 : Nat) - 135, by simp [scaleVal, he, hf, h0], ?_, by omega⟩
    have := scaleMag_grid (k := 256 + c % 256) (j := c / 256 - 1) (by omega) (.inr (by omega))
    rw [show 256 + c % 256 + (c / 256 - 1) * 256 = c by omega] at this
    rw [this, show ((c / 256 - 1 : Nat) : Int) - 134 = (c / 256 : Nat) - 135 by omega]

/-! ## The least scale (03 R77) -/

/-- The scale code at or below a value: its exponent and fraction from the value's highest bits. -/
def scaleBelow (q : Nat) (s : Int) : Nat :=
  let e2 := s + bitLen q - 1
  let e := (max 0 (e2 + 127)).toNat
  let f := (splitAt q s (if e = 0 then -134 else e2 - 8)).1 % 256
  if e = 0 then f else e * 256 + f

theorem scaleBelow_spec {q : Nat} (hq : 2 ^ 8 ≤ q) (s : Int) : ∃ k j : Nat, scaleBelow q s = k + j * 256 ∧ k < 512 ∧
    (j = 0 ∨ 256 ≤ k) ∧ (k : ℚ) * 2 ^ ((j : Int) - 134) ≤ q * 2 ^ s ∧ (q : ℚ) * 2 ^ s < (k + 1) * 2 ^ ((j : Int) - 134) ∧
    s ≤ (j : Int) - 134 := by
  have hq0 : q ≠ 0 := by omega
  obtain ⟨hlo, hhi⟩ := mag_binade hq0 s
  have hlen : 9 ≤ bitLen q := by
    obtain ⟨-, hlt, -⟩ := bitLen_spec hq0
    have := (Nat.pow_lt_pow_iff_right (show 1 < 2 by decide)).mp (hq.trans_lt hlt)
    omega
  set e2 := s + bitLen q - 1 with he2
  obtain ⟨j, hj⟩ : ∃ j : Nat, (j : Int) = max 0 (e2 + 126) := ⟨(max 0 (e2 + 126)).toNat, by omega⟩
  obtain ⟨hsum, hrest⟩ := splitAt_spec q s ((j : Int) - 134)
  have hnn : (0 : ℚ) ≤ (splitAt q s ((j : Int) - 134)).2 * 2 ^ s := by positivity
  have hpos := two_zpow_pos ((j : Int) - 134)
  have hk : (splitAt q s ((j : Int) - 134)).1 < 512 := by
    have : ((splitAt q s ((j : Int) - 134)).1 : ℚ) < 512 := by
      refine lt_of_mul_lt_mul_right (a := (2 : ℚ) ^ ((j : Int) - 134)) ?_ hpos.le
      calc _ ≤ (q : ℚ) * 2 ^ s := by linarith
        _ < 2 ^ (e2 + 1) := hhi
        _ ≤ 2 ^ ((j : Int) - 134 + (9 : Nat)) := zpow_le_zpow_right₀ one_le_two (by omega)
        _ = 512 * 2 ^ ((j : Int) - 134) := by rw [two_zpow_add_nat]; norm_num
    exact_mod_cast this
  have hbelow : scaleBelow q s = (splitAt q s ((j : Int) - 134)).1 + j * 256 ∧
      (j = 0 ∨ 256 ≤ (splitAt q s ((j : Int) - 134)).1) := by
    by_cases hsub : e2 + 127 ≤ 0
    · have hj0 : j = 0 := by omega
      subst hj0
      have he : (max 0 (e2 + 127)).toNat = 0 := by omega
      have hk' : (splitAt q s (-134)).1 < 256 := by
        have : ((splitAt q s (-134)).1 : ℚ) < 256 := by
          refine lt_of_mul_lt_mul_right (a := (2 : ℚ) ^ (-134 : Int)) ?_ (two_zpow_pos _).le
          calc _ ≤ (q : ℚ) * 2 ^ s := by simpa using hsum ▸ (le_add_of_nonneg_right hnn)
            _ < 2 ^ (e2 + 1) := hhi
            _ ≤ 2 ^ ((-134 : Int) + (8 : Nat)) := zpow_le_zpow_right₀ one_le_two (by omega)
            _ = 256 * 2 ^ (-134 : Int) := by rw [two_zpow_add_nat]; norm_num
        exact_mod_cast this
      refine ⟨?_, .inl rfl⟩
      simp only [scaleBelow, ← he2, he, if_true]
      simp [Nat.mod_eq_of_lt hk']
    · have he : (max 0 (e2 + 127)).toNat = j + 1 := by omega
      have he8 : e2 - 8 = (j : Int) - 134 := by omega
      have hk' : 256 ≤ (splitAt q s ((j : Int) - 134)).1 := by
        have : (256 : ℚ) < (splitAt q s ((j : Int) - 134)).1 + 1 := by
          refine lt_of_mul_lt_mul_right (a := (2 : ℚ) ^ ((j : Int) - 134)) ?_ hpos.le
          calc (256 : ℚ) * 2 ^ ((j : Int) - 134) = 2 ^ ((j : Int) - 134 + (8 : Nat)) := by rw [two_zpow_add_nat]; norm_num
            _ = 2 ^ e2 := by congr 1; omega
            _ ≤ (q : ℚ) * 2 ^ s := hlo
            _ < _ := by linarith
        exact Nat.lt_succ_iff.mp (by exact_mod_cast this)
      refine ⟨?_, .inr hk'⟩
      simp only [scaleBelow, ← he2, he, Nat.succ_ne_zero, if_false, he8]
      omega
  exact ⟨_, j, hbelow.1, hk, hbelow.2, by linarith, by linarith, by omega⟩

/-- A scale lets Qmax reach a magnitude (R77). -/
def scaleReaches (am : Nat) (ae : Int) (qm : Nat) (qe : Int) (c : Nat) : Bool :=
  match scaleVal c with
  | .fin _ m e => magLe am ae (m * qm) (e + qe)
  | _ => false

theorem scaleReaches_iff (am : Nat) (ae : Int) (qm : Nat) (qe : Int) {c : Nat} (hc : c < 2 ^ 16) :
    scaleReaches am ae qm qe c = true ↔ (am : ℚ) * 2 ^ ae ≤ scaleMag c * (qm * 2 ^ qe) := by
  obtain ⟨n, f, hv, hm, -⟩ := scaleVal_mag hc
  simp only [scaleReaches, hv, magLe_iff]
  rw [← hm, zpow_add₀ two_ne_zero]
  push_cast
  rw [mul_mul_mul_comm]

theorem scaleFor_eq {am : Nat} (ham : am ≠ 0) (ae : Int) (qm : Nat) (qe : Int) :
    let k := bitLen qm + 40
    let c0 := scaleBelow ((am <<< k) / qm) (ae - qe - k)
    let c := if scaleReaches am ae qm qe c0 then c0 else c0 + 1
    scaleFor am ae qm qe = if 0xFEFF < c then (0xFEFF, true) else (c, false) := if_neg ham

/-- The scale of a candidate is the least that lets Qmax reach the largest magnitude, or the largest scale. -/
theorem scaleFor_spec {am qm : Nat} {ae qe : Int} (ham : am ≠ 0) (hqm : 0 < qm)
    (hmax : (am : ℚ) * 2 ^ ae < 2 ^ 128 * (qm * 2 ^ qe)) :
    let r := scaleFor am ae qm qe
    r.1 ≤ 0xFEFF ∧ (∀ c < r.1, scaleMag c * (qm * 2 ^ qe) < am * 2 ^ ae) ∧
      (r.1 ≠ 0xFEFF → (am : ℚ) * 2 ^ ae ≤ scaleMag r.1 * (qm * 2 ^ qe)) ∧
      (r.2 = true ↔ scaleMag 0xFEFF * (qm * 2 ^ qe) < am * 2 ^ ae) := by
  set k := bitLen qm + 40 with hk
  set q := (am <<< k) / qm with hq
  set s : Int := ae - qe - k with hs
  have hqmq : (0 : ℚ) < qm := by exact_mod_cast hqm
  have hQ : (0 : ℚ) < qm * 2 ^ qe := by positivity
  have hbig : 2 ^ 8 ≤ q := by
    obtain ⟨-, hlt, -⟩ := bitLen_spec hqm.ne'
    rw [hq, Nat.le_div_iff_mul_le hqm, Nat.shiftLeft_eq, hk, pow_add]
    calc 2 ^ 8 * qm ≤ 2 ^ 40 * 2 ^ bitLen qm := Nat.mul_le_mul (by decide) hlt.le
      _ = 2 ^ bitLen qm * 2 ^ 40 := mul_comm _ _
      _ ≤ am * (2 ^ bitLen qm * 2 ^ 40) := Nat.le_mul_of_pos_left _ (Nat.pos_of_ne_zero ham)
  -- the quotient of the magnitude by Qmax, to the bits that q keeps
  have hratio : (am : ℚ) * 2 ^ ae = ((am <<< k : Nat) : ℚ) / qm * 2 ^ s * (qm * 2 ^ qe) := by
    rw [Nat.shiftLeft_eq, hs, zpow_sub₀ two_ne_zero, zpow_sub₀ two_ne_zero, zpow_natCast]
    push_cast
    field_simp
  have hdm : qm * q + am <<< k % qm = am <<< k := Nat.div_add_mod _ _
  have hmod := Nat.mod_lt (am <<< k) hqm
  have hqlo : (q : ℚ) ≤ ((am <<< k : Nat) : ℚ) / qm := by
    rw [le_div_iff₀ hqmq]
    exact_mod_cast (by rw [mul_comm]; omega : q * qm ≤ am <<< k)
  have hqhi : ((am <<< k : Nat) : ℚ) / qm < q + 1 := by
    rw [div_lt_iff₀ hqmq]
    exact_mod_cast (by rw [Nat.succ_mul, mul_comm]; omega : am <<< k < (q + 1) * qm)
  obtain ⟨K, j, hc0, hK, hj, hlo, hhi, hsj⟩ := scaleBelow_spec hbig s
  have hbelow : scaleMag (scaleBelow q s) * (qm * 2 ^ qe) ≤ am * 2 ^ ae := by
    rw [hratio, hc0, scaleMag_grid hK.le hj]
    exact mul_le_mul_of_nonneg_right (hlo.trans (mul_le_mul_of_nonneg_right hqlo (two_zpow_pos s).le)) hQ.le
  have habove : (am : ℚ) * 2 ^ ae < scaleMag (scaleBelow q s + 1) * (qm * 2 ^ qe) := by
    have hnext : scaleMag (scaleBelow q s + 1) = (K + 1) * 2 ^ ((j : Int) - 134) := by
      have := scaleMag_grid (k := K + 1) (j := j) hK (hj.imp_right fun h => h.trans (Nat.le_succ K))
      rw [hc0, show K + j * 256 + 1 = K + 1 + j * 256 by ring, this]
      push_cast
      rfl
    obtain ⟨n, hn⟩ := Int.le.dest hsj
    have hpow : (2 : ℚ) ^ ((j : Int) - 134) = 2 ^ n * 2 ^ s := by rw [← hn, two_zpow_add_nat]
    rw [hpow, ← mul_assoc] at hhi
    have hint : q + 1 ≤ (K + 1) * 2 ^ n := by
      have := lt_of_mul_lt_mul_right hhi (two_zpow_pos s).le
      exact_mod_cast this
    rw [hratio, hnext, show ((K : ℚ) + 1) * 2 ^ ((j : Int) - 134) = (K + 1) * 2 ^ n * 2 ^ s by rw [hpow]; ring]
    refine mul_lt_mul_of_pos_right (mul_lt_mul_of_pos_right (hqhi.trans_le ?_) (two_zpow_pos s)) hQ
    exact_mod_cast hint
  have htop : scaleBelow q s ≤ 0xFEFF := by
    have h128 : scaleMag 0xFF00 = 2 ^ 128 := by
      have := scaleMag_grid (k := 256) (j := 254) (by decide) (.inr le_rfl)
      rw [show 256 + 254 * 256 = 0xFF00 by rfl] at this
      rw [this]
      norm_num
    have := lt_of_mul_lt_mul_right (hbelow.trans_lt hmax) hQ.le
    rw [← h128] at this
    have := scaleMag_strictMono.lt_iff_lt.mp this
    omega
  have hmono {a b : Nat} (h : a ≤ b) : scaleMag a * (qm * 2 ^ qe) ≤ scaleMag b * (qm * 2 ^ qe) :=
    mul_le_mul_of_nonneg_right (scaleMag_strictMono.monotone h) hQ.le
  have hstrict {a b : Nat} (h : a < b) : scaleMag a * (qm * 2 ^ qe) < scaleMag b * (qm * 2 ^ qe) :=
    mul_lt_mul_of_pos_right (scaleMag_strictMono h) hQ
  intro r
  have hr : r = _ := scaleFor_eq ham ae qm qe
  simp only [← hk, ← hq, ← hs] at hr
  by_cases hok : scaleReaches am ae qm qe (scaleBelow q s) = true
  · rw [hr, if_pos hok, if_neg (by omega)]
    have hreach := (scaleReaches_iff am ae qm qe (by omega)).mp hok
    exact ⟨htop, fun c hc => (hstrict hc).trans_le hbelow, fun _ => hreach, by
      simpa using hreach.trans (hmono htop)⟩
  · rw [hr, if_neg hok]
    have hmiss := not_le.mp ((scaleReaches_iff am ae qm qe (by omega)).not.mp hok)
    have hlower (c : Nat) (hc : c < scaleBelow q s + 1) : scaleMag c * (qm * 2 ^ qe) < am * 2 ^ ae :=
      (hmono (Nat.lt_succ_iff.mp hc)).trans_lt hmiss
    by_cases hclamp : 0xFEFF < scaleBelow q s + 1
    · rw [if_pos hclamp]
      exact ⟨le_rfl, fun c hc => hlower c (by omega), fun h => absurd rfl h, by simpa using hlower _ hclamp⟩
    · rw [if_neg hclamp]
      exact ⟨by omega, hlower, fun _ => habove.le, by
        simpa using habove.le.trans (hmono (by omega : scaleBelow q s + 1 ≤ 0xFEFF))⟩

end Sys2Proof.Machine
end

section
/-! PROOFS. The candidates of QUANT and the choice among them (03 R61, R68, R75, R77). -/

namespace Sys2Proof.Machine

/-! ## Results of a rounding to FP32 -/

/-- A value up to the largest finite one becomes a finite code. -/
theorem cvtF_finite (f : FFmt) {rm : Rm} (hrm : rm ≠ .sr) (s sat : Bool) (u : Nat) {m : Nat} {e : Int}
    (hy : (m : ℚ) * 2 ^ e ≤ f.mag f.maxCode) : ∃ c ≤ f.maxCode, (cvtF (.fin s m e) f rm sat u).1 = f.signBit s + c := by
  obtain ⟨c, hlo, hhi⟩ := f.exists_code m e
  rcases hlo.eq_or_lt with heq | hlt
  · have hc : c ≤ f.maxCode := f.mag_strictMono.le_iff_le.mp (hlo.trans hy)
    exact ⟨c, hc, by rw [cvtF_exact f rm s sat u m e hc heq.symm]⟩
  · have hc : c < f.maxCode := f.mag_strictMono.lt_iff_lt.mp (hlt.trans_le hy)
    obtain ⟨hup, hdown⟩ := cvtF_between f rm s sat u m e hc hlt hhi (roundsBetween_of_ne_sr hrm s m e _ u)
    by_cases h : roundsUp rm s u (m * 2 ^ e) (f.mag c) (f.mag (c + 1) - f.mag c) (c % 2 = 1)
    · exact ⟨c + 1, hc, by rw [hup h]⟩
    · exact ⟨c, hc.le, by rw [hdown h]⟩

theorem dec32_rne32 (s : Bool) {m : Nat} {e : Int} (hy : (m : ℚ) * 2 ^ e ≤ FFmt.mag .fp32 (FFmt.maxCode .fp32)) :
    ∃ p q, dec32 (rne32 (.fin s m e)).1 = .fin s p q := by
  obtain ⟨c, hc, h⟩ := cvtF_finite .fp32 (show Rm.rne ≠ .sr by decide) s false 0 hy
  obtain ⟨p, q, hd, -⟩ := decF_finite .fp32 s hc
  exact ⟨p, q, by rw [rne32, h]; exact hd⟩

theorem signBit_lt (s : Bool) {c : Nat} (hc : c < 2 ^ 31) : FFmt.signBit .fp32 s + c < 2 ^ 32 := by
  cases s
  · simp only [FFmt.signBit, Bool.false_eq_true, if_false]; omega
  · simp only [FFmt.signBit, FFmt.width, if_true]; omega

/-- RNE32 gives a code of FP32. -/
theorem rne32_lt (x : X) : (rne32 x).1 < 2 ^ 32 := by
  have hmax : FFmt.maxCode .fp32 < 2 ^ 31 := by decide
  cases x with
  | nan => decide
  | inf s => cases s <;> decide
  | fin s m e =>
    rcases le_or_gt ((m : ℚ) * 2 ^ e) (FFmt.mag .fp32 (FFmt.maxCode .fp32)) with hy | hy
    · obtain ⟨c, hc, h⟩ := cvtF_finite .fp32 (show Rm.rne ≠ .sr by decide) s false 0 hy
      rw [rne32, h]
      exact signBit_lt s (hc.trans_lt hmax)
    · obtain ⟨hback, hclamp, hinf⟩ := cvtF_beyond .fp32 .rne s false 0 m e hy
      by_cases hb : (m : ℚ) * 2 ^ e < FFmt.mag .fp32 (FFmt.maxCode .fp32) +
          (FFmt.mag .fp32 (FFmt.maxCode .fp32) - FFmt.mag .fp32 (FFmt.maxCode .fp32 - 1)) ∧ Rm.rne ≠ .sr ∧
          ¬roundsUp .rne s 0 (m * 2 ^ e) (FFmt.mag .fp32 (FFmt.maxCode .fp32))
            (FFmt.mag .fp32 (FFmt.maxCode .fp32) - FFmt.mag .fp32 (FFmt.maxCode .fp32 - 1)) (FFmt.maxCode .fp32 % 2 = 1)
      · rw [rne32, hback hb]
        exact signBit_lt s hmax
      · by_cases hc : FFmt.clamps .fp32 .rne false s
        · rw [rne32, hclamp hb hc]
          exact signBit_lt s hmax
        · rw [rne32, hinf hb hc, FFmt.infCode_eq]
          exact signBit_lt s (by decide)

theorem fadd_lt (a b : Nat) : (fadd a b).1 < 2 ^ 32 := rne32_lt _

theorem treeSum_lt (n : Nat) {l : List Nat} (hl : ∀ x ∈ l, x < 2 ^ 32) : (treeSum n l).1 < 2 ^ 32 := by
  induction n generalizing l with
  | zero =>
    cases l with
    | nil => decide
    | cons x l => exact hl x List.mem_cons_self
  | succ n ih =>
    refine ih fun x hx => ?_
    simp only [List.mem_map] at hx
    obtain ⟨p, hp, rfl⟩ := hx
    obtain ⟨i, hi, rfl⟩ := List.mem_iff_getElem.mp hp
    rw [List.getElem_zipWith]
    exact fadd_lt _ _

/-- A decoded value is no larger than the largest finite one. -/
theorem dec32_le {c : Nat} (hc : c < 2 ^ 32) {s : Bool} {m : Nat} {e : Int} (h : dec32 c = .fin s m e) :
    (m : ℚ) * 2 ^ e ≤ FFmt.mag .fp32 (FFmt.maxCode .fp32) := by
  have hk := dec32_kind hc
  rw [h] at hk
  cases hk with
  | fin s r m e hx hr hv =>
    rw [hv]
    exact (FFmt.mag_strictMono .fp32).monotone (Nat.le_of_lt_succ hr)

/-! ## The Hadamard step keeps the length and gives FP32 codes (03 R75) -/

theorem hadStep_length (s : Nat) (l : List Nat) : (hadStep s l).1.length = l.length := by
  simp [hadStep]

theorem hadRun_length (h : Nat) (l : List Nat) : (hadRun h l).1.length = l.length := by
  have hfold (steps : List Nat) (p : List Nat × FpFlags) : (steps.foldl (fun (p : List Nat × FpFlags) s =>
      let (q, g) := hadStep s p.1
      (q, p.2 ||| g)) p).1.length = p.1.length := by
    induction steps generalizing p with
    | nil => rfl
    | cons s steps ih => rw [List.foldl_cons, ih]; exact hadStep_length s p.1
  simp only [hadRun, List.length_map]
  exact hfold _ _

theorem hadRun_lt (h : Nat) (l : List Nat) : ∀ x ∈ (hadRun h l).1, x < 2 ^ 32 := by
  intro x hx
  simp only [hadRun, List.map_map, List.mem_map] at hx
  obtain ⟨y, -, rfl⟩ := hx
  exact rne32_lt _

theorem hadBlock_length (h n : Nat) (l : List Nat) (hl : l.length = h * n) : (hadBlock h n l).1.length = l.length := by
  induction n generalizing l with
  | zero => simp_all [hadBlock]
  | succ n ih =>
    rw [Nat.mul_succ] at hl
    simp only [hadBlock, List.length_append, hadRun_length]
    rw [ih _ (by rw [List.length_drop]; omega), List.length_take, List.length_drop]
    omega

theorem hadBlock_lt (h n : Nat) (l : List Nat) : ∀ x ∈ (hadBlock h n l).1, x < 2 ^ 32 := by
  induction n generalizing l with
  | zero => simp [hadBlock]
  | succ n ih =>
    intro x hx
    simp only [hadBlock, List.mem_append] at hx
    rcases hx with hx | hx
    · exact hadRun_lt h _ x hx
    · exact ih _ x hx

/-! ## The largest finite magnitude -/

/-- The magnitude of a finite value; 0 for the others. -/
def X.size (x : X) : ℚ :=
  match x with
  | .fin _ m e => m * 2 ^ e
  | _ => 0

/-- The larger of a magnitude and a code's. -/
def largerFin (p : Nat × Int) (c : Nat) : Nat × Int :=
  match dec32 c with
  | .fin _ m e => if magLt p.1 p.2 m e then (m, e) else p
  | _ => p

/-- The largest finite magnitude among codes. -/
def finMax (l : List Nat) : Nat × Int := (l.filter fun c => (dec32 c).isFin).foldl largerFin (0, 0)

theorem magVal_nonneg (p : Nat × Int) : 0 ≤ magVal p := by
  unfold magVal
  positivity

theorem largerFin_spec (p : Nat × Int) (c : Nat) : magVal p ≤ magVal (largerFin p c) ∧ (dec32 c).size ≤ magVal (largerFin p c) ∧
    (largerFin p c = p ∨ (dec32 c).size = magVal (largerFin p c)) := by
  unfold largerFin
  cases hd : dec32 c with
  | fin s m e =>
    by_cases h : magLt p.1 p.2 m e = true
    · have hlt := (magLt_iff _ _ _ _).mp h
      simp only [h, if_true]
      exact ⟨hlt.le, le_rfl, .inr rfl⟩
    · have hle := not_lt.mp ((magLt_iff _ _ _ _).not.mp h)
      simp only [h]
      exact ⟨le_rfl, hle, .inl rfl⟩
  | inf s => exact ⟨le_rfl, magVal_nonneg p, .inl rfl⟩
  | nan => exact ⟨le_rfl, magVal_nonneg p, .inl rfl⟩

theorem foldl_largerFin (l : List Nat) (p : Nat × Int) : magVal p ≤ magVal (l.foldl largerFin p) ∧
    (∀ c ∈ l, (dec32 c).size ≤ magVal (l.foldl largerFin p)) ∧
    (l.foldl largerFin p = p ∨ ∃ c ∈ l, (dec32 c).size = magVal (l.foldl largerFin p)) := by
  induction l generalizing p with
  | nil => exact ⟨le_rfl, by simp, .inl rfl⟩
  | cons c l ih =>
    obtain ⟨hge, hall, hattained⟩ := ih (largerFin p c)
    obtain ⟨hp, hc, hstep⟩ := largerFin_spec p c
    rw [List.foldl_cons]
    refine ⟨hp.trans hge, List.forall_mem_cons.mpr ⟨hc.trans hge, hall⟩, ?_⟩
    rcases hattained with h | ⟨d, hd, h⟩
    · rw [h]
      rcases hstep with h' | h'
      · exact .inl h'
      · exact .inr ⟨c, List.mem_cons_self, h'⟩
    · exact .inr ⟨d, List.mem_cons_of_mem _ hd, h⟩

theorem finMax_spec (l : List Nat) : (∀ c ∈ l, (dec32 c).size ≤ magVal (finMax l)) ∧
    (magVal (finMax l) = 0 ∨ ∃ c ∈ l, (dec32 c).size = magVal (finMax l)) := by
  obtain ⟨-, hall, hattained⟩ := foldl_largerFin (l.filter fun c => (dec32 c).isFin) (0, 0)
  refine ⟨fun c hc => ?_, ?_⟩
  · cases hd : dec32 c with
    | fin s m e =>
      rw [← hd]
      exact hall c (List.mem_filter.mpr ⟨hc, by rw [hd, X.isFin]⟩)
    | inf s => exact magVal_nonneg _
    | nan => exact magVal_nonneg _
  · rcases hattained with h | ⟨c, hc, h⟩
    · left
      rw [finMax, h]
      simp [magVal]
    · exact .inr ⟨c, (List.mem_filter.mp hc).1, h⟩

/-! ## One candidate of QUANT (03 R68, R77) -/

/-- The quotient of a finite value by a scale, rounded to FP32. -/
def scaledDown (sc : Nat) (neg : Bool) (m : Nat) (e : Int) (k : Nat) (f : Int) : X :=
  if sc = 0 then .fin neg 0 0 else dec32 (rne32 (.fin neg (divMag m e k f).1 (divMag m e k f).2)).1

/-- How QUANT codes element i of value c under a scale: the code, the squared error, the flags. -/
def quantElem (wc : Bool) (sel : Nat) (rm : Rm) (sv : X) (u : Nat → Nat) (i c : Nat) : Nat × Nat × FpFlags :=
  match dec32 c with
  | .fin s m e =>
    let y : X := match sv with
      | .fin _ n f => if n = 0 then .fin s 0 0 else
          let (q, g) := divMag m e n f
          dec32 (rne32 (.fin s q g)).1
      | _ => .fin s 0 0
    let code := match y with
      | .fin t n f => roundSel wc sel rm t n f (u i)
      | _ => signCode wc sel s (magCodes wc sel - 1)
    let d := (rne32 ((decSel wc sel code).mul sv).1).1
    let r := (fsub c d).1
    (code, (fmul r r).1, 0)
  | x =>
    let f : FFmt := if sel = 1 then .e4m3 else .e5m2
    if wc && (sel = 1 || sel = 2) then
      let (k, fl) := cvtF x f .rne false
      (k, 0, fl)
    else (0, 0, 0)

/-- The scale of a candidate and whether it was clamped. -/
def selScale (am : Nat) (ae : Int) (wc : Bool) (sel : Nat) : Nat × Bool := scaleFor am ae (qmax wc sel).1 (qmax wc sel).2

theorem quantSel_eq (xs : List Nat) (am : Nat) (ae : Int) (wc : Bool) (sel : Nat) (rm : Rm) (u : Nat → Nat) :
    let sc := selScale am ae wc sel
    let r := (List.range xs.length).map fun i => quantElem wc sel rm (scaleVal sc.1) u i (xs.getD i 0)
    quantSel xs am ae wc sel rm u = (sc.1, sc.2, r.map (·.1), (treeSum 8 (r.map (·.2.1))).1,
      r.foldl (fun f x => f ||| x.2.2) 0) := by
  have hzip : (List.range xs.length).zip xs = (List.range xs.length).map fun i => (i, xs.getD i 0) := by
    refine List.ext_getElem (by simp) fun i h1 h2 => ?_
    have hi : i < xs.length := by simpa using h1
    simp [hi]
  intro sc r
  have hr : r = ((List.range xs.length).zip xs).map fun p => quantElem wc sel rm (scaleVal sc.1) u p.1 p.2 := by
    rw [hzip, List.map_map]
    rfl
  rw [hr]
  rfl

/-- A candidate's scale is small enough that every quotient is finite and large enough that Qmax reaches the magnitude. -/
theorem selScale_spec {am : Nat} {ae : Int} (wc : Bool) {sel : Nat} (hsel : sel < 4)
    (hmax : (am : ℚ) * 2 ^ ae ≤ FFmt.mag .fp32 (FFmt.maxCode .fp32)) :
    let r := selScale am ae wc sel
    let a : ℚ := am * 2 ^ ae
    r.1 ≤ 0xFEFF ∧ (∀ c < r.1, scaleMag c * magVal (qmax wc sel) < a) ∧
      (r.1 ≠ 0xFEFF → a ≤ scaleMag r.1 * magVal (qmax wc sel)) ∧
      (r.2 = true ↔ scaleMag 0xFEFF * magVal (qmax wc sel) < a) := by
  have hq : ∀ wc, ∀ sel < 4, 0 < (qmax wc sel).1 := by decide
  have h1 : ∀ wc, ∀ sel < 4, magLe 1 0 (qmax wc sel).1 (qmax wc sel).2 = true := by decide
  have hone : (1 : ℚ) ≤ magVal (qmax wc sel) := by simpa [magVal] using (magLe_iff _ _ _ _).mp (h1 wc sel hsel)
  by_cases ham : am = 0
  · subst ham
    have h0 : selScale 0 ae wc sel = (0, false) := rfl
    simp only [h0, Nat.cast_zero, zero_mul, scaleMag_zero]
    have hpos : 0 ≤ scaleMag 0xFEFF := FFmt.mag_nonneg _ _
    refine ⟨by omega, by simp, fun _ => le_rfl, by simp, fun h => ?_⟩
    have := mul_nonneg hpos (zero_le_one.trans hone)
    linarith
  · have h128 : FFmt.mag .fp32 (FFmt.maxCode .fp32) < 2 ^ 128 := by
      norm_num [FFmt.mag, FFmt.maxCode, FFmt.frac, FFmt.bias]
    exact scaleFor_spec ham (hq wc sel hsel) (hmax.trans_lt (h128.trans_le (le_mul_of_one_le_right (by norm_num) hone)))

/-! ## The block that QUANT codes (03 R75, R77) -/

/-- The values of a block after the padding and the Hadamard step, with the step's flags. -/
def quantStep (xs : List Nat) (n had : Nat) : List Nat × FpFlags :=
  let h := [0, 16, 64, 256].getD had 0
  let padded := xs.take n ++ List.replicate (256 - n) 0
  if h = 0 then (padded, 0) else hadBlock h (256 / h) padded

section
variable {xs : List Nat} {n had : Nat} (hlen : xs.length = 256) (hn : n ≤ 256) (hhad : had < 4)
include hlen hn hhad

theorem quantStep_length : (quantStep xs n had).1.length = 256 := by
  have hpad : (xs.take n ++ List.replicate (256 - n) 0).length = 256 := by simp; omega
  simp only [quantStep]
  split
  · exact hpad
  next h0 =>
    rw [hadBlock_length, hpad]
    rw [hpad]
    interval_cases had <;> simp_all

omit hlen hn hhad in
theorem quantStep_lt (hxs : ∀ x ∈ xs, x < 2 ^ 32) : ∀ x ∈ (quantStep xs n had).1, x < 2 ^ 32 := by
  simp only [quantStep]
  split
  · intro x hx
    rcases List.mem_append.mp hx with h | h
    · exact hxs x (List.mem_of_mem_take h)
    · rw [(List.mem_replicate.mp h).2]
      decide
  · exact hadBlock_lt _ _ _

end

/-! ## The candidates and the choice among them (03 R77) -/

/-- The enabled selectors; where something is not finite, those that code it, if one of them is enabled. -/
def quantSels (ys : List Nat) (wc : Bool) (en : Nat) : List Nat :=
  let c0 := [0, 1, 2, 3].filter fun s => en.testBit s
  if (!decide ((ys.filter fun c => (dec32 c).isFin).length = ys.length) && wc && (en.testBit 1 || en.testBit 2)) then
    c0.filter (fun s => s = 1 || s = 2) else c0

/-- What QUANT knows of a candidate: scale, clamping, codes, error, flags. -/
abbrev QCand := Nat × Bool × List Nat × Nat × FpFlags

/-- The better of two candidates: the first unless the second's error is less. -/
def betterCand (b : Option (Nat × QCand)) (p : Nat × QCand) : Option (Nat × QCand) :=
  match b with
  | none => some p
  | some q => if (dec32 p.2.2.2.2.1).keyLt (dec32 q.2.2.2.2.1) then some p else some q

/-- The candidate of a selector. -/
def quantCand (ys : List Nat) (wc : Bool) (rm : Rm) (u : Nat → Nat) (sel : Nat) : QCand :=
  quantSel ys (finMax ys).1 (finMax ys).2 wc sel rm u

/-- INVALID where something is not finite and no enabled selector codes it. -/
def quantInvalid (ys : List Nat) (wc : Bool) (en : Nat) : FpFlags :=
  if (!decide ((ys.filter fun c => (dec32 c).isFin).length = ys.length) && !(wc && (en.testBit 1 || en.testBit 2))) then
    fINVALID else 0

/-- The flags of QUANT: those of the Hadamard step, of what is not coded, of the scales, of the candidates. -/
def quantFlags (hf : FpFlags) (ys : List Nat) (wc : Bool) (en : Nat) (cands : List (Nat × QCand)) : FpFlags :=
  hf ||| quantInvalid ys wc en ||| (if cands.any (fun p => p.2.2.1) then fOVERFLOW else 0) |||
    cands.foldl (fun f p => f ||| p.2.2.2.2.2) 0

theorem quant_eq {xs : List Nat} {n had : Nat} (hlen : xs.length = 256) (hn : n ≤ 256) (hhad : had < 4) (wc : Bool) (en : Nat)
    (rm : Rm) (u : Nat → Nat) :
    let ys := (quantStep xs n had).1
    let cands := (quantSels ys wc en).map fun s => (s, quantCand ys wc rm u s)
    quant xs n wc en rm had u = match cands.foldl betterCand none with
      | none => (mkHdr 0 0 wc (min 255 (256 - n)), List.replicate 256 0, (quantStep xs n had).2)
      | some (s, sc, _, codes, _) => (mkHdr sc s wc (min 255 (256 - n)), codes,
        quantFlags (quantStep xs n had).2 ys wc en cands) := by
  have hmin : 256 - min n xs.length = 256 - n := by omega
  have hsize : hadSize had = [0, 16, 64, 256].getD had 0 := by interval_cases had <;> rfl
  have hstep : (if hadSize had = 0 then (xs.take n ++ List.replicate (256 - min n xs.length) 0, (0 : FpFlags))
      else hadBlock (hadSize had) (256 / hadSize had) (xs.take n ++ List.replicate (256 - min n xs.length) 0)) =
      quantStep xs n had := by
    rw [hmin, hsize]
    rfl
  intro ys cands
  unfold quant
  simp only [hstep]
  rfl

/-- The choice by least error, the first of equal ones, given an order of the errors. -/
theorem foldl_betterCand {l : List (Nat × QCand)} {x : Nat × QCand} (hlt : ∀ p ∈ x :: l, p.2.2.2.2.1 < 2 ^ 32)
    (hord : (x :: l).Pairwise fun p q => p.1 < q.1) : ∃ b ∈ x :: l, l.foldl betterCand (some x) = some b ∧
      ∀ p ∈ x :: l, keyRank b.2.2.2.2.1 ≤ keyRank p.2.2.2.2.1 ∧
        (keyRank p.2.2.2.2.1 ≤ keyRank b.2.2.2.2.1 → b.1 ≤ p.1) := by
  induction l generalizing x with
  | nil =>
    refine ⟨x, List.mem_singleton_self x, rfl, fun p hp => ?_⟩
    rw [List.mem_singleton.mp hp]
    exact ⟨le_rfl, fun _ => le_rfl⟩
  | cons y l ih =>
    simp only [List.forall_mem_cons, List.pairwise_cons] at hlt hord
    obtain ⟨hx, hy, hl⟩ := hlt
    obtain ⟨⟨hxy, hxl⟩, hyl, hl'⟩ := hord
    have hkey : (dec32 y.2.2.2.2.1).keyLt (dec32 x.2.2.2.2.1) = decide (keyRank y.2.2.2.2.1 < keyRank x.2.2.2.2.1) :=
      dec32_keyLt hy hx
    rw [List.foldl_cons]
    by_cases h : keyRank y.2.2.2.2.1 < keyRank x.2.2.2.2.1
    · have hstep : betterCand (some x) y = some y := by simp only [betterCand, hkey, h, decide_true, if_true]
      obtain ⟨b, hb, hfold, hbest⟩ := ih (x := y) (List.forall_mem_cons.mpr ⟨hy, hl⟩) (List.pairwise_cons.mpr ⟨hyl, hl'⟩)
      refine ⟨b, List.mem_cons_of_mem _ hb, by rw [hstep, hfold], List.forall_mem_cons.mpr ⟨?_, hbest⟩⟩
      have hby := (hbest y List.mem_cons_self).1
      exact ⟨by omega, fun hle => by omega⟩
    · have hstep : betterCand (some x) y = some x := by
        simp only [betterCand, hkey, h, decide_false, Bool.false_eq_true, if_false]
      obtain ⟨b, hb, hfold, hbest⟩ := ih (x := x) (List.forall_mem_cons.mpr ⟨hx, hl⟩) (List.pairwise_cons.mpr ⟨hxl, hl'⟩)
      obtain ⟨hfirst, hrest⟩ := List.forall_mem_cons.mp hbest
      refine ⟨b, ?_, by rw [hstep, hfold], List.forall_mem_cons.mpr ⟨hfirst, List.forall_mem_cons.mpr ⟨?_, hrest⟩⟩⟩
      · rcases List.mem_cons.mp hb with rfl | hb
        · exact List.mem_cons_self
        · exact List.mem_cons_of_mem _ (List.mem_cons_of_mem _ hb)
      · exact ⟨by omega, fun hle => (hfirst.2 (by omega)).trans hxy.le⟩

/-- Something of a block is not finite. -/
theorem allFinite_iff (ys : List Nat) : (ys.filter fun c => (dec32 c).isFin).length = ys.length ↔ ∀ c ∈ ys, (dec32 c).isFin = true := by
  rw [List.length_filter_eq_length_iff]

theorem mem_quantSels {ys : List Nat} {wc : Bool} {en t : Nat} : t ∈ quantSels ys wc en ↔ t < 4 ∧ en.testBit t = true ∧
    ((∀ c ∈ ys, (dec32 c).isFin = true) ∨ ¬(wc = true ∧ (en.testBit 1 = true ∨ en.testBit 2 = true)) ∨ t = 1 ∨ t = 2) := by
  have h4 : t ∈ [0, 1, 2, 3] ↔ t < 4 := by simp; omega
  simp only [quantSels, allFinite_iff]
  split
  next h =>
    simp only [Bool.and_eq_true, Bool.not_eq_true', decide_eq_false_iff_not, Bool.or_eq_true] at h
    simp only [List.mem_filter, h4, Bool.or_eq_true, decide_eq_true_eq]
    tauto
  next h =>
    simp only [Bool.and_eq_true, Bool.not_eq_true', decide_eq_false_iff_not, Bool.or_eq_true] at h
    simp only [List.mem_filter, h4]
    tauto

theorem quantSels_pairwise (ys : List Nat) (wc : Bool) (en : Nat) : (quantSels ys wc en).Pairwise (· < ·) := by
  have h : [0, 1, 2, 3].Pairwise (fun a b : Nat => a < b) := by decide
  simp only [quantSels]
  split
  · exact (h.filter _).filter _
  · exact h.filter _

theorem quantSels_ne_nil (ys : List Nat) (wc : Bool) {en : Nat} (h1 : 1 ≤ en) (h16 : en < 16) : quantSels ys wc en ≠ [] := by
  have hsome : ∀ en, 1 ≤ en → en < 16 → ∃ t < 4, en.testBit t = true := by decide
  obtain ⟨t, ht, hbit⟩ := hsome en h1 h16
  suffices ∃ t, t ∈ quantSels ys wc en by
    obtain ⟨t, ht⟩ := this
    exact List.ne_nil_of_mem ht
  simp only [mem_quantSels]
  by_cases hf : wc = true ∧ (en.testBit 1 = true ∨ en.testBit 2 = true)
  · rcases hf.2 with h | h
    · exact ⟨1, by decide, h, .inr (.inr (.inl rfl))⟩
    · exact ⟨2, by decide, h, .inr (.inr (.inr rfl))⟩
  · exact ⟨t, ht, hbit, .inr (.inl hf)⟩

/-! ## The flags of QUANT -/

/-- Flags that are all 0 or all the same. -/
theorem foldl_or_flag {α : Type} (g : α → FpFlags) (v : FpFlags) (l : List α) (h : ∀ x ∈ l, g x = 0 ∨ g x = v)
    (f : FpFlags) : l.foldl (fun f x => f ||| g x) f = f ||| (if ∃ x ∈ l, g x = v then v else 0) := by
  induction l generalizing f with
  | nil => simp
  | cons x l ih =>
    obtain ⟨hx, hl⟩ := List.forall_mem_cons.mp h
    rw [List.foldl_cons, ih hl]
    simp only [List.exists_mem_cons_iff]
    by_cases hv : g x = v
    · by_cases he : ∃ x ∈ l, g x = v <;> simp [hv, he, BitVec.or_assoc]
    · simp only [hv, false_or]
      rw [hx.resolve_right hv]
      simp

/-- What a candidate makes of what is not finite: its conversion where the selector's codes hold it (R68). -/
def specialCode (wc : Bool) (sel : Nat) (x : X) : Nat × FpFlags :=
  if wc = true ∧ (sel = 1 ∨ sel = 2) then cvtF x (if sel = 1 then .e4m3 else .e5m2) .rne false else (0, 0)

theorem quantElem_special (wc : Bool) (sel : Nat) (rm : Rm) (sv : X) (u : Nat → Nat) (i : Nat) {c : Nat}
    (h : (dec32 c).isFin = false) : quantElem wc sel rm sv u i c =
      ((specialCode wc sel (dec32 c)).1, 0, (specialCode wc sel (dec32 c)).2) := by
  have hcode (x : X) : (if wc && (sel = 1 || sel = 2) then
      ((cvtF x (if sel = 1 then .e4m3 else .e5m2) .rne false).1, 0, (cvtF x (if sel = 1 then .e4m3 else .e5m2) .rne false).2)
      else (0, 0, 0)) = ((specialCode wc sel x).1, 0, (specialCode wc sel x).2) := by
    by_cases hs : wc = true ∧ (sel = 1 ∨ sel = 2)
    · rw [specialCode, if_pos hs, if_pos (by simpa using hs)]
    · rw [specialCode, if_neg hs, if_neg (by simpa using hs)]
  unfold quantElem
  cases hd : dec32 c with
  | fin s m e => simp [hd, X.isFin] at h
  | nan => exact hcode .nan
  | inf s => exact hcode (.inf s)

/-- Only an infinity of a candidate with E4M3 codes sets a flag. -/
theorem quantElem_flags (wc : Bool) (sel : Nat) (rm : Rm) (sv : X) (u : Nat → Nat) (i c : Nat) :
    (quantElem wc sel rm sv u i c).2.2 = if wc = true ∧ sel = 1 ∧ ∃ b, dec32 c = .inf b then fOVERFLOW else 0 := by
  cases hd : dec32 c with
  | fin s m e => simp [quantElem, hd]
  | nan =>
    rw [quantElem_special _ _ _ _ _ _ (by rw [hd]; rfl), hd, if_neg (by simp)]
    unfold specialCode
    split
    · split <;> rfl
    · rfl
  | inf s =>
    rw [quantElem_special _ _ _ _ _ _ (by rw [hd]; rfl), hd]
    unfold specialCode
    by_cases h1 : sel = 1
    · cases wc
      · simp
      · simp only [h1, true_or, and_true, if_true, X.inf.injEq, exists_eq', cvtF]
        rfl
    · simp only [h1, false_or, false_and, and_false, if_false]
      split <;> rfl

/-- A candidate's flags. -/
theorem quantCand_flags (ys : List Nat) (wc : Bool) (rm : Rm) (u : Nat → Nat) (sel : Nat) :
    (quantCand ys wc rm u sel).2.2.2.2 = if wc = true ∧ sel = 1 ∧ ∃ c ∈ ys, ∃ b, dec32 c = .inf b then fOVERFLOW else 0 := by
  have hne : ¬(0 : FpFlags) = fOVERFLOW := by decide
  rw [quantCand, quantSel_eq]
  dsimp only
  rw [foldl_or_flag (fun x : Nat × Nat × FpFlags => x.2.2) fOVERFLOW]
  · refine (BitVec.zero_or).trans (if_congr ?_ rfl rfl)
    simp only [List.mem_map, List.mem_range, exists_exists_and_eq_and, quantElem_flags, ite_eq_left_iff, hne, imp_false, not_not]
    constructor
    · rintro ⟨i, hi, hw, hs, hb⟩
      exact ⟨hw, hs, ys.getD i 0, by rw [List.getD_eq_getElem _ _ hi]; exact List.getElem_mem hi, hb⟩
    · rintro ⟨hw, hs, c, hc, hb⟩
      obtain ⟨i, hi, rfl⟩ := List.mem_iff_getElem.mp hc
      exact ⟨i, hi, hw, hs, by rw [List.getD_eq_getElem _ _ hi]; exact hb⟩
  · intro x hx
    obtain ⟨i, -, rfl⟩ := List.mem_map.mp hx
    rw [quantElem_flags]
    split
    · exact .inr rfl
    · exact .inl rfl

/-- The flags of QUANT (03 R77). -/
theorem quant_flags (hf : FpFlags) (ys : List Nat) (wc : Bool) (en : Nat) (rm : Rm) (u : Nat → Nat) :
    let cands := (quantSels ys wc en).map fun s => (s, quantCand ys wc rm u s)
    quantFlags hf ys wc en cands = if (∃ t ∈ quantSels ys wc en, (selScale (finMax ys).1 (finMax ys).2 wc t).2 = true) ∨
        wc = true ∧ 1 ∈ quantSels ys wc en ∧ ∃ c ∈ ys, ∃ b, dec32 c = .inf b
    then hf ||| fOVERFLOW ||| quantInvalid ys wc en else hf ||| quantInvalid ys wc en := by
  have hne : ¬(0 : FpFlags) = fOVERFLOW := by decide
  intro cands
  have hany : cands.any (fun p => p.2.2.1) = true ↔
      ∃ t ∈ quantSels ys wc en, (selScale (finMax ys).1 (finMax ys).2 wc t).2 = true := by
    simp only [cands, List.any_map, List.any_eq_true]
    rfl
  have hfold : cands.foldl (fun f p => f ||| p.2.2.2.2.2) 0 =
      if wc = true ∧ 1 ∈ quantSels ys wc en ∧ ∃ c ∈ ys, ∃ b, dec32 c = .inf b then fOVERFLOW else 0 := by
    rw [foldl_or_flag (fun p : Nat × QCand => p.2.2.2.2.2) fOVERFLOW]
    · refine (BitVec.zero_or).trans (if_congr ?_ rfl rfl)
      simp only [cands, List.mem_map, exists_exists_and_eq_and, quantCand_flags, ite_eq_left_iff, hne, imp_false, not_not]
      exact ⟨fun ⟨t, ht, hw, h1, hc⟩ => ⟨hw, h1 ▸ ht, hc⟩, fun ⟨hw, h1, hc⟩ => ⟨1, h1, hw, rfl, hc⟩⟩
    · intro p hp
      obtain ⟨t, -, rfl⟩ := List.mem_map.mp hp
      rw [quantCand_flags]
      split
      · exact .inr rfl
      · exact .inl rfl
  have hcomm (a b c : FpFlags) : a ||| b ||| c = a ||| c ||| b := by
    rw [BitVec.or_assoc, BitVec.or_comm b c, BitVec.or_assoc]
  rw [quantFlags, hfold, if_congr hany rfl rfl]
  by_cases h1 : ∃ t ∈ quantSels ys wc en, (selScale (finMax ys).1 (finMax ys).2 wc t).2 = true
  · rw [if_pos h1, if_pos (Or.inl h1), hcomm hf]
    split
    · rw [hcomm (hf ||| fOVERFLOW), BitVec.or_assoc hf, BitVec.or_self]
    · exact BitVec.or_zero
  · rw [if_neg h1, if_congr (or_iff_right h1) rfl rfl, show (0 : FpFlags) = 0#5 from rfl, BitVec.or_zero]
    split
    · exact hcomm _ _ _
    · exact BitVec.or_zero

/-! ## Finite elements of a candidate (03 R68, R77) -/

theorem qmax_le : ∀ wc, ∀ sel < 4, magLe (qmax wc sel).1 (qmax wc sel).2 1 16 = true := by decide

/-- A scale that QUANT picks leaves quotients of at most 2^16. -/
theorem selScale_reaches {am : Nat} {ae : Int} (wc : Bool) {sel : Nat} (hsel : sel < 4)
    (hmax : (am : ℚ) * 2 ^ ae ≤ FFmt.mag .fp32 (FFmt.maxCode .fp32)) :
    (am : ℚ) * 2 ^ ae ≤ 2 ^ 16 * scaleMag (selScale am ae wc sel).1 := by
  obtain ⟨-, -, hreach, -⟩ := selScale_spec wc hsel hmax
  have hnn : 0 ≤ scaleMag (selScale am ae wc sel).1 := FFmt.mag_nonneg _ _
  by_cases hs : (selScale am ae wc sel).1 = 0xFEFF
  · have h128 : FFmt.mag .fp32 (FFmt.maxCode .fp32) < 2 ^ 128 := by
      norm_num [FFmt.mag, FFmt.maxCode, FFmt.frac, FFmt.bias]
    have h127 : (2 : ℚ) ^ 127 ≤ scaleMag 0xFEFF := by
      rw [scaleMag_eq]
      norm_num
    rw [hs]
    linarith
  · have hq : magVal (qmax wc sel) ≤ 2 ^ 16 := by
      have := (magLe_iff _ _ _ _).mp (qmax_le wc sel hsel)
      simpa [magVal] using this
    calc (am : ℚ) * 2 ^ ae ≤ scaleMag (selScale am ae wc sel).1 * magVal (qmax wc sel) := hreach hs
      _ ≤ scaleMag (selScale am ae wc sel).1 * 2 ^ 16 := mul_le_mul_of_nonneg_left hq hnn
      _ = _ := mul_comm _ _

section
variable {sc k m : Nat} {e f : Int} {z : Bool} (hsc : sc < 2 ^ 16) (hsv : scaleVal sc = .fin z k f)
include hsc hsv

/-- A finite value of at most 2^16 times the scale has a finite quotient. -/
theorem scaledDown_fin (s : Bool) (hm : (m : ℚ) * 2 ^ e ≤ 2 ^ 16 * scaleMag sc) : ∃ p q, scaledDown sc s m e k f = .fin s p q := by
  obtain ⟨k', f', hval, hmag, hzero⟩ := scaleVal_mag hsc
  obtain ⟨-, rfl, rfl⟩ := X.fin.inj (hval.symm.trans hsv)
  rw [scaledDown]
  split
  · exact ⟨_, _, rfl⟩
  next h0 =>
    have hk : 0 < k' := Nat.pos_of_ne_zero fun h => h0 (hzero.mp h)
    have hpos : (0 : ℚ) < k' * 2 ^ f' := mul_pos (by exact_mod_cast hk) (two_zpow_pos f')
    have hquot : (m : ℚ) * 2 ^ e / (k' * 2 ^ f') ≤ 2 ^ 16 := by rwa [div_le_iff₀ hpos, hmag]
    have h17 : (2 : ℚ) * 2 ^ 16 ≤ FFmt.mag .fp32 (FFmt.maxCode .fp32) := by
      norm_num [FFmt.mag, FFmt.maxCode, FFmt.frac, FFmt.bias]
    exact dec32_rne32 s (((divMag_le hk e f').trans (by linarith)).trans h17)

/-- How a finite element is coded, and its squared error. -/
theorem quantElem_fin (wc : Bool) (sel : Nat) (rm : Rm) (u : Nat → Nat) (i : Nat) {c : Nat} {s : Bool} (hd : dec32 c = .fin s m e)
    (hm : (m : ℚ) * 2 ^ e ≤ 2 ^ 16 * scaleMag sc) : ∃ p q, scaledDown sc s m e k f = .fin s p q ∧
      let code := roundSel wc sel rm s p q (u i)
      let r := (fsub c (rne32 ((decSel wc sel code).mul (scaleVal sc)).1).1).1
      quantElem wc sel rm (scaleVal sc) u i c = (code, (fmul r r).1, 0) := by
  obtain ⟨p, q, hy⟩ := scaledDown_fin hsc hsv s hm
  refine ⟨p, q, hy, ?_⟩
  have hzero : k = 0 ↔ sc = 0 := by
    obtain ⟨k', f', hval, -, hzero⟩ := scaleVal_mag hsc
    obtain ⟨-, rfl, rfl⟩ := X.fin.inj (hval.symm.trans hsv)
    exact hzero
  have hy' : (if k = 0 then X.fin s 0 0 else dec32 (rne32 (.fin s (divMag m e k f).1 (divMag m e k f).2)).1) = .fin s p q := by
    rw [← hy, scaledDown, if_congr hzero rfl rfl]
  simp only [quantElem, hd, hsv, hy']

end

/-- The squared error of an element from its code. -/
def quantError (wc : Bool) (sel sc c code : Nat) : Nat :=
  if (dec32 c).isFin = true then
    let r := (fsub c (rne32 ((decSel wc sel code).mul (scaleVal sc)).1).1).1
    (fmul r r).1
  else 0

/-! ## A candidate of QUANT -/

section
variable {ys : List Nat} (hys : ∀ c ∈ ys, c < 2 ^ 32)
include hys

theorem finMax_le : magVal (finMax ys) ≤ FFmt.mag .fp32 (FFmt.maxCode .fp32) := by
  rcases (finMax_spec ys).2 with h | ⟨c, hc, h⟩
  · rw [h]
    exact FFmt.mag_nonneg _ _
  · rw [← h]
    cases hd : dec32 c with
    | fin s m e => exact dec32_le (hys c hc) hd
    | inf s => exact FFmt.mag_nonneg _ _
    | nan => exact FFmt.mag_nonneg _ _

variable (wc : Bool) (rm : Rm) (u : Nat → Nat) {sel : Nat} (hsel : sel < 4)
include hsel

/-- A candidate codes each finite element by its quotient; the error of an element is that of its code. -/
theorem quantElem_cand {c : Nat} (hc : c ∈ ys) (i : Nat) :
    let sc := (selScale (finMax ys).1 (finMax ys).2 wc sel).1
    let r := quantElem wc sel rm (scaleVal sc) u i c
    (∀ s m e, dec32 c = .fin s m e → ∀ z k f, scaleVal sc = .fin z k f → ∃ p q, scaledDown sc s m e k f = .fin s p q ∧
      r.1 = roundSel wc sel rm s p q (u i)) ∧
    ((dec32 c).isFin = false → r.1 = (specialCode wc sel (dec32 c)).1) ∧ r.2.1 = quantError wc sel sc c r.1 := by
  intro sc r
  have hmax := finMax_le hys
  have hsc : sc < 2 ^ 16 := Nat.lt_of_le_of_lt (selScale_spec wc hsel hmax).1 (by decide)
  have hfin {s : Bool} {m : Nat} {e : Int} (hd : dec32 c = .fin s m e) : (m : ℚ) * 2 ^ e ≤ 2 ^ 16 * scaleMag sc := by
    have hle := (finMax_spec ys).1 c hc
    rw [hd] at hle
    exact hle.trans (selScale_reaches wc hsel hmax)
  refine ⟨fun s m e hd z k f hsv => ?_, fun h => ?_, ?_⟩
  · obtain ⟨p, q, hy, hr⟩ := quantElem_fin hsc hsv wc sel rm u i hd (hfin hd)
    exact ⟨p, q, hy, congrArg Prod.fst hr⟩
  · exact congrArg Prod.fst (quantElem_special wc sel rm (scaleVal sc) u i h)
  · cases hd : dec32 c with
    | fin s m e =>
      obtain ⟨k, f, hsv, -⟩ := scaleVal_mag hsc
      obtain ⟨p, q, hy, hr⟩ := quantElem_fin hsc hsv wc sel rm u i hd (hfin hd)
      rw [quantError, if_pos (by rw [hd]; rfl)]
      simp only [r, hr]
    | inf s =>
      rw [quantError, if_neg (by rw [hd]; exact Bool.false_ne_true)]
      exact congrArg (·.2.1) (quantElem_special wc sel rm (scaleVal sc) u i (by rw [hd]; rfl))
    | nan =>
      rw [quantError, if_neg (by rw [hd]; decide)]
      exact congrArg (·.2.1) (quantElem_special wc sel rm (scaleVal sc) u i (by rw [hd]; rfl))

omit hys hsel in
theorem quantError_lt (sel sc c code : Nat) : quantError wc sel sc c code < 2 ^ 32 := by
  rw [quantError]
  split
  · exact rne32_lt _
  · decide

/-- What a candidate is made of. -/
theorem quantCand_eq (hlen : ys.length = 256) :
    let sc := (selScale (finMax ys).1 (finMax ys).2 wc sel).1
    let code (i : Nat) := (quantElem wc sel rm (scaleVal sc) u i (ys.getD i 0)).1
    let q := quantCand ys wc rm u sel
    q.1 = sc ∧ q.2.2.1 = (List.range 256).map code ∧
      q.2.2.2.1 = (treeSum 8 ((List.range 256).map fun i => quantError wc sel sc (ys.getD i 0) (code i))).1 := by
  intro sc code q
  have hmem {i : Nat} (hi : i < 256) : ys.getD i 0 ∈ ys := by
    rw [List.getD_eq_getElem _ _ (by omega)]
    exact List.getElem_mem _
  have herr : ((List.range 256).map fun i => (quantElem wc sel rm (scaleVal sc) u i (ys.getD i 0)).2.1) =
      (List.range 256).map fun i => quantError wc sel sc (ys.getD i 0) (code i) :=
    List.map_congr_left fun i hi => (quantElem_cand hys wc rm u hsel (hmem (List.mem_range.mp hi)) i).2.2
  simp only [q, quantCand, quantSel_eq, hlen, List.map_map]
  exact ⟨rfl, rfl, congrArg (fun l => (treeSum 8 l).1) herr⟩

end

/-! ## What QUANT gives (03 R61, R77) -/

/-- The header with its check nibble. -/
theorem mkHdr_eq (sc s : Nat) (wc : Bool) (tail : Nat) :
    let f := sc * 2 ^ 16 + s * 2 ^ 13 + if wc then 2 ^ 12 else 0
    mkHdr sc s wc tail = tail + f +
      256 * (f / 2 ^ 28 % 16 ^^^ f / 2 ^ 24 % 16 ^^^ f / 2 ^ 20 % 16 ^^^ f / 2 ^ 16 % 16 ^^^ f / 2 ^ 12 % 16) := by
  intro f
  show f + hdrChk f * 2 ^ 8 + tail = _
  simp only [hdrChk, bits, Nat.shiftRight_eq_div_pow]
  ring_nf

/-- The error of a selector's candidate. -/
def candError (ys : List Nat) (wc : Bool) (rm : Rm) (u : Nat → Nat) (sel : Nat) : Nat := (quantCand ys wc rm u sel).2.2.2.1

section
variable {xs : List Nat} {n en had : Nat} (hlen : xs.length = 256) (hn : n ≤ 256) (hhad : had < 4) (hxs : ∀ x ∈ xs, x < 2 ^ 32)
  (wc : Bool) (rm : Rm) (u : Nat → Nat)
include hlen hn hhad hxs

theorem candError_lt {sel : Nat} (hsel : sel < 4) : candError (quantStep xs n had).1 wc rm u sel < 2 ^ 32 := by
  rw [candError, (quantCand_eq (quantStep_lt hxs) wc rm u hsel (quantStep_length hlen hn hhad)).2.2]
  refine treeSum_lt _ fun x hx => ?_
  obtain ⟨i, -, rfl⟩ := List.mem_map.mp hx
  exact quantError_lt _ _ _ _ _

/-- QUANT gives the block of the candidate with the least error, the first of equal ones. -/
theorem quant_best (h1 : 1 ≤ en) (h16 : en < 16) : let ys := (quantStep xs n had).1
    ∃ s ∈ quantSels ys wc en,
      (quant xs n wc en rm had u).1 = mkHdr (quantCand ys wc rm u s).1 s wc (min 255 (256 - n)) ∧
      (quant xs n wc en rm had u).2.1 = (quantCand ys wc rm u s).2.2.1 ∧
      (quant xs n wc en rm had u).2.2 =
        (if (∃ t ∈ quantSels ys wc en, (selScale (finMax ys).1 (finMax ys).2 wc t).2 = true) ∨
            wc = true ∧ 1 ∈ quantSels ys wc en ∧ ∃ c ∈ ys, ∃ b, dec32 c = .inf b
        then (quantStep xs n had).2 ||| fOVERFLOW ||| quantInvalid ys wc en else (quantStep xs n had).2 ||| quantInvalid ys wc en) ∧
      ∀ t ∈ quantSels ys wc en, keyRank (candError ys wc rm u s) ≤ keyRank (candError ys wc rm u t) ∧
        (keyRank (candError ys wc rm u t) ≤ keyRank (candError ys wc rm u s) → s ≤ t) := by
  intro ys
  have heq := quant_eq hlen hn hhad wc en rm u
  have hflags := quant_flags (quantStep xs n had).2 ys wc en rm u
  have hlt : ∀ p ∈ (quantSels ys wc en).map (fun s => (s, quantCand ys wc rm u s)), p.2.2.2.2.1 < 2 ^ 32 := by
    intro p hp
    obtain ⟨t, ht, rfl⟩ := List.mem_map.mp hp
    exact candError_lt hlen hn hhad hxs wc rm u (mem_quantSels.mp ht).1
  have hord : ((quantSels ys wc en).map fun s => (s, quantCand ys wc rm u s)).Pairwise fun p q => p.1 < q.1 :=
    List.pairwise_map.mpr (quantSels_pairwise ys wc en)
  obtain ⟨s0, l, hsels⟩ := List.exists_cons_of_ne_nil (quantSels_ne_nil ys wc h1 h16)
  rw [hsels, List.map_cons] at hlt hord
  obtain ⟨b, hb, hfold, hbest⟩ := foldl_betterCand hlt hord
  rw [← List.map_cons (f := fun s => (s, quantCand ys wc rm u s)), ← hsels] at hb hbest
  have hfold' : ((quantSels ys wc en).map fun s => (s, quantCand ys wc rm u s)).foldl betterCand none = some b := by
    rw [hsels, ← hfold]
    rfl
  obtain ⟨s, hs, rfl⟩ := List.mem_map.mp hb
  refine ⟨s, hs, ?_⟩
  have hq : quant xs n wc en rm had u = (mkHdr (quantCand ys wc rm u s).1 s wc (min 255 (256 - n)), (quantCand ys wc rm u s).2.2.1,
      quantFlags (quantStep xs n had).2 ys wc en ((quantSels ys wc en).map fun s => (s, quantCand ys wc rm u s))) := by
    dsimp only at heq
    rw [hfold'] at heq
    exact heq
  refine ⟨congrArg (·.1) hq, congrArg (·.2.1) hq, (congrArg (·.2.2) hq).trans hflags, fun t ht => ?_⟩
  have hbt := hbest (t, quantCand ys wc rm u t) (List.mem_map_of_mem ht)
  exact hbt

end

/-! ## The two spellings of a selector's codes -/

theorem signCode_eq (wc : Bool) {sel : Nat} (hsel : sel < 4) (neg : Bool) (k : Nat) : signCode wc sel neg k =
    if k = 0 then 0 else if neg = false then k else if sel = 0 then 2 * (if wc then 128 else 8) - k
      else (if wc then 128 else 8) + k := by
  unfold signCode
  interval_cases sel <;> cases neg <;> cases wc <;> rfl

theorem selMag_eq (wc : Bool) (sel k : Nat) : selMag wc sel k = (decSel wc sel k).size := by
  rw [selMag, codeMag]
  cases decSel wc sel k with
  | fin s m e => rfl
  | inf s => simp [magVal, X.size]
  | nan => simp [magVal, X.size]

theorem magVal_qmax (wc : Bool) {sel : Nat} (hsel : sel < 4) :
    magVal (qmax wc sel) = (if wc then [127, 448, 57344, 1] else [7, 6, 5 / 4, 1] : List ℚ).getD sel 1 := by
  interval_cases sel <;> cases wc <;> norm_num [magVal, qmax]

theorem selTop_eq (wc : Bool) {sel : Nat} (hsel : sel < 4) : selTop wc sel = if wc then [127, 126, 123, 127].getD sel 0 else 7 := by
  interval_cases sel <;> cases wc <;> rfl

/-! ## The places of a block -/

theorem forall_getD {ys : List Nat} (hlen : ys.length = 256) {P : Nat → Prop} : (∀ i < 256, P (ys.getD i 0)) ↔ ∀ c ∈ ys, P c := by
  rw [List.forall_mem_iff_forall_getElem]
  constructor
  · intro h i hi
    rw [← List.getD_eq_getElem ys 0 hi]
    exact h i (hlen ▸ hi)
  · intro h i hi
    rw [List.getD_eq_getElem ys 0 (hlen ▸ hi)]
    exact h i _

theorem exists_getD {ys : List Nat} (hlen : ys.length = 256) {P : Nat → Prop} : (∃ i < 256, P (ys.getD i 0)) ↔ ∃ c ∈ ys, P c := by
  have h := (forall_getD hlen (P := fun c => ¬P c)).not
  push Not at h
  exact h

theorem quantInvalid_eq {ys : List Nat} {wc : Bool} {en : Nat} : quantInvalid ys wc en =
    if ¬(∀ c ∈ ys, (dec32 c).isFin = true) ∧ ¬(wc = true ∧ (en.testBit 1 = true ∨ en.testBit 2 = true)) then 16 else 0 := by
  refine if_congr ?_ rfl rfl
  rw [Bool.and_eq_true, Bool.not_eq_true', decide_eq_false_iff_not, allFinite_iff, Bool.not_eq_true', ← Bool.not_eq_true,
    Bool.and_eq_true, Bool.or_eq_true]

/-- The candidates in order of error: the chosen one comes before none. -/
theorem not_keyLt_iff {a b : Nat} (ha : a < 2 ^ 32) (hb : b < 2 ^ 32) : ¬(dec32 a).keyLt (dec32 b) = true ↔ keyRank b ≤ keyRank a := by
  rw [dec32_keyLt ha hb, decide_eq_true_iff, not_lt]

end Sys2Proof.Machine
end

section
/-! PROOFS. The loads and stores of the V stream, and its selector-block words (06 R150 to R154). -/

namespace Sys2Proof.Machine

/-! ## Loads and stores of the V stream (06 R150 to R152) -/

/-- The selected lanes. -/
def onLanes (m : W64) : List Nat := (List.range 64).filter fun l => m.getLsbD l

/-- Lanes with the addresses of their elements. -/
def laneAddrs (m : W64) (ea : Nat → Int) : List (Nat × Int) := (onLanes m).map fun l => (l, ea l)

theorem vmLanes_eq (c : Core) (x : BitVec 4) (sz : Nat) (k : BitVec 3) (off : Nat → Int) :
    c.vmLanes x sz k off = laneAddrs (c.kreg k) fun l => (c.xreg x).toNat + off l * sz := rfl

theorem vmAt_eq (imm : BitVec 24) (m : W64) (ea : Nat → Int) : vmAt imm (laneAddrs m ea) = laneAddrs m fun l => ea l + imm.toInt := by
  simp [vmAt, laneAddrs]

/-- The address of a selected lane's element. -/
theorem laneAddrs_find {m : W64} (ea : Nat → Int) {i : Nat} (hi : i < 64) :
    (laneAddrs m ea).find? (fun p => p.1 = i) = if m.getLsbD i then some (i, ea i) else none := by
  rw [laneAddrs, List.find?_map]
  by_cases h : m.getLsbD i = true
  · have hmem : i ∈ onLanes m := List.mem_filter.mpr ⟨List.mem_range.mpr hi, h⟩
    have hfind : (onLanes m).find? (fun l => decide (l = i)) = some i := by
      obtain ⟨j, hj⟩ := Option.isSome_iff_exists.mp (List.find?_isSome (p := fun l => decide (l = i)) |>.mpr
        ⟨i, hmem, decide_eq_true rfl⟩)
      rw [hj, of_decide_eq_true (List.find?_some (p := fun l => decide (l = i)) hj)]
    rw [if_pos h, show ((fun p : Nat × Int => decide (p.1 = i)) ∘ fun l => (l, ea l)) = fun l => decide (l = i) from rfl, hfind]
    rfl
  · have hfind : (onLanes m).find? (fun l => decide (l = i)) = none := by
      refine List.find?_eq_none.mpr fun j hj heq => h ?_
      rw [← of_decide_eq_true heq]
      exact (List.mem_filter.mp hj).2
    rw [if_neg h, show ((fun p : Nat × Int => decide (p.1 = i)) ∘ fun l => (l, ea l)) = fun l => decide (l = i) from rfl, hfind]
    rfl

section
variable (c : Core) (sz : Nat) (st : Bool) (ls : List Nat) (ea : Nat → Int)

theorem elemFault_none (h : ∀ l ∈ ls, elemOk sz st (ea l) = true ∧ (c.hot = true ∨ ∀ i < sz, lentAddr ((ea l).toNat + i) = false)) :
    c.elemFault sz st (ls.map ea) = none := by
  have hok : (ls.map ea).find? (fun a => !elemOk sz st a) = none := by
    refine List.find?_eq_none.mpr fun a ha => ?_
    obtain ⟨l, hl, rfl⟩ := List.mem_map.mp ha
    simp [(h l hl).1]
  simp only [Core.elemFault, hok]
  split
  · rfl
  next hhot =>
    rw [Option.map_eq_none_iff]
    refine List.find?_eq_none.mpr fun a ha => ?_
    obtain ⟨l, hl, rfl⟩ := List.mem_map.mp ha
    simpa using (h l hl).2.resolve_left hhot

/-- The lowest lane whose element may not be used reports its address. -/
theorem elemFault_first (hord : ls.Pairwise (· < ·)) {j : Nat} (hj : j ∈ ls) (hbad : elemOk sz st (ea j) = false)
    (hbelow : ∀ q ∈ ls, q < j → elemOk sz st (ea q) = true) :
    c.elemFault sz st (ls.map ea) = some { code := 0x07, faddr := BitVec.ofInt 64 (ea j) } := by
  have hfind : ls.find? (fun l => !elemOk sz st (ea l)) = some j := by
    obtain ⟨as, bs, rfl⟩ := List.append_of_mem hj
    refine List.find?_eq_some_iff_append.mpr ⟨by rw [hbad]; rfl, as, bs, rfl, fun q hq => ?_⟩
    have hlt : q < j := (List.pairwise_append.mp hord).2.2 q hq j List.mem_cons_self
    simp [hbelow q (List.mem_append_left _ hq) hlt]
  have hok : (ls.map ea).find? (fun a => !elemOk sz st a) = some (ea j) := by
    rw [List.find?_map, show ((fun a => !elemOk sz st a) ∘ ea) = fun l => !elemOk sz st (ea l) from rfl, hfind]
    rfl
  simp only [Core.elemFault, hok]

end

theorem onLanes_ordered (m : W64) : (onLanes m).Pairwise (· < ·) := List.pairwise_lt_range.filter _

section
variable {ctl : Ctl} {s : State} (h : s.core.clear ctl) (v : BitVec 4) (et : MemTy) (regs : Ranges) (ea : Nat → Int) (l : Nat) (k : BitVec 3)
include h

/-- What the elements of an access must meet (R150). -/
def State.mayAccess (s : State) (et : MemTy) (k : BitVec 3) (ea : Nat → Int) (st : Bool) : Prop :=
  ∀ l ∈ onLanes (s.core.kreg k), elemOk (esz (memEt et).code) st (ea l) = true ∧
    (s.core.hot = true ∨ ∀ i < esz (memEt et).code, lentAddr ((ea l).toNat + i) = false)

/-- The latency of an access: 4 more where an element lies in a lent range (R152). -/
def State.accessLat (s : State) (et : MemTy) (k : BitVec 3) (ea : Nat → Int) (n : Nat) : Nat :=
  let slow := (onLanes (s.core.kreg k)).any fun l => lentAddr (ea l).toNat || lentAddr ((ea l).toNat + esz (memEt et).code - 1)
  ((n + if slow then 4 else 0) * s.core.sv.div + 1) / 2

omit h in
theorem accessLat_eq : s.core.lat .v (l + if anyLent (esz (memEt et).code) ((laneAddrs (s.core.kreg k) ea).map (·.2)) then 4 else 0) =
    s.accessLat et k ea l := by
  simp only [anyLent, laneAddrs, List.map_map, List.any_map]
  rfl

theorem vmLoad_clear (hok : s.mayAccess et k ea false) : vmLoad ctl v et regs (laneAddrs (s.core.kreg k) ea) l k s =
    s.goes (.of .v ctl (s.accessLat et k ea l) [.lanes v.toNat (s.core.kreg k) ((List.range 64).map fun i =>
      if (s.core.kreg k).getLsbD i then loadLane (memEt et) (s.getLe (ea i).toNat (esz (memEt et).code)) else 0)]) := by
  have hf : s.core.elemFault (esz (memEt et).code) false ((laneAddrs (s.core.kreg k) ea).map (·.2)) = none := by
    rw [laneAddrs, List.map_map]
    exact elemFault_none _ _ _ _ ea hok
  refine issue_goes h rfl rfl rfl hf rfl rfl (Core.issued_congr rfl rfl rfl rfl (accessLat_eq ..) ?_ rfl rfl rfl rfl)
  simp only [hf, Plan.of]
  refine congrArg (fun vals => [LAct.lanes v.toNat (s.core.kreg k) vals]) (List.map_congr_left fun i hi => ?_)
  rw [laneAddrs_find ea (List.mem_range.mp hi)]
  cases (s.core.kreg k).getLsbD i <;> rfl

theorem vmLoad_faults {j : Nat} (hj : j ∈ onLanes (s.core.kreg k)) (hbad : elemOk (esz (memEt et).code) false (ea j) = false)
    (hbelow : ∀ q ∈ onLanes (s.core.kreg k), q < j → elemOk (esz (memEt et).code) false (ea q) = true) :
    vmLoad ctl v et regs (laneAddrs (s.core.kreg k) ea) l k s = s.faults .v { code := 0x07, faddr := BitVec.ofInt 64 (ea j) } := by
  refine issue_faults h rfl rfl rfl ?_ _
  rw [laneAddrs, List.map_map]
  exact elemFault_first _ _ _ _ ea (onLanes_ordered _) hj hbad hbelow

/-- The elements that a store writes; bytes of the z states are ignored. -/
def State.storeItems (s : State) (v : BitVec 4) (et : MemTy) (k : BitVec 3) (ea : Nat → Int) : List LItem :=
  ((onLanes (s.core.kreg k)).filter fun l => !zAddr (ea l).toNat).map fun l =>
    { addr := (ea l).toNat, data := leBytes (esz (memEt et).code) (storeLane (memEt et) ((vLanes s.core v).getD l 0)).1, mask := none }

theorem vmStore_clear (run : Bool) (hok : s.mayAccess et k ea true) : vmStore ctl v et regs (laneAddrs (s.core.kreg k) ea) l k run s =
    s.goes { Plan.of .v ctl (s.accessLat et k ea l) [storeAct run (s.storeItems v et k ea)] with
      fp := orFlags ((onLanes (s.core.kreg k)).map fun l => (storeLane (memEt et) ((vLanes s.core v).getD l 0)).2) } := by
  have hf : s.core.elemFault (esz (memEt et).code) true ((laneAddrs (s.core.kreg k) ea).map (·.2)) = none := by
    rw [laneAddrs, List.map_map]
    exact elemFault_none _ _ _ _ ea hok
  refine issue_goes h rfl rfl rfl hf rfl rfl (Core.issued_congr rfl rfl rfl rfl (accessLat_eq ..) ?_ ?_ rfl rfl rfl)
  · simp only [laneAddrs, List.map_map, List.filter_map]
    rfl
  · simp only [laneAddrs, List.map_map]
    rfl

theorem vmStore_faults (run : Bool) {j : Nat} (hj : j ∈ onLanes (s.core.kreg k))
    (hbad : elemOk (esz (memEt et).code) true (ea j) = false)
    (hbelow : ∀ q ∈ onLanes (s.core.kreg k), q < j → elemOk (esz (memEt et).code) true (ea q) = true) :
    vmStore ctl v et regs (laneAddrs (s.core.kreg k) ea) l k run s = s.faults .v { code := 0x07, faddr := BitVec.ofInt 64 (ea j) } := by
  refine issue_faults h rfl rfl rfl ?_ _
  rw [laneAddrs, List.map_map]
  exact elemFault_first _ _ _ _ ea (onLanes_ordered _) hj hbad hbelow

end

/-! ## Selector blocks (06 R153, R154) -/

section
variable {c : Core} {a n : Nat} (hn : 0 < n)

theorem blockFault_outside (h : ¬(a % 4 = 0 ∧ a + n ≤ 0x200000)) : c.blockFault a n = some (flt 0x07 a) :=
  if_pos (by rw [Bool.or_eq_true, decide_eq_true_iff, decide_eq_true_iff]; omega)

theorem blockFault_inside (h : a % 4 = 0 ∧ a + n ≤ 0x200000) : c.blockFault a n = c.shadeLent [(a, n)] :=
  if_neg (by rw [Bool.or_eq_true, decide_eq_true_iff, decide_eq_true_iff]; omega)

include hn

theorem blockFault_lent (h : a % 4 = 0 ∧ a + n ≤ 0x200000) (hot : c.hot = false) (ha : 0x100000 ≤ a) :
    c.blockFault a n = some (flt 0x06 a) := by
  have hlent : lentAddr a = true := by rw [lentAddr_below (by omega), decide_eq_true ha]
  rw [blockFault_inside h]
  simp [Core.shadeLent, hot, hlent, hn.ne']

omit hn in
theorem blockFault_reached (h : a % 4 = 0 ∧ a + n ≤ 0x200000) (hr : c.hot = true ∨ a + n ≤ 0x100000) : c.blockFault a n = none :=
  (blockFault_inside h).trans (Core.shadeLent_none (src := fun _ => a) (rb := n) (n := 1) fun _ _ => .inr hr)

theorem anyShade_block (h : a + n ≤ 0x200000) : anyShade [(a, n)] = decide (0x100000 < a + n) := by
  refine (anyShade_rows (src := fun _ => a) (rb := n) (n := 1) fun _ _ => .inr h).trans ?_
  simp [hn.ne']

end

theorem blockSize_pos (wc : Bool) : 0 < blockSize wc := by cases wc <;> decide

/-- The latency of a block word: 4 more where its block reaches into the shade windows. -/
def Core.blockLat (c : Core) (a n l : Nat) : Nat := ((l + if 0x100000 < a + n then 4 else 0) * c.sv.div + 1) / 2

theorem blockLat_eq {c : Core} {a n : Nat} (l : Nat) (hn : 0 < n) (h : a + n ≤ 0x200000) :
    c.lat .v (l + if anyShade [(a, n)] then 4 else 0) = c.blockLat a n l := by
  rw [anyShade_block hn h, if_congr decide_eq_true_iff rfl rfl]
  rfl

/-- An element that QLD brings, and its flags. -/
def qldElem (b : List Byte) (i : Nat) : Nat × FpFlags :=
  let e := blockElemF (leNat (b.take 4)) (b.drop 4) i
  ((rne32 e.1).1, e.2 ||| (rne32 e.1).2)

section
variable {ctl : Ctl} {s : State} (h : s.core.clear ctl) (v : BitVec 2) (x xr en : BitVec 4) (wc : Bool) (rm : RmShort) (had : BitVec 2)
include h

theorem execQst_faults {f : Flt} (hf : s.core.blockFault (s.core.xreg x).toNat (blockSize wc) = some f) :
    execQst ctl v x xr en wc rm had s = s.faults .v f := issue_faults h rfl rfl rfl hf _

theorem execQld_faults {f : Flt} (hf : s.core.blockFault (s.core.xreg x).toNat (blockSize wc) = some f) :
    execQld ctl v x wc s = s.faults .v f := issue_faults h rfl rfl rfl hf _

/-- The block that QST makes of its group of registers. -/
def State.qstBlock (s : State) (v : BitVec 2) (xr en : BitVec 4) (wc : Bool) (rm : RmShort) (had : BitVec 2) : Nat × List Nat × FpFlags :=
  let r := (s.core.xreg xr).toNat
  quant ((s.core.groupLanes v).map (·.toNat)) (min (r % 2 ^ 32) 256) wc en.toNat (rmOfShort rm) had.toNat
    fun i => (gen (s.core.csr .seed) (s.core.sid .v) (BitVec.ofNat 32 i) (BitVec.ofNat 32 (r / 2 ^ 32))).toNat

section
variable (hfit : (s.core.xreg x).toNat + blockSize wc ≤ 0x200000)
  (hf : s.core.blockFault (s.core.xreg x).toNat (blockSize wc) = none)
include hfit hf

theorem execQst_clear : execQst ctl v x xr en wc rm had s =
    s.goes { Plan.of .v ctl (s.core.blockLat (s.core.xreg x).toNat (blockSize wc) 64) [.write (s.core.xreg x).toNat 1 0
      (blockBytes (s.qstBlock v xr en wc rm had).1 wc (s.qstBlock v xr en wc rm had).2.1)] with fp := (s.qstBlock v xr en wc rm had).2.2 } :=
  issue_goes h rfl rfl rfl hf rfl rfl
    (Core.issued_congr rfl rfl rfl rfl (blockLat_eq 64 (blockSize_pos wc) hfit) rfl rfl rfl rfl rfl)

omit hfit in
theorem execQld_header (hhdr : hdrOk (leNat ((s.getLs (s.core.xreg x).toNat (blockSize wc)).take 4)) wc = false) :
    execQld ctl v x wc s = s.faults .v (flt 0x05 (s.core.xreg x).toNat) := by
  refine issue_lateFaults h rfl rfl rfl hf rfl ?_ _
  simp [hf, hhdr]

theorem execQld_clear (hhdr : hdrOk (leNat ((s.getLs (s.core.xreg x).toNat (blockSize wc)).take 4)) wc = true) :
    execQld ctl v x wc s = s.goes { Plan.of .v ctl (s.core.blockLat (s.core.xreg x).toNat (blockSize wc) 20)
      ((List.range 4).map fun q => .lanes (4 * v.toNat + q) (BitVec.allOnes 64) ((List.range 64).map fun l =>
        BitVec.ofNat 32 (qldElem (s.getLs (s.core.xreg x).toNat (blockSize wc)) (64 * q + l)).1)) with
      fp := orFlags ((List.range 256).map fun i => (qldElem (s.getLs (s.core.xreg x).toNat (blockSize wc)) i).2) } := by
  have hslice {α : Type} (g : Nat → α) : ∀ q ∈ List.range 4,
      (((List.range 256).map g).drop (64 * q)).take 64 = (List.range 64).map fun l => g (64 * q + l) := by
    intro q hq
    have hq4 : q < 4 := List.mem_range.mp hq
    refine List.ext_getElem (by simp; omega) fun l h1 h2 => ?_
    simp
  refine issue_goes h rfl rfl rfl hf rfl ?_
    (Core.issued_congr rfl rfl rfl rfl (blockLat_eq 20 (blockSize_pos wc) hfit) ?_ ?_ rfl rfl rfl)
  · simp [hf, hhdr]
  · simp only [hf, Plan.of]
    refine List.map_congr_left fun q hq => ?_
    have := hslice (qldElem (s.getLs (s.core.xreg x).toNat (blockSize wc))) q hq
    refine congrArg (LAct.lanes (4 * v.toNat + q) (BitVec.allOnes 64)) ?_
    exact (congrArg (List.map fun p : Nat × FpFlags => BitVec.ofNat 32 p.1) this).trans List.map_map
  · simp only [hf, List.map_map]
    rfl

end
end

/-- Settles O31: the accesses through `vmLoad_clear` and `vmStore_clear`, the blocks through `blockFault`, and QUANT through
its candidates (`quantElem_cand`, `quant_best`). -/
theorem vectorMemoryWords : Obligations.VectorMemoryWords := by
  refine ⟨?_, ?_, ?_⟩
  · intro c v x vi et k imm indexed s h size m reg ea load store lanes legal slow lat items first fault
    have hplain : vmAt imm (s.core.vmLanes x size k (·)) = laneAddrs m fun l => (s.core.xreg x).toNat + l * size + imm.toInt := by
      rw [vmLanes_eq, vmAt_eq]
    have hindexed : s.core.vmLanes x size k (s.core.vIndex vi) =
        laneAddrs m fun l => (s.core.xreg x).toNat + (reg vi l).toNat * size := by
      rw [vmLanes_eq]
      rfl
    have hload : exec load s = vmLoad c v et (if indexed then xRange x ++ vRange vi else xRange x) (laneAddrs m ea)
        (if indexed then 12 else 10) k s := by
      cases indexed
      · exact congrArg (vmLoad c v et (xRange x) · 10 k s) hplain
      · exact congrArg (vmLoad c v et (xRange x ++ vRange vi) · 12 k s) hindexed
    have hstore : exec store s = vmStore c v et (if indexed then xRange x ++ vRange vi else xRange x) (laneAddrs m ea)
        (if indexed then 8 else 6) k (!indexed) s := by
      cases indexed
      · exact congrArg (vmStore c v et (xRange x) · 6 k true s) hplain
      · exact congrArg (vmStore c v et (xRange x ++ vRange vi) · 8 k false s) hindexed
    rw [hload, hstore]
    refine ⟨fun hok => ?_, fun hok => ?_, fun j hj => ?_, fun j hj => ?_⟩
    · exact vmLoad_clear h v et _ ea _ k hok
    · exact vmStore_clear h v et _ ea _ k _ hok
    · obtain ⟨hmem, hbad, hbelow⟩ := hj
      exact vmLoad_faults h v et _ ea _ k hmem hbad hbelow
    · obtain ⟨hmem, hbad, hbelow⟩ := hj
      exact vmStore_faults h v et _ ea _ k _ hmem hbad hbelow
  · intro c v x xr en wc rm had s h a r n group u q lat b hdr el inside reach qst qld
    have hpos := blockSize_pos wc
    refine ⟨fun hout => ?_, fun hin hot ha => ?_, fun hin hr => ?_, fun hin hr hhdr => ?_, fun hin hr hhdr => ?_⟩
    · exact ⟨execQst_faults h v x xr en wc rm had (blockFault_outside hout), execQld_faults h v x wc (blockFault_outside hout)⟩
    · exact ⟨execQst_faults h v x xr en wc rm had (blockFault_lent hpos hin hot ha),
        execQld_faults h v x wc (blockFault_lent hpos hin hot ha)⟩
    · exact execQst_clear h v x xr en wc rm had hin.2 (blockFault_reached hin hr)
    · exact execQld_header h v x wc (blockFault_reached hin hr) hhdr
    · exact execQld_clear h v x wc hin.2 (blockFault_reached hin hr) hhdr
  · intro xs n en had sel wc rm u neg m w e m2 e2 hlen hxs hn h1 h16 hhad hsel val mag qm scale top half signed
      grid y rounded h padded step x all float C out header before
    set ys := step.1 with hys
    have hgrid : grid = selMag wc sel := funext fun k => (selMag_eq wc sel k).symm
    have hmag : mag = X.size := rfl
    have hsigned : signed = signCode wc sel neg := funext fun k => (signCode_eq wc hsel neg k).symm
    have hqm {t : Nat} (ht : t < 4) : qm t = magVal (qmax wc t) := (magVal_qmax wc ht).symm
    have htop : top = selTop wc sel := (selTop_eq wc hsel).symm
    have hscale : scale = scaleMag := funext fun c => (scaleMag_eq c).symm
    rw [hgrid, hsigned, htop, hscale, hmag]
    refine ⟨fun hy => ?_, fun k hk hlo hhi => ⟨fun heq => ?_, fun hlt hrm => ?_, fun hlt hrm => ?_⟩, fun hm2 => ?_, ?_⟩
    · exact roundSel_top rm neg m e w (by rwa [← hqm hsel])
    · exact roundSel_exact hsel rm neg m e w hk hlo hhi heq
    · exact roundSel_between hsel rm neg m e w hk hlo hhi hlt hrm
    · subst hrm
      exact roundSel_draw hsel neg m e hk hlo hhi hlt
    · exact divMag_spec hm2 e e2
    have hlen' : ys.length = 256 := quantStep_length hlen hn hhad
    have hlt' : ∀ c ∈ ys, c < 2 ^ 32 := quantStep_lt hxs
    have hmem : ∀ i < 256, ys.getD i 0 ∈ ys := (forall_getD hlen').mpr fun c hc => hc
    have hmax := finMax_le hlt'
    have hall : all ↔ ∀ c ∈ ys, (dec32 c).isFin = true := forall_getD hlen' (P := fun c => (dec32 c).isFin = true)
    have hC {t : Nat} : C t ↔ t ∈ quantSels ys wc en := by rw [mem_quantSels, ← hall]
    have hspec {t : Nat} (ht : C t) := selScale_spec wc ht.1 hmax
    have hcand {t : Nat} (ht : C t) := quantCand_eq hlt' wc rm u ht.1 hlen'
    have hlt {t : Nat} (ht : C t) := candError_lt hlen hn hhad hxs wc rm u ht.1
    have hover : (∃ t, C t ∧ scaleMag 0xFEFF * qm t < magVal (finMax ys)) ↔
        ∃ t ∈ quantSels ys wc en, (selScale (finMax ys).1 (finMax ys).2 wc t).2 = true := by
      refine exists_congr fun t => ?_
      rw [hC]
      exact and_congr_right fun ht => by rw [hqm (hC.mpr ht).1]; exact (hspec (hC.mpr ht)).2.2.2.symm
    have hinf : (∃ i < 256, ∃ b, x i = .inf b) ↔ ∃ c ∈ ys, ∃ b, dec32 c = .inf b :=
      exists_getD hlen' (P := fun c => ∃ b, dec32 c = .inf b)
    have hinvalid : quantInvalid ys wc en = if ¬all ∧ ¬float then 16 else 0 :=
      quantInvalid_eq.trans (if_congr (by rw [hall]) rfl rfl)
    obtain ⟨s, hs, hhdr, hcodes, hflags, hbest⟩ := quant_best hlen hn hhad hxs wc rm u h1 h16
    refine ⟨magVal (finMax ys), fun t => (selScale (finMax ys).1 (finMax ys).2 wc t).1, candError ys wc rm u,
      fun t i => (quantElem wc t rm (scaleVal (selScale (finMax ys).1 (finMax ys).2 wc t).1) u i (ys.getD i 0)).1, s,
      (forall_getD hlen').mpr (finMax_spec ys).1, (finMax_spec ys).2.imp_right (exists_getD hlen').mpr, hC.mpr hs,
      (hhdr.trans (congrArg (fun c => mkHdr c s wc _) (hcand (hC.mpr hs)).1)).trans (mkHdr_eq _ _ _ _),
      hcodes.trans (hcand (hC.mpr hs)).2.1,
      fun t ht => ⟨(hspec ht).1, fun c hc => ?_, fun hne => ?_, fun i hi s m e hx z k f hsv => ?_, fun i hi hx => ?_,
        (hcand ht).2.2, ?_, ?_⟩, ?_, ?_⟩
    · rw [hqm ht.1]
      exact (hspec ht).2.1 c hc
    · rw [hqm ht.1]
      exact (hspec ht).2.2.1 hne
    · obtain ⟨p, q, hy, hr⟩ := (quantElem_cand hlt' wc rm u ht.1 (hmem i hi) i).1 s m e hx z k f hsv
      exact ⟨s, p, q, hy, hr⟩
    · refine ((quantElem_cand hlt' wc rm u ht.1 (hmem i hi) i).2.1 hx).trans ?_
      exact apply_ite Prod.fst _ _ _
    · exact (not_keyLt_iff (hlt ht) (hlt (hC.mpr hs))).mpr (hbest t (hC.mp ht)).1
    · exact fun h => (hbest t (hC.mp ht)).2 ((not_keyLt_iff (hlt (hC.mpr hs)) (hlt ht)).mp h)
    · rw [hover, hC, hinf, ← hinvalid]
      exact fun h => hflags.trans (if_pos h)
    · rw [hover, hC, hinf, ← hinvalid]
      exact fun h => hflags.trans (if_neg h)

end Sys2Proof.Machine
end

section
/-! PROOFS. Moves of an engine that leave cores or memories alone, and what a Deliver move applies (08 R189, R190, R194). -/

namespace Sys2Proof.Machine

/-! ## Moves that leave every core alone -/

/-- The cores of two machines are the same. -/
def State.SameCores (s t : State) : Prop := t.cur = s.cur ∧ t.core = s.core ∧ t.parked = s.parked

theorem State.SameCores.refl (s : State) : s.SameCores s := ⟨rfl, rfl, rfl⟩

theorem State.SameCores.trans {s t u : State} (h : s.SameCores t) (h' : t.SameCores u) : s.SameCores u :=
  ⟨h'.1.trans h.1, h'.2.1.trans h.2.1, h'.2.2.trans h.2.2⟩

theorem State.SameCores.getCore {s t : State} (h : s.SameCores t) (n : Nat) : t.getCore n = s.getCore n := by
  obtain ⟨hcur, hcore, hparked⟩ := h
  simp only [State.getCore, hcur, hcore, hparked]

theorem State.SameCores.usedRange (s : State) (c : Ctx) (space win a n : Nat) : s.SameCores (s.usedRange c space win a n) := by
  obtain ⟨l, m, h⟩ := s.usedRange_reads c space win a n
  rw [h]
  exact ⟨rfl, rfl, rfl⟩

theorem State.SameCores.touchCache (s : State) (e : Bool) (g : Nat) : s.SameCores (s.touchCache e g) := by
  obtain ⟨l, h⟩ := s.touchCache_cache e g
  rw [h]
  exact ⟨rfl, rfl, rfl⟩

theorem State.SameCores.usedPath (s : State) (x : Grain) : s.SameCores (s.usedPath x) := by
  obtain ⟨l, h⟩ := s.usedPath_cache x
  rw [h]
  exact ⟨rfl, rfl, rfl⟩

theorem State.SameCores.moves (s : State) (t : BitVec 4) (h : Home) (g : Nat) : s.SameCores (s.moves t h g) := by
  obtain ⟨m, h⟩ := s.moves_reads t h g
  rw [h]
  exact ⟨rfl, rfl, rfl⟩

theorem State.SameCores.markGranule (s : State) (g : Nat) : s.SameCores (s.markGranule g) := by
  simp only [State.markGranule]
  split
  · split
    · exact .refl s
    · exact ⟨rfl, rfl, rfl⟩
  · exact .refl s

theorem State.SameCores.setTag (s : State) (g : Nat) (w : BitVec 12) (r : BitVec 20) : s.SameCores (s.setTag g w r) := by
  simp only [State.setTag]
  split
  · exact ⟨rfl, rfl, rfl⟩
  · exact ⟨rfl, rfl, rfl⟩

theorem State.SameCores.devWrite (s : State) (g : Nat) (bs : List (Nat × Byte)) (w : BitVec 12) (r : BitVec 20) :
    s.SameCores (s.devWrite g bs w r) := by
  have h := (State.SameCores.touchCache s false g).trans (.markGranule _ g)
  exact (show s.SameCores _ from ⟨h.1, h.2.1, h.2.2⟩).trans (.setTag _ g w r)

theorem State.SameCores.setDirty (s : State) (leaf : Option Nat) : s.SameCores (s.setDirty leaf) := by
  cases leaf with
  | none => exact .refl s
  | some a =>
    have h := (State.SameCores.touchCache s true ((a + 6) / 64)).trans (.markGranule _ ((a + 6) / 64))
    exact ⟨h.1, h.2.1, h.2.2⟩

theorem State.SameCores.writeGrain (s : State) (h : Home) (g : Nat) (bs : List (Nat × Byte)) (w : BitVec 12) (r : BitVec 20) :
    s.SameCores (s.writeGrain h g bs w r) := by
  cases h with
  | dev => exact .devWrite s g bs w r
  | host => exact ⟨rfl, rfl, rfl⟩
  | peer n => exact ⟨rfl, rfl, rfl⟩
  | core n => exact .refl s

/-- A fold that may fail keeps what each of its steps keeps. -/
theorem foldl_except_keeps {α ε σ : Type} {P : σ → σ → Prop} (hrefl : ∀ s, P s s) (htrans : ∀ {s t u}, P s t → P t u → P s u)
    {f : Except ε σ → α → Except ε σ} (herr : ∀ e x, f (.error e) x = .error e) (hf : ∀ x s t, f (.ok s) x = .ok t → P s t)
    {s t : σ} {l : List α} (h : l.foldl f (.ok s) = .ok t) : P s t := by
  induction l generalizing s with
  | nil => exact Except.ok.inj h ▸ hrefl s
  | cons x l ih =>
    rw [List.foldl_cons] at h
    cases hx : f (.ok s) x with
    | error e =>
      have hstuck (l : List α) : l.foldl f (.error e) = .error e := by
        induction l with
        | nil => rfl
        | cons y l ih => rw [List.foldl_cons, herr, ih]
      rw [hx, hstuck] at h
      cases h
    | ok u =>
      rw [hx] at h
      exact htrans (hf x s u hx) (ih h)

theorem State.SameCores.placeWrite {s t : State} {c : Ctx} {space win a : Nat} {bs : List Byte}
    (h : s.placeWrite c space win a bs = .ok t) : s.SameCores t := by
  refine foldl_except_keeps State.SameCores.refl State.SameCores.trans (fun e x => rfl) (fun g s t ht => ?_) h
  dsimp only at ht
  split at ht
  · cases ht
  · cases ht
    exact (((State.SameCores.usedPath s _).trans (.writeGrain _ _ _ _ _ _)).trans (.moves _ _ _ _)).trans (.setDirty _ _)

theorem State.SameCores.logPut (s : State) (n i x : Nat) : s.SameCores (s.logPut n i x) := by
  unfold State.logPut
  split
  next h => exact .placeWrite h
  · exact .refl s

/-- An event leaves a core all but its count of events (14 R352). -/
theorem State.record_getCore (s : State) (n kind value : Nat) : (s.record n kind value).getCore n = (s.getCore n).replayNext kind := by
  have hnext {t : State} (h : s.SameCores t) : (t.putCore n ((t.getCore n).replayNext kind)).getCore n = (s.getCore n).replayNext kind := by
    rw [State.getCore_putCore, h.getCore]
  have hused := State.SameCores.usedRange s (s.coreCtx n) 2 0 (s.getCore n).replayLog 24
  unfold State.record
  dsimp only
  split
  · exact hnext (.usedRange s _ _ _ _ _)
  · split
    · exact hnext (.refl s)
    · split
      · exact hnext (hused.trans (.logPut _ _ _ _))
      · exact hnext (((hused.trans (.logPut _ _ _ _)).trans (.logPut _ _ _ _)).trans (.logPut _ _ _ _))

/-! ## Moves of an engine that leave every memory alone -/

/-- The memories of a machine are those of another, and as much in form; so are the queues of its cores. -/
def State.Kept (s t : State) : Prop :=
  (s.Inv → t.Inv) ∧ t.mem = s.mem ∧ t.host = s.host ∧ ∀ k, (t.getCore k).r.sram = (s.getCore k).r.sram ∧ (t.getCore k).q = (s.getCore k).q

theorem State.Kept.refl (s : State) : s.Kept s := ⟨id, rfl, rfl, fun _ => ⟨rfl, rfl⟩⟩

theorem State.Kept.trans {s t u : State} (h : s.Kept t) (h' : t.Kept u) : s.Kept u := by
  obtain ⟨hinv, hmem, hhost, hsram⟩ := h
  obtain ⟨hinv', hmem', hhost', hsram'⟩ := h'
  exact ⟨hinv' ∘ hinv, hmem'.trans hmem, hhost'.trans hhost, fun k => ⟨(hsram' k).1.trans (hsram k).1, (hsram' k).2.trans (hsram k).2⟩⟩

theorem State.putCore_mem_host (s : State) (n : Nat) (c : Core) : (s.putCore n c).mem = s.mem ∧ (s.putCore n c).host = s.host := by
  unfold State.putCore
  split
  · exact ⟨rfl, rfl⟩
  · exact ⟨rfl, rfl⟩

theorem State.Kept.putCore {s : State} {n : Nat} {c : Core} (h : c.r.sram = (s.getCore n).r.sram ∧ c.q = (s.getCore n).q) :
    s.Kept (s.putCore n c) := by
  obtain ⟨hmem, hhost⟩ := s.putCore_mem_host n c
  refine ⟨fun hinv => hinv.put n (h.1 ▸ hinv.core n), hmem, hhost, fun k => ?_⟩
  by_cases hk : n = k
  · rw [← hk, State.getCore_putCore]
    exact h
  · rw [State.getCore_putCore_other _ _ _ _ hk]
    exact ⟨rfl, rfl⟩

theorem State.Kept.setAct (s : State) (n : Nat) (a : Active) : s.Kept (s.setAct n a) := .putCore ⟨rfl, rfl⟩

theorem State.Kept.getB {s t : State} (h : s.Kept t) {n a : Nat} (ha : a < 0x300000) : t.getB n a = s.getB n a := by
  have hcell := cell_lt n ha
  rw [State.getB_cell, State.getB_cell, Core.getB, Core.getB, if_pos hcell, if_pos hcell, (h.2.2.2 _).1]

/-! ## What a command leaves behind in its core -/

theorem Core.actOf_id {c : Core} {id : Nat} {a : Active} (h : c.actOf id = some a) : a.cmd.id = id :=
  of_decide_eq_true (List.find?_some (p := fun a : Active => decide (a.cmd.id = id)) h)

/-- A command that is still in the engine after leaving was tried is as it was. -/
theorem State.retire_actOf {s : State} {n id : Nat} {b : Active} (h : ((s.retire n id).getCore n).actOf id = some b) :
    (s.getCore n).actOf id = some b := by
  unfold State.retire at h
  split at h
  · exact h
  · dsimp only at h
    split at h
    · exact h
    · rw [State.getCore_putCore] at h
      have hid := Core.actOf_id h
      have hmem := List.mem_of_find?_eq_some h
      simp only [List.mem_filter, hid, ne_eq, not_true_eq_false, decide_false, Bool.false_eq_true, and_false] at hmem

theorem Core.actOf_setAct {c : Core} {a b : Active} (h : (c.setAct a).actOf a.cmd.id = some b) : b = a := by
  have hid := Core.actOf_id h
  obtain ⟨x, -, hx⟩ := List.mem_map.mp (List.mem_of_find?_eq_some h)
  rw [← hx] at hid ⊢
  split
  · rfl
  next hne =>
    rw [if_neg hne] at hid
    exact absurd hid hne

/-! ## Reads made ahead (08 R194) -/

/-- Reads made ahead: the memories are kept, and every command stays the one it is. -/
def State.Ahead (n : Nat) (s t : State) : Prop :=
  s.Kept t ∧ ∀ id, ((t.getCore n).actOf id).map (·.cmd) = ((s.getCore n).actOf id).map (·.cmd)

theorem State.Ahead.refl (n : Nat) (s : State) : State.Ahead n s s := ⟨.refl s, fun _ => rfl⟩

theorem State.Ahead.trans {n : Nat} {s t u : State} (h : State.Ahead n s t) (h' : State.Ahead n t u) : State.Ahead n s u :=
  ⟨h.1.trans h'.1, fun id => (h'.2 id).trans (h.2 id)⟩

/-- A command that takes on what was read for it stays the command. -/
theorem State.Ahead.setAct {s : State} {n id : Nat} {a b : Active} (ha : (s.getCore n).actOf id = some a) (hb : b.cmd = a.cmd) :
    State.Ahead n s (s.setAct n b) := by
  refine ⟨.setAct s n b, fun i => ?_⟩
  have hid : b.cmd.id = id := by rw [hb, Core.actOf_id ha]
  rw [State.setAct, State.getCore_putCore, Core.actOf, Core.setAct, List.find?_map, Option.map_map]
  have hcomp : ((fun x : Active => decide (x.cmd.id = i)) ∘ fun x => if x.cmd.id = b.cmd.id then b else x) = fun x => decide (x.cmd.id = i) := by
    funext x
    simp only [Function.comp_apply]
    split
    next h => rw [h]
    · rfl
  rw [hcomp]
  show ((s.getCore n).actOf i).map _ = ((s.getCore n).actOf i).map _
  cases hx : (s.getCore n).actOf i with
  | none => rfl
  | some x =>
    simp only [Option.map_some, Function.comp_apply]
    split
    next h =>
      rw [Core.actOf_id hx, hid] at h
      rw [h, ha] at hx
      rw [hb, Option.some.inj hx]
    · rfl

/-- What a move leads to, if it can be made. -/
def State.AheadBy (n : Nat) (s : State) (r : Option State) : Prop := ∀ t, r = some t → State.Ahead n s t

theorem State.AheadBy.of (n : Nat) (s : State) : s.AheadBy n (some s) := fun _ h => Option.some.inj h ▸ .refl n s

theorem State.AheadBy.bind {n : Nat} {s : State} {r : Option State} (h : s.AheadBy n r) {f : State → Option State}
    (hf : ∀ t : State, t.AheadBy n (f t)) : s.AheadBy n (r.bind f) := by
  intro u hu
  obtain ⟨t, ht, htu⟩ := Option.bind_eq_some_iff.mp hu
  exact (h t ht).trans (hf t u htu)

/-- Any number of such moves. -/
theorem State.AheadBy.foldl {α : Type} {n : Nat} {s : State} {f : Option State → α → Option State} {l : List α} {r : Option State}
    (h : s.AheadBy n r) (hf : ∀ r, s.AheadBy n r → ∀ x ∈ l, s.AheadBy n (f r x)) : s.AheadBy n (l.foldl f r) := List.foldlRecOn l f h hf

theorem State.AheadBy.walkNow {s : State} {n id : Nat} {a : Active} (ha : (s.getCore n).actOf id = some a) (p : Nat × Nat) :
    s.AheadBy n (s.walkNow n a p) := by
  intro t ht
  simp only [State.walkNow] at ht
  split at ht
  · cases ht
  · cases ht
    exact .setAct ha rfl

theorem State.AheadBy.walkAhead (s : State) (n : Nat) (m : Cmd) (h : Home × Nat) : s.AheadBy n (s.walkAhead n m h) := by
  refine State.AheadBy.foldl (.of n s) fun r hr a _ => State.AheadBy.foldl hr fun r hr p _ => hr.bind fun t => ?_
  split
  next b hb =>
    split
    · exact .walkNow hb p
    · exact .of n t
  · exact .of n t

theorem State.AheadBy.readAhead (s : State) (n : Nat) (m : Cmd) (h : Home × Nat) : s.AheadBy n (s.readAhead n m h) := by
  refine (State.AheadBy.walkAhead s n m h).bind fun t => State.AheadBy.foldl (.of n t) fun r hr a _ =>
    State.AheadBy.foldl hr fun r hr p _ => hr.bind fun t => ?_
  split
  · exact .of n t
  next b hb =>
    split
    · exact .of n t
    · intro u hu
      obtain ⟨g, -, rfl⟩ := Option.map_eq_some_iff.mp hu
      exact .setAct hb rfl

/-- A command with a destination in a core leaves the memories as they are when it leaves the engine. -/
theorem State.Kept.retire (s : State) (n id : Nat) (hloc : ∀ a, (s.getCore n).actOf id = some a → a.cmd.dSpace ≤ 1) :
    s.Kept (s.retire n id) := by
  unfold State.retire
  split
  · exact .refl s
  next a ha =>
    dsimp only
    split
    · exact .refl s
    · have hrace : s.Kept (s.racePoison n a (s.seen n a)) := by
        simp only [State.racePoison, hloc a ha, if_true]
        refine List.foldlRecOn (motive := s.Kept) _ _ (.refl s) fun t ht d _ => ?_
        exact List.foldlRecOn (motive := s.Kept) _ _ ht fun u hu b _ => hu.trans (.putCore ⟨rfl, rfl⟩)
      exact hrace.trans (.putCore ⟨rfl, rfl⟩)

/-! ## What a Deliver move applies (08 R189, R190) -/

/-- Keys that are places of a range come each once. -/
theorem nodup_places {α β : Type} (f : Nat → Option α) (v : α → β) (n : Nat) :
    ((List.range n).filterMap fun i => (f i).map fun b => (i, v b)).Pairwise (fun p q => p.1 ≠ q.1) ∧
      ∀ p ∈ (List.range n).filterMap fun i => (f i).map fun b => (i, v b), p.1 < n := by
  have hkey {i : Nat} {p : Nat × β} (h : (f i).map (fun b => (i, v b)) = some p) : p.1 = i := by
    obtain ⟨b, -, rfl⟩ := Option.map_eq_some_iff.mp h
    rfl
  refine ⟨?_, fun p hp => ?_⟩
  · refine List.Pairwise.filterMap _ (fun i j hij p hp q hq => ?_) List.pairwise_lt_range
    rw [hkey hp, hkey hq]
    exact Nat.ne_of_lt hij
  · obtain ⟨i, hi, hp⟩ := List.mem_filterMap.mp hp
    rw [hkey hp]
    exact List.mem_range.mp hi

theorem deliverable_places {w : List Seen} {a : Active} {g : Nat} {bs : List (Nat × Byte)} (h : deliverable w a g = some bs) :
    bs.Pairwise (fun p q => p.1 ≠ q.1) ∧ ∀ p ∈ bs, p.1 < 64 := by
  obtain ⟨k, rfl⟩ : ∃ k, bs = grainBytes w k g := by
    unfold deliverable at h
    dsimp only at h
    split at h
    · exact ⟨_, (Option.some.inj h).symm⟩
    · split at h
      · exact ⟨_, (Option.some.inj h).symm⟩
      · cases h
  unfold grainBytes
  exact nodup_places _ (fun b : Nat × Byte => b.2) 64

/-- Bytes written at their places of a grain. -/
theorem State.getB_foldl_setB {s : State} (h : s.Inv) (n : Nat) {base i : Nat} (hb : base + 64 ≤ 0x200000) (hi : i < 64)
    {bs : List (Nat × Byte)} (hne : bs.Pairwise fun p q => p.1 ≠ q.1) (hlt : ∀ p ∈ bs, p.1 < 64) :
    (bs.foldl (fun s b => s.setB n (base + b.1) b.2) s).getB n (base + i) =
      ((bs.find? fun p => p.1 = i).map (·.2)).getD (s.getB n (base + i)) := by
  induction bs generalizing s with
  | nil => rfl
  | cons b bs ih =>
    obtain ⟨hfirst, hrest⟩ := List.pairwise_cons.mp hne
    obtain ⟨hb1, hlt'⟩ := List.forall_mem_cons.mp hlt
    rw [List.foldl_cons, ih (h.setB _ _ _) hrest hlt', State.getB_setB h n n b.2 (by omega) (by omega)]
    by_cases hbi : b.1 = i
    · have hnone : bs.find? (fun p => decide (p.1 = i)) = none :=
        List.find?_eq_none.mpr fun p hp => by simpa [hbi] using (hfirst p hp).symm
      simp [hnone, hbi]
    · have hcell : cell n (base + i) ≠ cell n (base + b.1) := fun e => by
        have := cell_inj n (by omega) (by omega) e
        omega
      simp [hcell, hbi]

theorem Core.presOf_present {c : Core} (h : c.r.pres = []) (b : Nat) : c.presOf b = .present := by rw [Core.presOf, h]; rfl

theorem firstElem_none (w : List Seen) (esz g : Nat) {bad : Nat → Bool} (h : ∀ i, bad i = false) : firstElem w esz g bad = none := by
  refine List.findSome?_eq_none_iff.mpr fun u _ => ?_
  split
  · refine List.findSome?_eq_none_iff.mpr fun x _ => ?_
    simp [h]
  · rfl

theorem blockFail_none (w : List Seen) (sz base : Nat) (gs : List Nat) : blockFail w sz base (fun _ => 0) gs = none := by
  refine List.findSome?_eq_none_iff.mpr fun g _ => ?_
  have hzero (i : Nat) : ((blockOf (64 * (g - base) + i)).map fun _ => (0 : BitVec 8)).getD 0 = 0 := by
    cases blockOf (64 * (g - base) + i) <;> rfl
  rw [firstElem_none _ _ _ fun i => decide_eq_false (not_not_intro (hzero i))]
  rfl

/-- A Deliver move of one grain with every block present. -/
theorem State.deliverData_eq {s u : State} {n g : Nat} {a : Active} {bs : List (Nat × Byte)} (hspace : a.cmd.dSpace = 0)
    (hdue : a.cmd.due = none) (hpres : (s.getCore n).r.pres = []) (hblocks : a.cmd.wholeBlocks = false)
    (hbs : deliverable (s.seen n a) a g = some bs) (hdone : 2 * g ∉ a.done)
    (hfree : s.writeBefore n a.cmd.id ((s.localGrain n g true).home, (s.localGrain n g true).num) = false ∧
      s.readBefore n a.cmd.id ((s.localGrain n g true).home, (s.localGrain n g true).num) = false ∧
      s.readFirst n a (s.seen n a) (lastUnit (s.seen n a) g) ((s.localGrain n g true).home, (s.localGrain n g true).num) = false)
    (hstat : ∀ q ∈ (s.localGrain n g true).stat, q = 0)
    (hu : s.readAhead n a.cmd ((s.localGrain n g true).home, (s.localGrain n g true).num) = some u) :
    s.deliverData n a g =
      ((bs.foldl (fun s b => s.setB n (64 * g + b.1) b.2) u).setAct n { u.actNow n a with done := a.done ++ [2 * g] }).retire n
        a.cmd.id := by
  have hplace : a.cmd.place n g = (n, g) := if_neg (by rw [hspace]; decide)
  have hgrain (win k : Nat) : s.grainOf (a.cmd.ctx n) .write 0 win k none = s.localGrain n k true := rfl
  have hmates : (mates a.cmd (s.seen n a) a g).filter (fun k => !a.done.contains (2 * k)) = [g] := by
    simp [mates, hblocks, hdone]
  have hgone (l : List Nat) : l.filter (fun b => decide ((s.getCore n).presOf b = .absent) || decide ((s.getCore n).presOf b = .poisoned)) = [] := by
    simp [Core.presOf_present hpres]
  have hheld : (s.localGrain n g true).held = false := rfl
  have hzero (i : Nat) : (s.localGrain n g true).stat.getD i 0 = 0 := by
    rw [List.getD_eq_getElem?_getD]
    cases hi : (s.localGrain n g true).stat[i]? with
    | none => rfl
    | some q => exact hstat q (List.mem_of_getElem? hi)
  have hfirst (sz : Nat) : firstElem (s.seen n a) sz g (fun i => decide ((s.localGrain n g true).stat.getD i 0 ≠ 0)) = none :=
    firstElem_none _ _ _ fun i => by simp only [hzero, ne_eq, not_true_eq_false, decide_false]
  have hpull : s.pullFor (s.localGrain n g true) [] = some (s, true) := rfl
  have hone : [g].eraseDups = [g] := rfl
  obtain ⟨hwrite, hread, hlater⟩ := hfree
  have hnew : a.done.contains (2 * g) = false := by simpa using hdone
  unfold State.deliverData
  simp only [hplace, hmates, hgone, hspace, hgrain]
  simp only [List.filter_nil, List.flatMap_nil, List.append_nil, hone, List.any_cons, List.any_nil, hheld, hwrite, hread, hlater,
    hdue, hbs, hnew, List.contains_nil, List.findSome?_cons, hfirst, Option.map_none, List.findSome?_nil, hpull, List.foldl_cons,
    List.foldl_nil, Option.bind_some, hu, Option.isSome_none, Option.isNone_some, Bool.or_false, Bool.false_eq_true, if_false,
    blockFail_none, List.filterMap_cons, List.filterMap_nil, Option.map_some, List.map_cons, List.map_nil, State.applyGrains]
  rw [hplace]

/-- Bytes written at their places change the memories alone. -/
theorem State.foldl_setB_mem_host (s : State) (n base : Nat) (bs : List (Nat × Byte)) :
    (bs.foldl (fun s b => s.setB n (base + b.1) b.2) s).mem = s.mem ∧ (bs.foldl (fun s b => s.setB n (base + b.1) b.2) s).host = s.host := by
  refine List.foldlRecOn (motive := fun t : State => t.mem = s.mem ∧ t.host = s.host) bs _ ⟨rfl, rfl⟩ fun t ht b _ => ?_
  rw [State.setB_cell]
  obtain ⟨hmem, hhost⟩ := t.putCore_mem_host (cell n (base + b.1)).1 ((t.getCore (cell n (base + b.1)).1).setB (cell n (base + b.1)).2 b.2)
  exact ⟨hmem.trans ht.1, hhost.trans ht.2⟩

theorem State.actNow_cmd {s u : State} {n : Nat} {a : Active} (ha : (s.getCore n).actOf a.cmd.id = some a) (hu : State.Ahead n s u) :
    (u.actNow n a).cmd = a.cmd := by
  have h := hu.2 a.cmd.id
  rw [ha, Option.map_some] at h
  obtain ⟨b, hb, hcmd⟩ := Option.map_eq_some_iff.mp h
  rw [State.actNow, hb, Option.getD_some, hcmd]

/-- What a Deliver move of one grain leaves. -/
theorem State.deliverData_leaves {s u : State} {n g : Nat} {a : Active} {bs : List (Nat × Byte)}
    (ha : (s.getCore n).actOf a.cmd.id = some a) (hspace : a.cmd.dSpace = 0)
    (hinv : s.Inv) (hend : 64 * g + 64 ≤ 0x200000) (hbs : deliverable (s.seen n a) a g = some bs) (hu : State.Ahead n s u)
    {t : State} (ht : t = ((bs.foldl (fun s b => s.setB n (64 * g + b.1) b.2) u).setAct n
      { u.actNow n a with done := a.done ++ [2 * g] }).retire n a.cmd.id) :
    t.mem = s.mem ∧ t.host = s.host ∧
      (∀ i < 64, t.getB n (64 * g + i) = ((bs.find? fun p => p.1 = i).map (·.2)).getD (s.getB n (64 * g + i))) ∧
      ∀ b, (t.getCore n).actOf a.cmd.id = some b → b.done = a.done ++ [2 * g] := by
  set v := bs.foldl (fun s b => s.setB n (64 * g + b.1) b.2) u with hv
  set a' : Active := { u.actNow n a with done := a.done ++ [2 * g] } with ha'
  have hcmd : a'.cmd = a.cmd := State.actNow_cmd ha hu
  have hact {b : Active} (hb : ((v.setAct n a').getCore n).actOf a.cmd.id = some b) : b = a' := by
    rw [State.setAct, State.getCore_putCore, ← hcmd] at hb
    exact Core.actOf_setAct hb
  have hkept : v.Kept t := by
    rw [ht]
    refine (State.Kept.setAct v n a').trans (.retire _ n _ fun b hb => ?_)
    rw [hact hb, hcmd, hspace]
    decide
  obtain ⟨hmem, hhost⟩ := u.foldl_setB_mem_host n (64 * g) bs
  obtain ⟨-, hmem', hhost', -⟩ := hu.1
  refine ⟨hkept.2.1.trans (hmem.trans hmem'), hkept.2.2.1.trans (hhost.trans hhost'), fun i hi => ?_, fun b hb => ?_⟩
  · obtain ⟨hne, hlt⟩ := deliverable_places hbs
    rw [hkept.getB (by omega), State.getB_foldl_setB (hu.1.1 hinv) n hend hi hne hlt, hu.1.getB (by omega)]
  · rw [ht] at hb
    rw [hact (State.retire_actOf hb)]

end Sys2Proof.Machine
end

section
/-! PROOFS. Groups that are complete, and the completion hooks (08 R198; 09 R217 to R219, R236, R240; 10 R259, R261). -/

namespace Sys2Proof.Machine

/-! ## A group that is complete (08 R198; 09 R217 to R219, R240) -/

theorem onDevice_core {n : Nat} (h : n < 2048) (f : State) : onDevice n f = .next f := if_neg (Nat.not_le.mpr h)

/-- The failure of a group, as its token reports it. -/
def Group.outcome (g : Group) : Fail := (g.fail.map (·.2)).getD { status := 0, faddr := 0, poff := none }

section
variable (c : Core) (g : Group)

theorem Core.complete_frame : (c.complete g).cp.groups = c.cp.groups.filter (fun y => y.id ≠ g.id) ∧
    (c.complete g).cp.fpPend = c.cp.fpPend ||| g.fp ∧ (c.complete g).r = c.r := by
  simp only [Core.complete]
  split
  · exact ⟨rfl, rfl, rfl⟩
  · split <;> exact ⟨rfl, rfl, rfl⟩

theorem Core.complete_tokens (h0 : g.tq ≠ 0) (h10 : g.tq.toNat < 10) : (c.complete g).tokens g.tq =
    c.tokens g.tq ++ [⟨g.outcome.status, g.outcome.faddr, g.outcome.poff⟩] := by
  simp only [Core.complete, if_pos h0, Core.tokens, vget_vset_same _ _ _ _ h10, Group.outcome]
  cases g.fail <;> rfl

theorem Core.complete_unobs (h0 : g.tq = 0) (hf : g.fail = none) : (c.complete g).cp.unobs = c.cp.unobs := by
  simp only [Core.complete, h0, ne_eq, not_true_eq_false, if_false, hf]

theorem Core.complete_keeps (h0 : g.tq = 0) {f : Nat × Fail} (hf : g.fail = some f) : (g.id, f.2) ∈ (c.complete g).cp.unobs := by
  simp only [Core.complete, h0, ne_eq, not_true_eq_false, if_false, hf]
  exact List.mem_append_right _ List.mem_cons_self

end

/-- A Complete move leaves in its core what the group leaves, and the count of the event where there is a token. -/
theorem execComplete_ready {n : Nat} {grp : Group} {s : State} (hn : n < 2048) (hclock : s.clockStopped n = false)
    (hfind : (s.getCore n).cp.groups.find? (fun y => y.id = grp.id) = some grp) (hphase : (s.getCore n).phase = .arrive)
    (hready : s.groupReady n grp = true) : ∃ t, execComplete n grp.id s = .next t ∧
      t.getCore n = (if grp.tq ≠ 0 then (s.getCore n).replayNext 4 else s.getCore n).complete grp := by
  refine ⟨_, onDevice_core hn _, ?_⟩
  simp only [hfind, hphase, hclock, hready, decide_true, Bool.not_false, Bool.and_self, if_true, State.getCore_putCore]
  split
  · rw [State.record_getCore]
  · rfl

/-! ## The completion hooks (09 R236; 10 R259, R261) -/

/-- A ring without an open slot takes no fill. -/
theorem fillHook_none {r : BitVec 4} {c : Core} : Core.fillHook r c = none ↔ ¬((c.ring r).valid = true ∧ (c.ring r).opened ≠ 0) := by
  have hclosed : (!(c.ring r).valid || decide ((c.ring r).opened = 0)) = true ↔ ¬((c.ring r).valid = true ∧ (c.ring r).opened ≠ 0) := by
    simp [imp_iff_not_or]
  simp only [Core.fillHook, hclosed]
  split
  next h => simp [h]
  next h => simp [h]

/-- A ring with an open slot is filled by one, and so is its view. -/
theorem fillHook_open {r : BitVec 4} {c : Core} (h : (c.ring r).valid = true ∧ (c.ring r).opened ≠ 0) : ∃ c', Core.fillHook r c = some c' ∧
    vget c'.q.ring r.toNat .reset = { c.ring r with tail := (c.ring r).tail + 1 } ∧
    (vget c'.q.ringV r.toNat .reset).tail = (vget c.q.ringV r.toNat .reset).tail + 1 := by
  have hr : r.toNat < 16 := r.isLt
  have hopen : ¬(!(c.ring r).valid || decide ((c.ring r).opened = 0)) = true := by simp [h.1, h.2]
  refine ⟨_, if_neg hopen, vget_vset_same _ _ _ _ hr, ?_⟩
  simp only [Core.setRing, Core.ring, vget_vset_same _ _ _ _ hr, Ring.plus, Ring.minus]
  bv_omega

/-- What a barrier cell refuses: more than it expects, or more than it can note early (R261). -/
theorem Bar.arrive_none {b : Bar} {k : Nat} : b.arrive k = none ↔
    ¬(if b.posted then 0 ≤ b.pending.toInt - (k : Int) else -(2 ^ 31) ≤ b.pending.toInt - (k : Int)) := by
  unfold Bar.arrive
  cases b.posted
  · simp only [Bool.false_and, Bool.not_false, Bool.true_and, decide_eq_true_eq, Bool.false_eq_true, if_false, not_le,
      ite_eq_left_iff, reduceCtorEq, imp_false, not_not]
  · simp only [Bool.true_and, Bool.not_true, Bool.false_and, decide_eq_true_eq, Bool.false_eq_true, if_false, if_true, not_le,
      ite_eq_left_iff, reduceCtorEq, imp_false, not_not, sub_neg]

theorem byteHook_none {b : BitVec 3} {k : Nat} {c : Core} : Core.byteHook b k c = none ↔ (c.bar b).arrive k = none := by
  unfold Core.byteHook
  cases (c.bar b).arrive k with
  | none => simp
  | some x => simp

/-- An arrival that a cell takes. -/
theorem byteHook_some {b : BitVec 3} {k : Nat} {c : Core} {x : Bar} (h : (c.bar b).arrive k = some x) :
    ∃ c', Core.byteHook b k c = some c' ∧ vget c'.q.bar b.toNat .reset = x := by
  have hb : b.toNat < 8 := b.isLt
  simp only [Core.byteHook, h]
  exact ⟨_, rfl, vget_vset_same _ _ _ _ hb⟩

theorem pending_sub (x : W32) (k : Nat) : x - BitVec.ofNat 32 k = BitVec.ofInt 32 (x.toInt - k) := by
  rw [Int.sub_eq_add_neg, BitVec.ofInt_add, BitVec.ofInt_toInt, BitVec.ofInt_neg, BitVec.ofInt_natCast, BitVec.sub_eq_add_neg]

section
variable {b : Bar} {k : Nat}

/-- A posted cell with more to come. -/
theorem Bar.arrive_pending (hp : b.posted = true) (h : 0 < b.pending.toInt - (k : Int)) :
    b.arrive k = some { b with pending := BitVec.ofInt 32 (b.pending.toInt - k) } := by
  have hlt : b.pending.toInt < 2 ^ 31 := b.pending.toInt_lt
  have hne : ¬(BitVec.ofInt 32 (b.pending.toInt - k) = 0) := fun e => by
    have := congrArg BitVec.toInt e
    rw [BitVec.toInt_ofInt_eq_self (by omega) (by omega) (by omega)] at this
    change _ = (0 : Int) at this
    omega
  simp only [Bar.arrive, Bar.settle, hp, Bool.true_and, decide_eq_true_eq, Bool.not_true, Bool.false_and, Bool.false_eq_true,
    if_false, sub_pos.mp h |>.le, not_lt.mpr, pending_sub, hne]

/-- The arrival that completes a phase. -/
theorem Bar.arrive_last (hp : b.posted = true) (h : b.pending.toInt - (k : Int) = 0) :
    b.arrive k = some { posted := false, phase := !b.phase, pending := 0 } := by
  have hzero : b.pending - BitVec.ofNat 32 k = 0 := by rw [pending_sub, h]; rfl
  simp only [Bar.arrive, Bar.settle, hp, Bool.true_and, decide_eq_true_eq, Bool.not_true, Bool.false_and, Bool.false_eq_true,
    if_false, (sub_eq_zero.mp h).ge, not_lt.mpr, hzero, if_true, decide_true]

/-- An arrival before the expectation is posted. -/
theorem Bar.arrive_early (hp : b.posted = false) (h : -(2 ^ 31) ≤ b.pending.toInt - (k : Int)) :
    b.arrive k = some { b with pending := b.pending - BitVec.ofNat 32 k } := by
  simp only [Bar.arrive, Bar.settle, hp, Bool.false_and, Bool.not_false, Bool.true_and, decide_eq_true_eq, Bool.false_eq_true,
    if_false, not_lt.mpr h]

end

/-! ## A hook of a settled command (09 R236) -/

/-- A command whose walk meets no failure has none noted. -/
theorem walkFail_none {w : List Seen} {a : Active} (h : walkFail w a = none) : a.fail = none := by
  unfold walkFail at h
  split at h
  · cases h
  · dsimp only at h
    split at h
    · cases h
    · exact (Option.or_eq_none_iff.mp h).2

section
variable {s : State} {n : Nat} {a : Active} (ha : (s.getCore n).actOf a.cmd.id = some a) (hspace : a.cmd.dSpace = 0)
include hspace

/-- The hooks of a command with a destination in its own core, judged together. -/
theorem Cmd.hookStatus_local (w : List Seen) (c : Core) : a.cmd.hookStatus w a c =
    if (a.cmd.flags.getLsbD 4 = true ∧ a.rfDone = false) ∧ a.cmd.fill c = none then 0x10
    else if (a.cmd.flags.getLsbD 5 = true ∧ a.baDone = false) ∧ a.cmd.arrival w c = none then 0x11 else 0 := by
  have hfar : ¬(decide (a.cmd.dSpace = 1) && (!c.runs || decide (c.tenant ≠ a.cmd.tenant))) = true := by simp [hspace]
  refine (if_neg hfar).trans ?_
  simp only [flagRF, flagBA, Bool.and_eq_true, Bool.not_eq_true', Option.isNone_iff_eq_none]

variable (hphase : (s.getCore n).phase = .arrive) (hclock : s.clockStopped n = false) (hsettled : s.settled n a = true)
  (hfail : walkFail (s.seen n a) a = none) (act : Core → Option Core) (done : Active → Active)
include hphase hclock hsettled hfail

theorem State.hookMove_eq : s.hookMove n a act done =
    if a.cmd.hookStatus (s.seen n a) a (s.getCore n) ≠ 0 then
      (if a.rfDone || a.baDone then s else
        s.endAt n a ((s.seen n a).length, 0) (a.cmd.hookStatus (s.seen n a) a (s.getCore n)) (hAddr a.cmd.hd))
    else ((act (s.getCore n)).map fun c' => ((s.putCore n c').setAct n (done a)).retire n a.cmd.id).getD s := by
  have hplace : a.cmd.place n (hAddr a.cmd.hd / 64) = (n, hAddr a.cmd.hd / 64) := if_neg (by rw [hspace]; decide)
  unfold State.hookMove
  simp only [hplace, hphase, hclock, hsettled, hfail]
  simp only [ne_eq, not_true_eq_false, decide_false, Bool.or_false, Bool.not_true, Option.isSome_none, Bool.false_eq_true, if_false]
  cases act (s.getCore n) <;> rfl

/-- A hook that is not refused is applied. -/
theorem State.hookMove_applies (hst : a.cmd.hookStatus (s.seen n a) a (s.getCore n) = 0) {c' : Core}
    (hact : act (s.getCore n) = some c') (hdone : (done a).cmd = a.cmd) : ((s.hookMove n a act done).getCore n).q = c'.q := by
  rw [State.hookMove_eq hspace hphase hclock hsettled hfail act done, if_neg (not_not_intro hst), hact,
    Option.map_some, Option.getD_some]
  have hkept : (s.putCore n c').Kept (((s.putCore n c').setAct n (done a)).retire n a.cmd.id) := by
    refine (State.Kept.setAct _ n (done a)).trans (.retire _ n _ fun b hb => ?_)
    rw [State.setAct, State.getCore_putCore, ← hdone] at hb
    rw [Core.actOf_setAct hb, hdone, hspace]
    decide
  rw [(hkept.2.2.2 n).2, State.getCore_putCore]

/-- A refused hook ends the command with its status, and applies neither. -/
theorem State.hookMove_refused (hst : a.cmd.hookStatus (s.seen n a) a (s.getCore n) ≠ 0) (hrf : a.rfDone = false)
    (hba : a.baDone = false) : ((s.hookMove n a act done).getCore n).q = (s.getCore n).q ∧
      ∀ y, ((s.hookMove n a act done).getCore n).actOf a.cmd.id = some y →
        ∃ p, y.fail = some p ∧ p.2.status = a.cmd.hookStatus (s.seen n a) a (s.getCore n) := by
  set st := a.cmd.hookStatus (s.seen n a) a (s.getCore n) with hst'
  set a' := a.failing ((s.seen n a).length, 0) st (hAddr a.cmd.hd) with ha'
  have hadmits : s.admits n a a' = true := by
    have hwritten : (s.getCore n).written a = [] := if_pos (by rw [hspace]; decide)
    simp [State.admits, hwritten]
  have hfailAt : s.failAt n a ((s.seen n a).length, 0) st (hAddr a.cmd.hd) = some (s.adopt n a') := if_pos (by rw [← ha', hadmits, Bool.or_true])
  have hmove : s.hookMove n a act done = (s.adopt n a').retire n a.cmd.id := by
    rw [State.hookMove_eq hspace hphase hclock hsettled hfail act done, if_pos hst, hrf, hba, ← hst']
    simp only [Bool.or_self, Bool.false_eq_true, if_false, State.endAt, hfailAt, id_eq]
  have hact {b : Active} (hb : ((s.adopt n a').getCore n).actOf a.cmd.id = some b) : b = a' := by
    rw [State.adopt, State.getCore_putCore, State.setAct, State.getCore_putCore] at hb
    exact Core.actOf_setAct (c := s.getCore n) hb
  have hadopt : s.Kept (s.adopt n a') := (State.Kept.setAct s n a').trans (.putCore ⟨rfl, rfl⟩)
  have hkept : s.Kept ((s.adopt n a').retire n a.cmd.id) := by
    refine hadopt.trans (.retire (s.adopt n a') n _ fun b hb => ?_)
    rw [hact hb, ha', Active.failing, hspace]
    decide
  rw [hmove]
  refine ⟨(hkept.2.2.2 n).2, fun y hy => ?_⟩
  rw [hact (State.retire_actOf hy), ha', Active.failing, walkFail_none hfail]
  exact ⟨_, rfl, rfl⟩

end

/-- A Deliver move reaches its own core's data. -/
theorem execDeliver_local {s : State} {n g : Nat} {a : Active} (hn : n < 2048) (hclock : s.clockStopped n = false)
    (ha : (s.getCore n).actOf a.cmd.id = some a) (hkind : a.cmd.kind = .copy ∨ a.cmd.kind = .cred) (hspace : a.cmd.dSpace = 0)
    (hphase : (s.getCore n).phase = .arrive) : execDeliver n a.cmd.id (2 * g) s = .next (s.deliverData n a g) := by
  have hcatom : ¬a.cmd.kind = .catom := by rcases hkind with h | h <;> rw [h] <;> decide
  have hplace : a.cmd.place n g = (n, g) := if_neg (by rw [hspace]; decide)
  have heven : ¬2 * g % 2 = 1 := by omega
  have hhalf : 2 * g / 2 = g := by omega
  rw [execDeliver, onDevice_core hn]
  simp only [ha, heven, hhalf, hplace, hcatom, hspace, ite_self, hphase, hclock]
  rfl

section
variable {s : State} {n : Nat} {a : Active} (hn : n < 2048) (ha : (s.getCore n).actOf a.cmd.id = some a)
include hn ha

theorem execRfHook_due (h : a.cmd.flags.getLsbD 4 = true ∧ a.rfDone = false) :
    execRfHook n a.cmd.id s = .next (s.hookMove n a a.cmd.fill fun a => { a with rfDone := true }) := by
  rw [execRfHook, onDevice_core hn]
  simp only [ha, flagRF, h.1, h.2, Bool.not_false, Bool.and_self, if_true]

theorem execBaHook_due (h : a.cmd.flags.getLsbD 5 = true ∧ a.baDone = false) :
    execBaHook n a.cmd.id s = .next (s.hookMove n a (a.cmd.arrival (s.seen n a)) fun a => { a with baDone := true }) := by
  rw [execBaHook, onDevice_core hn]
  simp only [ha, flagBA, h.1, h.2, Bool.not_false, Bool.and_self, if_true]

end

/-- Settles O57: a grain by `State.deliverData_leaves`, a group by `execComplete_ready`, a hook by
`State.hookMove_applies` and `State.hookMove_refused`. -/
theorem deliveriesGroupsAndHooks : Obligations.DeliveriesGroupsAndHooks := by
  refine ⟨?_, ?_⟩
  · intro n id g a bs grp s hn hclock c w x free fail
    refine ⟨?_, ?_⟩
    · intro ha hkind hspace hdue hphase hpres hend hblocks hbs hdone hfree hstat hinv u hu
      obtain rfl : a.cmd.id = id := Core.actOf_id ha
      refine ⟨_, execDeliver_local hn hclock ha hkind hspace hphase, ?_⟩
      exact State.deliverData_leaves ha hspace hinv hend hbs (State.AheadBy.readAhead s n a.cmd _ u hu)
        (State.deliverData_eq hspace hdue hpres hblocks hbs hdone hfree hstat hu)
    · intro hfind hphase hready
      obtain ⟨t, ht, hcore⟩ := execComplete_ready hn hclock hfind hphase hready
      obtain ⟨hgroups, hfp, hr⟩ := Core.complete_frame (if grp.tq ≠ 0 then c.replayNext 4 else c) grp
      have hframe : (if grp.tq ≠ 0 then c.replayNext 4 else c).cp = c.cp ∧ (if grp.tq ≠ 0 then c.replayNext 4 else c).r = c.r ∧
          (if grp.tq ≠ 0 then c.replayNext 4 else c).q = c.q := by
        split
        · exact ⟨rfl, rfl, rfl⟩
        · exact ⟨rfl, rfl, rfl⟩
      obtain ⟨hcp, hr', hq⟩ := hframe
      rw [hcp] at hgroups hfp
      refine ⟨t, ht, ?_⟩
      rw [hcore]
      refine ⟨hgroups, hfp, hr.trans hr', fun h0 hrange => ?_, fun h0 hnone => ?_, fun h0 f hf => Core.complete_keeps _ grp h0 hf⟩
      · rw [Core.complete_tokens _ grp h0 hrange.2, Core.tokens, hq]
        rfl
      · rw [Core.complete_unobs _ grp h0 hnone, hcp]
  · intro n id a s hn hclock c w f rn bn r b k down ready rf ba ringOk cellOk fails
    have hring : a.cmd.fill c = none ↔ ¬ringOk := fillHook_none
    have hcell : a.cmd.arrival w c = none ↔ ¬cellOk := byteHook_none.trans Bar.arrive_none
    by_cases hready : ready
    case neg => exact ⟨fun h => absurd h hready, fun h => absurd h hready, fun h => absurd h hready, fun h => absurd h hready⟩
    obtain ⟨ha, hspace, hphase, hsettled, hfail⟩ := hready
    obtain rfl : a.cmd.id = id := Core.actOf_id ha
    have hstatus := Cmd.hookStatus_local hspace w c
    have hrefused (act : Core → Option Core) (done : Active → Active) :=
      State.hookMove_refused hspace hphase hclock hsettled hfail act done
    refine ⟨fun _ hdue hother hopen => ?_, fun _ hdue hother => ?_, fun _ hr0 hb0 hdue hclosed => ?_,
      fun _ hr0 hb0 hdue hclosed hother => ?_⟩
    · have hzero : a.cmd.hookStatus w a c = 0 := by
        rw [hstatus, if_neg fun h => hring.mp h.2 hopen, if_neg fun h => hcell.mp h.2 (hother h.1)]
      obtain ⟨c', hfill, htail, hview⟩ := fillHook_open (r := a.cmd.aux.extractLsb' 0 4) (c := c) hopen
      have hq := State.hookMove_applies hspace hphase hclock hsettled hfail a.cmd.fill (fun a => { a with rfDone := true }) hzero hfill rfl
      exact ⟨_, execRfHook_due hn ha hdue, by rw [hq]; exact htail, by rw [hq]; exact hview⟩
    · have harrive {y : Bar} (hy : b.arrive k = some y) : ∃ t, exec (.baHook n a.cmd.id) s = .next t ∧ vget (t.getCore n).q.bar bn .reset = y := by
        obtain ⟨c', hc', hbar⟩ := byteHook_some (c := c) hy
        have hzero : a.cmd.hookStatus w a c = 0 := by
          rw [hstatus, if_neg fun h => hring.mp h.2 (hother h.1), if_neg fun h => absurd (h.2.symm.trans hc') (by simp)]
        have hq := State.hookMove_applies hspace hphase hclock hsettled hfail (a.cmd.arrival w) (fun a => { a with baDone := true }) hzero
          hc' rfl
        exact ⟨_, execBaHook_due hn ha hdue, by rw [hq]; exact hbar⟩
      exact ⟨fun hp h => harrive (Bar.arrive_pending hp h), fun hp h => harrive (Bar.arrive_last hp h),
        fun hp h => harrive (Bar.arrive_early hp h)⟩
    · have hst : a.cmd.hookStatus w a c = 0x10 := by rw [hstatus, if_pos ⟨hdue, hring.mpr hclosed⟩]
      have hne : a.cmd.hookStatus w a c ≠ 0 := by rw [hst]; decide
      refine ⟨⟨_, execRfHook_due hn ha hdue, ?_⟩, fun hba => ⟨_, execBaHook_due hn ha hba, ?_⟩⟩
      · exact hst ▸ hrefused _ _ hne hr0 hb0
      · exact hst ▸ hrefused _ _ hne hr0 hb0
    · have hst : a.cmd.hookStatus w a c = 0x11 := by
        rw [hstatus, if_neg fun h => hring.mp h.2 (hother h.1), if_pos ⟨hdue, hcell.mpr hclosed⟩]
      have hne : a.cmd.hookStatus w a c ≠ 0 := by rw [hst]; decide
      refine ⟨⟨_, execBaHook_due hn ha hdue, ?_⟩, fun hrf => ⟨_, execRfHook_due hn ha hrf, ?_⟩⟩
      · exact hst ▸ hrefused _ _ hne hr0 hb0
      · exact hst ▸ hrefused _ _ hne hr0 hb0

end Sys2Proof.Machine
end

section
/-! PROOFS. The walks of handles, and evaluation from source bytes that are all read (04 R85, R86; 09 R219, R221). -/

namespace Sys2Proof.Machine

/-! ## Walks (04 R85, R86; 09 R221) -/

/-- Runs of one length, one behind the other, as one run. -/
theorem flatMap_range_map {α : Type} (f : Nat → Nat → α) (m n : Nat) :
    (List.range m).flatMap (fun r => (List.range n).map fun e => f r e) = (List.range (n * m)).map fun j => f (j / n) (j % n) := by
  induction m with
  | zero => rfl
  | succ m ih =>
    rw [List.range_succ, List.flatMap_append, ih, Nat.mul_succ, List.range_add, List.map_append, List.flatMap_singleton, List.map_map]
    refine congrArg _ (List.map_congr_left fun e he => ?_)
    have he : e < n := List.mem_range.mp he
    simp only [Function.comp_apply, Nat.mul_add_div (Nat.zero_lt_of_lt he), Nat.div_eq_of_lt he, Nat.add_zero, Nat.mul_add_mod,
      Nat.mod_eq_of_lt he]

theorem walkPos_eq (h : BitVec 256) : walkPos h = (List.range (hExt h 0 * (hExt h 1 * (hExt h 2 * hExt h 3)))).map fun n =>
    { i0 := n % hExt h 0, i1 := n / hExt h 0 % hExt h 1, i2 := n / (hExt h 0 * hExt h 1) % hExt h 2,
      i3 := n / (hExt h 0 * hExt h 1 * hExt h 2) } := by
  rw [walkPos, flatMap_range_map, runs, runLen, Nat.mul_assoc (hExt h 1)]
  refine List.map_congr_left fun n _ => ?_
  rw [posAt, Nat.div_div_eq_div_mul, Nat.div_div_eq_div_mul, Nat.mul_assoc (hExt h 0)]

theorem walkBlocks_eq (h : BitVec 256) : walkBlocks h =
    (List.range ((hExt h 0 + 255) / 256 * (hExt h 1 * (hExt h 2 * hExt h 3)))).map fun j =>
      (j / ((hExt h 0 + 255) / 256), j % ((hExt h 0 + 255) / 256), min 256 (hExt h 0 - 256 * (j % ((hExt h 0 + 255) / 256)))) := by
  rw [walkBlocks, flatMap_range_map, runs, Nat.mul_assoc (hExt h 1)]
  rfl

theorem inExt_iff (h : BitVec 256) (p : Pos) :
    inExt h p = true ↔ p.i0 < hExt h 0 ∧ p.i1 < hExt h 1 ∧ p.i2 < hExt h 2 ∧ p.i3 < hExt h 3 := by
  simp only [inExt, Bool.and_eq_true, decide_eq_true_eq, and_assoc]

/-- A mixed-radix index ends below the product. -/
theorem mixed_lt {a b i j : Nat} (hi : i < a) (hj : j < b) : i + a * j < a * b :=
  calc i + a * j < a * (j + 1) := by rw [Nat.mul_succ]; omega
    _ ≤ a * b := Nat.mul_le_mul_left a hj

theorem walkPos_linear {h : BitVec 256} {p : Pos} (hp : inExt h p = true) : (walkPos h)[linear h p]? = some p := by
  obtain ⟨h0, h1, h2, h3⟩ := (inExt_iff h p).mp hp
  have hlt : linear h p < hExt h 0 * (hExt h 1 * (hExt h 2 * hExt h 3)) := mixed_lt h0 (mixed_lt h1 (mixed_lt h2 h3))
  have hdiv {a i j : Nat} (hi : i < a) : (i + a * j) / a = j ∧ (i + a * j) % a = i := by
    rw [Nat.add_mul_div_left _ _ (Nat.zero_lt_of_lt hi), Nat.div_eq_of_lt hi, Nat.zero_add, Nat.add_mul_mod_self_left, Nat.mod_eq_of_lt hi]
    exact ⟨rfl, rfl⟩
  rw [walkPos_eq, List.getElem?_map, List.getElem?_range hlt, Option.map_some]
  simp only [← Nat.div_div_eq_div_mul]
  rw [linear, (hdiv h0).1, (hdiv h0).2, (hdiv h1).1, (hdiv h1).2, (hdiv h2).1, (hdiv h2).2]

theorem mem_walkPos {h : BitVec 256} {p : Pos} : p ∈ walkPos h ↔ inExt h p = true := by
  refine ⟨fun hp => ?_, fun hp => List.mem_of_getElem? (walkPos_linear hp)⟩
  simp only [walkPos, List.mem_flatMap, List.mem_map, List.mem_range, runs, runLen] at hp
  obtain ⟨r, hr, e, he, rfl⟩ := hp
  have h1 : 0 < hExt h 1 := Nat.pos_of_ne_zero fun e => by simp [e] at hr
  have h2 : 0 < hExt h 2 := Nat.pos_of_ne_zero fun e => by simp [e] at hr
  exact (inExt_iff h _).mpr ⟨he, Nat.mod_lt _ h1, Nat.mod_lt _ h2, Nat.div_lt_of_lt_mul hr⟩

/-- A block of a walk: its run, its place in it, and the positions that it has. -/
theorem mem_walkBlocks {h : BitVec 256} {w : Nat × Nat × Nat} (hw : w ∈ walkBlocks h) :
    w.1 < hExt h 1 * hExt h 2 * hExt h 3 ∧ w.2.2 = min 256 (hExt h 0 - 256 * w.2.1) := by
  simp only [walkBlocks, List.mem_flatMap, List.mem_map, List.mem_range, runs, runLen] at hw
  obtain ⟨r, hr, c, -, rfl⟩ := hw
  exact ⟨hr, rfl⟩

theorem blockAddr_eq (h : BitVec 256) (p : Pos) : blockAddr h p = (hAddr h : Int) +
    ((p.i0 : Int) + p.i1 * hStride h 1 + p.i2 * hStride h 2 + p.i3 * hStride h 3) / 256 * (if hEt h = 13 then 132 else 260) := by
  rw [blockAddr, etBlock]
  split <;> rfl

/-! ## Evaluation where every source byte is read without a failure (09 R219) -/

/-- Source bytes that are all read without a failure. -/
def goodBytes (b : Nat → Nat → Byte) : Source := fun space a => some (0, b space a)

/-- Consecutive bytes of a space. -/
def bytesAt (b : Nat → Nat → Byte) (space n : Nat) (a : Int) : List Byte := (List.range n).map fun i => b space (a.toNat + i)

/-- A piece lies in its space (R85). -/
def inSpace (space : Nat) (a : Int) (n : Nat) : Prop := 0 ≤ a ∧ a + n ≤ 2 ^ (if space = 0 then 22 else if space = 1 then 33 else 48)

theorem inSpace_spaceBits {space : Nat} {a : Int} {n : Nat} (h : inSpace space a n) : 0 ≤ a ∧ a + n ≤ ((2 ^ spaceBits space : Nat) : Int) := by
  obtain ⟨h0, hend⟩ := h
  refine ⟨h0, hend.trans (le_of_eq ?_)⟩
  rw [spaceBits]
  push_cast
  rfl

/-- A piece of one that lies in a space. -/
theorem inSpace.sub {space : Nat} {a : Int} {n : Nat} (h : inSpace space a n) {k m : Nat} (hk : k + m ≤ n) : inSpace space (a + k) m := by
  obtain ⟨h0, hend⟩ := h
  exact ⟨by omega, by omega⟩

@[simp] theorem bytesAt_length (b : Nat → Nat → Byte) (space n : Nat) (a : Int) : (bytesAt b space n a).length = n := by simp [bytesAt]

theorem bytesAt_take (b : Nat → Nat → Byte) (space : Nat) {m n : Nat} (h : m ≤ n) (a : Int) :
    (bytesAt b space n a).take m = bytesAt b space m a := by
  unfold bytesAt
  rw [← List.map_take, List.take_range, Nat.min_eq_left h]

theorem bytesAt_getD (b : Nat → Nat → Byte) (space : Nat) {n i : Nat} (h : i < n) {a : Int} (ha : 0 ≤ a) :
    (bytesAt b space n a).getD i 0 = b space (a + (i : Int)).toNat := by
  rw [List.getD_eq_getElem _ _ (by simpa using h)]
  simp only [bytesAt, List.getElem_map, List.getElem_range]
  congr 1
  omega

section
variable (b : Nat → Nat → Byte) {space n : Nat} {a : Int} (h : inSpace space a n)
include h

theorem fetchBytes_good : fetchBytes (goodBytes b) space a n = .val (bytesAt b space n a) := by
  obtain ⟨h0, hend⟩ := inSpace_spaceBits h
  have hin : ¬(decide (a < 0) || decide (((2 ^ spaceBits space : Nat) : Int) < a + n)) = true := by
    rw [Bool.or_eq_true, decide_eq_true_iff, decide_eq_true_iff]
    omega
  have hread : ((List.range n).map fun i => (a.toNat + i, goodBytes b space (a.toNat + i))).filter (·.2.isNone) = [] :=
    List.filter_eq_nil_iff.mpr fun p hp => by
      obtain ⟨i, -, rfl⟩ := List.mem_map.mp hp
      exact Bool.false_ne_true
  have hfind : (((List.range n).map fun i => (a.toNat + i, goodBytes b space (a.toNat + i))).map fun p => (p.1, p.2.getD (0, 0))).find?
      (fun p => decide (p.2.1 ≠ 0)) = none := by
    refine List.find?_eq_none.mpr fun p hp => ?_
    simp only [List.mem_map, exists_exists_and_eq_and] at hp
    obtain ⟨i, -, rfl⟩ := hp
    simp [goodBytes]
  unfold fetchBytes
  rw [if_neg hin]
  simp only [hread, hfind]
  simp only [List.map_map]
  rfl

theorem fetchNum_good : fetchNum (goodBytes b) space a n = .val (leNat (bytesAt b space n a)) := by
  rw [fetchNum, fetchBytes_good b h]
  rfl

theorem fetchMoved_good : fetchMoved (goodBytes b) space a n = .val ((bytesAt b space n a).map some, none) := by
  simp only [fetchMoved, fetchBytes_good b h]

end

/-- Values that are all at hand. -/
theorem Ev.all_val {α β : Type} (f : α → Ev β) (g : α → β) (l : List α) (h : ∀ x ∈ l, f x = .val (g x)) :
    Ev.all (l.map f) = .val (l.map g) := by
  induction l with
  | nil => rfl
  | cons x l ih =>
    obtain ⟨hx, hl⟩ := List.forall_mem_cons.mp h
    have hrest := ih hl
    simp only [Ev.all] at hrest
    simp only [Ev.all, List.map_cons, List.foldr_cons, hx, hrest]
    rfl

/-- Bytes moved with none lost to a race. -/
theorem movedPiece_whole (n : Nat) (a : Int) (l : List Byte) : movedPiece n a (l.map some, none) = { pos := n, writes := [(a, l)] } := by
  simp [movedPiece]

/-- Where an element or block of a handle may be read: in its space, and aligned in spaces 0 and 1 (R218, R222). -/
def readable (h : BitVec 256) (a : Int) (n : Nat) : Prop := inSpace (hSpace h) a n ∧ misplaced h a = false

theorem misplaced_false {h : BitVec 256} {a : Int} (ha : hSpace h ≤ 1 → a % hAlign h = 0) : misplaced h a = false := by
  rw [misplaced, Bool.and_eq_false_iff, decide_eq_false_iff_not, decide_eq_false_iff_not]
  by_cases hs : hSpace h ≤ 1
  · exact .inr (not_not_intro (ha hs))
  · exact .inl hs

theorem XArgs.atSrc_placed {α : Type} {x : XArgs} {a : Int} (h : misplaced x.hs a = false) (v : Ev α) : x.atSrc a v = v := by
  rw [XArgs.atSrc, h]
  rfl

end Sys2Proof.Machine
end

section
/-! PROOFS. Transforms of elements and of selector blocks (03 R60, R64, R65; 09 R223 to R227, R230, R231). -/

namespace Sys2Proof.Machine

/-! ## Elements that are moved or converted (09 R221, R225, R226, R230, R231) -/

/-- The results of a command's units. -/
def results (us : List Unit') (b : Nat → Nat → Byte) : List (Ev Piece) := us.map fun u => u.run (goodBytes b)

theorem results_each (x : XArgs) (f : Source → Pos → Ev Piece) (b : Nat → Nat → Byte) {g : Pos → Ev Piece}
    (h : ∀ p ∈ walkPos x.hd, f (goodBytes b) p = g p) : results (x.each f) b = (walkPos x.hd).map g := by
  rw [results, XArgs.each, List.map_map]
  exact List.map_congr_left h

/-- The bytes of the source element at a position; zeros outside the source. -/
def XArgs.elemBytes (x : XArgs) (b : Nat → Nat → Byte) (q : Pos) : List Byte :=
  if inExt x.hs q then bytesAt b (hSpace x.hs) x.sSz (elemAddr x.hs q) else List.replicate x.dSz 0

/-- Every element of the source may be read. -/
def XArgs.readsElems (x : XArgs) : Prop := ∀ p, inExt x.hs p = true → readable x.hs (elemAddr x.hs p) x.sSz

section
variable {x : XArgs} (hx : x.readsElems) (b : Nat → Nat → Byte)
include hx

theorem XArgs.moved_good (n : Nat) (q p : Pos) :
    x.moved (goodBytes b) n q p = .val { pos := n, writes := [(elemAddr x.hd p, x.elemBytes b q)] } := by
  by_cases hq : inExt x.hs q = true
  · obtain ⟨hspace, hplace⟩ := hx q hq
    rw [XArgs.moved, if_pos hq, XArgs.atSrc_placed hplace, fetchMoved_good b hspace, XArgs.elemBytes, if_pos hq, Ev.bind, movedPiece_whole]
  · rw [XArgs.moved, if_neg hq, XArgs.elemBytes, if_neg hq, Ev.bind, ← List.map_replicate, movedPiece_whole]

theorem XArgs.code_good (p : Pos) : x.code (goodBytes b) p =
    .val (if inExt x.hs p then leNat (bytesAt b (hSpace x.hs) x.sSz (elemAddr x.hs p)) else 0) := by
  by_cases hp : inExt x.hs p = true
  · obtain ⟨hspace, hplace⟩ := hx p hp
    rw [XArgs.code, if_pos hp, if_pos hp, XArgs.atSrc_placed hplace, fetchNum_good b hspace]
  · rw [XArgs.code, if_neg hp, if_neg hp]

theorem results_move (tr : Bool) : results (moveUnits x tr) b = (walkPos x.hd).map fun p =>
    .val { pos := linear x.hd p, writes := [(elemAddr x.hd p, x.elemBytes b (if tr then p.transpose else p))] } :=
  results_each x _ b fun p _ => XArgs.moved_good hx b _ _ p

/-- The exact value of a source element; +0 outside the source. -/
def XArgs.elemVal (x : XArgs) (b : Nat → Nat → Byte) (q : Pos) : X :=
  if inExt x.hs q then decEt x.sEt (leNat (x.elemBytes b q)) else .fin false 0 0

theorem results_convert (tr : Bool) : results (convertUnits x tr) b = (walkPos x.hd).map fun p =>
    .val (x.cvtOut p (x.elemVal b (if tr then p.transpose else p))) := by
  refine results_each x _ b fun p _ => ?_
  simp only [XArgs.code_good hx, Ev.bind]
  refine congrArg (fun v => Ev.val (x.cvtOut p v)) ?_
  generalize (if tr then p.transpose else p) = q
  simp only [XArgs.elemVal, XArgs.elemBytes]
  split <;> rfl

end

/-- The number at a place of a table in the scratchpad. -/
def tableAt (b : Nat → Nat → Byte) (base : W64) (n : Nat) : Nat := leNat (bytesAt b 0 4 ((base.toNat % 2 ^ 22 + 4 * n : Nat) : Int))

theorem tableWord_good (b : Nat → Nat → Byte) {base : W64} {n : Nat} (h : base.toNat % 2 ^ 22 + 4 * n + 4 ≤ 2 ^ 22) :
    tableWord (goodBytes b) base n = .val (tableAt b base n) := by
  have hbits : bits 21 0 base.toNat = base.toNat % 2 ^ 22 := rfl
  rw [tableWord, hbits, fetchNum_good b, tableAt]
  exact ⟨by omega, by exact_mod_cast h⟩

/-- The place in a table of the row of a position. -/
def tableRow (h : BitVec 256) (p : Pos) : Nat := p.i1 + hExt h 1 * (p.i2 + hExt h 2 * p.i3)

theorem tableRow_lt {h : BitVec 256} {p : Pos} (hp : p ∈ walkPos h) : tableRow h p < hExt h 1 * (hExt h 2 * hExt h 3) := by
  obtain ⟨-, h1, h2, h3⟩ := (inExt_iff h p).mp (mem_walkPos.mp hp)
  exact mixed_lt h1 (mixed_lt h2 h3)

/-- An index out of range, at the first element of its row (R230). -/
def lostRow (h : BitVec 256) (p : Pos) : Ev Piece := .err 0x0E (BitVec.ofInt 64 (elemAddr h { p with i0 := 0 }))

section
variable {x : XArgs} (hx : x.readsElems) (b : Nat → Nat → Byte)
include hx

theorem results_gather (ht : x.p0.toNat % 2 ^ 22 + 4 * (hExt x.hd 1 * (hExt x.hd 2 * hExt x.hd 3)) ≤ 2 ^ 22) :
    results (gatherUnits x) b = (walkPos x.hd).map fun p =>
      if tableAt b x.p0 (tableRow x.hd p) < hExt x.hs 1 then
        .val { pos := linear x.hd p, writes := [(elemAddr x.hd p,
          x.elemBytes b { i0 := p.i0, i1 := tableAt b x.p0 (tableRow x.hd p), i2 := 0, i3 := 0 })] }
      else lostRow x.hd p := by
  refine results_each x _ b fun p hp => ?_
  have hrow := tableRow_lt hp
  have hword := tableWord_good b (base := x.p0) (n := tableRow x.hd p) (by omega)
  simp only [tableRow] at hword
  simp only [hword, Ev.bind, XArgs.moved_good hx]
  exact (ite_congr (propext not_lt.symm) (fun _ => rfl) fun _ => rfl).trans (ite_not _ _ _)

theorem results_scatter (ht : x.p0.toNat % 2 ^ 22 + 4 * (hExt x.hs 1 * (hExt x.hs 2 * hExt x.hs 3)) ≤ 2 ^ 22) :
    results (scatterUnits x) b = (walkPos x.hs).map fun p =>
      if tableAt b x.p0 (tableRow x.hs p) < hExt x.hd 1 then
        .val { pos := linear x.hs p, writes := [(elemAddr x.hd { i0 := p.i0, i1 := tableAt b x.p0 (tableRow x.hs p), i2 := 0, i3 := 0 },
          x.elemBytes b p)] }
      else lostRow x.hs p := by
  rw [results, scatterUnits, List.map_map]
  refine List.map_congr_left fun p hp => ?_
  have hrow := tableRow_lt hp
  have hword := tableWord_good b (base := x.p0) (n := tableRow x.hs p) (by omega)
  simp only [tableRow] at hword
  simp only [Function.comp_apply, hword, Ev.bind, XArgs.moved_good hx]
  exact (ite_congr (propext not_lt.symm) (fun _ => rfl) fun _ => rfl).trans (ite_not _ _ _)

end

theorem results_fill (x : XArgs) (b : Nat → Nat → Byte) : results (fillUnits x) b = (walkPos x.hd).map fun p =>
    .val { pos := linear x.hd p, writes := [(elemAddr x.hd p, leBytes x.dSz x.p0.toNat)] } := results_each x _ b fun _ _ => rfl

/-- Whole blocks of layout 1 (R225). -/
theorem results_moveBlock {x : XArgs} (b : Nat → Nat → Byte)
    (h : ∀ w ∈ walkBlocks x.hd, readable x.hs (blockAddr x.hs (posAt x.hd w.1 (256 * w.2.1))) (etBlock (hEt x.hd))) :
    results (moveBlockUnits x) b = (walkBlocks x.hd).map fun w => .val
      { pos := linear x.hd (posAt x.hd w.1 (256 * w.2.1)), writes := [(blockAddr x.hd (posAt x.hd w.1 (256 * w.2.1)),
        bytesAt b (hSpace x.hs) (etBlock (hEt x.hd)) (blockAddr x.hs (posAt x.hd w.1 (256 * w.2.1))))] } := by
  rw [results, moveBlockUnits, List.map_map]
  refine List.map_congr_left fun w hw => ?_
  obtain ⟨hspace, hplace⟩ := h w hw
  simp only [Function.comp_apply, XArgs.atSrc_placed hplace, fetchMoved_good b hspace, Ev.bind, movedPiece_whole]

/-- The alignment of an element, or of a block, is enough to be read (R222). -/
theorem readable_of_aligned {h : BitVec 256} {a : Int} {n : Nat} (hspace : inSpace (hSpace h) a n)
    (halign : hSpace h ≤ 1 → a % (if hLayout h = 0 then (esz (hEt h) : Int) else 4) = 0) : readable h a n := by
  refine ⟨hspace, misplaced_false fun hs => ?_⟩
  have ha := halign hs
  rw [hAlign]
  by_cases h0 : hLayout h = 0
  · rwa [if_pos h0] at ha ⊢
  · rw [if_neg h0] at ha ⊢
    split
    · exact ha
    · exact Int.emod_one a

theorem readable_element {h : BitVec 256} {a : Int} {n : Nat} (hl : hLayout h = 0) (hspace : inSpace (hSpace h) a n)
    (halign : hSpace h ≤ 1 → a % (esz (hEt h) : Int) = 0) : readable h a n :=
  readable_of_aligned hspace fun hs => by rw [if_pos hl, halign hs]

theorem readable_block {h : BitVec 256} {a : Int} {n : Nat} (hl : hLayout h = 1) (hspace : inSpace (hSpace h) a n)
    (halign : hSpace h ≤ 1 → a % 4 = 0) : readable h a n :=
  readable_of_aligned hspace fun hs => by rw [if_neg (by rw [hl]; decide), halign hs]

theorem bits_eq (hi lo n : Nat) : bits hi lo n = n / 2 ^ lo % 2 ^ (hi + 1 - lo) := by rw [bits, Nat.shiftRight_eq_div_pow]

/-! ## Blocks that are coded (03 R60; 09 R223, R227) -/

/-- The FP32 code of a source element; +0 outside the source. -/
def XArgs.f32At (x : XArgs) (b : Nat → Nat → Byte) (q : Pos) : Nat :=
  if inExt x.hs q then (loadLane x.sEt (leNat (bytesAt b (hSpace x.hs) x.sSz (elemAddr x.hs q)))).toNat else 0

/-- The FP32 codes of a block of a walk over the source. -/
def XArgs.blockVals (x : XArgs) (b : Nat → Nat → Byte) (w : Nat × Nat × Nat) : List Nat :=
  (List.range w.2.2).map fun e => x.f32At b (posAt x.hs w.1 (256 * w.2.1 + e))

theorem XArgs.runF32_good {x : XArgs} (hx : x.readsElems) (b : Nat → Nat → Byte) (w : Nat × Nat × Nat) :
    x.runF32 (goodBytes b) w.1 w.2.1 w.2.2 = .val (x.blockVals b w) := by
  refine Ev.all_val _ _ _ fun e _ => ?_
  simp only [XArgs.code_good hx, Ev.bind, XArgs.f32At]
  split <;> rfl

/-- The block that QBLOCK codes. -/
def XArgs.qblock (x : XArgs) (b : Nat → Nat → Byte) (w : Nat × Nat × Nat) : Nat × List Nat × FpFlags :=
  let o := x.p0.toNat
  quant (x.blockVals b w) w.2.2 (hEt x.hd = 12) (o % 16) ((Rm.ofShort (o / 16 % 4)).getD .rne) (o / 64 % 4)
    fun i => (gen x.seed x.sid (BitVec.ofNat 32 (linear x.hd (posAt x.hd w.1 (256 * w.2.1)) + i)) (x.p1.setWidth 32)).toNat

theorem results_qblock {x : XArgs} (hx : x.readsElems) (b : Nat → Nat → Byte) : results (qblockUnits x) b =
    (walkBlocks x.hd).map fun w => .val
      { pos := linear x.hd (posAt x.hd w.1 (256 * w.2.1)),
        writes := [(blockAddr x.hd (posAt x.hd w.1 (256 * w.2.1)), blockBytes (x.qblock b w).1 (hEt x.hd = 12) (x.qblock b w).2.1)],
        fp := (x.qblock b w).2.2 } := by
  have hlow : bits 3 0 x.p0.toNat = x.p0.toNat % 16 := rfl
  have hrm : rmShort (bits 5 4 x.p0.toNat) = (Rm.ofShort (x.p0.toNat / 16 % 4)).getD .rne :=
    congrArg (fun k => (Rm.ofShort k).getD .rne) (bits_eq 5 4 x.p0.toNat)
  have hhad : bits 7 6 x.p0.toNat = x.p0.toNat / 64 % 4 := bits_eq 7 6 x.p0.toNat
  rw [results, qblockUnits, List.map_map]
  refine List.map_congr_left fun w _ => ?_
  simp only [Function.comp_apply, XArgs.runF32_good hx, Ev.bind, hlow, hrm, hhad]
  rfl

/-! ## Blocks that are read (03 R60, R64, R65) -/

/-- The bytes of the source block that holds a position. -/
def XArgs.blockAt (x : XArgs) (b : Nat → Nat → Byte) (q : Pos) : List Byte :=
  bytesAt b (hSpace x.hs) (etBlock (hEt x.hs)) (blockAddr x.hs q)

/-- The header of a block. -/
def headerOf (l : List Byte) : Nat := leNat (l.take 4)

/-- The source block that holds a position may be read. -/
def XArgs.readsBlock (x : XArgs) (q : Pos) : Prop := readable x.hs (blockAddr x.hs q) (etBlock (hEt x.hs))

theorem etBlock_ge (et : Nat) : 132 ≤ etBlock et := by
  rw [etBlock]
  split <;> omega

theorem inSpace.mono {space : Nat} {a : Int} {m n : Nat} (h : inSpace space a n) (hm : m ≤ n) : inSpace space a m := by
  have := h.sub (k := 0) (m := m) (by omega)
  simpa using this

theorem XArgs.header_good {x : XArgs} (b : Nat → Nat → Byte) {q : Pos} (h : x.readsBlock q) : x.header (goodBytes b) q =
    if hdrOk (headerOf (x.blockAt b q)) (hEt x.hs = 12) then .val (headerOf (x.blockAt b q))
    else .err 0x05 (BitVec.ofInt 64 (blockAddr x.hs q)) := by
  have h4 : 4 ≤ etBlock (hEt x.hs) := (by decide : 4 ≤ 132).trans (etBlock_ge _)
  obtain ⟨hspace, hplace⟩ := h
  rw [XArgs.header, XArgs.atSrc_placed hplace, fetchNum_good b (hspace.mono h4), headerOf, XArgs.blockAt, bytesAt_take b _ h4]
  rfl

theorem XArgs.block_good {x : XArgs} (b : Nat → Nat → Byte) {q : Pos} (h : x.readsBlock q)
    (hok : hdrOk (headerOf (x.blockAt b q)) (hEt x.hs = 12) = true) : x.block (goodBytes b) q = .val (x.blockAt b q) := by
  rw [XArgs.block, XArgs.header_good b h, if_pos hok, Ev.bind, fetchBytes_good b h.1, XArgs.blockAt]

/-- Element i of the bytes of a block. -/
def heldAt (l : List Byte) (i : Nat) : X × FpFlags := blockElemF (headerOf l) (l.drop 4) i

theorem leNat_lt (l : List Byte) : leNat l < 256 ^ l.length := by
  induction l with
  | nil => decide
  | cons c l ih =>
    have hc : c.toNat < 256 := c.isLt
    rw [leNat, List.length_cons, Nat.pow_succ]
    omega

theorem headerOf_lt (l : List Byte) : headerOf l < 2 ^ 32 := by
  refine (leNat_lt _).trans_le ((Nat.pow_le_pow_right (by decide) (List.length_take_le 4 l)).trans (le_of_eq (by decide)))

/-- The statement of R60 and R64 for an element of a block. -/
theorem heldAt_eq (l : List Byte) (i : Nat) : heldAt l i = if 256 ≤ i + headerOf l % 256 then (.fin false 0 0, 0)
    else (decSel (hdrWc (headerOf l)) (headerOf l / 2 ^ 13 % 8)
      (if hdrWc (headerOf l) then (l.getD (4 + i) 0).toNat else (l.getD (4 + i / 2) 0).toNat / (if i % 2 = 0 then 1 else 16) % 16)).mul
      (scaleVal (headerOf l / 2 ^ 16)) := by
  have hget (j : Nat) : (l.drop 4).getD j 0 = l.getD (4 + j) 0 := by
    simp only [List.getD_eq_getElem?_getD, List.getElem?_drop]
  have htail : hdrTail (headerOf l) = headerOf l % 256 := rfl
  have hsel : hdrSel (headerOf l) = headerOf l / 2 ^ 13 % 8 := bits_eq 15 13 _
  have hscale : hdrScale (headerOf l) = headerOf l / 2 ^ 16 := by
    rw [hdrScale, bits_eq, Nat.mod_eq_of_lt]
    have := headerOf_lt l
    omega
  have hcode : elemCode (hdrWc (headerOf l)) (l.drop 4) i = if hdrWc (headerOf l) then (l.getD (4 + i) 0).toNat
      else (l.getD (4 + i / 2) 0).toNat / (if i % 2 = 0 then 1 else 16) % 16 := by
    have hb : (l.getD (4 + i / 2) 0).toNat < 256 := BitVec.isLt _
    simp only [elemCode, hget]
    split
    · rfl
    · split
      · rw [Nat.div_one]
      · omega
  rw [heldAt, blockElemF, htail, hsel, hscale, hcode]

theorem XArgs.blockVal_good {x : XArgs} (b : Nat → Nat → Byte) {q : Pos} (h : x.readsBlock q) (het : hEt x.hs = 12 ∨ hEt x.hs = 13) :
    x.blockVal (goodBytes b) q = if hdrOk (headerOf (x.blockAt b q)) (hEt x.hs = 12) then .val (heldAt (x.blockAt b q) (blockOff x.hs q))
    else .err 0x05 (BitVec.ofInt 64 (blockAddr x.hs q)) := by
  rw [XArgs.blockVal, XArgs.header_good b h]
  split
  next hok =>
    have hoff : blockOff x.hs q < 256 := by
      have := Int.emod_lt_of_pos (elemIdx x.hs q) (show (0 : Int) < 256 by decide)
      have := Int.emod_nonneg (elemIdx x.hs q) (show (256 : Int) ≠ 0 by decide)
      rw [blockOff]
      omega
    have hwc : hdrWc (headerOf (x.blockAt b q)) = decide (hEt x.hs = 12) := by
      simp only [hdrOk, Bool.and_eq_true, decide_eq_true_eq] at hok
      exact hok.1.2
    set j := if hEt x.hs = 12 then blockOff x.hs q else blockOff x.hs q / 2 with hj
    have hin : 4 + j < etBlock (hEt x.hs) := by
      rcases het with h12 | h13
      · rw [hj, if_pos h12, h12]
        show 4 + blockOff x.hs q < 260
        omega
      · rw [hj, if_neg (by rw [h13]; decide), h13]
        show 4 + blockOff x.hs q / 2 < 132
        omega
    have hbyte : fetchNum (goodBytes b) (hSpace x.hs) (blockAddr x.hs q + 4 + (j : Int)) 1 =
        .val (((x.blockAt b q).drop 4).getD j 0).toNat := by
      have hspace := h.1.sub (k := 4 + j) (m := 1) hin
      have haddr : blockAddr x.hs q + ((4 + j : Nat) : Int) = blockAddr x.hs q + 4 + (j : Int) := by omega
      rw [List.getD_eq_getElem?_getD, List.getElem?_drop, ← List.getD_eq_getElem?_getD, XArgs.blockAt, bytesAt_getD b _ hin h.1.1, haddr,
        fetchNum_good b (haddr ▸ hspace)]
      simp [bytesAt, leNat]
    simp only [Ev.bind, decide_eq_true_eq, ← hj, hbyte, heldAt, blockElemF, hwc, elemCode]
    by_cases h12 : hEt x.hs = 12
    · simp only [hj, if_pos h12]
    · simp only [hj, if_neg h12]
  · rfl

/-- Elements of blocks, converted (R227). -/
theorem results_xblock {x : XArgs} (b : Nat → Nat → Byte) (het : hEt x.hs = 12 ∨ hEt x.hs = 13) (h : ∀ p ∈ walkPos x.hd, x.readsBlock p) :
    results (xblockUnits x) b = (walkPos x.hd).map fun p =>
      if hdrOk (headerOf (x.blockAt b p)) (hEt x.hs = 12) then
        .val { x.cvtOut p (heldAt (x.blockAt b p) (blockOff x.hs p)).1 with
          fp := (x.cvtOut p (heldAt (x.blockAt b p) (blockOff x.hs p)).1).fp ||| (heldAt (x.blockAt b p) (blockOff x.hs p)).2 }
      else .err 0x05 (BitVec.ofInt 64 (blockAddr x.hs p)) := by
  refine results_each x _ b fun p hp => ?_
  rw [XArgs.blockVal_good b (h p hp) het]
  split <;> rfl

end Sys2Proof.Machine
end

section
/-! PROOFS. Zero-block packing and unpacking (09 R228). -/

namespace Sys2Proof.Machine

/-! ## Little-endian bytes in parts (00 R3) -/

theorem leBytes_add (m n x : Nat) : leBytes (m + n) x = leBytes m x ++ leBytes n (x / 256 ^ m) := by
  induction m generalizing x with
  | zero => simp [leBytes]
  | succ m ih => rw [Nat.add_right_comm, leBytes, leBytes, ih, List.cons_append, Nat.div_div_eq_div_mul, Nat.pow_succ']

theorem leBytes_mod (n x : Nat) : leBytes n (x % 256 ^ n) = leBytes n x := by
  induction n generalizing x with
  | zero => rfl
  | succ n ih =>
    have hlow : x % 256 ^ (n + 1) % 256 = x % 256 := Nat.mod_mod_of_dvd x (Dvd.intro_left (256 ^ n) rfl)
    have hhigh : x % 256 ^ (n + 1) / 256 = x / 256 % 256 ^ n := by rw [Nat.pow_succ', Nat.mod_mul_right_div_self]
    rw [leBytes, leBytes, hlow, hhigh, ih]

/-- The bytes of words that stand one behind the other. -/
theorem leBytes_words (k x : Nat) : leBytes (8 * k) x = (List.range k).flatMap fun w => leBytes 8 (x / 2 ^ (64 * w)) := by
  induction k with
  | zero => rfl
  | succ k ih =>
    rw [Nat.mul_succ, leBytes_add, ih, List.range_succ, List.flatMap_append, List.flatMap_singleton,
      show (256 : Nat) = 2 ^ 8 from rfl, ← Nat.pow_mul, ← Nat.mul_assoc]

/-- A bit of a number of which the bytes are given. -/
theorem leNat_testBit (l : List Byte) (i : Nat) : (leNat l).testBit i = (l.getD (i / 8) 0).getLsbD (i % 8) := by
  induction l generalizing i with
  | nil => simp [leNat]
  | cons c l ih =>
    have hc : c.toNat < 2 ^ 8 := c.isLt
    rw [leNat, Nat.add_comm, show (256 : Nat) = 2 ^ 8 from rfl, Nat.testBit_two_pow_mul_add _ hc]
    split
    next h =>
      rw [Nat.div_eq_of_lt h, Nat.mod_eq_of_lt h]
      rfl
    next h =>
      obtain ⟨j, rfl⟩ := Nat.exists_eq_add_of_le (not_lt.mp h)
      rw [ih, Nat.add_sub_cancel_left, Nat.add_div_left j (by decide), Nat.add_mod_left]
      rfl

/-! ## The header word and the bitmap of a packed tensor (09 R228) -/

theorem packHead_eq (nb : Nat) : packHead nb = 8 + 8 * ((nb + 63) / 64) := rfl

/-- The number whose bit i says whether i of the first n is chosen. -/
def bitmapOf (n : Nat) (p : Nat → Bool) : Nat := (List.range n).foldl (fun t i => if p i then t + 2 ^ i else t) 0

theorem bitmapOf_filter (n : Nat) (p : Nat → Bool) : ((List.range n).filter p).foldl (fun t i => t + 2 ^ i) 0 = bitmapOf n p :=
  List.foldl_filter

theorem bitmapOf_testBit (n : Nat) (p : Nat → Bool) (i : Nat) : (bitmapOf n p).testBit i = (decide (i < n) && p i) := by
  obtain ⟨hlt, hbit⟩ := bitsFold_spec p n
  by_cases hi : i < n
  · rw [decide_eq_true hi, Bool.true_and]
    exact hbit i hi
  · rw [decide_eq_false hi, Bool.false_and]
    exact Nat.testBit_lt_two_pow (hlt.trans_le (Nat.pow_le_pow_right (by decide) (not_lt.mp hi)))

/-- A word of a bitmap. -/
theorem bitmapOf_word (n w : Nat) (p : Nat → Bool) :
    bitmapOf 64 (fun i => decide (64 * w + i < n) && p (64 * w + i)) = bitmapOf n p / 2 ^ (64 * w) % 256 ^ 8 := by
  refine Nat.eq_of_testBit_eq fun i => ?_
  rw [show (256 : Nat) ^ 8 = 2 ^ 64 from rfl, Nat.testBit_mod_two_pow, Nat.testBit_div_two_pow, bitmapOf_testBit, bitmapOf_testBit,
    Nat.add_comm i]

theorem packHeader_eq (wc : Bool) (l : List Bool) (h : l.length < 2 ^ 32) : packHeader wc l =
    leBytes 8 (l.length + if wc then 2 ^ 32 else 0) ++
      leBytes (8 * ((l.length + 63) / 64)) (bitmapOf l.length fun i => l.getD i false) := by
  have hhead : leBytes 8 (l.length + if wc then 2 ^ 32 else 0) = leBytes 4 l.length ++ leBytes 4 wc.toNat := by
    rw [leBytes_add 4 4, ← leBytes_mod 4 (l.length + _)]
    cases wc
    · rw [show (256 : Nat) ^ 4 = 2 ^ 32 from rfl, if_neg Bool.false_ne_true, Nat.add_zero, Nat.mod_eq_of_lt h, Nat.div_eq_of_lt h]
      rfl
    · rw [show (256 : Nat) ^ 4 = 2 ^ 32 from rfl, if_pos rfl, Nat.add_mod_right, Nat.add_div_right _ (by decide), Nat.mod_eq_of_lt h,
        Nat.div_eq_of_lt h]
      rfl
  have hword (w : Nat) : bitmapOf 64 (fun i => l.getD (64 * w + i) false) =
      bitmapOf l.length (fun i => l.getD i false) / 2 ^ (64 * w) % 256 ^ 8 := by
    rw [← bitmapOf_word]
    refine congrArg (bitmapOf 64) (funext fun i => ?_)
    by_cases hi : 64 * w + i < l.length
    · rw [decide_eq_true hi, Bool.true_and]
    · rw [decide_eq_false hi, Bool.false_and, List.getD_eq_default _ _ (not_lt.mp hi)]
  rw [hhead, leBytes_words, packHeader]
  refine congrArg (leBytes 4 l.length ++ leBytes 4 wc.toNat ++ ·)
    (congrArg (fun f => (List.range ((l.length + 63) / 64)).flatMap f) (funext fun w => ?_))
  exact (congrArg (leBytes 8) (hword w)).trans (leBytes_mod 8 _)

theorem bitmapOf_congr {n : Nat} {p q : Nat → Bool} (h : ∀ i < n, p i = q i) : bitmapOf n p = bitmapOf n q := by
  rw [← bitmapOf_filter, ← bitmapOf_filter, List.filter_congr fun i hi => h i (List.mem_range.mp hi)]

/-- Header word and bitmap for blocks of which the zero ones are not stored. -/
theorem packHeader_blocks (wc : Bool) {l : List (List Byte)} (h : l.length < 2 ^ 32) : packHeader wc (l.map fun y => !isZeroBlock y) =
    leBytes 8 (l.length + if wc then 2 ^ 32 else 0) ++ leBytes (8 * ((l.length + 63) / 64))
      (((List.range l.length).filter fun i => !isZeroBlock (l.getD i [])).foldl (fun t i => t + 2 ^ i) 0) := by
  have hbit : bitmapOf l.length (fun i => (l.map fun y => !isZeroBlock y).getD i false) =
      bitmapOf l.length fun i => !isZeroBlock (l.getD i []) := bitmapOf_congr fun i hi => by
    rw [List.getD_eq_getElem _ _ hi, List.getD_eq_getElem _ _ (by rwa [List.length_map]), List.getElem_map]
  rw [packHeader_eq wc _ (by rwa [List.length_map]), List.length_map, bitmapOf_filter, hbit]

/-! ## Zero-block packing (09 R228) -/

/-- The first position of a block of a walk. -/
def blockStart (h : BitVec 256) (w : Nat × Nat × Nat) : Pos := posAt h w.1 (256 * w.2.1)

/-- The bytes of the source's blocks. -/
def XArgs.srcBlocks (x : XArgs) (b : Nat → Nat → Byte) : List (List Byte) :=
  (walkBlocks x.hs).map fun w => x.blockAt b (blockStart x.hs w)

/-- Where the block behind i stored ones stands in a packed tensor of nb blocks of n bytes. -/
def packedSlot (h : BitVec 256) (nb n i : Nat) : Int := ((hAddr h + packHead nb + i * n : Nat) : Int)

/-- How many of the blocks are stored. -/
def storedCount (l : List (List Byte)) : Nat := (l.filter fun y => !isZeroBlock y).length

/-- What ZPACK yields for the block that follows k others, from the bytes of the blocks up to it. -/
def XArgs.packPiece (x : XArgs) (w : Nat × Nat × Nat) (k : Nat) (bs : List (List Byte)) : Piece :=
  { pos := linear x.hd (blockStart x.hs w),
    writes := if isZeroBlock (bs.getD k []) then [] else
      [(packedSlot x.hd (walkBlocks x.hs).length (blockSize (hEt x.hs = 12)) (storedCount (bs.take k)), bs.getD k [])] }

/-- Every block of the source may be read, and has a header that is not refused. -/
def XArgs.readsBlocks (x : XArgs) (b : Nat → Nat → Byte) : Prop := ∀ w ∈ walkBlocks x.hs,
  x.readsBlock (blockStart x.hs w) ∧ hdrOk (headerOf (x.blockAt b (blockStart x.hs w))) (hEt x.hs = 12) = true

theorem XArgs.blocks_good {x : XArgs} {b : Nat → Nat → Byte} (h : x.readsBlocks b) {l : List (Nat × Nat × Nat)} (hl : l ⊆ walkBlocks x.hs) :
    Ev.all (l.map fun w => x.block (goodBytes b) (blockStart x.hs w)) = .val (l.map fun w => x.blockAt b (blockStart x.hs w)) :=
  Ev.all_val _ _ _ fun w hw => XArgs.block_good b (h w (hl hw)).1 (h w (hl hw)).2

theorem results_zpack {x : XArgs} {b : Nat → Nat → Byte} (hne : walkBlocks x.hs ≠ []) (h : x.readsBlocks b) :
    results (zpackUnits x) b = (walkBlocks x.hs).zipIdx.map (fun q => .val (x.packPiece q.1 q.2 (x.srcBlocks b))) ++
      [.val { pos := runs x.hd * runLen x.hd,
              writes := [((hAddr x.hd : Int), packHeader (hEt x.hs = 12) ((x.srcBlocks b).map fun l => !isZeroBlock l))] }] := by
  have hall := XArgs.blocks_good h (List.Subset.refl (walkBlocks x.hs))
  rw [results, zpackUnits]
  simp only [List.length_eq_zero_iff, if_neg hne, List.map_append, List.map_map, List.map_singleton]
  refine congrArg₂ (· ++ ·) (List.map_congr_left fun q hq => ?_) (congrArg (fun v => [Ev.bind v _]) hall)
  have hpart := (XArgs.blocks_good h (List.take_subset (q.2 + 1) (walkBlocks x.hs))).trans (congrArg Ev.val List.map_take)
  rw [← XArgs.srcBlocks] at hpart
  refine (congrArg (fun v => Ev.bind v fun bs => .val (x.packPiece q.1 q.2 bs)) hpart).trans (congrArg Ev.val ?_)
  have htake : ((x.srcBlocks b).take (q.2 + 1)).take q.2 = (x.srcBlocks b).take q.2 := by
    rw [List.take_take, Nat.min_eq_left (Nat.le_succ _)]
  have hget : ((x.srcBlocks b).take (q.2 + 1)).getD q.2 [] = (x.srcBlocks b).getD q.2 [] := by
    simp only [List.getD_eq_getElem?_getD, List.getElem?_take, Nat.lt_succ_self, if_true]
  rw [XArgs.packPiece, htake, hget, ← XArgs.packPiece]

/-! ## Zero-block unpacking (09 R228) -/

/-- The header word of a packed tensor. -/
def packWord (wc : Bool) (nb : Nat) : Nat := nb + if wc then 2 ^ 32 else 0

/-- The model's check of a header word, field by field. -/
theorem packWord_check {wc : Bool} {nb h : Nat} (hnb : nb < 2 ^ 32) (hh : h < 2 ^ 64) :
    (bits 31 0 h ≠ nb || bit 32 h != wc || bits 63 33 h ≠ 0) = decide (h ≠ packWord wc nb) := by
  have hlow : bits 31 0 h = h % 2 ^ 32 := rfl
  have hhigh : bits 63 33 h = h / 2 ^ 33 % 2 ^ 31 := bits_eq 63 33 h
  have hbit : bit 32 h = decide (h / 2 ^ 32 % 2 = 1) := Nat.testBit_eq_decide_div_mod_eq
  rw [hlow, hhigh, hbit, Bool.eq_iff_iff, decide_eq_true_iff]
  simp only [Bool.or_eq_true, decide_eq_true_eq, bne_iff_ne, packWord]
  cases wc
  · simp only [ne_eq, decide_eq_false_iff_not, Bool.false_eq_true, if_false]
    omega
  · simp only [ne_eq, decide_eq_true_eq, if_true]
    omega

/-- The bit of a packed tensor's bitmap for a block. -/
def XArgs.mark (x : XArgs) (b : Nat → Nat → Byte) (i : Nat) : Bool := (b (hSpace x.hs) (hAddr x.hs + 8 + i / 8)).getLsbD (i % 8)

/-- Where a packed tensor of nb blocks of n bytes has the block k. -/
def XArgs.packedPlace (x : XArgs) (b : Nat → Nat → Byte) (nb n k : Nat) : Int :=
  packedSlot x.hs nb n ((List.range k).filter (x.mark b)).length

/-- The header word of a packed source. -/
def XArgs.packedWord (x : XArgs) (b : Nat → Nat → Byte) : Nat := leNat (bytesAt b (hSpace x.hs) 8 (hAddr x.hs : Int))

/-- A word of the bitmap of a packed source. -/
def XArgs.bitmapWord (x : XArgs) (b : Nat → Nat → Byte) (w : Nat) : Nat :=
  leNat (bytesAt b (hSpace x.hs) 8 ((hAddr x.hs : Int) + 8 + 8 * (w : Int)))

/-- A word of the bitmap says which of its blocks are stored. -/
theorem XArgs.mark_word (x : XArgs) (b : Nat → Nat → Byte) (i : Nat) : bit (i % 64) (x.bitmapWord b (i / 64)) = x.mark b i := by
  have haddr : ((hAddr x.hs : Int) + 8 + 8 * ((i / 64 : Nat) : Int) + ((i % 64 / 8 : Nat) : Int)).toNat = hAddr x.hs + 8 + i / 8 := by omega
  rw [bit, XArgs.bitmapWord, leNat_testBit, bytesAt_getD b _ (by omega) (by omega), haddr, Nat.mod_mod_of_dvd i (by decide), XArgs.mark]

/-- A failure with HEADER. -/
def refusedAt {α : Type} (a : Int) : Ev α := .err 0x05 (BitVec.ofInt 64 a)

section
variable {x : XArgs} (b : Nat → Nat → Byte) {nb n : Nat} (h : inSpace (hSpace x.hs) (hAddr x.hs : Int) (packHead nb + nb * n))
include h

theorem XArgs.bitmap_good {k : Nat} (hk : k < nb) :
    Ev.all ((List.range (k / 64 + 1)).map fun (w : Nat) => fetchNum (goodBytes b) (hSpace x.hs) ((hAddr x.hs : Int) + 8 + 8 * (w : Int)) 8) =
      .val ((List.range (k / 64 + 1)).map (x.bitmapWord b)) := by
  refine Ev.all_val _ _ _ fun w hw => ?_
  have hw : w < k / 64 + 1 := List.mem_range.mp hw
  have hword := h.sub (k := 8 + 8 * w) (m := 8) (by rw [packHead_eq]; omega)
  have haddr : (hAddr x.hs : Int) + ((8 + 8 * w : Nat) : Int) = (hAddr x.hs : Int) + 8 + 8 * (w : Int) := by omega
  exact fetchNum_good b (haddr ▸ hword)

theorem XArgs.packedPlace_inSpace {k : Nat} (hk : k < nb) : inSpace (hSpace x.hs) (x.packedPlace b nb n k) n := by
  have hcount : ((List.range k).filter (x.mark b)).length < nb :=
    ((List.length_filter_le _ _).trans_eq List.length_range).trans_lt hk
  have hroom : ((List.range k).filter (x.mark b)).length * n + n ≤ nb * n := by
    rw [← Nat.succ_mul]
    exact Nat.mul_le_mul_right n hcount
  have hsub := h.sub (k := packHead nb + ((List.range k).filter (x.mark b)).length * n) (m := n) (by omega)
  rw [XArgs.packedPlace, packedSlot]
  rwa [← Nat.cast_add, ← Nat.add_assoc] at hsub

end

/-- Where the block k of a packed source is stored (R228). -/
theorem XArgs.packedAt_good {x : XArgs} (b : Nat → Nat → Byte) {wc : Bool} {nb k : Nat}
    (h : inSpace (hSpace x.hs) (hAddr x.hs : Int) (packHead nb + nb * blockSize wc)) (hnb : nb < 2 ^ 32) (hk : k < nb) :
    x.packedAt wc nb k (goodBytes b) = if x.packedWord b ≠ packWord wc nb then refusedAt (hAddr x.hs : Int)
      else if x.mark b k then
        (if hdrOk (leNat (bytesAt b (hSpace x.hs) 4 (x.packedPlace b nb (blockSize wc) k))) wc then
          .val (some (x.packedPlace b nb (blockSize wc) k)) else refusedAt (x.packedPlace b nb (blockSize wc) k))
      else .val none := by
  have hword : fetchNum (goodBytes b) (hSpace x.hs) (hAddr x.hs : Int) 8 = .val (x.packedWord b) :=
    fetchNum_good b (h.mono (by rw [packHead_eq]; omega))
  have hlt : x.packedWord b < 2 ^ 64 := (leNat_lt _).trans_eq (by rw [bytesAt_length]; decide)
  rw [XArgs.packedAt]
  simp only [hword, XArgs.bitmap_good b h hk]
  simp only [Ev.bind, packWord_check hnb hlt, decide_eq_true_eq]
  refine ite_congr rfl (fun _ => rfl) fun _ => ?_
  have hhas (i : Nat) (hi : i ≤ k) : bit (i % 64) (((List.range (k / 64 + 1)).map (x.bitmapWord b)).getD (i / 64) 0) = x.mark b i := by
    rw [List.getD_eq_getElem?_getD, List.getElem?_map, List.getElem?_range (Nat.lt_succ_of_le (Nat.div_le_div_right hi))]
    exact XArgs.mark_word x b i
  have hfilter : (List.range k).filter (fun i => bit (i % 64) (((List.range (k / 64 + 1)).map (x.bitmapWord b)).getD (i / 64) 0)) =
      (List.range k).filter (x.mark b) := List.filter_congr fun i hi => hhas i (Nat.le_of_lt (List.mem_range.mp hi))
  have hplace : (hAddr x.hs : Int) + ((packHead nb + blockSize wc * ((List.range k).filter (x.mark b)).length : Nat) : Int) =
      x.packedPlace b nb (blockSize wc) k := by
    rw [XArgs.packedPlace, packedSlot, Nat.mul_comm, ← Nat.cast_add, Nat.add_assoc]
  have hfour : 4 ≤ blockSize wc := by cases wc <;> decide
  rw [hhas k le_rfl, hfilter, hplace, fetchNum_good b ((XArgs.packedPlace_inSpace b h hk).mono hfour)]
  rfl

/-- The bytes of an empty block. -/
theorem emptyBlock_eq (wc : Bool) (valid : Nat) : emptyBlock wc valid =
    leBytes 4 ((if wc then 0x1100 else 0) + min 255 (256 - valid)) ++ List.replicate (if wc then 256 else 128) 0 := by
  have hpay (d : Nat) : (List.range 128).map (fun i => BitVec.ofNat 8 ((List.replicate 256 d).getD (2 * i) 0 % 16 +
      16 * ((List.replicate 256 d).getD (2 * i + 1) 0 % 16))) = List.replicate 128 (BitVec.ofNat 8 (d % 16 + 16 * (d % 16))) := by
    refine (List.map_congr_left fun i hi => ?_).trans (List.map_const'.trans (congrArg (List.replicate · _) List.length_range))
    have hi : i < 128 := List.mem_range.mp hi
    rw [List.getD_replicate _ (by omega), List.getD_replicate _ (by omega)]
  have hhdr : mkHdr 0 0 wc (min 255 (256 - valid)) = (if wc then 0x1100 else 0) + min 255 (256 - valid) := by cases wc <;> rfl
  rw [emptyBlock, blockBytes, hhdr]
  cases wc
  · simp only [Bool.false_eq_true, if_false, List.length_replicate]
    exact congrArg (leBytes 4 _ ++ ·) (hpay 0)
  · simp only [if_true, List.map_replicate, BitVec.ofNat_eq_ofNat]

/-- What ZUNPACK writes for the block k of the destination, which has `valid` positions. -/
def XArgs.unpacked (x : XArgs) (b : Nat → Nat → Byte) (wc : Bool) (nb k valid : Nat) : Ev (List Byte) :=
  if x.packedWord b ≠ packWord wc nb then refusedAt (hAddr x.hs : Int)
  else if x.mark b k then
    (if hdrOk (leNat (bytesAt b (hSpace x.hs) 4 (x.packedPlace b nb (blockSize wc) k))) wc then
      .val (bytesAt b (hSpace x.hs) (blockSize wc) (x.packedPlace b nb (blockSize wc) k))
    else refusedAt (x.packedPlace b nb (blockSize wc) k))
  else .val (emptyBlock wc valid)

section
variable {x : XArgs} {b : Nat → Nat → Byte} {wc : Bool} {nb k valid : Nat}

theorem XArgs.unpacked_refused (h : x.packedWord b ≠ packWord wc nb) : x.unpacked b wc nb k valid = refusedAt (hAddr x.hs : Int) :=
  if_pos h

theorem XArgs.unpacked_word (h : x.packedWord b = packWord wc nb) : x.unpacked b wc nb k valid = if x.mark b k then
      (if hdrOk (leNat (bytesAt b (hSpace x.hs) 4 (x.packedPlace b nb (blockSize wc) k))) wc then
        .val (bytesAt b (hSpace x.hs) (blockSize wc) (x.packedPlace b nb (blockSize wc) k))
      else refusedAt (x.packedPlace b nb (blockSize wc) k))
    else .val (emptyBlock wc valid) := if_neg (not_not_intro h)

end

theorem results_zunpack {x : XArgs} (b : Nat → Nat → Byte) (hnb : (walkBlocks x.hd).length < 2 ^ 32)
    (h : inSpace (hSpace x.hs) (hAddr x.hs : Int)
      (packHead (walkBlocks x.hd).length + (walkBlocks x.hd).length * blockSize (hEt x.hd = 12))) :
    results (zunpackUnits x) b = (walkBlocks x.hd).zipIdx.map fun q =>
      (x.unpacked b (hEt x.hd = 12) (walkBlocks x.hd).length q.2 q.1.2.2).bind fun l =>
        .val { pos := linear x.hd (blockStart x.hd q.1), writes := [(blockAddr x.hd (blockStart x.hd q.1), l)] } := by
  rw [results, zunpackUnits, List.map_map]
  refine List.map_congr_left fun q hq => ?_
  have hk : q.2 < (walkBlocks x.hd).length := List.snd_lt_of_mem_zipIdx hq
  simp only [Function.comp_apply, XArgs.packedAt_good b h hnb hk]
  rw [XArgs.unpacked]
  split
  · rfl
  split
  · split
    · simp only [Ev.bind, fetchMoved_good b (XArgs.packedPlace_inSpace b h hk), movedPiece_whole]
      rfl
    · rfl
  · simp only [Ev.bind, movedPiece_whole]
    rfl

end Sys2Proof.Machine
end

section
/-! PROOFS. TOPK, the reductions, and the statement on the transforms (03 R70; 09 R229, R232). -/

namespace Sys2Proof.Machine

/-! ## BF16 codes as FP32 codes (03 R56, R69; 06 R151) -/

/-- What a conversion of a finite value can yield: a finite code, or an infinity. -/
theorem cvtF_code (f : FFmt) {rm : Rm} (hrm : rm ≠ .sr) (s sat : Bool) (u m : Nat) (e : Int) :
    (∃ c ≤ f.maxCode, (cvtF (.fin s m e) f rm sat u).1 = f.signBit s + c) ∨ (cvtF (.fin s m e) f rm sat u).1 = f.infCode s := by
  rcases lt_or_ge (f.mag f.maxCode) (m * 2 ^ e) with hbeyond | hle
  · obtain ⟨hback, hclamp, hinf⟩ := cvtF_beyond f rm s sat u m e hbeyond
    by_cases h1 : (m : ℚ) * 2 ^ e < f.mag f.maxCode + (f.mag f.maxCode - f.mag (f.maxCode - 1)) ∧ rm ≠ .sr ∧
      ¬roundsUp rm s u (m * 2 ^ e) (f.mag f.maxCode) (f.mag f.maxCode - f.mag (f.maxCode - 1)) (f.maxCode % 2 = 1)
    · exact .inl ⟨f.maxCode, le_rfl, congrArg Prod.fst (hback h1)⟩
    by_cases h2 : f.clamps rm sat s
    · exact .inl ⟨f.maxCode, le_rfl, congrArg Prod.fst (hclamp h1 h2)⟩
    · exact .inr (congrArg Prod.fst (hinf h1 h2))
  obtain ⟨c, hlo, hhi⟩ := f.exists_code m e
  have hc : c ≤ f.maxCode := f.mag_strictMono.le_iff_le.mp (hlo.trans hle)
  rcases hlo.eq_or_lt with heq | hlt
  · exact .inl ⟨c, hc, congrArg Prod.fst (cvtF_exact f rm s sat u m e hc heq.symm)⟩
  · have hc : c < f.maxCode := f.mag_strictMono.lt_iff_lt.mp (hlt.trans_le hle)
    obtain ⟨hup, hdown⟩ := cvtF_between f rm s sat u m e hc hlt hhi (roundsBetween_of_ne_sr hrm s m e _ u)
    by_cases h : roundsUp rm s u (m * 2 ^ e) (f.mag c) (f.mag (c + 1) - f.mag c) (c % 2 = 1)
    · exact .inl ⟨c + 1, hc, congrArg Prod.fst (hup h)⟩
    · exact .inl ⟨c, hc.le, congrArg Prod.fst (hdown h)⟩

/-- A BF16 code is the upper half of the FP32 code of the same magnitude. -/
theorem mag_bf16 (c : Nat) : FFmt.mag .bf16 c = FFmt.mag .fp32 (c * 2 ^ 16) := by
  have hdiv : c * 2 ^ 16 / 2 ^ 23 = c / 2 ^ 7 := by omega
  have hmod : c * 2 ^ 16 % 2 ^ 23 = c % 2 ^ 7 * 2 ^ 16 := by omega
  have hlt : c * 2 ^ 16 < 2 ^ 23 ↔ c < 2 ^ 7 := by omega
  rw [FFmt.mag, FFmt.mag]
  simp only [FFmt.frac, FFmt.bias, hdiv, hmod, hlt]
  refine ite_congr rfl (fun _ => ?_) fun _ => ?_ <;>
  · push_cast
    ring

theorem loadLane_bf16 (c : Nat) : (loadLane .bf16 c).toNat =
    (if (decF .bf16 c).isNan then nan32 else (rne32 (decF .bf16 c)).1) % 2 ^ 32 := by
  show BitVec.toNat (if (decF .bf16 c).isNan then BitVec.ofNat 32 nan32 else BitVec.ofNat 32 (rne32 (decF .bf16 c)).1) = _
  split <;> rw [BitVec.toNat_ofNat]

theorem signBit_half (s : Bool) (c : Nat) : FFmt.signBit .fp32 s + c * 2 ^ 16 = (FFmt.signBit .bf16 s + c) * 2 ^ 16 := by
  cases s
  · simp [FFmt.signBit]
  · show 2 ^ 31 + c * 2 ^ 16 = (2 ^ 15 + c) * 2 ^ 16
    omega

theorem signBit_half_lt (s : Bool) {c : Nat} (h : c < 2 ^ 15) : (FFmt.signBit .bf16 s + c) * 2 ^ 16 < 2 ^ 32 := by
  cases s
  · simp only [FFmt.signBit, Bool.false_eq_true, if_false]
    omega
  · show (2 ^ 15 + c) * 2 ^ 16 < 2 ^ 32
    omega

theorem loadLane_bf16_finite (s : Bool) {c : Nat} (hc : c ≤ 0x7F7F) :
    (loadLane .bf16 (FFmt.signBit .bf16 s + c)).toNat = (FFmt.signBit .bf16 s + c) * 2 ^ 16 := by
  obtain ⟨m, q, hd, hv⟩ := decF_finite .bf16 s (c := c) hc
  rw [mag_bf16] at hv
  have hcode : c * 2 ^ 16 ≤ FFmt.maxCode .fp32 := by
    show c * 2 ^ 16 ≤ 0x7F7FFFFF
    omega
  rw [loadLane_bf16, hd, rne32, cvtF_exact .fp32 .rne s false 0 m q hcode hv, signBit_half]
  exact Nat.mod_eq_of_lt (signBit_half_lt s (hc.trans_lt (by decide)))

theorem loadLane_bf16_inf (s : Bool) : (loadLane .bf16 (FFmt.infCode .bf16 s)).toNat = FFmt.infCode .bf16 s * 2 ^ 16 := by
  cases s <;> decide

/-- The lane of a BF16 code that a conversion yields. -/
theorem loadLane_cvtF (x : X) : (loadLane .bf16 (cvtF x .bf16 .rne false 0).1).toNat = (cvtF x .bf16 .rne false 0).1 * 2 ^ 16 := by
  cases x with
  | nan => decide
  | inf s => exact loadLane_bf16_inf s
  | fin s m e =>
    rcases cvtF_code .bf16 (rm := .rne) (by decide) s false 0 m e with ⟨c, hc, hcode⟩ | hinf
    · rw [hcode]
      exact loadLane_bf16_finite s hc
    · rw [hinf]
      exact loadLane_bf16_inf s

/-! ## The order of magnitudes (03 R70; 09 R229) -/

/-- The rank of a magnitude: NaNs before all numbers. -/
def magRank (y : Nat) : Nat := if 0x7F800000 < y % 2 ^ 31 then 2 ^ 31 else y % 2 ^ 31

theorem dec32_mod (y : Nat) : dec32 (y % 2 ^ 32) = dec32 y := by
  have hsign : (y % 2 ^ 32).testBit 31 = y.testBit 31 := by rw [Nat.testBit_mod_two_pow, decide_eq_true (by decide), Bool.true_and]
  have hfrac : y % 2 ^ 32 % 2 ^ 23 = y % 2 ^ 23 := Nat.mod_mod_of_dvd y (by decide)
  have hexp : (y % 2 ^ 32) >>> 23 % 2 ^ 8 = y >>> 23 % 2 ^ 8 := by
    rw [Nat.shiftRight_eq_div_pow, Nat.shiftRight_eq_div_pow]
    omega
  simp only [dec32, decF, FFmt.width, FFmt.frac, FFmt.ebits, Nat.reduceSub, hsign, hfrac, hexp]
  rfl

theorem fabs_eq (y : Nat) : fabs y = if 0x7F800000 < y % 2 ^ 31 then 0x7FC00000 else y % 2 ^ 31 := by
  have hnan := dec32_isNan (x := y % 2 ^ 32) (Nat.mod_lt y (by decide))
  rw [dec32_mod, Nat.mod_mod_of_dvd y (by decide)] at hnan
  rw [fabs, hnan]
  exact ite_congr (propext decide_eq_true_iff) (fun _ => rfl) fun _ => rfl

theorem keyRank_fabs (y : Nat) : fabs y < 2 ^ 32 ∧ keyRank (fabs y) = magRank y := by
  rw [fabs_eq, magRank]
  split
  · decide
  next h =>
    have hmod : y % 2 ^ 31 % 2 ^ 31 = y % 2 ^ 31 := Nat.mod_mod y _
    rw [keyRank, hmod, if_neg h, if_neg (by omega)]
    exact ⟨by omega, rfl⟩

theorem magBefore_iff (y z : Nat) : magBefore y z = decide (magRank z < magRank y) := by
  obtain ⟨hy, hry⟩ := keyRank_fabs y
  obtain ⟨hz, hrz⟩ := keyRank_fabs z
  rw [magBefore, dec32_keyLt hz hy, hry, hrz]
  exact decide_eq_decide.mpr Nat.cast_lt

/-! ## The positions of largest magnitude (03 R70; 09 R229) -/

/-- The order in which TOPK takes positions: by magnitude, the lower position of equal ones. -/
def TakenBefore (p q : Nat × Nat) : Prop := magRank q.1 < magRank p.1 ∨ magRank q.1 = magRank p.1 ∧ p.2 < q.2

/-- A position goes before the first one of a smaller magnitude. -/
def topIns (l : List (Nat × Nat)) (x : Nat × Nat) : List (Nat × Nat) :=
  (l.takeWhile fun z => !magBefore x.1 z.1) ++ x :: l.dropWhile fun z => !magBefore x.1 z.1

/-- The positions of a block with their values, in the order in which TOPK takes them. -/
def topSort (ys : List Nat) : List (Nat × Nat) := ys.zipIdx.foldl topIns []

theorem topIns_cons (y x : Nat × Nat) (l : List (Nat × Nat)) : topIns (y :: l) x =
    if magRank y.1 < magRank x.1 then x :: y :: l else y :: topIns l x := by
  rw [topIns, List.takeWhile_cons, List.dropWhile_cons, magBefore_iff]
  by_cases h : magRank y.1 < magRank x.1
  · simp [h]
  · simp [h, topIns]

theorem topIns_perm (l : List (Nat × Nat)) (x : Nat × Nat) : (topIns l x).Perm (x :: l) := by
  rw [topIns]
  exact List.perm_middle.trans (.of_eq (congrArg _ (List.takeWhile_append_dropWhile)))

theorem topIns_ordered {l : List (Nat × Nat)} {x : Nat × Nat} (h : l.Pairwise TakenBefore) (hx : ∀ y ∈ l, y.2 < x.2) :
    (topIns l x).Pairwise TakenBefore := by
  induction l with
  | nil => exact List.pairwise_singleton _ _
  | cons y l ih =>
    obtain ⟨hy, hl⟩ := List.pairwise_cons.mp h
    obtain ⟨hyx, hlx⟩ := List.forall_mem_cons.mp hx
    rw [topIns_cons]
    split
    next hlt =>
      refine List.pairwise_cons.mpr ⟨fun z hz => ?_, h⟩
      rcases List.mem_cons.mp hz with rfl | hz
      · exact .inl hlt
      · rcases hy z hz with hzy | ⟨hzy, -⟩
        · exact .inl (hzy.trans hlt)
        · exact .inl (hzy.trans_lt hlt)
    next hge =>
      refine List.pairwise_cons.mpr ⟨fun z hz => ?_, ih hl hlx⟩
      rcases List.mem_cons.mp ((topIns_perm l x).mem_iff.mp hz) with rfl | hz
      · exact (lt_or_eq_of_le (not_lt.mp hge)).imp id fun he => ⟨he, hyx⟩
      · exact hy z hz

theorem topSort_spec (ys : List Nat) : (topSort ys).Perm ys.zipIdx ∧ (topSort ys).Pairwise TakenBefore := by
  induction ys using List.reverseRecOn with
  | nil => exact ⟨.rfl, .nil⟩
  | append_singleton ys y ih =>
    obtain ⟨hperm, hord⟩ := ih
    have hstep : topSort (ys ++ [y]) = topIns (topSort ys) (y, ys.length) := by
      rw [topSort, List.zipIdx_append, List.foldl_append, Nat.zero_add]
      rfl
    rw [hstep, List.zipIdx_append, Nat.zero_add]
    refine ⟨(topIns_perm _ _).trans ((hperm.cons _).trans (List.perm_append_singleton _ _).symm), topIns_ordered hord fun p hp => ?_⟩
    exact List.snd_lt_of_mem_zipIdx (hperm.mem_iff.mp hp)

theorem topOf_eq (c : Nat) (ys : List Nat) : topOf c ys = (List.range ys.length).filter fun e =>
    (((topSort ys).take c).map (·.2)).contains e := rfl

theorem mem_topOf {c : Nat} {ys : List Nat} {e : Nat} : e ∈ topOf c ys ↔ e ∈ ((topSort ys).take c).map (·.2) := by
  rw [topOf_eq, List.mem_filter, List.mem_range, List.contains_iff_mem, and_iff_right_iff_imp]
  intro he
  obtain ⟨p, hp, rfl⟩ := List.mem_map.mp he
  exact List.snd_lt_of_mem_zipIdx ((topSort_spec ys).1.mem_iff.mp (List.mem_of_mem_take hp))

theorem topSort_indices (ys : List Nat) : ((topSort ys).map (·.2)).Perm (List.range ys.length) := by
  refine ((topSort_spec ys).1.map _).trans (.of_eq ?_)
  rw [List.zipIdx_map_snd, List.range_eq_range']

/-- The positions kept are in ascending order. -/
theorem topOf_ascending (c : Nat) (ys : List Nat) : (topOf c ys).Pairwise (· < ·) := List.pairwise_lt_range.filter _

theorem topOf_lt {c : Nat} {ys : List Nat} {e : Nat} (h : e ∈ topOf c ys) : e < ys.length :=
  List.mem_range.mp (List.mem_of_mem_filter h)

theorem topOf_length {c : Nat} {ys : List Nat} (h : c ≤ ys.length) : (topOf c ys).length = c := by
  have hnodup : (((topSort ys).take c).map (·.2)).Nodup := by
    rw [List.map_take]
    exact ((topSort_indices ys).nodup_iff.mpr List.nodup_range).sublist (List.take_sublist _ _)
  have hperm := (List.perm_ext_iff_of_nodup ((topOf_ascending c ys).imp Nat.ne_of_lt) hnodup).mpr fun e => mem_topOf
  rw [hperm.length_eq, List.length_map, List.length_take, (topSort_spec ys).1.length_eq, List.length_zipIdx, Nat.min_eq_left h]

/-- A position kept comes before one that is not. -/
theorem topOf_before {c : Nat} {ys : List Nat} {d e : Nat} (he : e ∈ topOf c ys) (hd : d < ys.length) (hnot : d ∉ topOf c ys) :
    TakenBefore (ys.getD e 0, e) (ys.getD d 0, d) := by
  obtain ⟨hperm, hord⟩ := topSort_spec ys
  have hval {p : Nat × Nat} (hp : p ∈ topSort ys) : p = (ys.getD p.2 0, p.2) := by
    have hget := List.mem_zipIdx_iff_getElem?.mp (hperm.mem_iff.mp hp)
    rw [List.getD_eq_getElem?_getD, hget, Option.getD_some]
  obtain ⟨p, hp, rfl⟩ := List.mem_map.mp (mem_topOf.mp he)
  obtain ⟨q, hq, rfl⟩ := List.mem_map.mp ((topSort_indices ys).mem_iff.mpr (List.mem_range.mpr hd))
  rw [← List.take_append_drop c (topSort ys), List.pairwise_append] at hord
  rw [← hval (List.mem_of_mem_take hp), ← hval hq]
  refine hord.2.2 p hp q ?_
  rw [← List.take_append_drop c (topSort ys), List.mem_append] at hq
  exact hq.resolve_left fun hin => hnot (mem_topOf.mpr (List.mem_map_of_mem hin))

/-! ## The record of a block (09 R229) -/

/-- The BF16 code of a value and its flags. -/
def halfOf (y : Nat) : Nat × FpFlags := cvtF (dec32 y) .bf16 .rne false 0

theorem ofNat_mod_byte (e : Nat) : BitVec.ofNat 8 (e % 256) = BitVec.ofNat 8 e := by
  refine BitVec.eq_of_toNat_eq ?_
  rw [BitVec.toNat_ofNat, BitVec.toNat_ofNat]
  exact Nat.mod_mod e 256

theorem topRecord_eq (k : Nat) (ys : List Nat) :
    (topRecord k ys).1 = leBytes 2 (min k ys.length) ++ [0, 0] ++
      (topOf (min k ys.length) ys).flatMap (fun e => [BitVec.ofNat 8 e, 0] ++ leBytes 2 (halfOf (ys.getD e 0)).1) ++
      List.replicate (4 * (k - min k ys.length)) 0 ∧
    (topRecord k ys).2.1 = (topOf (min k ys.length) ys).map (fun e => (e, (halfOf (ys.getD e 0)).1 * 2 ^ 16)) ∧
    (topRecord k ys).2.2 = orFlags ((topOf (min k ys.length) ys).map fun e => (halfOf (ys.getD e 0)).2) := by
  have hcvt (e : Nat) : cvtEt (dec32 (ys.getD e 0)) .bf16 .rne false = halfOf (ys.getD e 0) := rfl
  simp only [topRecord, hcvt, List.flatMap_map, List.map_map]
  refine ⟨?_, List.map_congr_left fun e _ => congrArg (e, ·) (loadLane_cvtF _), rfl⟩
  have hentry (e : Nat) : leBytes 1 e ++ [0] ++ leBytes 2 (halfOf (ys.getD e 0)).1 =
      [BitVec.ofNat 8 e, 0] ++ leBytes 2 (halfOf (ys.getD e 0)).1 := by
    rw [← ofNat_mod_byte]
    rfl
  simp only [hentry]
  rfl

/-! ## Residuals (09 R223, R229) -/

/-- Position e of a block of a walk over the source. -/
def XArgs.blockPos (x : XArgs) (w : Nat × Nat × Nat) (e : Nat) : Pos := posAt x.hs w.1 (256 * w.2.1 + e)

/-- The residuals of a block stand in the scratchpad. -/
def XArgs.readsResiduals (x : XArgs) (base : W64) (w : Nat × Nat × Nat) : Prop :=
  ∀ e < w.2.2, x.resAddr base (x.blockPos w e) + 4 ≤ 2 ^ 22

/-- The residuals of a block. -/
def XArgs.residVals (x : XArgs) (b : Nat → Nat → Byte) (base : W64) (w : Nat × Nat × Nat) : List Nat :=
  (List.range w.2.2).map fun e => leNat (bytesAt b 0 4 ((x.resAddr base (x.blockPos w e) : Nat) : Int))

theorem XArgs.residuals_good {x : XArgs} (b : Nat → Nat → Byte) {base : W64} {w : Nat × Nat × Nat} (h : x.readsResiduals base w) :
    x.residuals (goodBytes b) base w.1 w.2.1 w.2.2 = .val (x.residVals b base w) := by
  refine Ev.all_val _ _ _ fun e he => fetchNum_good b ⟨Int.natCast_nonneg _, ?_⟩
  exact_mod_cast h e (List.mem_range.mp he)

/-- The sums of a block's values and their residuals, with their flags. -/
def XArgs.resSums (x : XArgs) (b : Nat → Nat → Byte) (base : W64) (w : Nat × Nat × Nat) : List (Nat × FpFlags) :=
  (List.range w.2.2).map fun e => fadd (x.f32At b (x.blockPos w e)) (leNat (bytesAt b 0 4 ((x.resAddr base (x.blockPos w e) : Nat) : Int)))

theorem XArgs.addAll_eq (x : XArgs) (b : Nat → Nat → Byte) (base : W64) (w : Nat × Nat × Nat) :
    addAll (x.blockVals b w) (x.residVals b base w) = ((x.resSums b base w).map (·.1), orFlags ((x.resSums b base w).map (·.2))) := by
  rw [addAll, XArgs.blockVals, XArgs.residVals, List.zipWith_map, List.zipWith_self]
  rfl

/-- Values by number, each with its number. -/
theorem zipIdx_map_range {α : Type} (f : Nat → α) (m : Nat) : ((List.range m).map f).zipIdx = (List.range m).map fun e => (f e, e) := by
  refine List.ext_getElem (by simp) fun i h1 h2 => ?_
  simp

theorem XArgs.resSums_zipIdx (x : XArgs) (b : Nat → Nat → Byte) (base : W64) (w : Nat × Nat × Nat) :
    ((x.resSums b base w).map (·.1)).zipIdx = (List.range w.2.2).map fun e => (((x.resSums b base w).getD e (0, 0)).1, e) := by
  have hget {e : Nat} (he : e ∈ List.range w.2.2) : (x.resSums b base w).getD e (0, 0) =
      fadd (x.f32At b (x.blockPos w e)) (leNat (bytesAt b 0 4 ((x.resAddr base (x.blockPos w e) : Nat) : Int))) := by
    rw [XArgs.resSums, List.getD_eq_getElem?_getD, List.getElem?_map, List.getElem?_range (List.mem_range.mp he)]
    rfl
  rw [XArgs.resSums, List.map_map, zipIdx_map_range, ← XArgs.resSums]
  exact List.map_congr_left fun e he => by rw [hget he]; rfl

/-! ## TOPK and TOPKX (09 R229) -/

/-- What TOPK writes for the block i. -/
def XArgs.topPiece (x : XArgs) (i : Nat) (ys : List Nat) : Piece :=
  let n := x.p0.toNat % 256
  { pos := i * (4 + 4 * n), writes := [(((hAddr x.hd + i * (4 + 4 * n) : Nat) : Int), (topRecord n ys).1)], fp := (topRecord n ys).2.2 }

theorem results_topk {x : XArgs} (hx : x.readsElems) (b : Nat → Nat → Byte) : results (topkUnits x false) b =
    (walkBlocks x.hs).zipIdx.map fun q => .val (x.topPiece q.2 (x.blockVals b q.1)) := by
  rw [results, topkUnits, List.map_map]
  refine List.map_congr_left fun q _ => ?_
  have hflags (f : FpFlags) : 0 ||| f ||| 0 = f := BitVec.or_zero.trans BitVec.zero_or
  simp only [Function.comp_apply, XArgs.runF32_good hx, Ev.both, Ev.bind, Bool.false_eq_true, if_false, hflags]
  rfl

/-- The residual of a position, by what a record keeps. -/
def restOf (kept : List (Nat × Nat)) (y e : Nat) : Nat × FpFlags := resOf y ((kept.find? fun q => decide (q.1 = e)).map (·.2))

/-- What TOPKX leaves of a block's sums. -/
def XArgs.topRests (x : XArgs) (b : Nat → Nat → Byte) (w : Nat × Nat × Nat) : List (Nat × FpFlags) :=
  (List.range w.2.2).map fun e => restOf (topRecord (x.p0.toNat % 256) ((x.resSums b x.p1 w).map (·.1))).2.1
    ((x.resSums b x.p1 w).getD e (0, 0)).1 e

theorem results_topkx {x : XArgs} (hx : x.readsElems) (b : Nat → Nat → Byte) (h : ∀ w ∈ walkBlocks x.hs, x.readsResiduals x.p1 w) :
    results (topkUnits x true) b = (walkBlocks x.hs).zipIdx.map fun q => .val
      { x.topPiece q.2 ((x.resSums b x.p1 q.1).map (·.1)) with
        resid := (x.topRests b q.1).zipIdx.map fun z => (x.resAddr x.p1 (x.blockPos q.1 z.2), leBytes 4 z.1.1),
        fp := orFlags ((x.resSums b x.p1 q.1).map (·.2)) |||
          (topRecord (x.p0.toNat % 256) ((x.resSums b x.p1 q.1).map (·.1))).2.2 ||| orFlags ((x.topRests b q.1).map (·.2)) } := by
  rw [results, topkUnits, List.map_map]
  refine List.map_congr_left fun q hq => ?_
  have hmem : q.1 ∈ walkBlocks x.hs := List.fst_mem_of_mem_zipIdx hq
  simp only [Function.comp_apply, XArgs.runF32_good hx, if_true, XArgs.residuals_good b (h _ hmem), Ev.both, Ev.bind, XArgs.addAll_eq,
    XArgs.resSums_zipIdx, List.map_map]
  rw [XArgs.topRests, zipIdx_map_range, List.map_map, List.map_map]
  rfl

/-! ## REDUCE and REDUCE_Q (09 R232) -/

theorem results_reduce {x : XArgs} (hx : x.readsElems) (b : Nat → Nat → Byte) (h : ∀ p, inExt x.hd p = true → inExt x.hs p = true) :
    results (reduceUnits x) b = (walkPos x.hd).map fun p => .val
      { pos := linear x.hd p,
        red := [(elemAddr x.hd p, decEt x.sEt (leNat (bytesAt b (hSpace x.hs) x.sSz (elemAddr x.hs p))))] } := by
  rw [results, reduceUnits, List.map_map]
  refine List.map_congr_left fun p hp => ?_
  simp only [Function.comp_apply, XArgs.code_good hx, if_pos (h p (mem_walkPos.mp hp)), Ev.bind]

/-- The block that REDUCE_Q codes. -/
def XArgs.reducedBlock (x : XArgs) (b : Nat → Nat → Byte) (w : Nat × Nat × Nat) : Nat × List Nat × FpFlags :=
  quant ((x.resSums b x.p2 w).map (·.1)) w.2.2 (x.p0.getLsbD 4) (x.p0.toNat % 16) ((Rm.ofShort (x.p0.toNat / 32 % 4)).getD .rne) 0
    fun i => (gen x.seed x.sid (BitVec.ofNat 32 (linear x.hd (x.blockPos w 0) + i)) (x.p1.setWidth 32)).toNat

/-- The exact value of an element of that block. -/
def XArgs.reducedElem (x : XArgs) (b : Nat → Nat → Byte) (w : Nat × Nat × Nat) (e : Nat) : X :=
  blockElem (x.reducedBlock b w).1 ((blockBytes (x.reducedBlock b w).1 (x.p0.getLsbD 4) (x.reducedBlock b w).2.1).drop 4) e

theorem results_reduceQ {x : XArgs} (hx : x.readsElems) (b : Nat → Nat → Byte) (h : ∀ w ∈ walkBlocks x.hs, x.readsResiduals x.p2 w) :
    results (reduceQUnits x) b = (walkBlocks x.hs).map fun w => .val
      { pos := linear x.hd (x.blockPos w 0),
        red := (List.range w.2.2).map fun e => (elemAddr x.hd (x.blockPos w e), x.reducedElem b w e),
        resid := (List.range w.2.2).map fun e => (x.resAddr x.p2 (x.blockPos w e),
          leBytes 4 (fsub ((x.resSums b x.p2 w).getD e (0, 0)).1 (rne32 (x.reducedElem b w e)).1).1),
        fp := (x.reducedBlock b w).2.2 } := by
  have hlow : bits 3 0 x.p0.toNat = x.p0.toNat % 16 := rfl
  have hrm : rmShort (bits 6 5 x.p0.toNat) = (Rm.ofShort (x.p0.toNat / 32 % 4)).getD .rne :=
    congrArg (fun k => (Rm.ofShort k).getD .rne) (bits_eq 6 5 x.p0.toNat)
  rw [results, reduceQUnits, List.map_map]
  refine List.map_congr_left fun w hw => ?_
  simp only [Function.comp_apply, XArgs.runF32_good hx, XArgs.residuals_good b (h w hw), Ev.both, Ev.bind, XArgs.addAll_eq,
    XArgs.resSums_zipIdx, List.map_map, hlow, hrm]
  rfl

/-! ## The statement -/

/-- Settles O59: the walks by their mixed radix, each transform by the lemma that says what its units yield. -/
theorem transformsYieldTheirBytes : Obligations.TransformsYieldTheirBytes := by
  refine ⟨?_, ?_, ?_, ?_⟩
  · intro h p r e e0 e1 e2 e3 per index
    exact ⟨walkPos_eq h, walkPos_linear, inExt_iff h p, rfl, rfl, walkBlocks_eq h, rfl, blockAddr_eq h p, rfl⟩
  · intro x b yields take placed elems elem moves turned row index table at' lost rm converted blocks size
    have hread {a : Int} {n : Nat} (h : placed a n) : readable x.hs a n := readable_of_aligned ⟨h.1, h.2.1⟩ h.2.2
    have hreads (h : elems) : x.readsElems := fun p hp => hread (h.2 p hp)
    refine ⟨fun h hd => ?_, fun h => results_move (hreads h) b true, fun h => ?_, fun h => ?_, fun hd hs hp => ?_, fun h ht => ?_,
      fun h ht => ?_, results_fill x b⟩
    · exact (congrArg (fun us => results us b) (if_neg hd)).trans (results_move (hreads h) b false)
    · exact results_convert (hreads h) b false
    · exact results_convert (hreads h) b true
    · refine ((congrArg (fun us => results us b) (if_pos hd)).trans (results_moveBlock b fun w hw => ?_)).trans ?_
      · exact hread (hp _ (List.mem_map_of_mem hw))
      · rw [List.map_map]
        rfl
    · exact results_gather (hreads h) b ht
    · exact results_scatter (hreads h) b ht
  · intro x b runs piece take placed size wide start f32 short o draw quantised bytes num held rm converted refused fits zero head slot
      src nb full bitmap dst mark word n place
    have hheld : held = heldAt := funext fun l => funext fun i => (heldAt_eq l i).symm
    clear_value held
    subst hheld
    have hblock (hl : hLayout x.hs = 1) {q : Pos} (h : placed (blockAddr x.hs q) (size x.hs) 4) : x.readsBlock q :=
      readable_block hl ⟨h.1, h.2.1⟩ h.2.2
    refine ⟨fun hl h => ?_, fun hl het h => ?_, fun hl het hne hnb h => ?_, fun hl h hnb => ?_⟩
    · exact results_qblock (fun p hp => readable_element hl ⟨(h p hp).1, (h p hp).2.1⟩ (h p hp).2.2) b
    · exact results_xblock b het fun p hp => hblock hl (h p hp)
    · have hlen : nb = (walkBlocks x.hs).length := List.length_map _
      have hsize : blockSize (hEt x.hs = 12) = size x.hs := by
        rcases het with h12 | h13
        · simp only [size, h12]; rfl
        · simp only [size, h13]; rfl
      have hblocks : x.readsBlocks b := fun w hw => ⟨hblock hl (h w hw).1, (h w hw).2⟩
      have hfirst : walkBlocks x.hs ≠ [] := fun hnil => hne (by rw [hlen, hnil]; rfl)
      refine (results_zpack hfirst hblocks).trans ?_
      have hsrc : (x.srcBlocks b).length < 2 ^ 32 := hnb
      rw [packHeader_blocks _ hsrc]
      simp only [XArgs.packPiece, ← hlen, hsize]
      rfl
    · have hword : word = dst.length + (if wide x.hd then 2 ^ 32 else 0) ↔ x.packedWord b = packWord (wide x.hd) dst.length := Iff.rfl
      have hruns := results_zunpack (x := x) b hnb ⟨h.1, h.2.1⟩
      rw [ne_eq, hword]
      refine ⟨fun hbad r hr => ?_, fun hgood => hruns.trans (List.map_congr_left fun q hq => ?_)⟩
      · have hr : r ∈ results (zunpackUnits x) b := hr
        rw [hruns] at hr
        obtain ⟨q, -, rfl⟩ := List.mem_map.mp hr
        rw [XArgs.unpacked_refused hbad]
        rfl
      · rw [XArgs.unpacked_word hgood, emptyBlock_eq]
        split
        next hm =>
          have hnum : num (take 4 (place q.2)) =
              leNat (bytesAt b (hSpace x.hs) 4 (x.packedPlace b dst.length (blockSize (wide x.hd)) q.2)) :=
            congrArg leNat (bytesAt_take b _ le_rfl _)
          refine .trans ?_ (if_pos hm).symm
          rw [hnum]
          split <;> rfl
        next hm => exact (if_neg hm).symm
  · intro x b red k ys runs piece take placed ready code at' f32 values place table sums n record left flags rank c t half o coded part
    have hleft : left = restOf := by
      funext kept y e
      simp only [left, restOf, resOf]
      cases kept.find? fun q => decide (q.1 = e) <;> rfl
    clear_value left
    subst hleft
    have hreads (h : ready) : x.readsElems := fun p hp => readable_element h.1 ⟨(h.2 p hp).1, (h.2 p hp).2.1⟩ (h.2 p hp).2.2
    refine ⟨fun _ _ => ?_, fun h => results_topk (hreads h) b, fun h ht => results_topkx (hreads h) b ht,
      fun h hin => results_reduce (hreads h) b hin, fun h ht => results_reduceQ (hreads h) b ht⟩
    exact ⟨topOf c ys, topOf_length (Nat.min_le_right k ys.length), topOf_ascending c ys, fun e => topOf_lt,
      fun e he d hd hnot => topOf_before he hd hnot, topRecord_eq k ys⟩

end Sys2Proof.Machine
end

section
/-! PROOFS. The divide family of the A stream (04 R89). -/

namespace Sys2Proof.Machine

/-- DIV: the quotient that does not fit is the one of -2^63 by -1, and it wraps to its dividend. -/
theorem opDiv_eq (x y : W64) : opDiv x y = if y = 0 then -1
    else if x.toInt = -2 ^ 63 ∧ y.toInt = -1 then BitVec.ofInt 64 (-2 ^ 63)
    else BitVec.ofInt 64 (x.toInt.tdiv y.toInt) := by
  by_cases hover : x.toInt = -2 ^ 63 ∧ y.toInt = -1
  · obtain ⟨hx, hy⟩ := hover
    simp only [opDiv, hx, hy]
    rfl
  · simp only [opDiv, if_neg hover]

/-- REM: what the truncated quotient leaves of the dividend; nothing of -2^63 by -1. -/
theorem opRem_eq (x y : W64) : opRem x y = if y = 0 then x
    else if x.toInt = -2 ^ 63 ∧ y.toInt = -1 then 0
    else BitVec.ofInt 64 (x.toInt - y.toInt * x.toInt.tdiv y.toInt) := by
  rw [← Int.tmod_def]
  by_cases hover : x.toInt = -2 ^ 63 ∧ y.toInt = -1
  · obtain ⟨hx, hy⟩ := hover
    simp only [opRem, hx, hy]
    rfl
  · simp only [opRem, if_neg hover]

/-- Settles O2: each word is one issue of its operator, whose result has the corner values of R89. -/
theorem divideFamilyTruncatesAndNeverFaults : Obligations.DivideFamilyTruncatesAndNeverFaults := by
  unfold Obligations.DivideFamilyTruncatesAndNeverFaults
  intro c d a b s h
  have word := aluWord_clear h d a b 20
  dsimp only
  rw [← opDiv_eq, ← opRem_eq]
  exact ⟨word opDiv, word opRem, word opDivu, word opRemu⟩

end Sys2Proof.Machine
end

section
/-! PROOFS. The branches of the A stream: when they are taken, where they go, what they write (04 R96 to R101). -/

namespace Sys2Proof.Machine

/-- R96: the link is the counter after the word, as its scalar holds it. -/
theorem Core.link_eq {c : Core} (hsize : c.winSize .a ≤ 2 ^ 17) : c.link =
    BitVec.ofNat 64 (if c.winSize .a = 0 then 0 else (c.sa.pc.toNat + 1) % c.winSize .a) := by
  apply BitVec.eq_of_toNat_eq
  rw [Core.link, BitVec.toNat_setWidth, BitVec.toNat_ofNat]
  by_cases h0 : c.winSize .a = 0
  · simp [pcMove, h0]
  · rw [pcMove_toNat (Nat.pos_of_ne_zero h0) hsize, if_neg h0]
    rfl

/-- An A word of latency 1 that moves the counter and writes what it writes. -/
theorem branchWord_clear {c : Ctl} {s : State} (h : s.core.clear c) (regs dst : Ranges) (preds : List (BitVec 3))
    (acts : List LAct) (next : Next) :
    issue { st := .a, ctl := c, regs := regs, preds := preds, dst := dst, lat := s.core.latA 1, acts := acts, next := next } s =
      s.goes { Plan.of .a c s.core.sa.div acts with next := next } :=
  issue_goes h rfl rfl rfl rfl rfl rfl (Core.issued_congr rfl rfl rfl rfl (Nat.one_mul _) rfl rfl rfl rfl rfl)

/-- Settles O3: each branch is one issue, with its condition, its target and its link as R96 to R101 have them. -/
theorem branchesTakeTheirTargets : Obligations.BranchesTakeTheirTargets := by
  unfold Obligations.BranchesTakeTheirTargets
  intro c cc ne p d a b off s h hsize
  have word := branchWord_clear h
  dsimp only
  rw [← Core.link_eq hsize]
  exact ⟨word _ _ [] [] (branchIf (condHolds cc (s.core.sreg a) (s.core.sreg b)) off),
    word [] _ [p] [] (branchIf (s.core.preg p != ne) off), word [] _ [] [] (.rel off),
    word [] _ [] (s.core.sWrite 63 s.core.link) (.rel off),
    word _ _ [] (s.core.sWrite d s.core.link) (.abs (s.core.sreg a).toNat),
    word _ _ [] (s.core.sWrite a (s.core.sreg a - 1)) (branchIf (s.core.sreg a - 1 != 0) off)⟩

end Sys2Proof.Machine
end

section
/-! PROOFS. What a register result changes on its landing tick, and the hard-wired registers (04 R79, R80; 06 R132, R134;
10 R258, R262; 14 R335, R340). -/

namespace Sys2Proof.Machine

/-! ## Results of registers (R340) -/

/-- A result of a register file, with no block refused, changes the registers as its action says. -/
theorem State.landReg_eq (s : State) (a : LAct) (f : Core → Core) :
    (if a.ranges.any fun r => (blocksIn r.1 r.2).any ([] : List Nat).contains then s else s.onCore f) = s.onCore f := by
  simp

/-- The predicates after one of them was written. -/
theorem predBits_getLsbD (p : BitVec 8) (n : Nat) (b : Bool) {i : Nat} (hi : i < 8) :
    (if b then p ||| (1 : BitVec 8) <<< n else p &&& ~~~((1 : BitVec 8) <<< n)).getLsbD i = if i = n then b else p.getLsbD i := by
  have hbit : ((1 : BitVec 8) <<< n).getLsbD i = decide (i = n) := by
    rw [BitVec.getLsbD_shiftLeft, show (1 : BitVec 8) = 1#8 from rfl, BitVec.getLsbD_one]
    simp only [hi, decide_true, Bool.true_and, Nat.lt_add_one_iff, Nat.zero_le]
    rw [← decide_not, ← Bool.decide_and]
    exact decide_eq_decide.mpr (by omega)
  cases b with
  | false =>
    rw [if_neg Bool.false_ne_true, BitVec.getLsbD_and, BitVec.getLsbD_not, hbit]
    by_cases h : i = n <;> simp only [h, hi, decide_true, decide_false, Bool.not_true, Bool.not_false, Bool.and_false, Bool.and_true,
      if_true, if_false]
  | true =>
    rw [if_pos rfl, BitVec.getLsbD_or, hbit]
    by_cases h : i = n <;> simp only [h, decide_true, decide_false, Bool.or_true, Bool.or_false, if_true, if_false]

/-- A word written under a mask. -/
theorem maskedBits_getLsbD {w : Nat} (m x old : BitVec w) {i : Nat} (hi : i < w) :
    ((old &&& ~~~m) ||| (x &&& m)).getLsbD i = if m.getLsbD i then x.getLsbD i else old.getLsbD i := by
  rw [BitVec.getLsbD_or, BitVec.getLsbD_and, BitVec.getLsbD_and, BitVec.getLsbD_not]
  cases m.getLsbD i <;> simp [hi]

theorem maskedBits_all {w : Nat} (x old : BitVec w) :
    (old &&& ~~~(BitVec.allOnes w)) ||| (x &&& BitVec.allOnes w) = x := by
  rw [BitVec.not_allOnes, BitVec.and_zero, BitVec.and_allOnes, BitVec.zero_or]

/-! ## Differences of views (R258, R262) -/

theorem bool_xor_back : ∀ x y : Bool, (x ^^ (y ^^ x)) = y := by decide

theorem bitVec_xor_back {w : Nat} (x y : BitVec w) : x ^^^ (y ^^^ x) = y := by
  rw [BitVec.xor_comm y, ← BitVec.xor_assoc, BitVec.xor_self, BitVec.zero_xor]

/-- A ring's view that stood at e shows d once the difference has landed. -/
theorem Ring.plus_minus (e d : Ring) : e.plus (d.minus e) = d := by
  simp only [Ring.plus, Ring.minus, add_sub_cancel, bitVec_xor_back, bool_xor_back]

theorem Bar.plus_minus (u g : Bar) : u.plus (g.minus u) = g := by
  simp only [Bar.plus, Bar.minus, add_sub_cancel, bool_xor_back]

/-! ## The hard-wired registers (R80, R134, R335) -/

section
variable {k : Core} {n : BitVec 6}

/-- Where no shadow scalar is named, a scalar other than s0 is the job's. -/
theorem Core.scalar_user (h0 : n ≠ 0) (h : k.inSup = false ∨ n.toNat < 56) (x : W64) :
    k.sreg n = vget k.r.s n.toNat 0 ∧ k.sWrite n x = [.scalar n.toNat x] := by
  have hsh : ¬((k.inSup && decide (56 ≤ n.toNat)) = true) := by
    rw [Bool.and_eq_true, decide_eq_true_eq]
    rintro ⟨hsup, hn⟩
    rcases h with h | h
    · exact Bool.false_ne_true (h.symm.trans hsup)
    · omega
  rw [Core.sreg, Core.sWrite, if_neg h0, if_neg h0, if_neg hsh, if_neg hsh]
  exact ⟨rfl, rfl⟩

/-- In supervisor mode s56 to s63 name the shadow scalars. -/
theorem Core.scalar_shadow (hs : k.inSup = true) (hn : 56 ≤ n.toNat) (x : W64) :
    k.sreg n = vget k.r.sh (n.toNat - 56) 0 ∧ k.sWrite n x = [.shadow (n.toNat - 56) x] := by
  have h0 : n ≠ 0 := by
    rintro rfl
    exact absurd hn (by decide)
  have hsh : (k.inSup && decide (56 ≤ n.toNat)) = true := by rw [hs, Bool.true_and, decide_eq_true_eq]; exact hn
  rw [Core.sreg, Core.sWrite, if_neg h0, if_neg h0, if_pos hsh, if_pos hsh]
  exact ⟨rfl, rfl⟩

end

/-- Settles O37: each result is one action on its register file or queue; the views take differences; the names of the
hard-wired registers do not reach the files. -/
theorem registerResultsLandAndConstantsHold : Obligations.RegisterResultsLandAndConstantsHold := by
  unfold Obligations.RegisterResultsLandAndConstantsHold
  refine ⟨fun n x y h b m l q d e g u s => ?_, fun k n x => ⟨rfl, rfl, rfl, rfl, fun _ => rfl,
    fun h0 h => Core.scalar_user h0 h x, fun hs hn => Core.scalar_shadow hs hn x⟩⟩
  dsimp only
  have reg := s.landReg_eq
  refine ⟨reg (.scalar n x) _, rfl, reg (.handle n h) _, reg (.mreg n y) _, reg (.xreg n x) _,
    ⟨(s.core.putPred n b).r.p, reg (.pred n b) (·.putPred n b), fun i hi => predBits_getLsbD s.core.r.p n b hi⟩,
    ⟨_, reg (.lanes n m l) (·.putLanes n m l), fun i hi => ?_⟩,
    ⟨_, reg (.kbits n (some m) x) (·.putK n m x), fun i hi => maskedBits_getLsbD m x _ hi⟩, ?_,
    rfl, rfl, rfl, e.plus_minus d, u.plus_minus g⟩
  · simp [vget, hi]
  · refine (reg (.kbits n none x) _).trans ?_
    rw [State.onCore, Option.getD_none, Core.putK, maskedBits_all]
    rfl

end Sys2Proof.Machine
end

section
/-! PROOFS. The handle words of the A stream: the fields of a handle, what each word writes, and what HSET leaves on its
landing tick (04 R84, R102 to R106; 07 R161; 14 R340). -/

namespace Sys2Proof.Machine

/-! ## Fields of a handle (R84, R102, R103) -/

theorem hfPlace_width (f : HField) : 0 < (hfPlace f).2.1 ∧ (hfPlace f).2.1 ≤ 64 := by cases f <;> decide

/-- A number of w bits, moved to place lo. -/
theorem shifted_getLsbD {n lo w : Nat} (x : Nat) {i : Nat} (hi : i < n) :
    (BitVec.ofNat n (x % 2 ^ w * 2 ^ lo)).getLsbD i = (decide (lo ≤ i ∧ i < lo + w) && x.testBit (i - lo)) := by
  rw [BitVec.getLsbD_ofNat, Nat.testBit_mul_two_pow, Nat.testBit_mod_two_pow, decide_eq_true hi, Bool.true_and, ← Bool.and_assoc,
    ← Bool.decide_and]
  congr 1
  exact decide_eq_decide.mpr (by omega)

/-- HSET's new handle, bit by bit (R103). -/
theorem hfSet_getLsbD (h : BitVec 256) (f : HField) (x : W64) {i : Nat} (hi : i < 256) :
    (hfSet h f x).getLsbD i = if (hfPlace f).1 ≤ i ∧ i < (hfPlace f).1 + (hfPlace f).2.1
      then x.getLsbD (i - (hfPlace f).1) else h.getLsbD i := by
  have hmask := shifted_getLsbD (lo := (hfPlace f).1) (w := (hfPlace f).2.1) (2 ^ (hfPlace f).2.1 - 1) hi
  rw [Nat.mod_eq_of_lt (Nat.sub_lt (Nat.two_pow_pos _) Nat.one_pos), Nat.testBit_two_pow_sub_one, ← Bool.decide_and] at hmask
  rw [hfSet, BitVec.getLsbD_or, BitVec.getLsbD_and, BitVec.getLsbD_not, hmask, shifted_getLsbD x.toNat hi, BitVec.getLsbD,
    decide_eq_true hi, Bool.true_and]
  by_cases hin : (hfPlace f).1 ≤ i ∧ i < (hfPlace f).1 + (hfPlace f).2.1
  · rw [if_pos hin, decide_eq_true hin, decide_eq_true (And.intro hin (by omega)), Bool.not_true, Bool.and_false, Bool.false_or,
      Bool.true_and]
    rfl
  · rw [if_neg hin, decide_eq_false hin, decide_eq_false (fun hc => hin hc.1), Bool.not_false, Bool.and_true, Bool.false_and,
      Bool.or_false]

theorem sext_eq_toInt {w : Nat} (hw : 0 < w) (x : Nat) : sext w x = (BitVec.ofNat w x).toInt := by
  obtain ⟨k, rfl⟩ : ∃ k, w = k + 1 := ⟨w - 1, by omega⟩
  rw [sext, BitVec.toInt_eq_toNat_cond, BitVec.toNat_ofNat, Nat.add_sub_cancel, Nat.pow_succ]
  split <;> split <;> omega

/-- The bits of a field, as a number. -/
theorem hfBits_testBit (h : BitVec 256) (f : HField) (i : Nat) :
    (hfBits h f).testBit i = (decide (i < (hfPlace f).2.1) && h.getLsbD ((hfPlace f).1 + i)) := by
  have hw := (hfPlace_width f).1
  rw [hfBits, bits, Nat.testBit_mod_two_pow, Nat.testBit_shiftRight]
  congr 2
  exact congrArg _ (by omega)

/-- What HGET returns, bit by bit: the field, extended by zeros or by its sign (R103). -/
theorem hfGet_getLsbD (h : BitVec 256) (f : HField) {i : Nat} (hi : i < 64) :
    (hfGet h f).getLsbD i = if i < (hfPlace f).2.1 then h.getLsbD ((hfPlace f).1 + i)
      else ((hfPlace f).2.2 && h.getLsbD ((hfPlace f).1 + (hfPlace f).2.1 - 1)) := by
  obtain ⟨hw, hw64⟩ := hfPlace_width f
  cases hs : (hfPlace f).2.2 with
  | false =>
    rw [hfGet, hs, if_neg Bool.false_ne_true, BitVec.getLsbD_ofNat, hfBits_testBit, decide_eq_true hi]
    split <;> simp [*]
  | true =>
    have hext : hfGet h f = (BitVec.ofNat (hfPlace f).2.1 (hfBits h f)).signExtend 64 := by
      rw [hfGet, hs, if_pos rfl, sext_eq_toInt hw]
      rfl
    have hbit {j : Nat} (hj : j < (hfPlace f).2.1) :
        (BitVec.ofNat (hfPlace f).2.1 (hfBits h f)).getLsbD j = h.getLsbD ((hfPlace f).1 + j) := by
      rw [BitVec.getLsbD_ofNat, hfBits_testBit, decide_eq_true hj]; simp
    rw [hext, BitVec.getLsbD_signExtend, decide_eq_true hi, Bool.true_and, Bool.true_and]
    split
    · next h' => exact hbit h'
    · rw [BitVec.msb_eq_getLsbD_last, hbit (by omega)]
      congr 1; omega

/-! ## Bytes under masks (R103, R340) -/

theorem byteOf_getLsbD {w : Nat} (x : BitVec w) (i : Nat) {k : Nat} (hk : k < 8) :
    (byteOf x i).getLsbD k = x.getLsbD (8 * i + k) := by
  rw [byteOf, BitVec.getLsbD_setWidth, BitVec.getLsbD_ushiftRight, decide_eq_true hk, Bool.true_and]

/-- A byte replaced changes its eight bits. -/
theorem setByte_getLsbD {w : Nat} (x : BitVec w) (i : Nat) (b : Byte) {j : Nat} (hj : j < w) :
    (setByte x i b).getLsbD j = if j / 8 = i then b.getLsbD (j % 8) else x.getLsbD j := by
  have h255 (k : Nat) : (255 : BitVec w).getLsbD k = (decide (k < w) && decide (k < 8)) := by
    rw [show (255 : BitVec w) = BitVec.ofNat w (2 ^ 8 - 1) from rfl, BitVec.getLsbD_ofNat, Nat.testBit_two_pow_sub_one]
  rw [setByte, BitVec.getLsbD_or, BitVec.getLsbD_and, BitVec.getLsbD_not, BitVec.getLsbD_shiftLeft, BitVec.getLsbD_shiftLeft,
    h255, BitVec.getLsbD_setWidth, decide_eq_true hj, decide_eq_true (show j - 8 * i < w by omega)]
  simp only [Bool.true_and]
  by_cases hlow : j < 8 * i
  · rw [if_neg (show ¬ j / 8 = i by omega), decide_eq_true hlow]; simp
  · by_cases hin : j - 8 * i < 8
    · rw [if_pos (show j / 8 = i by omega), decide_eq_false hlow, decide_eq_true hin, show j - 8 * i = j % 8 by omega]; simp
    · rw [if_neg (show ¬ j / 8 = i by omega), decide_eq_false hin, BitVec.getLsbD_of_ge b _ (by omega)]; simp

/-- A byte of a handle with the bits of a mask taken from another. -/
def mergeByte (m d : BitVec 256) (v : BitVec 256) (i : Nat) : BitVec 256 :=
  setByte v i ((byteOf v i &&& ~~~(byteOf m i)) ||| (byteOf d i &&& byteOf m i))

theorem mergeByte_getLsbD (m d v : BitVec 256) (i : Nat) {j : Nat} (hj : j < 256) : (mergeByte m d v i).getLsbD j =
    if j / 8 = i ∧ m.getLsbD j = true then d.getLsbD j else v.getLsbD j := by
  rw [mergeByte, setByte_getLsbD v i _ hj]
  by_cases hi : j / 8 = i
  · subst hi
    have hk : j % 8 < 8 := Nat.mod_lt j (by decide)
    rw [if_pos rfl, maskedBits_getLsbD _ _ _ hk, byteOf_getLsbD _ _ hk, byteOf_getLsbD _ _ hk, byteOf_getLsbD _ _ hk,
      Nat.div_add_mod]
    simp
  · rw [if_neg hi, if_neg fun hc => hi hc.1]

theorem foldl_mergeByte_getLsbD (m d v : BitVec 256) (l : List Nat) {j : Nat} (hj : j < 256) :
    (l.foldl (mergeByte m d) v).getLsbD j = if j / 8 ∈ l ∧ m.getLsbD j = true then d.getLsbD j else v.getLsbD j := by
  induction l generalizing v with
  | nil => simp
  | cons i l ih =>
    rw [List.foldl_cons, ih, mergeByte_getLsbD m d v i hj]
    cases hm : m.getLsbD j with
    | false => simp
    | true => by_cases hi : j / 8 = i <;> by_cases hl : j / 8 ∈ l <;> simp [hi, hl]

/-! ## HSET on its landing tick (R103, R161) -/

/-- The address of byte i of handle n (R161). -/
theorem handleByte_place {n i : Nat} (hi : i < 32) :
    (0x302200 + 32 * n + i - 0x302200) / 32 = n ∧ (0x302200 + 32 * n + i) % 32 = i := by omega

theorem Core.setB_handle (k : Core) {n i : Nat} (hn : n < 16) (hi : i < 32) (b : Byte) : k.setB (0x302200 + 32 * n + i) b =
    { k with r := { k.r with h := vset k.r.h n (setByte (vget k.r.h n 0) i b) } } := by
  obtain ⟨hdiv, hmod⟩ := handleByte_place (n := n) hi
  have hlow (x : Nat) (hx : x ≤ 0x302200) : ¬0x302200 + 32 * n + i < x := by omega
  have hhigh : 0x302200 + 32 * n + i < 0x302400 := by omega
  simp (disch := decide) only [Core.setB, hlow, hhigh, hdiv, hmod, if_false, if_true]

theorem Core.getB_handle (k : Core) {n i : Nat} (hn : n < 16) (hi : i < 32) :
    k.getB (0x302200 + 32 * n + i) = byteOf (vget k.r.h n 0) i := by
  obtain ⟨hdiv, hmod⟩ := handleByte_place (n := n) hi
  have hlow (x : Nat) (hx : x ≤ 0x302200) : ¬0x302200 + 32 * n + i < x := by omega
  have hhigh : 0x302200 + 32 * n + i < 0x302400 := by omega
  simp (disch := decide) only [Core.getB, hlow, hhigh, hdiv, hmod, if_false, if_true]

theorem lentAddr_window {a : Nat} (h : 0x300000 ≤ a) : lentAddr a = false := by
  simp [lentAddr, inTile, inAcc, show ¬a < 0x200000 by omega, show ¬a < 0x280000 by omega, show ¬a < 0x300000 by omega]

theorem vset_vset {α : Type} {n : Nat} (v : Vector α n) (i : Nat) (x y : α) : vset (vset v i x) i y = vset v i y := by
  unfold vset
  split
  · simp
  · rfl

/-- The machine with a handle replaced. -/
def State.setHandle (s : State) (h : BitVec 4) (v : BitVec 256) : State :=
  s.onCore fun k => { k with r := { k.r with h := vset k.r.h h.toNat v } }

theorem State.setHandle_hreg (s : State) (h : BitVec 4) (v : BitVec 256) : (s.setHandle h v).core.hreg h = v :=
  vget_vset_same _ _ _ _ h.isLt

theorem State.setHandle_setHandle (s : State) (h : BitVec 4) (v w : BitVec 256) :
    (s.setHandle h v).setHandle h w = s.setHandle h w := by
  simp only [State.setHandle, State.onCore, vset_vset]

theorem State.setHandle_self (s : State) (h : BitVec 4) : s.setHandle h (s.core.hreg h) = s := by
  simp only [State.setHandle, State.onCore, Core.hreg, vset_vget]

/-- One byte of a handle lands under its mask. -/
theorem State.putItem_handle (s : State) (h : BitVec 4) (m d : BitVec 256) {i : Nat} (hi : i < 32) :
    s.putItem [] { addr := 0x302200 + 32 * h.toNat + i, data := [byteOf d i], mask := some (byteOf m i) } =
      s.setHandle h (mergeByte m d (s.core.hreg h) i) := by
  have hlent : lentAddr (0x302200 + 32 * h.toNat + i) = false := lentAddr_window (by omega)
  have hz : zAddr (0x302200 + 32 * h.toNat + i) = false := by
    rw [zAddr, decide_eq_false (p := _ < 0x301B00) (by omega), Bool.and_false]
  simp [State.putItem, State.putL, State.getL, State.setB, hlent, hz, Core.getB_handle _ h.isLt hi, Core.setB_handle _ h.isLt hi,
    State.putCore, State.setHandle, State.onCore, mergeByte, Core.hreg]

/-- The bytes of a handle that land under masks, one after another. -/
theorem State.putItems_handle (s : State) (h : BitVec 4) (m d : BitVec 256) (l : List Nat) (hl : ∀ i ∈ l, i < 32) :
    (l.map fun i => { addr := 0x302200 + 32 * h.toNat + i, data := [byteOf d i], mask := some (byteOf m i) : LItem }).foldl
      (fun s i => s.putItem [] i) s = s.setHandle h (l.foldl (mergeByte m d) (s.core.hreg h)) := by
  induction l generalizing s with
  | nil => exact (s.setHandle_self h).symm
  | cons i l ih =>
    rw [List.map_cons, List.foldl_cons, s.putItem_handle h m d (hl i List.mem_cons_self),
      ih _ fun j hj => hl j (List.mem_cons_of_mem i hj), State.setHandle_hreg, State.setHandle_setHandle, List.foldl_cons]

/-- HSET's landing leaves the handle with the field's bits replaced. -/
theorem State.landAct_hfLand (t : State) (h : BitVec 4) (f : HField) (x : W64) :
    ∃ y, (t.landAct [] (hfLand h f x)).1 = t.setHandle h y ∧ ∀ i < 256, y.getLsbD i =
      if (hfPlace f).1 ≤ i ∧ i < (hfPlace f).1 + (hfPlace f).2.1 then x.getLsbD (i - (hfPlace f).1)
      else (t.core.hreg h).getLsbD i := by
  obtain ⟨m, hm⟩ : ∃ m, m = hfSet 0 f (BitVec.allOnes 64) := ⟨_, rfl⟩
  obtain ⟨l, hl⟩ : ∃ l, l = (List.range 32).filter fun i => byteOf m i ≠ 0 := ⟨_, rfl⟩
  have hmask {i : Nat} (hi : i < 256) :
      m.getLsbD i = decide ((hfPlace f).1 ≤ i ∧ i < (hfPlace f).1 + (hfPlace f).2.1) := by
    have hw := (hfPlace_width f).2
    rw [hm, hfSet_getLsbD _ _ _ hi, BitVec.getLsbD_allOnes]
    split
    · simp [*]; omega
    · simp [*]
  have hmem {i : Nat} (hb : m.getLsbD i = true) (hi : i < 256) : i / 8 ∈ l := by
    rw [hl, List.mem_filter, List.mem_range, decide_eq_true_eq]
    refine ⟨by omega, fun h0 => ?_⟩
    have hbit := byteOf_getLsbD m (i / 8) (Nat.mod_lt i (show 8 > 0 by decide))
    rw [h0, Nat.div_add_mod, hb] at hbit
    simp at hbit
  refine ⟨l.foldl (mergeByte m (hfSet 0 f x)) (t.core.hreg h), ?_, fun i hi => ?_⟩
  · subst hl hm
    exact t.putItems_handle h _ _ _ fun i hi => List.mem_range.mp (List.mem_of_mem_filter hi)
  · rw [foldl_mergeByte_getLsbD _ _ _ _ hi, if_congr (and_iff_right_of_imp fun hb => hmem hb hi) rfl rfl, hmask hi,
      hfSet_getLsbD _ _ _ hi]
    by_cases hin : (hfPlace f).1 ≤ i ∧ i < (hfPlace f).1 + (hfPlace f).2.1
    · rw [if_pos hin, if_pos hin, if_pos (decide_eq_true hin)]
    · rw [if_neg (mt of_decide_eq_true hin), if_neg hin]

/-! ## The words that write handles (R102 to R105) -/

section
variable {c : Ctl} {s : State} (h : s.core.clear c)
include h

theorem execHset_clear (hd : BitVec 4) (a : BitVec 6) (f : HField) :
    execHset c hd a f s = s.goes (.of .a c s.core.sa.div [hfLand hd f (s.core.sreg a)]) :=
  issue_goes h rfl rfl rfl rfl rfl rfl (Core.issued_congr rfl rfl rfl rfl (Nat.one_mul _) rfl rfl rfl rfl rfl)

theorem execHget_clear (a : BitVec 6) (g : BitVec 4) (f : HField) :
    execHget c a g f s = s.yields c a 1 (hfGet (s.core.hreg g) f) :=
  issue_clear h rfl rfl rfl rfl rfl rfl _

/-- A word that writes a handle, landing with latency 1. -/
theorem handleWord_lands (hd : BitVec 4) (regs : Ranges) (v : BitVec 256) :
    handleWord c hd regs v s = s.goes (.of .a c s.core.sa.div [.handle hd.toNat v]) := by
  rw [handleWord_clear h, Core.latA, Nat.one_mul]

end

/-- The size of a block as R105 counts it. -/
theorem etBlock_cast (et : Nat) : (etBlock et : Int) = if et = 13 then 132 else 260 := by
  unfold etBlock
  split <;> rfl

/-! ## HLD and HST (R106) -/

section
variable {c : Ctl} {s : State} (h : s.core.clear c) (hd : BitVec 4) (a : BitVec 6) (off : BitVec 8)
include h

/-- What HLD and HST raise they raise before their issue. -/
theorem handleMove_faults {f : Flt} (hf : s.core.shadeFault true (s.core.hEa a off) = some f) :
    execHld c hd a off s = s.faults .a f ∧ execHst c hd a off s = s.faults .a f :=
  ⟨issue_faults h rfl rfl rfl hf _, issue_faults h rfl rfl rfl hf _⟩

/-- With no fault 32 bytes are moved. -/
theorem handleMove_clear (hf : s.core.shadeFault true (s.core.hEa a off) = none) :
    execHld c hd a off s = s.goes (.of .a c ((6 + lentTicks (s.core.hEa a off)) * s.core.sa.div)
        [.handle hd.toNat (BitVec.ofNat 256 (s.getLe (s.core.hEa a off) 32))]) ∧
      execHst c hd a off s = s.goes (.of .a c ((4 + lentTicks (s.core.hEa a off)) * s.core.sa.div)
        [.write (s.core.hEa a off) 1 0 (leBytes 32 (s.core.hreg hd).toNat)]) := by
  refine ⟨issue_goes h rfl rfl rfl hf rfl rfl ?_, issue_goes h rfl rfl rfl hf rfl rfl rfl⟩
  simp only [hf]
  rfl

end

theorem shadeFault_bounds (k : Core) {ea : Nat} (h : 0x200000 ≤ ea) : k.shadeFault true ea = some (flt 0x07 ea) := by
  simp [Core.shadeFault, h]

theorem shadeFault_lent {k : Core} {ea : Nat} (h : ea < 0x200000) (hs : 0x100000 ≤ ea) (hhot : k.hot = false) :
    k.shadeFault true ea = some (flt 0x06 ea) := by
  simp [Core.shadeFault, lentAddr_below h, hs, hhot, Nat.not_le.mpr h]

theorem shadeFault_none {k : Core} {ea : Nat} (h : ea < 0x200000) (hhot : 0x100000 ≤ ea → k.hot = true) :
    k.shadeFault true ea = none := by
  simpa [Core.shadeFault, lentAddr_below h, Nat.not_le.mpr h] using hhot

theorem lentTicks_below {ea : Nat} (h : ea < 0x200000) : lentTicks ea = if 0x100000 ≤ ea then 4 else 0 := by
  simp [lentTicks, lentAddr_below h]

/-- Settles O4: the fields bit by bit, each word as one issue, HSET's landing byte by byte under its mask. -/
theorem handleWordsReadWriteAndMove : Obligations.HandleWordsReadWriteAndMove := by
  unfold Obligations.HandleWordsReadWriteAndMove
  refine ⟨⟨rfl, fun h f x i => ⟨hfSet_getLsbD h f x, hfGet_getLsbD h f⟩⟩, fun c h g a b f s hc => ?_,
    fun c h g a off s hc => ?_⟩
  · have lands := handleWord_lands hc h
    refine ⟨execHset_clear hc h a f, fun t => t.landAct_hfLand h f _, execHget_clear hc a g f, lands _ _, lands _ _, lands _ _,
      lands _ _, lands _ _, fun dim => ?_⟩
    dsimp only
    rw [← etBlock_cast]
    exact lands _ _
  · dsimp only
    refine ⟨fun hb => ?_, fun hb hs hhot => ?_, fun hb hhot => ?_⟩
    · have hf := shadeFault_bounds s.core hb
      exact ⟨(handleMove_faults hc h a off hf).1, (handleMove_faults hc g a off hf).2⟩
    · have hf := shadeFault_lent hb hs hhot
      exact ⟨(handleMove_faults hc h a off hf).1, (handleMove_faults hc g a off hf).2⟩
    · have hf := shadeFault_none hb hhot
      rw [← lentTicks_below hb]
      exact ⟨(handleMove_clear hc h a off hf).1, (handleMove_clear hc g a off hf).2⟩

end Sys2Proof.Machine
end

section
/-! PROOFS. CATOM and CCLOSE at their issue, the words that observe groups, and XCFG's waits and faults (04 R85; 09 R216, R237 to
R243). -/

namespace Sys2Proof.Machine

/-! ## Waits of a posting word (R216; 10 R253, R268) -/

theorem Core.postWaits_eq_false_iff (k : Core) : k.postWaits = false ↔
    k.ownApplied ∧ k.cp.cmds.length < 8 ∧ (k.cp.openGroup.isSome = true ∨ k.cp.groups.length < 16) := by
  simp only [Core.postWaits, Core.ownPending, Bool.or_eq_false_iff, decide_eq_false_iff_not, Bool.and_eq_false_iff, not_lt, not_le,
    Option.isNone_eq_false_iff, ne_eq, not_not, and_assoc]

theorem Core.dqFull_aq_eq_false_iff (k : Core) : k.dqFull .aq = false ↔ (k.dq .aq).length + vget k.q.dres 6 0 < 32 := by
  rw [Core.dqFull, decide_eq_false_iff_not]
  exact not_le

/-! ## CATOM and CCLOSE (R237 to R239) -/

/-- What CATOM refuses of its handle, its byte address and its operation. -/
def catomRefuses (op : AtomOp) (w64 : Bool) (hv : BitVec 256) (addr : Nat) : Prop :=
  hv.toNat / 2 ^ 48 % 2 ^ 12 ≠ 0 ∨ hv.toNat / 2 ^ 240 ≠ 0 ∨ 2 < hLayout hv ∨ hSpace hv < 2 ∨ 4 < hSpace hv ∨
    addr % (if w64 then 8 else 4) ≠ 0 ∨ (hSpace hv = 3 ∧ op ≠ .swap ∧ op ≠ .add ∧ op ≠ .cas)

theorem catomRefuses_iff (op : AtomOp) (w64 : Bool) (hv : BitVec 256) (addr : Nat) :
    (decide (bits 59 48 hv.toNat ≠ 0) || decide (bits 255 240 hv.toNat ≠ 0) || decide (2 < hLayout hv) ||
      decide (hSpace hv < 2) || decide (4 < hSpace hv) || decide (addr % (if w64 then 8 else 4) ≠ 0) ||
      (decide (hSpace hv = 3) && !(decide (op = .swap) || decide (op = .add) || decide (op = .cas)))) = true ↔
    catomRefuses op w64 hv addr := by
  have htop : bits 255 240 hv.toNat = hv.toNat / 2 ^ 240 := by
    rw [bits_eq]
    exact Nat.mod_eq_of_lt (by have := hv.isLt; omega)
  rw [htop, bits_eq, catomRefuses]
  simp [or_assoc, and_assoc]

/-- Under `Core.clear` a word whose own wait holds is judged to wait (02 R54). -/
theorem verdict_waits {k : Core} {p : Plan} (h : k.clear p.ctl) (h1 : p.decode = none) (h2 : p.preWait = none)
    (h3 : p.wait = true) : verdict k p = .wait := by
  obtain ⟨hp, _, hheld, htok, hbad, hroom⟩ := h
  have hroom' : ¬((p.ctl.pushes ≠ 0 && decide (64 < (k.tokens p.ctl.sq).length + vget k.q.fres p.ctl.sq.toNat 0 +
      p.ctl.pushes)) = true) := by
    rw [Bool.and_eq_true, decide_eq_true_eq, decide_eq_true_eq]
    omega
  simp only [verdict, h1, hheld, h2, h3, Core.absentIn_present hp, hbad, if_neg (Nat.not_lt.mpr htok), if_neg hroom',
    Bool.false_eq_true, if_false, if_true]

theorem Core.raise_cp (k : Core) (st : StreamId) (f : Flt) : (k.raise st f).cp = k.cp := by
  rw [Core.raise]
  split <;> rfl

theorem observe_waits {p : Plan} {s : State} (h : s.core.clear p.ctl) (h1 : p.decode = none) (h2 : p.preWait = none)
    (h3 : p.wait = true) (f : Option (Nat × Fail)) : observe p f s = .next s := by
  unfold observe
  split
  · next hgo => cases (verdict_waits h h1 h2 h3).symm.trans hgo
  · exact issue_waits h h1 h2 h3 _

section
variable {c : Ctl} {s : State} (h : s.core.clear c)
include h

theorem execCclose_waits (tq : BitVec 4) (hw : s.core.postWaits = true) : execCclose c tq s = .next s := by
  rw [execCclose]
  exact issue_waits h rfl rfl hw _

theorem execCclose_clear (tq : BitVec 4) (hw : s.core.postWaits = false) : execCclose c tq s =
    s.goesWith (.of .a c s.core.sa.div []) fun y => y.post (s.core.newCmd .close (.cclose c tq)) (some tq) :=
  issue_goesWith h rfl rfl hw rfl rfl rfl
    (Core.issued_congr rfl rfl rfl rfl (Nat.one_mul _) rfl rfl rfl rfl rfl) rfl

section
variable (op : AtomOp) (w64 acq : Bool) (hd : BitVec 4) (a b cx : BitVec 6)

theorem execCatom_waits (hw : (s.core.postWaits || s.core.dqFull .aq) = true) :
    execCatom c op w64 acq hd a b cx s = .next s := by
  rw [execCatom]
  exact issue_waits h rfl rfl hw _

theorem execCatom_faults (hw : (s.core.postWaits || s.core.dqFull .aq) = false)
    (hbad : catomRefuses op w64 (s.core.hreg hd) (catomAddr (s.core.hreg hd) (s.core.sreg a))) :
    execCatom c op w64 acq hd a b cx s = s.faults .a (flt 0x0E) := by
  rw [execCatom]
  exact issue_faults h rfl rfl hw (if_pos ((catomRefuses_iff _ _ _ _).mpr hbad)) _

/-- CATOM posts its command and reserves its place; ACQ fences what follows it. -/
theorem execCatom_clear (hw : (s.core.postWaits || s.core.dqFull .aq) = false)
    (hgood : ¬catomRefuses op w64 (s.core.hreg hd) (catomAddr (s.core.hreg hd) (s.core.sreg a))) :
    execCatom c op w64 acq hd a b cx s = s.goesWith (.of .a c s.core.sa.div []) fun y =>
      let y2 := (y.post { s.core.newCmd .catom (.catom c op w64 acq hd a b cx) with
        hd := s.core.hreg hd
        par := #v[s.core.sreg a, s.core.sreg b, s.core.sreg cx, BitVec.ofNat 64 (hAddr (s.core.hreg hd))] } none).dqReserve .aq
      if acq then { y2 with cp := { y2.cp with facq := y2.cp.nextCmd } } else y2 :=
  issue_goesWith h rfl rfl hw (if_neg (mt (catomRefuses_iff _ _ _ _).mp hgood)) rfl rfl
    (Core.issued_congr rfl rfl rfl rfl (Nat.one_mul _) rfl rfl rfl rfl rfl) rfl

end

/-! ## CWAIT and CPEND (R240, R241) -/

theorem execCwait_clear {n : BitVec 28} (hn : s.core.cp.groups.length ≤ n.toNat) (hu : s.core.cp.unobs = []) :
    execCwait c n s = s.goes (.of .a c s.core.sa.div []) := by
  rw [execCwait, hu]
  exact issue_goes h rfl rfl (decide_eq_false (not_lt.mpr hn)) rfl rfl rfl
    (Core.issued_congr rfl rfl rfl rfl (Nat.one_mul _) rfl rfl rfl rfl rfl)

theorem execCwait_waits {n : BitVec 28} (hn : n.toNat < s.core.cp.groups.length) : execCwait c n s = .next s := by
  rw [execCwait]
  exact observe_waits h rfl rfl (decide_eq_true hn) _

/-- The earliest failure that no word has observed is raised and consumed. -/
theorem execCwait_observes {n : BitVec 28} (hn : s.core.cp.groups.length ≤ n.toNat) {x : Nat × Fail} {rest : List (Nat × Fail)}
    (hu : s.core.cp.unobs = x :: rest) : execCwait c n s = .next (s.onCore fun k =>
      let y := k.raise .a { code := x.2.status, faddr := x.2.faddr, status := x.2.status, poff := x.2.poff }
      { y with cp := { y.cp with unobs := rest } }) := by
  have hgo : verdict s.core { st := .a, ctl := c, wait := n.toNat < s.core.cp.groups.length, lat := s.core.latA 1 } = .go :=
    verdict_clear h rfl rfl (decide_eq_false (not_lt.mpr hn)) rfl rfl rfl
  simp only [execCwait, observe, hu, hgo, List.head?_cons]
  simp only [State.onCore, Core.raise_cp, hu, List.drop_one, List.tail_cons, failFlt]

theorem countWord_clear (d : BitVec 6) (n : Nat) : countWord c d n s = s.yields c d 1 (BitVec.ofNat 64 n) :=
  issue_clear h rfl rfl rfl rfl rfl rfl _

end

/-! ## XCFG (R242, R243, R247) -/

section
variable (k : Core) {ad n : Nat}

theorem Core.graphFault_misplaced (h : ad % 8 ≠ 0 ∨ 0x200000 ≤ ad) : k.graphFault ad n = some (flt 0x07 ad) := by
  rw [Core.graphFault, if_pos]
  rwa [Bool.or_eq_true, decide_eq_true_eq, decide_eq_true_eq]

variable (halign : ad % 8 = 0)
include halign

theorem Core.graphFault_beyond (h : ad < 0x200000) (hend : 0x200000 < ad + n) : k.graphFault ad n = some (flt 0x07 0x200000) := by
  simp [Core.graphFault, halign, Nat.not_le.mpr h, hend]

theorem Core.graphFault_lent (hend : ad + n ≤ 0x200000) (h : ad < 0x200000) (hcold : k.hot = false) (hshade : 0x100000 < ad + n) :
    k.graphFault ad n = some (flt 0x06 (max ad 0x100000)) := by
  simp [Core.graphFault, halign, Nat.not_le.mpr h, Nat.not_lt.mpr hend, hcold, Nat.not_le.mpr hshade]

theorem Core.graphFault_none (hn : 0 < n) (hend : ad + n ≤ 0x200000) (hhot : k.hot = true ∨ ad + n ≤ 0x100000) :
    k.graphFault ad n = none := by
  have h : ¬0x200000 ≤ ad := by omega
  simp [Core.graphFault, halign, h, Nat.not_lt.mpr hend, hhot]

end

/-- The words of a graph image as the header at its address counts them. -/
def State.graphImage (s : State) (ad : Nat) : List W64 :=
  (List.range (bits 63 60 (s.getLe ad 8) + 2)).map fun i => BitVec.ofNat 64 (s.getLe (ad + 8 * i) 8)

/-- Bytes of a graph image as its header counts them. -/
def State.graphBytes (s : State) (ad : Nat) : Nat := 8 * (bits 63 60 (s.getLe ad 8) + 2)

/-- XCFG's faults of place: those of the first two words, then those of the image. -/
def State.graphPlace (s : State) (ad : Nat) : Option Flt :=
  (s.core.graphFault ad 16).or (s.core.graphFault ad (s.graphBytes ad))

/-- XCFG judges two words where the header cannot be read, and the image otherwise. -/
theorem State.graphPlace_eq {s : State} (hp : s.core.r.pres = []) (ad : Nat) :
    s.core.graphFault ad (if (!(s.core.blocksWith .absent [(ad, 8)]).isEmpty || (s.core.graphFault ad 16).isSome) = true
      then 16 else 8 * (bits 63 60 (s.getLe ad 8) + 2)) = s.graphPlace ad := by
  have hpresent : s.core.blocksWith .absent [(ad, 8)] = [] := by rw [Core.blocksWith, hp]; rfl
  rw [hpresent, State.graphPlace, State.graphBytes]
  cases hf : s.core.graphFault ad 16 <;> simp [hf]

section
variable {s : State} {ad : Nat} (halign : ad % 8 = 0)
include halign

theorem State.graphPlace_beyond (h : ad < 0x200000)
    (hend : 0x200000 < ad + 16 ∨ s.core.hot = true ∧ 0x200000 < ad + s.graphBytes ad) :
    s.graphPlace ad = some (flt 0x07 0x200000) := by
  rw [State.graphPlace]
  by_cases h16 : 0x200000 < ad + 16
  · rw [s.core.graphFault_beyond halign h h16, Option.some_or]
  · obtain ⟨hhot, hlong⟩ := hend.resolve_left h16
    rw [s.core.graphFault_none halign (by decide) (by omega) (.inl hhot), s.core.graphFault_beyond halign h hlong, Option.none_or]

theorem State.graphPlace_shade (hend : ad + 16 ≤ 0x200000) (hcold : s.core.hot = false) (hshade : 0x100000 ≤ ad) :
    s.graphPlace ad = some (flt 0x06 ad) := by
  rw [State.graphPlace, s.core.graphFault_lent halign hend (by omega) hcold (by omega), Nat.max_eq_left hshade, Option.some_or]

theorem State.graphPlace_across (h : ad < 0x100000) (hcold : s.core.hot = false) (hlong : 0x100000 < ad + s.graphBytes ad) :
    s.graphPlace ad = some (flt 0x06 0x100000) := by
  have hbytes : s.graphBytes ad ≤ 136 := by
    have : bits 63 60 (s.getLe ad 8) < 2 ^ 4 := Nat.mod_lt _ (by decide)
    rw [State.graphBytes]
    omega
  have hlent {n : Nat} (hn : n ≤ 136) (hlong : 0x100000 < ad + n) : s.core.graphFault ad n = some (flt 0x06 0x100000) := by
    rw [s.core.graphFault_lent halign (by omega) (by omega) hcold hlong, Nat.max_eq_right h.le]
  rw [State.graphPlace]
  by_cases h16 : 0x100000 < ad + 16
  · rw [hlent (by decide) h16, Option.some_or]
  · rw [s.core.graphFault_none halign (by decide) (by omega) (.inr (by omega)), hlent hbytes hlong, Option.none_or]

theorem State.graphPlace_none (hend : ad + s.graphBytes ad ≤ 0x200000)
    (hhot : s.core.hot = true ∨ ad + s.graphBytes ad ≤ 0x100000) : s.graphPlace ad = none := by
  have hbytes : 16 ≤ s.graphBytes ad := by
    rw [State.graphBytes]
    omega
  rw [State.graphPlace, s.core.graphFault_none halign (by decide) (by omega) (hhot.imp_right (by omega)),
    s.core.graphFault_none halign (by omega) hend hhot, Option.none_or]

end

theorem State.graphPlace_misplaced {s : State} {ad : Nat} (h : ad % 8 ≠ 0 ∨ 0x200000 ≤ ad) :
    s.graphPlace ad = some (flt 0x07 ad) := by
  rw [State.graphPlace, s.core.graphFault_misplaced h, Option.some_or]

/-- An unstarted command names the slot (R242). -/
def Core.slotNamed (k : Core) (n : BitVec 4) : Prop :=
  ∃ x ∈ k.cp.cmds, (x.kind = .copy ∨ x.kind = .cred) ∧ x.xf = 0x10 + n.toNat

theorem Core.slotNamed_iff (k : Core) (n : BitVec 4) : (k.cp.cmds.any fun x =>
    (decide (x.kind = .copy) || decide (x.kind = .cred)) && decide (x.xf = 0x10 + n.toNat)) = true ↔ k.slotNamed n := by
  simp [Core.slotNamed]

section
variable {c : Ctl} {s : State} (h : s.core.clear c) (n : BitVec 4) (a : BitVec 6)
include h

theorem execXcfg_waits (hn : s.core.slotNamed n) : execXcfg c n a s = .next s := by
  rw [execXcfg]
  exact issue_waits h rfl rfl ((s.core.slotNamed_iff n).mpr hn) _

variable (hn : ¬s.core.slotNamed n)
include hn

theorem execXcfg_faults {f : Flt} (hf : s.graphPlace (s.core.sreg a).toNat = some f) : execXcfg c n a s = s.faults .a f := by
  rw [execXcfg]
  exact issue_faults h rfl rfl (Bool.eq_false_iff.mpr (mt (s.core.slotNamed_iff n).mp hn))
    ((State.graphPlace_eq h.1 _).trans hf) _

theorem execXcfg_refuses (hf : s.graphPlace (s.core.sreg a).toNat = none) {j : Nat}
    (hj : graphBad (s.graphImage (s.core.sreg a).toNat) = some j) :
    execXcfg c n a s = s.faults .a (flt 0x0E ((s.core.sreg a).toNat + 8 * j)) := by
  rw [execXcfg]
  exact issue_lateFaults h rfl rfl (Bool.eq_false_iff.mpr (mt (s.core.slotNamed_iff n).mp hn))
    ((State.graphPlace_eq h.1 _).trans hf) rfl (congrArg (Option.map _) hj) _

/-- A good image is loaded into the slot. -/
theorem execXcfg_clear (hf : s.graphPlace (s.core.sreg a).toNat = none)
    (hgood : graphBad (s.graphImage (s.core.sreg a).toNat) = none) :
    execXcfg c n a s = s.goesWith (.of .a c s.core.sa.div []) fun y =>
      { y with cp := { y.cp with graph := vset y.cp.graph n.toNat (s.graphImage (s.core.sreg a).toNat) } } := by
  rw [execXcfg]
  exact issue_goesWith h rfl rfl (Bool.eq_false_iff.mpr (mt (s.core.slotNamed_iff n).mp hn))
    ((State.graphPlace_eq h.1 _).trans hf) rfl (congrArg (Option.map _) hgood)
    (Core.issued_congr rfl rfl rfl rfl (Nat.one_mul _) rfl rfl rfl rfl rfl) rfl

end

end Sys2Proof.Machine
end

section
/-! PROOFS. Which graph images R244 to R247 accept, and the first word of one that they refuse (09 R243 to R247). -/

namespace Sys2Proof.Machine

/-! ## Fields of the words of an image (R244, R245) -/

section
variable (w : W64)

theorem ghNN_eq : ghNN w = w.toNat / 2 ^ 60 := by rw [ghNN, bits_eq]; have := w.isLt; omega
theorem ghOut_eq : ghOut w = w.toNat / 2 ^ 56 % 16 := bits_eq 59 56 _
theorem ghRn_eq : ghRn w = w.toNat / 2 ^ 51 % 16 := bits_eq 54 51 _
theorem ghRv_iff : ghRv w = true ↔ w.toNat / 2 ^ 55 % 2 = 1 := by
  rw [ghRv, bit, Nat.testBit_eq_decide_div_mod_eq, decide_eq_true_eq]
theorem gnOp_eq : gnOp w = w.toNat / 2 ^ 58 := by rw [gnOp, bits_eq]; have := w.isLt; omega
theorem gnIn_zero : gnIn w 0 = w.toNat / 2 ^ 53 % 32 := bits_eq 57 53 _
theorem gnIn_one : gnIn w 1 = w.toNat / 2 ^ 48 % 32 := bits_eq 52 48 _
theorem gnIn_two : gnIn w 2 = w.toNat / 2 ^ 43 % 32 := bits_eq 47 43 _
theorem gnType_eq : gnType w = w.toNat / 2 ^ 40 % 8 := bits_eq 42 40 _
theorem gnAux_eq : gnAux w = w.toNat / 2 ^ 32 % 256 := bits_eq 39 32 _
theorem gnImm_eq : gnImm w = w.toNat % 2 ^ 32 := rfl
theorem gnOp_lt : gnOp w < 64 := Nat.mod_lt _ (by decide)
theorem gnAux_lt : gnAux w < 256 := Nat.mod_lt _ (by decide)

end

/-! ## Nodes that R246 and R247 accept -/

/-- The operators whose nodes are packed, and those whose nodes are lanes of elements. -/
def PackedOp (op : Nat) : Prop := op ∈ [20, 22, 24, 25]
def ElementOp (op : Nat) : Prop := op ≤ 26 ∧ ¬PackedOp op

/-- An input code that gives a lane at node j: an earlier node of elements, or one of the inputs 16 to 21. -/
def LaneCode (ops : Nat → Nat) (j code : Nat) : Prop := code < j ∧ ElementOp (ops code) ∨ 16 ≤ code ∧ code ≤ 21

/-- The inputs of node j, by its operator and those of the nodes before it. -/
def NodeInputs (ops : Nat → Nat) (j op in0 in1 in2 : Nat) : Prop :=
  if op ∈ [18, 21, 25] then j = 0 ∧ in0 = 16 ∧ in1 = 31 ∧ in2 = 31
  else if op = 24 then in0 < j ∧ ops in0 = 20 ∧ in1 = 31 ∧ in2 = 31
  else LaneCode ops j in0 ∧
    (if op = 23 then in1 < j ∧ PackedOp (ops in1) ∧ in2 = 31
     else if op ∈ [4, 11, 12] then (in1 = 31 ∨ LaneCode ops j in1) ∧ LaneCode ops j in2
     else if op ∈ [1, 2, 3, 5, 6, 13, 14, 15, 16, 17] then (in1 = 31 ∨ LaneCode ops j in1) ∧ in2 = 31
     else in1 = 31 ∧ in2 = 31)

/-- AUX and IMM of a node of an operator. -/
def NodeConsts (op aux imm in1 : Nat) : Prop :=
  if op = 9 then aux % 16 ≤ 10 ∧ aux / 16 % 8 ≤ 4 ∧ (aux / 16 % 8 = 4 ∨ imm = 0)
  else if op = 10 then aux = 0 ∧ imm < 0xFF00
  else if op = 12 then aux < 4
  else if op = 19 then 1 ≤ aux ∧ aux ≤ 3 ∧ imm = 0
  else if op = 20 then aux % 16 ≠ 0 ∧ aux / 32 % 4 ≠ 3 ∧ aux < 128
  else if op = 22 then 1 ≤ aux ∧ imm = 0
  else aux = 0 ∧ (imm = 0 ∨ op ∈ [1, 2, 3, 4, 5, 6, 11, 13, 14, 15, 16, 17] ∧ in1 = 31)

/-- TYPE of a node of an operator. -/
def NodeTypes (op type : Nat) : Prop :=
  type ≤ 2 ∧ (op ∈ [10, 19, 20, 22, 26] → type = 0) ∧ (op ∈ [13, 14, 15, 16, 17] → type ≠ 0) ∧ (op ∈ [7, 8] → type ≠ 2)

/-- Some node of the image reads the residual. -/
def ReadsResidual (ws : List W64) : Prop :=
  ∃ j < ws.length, gnIn (ws.getD j 0) 0 = 17 ∨ gnIn (ws.getD j 0) 1 = 17 ∨ gnIn (ws.getD j 0) 2 = 17

/-- A node whose operator, inputs, constants and type are as R246 and R247 want them; no node reads a packed source where
the residual is read. -/
def NodeGood (ws : List W64) (out j : Nat) : Prop :=
  let w := ws.getD j 0
  gnOp w ≤ 26 ∧ NodeInputs (fun i => gnOp (ws.getD i 0)) j (gnOp w) (gnIn w 0) (gnIn w 1) (gnIn w 2) ∧
    NodeConsts (gnOp w) (gnAux w) (gnImm w) (gnIn w 1) ∧ NodeTypes (gnOp w) (gnType w) ∧ (gnOp w = 26 → j = out) ∧
    (ReadsResidual ws → gnIn w 0 ≠ 21 ∧ gnIn w 1 ≠ 21 ∧ gnIn w 2 ≠ 21)

/-- The header of an image (R244). -/
def HeaderGood (h : W64) (ws : List W64) : Prop :=
  h.toNat % 2 ^ 51 = 0 ∧ ghOut h ≤ ghNN h ∧
    (if ghRv h = true then ghRn h ≤ ghNN h ∧ ElementOp (gnOp (ws.getD (ghRn h) 0)) else ghRn h = 0)

theorem elemOp_iff {op : Nat} : elemOp op = true ↔ ElementOp op := by
  simp only [elemOp, ElementOp, PackedOp, Bool.or_eq_true, decide_eq_true_eq, List.mem_cons, List.not_mem_nil, or_false]
  omega

theorem nodeConsts_iff (w : W64) : nodeConsts w = true ↔ NodeConsts (gnOp w) (gnAux w) (gnImm w) (gnIn w 1) := by
  have himm : ∀ op < 64, op ≠ 12 → ((opInputs op).2 = true ↔ op ∈ [1, 2, 3, 4, 5, 6, 11, 13, 14, 15, 16, 17]) := by decide
  have hlow : bits 3 0 (gnAux w) = gnAux w % 16 := rfl
  have hmid : bits 6 4 (gnAux w) = gnAux w / 16 % 8 := bits_eq 6 4 _
  have hsel : bits 6 5 (gnAux w) = gnAux w / 32 % 4 := bits_eq 6 5 _
  have htop : bits 7 7 (gnAux w) = 0 ↔ gnAux w < 128 := by
    rw [bits_eq]
    have := gnAux_lt w
    omega
  simp only [nodeConsts, hlow, hmid, hsel]
  unfold NodeConsts
  split
  · simp [and_assoc]
  split
  · simp
  split
  · simp
  · next h12 =>
    split
    · simp [and_assoc]
    split
    · simp [and_assoc, htop]
    split
    · simp
    · simp [himm _ (gnOp_lt w) h12, or_comm]

/-- An input position of a node takes a lane, or in IN1 of the multiply by a packed node such a node. -/
theorem inputOk_lane {ws : List W64} {j : Nat} (hj : j ≤ 15) (code : Nat) :
    inputOk ws j code false = true ↔ LaneCode (fun i => gnOp (ws.getD i 0)) j code := by
  rw [inputOk, LaneCode]
  by_cases hc : code < 16
  · simp [hc, elemOp_iff]
  · simp [hc, not_lt.mp hc, show ¬code < j by omega]

theorem inputOk_packed {ws : List W64} {j : Nat} (hj : j ≤ 15) (hops : ∀ i < j, gnOp (ws.getD i 0) ≤ 26) (code : Nat) :
    inputOk ws j code true = true ↔ code < j ∧ PackedOp (gnOp (ws.getD code 0)) := by
  rw [inputOk]
  split
  · rw [Bool.and_eq_true, decide_eq_true_eq, bne_iff_ne, ne_eq, elemOp_iff, ElementOp]
    refine and_congr_right fun hc => ?_
    rw [not_and_not_right]
    exact ⟨fun hp => hp (hops code hc), fun hp _ => hp⟩
  · simp
    omega

/-- How many inputs an operator takes, and whether IMM may stand in for the second (R246). -/
theorem opInputs_eq : ∀ op < 64, opInputs op = if op = 23 then (2, false) else if op ∈ [4, 11, 12] then (3, true)
    else if op ∈ [1, 2, 3, 5, 6, 13, 14, 15, 16, 17] then (2, true) else (1, false) := by decide

theorem sourceOp_iff {op : Nat} : sourceOp op = true ↔ op ∈ [18, 21, 25] := by simp [sourceOp, or_assoc]

/-- TYPE of a node as the model checks it. -/
theorem nodeTypes_iff (w : W64) : NodeTypes (gnOp w) (gnType w) ↔ gnType w ≤ 2 ∧ ¬(floatOp (gnOp w) = true ∧ gnType w ≠ 0) ∧
    ¬(intOp (gnOp w) = true ∧ gnType w = 0) ∧ ¬((gnOp w = 7 ∨ gnOp w = 8) ∧ gnType w = 2) := by
  have hfloat : ∀ op < 64, (floatOp op = true ↔ op ∈ [10, 19, 20, 22, 26]) := by decide
  have hint : ∀ op < 64, (intOp op = true ↔ op ∈ [13, 14, 15, 16, 17]) := by decide
  rw [hfloat _ (gnOp_lt w), hint _ (gnOp_lt w), NodeTypes, not_and, not_and, not_and, not_not, List.mem_pair]

/-- The inputs of a node as the model checks them. -/
theorem nodeInputs_iff {ws : List W64} {j op : Nat} (hj : j ≤ 15) (hops : ∀ i < j, gnOp (ws.getD i 0) ≤ 26) (hop : op < 64)
    (in0 in1 in2 : Nat) : NodeInputs (fun i => gnOp (ws.getD i 0)) j op in0 in1 in2 ↔
      (if sourceOp op = true then j = 0 ∧ in0 = 16
       else if op = 24 then in0 < j ∧ gnOp (ws.getD in0 0) = 20
       else inputOk ws j in0 false = true) ∧
      (if (opInputs op).1 < 2 then in1 = 31
       else ((opInputs op).2 = true ∧ in1 = 31) ∨ inputOk ws j in1 (decide (op = 23)) = true) ∧
      (if (opInputs op).1 < 3 then in2 = 31 else inputOk ws j in2 false = true) := by
  simp only [sourceOp_iff, inputOk_lane hj, opInputs_eq op hop]
  by_cases h23 : op = 23
  · subst h23
    simp [NodeInputs, inputOk_packed hj hops, and_assoc]
  simp only [decide_eq_false h23, inputOk_lane hj, NodeInputs, if_neg h23]
  by_cases hsource : op ∈ [18, 21, 25]
  · have hone : op ∉ [4, 11, 12] ∧ op ∉ [1, 2, 3, 5, 6, 13, 14, 15, 16, 17] := by
      revert hsource
      revert op
      decide
    simp only [if_pos hsource, if_neg hone.1, if_neg hone.2]
    simp [and_assoc]
  by_cases h24 : op = 24
  · subst h24
    simp [and_assoc]
  simp only [if_neg hsource, if_neg h24]
  split
  · simp
  split <;> simp

/-- One of the three inputs of a node is a code. -/
theorem anyInput_iff (w : W64) (code : Nat) : ((List.range 3).any fun i => decide (gnIn w i = code)) = true ↔
    gnIn w 0 = code ∨ gnIn w 1 = code ∨ gnIn w 2 = code := by
  simp [List.range_succ]

theorem readsResidual_iff (ws : List W64) :
    (ws.any fun w => (List.range 3).any fun i => decide (gnIn w i = 17)) = true ↔ ReadsResidual ws := by
  simp only [List.any_eq_true (l := ws), anyInput_iff, List.exists_mem_iff_getElem, ReadsResidual]
  refine exists_congr fun j => ⟨fun ⟨hj, hw⟩ => ⟨hj, ?_⟩, fun ⟨hj, hw⟩ => ⟨hj, ?_⟩⟩
  · rwa [List.getD_eq_getElem _ _ hj]
  · rwa [List.getD_eq_getElem _ _ hj] at hw

/-- The model refuses a node of an image. -/
def nodeRefused (h : W64) (ws : List W64) (j : Nat) : Bool :=
  !nodeOk (ghOut h) ws j || ((ws.any fun w => (List.range 3).any fun i => gnIn w i = 17) &&
    (List.range 3).any fun i => gnIn (ws.getD j 0) i = 21)

/-- A node that the model lets pass is one that R246 and R247 accept, where the nodes before it have operators. -/
theorem nodeRefused_eq_false_iff {h : W64} {ws : List W64} {j : Nat} (hj : j ≤ 15) (hops : ∀ i < j, gnOp (ws.getD i 0) ≤ 26) :
    nodeRefused h ws j = false ↔ NodeGood ws (ghOut h) j := by
  rw [NodeGood, nodeInputs_iff hj hops (gnOp_lt _), ← nodeConsts_iff, nodeTypes_iff, nodeRefused, Bool.or_eq_false_iff,
    Bool.not_eq_false', Bool.and_eq_false_imp, readsResidual_iff, ← Bool.not_eq_true (List.any _ _), anyInput_iff, not_or, not_or]
  simp only [nodeOk, Bool.and_eq_true, decide_eq_true_eq, Bool.not_eq_true', ← Bool.not_eq_true, Bool.or_eq_true,
    Bool.ite_eq_true_distrib]
  constructor
  · rintro ⟨⟨⟨⟨⟨⟨⟨⟨⟨⟨hop, htype⟩, hconsts⟩, hfloat⟩, hint⟩, hsign⟩, hin0⟩, hin1⟩, hin2⟩, hout⟩, hres⟩
    exact ⟨hop, ⟨hin0, hin1, hin2⟩, hconsts, ⟨htype, hfloat, hint, hsign⟩, imp_iff_not_or.mpr hout, hres⟩
  · rintro ⟨hop, ⟨hin0, hin1, hin2⟩, hconsts, ⟨htype, hfloat, hint, hsign⟩, hout, hres⟩
    exact ⟨⟨⟨⟨⟨⟨⟨⟨⟨⟨hop, htype⟩, hconsts⟩, hfloat⟩, hint⟩, hsign⟩, hin0⟩, hin1⟩, hin2⟩, imp_iff_not_or.mp hout⟩, hres⟩

/-! ## The first word that is refused (R247) -/

theorem ghNN_le (h : W64) : ghNN h ≤ 15 := Nat.le_of_lt_succ (Nat.mod_lt _ (by decide))

section
variable {h : W64} {ws : List W64}

theorem headerGood_iff : (decide (bits 50 0 h.toNat = 0) && decide (ghOut h ≤ ghNN h) &&
    (if ghRv h then decide (ghRn h ≤ ghNN h) && elemOp (gnOp (ws.getD (ghRn h) 0)) else decide (ghRn h = 0))) = true ↔
    HeaderGood h ws := by
  simp only [Bool.and_eq_true, decide_eq_true_eq, Bool.ite_eq_true_distrib, elemOp_iff, and_assoc]
  rfl

theorem graphBad_header (hbad : ¬HeaderGood h ws) : graphBad (h :: ws) = some 0 :=
  if_pos (by rw [Bool.not_eq_true', Bool.eq_false_iff]; exact mt headerGood_iff.mp hbad)

theorem graphBad_nodes (hgood : HeaderGood h ws) :
    graphBad (h :: ws) = ((List.range (ghNN h + 1)).find? (nodeRefused h ws)).map (· + 1) :=
  if_neg (by rw [Bool.not_eq_true', Bool.not_eq_false]; exact headerGood_iff.mpr hgood)

/-- The nodes below one are let pass together exactly where they are good: every check rests on the operators before it. -/
theorem nodes_pass_iff {k : Nat} (hk : k ≤ ghNN h + 1) :
    (∀ i < k, nodeRefused h ws i = false) ↔ ∀ i < k, NodeGood ws (ghOut h) i := by
  have hnn := ghNN_le h
  induction k with
  | zero => simp
  | succ k ih =>
    rw [Nat.forall_lt_succ_right, Nat.forall_lt_succ_right]
    refine (and_congr_left' (ih (Nat.le_of_succ_le hk))).trans (and_congr_right fun hall => ?_)
    exact nodeRefused_eq_false_iff (by omega) fun i hi => (hall i hi).1

theorem graphBad_eq_none_iff :
    graphBad (h :: ws) = none ↔ HeaderGood h ws ∧ ∀ j ≤ ghNN h, NodeGood ws (ghOut h) j := by
  by_cases hh : HeaderGood h ws
  · rw [graphBad_nodes hh, Option.map_eq_none_iff, List.find?_range_eq_none, and_iff_right hh]
    simp only [Bool.not_eq_true', ← Nat.lt_succ_iff]
    exact nodes_pass_iff le_rfl
  · simp [graphBad_header hh, hh]

theorem graphBad_eq_zero_iff : graphBad (h :: ws) = some 0 ↔ ¬HeaderGood h ws := by
  refine ⟨fun hbad hh => ?_, graphBad_header⟩
  rw [graphBad_nodes hh] at hbad
  simp at hbad

theorem graphBad_eq_succ_iff {j : Nat} (hj : j ≤ ghNN h) : graphBad (h :: ws) = some (j + 1) ↔
    HeaderGood h ws ∧ ¬NodeGood ws (ghOut h) j ∧ ∀ i < j, NodeGood ws (ghOut h) i := by
  by_cases hh : HeaderGood h ws
  · have hmap : graphBad (h :: ws) = some (j + 1) ↔ (List.range (ghNN h + 1)).find? (nodeRefused h ws) = some j := by
      simp [graphBad_nodes hh]
    simp only [hmap, List.find?_range_eq_some, Bool.not_eq_true', nodes_pass_iff (Nat.le_succ_of_le hj), and_iff_right hh]
    have hnn := ghNN_le h
    constructor
    · rintro ⟨href, _, hpass⟩
      rw [← nodeRefused_eq_false_iff (by omega) fun i hi => (hpass i hi).1, href]
      exact ⟨nofun, hpass⟩
    · rintro ⟨hbad, hpass⟩
      rw [← nodeRefused_eq_false_iff (by omega) fun i hi => (hpass i hi).1, Bool.not_eq_false] at hbad
      exact ⟨hbad, List.mem_range.mpr (by omega), hpass⟩
  · simp [graphBad_header hh, hh]

end

/-- What graph images are accepted, and the first word of one that is refused: the header, or a node. -/
theorem graphBad_spec (h : W64) (ws : List W64) :
    (graphBad (h :: ws) = none ↔ HeaderGood h ws ∧ ∀ j ≤ ghNN h, NodeGood ws (ghOut h) j) ∧
      (graphBad (h :: ws) = some 0 ↔ ¬HeaderGood h ws) ∧
      ∀ j ≤ ghNN h, graphBad (h :: ws) = some (j + 1) ↔
        HeaderGood h ws ∧ ¬NodeGood ws (ghOut h) j ∧ ∀ i < j, NodeGood ws (ghOut h) i :=
  ⟨graphBad_eq_none_iff, graphBad_eq_zero_iff, fun _ hj => graphBad_eq_succ_iff hj⟩

/-! ## The statement -/

/-- Settles O14: each word waits, faults or issues by its own check; the first bad word of a graph image is the one that the
header's rule or a node's rule refuses. -/
theorem commandGroupsAndGraphs : Obligations.CommandGroupsAndGraphs := by
  unfold Obligations.CommandGroupsAndGraphs
  refine ⟨fun c op w64 acq hd tq a b cx s h => ?_, fun c d n s h => ?_, fun c n a s h => ?_⟩
  · dsimp only
    rw [← Core.postWaits_eq_false_iff, ← Core.dqFull_aq_eq_false_iff]
    refine ⟨fun hw => execCatom_waits h op w64 acq hd a b cx ?_, fun hready hroom hbad => ?_, fun hready hroom hgood => ?_,
      fun hw => execCclose_waits h tq (Bool.not_eq_false _ ▸ hw), execCclose_clear h tq⟩
    · rwa [← Bool.or_eq_false_iff, Bool.not_eq_false] at hw
    · exact execCatom_faults h op w64 acq hd a b cx (Bool.or_eq_false_iff.mpr ⟨hready, hroom⟩) hbad
    · exact execCatom_clear h op w64 acq hd a b cx (Bool.or_eq_false_iff.mpr ⟨hready, hroom⟩) hgood
  · exact ⟨fun hu hn => execCwait_clear h hn hu, execCwait_waits h, fun hn x rest hu => execCwait_observes h hn hu,
      countWord_clear h d _, countWord_clear h d _⟩
  · have hcount : bits 63 60 (s.getLe (s.core.sreg a).toNat 8) = s.getLe (s.core.sreg a).toNat 8 / 2 ^ 60 % 16 :=
      bits_eq 63 60 _
    dsimp only
    rw [← hcount]
    have faults {f : Flt} (hn : ¬s.core.slotNamed n) := execXcfg_faults h n a hn (f := f)
    refine ⟨execXcfg_waits h n a, fun hn hplace => faults hn (State.graphPlace_misplaced hplace),
      fun hn h8 hlt hend => faults hn (State.graphPlace_beyond h8 hlt hend),
      fun hn h8 hend hcold hshade => faults hn (State.graphPlace_shade h8 hend hcold hshade),
      fun hn h8 hlt hcold hlong => faults hn (State.graphPlace_across h8 hlt hcold hlong),
      fun hn ⟨h8, hend, hhot⟩ j hj => execXcfg_refuses h n a hn (State.graphPlace_none h8 hend hhot) hj,
      fun hn ⟨h8, hend, hhot⟩ hgood => execXcfg_clear h n a hn (State.graphPlace_none h8 hend hhot) hgood, fun g => ?_⟩
    cases g with
    | nil => exact fun hlen => absurd hlen (by simp)
    | cons w ws =>
      intro _
      have hbad := graphBad_spec w ws
      simp only [HeaderGood, NodeGood, NodeInputs, NodeConsts, NodeTypes, LaneCode, ElementOp, PackedOp, ReadsResidual, ghNN_eq,
        ghOut_eq, ghRn_eq, ghRv_iff, gnOp_eq, gnIn_zero, gnIn_one, gnIn_two, gnType_eq, gnAux_eq, gnImm_eq] at hbad
      simpa only [List.getD_cons_zero, List.getD_cons_succ, List.length_cons, Nat.add_lt_add_iff_right] using hbad

end Sys2Proof.Machine
end

section
/-! PROOFS. The whole-register commands and the control words of the M stream (05 R128 to R130). -/

namespace Sys2Proof.Machine

/-! ## Ticks for lent registers (01 R17; 07 R166) -/

theorem namesLent_one (n : BitVec 3) : namesLent [n] = if 4 ≤ n.toNat then 4 else 0 := by
  simp only [namesLent, List.any_cons, List.any_nil, Bool.or_false, decide_eq_true_eq]

theorem namesLent_two (n k : BitVec 3) : namesLent [n, k] = if 4 ≤ max n.toNat k.toNat then 4 else 0 := by
  simp only [namesLent, List.any_cons, List.any_nil, Bool.or_false, Bool.or_eq_true, decide_eq_true_eq, le_max_iff]

/-! ## Whole-register commands (R128) -/

section
variable {c : Ctl} {s : State} (h : s.core.clear c)
include h

theorem execAclr_clear {a : BitVec 3} (ha : a.toNat < 4 ∨ s.core.hot = true) :
    execAclr c a s = s.goes (.of .m c (latHalf s.core.sm.div (16 + namesLent [a]))
      [.write (accAddr a) 128 256 (List.replicate 0x8000 0)]) :=
  issue_goes h rfl rfl rfl (Core.lentReg_usable ha _) rfl rfl rfl

theorem execTzero_clear {t : BitVec 3} (ht : t.toNat < 4 ∨ s.core.hot = true) :
    execTzero c t s = s.goes (.of .m c (latHalf s.core.sm.div (16 + namesLent [t]))
      [.write (tileAddr t) 1 0 (List.replicate 0x8200 0)]) :=
  issue_goes h rfl rfl rfl (Core.lentReg_usable ht _) rfl rfl rfl

/-- An accumulator is copied as it stands at issue. -/
theorem execAmov_clear {a b : BitVec 3} (ha : a.toNat < 4 ∨ s.core.hot = true) (hb : b.toNat < 4 ∨ s.core.hot = true) :
    execAmov c a b s = s.goes (.of .m c (latHalf s.core.sm.div (16 + namesLent [a, b]))
      [.write (accAddr a) 128 256 (s.getLs (accAddr b) 0x8000)]) := by
  unfold execAmov
  simp only [Core.lentReg_usable ha, Core.lentReg_usable hb, Option.none_or, Option.isSome_none, Bool.false_eq_true, if_false]
  exact issue_goes h rfl rfl rfl rfl rfl rfl rfl

/-! ## Control words (R129, R130) -/

/-- A control word whose one result is a register of the M stream. -/
theorem mWord_clear (m : BitVec 3) (regs : Ranges) (x : W32) :
    mWord c m regs x s = s.goes (.of .m c (latHalf s.core.sm.div 2) [.mreg m.toNat x]) :=
  issue_goes h rfl rfl rfl rfl rfl rfl rfl

/-- MPOP takes the oldest entry of dm. -/
theorem execMpop_clear (m : BitVec 3) {e : QEnt} {rest : List QEnt} (hq : s.core.dq .dm = e :: rest) :
    execMpop c m s = s.goesWith (.of .m c (latHalf s.core.sm.div 2) [.mreg m.toNat (e.val.setWidth 32)]) (·.dqDrop .dm 1) := by
  unfold execMpop
  simp only [Core.headVal, hq, List.headD_cons, List.isEmpty_cons]
  exact issue_goesWith h rfl rfl rfl rfl rfl rfl rfl rfl

theorem execMpop_waits (m : BitVec 3) (hq : s.core.dq .dm = []) : execMpop c m s = .next s := by
  unfold execMpop
  exact issue_waits h rfl rfl (List.isEmpty_iff.mpr hq) _

/-- MLOOP branches by the value that it writes: it ends where the register held one. -/
theorem execMloop_clear (m : BitVec 3) (off : BitVec 24) :
    execMloop c m off s = s.goes { Plan.of .m c (latHalf s.core.sm.div 2) [.mreg m.toNat (s.core.mreg m - 1)] with
      next := if s.core.mreg m ≠ 1 then .rel off else .seq } := by
  unfold execMloop
  simp only [branchIf, bne_iff_ne, ne_eq, sub_eq_zero]
  exact issue_goes h rfl rfl rfl rfl rfl rfl rfl

/-- MBQ takes the oldest entry of bm. -/
theorem execMbq_clear (off : BitVec 24) {e : QEnt} {rest : List QEnt} (hq : s.core.dq .bm = e :: rest) :
    execMbq c off s = s.goesWith { Plan.of .m c (latHalf s.core.sm.div 2) [] with
      next := if e.val ≠ 0 then .rel off else .seq } (·.dqDrop .bm 1) := by
  unfold execMbq
  simp only [Core.headVal, hq, List.headD_cons, List.isEmpty_cons, branchIf, bne_iff_ne]
  exact issue_goesWith h rfl rfl rfl rfl rfl rfl rfl rfl

theorem execMbq_waits (off : BitVec 24) (hq : s.core.dq .bm = []) : execMbq c off s = .next s := by
  unfold execMbq
  exact issue_waits h rfl rfl (List.isEmpty_iff.mpr hq) _

theorem execMjmp_clear (off : BitVec 24) :
    execMjmp c off s = s.goes { Plan.of .m c (latHalf s.core.sm.div 2) [] with next := .rel off } :=
  issue_goes h rfl rfl rfl rfl rfl rfl rfl

theorem execMsatc_clear (m : BitVec 3) :
    execMsatc c m s = s.goes (.of .m c (latHalf s.core.sm.div 2) [.msatc (0x301C00 + 4 * m.toNat)]) :=
  issue_goes h rfl rfl rfl rfl rfl rfl rfl
end

/-! ## The statement -/

/-- Settles O24: each word by its own rule under `Core.clear`. -/
theorem matrixRegisterAndControlWords : Obligations.MatrixRegisterAndControlWords := by
  unfold Obligations.MatrixRegisterAndControlWords
  refine ⟨fun c a b s h hu => ?_, fun c m imm off s h => ?_⟩
  · have ha : a.toNat < 4 ∨ s.core.hot = true := hu.imp_left And.left
    have hb : b.toNat < 4 ∨ s.core.hot = true := hu.imp_left And.right
    dsimp only
    simp only [← namesLent_one, ← namesLent_two]
    exact ⟨execAclr_clear h ha, execTzero_clear h ha, execAmov_clear h ha hb⟩
  · exact ⟨mWord_clear h m _ imm, mWord_clear h m _ _, fun e rest hq => execMpop_clear h m hq, execMpop_waits h m,
      execMloop_clear h m off, fun e rest hq => execMbq_clear h off hq, execMbq_waits h off, execMjmp_clear h off,
      execMsatc_clear h m⟩

end Sys2Proof.Machine
end

section
/-! PROOFS. RSUM, CSUM and ZPC at their issue (05 R117, R124, R125). -/

namespace Sys2Proof.Machine

/-! ## Commands with and without a region (R117) -/

theorem region_none {x : Nat} (h : fmtM x = 0 ∨ fmtN x = 0) : (fmtM x ≠ 0 && fmtN x ≠ 0) = false := by
  rcases h with h | h <;> simp [h]

theorem region_some {x : Nat} (hm : fmtM x ≠ 0) (hn : fmtN x ≠ 0) : (fmtM x ≠ 0 && fmtN x ≠ 0) = true := by
  simp [hm, hn]

/-! ## Row sums (R124) -/

/-- The exact sum of a row is the sum of the row's codes. -/
theorem rowSum_eq (f : Nat) (sg : Bool) (k : Nat) (row : List Byte) :
    rowSum f sg k row = ((List.range k).map fun i => elemInt (elem f sg row i)).sum := by
  rw [rowSum, foldl_add_eq_sum, Int.zero_add]

theorem isIntF_iff {f : Nat} : isIntF f = true ↔ f = 4 ∨ f = 5 := by
  simp only [isIntF, Bool.or_eq_true, decide_eq_true_eq]

/-- The sum of row i of a tile, as RSUM and CSUM bring it to the register (R124). -/
def tileRowSum (s : State) (t : BitVec 3) (x f : Nat) (sg : Bool) (i : Nat) : W32 :=
  BitVec.ofInt 32 (rowSum f sg (fmtK x) ([0, 0, 0, 0] ++ s.getLs (tileAddr t + 256 * i) 256))

/-- RSUM or CSUM of n rows in flight (R124; 01 R17, 07 R166). -/
def sumFlight (c : Ctl) (w : BitVec 2) (t : BitVec 3) (f : Nat) (sg : Bool) (n : Nat) (e : QEnt) (s : State) : Plan :=
  { Plan.of .m c (latHalf s.core.sm.div (24 + ceilDiv n 2 + namesLent [t])) (if n = 0 then [] else
      [.sum (wAddr w) e.val ((List.range n).map (tileRowSum s t e.val.toNat f sg))]) with fmt := e.val }

/-! ## Corrections (R125) -/

/-- A zero point by its sign flag (R125). -/
def zeroPoint (sg : Bool) (z : Nat) : Int := if sg then (BitVec.ofNat 8 z).toInt else z

/-- The corrections of the region, row by row (R125). -/
def zpcCorrections (k : Core) (x : Nat) (w v : BitVec 2) : List W64 :=
  let za := zeroPoint (fmtAS x) (fmtZA x)
  let zb := zeroPoint (fmtBS x) (fmtZB x)
  let wv (r : BitVec 2) (i : Nat) : Int := (vget (vget k.r.w r.toNat (.replicate 128 0)) i 0).toInt
  (List.range (fmtM x)).flatMap fun i => (List.range (fmtN x)).map fun j =>
    BitVec.ofInt 64 (-zb * wv w i - za * wv v j + (fmtK x : Int) * za * zb)

/-- ZPC in flight (R125; 01 R17, 07 R166). -/
def zpcFlight (c : Ctl) (a : BitVec 3) (w v : BitVec 2) (e : QEnt) (s : State) : Plan :=
  let x := e.val.toNat
  { Plan.of .m c (latHalf s.core.sm.div (20 + namesLent [a])) (if fmtM x = 0 ∨ fmtN x = 0 then [] else
      [.zpc (accAddr a) e.val (zpcCorrections s.core x w v)]) with fmt := e.val }

/-! ## Their issue (R117) -/

section
variable {c : Ctl} {s : State} {e : QEnt} {rest : List QEnt} (h : s.core.clear c)
  (hq : s.core.dq .fq = e :: rest) (hok : fmtOk e.val.toNat = true)
include h hq hok

/-- Over a tile in reach whose role has an integer format, the sums issue. -/
theorem sumWord_clear {t : BitVec 3} (ht : t.toNat < 4 ∨ s.core.hot = true) (w : BitVec 2) {role : Nat → Nat}
    (hint : isIntF (role e.val.toNat) = true) (sign : Nat → Bool) (rowsOf : Nat → Nat) :
    sumWord c w t role sign rowsOf s =
      s.goesWith (sumFlight c w t (role e.val.toNat) (sign e.val.toNat) (rowsOf e.val.toNat) e s) (·.dqDrop .fq 1) := by
  unfold sumWord
  simp only [Core.fmtWord_cons hq, Core.lentReg_usable ht, hint, Core.fmtFault_good hq hok, Option.isSome_none,
    Bool.false_eq_true, if_false, BitVec.ofNat_toNat, BitVec.setWidth_eq]
  exact issue_goesWith (f := (·.dqDrop .fq 1)) h rfl rfl rfl rfl rfl rfl rfl rfl

/-- Over an accumulator in reach with an integer accumulator format, ZPC issues. -/
theorem execZpc_clear {a : BitVec 3} (ha : a.toNat < 4 ∨ s.core.hot = true) (w v : BitVec 2)
    (hcf : fmtCF e.val.toNat ≠ 0) :
    execZpc c a w v s = s.goesWith (zpcFlight c a w v e s) (·.dqDrop .fq 1) := by
  unfold execZpc
  simp only [Core.fmtWord_cons hq, Core.lentReg_usable ha, decide_eq_true hcf, Core.fmtFault_good hq hok,
    Option.isNone_none, Bool.true_and, BitVec.ofNat_toNat, BitVec.setWidth_eq]
  refine issue_goesWith (f := (·.dqDrop .fq 1)) h rfl rfl rfl rfl rfl rfl
    (Core.issued_congr rfl rfl rfl rfl rfl ?_ rfl rfl rfl rfl) rfl
  by_cases hmn : fmtM e.val.toNat = 0 ∨ fmtN e.val.toNat = 0
  · simp only [region_none hmn, zpcFlight, Plan.of, if_pos hmn, Bool.false_eq_true, if_false]
  · obtain ⟨hm, hn⟩ := not_or.mp hmn
    simp only [region_some hm hn, zpcFlight, Plan.of, if_neg hmn, if_true, zpcCorrections, zeroPoint,
      sext_eq_toInt (by decide : 0 < 8)]
end

end Sys2Proof.Machine
end

section
/-! PROOFS. The conversion of a drained element (05 R126, R127). -/

namespace Sys2Proof.Machine

/-! ## Requantisation (R127) -/

/-- The exact product with the multiplier, shifted right with rounding. -/
def requantShift (v mult : Int) (sh : Nat) : Int :=
  if 0 < sh then (v * mult + 2 ^ (sh - 1)) / 2 ^ sh else v * mult

/-- A value clamped to a range, as a byte, and whether it was clamped. -/
def clampByte (q lo hi : Int) : Nat × Bool := ((max lo (min hi q) % 256).toNat, decide (q < lo ∨ hi < q))

/-- Requantisation clamps the shifted product plus the zero point to the range of its 8 bits. -/
theorem requant_eq (v mult : Int) (sh : Nat) (zp : Int) (signed : Bool) :
    let r := requant v mult sh zp signed
    (wrapN 8 r.1, r.2) =
      clampByte (requantShift v mult sh + zp) (if signed then -128 else 0) (if signed then 127 else 255) := by
  unfold requant clampByte wrapN requantShift
  dsimp only
  generalize (if 0 < sh then (v * mult + 2 ^ (sh - 1)) / 2 ^ sh else v * mult) + zp = q
  have clamp (lo hi : Int) (hle : lo ≤ hi) : (if q < lo then lo else if hi < q then hi else q) = max lo (min hi q) := by
    split
    · omega
    · split <;> omega
  have clamped (lo hi : Int) (hle : lo ≤ hi) : max lo (min hi q) ≠ q ↔ q < lo ∨ hi < q := by omega
  cases signed
  · simp only [Bool.false_eq_true, if_false, clamp 0 255 (by decide), clamped 0 255 (by decide)]
    rfl
  · simp only [if_true, clamp (-128) 127 (by decide), clamped (-128) 127 (by decide)]
    rfl

/-! ## Elements by their output format (R126) -/

section
variable {x : Nat} (v : W32) (ent : List Byte) (u : Nat)

theorem drainElem_int32 (h : fmtDF x = 3) : drainElem x v ent u = (v.toNat, false) := by
  simp only [drainElem, h]

theorem drainElem_fp32_bits (h : fmtDF x = 0) (hcf : fmtCF x = 0) : drainElem x v ent u = (v.toNat, false) := by
  simp only [drainElem, h, hcf, if_true]

theorem drainElem_fp32_int {rm : Rm} (hrm : Rm.ofShort (fmtRM x) = some rm) (h : fmtDF x = 0) (hcf : fmtCF x ≠ 0) :
    drainElem x v ent u = ((cvtF (X.ofInt v.toInt) .fp32 rm false u).1, false) := by
  simp only [drainElem, h, if_neg hcf, hrm, Option.getD_some]

/-- A narrowing element tells where the saturating conversion and the other differ. -/
def narrowed (x : Nat) (v : W32) (u : Nat) (rm : Rm) (f : FFmt) : Nat × Bool :=
  ((cvtF (dec32 v.toNat) f rm (fmtDS x) u).1,
    fmtDS x && (cvtF (dec32 v.toNat) f rm true u).1 ≠ (cvtF (dec32 v.toNat) f rm false u).1)

/-- With DS the result itself is the saturating one; without, nothing is told. -/
theorem narrowed_eq (x : Nat) (v : W32) (u : Nat) (rm : Rm) (f : FFmt) : narrowed x v u rm f =
    let r := (cvtF (dec32 v.toNat) f rm (fmtDS x) u).1
    (r, fmtDS x && r ≠ (cvtF (dec32 v.toNat) f rm false u).1) := by
  unfold narrowed
  cases fmtDS x <;> rfl

theorem drainElem_bf16 {rm : Rm} (hrm : Rm.ofShort (fmtRM x) = some rm) (h : fmtDF x = 1) :
    drainElem x v ent u = narrowed x v u rm .bf16 := by
  simp only [drainElem, h, hrm, Option.getD_some, narrowed_eq]

theorem drainElem_fp16 {rm : Rm} (hrm : Rm.ofShort (fmtRM x) = some rm) (h : fmtDF x = 2) :
    drainElem x v ent u = narrowed x v u rm .fp16 := by
  simp only [drainElem, h, hrm, Option.getD_some, narrowed_eq]

/-- The shifted product of an element with the multiplier of its entry. -/
def entryShift (v : W32) (ent : List Byte) : Int :=
  requantShift v.toInt (BitVec.ofNat 32 (leNat (ent.take 4))).toInt (ent.getD 4 0).toNat

theorem drainElem_int8 (h : fmtDF x = 4) :
    drainElem x v ent u = clampByte (entryShift v ent + (ent.getD 5 0).toInt) (-128) 127 := by
  simp only [drainElem, h, decide_true, if_true, requant_eq, sext_eq_toInt (by decide : 0 < 32),
    sext_eq_toInt (by decide : 0 < 8), BitVec.ofNat_toNat, BitVec.setWidth_eq]
  rfl

theorem drainElem_uint8 (h : fmtDF x = 5) :
    drainElem x v ent u = clampByte (entryShift v ent + ((ent.getD 5 0).toNat : Int)) 0 255 := by
  simp only [drainElem, h, Nat.reduceEqDiff, decide_false, Bool.false_eq_true, if_false, requant_eq,
    sext_eq_toInt (by decide : 0 < 32)]
  rfl
end

end Sys2Proof.Machine
end

section
/-! PROOFS. DRAIN at its issue, and the statement on sums, corrections and drains (05 R117, R126, R127). -/

namespace Sys2Proof.Machine

/-! ## What a DRAIN reads and writes (R126, R127) -/

theorem drainSize_eq (df : Nat) :
    drainSize df = if df = 0 ∨ df = 3 then 4 else if df = 1 ∨ df = 2 then 2 else 1 := by
  simp [drainSize]

/-- A format of the requantisation, which reads a table. -/
abbrev requantises (x : Nat) : Prop := fmtDF x = 4 ∨ fmtDF x = 5

/-- The table entry of a column; none is read for the other formats. -/
def drainEntry (s : State) (m2 : BitVec 3) (x j : Nat) : List Byte :=
  if requantises x then s.getLs ((s.core.mreg m2).toNat + 8 * j) 8 else []

/-- The drained elements of the region, row by row. -/
def drainCells (s : State) (a m2 : BitVec 3) (x : Nat) : List (Nat × Bool) :=
  (List.range (fmtM x)).flatMap fun i => (List.range (fmtN x)).map fun j =>
    drainElem x (BitVec.ofNat 32 (s.getLe (accAddr a + 4 * (64 * i + j)) 4)) (drainEntry s m2 x j)
      (gen (s.core.csr .seed) (s.core.sid .m) (BitVec.ofNat 32 i) (BitVec.ofNat 32 j)).toNat

/-- An entry whose shift is above 63 or whose reserved bytes are not zero (R127). -/
abbrev badEntry (ent : List Byte) : Prop := 63 < (ent.getD 4 0).toNat ∨ ent.getD 6 0 ≠ 0 ∨ ent.getD 7 0 ≠ 0

/-- The table in memory, one piece where there is one. -/
def drainTable (s : State) (m2 : BitVec 3) (x : Nat) : Ranges :=
  if requantises x then [((s.core.mreg m2).toNat, 8 * fmtN x)] else []

/-- The rows that a DRAIN writes; they lie where those of a tile load with the same fields would (R121, R126). -/
def drainRows (s : State) (m : BitVec 3) (pitch : BitVec 20) (x : Nat) : Ranges :=
  rowPieces (loadSrc s m pitch) (fmtN x * drainSize (fmtDF x)) (fmtM x)

/-- The bounds of a DRAIN, the table before the rows (R127). -/
def drainFault (s : State) (m m2 : BitVec 3) (pitch : BitVec 20) (x : Nat) : Option Flt :=
  (((shadeBounds (drainTable s m2 x) 1).or (shadeBounds (drainRows s m pitch x) (drainSize (fmtDF x)))).or
    (s.core.shadeLent (drainTable s m2 x))).or (s.core.shadeLent (drainRows s m pitch x))

/-- The table ends within the shade windows, and within the scratchpad outside hot class. -/
abbrev tableFits (s : State) (m2 : BitVec 3) (x : Nat) : Prop :=
  requantises x → (s.core.mreg m2).toNat + 8 * fmtN x ≤ 0x200000 ∧
    (s.core.hot = true ∨ (s.core.mreg m2).toNat + 8 * fmtN x ≤ 0x100000)

/-- Each row is aligned and ends within the shade windows, and within the scratchpad outside hot class. -/
abbrev rowsFit (s : State) (m : BitVec 3) (pitch : BitVec 20) (x : Nat) : Prop :=
  ∀ i < fmtM x, loadSrc s m pitch i % drainSize (fmtDF x) = 0 ∧
    loadSrc s m pitch i + fmtN x * drainSize (fmtDF x) ≤ 0x200000 ∧
    (s.core.hot = true ∨ loadSrc s m pitch i + fmtN x * drainSize (fmtDF x) ≤ 0x100000)

/-- The table or a row meets a shade window. -/
abbrev drainLent (s : State) (m m2 : BitVec 3) (pitch : BitVec 20) (x : Nat) : Prop :=
  (requantises x ∧ 0x100000 < (s.core.mreg m2).toNat + 8 * fmtN x) ∨
    ∃ i < fmtM x, 0x100000 < loadSrc s m pitch i + fmtN x * drainSize (fmtDF x)

/-- The table is a piece like the rows of a command, none or one of them. -/
theorem drainTable_eq (s : State) (m2 : BitVec 3) (x : Nat) : drainTable s m2 x =
    rowPieces (fun _ => (s.core.mreg m2).toNat) (8 * fmtN x) (if requantises x then 1 else 0) := by
  unfold drainTable
  split <;> rfl

theorem drainSize_pos (df : Nat) : 0 < drainSize df := by
  rw [drainSize_eq]
  split
  · decide
  · split <;> decide

section
variable {s : State} {m m2 : BitVec 3} {pitch : BitVec 20} {x : Nat} (htab : tableFits s m2 x) (hrows : rowsFit s m pitch x)
include htab hrows

/-- A table and rows in place and in reach raise nothing (R117 step 4). -/
theorem drainFault_none : drainFault s m m2 pitch x = none := by
  have hquant {j : Nat} (hj : j < if requantises x then 1 else 0) : requantises x := by
    by_contra hx
    simp [hx] at hj
  rw [drainFault, drainTable_eq, shadeBounds_fits fun j hj => ⟨Nat.mod_one _, Or.inr (htab (hquant hj)).1⟩,
    Core.shadeLent_none fun j hj => Or.inr (htab (hquant hj)).2, drainRows,
    shadeBounds_fits fun j hj => ⟨(hrows j hj).1, Or.inr (hrows j hj).2.1⟩,
    Core.shadeLent_none fun j hj => Or.inr (hrows j hj).2.2]
  rfl

/-- Pieces in place meet a shade window where they end beyond the scratchpad. -/
theorem anyShade_drain (hn : fmtN x ≠ 0) :
    anyShade (drainTable s m2 x ++ drainRows s m pitch x) = true ↔ drainLent s m m2 pitch x := by
  have htable : anyShade (drainTable s m2 x) = true ↔ requantises x ∧ 0x100000 < (s.core.mreg m2).toNat + 8 * fmtN x := by
    by_cases hx : requantises x
    · rw [drainTable_eq, if_pos hx, anyShade_rows fun j _ => Or.inr (htab hx).1]
      simp [hx, hn]
    · simp [drainTable, hx, anyShade]
  have hrow : anyShade (drainRows s m pitch x) = true ↔
      ∃ i < fmtM x, 0x100000 < loadSrc s m pitch i + fmtN x * drainSize (fmtDF x) := by
    rw [drainRows, anyShade_rows fun j hj => Or.inr (hrows j hj).2.1]
    simp [hn, (drainSize_pos (fmtDF x)).ne']
  rw [anyShade, List.any_append, Bool.or_eq_true, ← anyShade, ← anyShade, htable, hrow]
end

/-- The zeroing of the region on the tick after issue, with ZF (R126). -/
def drainZeroes (a : BitVec 3) (e : QEnt) (s : State) : List Land :=
  if fmtZF e.val.toNat then
    [{ st := .m, rem := 1, age := 0, sq := 0, sn := 0, fp := 0, sat := 0, sup := s.core.inSup, fmt := e.val,
       acts := [.azero (accAddr a) e.val] }]
  else []

/-- A DRAIN in flight (R126; 01 R17, 07 R166). -/
def drainFlight (c : Ctl) (a m m2 : BitVec 3) (pitch : BitVec 20) (e : QEnt) (s : State) : Plan :=
  let x := e.val.toNat
  { Plan.of .m c (latHalf s.core.sm.div (32 + ceilDiv (fmtM x) 2 +
        if drainLent s m m2 pitch x then 4 else if 4 ≤ a.toNat then 4 else 0))
      [.write (loadSrc s m pitch 0) (fmtM x) pitch.toNat
        ((drainCells s a m2 x).flatMap fun p => leBytes (drainSize (fmtDF x)) p.1)] with
    sat := if (drainCells s a m2 x).any (·.2) then 2 else 0, fmt := e.val }

/-! ## The issue of a DRAIN (R117, R126) -/

theorem shadeBounds_nil (al : Nat) : shadeBounds [] al = none := rfl

theorem Core.shadeLent_nil (k : Core) : k.shadeLent [] = none := ite_self _

section
variable {c : Ctl} {s : State} {a m m2 : BitVec 3} {pitch : BitVec 20} {e : QEnt} {rest : List QEnt}
  (ha : a.toNat < 4 ∨ s.core.hot = true) (hq : s.core.dq .fq = e :: rest) (hok : fmtOk e.val.toNat = true)
include ha hq hok

/-- With M or N = 0 a DRAIN pops its format word and nothing else (R117). -/
theorem execDrain_empty (h : s.core.clear c) (hmn : fmtM e.val.toNat = 0 ∨ fmtN e.val.toNat = 0) :
    execDrain c a m m2 pitch s = s.goesWith
      { Plan.of .m c (latHalf s.core.sm.div (32 + namesLent [a])) [] with fmt := e.val } (·.dqDrop .fq 1) := by
  unfold execDrain
  simp only [Core.fmtWord_cons hq, Core.lentReg_usable ha, Core.fmtFault_good hq hok, Option.isNone_none, Bool.true_and,
    region_none hmn, Bool.false_and, Bool.and_false, Bool.false_eq_true, if_false, ite_self, List.range_zero, List.map_nil, List.flatMap_nil,
    shadeBounds_nil, Core.shadeLent_nil, Option.or_none, BitVec.ofNat_toNat, BitVec.setWidth_eq]
  refine issue_goesWith (f := fun k => { k.dqDrop .fq 1 with land := k.land ++ [] }) h rfl rfl rfl rfl rfl rfl
    (Core.issued_congr rfl rfl rfl rfl ?_ rfl rfl rfl rfl rfl) ?_
  · exact congrArg (fun k => latHalf s.core.sm.div (32 + k)) (Nat.zero_max _)
  · simp only [List.append_nil]
    rfl

section
variable (hm : fmtM e.val.toNat ≠ 0) (hn : fmtN e.val.toNat ≠ 0) (htab : tableFits s m2 e.val.toNat)
  (hrows : rowsFit s m pitch e.val.toNat)
include hm hn htab hrows

/-- A DRAIN of a region issues, with the table and the rows in place, unless an entry of its table is bad. -/
theorem execDrain_good : ∃ p : Plan,
    execDrain c a m m2 pitch s = issue p s (fun y => y.onCore fun k =>
      { k.dqDrop .fq 1 with land := k.land ++ drainZeroes a e s }) ∧
    p.st = .m ∧ p.ctl = c ∧ p.decode = none ∧ p.preWait = none ∧ p.wait = false ∧ p.late = none ∧ p.fault = none ∧
    p.mid = (if requantises e.val.toNat ∧ ∃ j < fmtN e.val.toNat, badEntry (drainEntry s m2 e.val.toNat j) then
      some (flt 0x04) else none) ∧
    s.core.issued p = s.core.issued (drainFlight c a m m2 pitch e s) := by
  have hf := drainFault_none htab hrows
  have hshade := anyShade_drain htab hrows hn
  simp only [drainFault, drainTable, drainRows, rowPieces, loadSrc] at hf
  simp only [drainTable, drainRows, rowPieces, loadSrc] at hshade
  unfold execDrain
  simp only [Core.fmtWord_cons hq, Core.lentReg_usable ha, Core.fmtFault_good hq hok, Option.isNone_none, Bool.true_and,
    region_some hm hn, Bool.and_true, if_true, Option.none_or, BitVec.ofNat_toNat, BitVec.setWidth_eq, Bool.or_eq_true, Bool.and_eq_true,
    decide_eq_true_eq, hf, hshade, namesLent_one]
  refine ⟨_, rfl, rfl, rfl, rfl, rfl, rfl, rfl, rfl, if_congr ?_ rfl rfl, ?_⟩
  · simp only [List.any_eq_true, List.mem_range, Bool.or_eq_true, decide_eq_true_eq]
    exact and_congr_right fun hx => by simp only [drainEntry, if_pos hx, badEntry, or_assoc]
  · refine Core.issued_congr rfl rfl rfl rfl ?_ rfl rfl rfl rfl rfl
    refine congrArg (fun k => latHalf s.core.sm.div (32 + ceilDiv (fmtM e.val.toNat) 2 + k)) ?_
    split
    · split <;> rfl
    · exact Nat.zero_max _

/-- With a good table a DRAIN issues (R126, R127). -/
theorem execDrain_goes (h : s.core.clear c)
    (hgood : requantises e.val.toNat → ∀ j < fmtN e.val.toNat, ¬badEntry (drainEntry s m2 e.val.toNat j)) :
    execDrain c a m m2 pitch s = s.goesWith (drainFlight c a m m2 pitch e s) fun k =>
      { k.dqDrop .fq 1 with land := k.land ++ drainZeroes a e s } := by
  obtain ⟨p, hp, -, hctl, hdec, hpre, hwait, hlate, hfault, hmid, hissued⟩ :=
    execDrain_good (c := c) ha hq hok hm hn htab hrows
  rw [hp]
  refine issue_goesWith (hctl ▸ h) hdec hpre hwait hfault (hmid.trans (if_neg ?_)) hlate hissued rfl
  rintro ⟨hx, j, hj, hbad⟩
  exact hgood hx j hj hbad

/-- A bad entry raises FORMAT_INVALID (R117 step 5, R127). -/
theorem execDrain_badTable (h : s.core.clear c) (hx : requantises e.val.toNat) {j : Nat} (hj : j < fmtN e.val.toNat)
    (hbad : badEntry (drainEntry s m2 e.val.toNat j)) : execDrain c a m m2 pitch s = s.faults .m (flt 0x04) := by
  obtain ⟨p, hp, hst, hctl, hdec, hpre, hwait, -, hfault, hmid, -⟩ :=
    execDrain_good (c := c) ha hq hok hm hn htab hrows
  rw [hp, ← hst]
  exact issue_midFaults (hctl ▸ h) hdec hpre hwait hfault (hmid.trans (if_pos ⟨hx, j, hj, hbad⟩)) _
end
end

/-! ## The statement -/

/-- Settles O23: the sums, the corrections and the drain issue their plans, and a drained element is by its output format. -/
theorem sumsCorrectionsAndDrains : Obligations.SumsCorrectionsAndDrains := by
  unfold Obligations.SumsCorrectionsAndDrains
  refine ⟨fun c a t w v e rest s h hq hok ht ha => ?_, fun c a m m2 pitch e rest s h hq hok ha => ?_,
    fun x u v ent rm hrm => ?_⟩
  · dsimp only
    simp only [← namesLent_one, ← rowSum_eq]
    exact ⟨fun hf => sumWord_clear h hq hok ht w (isIntF_iff.mpr hf) fmtAS fmtM,
      fun hf => sumWord_clear h hq hok ht w (isIntF_iff.mpr hf) fmtBS fmtN, execZpc_clear h hq hok ha w v⟩
  · dsimp only
    simp only [← drainSize_eq]
    refine ⟨fun hmn => ?_, fun hm hn htab hrows => ⟨fun hgood => ?_, fun hx ⟨j, hj, hbad⟩ => ?_⟩⟩
    · rw [← namesLent_one]
      exact execDrain_empty ha hq hok h hmn
    · refine execDrain_goes ha hq hok hm hn htab hrows h fun hx j hj hbad => ?_
      obtain ⟨hshift, h6, h7⟩ := hgood hx j hj
      exact hbad.elim (Nat.not_lt.mpr hshift) fun hres => hres.elim (absurd h6) (absurd h7)
    · exact execDrain_badTable ha hq hok hm hn htab hrows h hx hj hbad
  · exact ⟨drainElem_fp32_bits v ent u, drainElem_fp32_int v ent u hrm, drainElem_bf16 v ent u hrm,
      drainElem_fp16 v ent u hrm, drainElem_int32 v ent u, drainElem_int8 v ent u, drainElem_uint8 v ent u⟩

end Sys2Proof.Machine
end

section
/-! PROOFS. The lane words of the V stream: arithmetic, logic, movement, conversion and random numbers (06 R139 to R141,
R144, R149). -/

namespace Sys2Proof.Machine

/-! ## Words by their lanes (R136, R137) -/

section
variable {c : Ctl} {s : State} (h : s.core.clear c) {d : VDst} {xs : List VSrc} {k : BitVec 3}
  (hr : s.vrReady d xs (s.core.kreg k))
include h hr

/-- A word that moves lanes and raises no flag. -/
theorem moveWord_clear (n : Nat) (regs : Ranges) (g : Core → List (List W32) → List W32) (f : Nat → W32)
    (hg : g s.core (readSrcs s xs).vals = (List.range 64).map f) :
    vrWord c d xs k (kMask k) n (fun c vs => (g c vs, [])) s (regs := regs) =
      s.vrGoes c d xs (s.core.kreg k) n fun l => (f l, 0) :=
  vrWord_clear h d xs k (kMask k) n _ (fun l => (f l, 0)) [] regs hr hg fun _ _ => rfl

/-- A word that gives each lane a result and flags of its own. -/
theorem resultWord_clear (n : Nat) (g : Core → List (List W32) → List W32 × List FpFlags) (f : Nat → W32 × FpFlags)
    (hg : g s.core (readSrcs s xs).vals = (((List.range 64).map f).map (·.1), ((List.range 64).map f).map (·.2))) :
    vrWord c d xs k (kMask k) n g s = s.vrGoes c d xs (s.core.kreg k) n f := by
  refine vrWord_clear h d xs k (kMask k) n g f [] [] hr ?_ fun i hi => ?_
  · rw [hg, List.map_map]
    rfl
  · simp [hg, List.getD, hi]

end

/-! ## Integer results of one type (R139) -/

theorem minW_signed (p q : W32) : minW .i p q = if q.toInt < p.toInt then q else p :=
  (minW_i p q).trans (if_congr neg_lt_neg_iff rfl rfl)

theorem minW_unsigned (p q : W32) : minW .u p q = if q.toNat < p.toNat then q else p :=
  (minW_u p q).trans (if_congr (neg_lt_neg_iff.trans Nat.cast_lt) rfl rfl)

theorem maxW_unsigned (p q : W32) : maxW .u p q = if p.toNat < q.toNat then q else p :=
  (maxW_u p q).trans (if_congr Nat.cast_lt rfl rfl)

/-- VABS of an integer, the least one included. -/
theorem absI_eq (p : W32) : absI p = BitVec.ofInt 32 |p.toInt| := by
  rw [Int.abs_eq_natAbs, ← absI_toNat, BitVec.ofInt_natCast, BitVec.ofNat_toNat, BitVec.setWidth_eq]

/-- Under i and u one integer operation. -/
theorem byTy_int {ty : VTy} (hty : ty ≠ .f) (f g : W32 → W32 → W32 → W32 × FpFlags) : byTy ty f g = g := by
  cases ty with
  | f => exact absurd rfl hty
  | i => rfl
  | u => rfl

/-! ## Movement (R141) -/

section
variable {c : Ctl} {s : State} (h : s.core.clear c) {d : VDst} {a b x : VSrc} {k : BitVec 3}
include h

theorem execVsel_clear (ks : BitVec 3) (ty : VTy) (hr : s.vrReady d [a, b] (s.core.kreg k)) :
    execVsel c d a b ks k ty s = s.vrGoes c d [a, b] (s.core.kreg k) 8 fun l =>
      (if (s.core.kreg ks).getLsbD l then (readSrcs s [a, b]).lane 0 l else (readSrcs s [a, b]).lane 1 l, 0) := by
  refine moveWord_clear h hr 8 (kRange ks) (fun c vs => (List.range 64).map fun l =>
    (srcOf vs (if maskBit (c.kreg ks) l then 0 else 1)).getD l 0) _ (List.map_congr_left fun l _ => ?_)
  rw [maskBit]
  split <;> rfl

theorem execVbrd_clear (lane : BitVec 6) (ty : VTy) (hr : s.vrReady d [a] (s.core.kreg k)) :
    execVbrd c d a lane k ty s = s.vrGoes c d [a] (s.core.kreg k) 8 fun _ => ((readSrcs s [a]).lane 0 lane.toNat, 0) :=
  moveWord_clear h hr 8 [] (fun _ vs => List.replicate 64 ((srcOf vs 0).getD lane.toNat 0)) _
    (by rw [List.map_const', List.length_range]; rfl)

theorem execViota_clear (ty : VTy) (hr : s.vrReady d [] (s.core.kreg k)) :
    execViota c d k ty s = s.vrGoes c d [] (s.core.kreg k) 8 fun l => (BitVec.ofNat 32 l, 0) :=
  moveWord_clear h hr 8 [] (fun _ _ => (List.range 64).map (BitVec.ofNat 32 ·)) (BitVec.ofNat 32 ·) rfl

/-- VPERM takes lanes of a by the numbers in b, modulo 64. -/
theorem execVperm_clear (ty : VTy) (hr : s.vrReady d [a, b] (s.core.kreg k)) :
    execVperm c d a b k ty s = s.vrGoes c d [a, b] (s.core.kreg k) 10 fun l =>
      ((readSrcs s [a, b]).lane 0 (((readSrcs s [a, b]).lane 1 l).toNat % 64), 0) := by
  obtain ⟨u, v, -, hv, hvals⟩ := readSrcs_pair s a b
  have hlen : (srcOf (readSrcs s [a, b]).vals 1).length = 64 := by rw [hvals]; exact hv
  refine moveWord_clear h hr 10 [] (fun _ vs => (srcOf vs 1).map fun i => (srcOf vs 0).getD (i.toNat % 64) 0)
    (fun l => (readSrcs s [a, b]).lane 0 (((readSrcs s [a, b]).lane 1 l).toNat % 64)) ?_
  rw [list_eq_range hlen 0, List.map_map]
  rfl

/-! ## Conversion (R144) -/

theorem execVcvt_clear {rm : RmFull} (hrm : rm ≠ .sr) (ty : VTy) (dt : MemTy) (sat : Bool)
    (hr : s.vrReady d [a] (s.core.kreg k)) : execVcvt c d a x k ty dt rm sat s =
    s.vrGoes c d [a] (s.core.kreg k) 8 fun l => cvtLane ty dt (rmOfFull rm) sat 0 ((readSrcs s [a]).lane 0 l) := by
  unfold execVcvt
  simp only [if_neg hrm]
  exact resultWord_clear h hr 8 _ _ rfl

/-- Under SR each lane rounds by its own random word. -/
theorem execVcvt_sr (ty : VTy) (dt : MemTy) (sat : Bool) (hr : s.vrReady d [a, x] (s.core.kreg k)) :
    execVcvt c d a x k ty dt .sr sat s = s.vrGoes c d [a, x] (s.core.kreg k) 8 fun l => cvtLane ty dt .sr sat
      (gen (s.core.csr .seed) (s.core.sid .v) (BitVec.ofNat 32 l) ((readSrcs s [a, x]).lane 1 l)).toNat
      ((readSrcs s [a, x]).lane 0 l) := by
  unfold execVcvt
  simp only [if_true]
  exact resultWord_clear h hr 8 _ _ rfl

/-! ## Random words (R149) -/

theorem execVrng_u (hr : s.vrReady d [a, b] (s.core.kreg k)) : execVrng c d a b k .u s =
    s.vrGoes c d [a, b] (s.core.kreg k) 12 fun l =>
      (gen (s.core.csr .seed) (s.core.sid .v) ((readSrcs s [a, b]).lane 0 l) ((readSrcs s [a, b]).lane 1 l), 0) :=
  lanewise_clear h d [a, b] k (kMask k) 12 (bw fun p q _ => gen (s.core.csr .seed) (s.core.sid .v) p q) hr

/-- Under f the top 24 bits of the word, as a fraction. -/
theorem execVrng_f (hr : s.vrReady d [a, b] (s.core.kreg k)) : execVrng c d a b k .f s =
    s.vrGoes c d [a, b] (s.core.kreg k) 12 fun l => ((w32 (rne32 (.fin false
      ((gen (s.core.csr .seed) (s.core.sid .v) ((readSrcs s [a, b]).lane 0 l) ((readSrcs s [a, b]).lane 1 l)).toNat / 256)
      (-24)))).1, 0) :=
  lanewise_clear h d [a, b] k (kMask k) 12
    (bw fun p q _ => (w32 (rne32 (.fin false ((gen (s.core.csr .seed) (s.core.sid .v) p q).toNat / 256) (-24)))).1) hr

end

/-! ## The statement -/

/-- Settles O25: the words of one, two and three operands lane by lane (`lanewise_clear`), movements, conversions and
random words by their own rules. -/
theorem vectorLaneWordsIssueWithResults : Obligations.VectorLaneWordsIssueWithResults := by
  unfold Obligations.VectorLaneWordsIssueWithResults
  intro c d a b x k ks lane ty dt rm sat s h
  dsimp only
  simp only [← minW_signed, ← minW_unsigned, ← maxW_i, ← maxW_unsigned, ← absI_eq]
  refine ⟨fun hr => ?_, fun hr => ?_, execVcvt_sr h ty dt sat, fun hr => ?_, execViota_clear h ty⟩
  · have word := fun n g => lanewise_clear h d [a, b] k (kMask k) n g hr
    have int := fun (g : W32 → W32 → W32) => word 8 (bw fun p q _ => g p q)
    refine ⟨word 8 (fl2 fadd), word 8 (fl2 fsub), word 8 (fl2 fmul), fun hty => ?_, int (minW .f), int (minW .i), int (minW .u),
      int (maxW .f), int (maxW .i), int (maxW .u), word 24 (fl2 fdiv), int (· &&& ·), int (· ||| ·), int (· ^^^ ·),
      int fun p q => p <<< (q.toNat % 32), int fun p q => p >>> (q.toNat % 32), int fun p q => p.sshiftRight (q.toNat % 32),
      execVsel_clear h ks ty hr, execVperm_clear h ty hr, execVrng_u h hr, execVrng_f h hr⟩
    rw [exec_vadd, exec_vsub, exec_vmul, execVadd, execVsub, execVmul]
    simp only [byTy_int hty]
    exact ⟨int (· + ·), int (· - ·), int (· * ·)⟩
  · have word := fun n g => lanewise_clear h d [a] k (kMask k) n g hr
    exact ⟨word 8 (bw fun p _ _ => BitVec.ofNat 32 (fabs p.toNat)), word 8 (bw fun p _ _ => absI p),
      word 8 (bw fun p _ _ => BitVec.ofNat 32 (fneg p.toNat)), word 8 (bw fun p _ _ => 0 - p), word 24 (fl1 fsqrt),
      word 24 (fl1 frsq), word 24 (fl1 frcp), word 24 (fl1 fexp2), word 24 (fl1 flog2), word 24 (fl1 fexp),
      word 8 (bw fun p _ _ => p), execVbrd_clear h lane ty hr, fun hrm => execVcvt_clear h hrm ty dt sat hr⟩
  · have word := fun n g => lanewise_clear h d [a, b, x] k (kMask k) n g hr
    refine ⟨word 8 (fl3 ffma), fun hty => ?_⟩
    rw [exec_vfma, execVfma, byTy_int hty]
    exact word 8 (bw fun p q r => p * q + r)

end Sys2Proof.Machine
end

section
/-! PROOFS. Stream registers as operands of VR words: the fields of their state, a naming as a source and as a destination
(06 R155, R157). -/

namespace Sys2Proof.Machine

/-! ## The fields of a z state (R133, R155) -/

theorem zBase_eq (z : BitVec 512) : zBase z = z.toNat % 2 ^ 22 := by rw [zBase, bits_eq, pow_zero, Nat.div_one]

theorem zCnt_eq (z : BitVec 512) (i : Nat) : zCnt z i = z.toNat / 2 ^ (64 + 16 * i) % 2 ^ 16 := by
  rw [zCnt, bits_eq, show 79 + 16 * i + 1 - (64 + 16 * i) = 16 by omega]

theorem zPos_eq (z : BitVec 512) : zPos z = z.toNat / 2 ^ 256 % 2 ^ 32 := bits_eq _ _ _

/-- A signed field of 32 bits. -/
theorem sext_bits (z : BitVec 512) (lo : Nat) : sext 32 (bits (lo + 31) lo z.toNat) = (z.extractLsb' lo 32).toInt := by
  rw [sext_eq_toInt (by decide), bits, show lo + 31 + 1 - lo = 32 by omega]
  congr 1
  exact BitVec.eq_of_toNat_eq (by simp)

theorem zStr_eq (z : BitVec 512) (i : Nat) : zStr z i = (z.extractLsb' (128 + 32 * i) 32).toInt := by
  rw [← sext_bits, zStr]
  split
  next h2 => rw [h2]
  next => rw [show 128 + 32 * i + 31 = 159 + 32 * i by omega]

/-- R157: a naming replaces POS and no other bit. -/
theorem zSetPos_getLsbD (z : BitVec 512) (p : Nat) {i : Nat} (hi : i < 512) :
    (zSetPos z p).getLsbD i = if 256 ≤ i ∧ i < 288 then p.testBit (i - 256) else z.getLsbD i := by
  have hmask := shifted_getLsbD (lo := 256) (w := 32) (2 ^ 32 - 1) hi
  rw [Nat.mod_eq_of_lt (by decide), Nat.testBit_two_pow_sub_one, ← Bool.decide_and] at hmask
  rw [zSetPos, BitVec.getLsbD_or, BitVec.getLsbD_and, BitVec.getLsbD_not, hmask, shifted_getLsbD p hi, decide_eq_true hi,
    Bool.true_and]
  by_cases hin : 256 ≤ i ∧ i < 288
  · simp [hin, show i - 256 < 32 by omega]
  · simp [hin]

theorem zPos_zSetPos (z : BitVec 512) (p : Nat) : zPos (zSetPos z p) = p % 2 ^ 32 := by
  refine Nat.eq_of_testBit_eq fun i => ?_
  rw [zPos, bits, Nat.testBit_mod_two_pow, Nat.testBit_mod_two_pow, Nat.testBit_shiftRight]
  by_cases hi : i < 32
  · have := zSetPos_getLsbD z p (i := 256 + i) (by omega)
    rw [BitVec.getLsbD, if_pos (by omega), Nat.add_sub_cancel_left] at this
    rw [this]
  · simp [hi]

/-- A naming of a z that QUEUE refuses: unbound, of the other direction, or used up. -/
def zRefused (z : BitVec 512) (dir : Bool) : Prop := z.getLsbD 288 = false ∨ z.getLsbD 28 ≠ dir ∨ zPos z = zTotal z

section
variable {z : BitVec 512} {dir : Bool}

theorem zRefused_iff : (!zBound z || zDir z != dir || decide (zPos z = zTotal z)) = true ↔ zRefused z dir := by
  simp only [Bool.or_eq_true, Bool.not_eq_true', bne_iff_ne, decide_eq_true_eq, or_assoc]
  rfl

theorem zFault_refused (h : zRefused z dir) : zFault z dir = some (flt 0x0F) := if_pos (zRefused_iff.mpr h)

theorem zFault_taken (h : ¬zRefused z dir) : zFault z dir = none := if_neg (mt zRefused_iff.mp h)

end

/-! ## The elements of a naming (R155, R157) -/

/-- The address of the element that lane l of the next naming takes. -/
def zLane (z : BitVec 512) (l : Nat) : Int := zAddrOf z (zPos z + l)

/-- Lane l of the next naming has an element. -/
def zHas (z : BitVec 512) (l : Nat) : Bool := zPos z + l < zTotal z

theorem zRun_eq (z : BitVec 512) : zRun z = laneAddrs (bitsToW64 (zHas z)) (zLane z) := by
  refine congrArg (List.map fun l => (l, zLane z l)) (List.filter_congr fun l hl => ?_)
  exact (bitsToW64_getLsbD (zHas z) (List.mem_range.mp hl)).symm

theorem mem_zHas {z : BitVec 512} {l : Nat} : l ∈ onLanes (bitsToW64 (zHas z)) ↔ l < 64 ∧ zPos z + l < zTotal z := by
  rw [onLanes, List.mem_filter, List.mem_range, and_congr_right_iff]
  intro hl
  rw [bitsToW64_getLsbD _ hl, zHas, decide_eq_true_iff]

/-- The lanes of a naming under a write mask. -/
def zLanes (z : BitVec 512) (m : W64) : List Nat := (List.range 64).filter fun l => zHas z l && m.getLsbD l

theorem mem_zLanes {z : BitVec 512} {m : W64} {l : Nat} :
    l ∈ zLanes z m ↔ l < 64 ∧ zPos z + l < zTotal z ∧ m.getLsbD l = true := by
  rw [zLanes, List.mem_filter, List.mem_range, Bool.and_eq_true, zHas, decide_eq_true_iff]

theorem zRun_masked (z : BitVec 512) (m : W64) :
    (zRun z).filter (fun p => maskBit m p.1) = (zLanes z m).map fun l => (l, zLane z l) := by
  rw [zRun, List.filter_map, List.filter_filter, zLanes]
  refine congrArg (List.map _) (List.filter_congr fun l _ => ?_)
  exact Bool.and_comm _ _

/-- The elements of a naming in these lanes may be accessed (R150). -/
def Core.zMay (c : Core) (z : BitVec 512) (dir : Bool) (ls : List Nat) : Prop :=
  ∀ l ∈ ls, elemOk (esz (zType z).code) dir (zLane z l) = true ∧
    (c.hot = true ∨ ∀ i < esz (zType z).code, lentAddr ((zLane z l).toNat + i) = false)

/-! ## A naming as a source -/

section
variable {s : State} {n : BitVec 3} {z : BitVec 512} (hz : vget s.core.r.z n.toNat 0 = z)
include hz

theorem readSrcs_fault : (readSrcs s [.z n]).fault =
    (zFault z false).or (s.core.elemFault (esz (zType z).code) false ((zRun z).map (·.2))) := by
  subst hz
  rfl

theorem readSrcs_fault_refused (h : zRefused z false) : (readSrcs s [.z n]).fault = some (flt 0x0F) := by
  rw [readSrcs_fault hz, zFault_refused h, Option.some_or]

variable (h : ¬zRefused z false) (hmay : s.core.zMay z false (onLanes (bitsToW64 (zHas z))))
include h hmay

theorem readSrcs_fault_none : (readSrcs s [.z n]).fault = none := by
  rw [readSrcs_fault hz, zFault_taken h, Option.none_or, zRun_eq, laneAddrs, List.map_map]
  exact elemFault_none _ _ _ _ (zLane z) hmay

theorem readSrcs_lane {l : Nat} (hl : l < 64) : (readSrcs s [.z n]).lane 0 l =
    if zHas z l then loadLane (zType z) (s.getLe (zLane z l).toNat (esz (zType z).code)) else 0 := by
  have hf := (readSrcs_fault hz).symm.trans (readSrcs_fault_none hz h hmay)
  subst hz
  simp only [VRead.lane, readSrcs, List.foldl_cons, List.foldl_nil, VRead.name, srcOf, List.nil_append, List.getD_cons_zero, hf,
    Option.isSome_none, Bool.false_eq_true, if_false]
  rw [List.getD_eq_getElem _ _ (by simpa using hl), List.getElem_map, List.getElem_range, zRun_eq, laneAddrs_find _ hl,
    bitsToW64_getLsbD _ hl]
  cases zHas (vget s.core.r.z n.toNat 0) l <;> rfl

end

/-! ## A naming as a destination -/

/-- The element that lane l of a naming stores. -/
def zItem (z : BitVec 512) (val : List W32) (l : Nat) : LItem :=
  { addr := (zLane z l).toNat, data := leBytes (esz (zType z).code) (storeLane (zType z) (val.getD l 0)).1, mask := none }

section
variable {c : Core} {z0 : Vector (BitVec 512) 8} {n : BitVec 3} {m : W64} {val : List W32} {z : BitVec 512}
  (hz : vget z0 n.toNat 0 = z)
include hz

theorem writeDst_z_fault : (writeDst c z0 (.z n) m val).fault =
    (zFault z true).or (c.elemFault (esz (zType z).code) true ((zLanes z m).map (zLane z))) := by
  subst hz
  simp only [writeDst, zRun_masked, List.map_map]
  rfl

theorem writeDst_fault_refused (h : zRefused z true) : (writeDst c z0 (.z n) m val).fault = some (flt 0x0F) := by
  rw [writeDst_z_fault hz, zFault_refused h, Option.some_or]

theorem writeDst_fault_none (h : ¬zRefused z true) (hmay : c.zMay z true (zLanes z m)) :
    (writeDst c z0 (.z n) m val).fault = none := by
  rw [writeDst_z_fault hz, zFault_taken h, Option.none_or]
  exact elemFault_none _ _ _ _ (zLane z) hmay

/-- Bytes of the z states are ignored. -/
theorem writeDst_acts : (writeDst c z0 (.z n) m val).acts =
    [.list (((List.range 64).filter fun l => zHas z l && m.getLsbD l && !zAddr (zLane z l).toNat).map (zItem z val))] := by
  have hkept : ((List.range 64).filter fun l => zHas z l && m.getLsbD l && !zAddr (zLane z l).toNat) =
      (zLanes z m).filter fun l => !zAddr (zLane z l).toNat := by
    rw [zLanes, List.filter_filter]
    exact List.filter_congr fun l _ => Bool.and_comm _ _
  rw [hkept]
  subst hz
  simp only [writeDst, zRun_masked, List.map_map, List.filterMap_map]
  rw [← List.filterMap_eq_map, List.filterMap_filter]
  refine congrArg (fun l => [LAct.list l]) (congrArg (List.filterMap · _) (funext fun l => ?_))
  simp only [Function.comp_apply]
  cases zAddr (zLane (vget z0 n.toNat 0) l).toNat <;> rfl

end

/-! ## The position -/

/-- The z that a naming leaves: POS goes on, and no other bit changes. -/
theorem zNext_moves (z : BitVec 512) : zPos (zNext z) = min (zPos z + 64) (zTotal z) % 2 ^ 32 ∧
    ∀ i < 512, i < 256 ∨ 288 ≤ i → (zNext z).getLsbD i = z.getLsbD i :=
  ⟨zPos_zSetPos z _, fun i hi hout => (zSetPos_getLsbD z _ hi).trans (if_neg (by omega))⟩

/-! ## The statement -/

/-- Settles O30: the fields of the z state by name, then the naming as a source and as a destination. -/
theorem streamOperandsWalkTheirPattern : Obligations.StreamOperandsWalkTheirPattern := by
  unfold Obligations.StreamOperandsWalkTheirPattern
  intro n m val et s z x cnt str total pos ea size bad legal r w moved
  have hcnt (i : Nat) : cnt i = zCnt z i := (zCnt_eq z i).symm
  have htotal : total = zTotal z := by simp only [total, hcnt]; rfl
  have hpos : pos = zPos z := (zPos_eq z).symm
  have hea : ea = zLane z := by
    funext l
    simp only [ea, hcnt, hpos, zLane, zAddrOf, zStr_eq, zBase_eq]
    rfl
  have hbad (dir : Bool) : bad dir ↔ zRefused z dir := by simp only [bad, hpos, htotal, zRefused]
  have hmoved : moved (zNext z) := by simpa only [moved, hpos, htotal, zPos_eq] using zNext_moves z
  have hlegal (hty : zType z = et) (dir : Bool) (ls : List Nat) : s.core.zMay z dir ls ↔ ∀ l ∈ ls, legal dir l := by
    simp only [Core.zMay, legal, size, hea, hty]
  refine ⟨?_, ?_, fun k hk => ⟨vget_vset_other _ _ _ _ _ hk.symm, vget_vset_other _ _ _ _ _ hk.symm⟩,
    fun h => readSrcs_fault_refused rfl ((hbad _).mp h), fun h => writeDst_fault_refused rfl ((hbad _).mp h), fun het => ?_⟩
  · exact (vget_vset_same s.core.r.z n.toNat (zNext z) 0 n.isLt).symm ▸ hmoved
  · exact (vget_vset_same s.core.r.z n.toNat (zNext z) 0 n.isLt).symm ▸ hmoved
  · have hty : zType z = et := by rw [zType, zEt, bits_eq]; exact congrArg (·.getD .f32) het
    refine ⟨fun h hmay => ?_, fun h hmay => ?_⟩
    · have htaken := mt (hbad false).mpr h
      have hels : s.core.zMay z false (onLanes (bitsToW64 (zHas z))) := (hlegal hty _ _).mpr fun l hl => by
        obtain ⟨h64, hhas⟩ := mem_zHas.mp hl
        exact hmay l h64 (by rwa [hpos, htotal])
      refine ⟨readSrcs_fault_none rfl htaken hels, fun l hl => (readSrcs_lane rfl htaken hels hl).trans ?_⟩
      simp only [hpos, htotal, hea, size, ← hty]
      exact if_congr decide_eq_true_iff rfl rfl
    · have hels : s.core.zMay z true (zLanes z m) := (hlegal hty _ _).mpr fun l hl => by
        obtain ⟨h64, hhas, hmask⟩ := mem_zLanes.mp hl
        exact hmay l h64 (by rwa [hpos, htotal]) hmask
      refine ⟨writeDst_fault_none rfl (mt (hbad true).mpr h) hels, (writeDst_acts rfl).trans ?_⟩
      simp only [hpos, htotal, hea, size, ← hty]
      rfl

end Sys2Proof.Machine
end

section
/-! PROOFS. ZBIND and ZRST, the scalar words and the control words of the V stream (06 R156, R158, R159). -/

namespace Sys2Proof.Machine

/-! ## Stream descriptors (R156) -/

/-- The descriptors that ZBIND takes: no reserved bit set, an element type of at most 10. -/
theorem descBad_iff {x : Nat} (hx : x < 2 ^ 256) : descBad (BitVec.ofNat 256 x) = false ↔ x / 2 ^ 29 % 2 ^ 35 = 0 ∧
    x / 2 ^ 22 % 4 = 0 ∧ x / 2 ^ 24 % 16 ≤ 10 ∧ x / 2 ^ 112 % 2 ^ 16 = 0 ∧ x / 2 ^ 224 % 2 ^ 32 = 0 := by
  simp only [descBad, BitVec.toNat_ofNat, Nat.mod_eq_of_lt hx, bits_eq, Bool.or_eq_false_iff, decide_eq_false_iff_not, ne_eq,
    not_not, not_lt, and_assoc]
  rfl

theorem State.getLe_lt (s : State) (a n : Nat) : s.getLe a n < 256 ^ n := by
  simpa [State.getLe, State.getLs] using leNat_lt (s.getLs a n)

/-- The fault of a descriptor's place: QUEUE, then LENT. -/
def Core.descFault (c : Core) (a : Nat) : Option Flt :=
  if a % 32 ≠ 0 || 0x200000 ≤ a then some (flt 0x0F a) else if lentAddr a && !c.hot then some (flt 0x06 a) else none

section
variable {c : Core} {a : Nat}

theorem Core.descFault_misplaced (h : a % 32 ≠ 0 ∨ 0x200000 ≤ a) : c.descFault a = some (flt 0x0F a) := by
  simp [Core.descFault, h]

variable (hal : a % 32 = 0) (hlt : a < 0x200000)
include hal hlt

theorem Core.descFault_inside : c.descFault a = if 0x100000 ≤ a ∧ c.hot = false then some (flt 0x06 a) else none := by
  simp [Core.descFault, hal, Nat.not_le.mpr hlt, lentAddr_below hlt]

theorem Core.descFault_lent (hslow : 0x100000 ≤ a) (hcold : c.hot = false) : c.descFault a = some (flt 0x06 a) := by
  rw [Core.descFault_inside hal hlt, if_pos ⟨hslow, hcold⟩]

theorem Core.descFault_none (hhot : 0x100000 ≤ a → c.hot = true) : c.descFault a = none := by
  rw [Core.descFault_inside hal hlt, if_neg fun hc => absurd (hhot hc.1) (by simp [hc.2])]

end

section
variable {c : Ctl} {s : State} (h : s.core.clear c)
include h

/-! ## ZBIND and ZRST -/

section
variable (z : BitVec 3) {imm : BitVec 32}

theorem execZbind_faults {f : Flt} (hf : s.core.descFault imm.toNat = some f) : execZbind c z imm s = s.faults .v f :=
  issue_faults h rfl rfl rfl hf _

variable (hal : imm.toNat % 32 = 0) (hlt : imm.toNat < 0x200000) (hf : s.core.descFault imm.toNat = none)
include hal hlt hf

theorem execZbind_refuses (hbad : descBad (BitVec.ofNat 256 (s.getLe imm.toNat 32)) = true) :
    execZbind c z imm s = s.faults .v (flt 0x0F imm.toNat) := by
  refine issue_lateFaults h rfl rfl rfl hf rfl ?_ _
  simp [hal, Nat.not_le.mpr hlt, hbad]

/-- The descriptor lands with POS 0 and BOUND. -/
theorem execZbind_clear (hgood : descBad (BitVec.ofNat 256 (s.getLe imm.toNat 32)) = false) : execZbind c z imm s =
    s.goes (.of .v c (latHalf s.core.sv.div (2 + if 0x100000 ≤ imm.toNat then 4 else 0))
      [.zstate (0x301900 + 64 * z.toNat) (leBytes 32 (s.getLe imm.toNat 32) ++ [0, 0, 0, 0, 1])]) := by
  have hbad : (decide (imm.toNat % 32 ≠ 0) || decide (0x200000 ≤ imm.toNat)) = false := by simp [hal, hlt]
  have hdesc : (BitVec.ofNat 256 (s.getLe imm.toNat 32)).toNat = s.getLe imm.toNat 32 := by
    exact (BitVec.toNat_ofNat _ _).trans (Nat.mod_eq_of_lt (State.getLe_lt s imm.toNat 32))
  refine issue_goes h rfl rfl rfl hf rfl ?_ (Core.issued_congr rfl rfl rfl rfl ?_ ?_ rfl rfl rfl rfl)
  · simp only [hbad, Bool.false_eq_true, if_false, hgood]
  · simp only [lentTicks, lentAddr_below hlt, decide_eq_true_eq]
    rfl
  · simp only [hbad, Bool.false_eq_true, if_false, hdesc, List.append_assoc]
    rfl

end

section
variable (z : BitVec 3)

theorem execZrst_clear (hb : zBound (vget s.core.r.z z.toNat 0) = true) : execZrst c z s =
    s.goes (.of .v c (latHalf s.core.sv.div 2) [.zstate (0x301900 + 64 * z.toNat + 32) [0, 0, 0, 0]]) :=
  issue_goes h rfl rfl rfl (if_pos hb) rfl rfl rfl

theorem execZrst_unbound (hb : zBound (vget s.core.r.z z.toNat 0) = false) : execZrst c z s = s.faults .v (flt 0x0F) :=
  issue_faults h rfl rfl rfl (if_neg (by rw [hb]; decide)) _

end

/-! ## Scalar words (R158) -/

/-- A word whose one result is an x register. -/
theorem xWord_clear (d : BitVec 4) (regs : Ranges) (val : W64) (fp : FpFlags) : xWord c d regs val s fp =
    s.goes { Plan.of .v c (latHalf s.core.sv.div 2) [.xreg d.toNat val] with fp := fp } :=
  issue_goes h rfl rfl rfl rfl rfl rfl rfl

/-- XPOP takes the oldest entry of dv. -/
theorem execXpop_clear (d : BitVec 4) {e : QEnt} {rest : List QEnt} (hq : s.core.dq .dv = e :: rest) :
    execXpop c d s = s.goesWith (.of .v c (latHalf s.core.sv.div 2) [.xreg d.toNat e.val]) (·.dqDrop .dv 1) := by
  unfold execXpop
  simp only [Core.oldest, hq, List.headD_cons, List.isEmpty_cons]
  exact issue_goesWith h rfl rfl rfl rfl rfl rfl rfl rfl

theorem execXpop_waits (d : BitVec 4) (hq : s.core.dq .dv = []) : execXpop c d s = .next s := by
  unfold execXpop
  exact issue_waits h rfl rfl (List.isEmpty_iff.mpr hq) _

/-- A word that appends to a data queue with a place free reserves it at its issue (10 R253). -/
theorem pushWord_clear {st : StreamId} {q : DqId} (regs : Ranges) (x : W64) (l : Nat) (hfull : s.core.dqFull q = false) :
    pushWord st c q regs x l s = s.goesWith (.of st c (s.core.lat st l) [.queue q x]) (·.dqReserve q) :=
  issue_goesWith h rfl rfl hfull rfl rfl rfl rfl rfl

theorem pushWord_waits {st : StreamId} {q : DqId} (regs : Ranges) (x : W64) (l : Nat) (hfull : s.core.dqFull q = true) :
    pushWord st c q regs x l s = .next s :=
  issue_waits h rfl rfl hfull _

/-! ## Control words (R159) -/

/-- VLOOP branches by the value that it writes: it ends where the register held one. -/
theorem execVloop_clear (a : BitVec 4) (off : BitVec 24) : execVloop c a off s =
    s.goes { Plan.of .v c (latHalf s.core.sv.div 2) [.xreg a.toNat (s.core.xreg a - 1)] with
      next := branchIf (s.core.xreg a != 1) off } := by
  have hend : (s.core.xreg a - 1 != 0) = (s.core.xreg a != 1) := by
    rw [Bool.eq_iff_iff, bne_iff_ne, bne_iff_ne, ne_eq, sub_eq_zero]
  unfold execVloop
  simp only [hend]
  exact issue_goes h rfl rfl rfl rfl rfl rfl rfl

/-- VBQ takes the oldest entry of bv. -/
theorem execVbq_clear (off : BitVec 24) {e : QEnt} {rest : List QEnt} (hq : s.core.dq .bv = e :: rest) :
    execVbq c off s = s.goesWith { Plan.of .v c (s.core.latOne .v) [] with next := branchIf (e.val != 0) off }
      (·.dqDrop .bv 1) := by
  unfold execVbq
  simp only [Core.oldest, hq, List.headD_cons, List.isEmpty_cons]
  exact issue_goesWith h rfl rfl rfl rfl rfl rfl rfl rfl

theorem execVbq_waits (off : BitVec 24) (hq : s.core.dq .bv = []) : execVbq c off s = .next s := by
  unfold execVbq
  exact issue_waits h rfl rfl (List.isEmpty_iff.mpr hq) _

theorem execVbr_clear (cc : Cond) (a b : BitVec 4) (off : BitVec 24) : execVbr c cc a b off s =
    s.goes { Plan.of .v c (s.core.latOne .v) [] with
      next := branchIf (condHolds cc (s.core.xreg a) (s.core.xreg b)) off } :=
  issue_goes h rfl rfl rfl rfl rfl rfl rfl

theorem execVjmp_clear (off : BitVec 24) : execVjmp c off s =
    s.goes { Plan.of .v c (s.core.latOne .v) [] with next := .rel off } :=
  issue_goes h rfl rfl rfl rfl rfl rfl rfl

theorem execVbrf_clear (ne : Bool) (k : BitVec 3) (off : BitVec 24) : execVbrf c ne k off s =
    s.goes { Plan.of .v c (s.core.latOne .v) [] with
      next := branchIf (if ne then s.core.kreg k != 0 else s.core.kreg k == 0) off } := by
  have htaken : decide ((s.core.kreg k != 0) = ne) = if ne then s.core.kreg k != 0 else s.core.kreg k == 0 := by
    rw [Bool.eq_iff_iff]
    cases ne <;> simp
  unfold execVbrf
  simp only [htaken]
  exact issue_goes h rfl rfl rfl rfl rfl rfl rfl

end

/-! ## The statement -/

/-- Settles O32: ZBIND by the fault of its descriptor's place and by `descBad_iff`; each other word by its own rule under
`Core.clear`. -/
theorem vectorScalarStreamAndControlWords : Obligations.VectorScalarStreamAndControlWords := by
  unfold Obligations.VectorScalarStreamAndControlWords
  refine ⟨fun c z imm s h => ?_, fun c d a b v lane imm s h => ?_, fun c cc ne a b k off s h => ?_⟩
  · have hlegal := descBad_iff (State.getLe_lt s imm.toNat 32)
    refine ⟨fun hbad => execZbind_faults h z (Core.descFault_misplaced hbad),
      fun hal hlt hslow hcold => execZbind_faults h z (Core.descFault_lent hal hlt hslow hcold),
      fun hal hlt hhot hbad => execZbind_refuses h z hal hlt (Core.descFault_none hal hlt hhot) ?_,
      fun hal hlt hhot hgood => execZbind_clear h z hal hlt (Core.descFault_none hal hlt hhot) (hlegal.mpr hgood),
      execZrst_clear h z, execZrst_unbound h z⟩
    exact Bool.eq_true_of_not_eq_false (mt hlegal.mp hbad)
  · have word := fun regs val => xWord_clear h d regs val 0
    exact ⟨word _ _, word _ _, word _ _, word _ _, word _ _, xWord_clear h d _ _ _, xWord_clear h d _ _ _,
      fun e rest hq => execXpop_clear h d hq, execXpop_waits h d,
      fun hfree => pushWord_clear h _ _ 2 (decide_eq_false (Nat.not_le.mpr hfree)),
      fun hfull => pushWord_waits h _ _ 2 (decide_eq_true hfull)⟩
  · have hone : s.core.latOne .v = (s.core.sv.div + 1) / 2 := Core.latOne_eq s.core .v
    dsimp only
    rw [← hone]
    exact ⟨execVloop_clear h a off, execVbr_clear h cc a b off, execVjmp_clear h off, execVbrf_clear h ne k off,
      fun e rest hq => execVbq_clear h off hq, execVbq_waits h off⟩

end Sys2Proof.Machine
end

section
/-! PROOFS. Scalar loads, stores and atomics of the A stream (07 R162, R172 to R177). -/

namespace Sys2Proof.Machine

/-! ## The checks of an access (R161, R174) -/

theorem accessFault_none {k : Core} {ea n : Nat} {store : Bool} (h : k.mayAccess ea n store) :
    k.accessFault ea n store = none := by
  obtain ⟨hlt, hal, hmap, hend, hview, hhot⟩ := h
  have hv : (store && viewAddr ea) = false := by cases store <;> simp_all
  have hl : (lentAddr ea && !k.hot) = false := by cases hlent : lentAddr ea <;> simp_all
  simp [Core.accessFault, hlt, hal, hmap, hend, hv, hl]

theorem accessFault_bounds (k : Core) {ea n : Nat} {store : Bool}
    (h : 0x400000 ≤ ea ∨ ea % n ≠ 0 ∨ mapped ea = false ∨ mapped (ea + n - 1) = false) :
    k.accessFault ea n store = some (flt 0x07 ea) := by
  refine if_pos ?_
  rcases h with h | h | h | h <;> simp [h]

theorem accessFault_view (k : Core) {ea n : Nat} (h : viewAddr ea = true) :
    k.accessFault ea n true = some (flt 0x07 ea) :=
  if_pos (by simp [h])

theorem lentAddr_lt {a : Nat} (h : lentAddr a = true) : a < 0x300000 := by
  simp [lentAddr, inTile, inAcc] at h
  omega

theorem accessFault_lent {k : Core} {ea n : Nat} (store : Bool) (hal : ea % n = 0) (hlent : lentAddr ea = true)
    (hmap : mapped ea = true) (hend : mapped (ea + n - 1) = true) (hhot : k.hot = false) :
    k.accessFault ea n store = some (flt 0x06 ea) := by
  have hlow := lentAddr_lt hlent
  have hlt : ea < 0x400000 := by omega
  have hview : viewAddr ea = false := by simp [viewAddr]; omega
  simp [Core.accessFault, hlt, hal, hmap, hend, hview, hlent, hhot]

/-! ## Loads and stores (R162, R172, R173) -/

theorem lentTicks_add (l ea : Nat) : l + lentTicks ea = if lentAddr ea then l + 4 else l := by
  cases h : lentAddr ea <;> simp [lentTicks, h]

theorem sextTo_eq {w : Nat} (hw : 0 < w) (x : Nat) : sextTo w x = (BitVec.ofNat w x).signExtend 64 := by
  rw [sextTo, sext_eq_toInt hw, BitVec.signExtend]

section
variable {c : Ctl} {s : State} (h : s.core.clear c) (d a : BitVec 6) (imm : BitVec 28) {n : Nat}
include h

theorem loadWord_faults (ext : Nat → W64) {f : Flt} (hf : s.core.accessFault (s.core.ea a imm) n false = some f) :
    loadWord c d a imm n ext s = s.faults .a f :=
  issue_faults h rfl rfl rfl hf _

theorem storeWord_faults {f : Flt} (hf : s.core.accessFault (s.core.ea a imm) n true = some f) :
    storeWord c d a imm n s = s.faults .a f :=
  issue_faults h rfl rfl rfl hf _

theorem loadWord_may (ext : Nat → W64) (hm : s.core.mayAccess (s.core.ea a imm) n false) :
    loadWord c d a imm n ext s = s.yields c d (if lentAddr (s.core.ea a imm) then 10 else 6)
      (ext (s.getLe (s.core.ea a imm) n)) := by
  rw [loadWord_clear h d a imm n ext (accessFault_none hm), lentTicks_add]

theorem storeWord_may (hm : s.core.mayAccess (s.core.ea a imm) n true) :
    storeWord c d a imm n s = s.goes (.of .a c ((if lentAddr (s.core.ea a imm) then 8 else 4) * s.core.sa.div)
      (if zAddr (s.core.ea a imm) then [] else [.write (s.core.ea a imm) 1 0 (leBytes n (s.core.sreg d).toNat)])) := by
  rw [storeWord_clear h d a imm n (accessFault_none hm), lentTicks_add, Core.latA]

end

/-- Settles O5: every load and store is one issue whose first fault is that of `Core.accessFault`. -/
theorem loadsAndStoresMoveBytesOrFault : Obligations.LoadsAndStoresMoveBytesOrFault := by
  unfold Obligations.LoadsAndStoresMoveBytesOrFault
  refine ⟨fun c d a imm s h => ?_, fun c d a imm s h => ?_, fun c d a imm s h => ?_⟩
  · have load := fun n => loadWord_may (n := n) h d a imm zext
    have loads := fun w (hw : 0 < w) n (hm : s.core.mayAccess (s.core.ea a imm) n false) =>
      (loadWord_may h d a imm (sextTo w) hm).trans (by rw [sextTo_eq hw])
    exact ⟨fun hm => ⟨load 1 hm, loads 8 (by decide) 1 hm⟩, fun hm => ⟨load 2 hm, loads 16 (by decide) 2 hm⟩,
      fun hm => ⟨load 4 hm, loads 32 (by decide) 4 hm⟩, load 8⟩
  · have store := fun n => storeWord_may (n := n) h d a imm
    exact ⟨store 1, store 2, store 4, store 8⟩
  · intro ea out lent
    have load := fun n ext (ho : out n) => loadWord_faults h d a imm ext (accessFault_bounds s.core ho)
    have store := fun n (ho : out n ∨ viewAddr ea = true) =>
      storeWord_faults h d a imm (ho.elim (accessFault_bounds s.core) (accessFault_view s.core))
    have cold : ∀ n w, lent n → s.core.accessFault ea n w = some (flt 0x06 ea) :=
      fun n w ⟨hal, hlent, hmap, hend, hhot⟩ => accessFault_lent w hal hlent hmap hend hhot
    have loadCold := fun n ext (hl : lent n) => loadWord_faults h d a imm ext (cold n false hl)
    have storeCold := fun n (hl : lent n) => storeWord_faults h d a imm (cold n true hl)
    have three : ∀ n w i j k, exec i s = loadWord c d a imm n zext s → exec j s = loadWord c d a imm n (sextTo w) s →
        exec k s = storeWord c d a imm n s → lent n → ∀ x ∈ [i, j, k], exec x s = s.faults .a (flt 0x06 ea) := by
      intro n w i j k hi hj hk hl
      simpa [hi, hj, hk] using ⟨loadCold n zext hl, loadCold n (sextTo w) hl, storeCold n hl⟩
    exact ⟨load 8 _, fun ho => ⟨load 4 _ ho, load 4 _ ho⟩, fun ho => ⟨load 2 _ ho, load 2 _ ho⟩,
      fun ho => ⟨load 1 _ ho, load 1 _ ho⟩, store 8, store 4, store 2, store 1,
      fun hl => ⟨loadCold 8 zext hl, storeCold 8 hl⟩, three 4 32 _ _ _ rfl rfl rfl, three 2 16 _ _ _ rfl rfl rfl,
      three 1 8 _ _ _ rfl rfl rfl⟩

/-! ## Atomics (R175 to R177) -/

/-- The low 33 bits of a scalar, an OPA where bit 63 is set and the bits between are zero (R175). -/
theorem bits_opa (x : W64) : bits 32 0 x.toNat = x.toNat % 2 ^ 33 ∧ bits 21 0 x.toNat = x.toNat % 2 ^ 33 % 2 ^ 22 ∧
    bits 32 22 x.toNat = x.toNat % 2 ^ 33 / 2 ^ 22 := by
  simp only [bits, Nat.shiftRight_eq_div_pow]
  omega

theorem bits_opa_zero {x : W64} (h : x.getLsbD 63 = true) : bits 62 33 x.toNat = 0 ↔ x.toNat / 2 ^ 33 = 2 ^ 30 := by
  have hx := x.isLt
  rw [BitVec.getLsbD, Nat.testBit_eq_decide_div_mod_eq] at h
  simp only [bits, Nat.shiftRight_eq_div_pow]
  simp at h
  omega

section
variable {cur n : Nat} {x : W64}

theorem atomAddr_misaligned (h : x.toNat % n ≠ 0) : atomAddr cur x n = .bad := by simp [atomAddr, h]

theorem atomAddr_local (hal : x.toNat % n = 0) (h : x.getLsbD 63 = false) :
    atomAddr cur x n = if x.toNat < 0x200000 then .loc x.toNat else .bad := by
  rw [atomAddr, if_neg (not_not.mpr hal), h, if_neg Bool.false_ne_true]

theorem atomAddr_reserved (hal : x.toNat % n = 0) (h : x.getLsbD 63 = true) (hz : x.toNat / 2 ^ 33 ≠ 2 ^ 30) :
    atomAddr cur x n = .bad := by
  rw [atomAddr, if_neg (not_not.mpr hal), if_pos h, if_pos ((bits_opa_zero h).not.mpr hz)]

theorem atomAddr_opa (hal : x.toNat % n = 0) (h : x.getLsbD 63 = true) (hz : x.toNat / 2 ^ 33 = 2 ^ 30) :
    atomAddr cur x n = if x.toNat % 2 ^ 33 / 2 ^ 22 = cur then
      (if x.toNat % 2 ^ 33 % 2 ^ 22 < 0x200000 then .loc (x.toNat % 2 ^ 33 % 2 ^ 22) else .bad)
      else .remote (x.toNat % 2 ^ 33) := by
  obtain ⟨hall, hlow, hcore⟩ := bits_opa x
  rw [atomAddr, if_neg (not_not.mpr hal), if_pos h, if_neg (not_not.mpr ((bits_opa_zero h).mpr hz)), hall, hlow, hcore]

end

section
variable {c : Ctl} {s : State} (h : s.core.clear c) (op : AtomOp) (w64 : Bool) (a b cx : BitVec 6)
include h

/-- ATOM asks for a place in aq before it judges its address. -/
theorem execAtom_waits (hfull : s.core.dqFull .aq = true) : exec (.atom c op w64 a b cx) s = .next s := by
  show execAtom c op w64 a b cx s = _
  unfold execAtom
  dsimp only
  split
  · exact issue_waits h rfl rfl hfull _
  · exact issue_waits h rfl rfl hfull _
  · exact issue_waits h rfl rfl hfull _

variable (hroom : s.core.dqFull .aq = false)
include hroom

theorem execAtom_bad (hx : atomAddr s.cur (s.core.sreg a) (if w64 then 8 else 4) = .bad) :
    exec (.atom c op w64 a b cx) s = s.faults .a { code := 0x07, faddr := s.core.sreg a } := by
  show execAtom c op w64 a b cx s = _
  simp only [execAtom, hx]
  exact issue_faults h rfl rfl hroom rfl _

theorem execAtom_lent {ad : Nat} {f : Flt} (hx : atomAddr s.cur (s.core.sreg a) (if w64 then 8 else 4) = .loc ad)
    (hf : s.core.shadeFault true ad = some f) : exec (.atom c op w64 a b cx) s = s.faults .a f := by
  show execAtom c op w64 a b cx s = _
  simp only [execAtom, hx]
  exact issue_faults h rfl rfl hroom hf _

theorem execAtom_local {ad : Nat} {w : W64} (hx : atomAddr s.cur (s.core.sreg a) (if w64 then 8 else 4) = .loc ad)
    (hf : s.core.shadeFault true ad = none) (hw : encode (.atom c op w64 a b cx) = some w) :
    exec (.atom c op w64 a b cx) s = s.goesWith (.of .a c ((4 + lentTicks ad) * s.core.sa.div)
      [.atom w op w64 ad (s.core.sreg b) (s.core.sreg cx)]) (·.dqReserve .aq) := by
  show execAtom c op w64 a b cx s = _
  simp only [execAtom, hx]
  refine issue_goesWith h rfl rfl hroom hf rfl rfl ?_ rfl
  rw [hw]
  rfl

theorem execAtom_remote {opa : Nat} (hx : atomAddr s.cur (s.core.sreg a) (if w64 then 8 else 4) = .remote opa) :
    exec (.atom c op w64 a b cx) s = s.goesWith { Plan.of .a c 1 [] with noEntry := true } fun k =>
      { k.dqReserve .aq with cp := { k.cp with
          ratoms := k.cp.ratoms ++ [{ seq := k.cp.nextAtom, opa := opa, op := op, w64 := w64, b := s.core.sreg b,
                                      c := s.core.sreg cx, sq := c.sq, sn := c.sn, sup := s.core.inSup, reply := none }],
          nextAtom := k.cp.nextAtom + 1 } } := by
  show execAtom c op w64 a b cx s = _
  simp only [execAtom, hx]
  exact issue_goesWith h rfl rfl hroom rfl rfl rfl rfl rfl

end

/-! ## The new value (R175) -/

theorem sext_of_lt {w x : Nat} (h : x < 2 ^ w) : sext w x = if 2 ^ (w - 1) ≤ x then (x : Int) - 2 ^ w else x := by
  simp [sext, Nat.mod_eq_of_lt h]

/-- Settles O6: an ATOM waits, faults or issues by its address (`atomAddr`); the new values are those of the operations. -/
theorem atomsAreReservedAndComputed : Obligations.AtomsAreReservedAndComputed := by
  unfold Obligations.AtomsAreReservedAndComputed
  refine ⟨fun c op w64 a b cx s h => ?_, fun w old b c hw hold => ?_⟩
  · intro x opa reserve room aligned own outside
    have hfree : room → s.core.dqFull .aq = false := fun hr => decide_eq_false (Nat.not_le.mpr hr)
    have placed : aligned → ∀ ad, (x.getLsbD 63 = false ∧ x.toNat = ad ∨ own ∧ opa % 2 ^ 22 = ad) → ad < 0x200000 →
        atomAddr s.cur x (if w64 then 8 else 4) = .loc ad := by
      intro hal ad had hlt
      rcases had with ⟨hl, rfl⟩ | ⟨⟨hl, hz, hcur⟩, rfl⟩
      · rw [atomAddr_local hal hl, if_pos hlt]
      · rw [atomAddr_opa hal hl hz, if_pos hcur, if_pos hlt]
    refine ⟨fun hr => ?_, fun hr ho => ?_, fun hr hal hhot ad had hlo hhi => ?_, fun hr hal ad had hlt hhot => ?_,
      fun hr hal hl hz hcur => ?_⟩
    · exact execAtom_waits h op w64 a b cx (decide_eq_true (Nat.not_lt.mp hr))
    · refine execAtom_bad h op w64 a b cx (hfree hr) ?_
      by_cases hal : aligned
      · rcases ho with ho | ⟨hl, hbig⟩ | ⟨hl, hz⟩ | ⟨⟨hl, hz, hcur⟩, hbig⟩
        · exact absurd hal ho
        · rw [atomAddr_local hal hl, if_neg (Nat.not_lt.mpr hbig)]
        · exact atomAddr_reserved hal hl hz
        · rw [atomAddr_opa hal hl hz, if_pos hcur, if_neg (Nat.not_lt.mpr hbig)]
      · exact atomAddr_misaligned hal
    · exact execAtom_lent h op w64 a b cx (hfree hr) (placed hal ad had hhi) (shadeFault_lent hhi hlo hhot)
    · obtain ⟨w, hw⟩ := Option.isSome_iff_exists.mp (encode_isSome (.atom c op w64 a b cx))
      refine ⟨w, hw, ?_⟩
      rw [execAtom_local h op w64 a b cx (hfree hr) (placed hal ad had hlt) (shadeFault_none hlt hhot) hw,
        lentTicks_below hlt, show (if 0x100000 ≤ ad then 8 else 4) = 4 + if 0x100000 ≤ ad then 4 else 0 by split <;> rfl]
      rfl
    · exact execAtom_remote h op w64 a b cx (hfree hr) ((atomAddr_opa hal hl hz).trans (if_neg hcur))
  · have hb : b % 2 ^ w < 2 ^ w := Nat.mod_lt _ (Nat.two_pow_pos w)
    intro b' sg
    have hsb : sext w b' = sg b' := sext_of_lt hb
    have hso : sext w old = sg old := sext_of_lt hold
    refine ⟨rfl, Nat.add_mod_mod .., rfl, rfl, rfl, ?_, ?_, rfl, rfl, rfl, rfl⟩
    · rw [← hsb, ← hso]; rfl
    · rw [← hsb, ← hso]; rfl

end Sys2Proof.Machine
end

section
/-! PROOFS. The statement on deadlines fails for a core that has a restored command to reissue (14 R344). -/

namespace Sys2Proof.Machine

/-- A timed COPY of a restored image, reissued, on the tick of its deadline (09 R234; 14 R344). -/
def reissuedCopy : Cmd := { Core.reset.copyCmd timedCopy .copy 2 1 0 0 with due := some 0 }

/-- The timed COPY posted after it, whose reissue is still to come on this tick. -/
def awaitsReissue : Cmd := { Core.reset.copyCmd timedCopy .copy 2 1 0 0 with id := 1, retime := true }

/-- A running core at step 1 of its tick with these two, not started. -/
def reissuesFirst : State :=
  State.reset.onCore fun c => { c with cp := { c.cp with cmds := [reissuedCopy, awaitsReissue] }, job := some someJob }

/-- The tick goes on with the reissue, which marks nothing late. -/
theorem step_reissuesFirst : step { reissuesFirst with agenda := [.core 0] } = .next (reissuesFirst.reissue awaitsReissue) :=
  step_core (s := { reissuesFirst with agenda := [.core 0] }) (j := someJob) rfl (by decide) rfl rfl rfl

theorem reissue_not_late : (reissuesFirst.reissue awaitsReissue).core.cp.cmds.any (·.late) = false := by decide +kernel

/-- The deadline alone marks the first command late. -/
theorem timedDeadline_marks_late : exec .timedDeadline reissuesFirst = .next (reissuesFirst.onCore fun c =>
    { c with cp := { c.cp with cmds := [{ reissuedCopy with late := true }, awaitsReissue] } }) := rfl

/-- Refutes O58: its clause on the step of a core at a deadline (`now = go`) says nothing of commands of a restored image that are
still to be reissued, and these come first in the tick (R344): the step reissues the second command, where TIMED_DEADLINE marks the
first one late. -/
theorem not_remoteAtomsAndDeadlinesAct : ¬ Obligations.RemoteAtomsAndDeadlinesAct := by
  unfold Obligations.RemoteAtomsAndDeadlinesAct
  intro h
  let r : RAtom := { seq := 0, opa := 0, op := .add, w64 := false, b := 0, c := 0, sq := 0, sn := 0, sup := false, reply := none }
  obtain ⟨-, -, -, -, hnow, -⟩ := h 0 0 r [] (0, 0, 0) reissuedCopy.fresh someJob reissuesFirst (by decide)
  have hdue : ∃ m ∈ reissuesFirst.core.cp.cmds, m.due = some 0 := ⟨reissuedCopy, List.mem_cons_self, rfl⟩
  have hstep := hnow ⟨rfl, ⟨rfl, by decide, rfl⟩, .inl hdue⟩ rfl rfl
  have hsame := step_reissuesFirst.symm.trans (hstep.trans timedDeadline_marks_late)
  injection hsame with hstate
  have hlate := reissue_not_late
  rw [hstate] at hlate
  exact absurd hlate (by decide)

end Sys2Proof.Machine
end

section
/-! PROOFS. Checkpoints, and accesses through the aperture (15 R353, R355, R366). -/

namespace Sys2Proof.Machine

/-! ## Memories copied by granules -/

/-- What the listed bytes of a memory that pass a filter leave, written over another. -/
theorem Mem.get_setAll_filter {src m : Mem} {lo : Nat} (p : Nat → Bool) (hs : Mem.wfFrom lo src = true) (hm : m.wf = true) (a : Nat) :
    (m.setAll (src.filter fun c => p c.1)).get a = if p a = true ∧ src.get a ≠ memInit then src.get a else m.get a := by
  induction src generalizing lo m with
  | nil => simp [Mem.setAll, Mem.get]
  | cons c r ih =>
    obtain ⟨k, b⟩ := c
    obtain ⟨-, hb, hr⟩ := (Mem.wfFrom_cons lo k b r).mp hs
    have below : a ≤ k → Mem.get r a = memInit := fun h => Mem.get_below hr (by omega)
    by_cases hk : p k = true
    · rw [List.filter_cons_of_pos (by exact hk)]
      show (Mem.setAll (m.set k b) _).get a = _
      rw [ih hr (Mem.wf_set k b hm), Mem.get_set k a b hm]
      rcases Nat.lt_trichotomy a k with h | h | h
      · simp [below (by omega), Mem.get, h, show a ≠ k by omega]
      · subst h; simp [below (by omega), Mem.get, hk, hb]
      · simp [Mem.get, show ¬ a < k by omega, show a ≠ k by omega]
    · rw [List.filter_cons_of_neg (by exact hk), ih hr hm]
      rcases Nat.lt_trichotomy a k with h | h | h
      · simp [below (by omega), Mem.get, h]
      · subst h; simp [hk]
      · simp [Mem.get, show ¬ a < k by omega, show a ≠ k by omega]

theorem Mem.get_clear {m : Mem} {lo' : Nat} (lo hi a : Nat) (hm : Mem.wfFrom lo' m = true) :
    (m.clear lo hi).get a = if lo ≤ a ∧ a < hi then memInit else m.get a := by
  induction m generalizing lo' with
  | nil => simp [Mem.clear, Mem.get]
  | cons c r ih =>
    obtain ⟨k, b⟩ := c
    obtain ⟨-, -, hr⟩ := (Mem.wfFrom_cons lo' k b r).mp hm
    have ih := ih hr
    have below : a ≤ k → Mem.get r a = memInit := fun h => Mem.get_below hr (by omega)
    by_cases hk : k < lo ∨ hi ≤ k
    · have : Mem.clear ((k, b) :: r) lo hi = (k, b) :: Mem.clear r lo hi := List.filter_cons_of_pos (by simpa using hk)
      rw [this]
      simp only [Mem.get, ih]
      rcases Nat.lt_trichotomy a k with h | h | h
      · simp [h]
      · subst h; rw [if_neg (by omega), if_pos rfl, if_neg (by omega)]; simp
      · simp [show ¬ a < k by omega, show a ≠ k by omega]
    · have : Mem.clear ((k, b) :: r) lo hi = Mem.clear r lo hi := List.filter_cons_of_neg (by simpa using hk)
      rw [this, ih]
      simp only [Mem.get]
      rcases Nat.lt_trichotomy a k with h | h | h
      · simp [below (by omega), h]
      · subst h; rw [if_pos (by omega), if_pos (by omega)]
      · simp [show ¬ a < k by omega, show a ≠ k by omega]

section
variable (src : Mem) (marks : List Nat)

theorem wf_copyGranule (k : Nat) (x : Mem × List Tag × List Nat) (hx : x.1.wf = true) : (copyGranule src marks k x).1.wf = true :=
  Mem.wf_setAll _ (Mem.wf_clear _ _ hx)

/-- A granule copied reads as its source; other bytes stay (15 R366). -/
theorem get_copyGranule (k : Nat) (x : Mem × List Tag × List Nat) (hs : src.wf = true) (hx : x.1.wf = true) (a : Nat) :
    (copyGranule src marks k x).1.get a = if a / 65536 = k then src.get a else x.1.get a := by
  unfold copyGranule
  dsimp only
  rw [Mem.get_setAll_filter (fun b => decide (65536 * k ≤ 64 * (b / 64)) && decide (64 * (b / 64) < 65536 * k + 65536)) hs
    (Mem.wf_clear _ _ hx), Mem.get_clear _ _ _ hx]
  by_cases h : a / 65536 = k
  · rw [if_pos h, if_pos (show 65536 * k ≤ a ∧ a < 65536 * k + 65536 by omega)]
    by_cases h0 : src.get a = memInit
    · simp [h0]
    · rw [if_pos ⟨by simp; omega, h0⟩]
  · rw [if_neg h, if_neg (show ¬(65536 * k ≤ a ∧ a < 65536 * k + 65536) by omega), if_neg (by simp; omega)]

/-- A granule copied keeps no tag, and no other tag changes. -/
theorem mem_tags_copyGranule (k : Nat) (x : Mem × List Tag × List Nat) (t : Tag) :
    t ∈ (copyGranule src marks k x).2.1 ↔ t ∈ x.2.1 ∧ t.grain / 1024 ≠ k := by
  simp only [copyGranule, List.mem_filter]
  refine and_congr_right fun _ => ?_
  simp
  omega

/-- Several granules copied. -/
theorem get_copyGranules (ks : List Nat) (x : Mem × List Tag × List Nat) (hs : src.wf = true) (hx : x.1.wf = true) (a : Nat) :
    (ks.foldl (fun x k => copyGranule src marks k x) x).1.get a = if a / 65536 ∈ ks then src.get a else x.1.get a := by
  induction ks generalizing x with
  | nil => simp
  | cons k ks ih =>
    rw [List.foldl_cons, ih _ (wf_copyGranule src marks k x hx), get_copyGranule src marks k x hs hx]
    by_cases h1 : a / 65536 ∈ ks <;> by_cases h2 : a / 65536 = k <;> simp [h1, h2]

theorem tags_copyGranules (ks : List Nat) (x : Mem × List Tag × List Nat) (t : Tag) :
    t ∈ (ks.foldl (fun x k => copyGranule src marks k x) x).2.1 ↔ t ∈ x.2.1 ∧ t.grain / 1024 ∉ ks := by
  induction ks generalizing x with
  | nil => simp
  | cons k ks ih => rw [List.foldl_cons, ih, mem_tags_copyGranule, List.mem_cons, not_or, and_assoc]

end

theorem mem_mappableGranules (k : Nat) : k ∈ mappableGranules ↔ k / 2 ^ 20 < 8 ∧ k % 2 ^ 20 < 0x86100 := by
  simp only [mappableGranules, List.mem_flatMap, List.mem_map, List.mem_range]
  constructor
  · rintro ⟨i, hi, j, hj, rfl⟩; omega
  · intro ⟨h1, h2⟩; exact ⟨k / 2 ^ 20, h1, k % 2 ^ 20, h2, by omega⟩

/-! ## Checkpoints -/

theorem State.usedGranules_cache (s : State) (p : Nat → Bool) : ∃ l, s.usedGranules p = { s with cache := l } :=
  State.foldl_cache _ (fun s g => s.touchCache_cache false g) _ s

theorem State.peer_alSet_same (s : State) (n : Nat) (p : Peer) : ({ s with peers := alSet s.peers n p } : State).peer n = p :=
  alGet_alSet_same ..

theorem State.peer_alSet_other (s : State) {n k : Nat} (p : Peer) (h : k ≠ n) :
    ({ s with peers := alSet s.peers n p } : State).peer k = s.peer k :=
  alGet_alSet_other _ _ _ _ _ h.symm

theorem wf_alGet_peer {l : List (Nat × Peer)} (h : ∀ p ∈ l, p.2.mem.wf = true) (n : Nat) {d : Peer} (hd : d.mem.wf = true) :
    (alGet d l n).mem.wf = true := by
  induction l with
  | nil => exact hd
  | cons q r ih =>
    obtain ⟨k, x⟩ := q
    unfold alGet
    split
    · exact h (k, x) List.mem_cons_self
    · exact ih fun p hp => h p (List.mem_cons_of_mem _ hp)

theorem State.Inv.peer {s : State} (h : s.Inv) (n : Nat) : (s.peer n).mem.wf = true := wf_alGet_peer h.2.2.1 n rfl

/-- The whole memory copied to the buddy. -/
def State.AllCopied (s t : State) : Prop :=
  (t.peer s.buddy).mem = s.mem ∧ (t.peer s.buddy).poison = s.poison ∧ (t.peer s.buddy).tags = [] ∧ t.mem = s.mem ∧
    ∀ k, k ≠ s.buddy → t.peer k = s.peer k

/-- The marked granules copied to the buddy. -/
def State.MarkedCopied (s t : State) : Prop :=
  (∀ a, (t.peer s.buddy).mem.get a = if a / 65536 ∈ s.ck.dirty then s.mem.get a else (s.peer s.buddy).mem.get a) ∧
    (∀ x ∈ (t.peer s.buddy).tags, x.grain / 1024 ∉ s.ck.dirty) ∧ t.mem = s.mem ∧ ∀ k, k ≠ s.buddy → t.peer k = s.peer k

/-- The copies of a full checkpoint. -/
theorem State.ckCopy_full (s : State) (h : s.ck.cmd = 1) : s.AllCopied s.ckCopy ∧
    s.ckCopy.ck = { s.ck with logging := true, dirty := [], pages := mappablePages, todo := false } := by
  obtain ⟨l, hl⟩ := s.usedGranules_cache fun _ => true
  unfold State.ckCopy
  simp only [if_pos h, hl]
  exact ⟨⟨congrArg Peer.mem (s.peer_alSet_same ..), congrArg Peer.poison (s.peer_alSet_same ..),
    congrArg Peer.tags (s.peer_alSet_same ..), rfl, fun k hk => s.peer_alSet_other _ hk⟩, trivial⟩

/-- The copies of an incremental checkpoint. -/
theorem State.ckCopy_marked (s : State) (h : s.ck.cmd ≠ 1) : (s.Inv → s.MarkedCopied s.ckCopy) ∧
    s.ckCopy.ck = { s.ck with dirty := [], pages := s.ck.dirty.length, todo := false } := by
  obtain ⟨l, hl⟩ := s.usedGranules_cache s.ck.dirty.contains
  unfold State.ckCopy
  simp only [if_neg h, hl]
  refine ⟨fun hi => ⟨fun a => ?_, fun x hx => ?_, rfl, fun k hk => s.peer_alSet_other _ hk⟩, trivial⟩
  · simp only [State.peer, alGet_alSet_same]
    exact get_copyGranules _ _ _ _ hi.1 (hi.peer s.buddy) a
  · simp only [State.peer, alGet_alSet_same] at hx
    exact ((tags_copyGranules _ _ _ _ x).mp hx).2

theorem State.checkpoint_ignored {s : State} (h : s.ck.busy = true ∨ s.boot.stage.toNat < 3) (cmd : BitVec 2) : s.checkpoint cmd = s := by
  unfold State.checkpoint
  rcases h with h | h
  · simp [h]
  · have : s.boot.verified = false := by simp [Boot.verified]; omega
    simp [this]

/-- A checkpoint that is not ignored. -/
theorem State.checkpoint_eq {s : State} (hb : s.ck.busy = false) (hv : 3 ≤ s.boot.stage.toNat) (cmd : BitVec 2) :
    s.checkpoint cmd = (let s1 := s.ckStart cmd s.ckRefusal 0
      if s.ckRefusal ≠ 0 then s1 else if s.buddyHeld then { s1 with ck := { s1.ck with todo := true } } else s1.ckCopy) := by
  have : s.boot.verified = true := by simpa [Boot.verified] using hv
  unfold State.checkpoint
  simp [hb, this]

/-- One granule received: the bytes, the tags and the marks are copied as to another package. -/
theorem State.receiveGranule_eq (s : State) (src : Mem) (marks : List Nat) (k : Nat) :
    (s.receiveGranule src marks k).mem = (copyGranule src marks k (s.mem, s.tags, s.poison)).1 ∧
      (s.receiveGranule src marks k).peers = s.peers := by
  obtain ⟨l, hl⟩ := s.usedGranules_cache (· = k)
  unfold State.receiveGranule
  simp only [hl, true_and]
  unfold State.markGranule
  split
  · dsimp only; split <;> rfl
  · rfl

/-- Several granules received. -/
theorem State.receiveGranules (src : Mem) (marks : List Nat) (hs : src.wf = true) (ks : List Nat) {s : State} (hm : s.mem.wf = true) :
    let t := ks.foldl (fun s k => s.receiveGranule src marks k) s
    t.peers = s.peers ∧ ∀ a, t.mem.get a = if a / 65536 ∈ ks then src.get a else s.mem.get a := by
  induction ks generalizing s with
  | nil => simp
  | cons k ks ih =>
    obtain ⟨h1, h2⟩ := s.receiveGranule_eq src marks k
    obtain ⟨i1, i2⟩ := ih (s := s.receiveGranule src marks k) (h1 ▸ wf_copyGranule _ _ k _ hm)
    refine ⟨i1.trans h2, fun a => (i2 a).trans ?_⟩
    rw [h1, get_copyGranule _ _ _ _ hs hm]
    by_cases h1 : a / 65536 ∈ ks <;> by_cases h2 : a / 65536 = k <;> simp [h1, h2]

theorem State.checkpoint_refused {s : State} (hb : s.ck.busy = false) (hv : 3 ≤ s.boot.stage.toNat) (hr : s.ckRefusal ≠ 0) (cmd : BitVec 2) :
    s.checkpoint cmd = s.ckStart cmd s.ckRefusal 0 := by
  rw [State.checkpoint_eq hb hv]
  exact if_pos hr

theorem State.checkpoint_waits {s : State} (hb : s.ck.busy = false) (hv : 3 ≤ s.boot.stage.toNat) (hr : s.ckRefusal = 0)
    (hh : s.buddyHeld = true) (cmd : BitVec 2) :
    s.checkpoint cmd = { s.ckStart cmd 0 0 with ck := { (s.ckStart cmd 0 0).ck with todo := true } } := by
  rw [State.checkpoint_eq hb hv, hr]
  exact if_pos hh

theorem State.checkpoint_copies {s : State} (hb : s.ck.busy = false) (hv : 3 ≤ s.boot.stage.toNat) (hr : s.ckRefusal = 0)
    (hh : s.buddyHeld = false) (cmd : BitVec 2) : s.checkpoint cmd = (s.ckStart cmd 0 0).ckCopy := by
  rw [State.checkpoint_eq hb hv, hr]
  simp [hh]

theorem State.ckCopy_dirty (s : State) : s.ckCopy.ck.dirty = [] := by
  by_cases h : s.ck.cmd = 1
  · rw [(s.ckCopy_full h).2]
  · rw [(s.ckCopy_marked h).2]

section
variable {s : State} (status : Nat)

/-- The checkpoint cannot be completed: the move says so, or a link went down under way. -/
abbrev State.ckDown (s : State) (status : Nat) : Prop := status = 3 ∨ s.ck.todo = true ∧ s.buddyLinked = false

/-- The end of a checkpoint, of which no copy is to be made any more. -/
def State.ckEnds (s : State) (status : Nat) (t : State) : Out :=
  let st : BitVec 8 := if s.ck.outcome ≠ 0 then s.ck.outcome else if s.ckDown status then 3 else 0
  .next (({ t with ck := { t.ck with busy := false, stat := st, outcome := 0, todo := false } } : State).event 0 6 st.toNat 0
    (BitVec.ofNat 64 t.ck.pages) 0)

/-- The end as the model computes it. -/
theorem execCheckpointEnd_eq (hb : s.ck.busy = true) : execCheckpointEnd status s =
    if s.ck.todo = true ∧ ¬s.ckDown status ∧ s.buddyHeld = true then .next s
    else s.ckEnds status (if s.ck.todo = true ∧ ¬s.ckDown status then s.ckCopy else s) := by
  have hd : (decide (status = 3) || (s.ck.todo && !s.buddyLinked)) = decide (s.ckDown status) := by
    simp only [State.ckDown, Bool.decide_or, Bool.decide_and, Bool.decide_eq_true]
    cases s.buddyLinked <;> rfl
  unfold execCheckpointEnd State.ckEnds
  simp only [hd, hb, decide_eq_true_eq]
  by_cases hdown : s.ckDown status
  · simp only [hdown, decide_true, Bool.not_true, Bool.and_false, Bool.false_and, Bool.or_false, Bool.false_eq_true, if_false, not_true,
      false_and, and_false, if_true]
  · rcases Bool.eq_false_or_eq_true s.ck.todo with ht | ht <;> rcases Bool.eq_false_or_eq_true s.buddyHeld with hh | hh <;>
      simp only [ht, hh, hdown, decide_false, Bool.not_true, Bool.not_false, Bool.and_self, Bool.and_false, Bool.false_and, Bool.or_false,
        Bool.or_true, Bool.false_eq_true, if_false, if_true, not_false_eq_true, false_and, and_false, and_self]

theorem execCheckpointEnd_stays (hb : s.ck.busy = true) (h : s.ck.todo = false ∨ s.ckDown status) :
    execCheckpointEnd status s = s.ckEnds status s := by
  have hno : ¬(s.ck.todo = true ∧ ¬s.ckDown status) := by
    rintro ⟨ht, hd⟩
    exact h.elim (fun h => by simp [ht] at h) hd
  rw [execCheckpointEnd_eq status hb, if_neg fun h => hno ⟨h.1, h.2.1⟩, if_neg hno]

theorem execCheckpointEnd_waits (hb : s.ck.busy = true) (ht : s.ck.todo = true) (hd : ¬s.ckDown status) (hh : s.buddyHeld = true) :
    execCheckpointEnd status s = .next s := by
  rw [execCheckpointEnd_eq status hb, if_pos ⟨ht, hd, hh⟩]

theorem execCheckpointEnd_copies (hb : s.ck.busy = true) (ht : s.ck.todo = true) (hd : ¬s.ckDown status) (hh : s.buddyHeld = false) :
    execCheckpointEnd status s = s.ckEnds status s.ckCopy := by
  rw [execCheckpointEnd_eq status hb, if_neg (by simp [hh]), if_pos ⟨ht, hd⟩]

end

/-! ## What another package's host does -/

theorem execRegisterWrite_peer (w off : Nat) (v : W64) (s : State) :
    execRegisterWrite (16 + w) off 8 v s = .next (s.peerWrite w off v) := by
  rw [execRegisterWrite, if_pos (by omega), Nat.add_sub_cancel_left]

/-- All four -z links are up, in a domain that reaches that way. -/
abbrev State.wardLinked (s : State) : Prop :=
  domZ s.boot.trained ≠ 1 ∧ ∀ d < 4, (vget s.links (6 * d + 5) Link.reset).state = 2

theorem State.receive_ignored {s : State} (h : s.ck.recv = false) (n : Nat) (full : Bool) : s.receive n full = s := by
  unfold State.receive
  simp [h]

/-- A full checkpoint of the package below, received over links that are up. -/
theorem State.receive_ward {s : State} (hr : s.ck.recv = true) (hup : s.wardLinked) :
    s.receive s.ward true = mappableGranules.foldl (fun t k => t.receiveGranule (s.peer s.ward).mem (s.peer s.ward).poison k) s := by
  obtain ⟨hz, hl⟩ := hup
  unfold State.receive
  rw [if_neg (by simpa [hr, hz] using hl)]
  rfl

theorem State.peerWrite_recv (s : State) (n : Nat) (v : W64) :
    s.peerWrite n 0x6010 v = { s with peers := alSet s.peers n { s.peer n with recv := v.getLsbD 0 } } := rfl

theorem State.peerWrite_full (s : State) (n : Nat) : s.peerWrite n 0x6000 1 = s.receive n true := by
  unfold State.peerWrite
  rw [if_neg (by decide), if_neg (by decide), if_pos rfl, if_pos (by decide)]

/-- An order of CKCMD reaches this device only where it receives. -/
theorem State.peerWrite_ignored {s : State} (h : s.ck.recv = false) (n : Nat) (v : W64) : s.peerWrite n 0x6000 v = s := by
  unfold State.peerWrite
  rw [if_neg (by decide), if_neg (by decide), if_pos rfl, State.receive_ignored h, State.receive_ignored h, ite_self, ite_self]

/-! ## The grains of an access -/

theorem eraseDups_sublist {α : Type} [BEq α] (l : List α) : l.eraseDups.Sublist l := by
  induction h : l.length using Nat.strong_induction_on generalizing l with
  | _ n ih =>
    cases l with
    | nil => simp
    | cons a as =>
      rw [List.eraseDups_cons]
      have hlen := List.length_filter_le (fun b => !b == a) as
      exact ((ih _ (by rw [← h, List.length_cons]; omega) _ rfl).trans List.filter_sublist).cons_cons a

theorem mem_grainsOf {a n g : Nat} (hn : 1 ≤ n) : g ∈ grainsOf a n ↔ a / 64 ≤ g ∧ g ≤ (a + n - 1) / 64 := by
  simp only [grainsOf, List.mem_eraseDups, List.mem_map, List.mem_range]
  constructor
  · rintro ⟨i, hi, rfl⟩; omega
  · intro ⟨h1, h2⟩; exact ⟨max a (64 * g) - a, by omega, by omega⟩

theorem mem_grainsAt {a n g : Nat} (hn : 1 ≤ n) : g ∈ grainsAt a n ↔ a / 64 ≤ g ∧ g ≤ (a + n - 1) / 64 := by
  rw [grainsAt, if_neg (by omega)]
  simp only [List.mem_map, List.mem_range]
  constructor
  · rintro ⟨i, hi, rfl⟩; omega
  · intro ⟨h1, h2⟩; exact ⟨g - a / 64, by omega, by omega⟩

theorem grainsOf_rising (a n : Nat) : (grainsOf a n).Pairwise (· ≤ ·) := by
  refine List.Pairwise.sublist (eraseDups_sublist _) (List.pairwise_map.mpr ?_)
  exact List.pairwise_le_range.imp fun h => by omega

/-- The first finding of a rising list. -/
theorem findSome?_of_rising {β : Type} {l : List Nat} {f : Nat → Option β} {g : Nat} {b : β} (hl : l.Pairwise (· ≤ ·)) (hg : g ∈ l)
    (hf : f g = some b) (before : ∀ h ∈ l, h < g → f h = none) : l.findSome? f = some b := by
  induction l with
  | nil => simp at hg
  | cons x xs ih =>
    obtain ⟨hx, hxs⟩ := List.pairwise_cons.mp hl
    by_cases hxg : x = g
    · simp [hxg, hf]
    · have hg' : g ∈ xs := (List.mem_cons.mp hg).resolve_left (Ne.symm hxg)
      have hlt : x < g := lt_of_le_of_ne (hx g hg') hxg
      rw [List.findSome?_cons, before x List.mem_cons_self hlt]
      exact ih hxs hg' fun h hh => before h (List.mem_cons_of_mem _ hh)

theorem find?_failing_none {l : List (BitVec 8)} (h : ∀ e ∈ l, e = 0) : l.find? (· ≠ 0) = none :=
  List.find?_eq_none.mpr fun e he => by simpa using h e he

section
variable {a n : Nat} (hn : 1 ≤ n) (stat : Nat → List (BitVec 8))
include hn

/-- No grain of an access fails. -/
theorem firstBad_none (h : ∀ g, a / 64 ≤ g → g ≤ (a + n - 1) / 64 → ∀ e ∈ stat g, e = 0) :
    firstBad ((grainsOf a n).map fun g => (g, stat g)) = none := by
  rw [firstBad, List.findSome?_eq_none_iff]
  intro p hp
  obtain ⟨g, hg, rfl⟩ := List.mem_map.mp hp
  obtain ⟨h1, h2⟩ := (mem_grainsOf hn).mp hg
  rw [find?_failing_none (h g h1 h2)]
  rfl

/-- The first grain of an access that fails. -/
theorem firstBad_some {g : Nat} {e : BitVec 8} (h1 : a / 64 ≤ g) (h2 : g ≤ (a + n - 1) / 64)
    (before : ∀ h, a / 64 ≤ h → h < g → ∀ e ∈ stat h, e = 0) (he : (stat g).find? (· ≠ 0) = some e) :
    firstBad ((grainsOf a n).map fun g => (g, stat g)) = some (g, e) := by
  rw [firstBad, List.findSome?_map]
  refine findSome?_of_rising (grainsOf_rising a n) ((mem_grainsOf hn).mpr ⟨h1, h2⟩) ?_ fun h hh hlt => ?_
  · simp only [Function.comp_apply, he, Option.map_some]
  · simp only [Function.comp_apply, find?_failing_none (before h ((mem_grainsOf hn).mp hh).1 hlt), Option.map_none]

theorem grainsAt_any (held : Nat → Bool) :
    (grainsAt a n).any held = true ↔ ∃ g, a / 64 ≤ g ∧ g ≤ (a + n - 1) / 64 ∧ held g = true := by
  rw [List.any_eq_true]
  exact exists_congr fun g => by rw [mem_grainsAt hn, and_assoc]

end

/-- Looking up a key in a list of values by their keys. -/
theorem find?_map_key {β : Type} (f : Nat → β) {l : List Nat} {g : Nat} (hg : g ∈ l) :
    (l.map fun g => (g, f g)).find? (fun p => p.1 = g) = some (g, f g) := by
  induction l with
  | nil => simp at hg
  | cons x xs ih =>
    by_cases h : x = g
    · simp [h]
    · rw [List.map_cons, List.find?_cons_of_neg (by simpa using h)]
      exact ih ((List.mem_cons.mp hg).resolve_left (Ne.symm h))

/-! ## Accesses through the aperture -/

/-- Nothing but the cache of the atomic units and the counts of grains moved for a tenant differs. -/
def State.Moved (s t : State) : Prop :=
  ∃ c m, t = { s with cache := c, ten := m } ∧ ∀ i < 16, ∃ k, vget m i .reset = { vget s.ten i .reset with moved := k }

theorem State.moved_afterReads (s : State) (l : Vector (List Nat) 4) (m : Fin 16 → Vector Nat 8) : s.Moved (s.afterReads l m) :=
  ⟨l, _, rfl, fun i hi => ⟨m ⟨i, hi⟩, by simp [vget, hi]⟩⟩

theorem State.moved_cache (s : State) (l : Vector (List Nat) 4) : s.Moved { s with cache := l } :=
  ⟨l, s.ten, rfl, fun i _ => ⟨(vget s.ten i .reset).moved, rfl⟩⟩

theorem State.moved_usedRange (s : State) (c : Ctx) (space win a n : Nat) : s.Moved (s.usedRange c space win a n) := by
  obtain ⟨l, m, h⟩ := s.usedRange_reads c space win a n
  rw [h]
  exact s.moved_afterReads l m

/-- What an atomic brings into the cache. -/
theorem State.usedPath_atomTouch_cache (s : State) (x : Grain) : ∃ l, (s.usedPath x).atomTouch x = { s with cache := l } := by
  obtain ⟨l, hl⟩ := s.usedPath_cache x
  unfold State.atomTouch
  split
  · obtain ⟨k, hk⟩ := (s.usedPath x).touchCache_cache true x.num
    exact ⟨k, by rw [hk, hl]⟩
  · exact ⟨l, hl⟩

theorem toNat_ofNat_fn {fn : Nat} (h : fn < 16) : (BitVec.ofNat 4 fn).toNat = fn := by
  simp only [BitVec.toNat_ofNat]; omega

theorem inAperture_iff {off n : Nat} : inAperture off n = true ↔ 1 ≤ n ∧ off + n ≤ 2 ^ 36 := by simp [inAperture]

/-- Bytes with their places, written one by one, are the bytes written from an address on. -/
theorem setAll_zipIdx (m : Mem) (a i : Nat) (l : List Byte) :
    m.setAll ((l.zipIdx i).map fun p => (a + p.2, p.1)) = m.setN (a + i) l := by
  induction l generalizing m i with
  | nil => rfl
  | cons b bs ih => exact ih (m.set (a + i) b) (i + 1)

/-- The bytes of a grain from a place on, written. -/
theorem putBytes_from (m : Mem) (g k : Nat) (l : List Byte) :
    putBytes m g (l.zipIdx.map fun p => (k + p.2, p.1)) = m.setN (64 * g + k) l := by
  rw [putBytes, List.map_map]
  refine Eq.trans ?_ (setAll_zipIdx m (64 * g + k) 0 l)
  congr 1
  exact List.map_congr_left fun p _ => by simp [Nat.add_assoc]

theorem State.touchCache_same (s : State) (e : Bool) (g : Nat) : (s.touchCache e g).mem = s.mem ∧ (s.touchCache e g).host = s.host := by
  obtain ⟨l, hl⟩ := s.touchCache_cache e g
  simp [hl]

theorem State.markGranule_same (s : State) (g : Nat) : (s.markGranule g).mem = s.mem ∧ (s.markGranule g).host = s.host := by
  unfold State.markGranule
  split
  · dsimp only; split <;> exact ⟨rfl, rfl⟩
  · exact ⟨rfl, rfl⟩

theorem State.setTag_same (s : State) (g : Nat) (w : BitVec 12) (r : BitVec 20) :
    (s.setTag g w r).mem = s.mem ∧ (s.setTag g w r).host = s.host := by
  unfold State.setTag
  dsimp only
  split <;> exact ⟨rfl, rfl⟩

/-- A write of a grain of device memory puts its bytes there, and touches no host memory. -/
theorem State.devWrite_mem (s : State) (g : Nat) (bs : List (Nat × Byte)) (w : BitVec 12) (r : BitVec 20) :
    (s.devWrite g bs w r).mem = putBytes s.mem g bs ∧ (s.devWrite g bs w r).host = s.host := by
  obtain ⟨c1, c2⟩ := s.touchCache_same false g
  obtain ⟨m1, m2⟩ := (s.touchCache false g).markGranule_same g
  unfold State.devWrite
  dsimp only
  constructor
  · rw [(State.setTag_same ..).1, m1, c1]
  · rw [(State.setTag_same ..).2, m2, c2]

theorem State.moves_same (s : State) (t : BitVec 4) (h : Home) (g : Nat) :
    (s.moves t h g).mem = s.mem ∧ (s.moves t h g).host = s.host := by
  obtain ⟨m, hm⟩ := s.moves_reads t h g
  rw [hm]
  exact ⟨rfl, rfl⟩

section
variable {fn off n : Nat} {s : State} (hfn : fn < 16) (hn : 1 ≤ n) (hoff : off + n ≤ 2 ^ 36)

/-- Where an access of the aperture lies (R353). -/
abbrev State.apAt (s : State) (fn off : Nat) : Nat := (vget s.ten fn .reset).apbase.toNat + off

include hfn in
theorem apAddr_eq (s : State) (off : Nat) : (s.tenant (BitVec.ofNat 4 fn)).apAddr off = s.apAt fn off := by
  unfold State.tenant
  rw [toNat_ofNat_fn hfn]
  rfl

/-- A grain of the aperture, as an access of a function finds it. -/
abbrev State.apGrain (s : State) (fn : Nat) (acc : Acc) (g : Nat) : Grain := s.grainOf (s.tenantCtx (BitVec.ofNat 4 fn) 129) acc 2 0 g none

include hfn hn in
/-- A read, or a write, meets a link in key hold where one of its grains does. -/
theorem apHeld_iff : s.apHeld (BitVec.ofNat 4 fn) off n = true ↔
    ∃ g, s.apAt fn off / 64 ≤ g ∧ g ≤ (s.apAt fn off + n - 1) / 64 ∧ (s.apGrain fn .read g).held = true := by
  unfold State.apHeld State.rangeHeld
  rw [apAddr_eq hfn]
  exact grainsAt_any hn _

include hfn hn in
theorem apWriteHeld_iff : s.apWriteHeld (BitVec.ofNat 4 fn) off n = true ↔
    ∃ g, s.apAt fn off / 64 ≤ g ∧ g ≤ (s.apAt fn off + n - 1) / 64 ∧ (s.apGrain fn .write g).held = true := by
  unfold State.apWriteHeld State.writeHeld
  rw [apAddr_eq hfn]
  exact grainsAt_any hn _

/-- An access that meets a link in key hold waits (R362). -/
theorem execApertureRead_held (hh : s.apHeld (BitVec.ofNat 4 fn) off n = true) : execApertureRead fn off n s = .next s := by
  unfold execApertureRead onFn
  simp only [hh, Bool.or_true, if_true, ite_self]

include hfn hn hoff

/-- A read that no link holds, none of whose grains fails. -/
theorem execApertureRead_ok (hh : s.apHeld (BitVec.ofNat 4 fn) off n = false)
    (h : ∀ g, s.apAt fn off / 64 ≤ g → g ≤ (s.apAt fn off + n - 1) / 64 → ∀ p ∈ s.readGrain (s.apGrain fn .read g), p.1 = 0) :
    execApertureRead fn off n s = .next ((s.usedRange (s.apCtx (BitVec.ofNat 4 fn)) 2 0 (s.apAt fn off) n).answers
      ((List.range n).map fun i => ((s.readGrain (s.apGrain fn .read ((s.apAt fn off + i) / 64))).getD ((s.apAt fn off + i) % 64) (0, 0)).2)
      false) := by
  have hbad := firstBad_none (a := s.apAt fn off) hn (fun g => (s.readGrain (s.apGrain fn .read g)).map (·.1)) fun g h1 h2 e he => by
    obtain ⟨p, hp, rfl⟩ := List.mem_map.mp he
    exact h g h1 h2 p hp
  unfold execApertureRead onFn
  simp only [apAddr_eq hfn, hfn, if_true, inAperture_iff.mpr ⟨hn, hoff⟩, hh, List.map_map]
  erw [hbad]
  refine congrArg (fun l => (.next (State.answers _ l false) : Out)) (List.map_congr_left fun i hi => ?_)
  have hi := List.mem_range.mp hi
  erw [find?_map_key _ ((mem_grainsOf hn).mpr ⟨by omega, by omega⟩)]
  rfl

/-- A read that no link holds and that fails: a fault event names the first failing grain. -/
theorem execApertureRead_fails (hh : s.apHeld (BitVec.ofNat 4 fn) off n = false) {g : Nat} {p : BitVec 8 × Byte}
    (h1 : s.apAt fn off / 64 ≤ g) (h2 : g ≤ (s.apAt fn off + n - 1) / 64)
    (before : ∀ h, s.apAt fn off / 64 ≤ h → h < g → ∀ q ∈ s.readGrain (s.apGrain fn .read h), q.1 = 0)
    (hp : (s.readGrain (s.apGrain fn .read g)).find? (fun q => q.1 ≠ 0) = some p) :
    execApertureRead fn off n s = .next (((s.usedRange (s.apCtx (BitVec.ofNat 4 fn)) 2 0 (s.apAt fn off) n).apFault
      (BitVec.ofNat 4 fn) p.1 g).answers (List.replicate n 255) (p.1 = 0x0C)) := by
  have hbad := firstBad_some (a := s.apAt fn off) hn (fun g => (s.readGrain (s.apGrain fn .read g)).map (·.1)) (e := p.1) h1 h2
    (fun h hh hlt e he => by
      obtain ⟨q, hq, rfl⟩ := List.mem_map.mp he
      exact before h hh hlt q hq)
    (by rw [List.find?_map]; exact congrArg (Option.map (·.1)) hp)
  unfold execApertureRead onFn
  simp only [apAddr_eq hfn, hfn, if_true, inAperture_iff.mpr ⟨hn, hoff⟩, hh, List.map_map]
  erw [hbad]
  rfl

end

section
variable {fn off : Nat} {bytes : List Byte} {s : State}

theorem execApertureWrite_held (hh : s.apWriteHeld (BitVec.ofNat 4 fn) off bytes.length = true) : execApertureWrite fn off bytes s = .next s := by
  unfold execApertureWrite onFn
  simp only [hh, Bool.or_true, if_true, ite_self]

variable (hfn : fn < 16) (hn : 1 ≤ bytes.length) (hoff : off + bytes.length ≤ 2 ^ 36)
  (hh : s.apWriteHeld (BitVec.ofNat 4 fn) off bytes.length = false)
include hfn hn hoff hh

/-- A write that no link holds, none of whose grains fails. -/
theorem execApertureWrite_ok {t : State}
    (h : ∀ g, s.apAt fn off / 64 ≤ g → g ≤ (s.apAt fn off + bytes.length - 1) / 64 → ∀ e ∈ (s.apGrain fn .write g).stat, e = 0)
    (ht : s.virtWrite (s.tenantCtx (BitVec.ofNat 4 fn) 129) (s.apAt fn off) bytes = .ok t) :
    execApertureWrite fn off bytes s = .next t := by
  have hbad := firstBad_none (a := s.apAt fn off) hn (fun g => (s.apGrain fn .write g).stat) h
  unfold execApertureWrite onFn
  simp only [apAddr_eq hfn, hfn, if_true, inAperture_iff.mpr ⟨hn, hoff⟩, hh]
  erw [hbad, ht]
  rfl

theorem execApertureWrite_fails {g : Nat} {e : BitVec 8} (h1 : s.apAt fn off / 64 ≤ g) (h2 : g ≤ (s.apAt fn off + bytes.length - 1) / 64)
    (before : ∀ h, s.apAt fn off / 64 ≤ h → h < g → ∀ q ∈ (s.apGrain fn .write h).stat, q = 0)
    (he : (s.apGrain fn .write g).stat.find? (· ≠ 0) = some e) :
    execApertureWrite fn off bytes s = .next (s.apFault (BitVec.ofNat 4 fn) e g) := by
  have hbad := firstBad_some (a := s.apAt fn off) hn (fun g => (s.apGrain fn .write g).stat) h1 h2 before he
  unfold execApertureWrite onFn
  simp only [apAddr_eq hfn, hfn, if_true, inAperture_iff.mpr ⟨hn, hoff⟩, hh]
  erw [hbad]
  rfl

end

section
variable {fn off : Nat} {op : AtomOp} {w64 : Bool} {b cmp : W64} {s : State}

/-- The bytes that an atomic of the aperture finds. -/
abbrev State.apOld (s : State) (fn off : Nat) (w64 : Bool) : List (BitVec 8 × Byte) :=
  ((s.readGrain (s.apGrain fn .atomic (s.apAt fn off / 64))).drop (s.apAt fn off % 64)).take (if w64 then 8 else 4)

/-- The machine as an atomic of the aperture leaves it where it writes nothing: its grain is cached (07 R182). -/
abbrev State.apTouched (s : State) (fn off : Nat) : State :=
  (s.usedPath (s.apGrain fn .atomic (s.apAt fn off / 64))).atomTouch (s.apGrain fn .atomic (s.apAt fn off / 64))

theorem State.apTouched_cache (s : State) (fn off : Nat) : ∃ l, s.apTouched fn off = { s with cache := l } :=
  s.usedPath_atomTouch_cache _

theorem State.moved_apTouched (s : State) (fn off : Nat) : s.Moved (s.apTouched fn off) := by
  obtain ⟨l, hl⟩ := s.apTouched_cache fn off
  rw [hl]
  exact s.moved_cache l

/-- The word that an atomic of the aperture writes, from the bytes it finds (07 R175). -/
abbrev State.apNew (s : State) (fn off : Nat) (op : AtomOp) (w64 : Bool) (b cmp : W64) : List Byte :=
  leBytes (if w64 then 8 else 4)
    (atomNew op (8 * if w64 then 8 else 4) (leNat ((s.apOld fn off w64).map (·.2))) b.toNat cmp.toNat)

/-- The machine after an atomic of the aperture has written its word. -/
def State.apAtomic (s : State) (fn off : Nat) (op : AtomOp) (w64 : Bool) (b cmp : W64) : State :=
  let x := s.apGrain fn .atomic (s.apAt fn off / 64)
  let bs := (s.apNew fn off op w64 b cmp).zipIdx.map fun p => (s.apAt fn off % 64 + p.2, p.1)
  (((s.apTouched fn off).writeGrain x.home x.num bs 0xFFF 0).moves (BitVec.ofNat 4 fn) x.home x.num).setDirty x.leaf

theorem hostOp_of (h : op = .swap ∨ op = .add ∨ op = .cas) : hostOp op = true := by rcases h with rfl | rfl | rfl <;> rfl

variable (hfn : fn < 16)
include hfn

theorem execApertureAtomic_held (hh : (s.apGrain fn .atomic (s.apAt fn off / 64)).held = true) :
    execApertureAtomic fn off op w64 b cmp s = .next s := by
  unfold execApertureAtomic onFn
  simp only [apAddr_eq hfn]
  erw [hh]
  simp only [Bool.or_true, if_true, ite_self]

variable (hoff : off + (if w64 then 8 else 4) ≤ 2 ^ 36) (hal : off % (if w64 then 8 else 4) = 0)
  (hop : op = .swap ∨ op = .add ∨ op = .cas) (hh : (s.apGrain fn .atomic (s.apAt fn off / 64)).held = false)
include hoff hal hop hh

/-- An atomic that no link holds, none of whose bytes fails. -/
theorem execApertureAtomic_ok (h : ∀ p ∈ s.apOld fn off w64, p.1 = 0) :
    execApertureAtomic fn off op w64 b cmp s = .next ((s.apAtomic fn off op w64 b cmp).answers
      (leBytes (if w64 then 8 else 4) (leNat ((s.apOld fn off w64).map (·.2)))) false) := by
  have hbad : firstBad [(s.apAt fn off / 64, (s.apOld fn off w64).map (·.1))] = none := by
    have hz : ((s.apOld fn off w64).map (·.1)).find? (· ≠ 0) = none := find?_failing_none fun e he => by
      obtain ⟨p, hp, rfl⟩ := List.mem_map.mp he
      exact h p hp
    simp only [firstBad, List.findSome?_cons, hz, Option.map_none, List.findSome?_nil]
  unfold execApertureAtomic onFn
  simp only [apAddr_eq hfn, hfn, if_true, inAperture_iff.mpr ⟨by split <;> decide, hoff⟩, hal, hostOp_of hop]
  erw [hh, hbad]
  rfl

theorem execApertureAtomic_fails {p : BitVec 8 × Byte} (h : (s.apOld fn off w64).find? (fun q => q.1 ≠ 0) = some p) :
    execApertureAtomic fn off op w64 b cmp s = .next (((s.apTouched fn off).apFault (BitVec.ofNat 4 fn) p.1 (s.apAt fn off / 64)).answers
      (List.replicate (if w64 then 8 else 4) 255) (p.1 = 0x0C)) := by
  have hbad : firstBad [(s.apAt fn off / 64, (s.apOld fn off w64).map (·.1))] = some (s.apAt fn off / 64, p.1) := by
    have hz : ((s.apOld fn off w64).map (·.1)).find? (· ≠ 0) = some p.1 := by
      rw [List.find?_map]; exact congrArg (Option.map (·.1)) h
    simp only [firstBad, List.findSome?_cons, hz, Option.map_some]
  unfold execApertureAtomic onFn
  simp only [apAddr_eq hfn, hfn, if_true, inAperture_iff.mpr ⟨by split <;> decide, hoff⟩, hal, hostOp_of hop]
  erw [hh, hbad]
  rfl

end

/-- The bytes that an atomic's write leaves, at the home of its grain. -/
theorem State.wordWritten {s t : State} (hs : s.Inv) (hm : t.mem = s.mem) (hh : t.host = s.host) (tn : BitVec 4) (h : Home) (g k : Nat)
    (l : List Byte) {i : Nat} (hi : i < l.length) :
    let u := (t.writeGrain h g (l.zipIdx.map fun p => (k + p.2, p.1)) 0xFFF 0).moves tn h g
    (h = .host → u.host.get (64 * g + k + i) = l.getD i 0) ∧ (h = .dev → u.mem.get (64 * g + k + i) = l.getD i 0) := by
  have hget : ∀ m : Mem, m.wf = true → (putBytes m g (l.zipIdx.map fun p => (k + p.2, p.1))).get (64 * g + k + i) = l.getD i 0 := by
    intro m hw
    rw [putBytes_from, Mem.get_setN _ _ _ hw, if_pos (by omega), Nat.add_sub_cancel_left]
  refine ⟨fun e => ?_, fun e => ?_⟩
  · subst e
    rw [(State.moves_same ..).2]
    exact (congrArg (fun m => (putBytes m g _).get _) hh).trans (hget _ hs.2.1)
  · subst e
    rw [(State.moves_same ..).1, show t.writeGrain .dev g _ 0xFFF 0 = t.devWrite g _ 0xFFF 0 from rfl, (State.devWrite_mem ..).1, hm]
    exact hget _ hs.1

/-- The word of an atomic that sets no D bit stands at the home of its grain. -/
theorem State.apAtomic_word {s : State} (hs : s.Inv) {fn off : Nat} (op : AtomOp) (w64 : Bool) (b cmp : W64)
    (hl : (s.apGrain fn .atomic (s.apAt fn off / 64)).leaf = none) {i : Nat} (hi : i < if w64 then 8 else 4) :
    let t := s.apAtomic fn off op w64 b cmp
    let x := s.apGrain fn .atomic (s.apAt fn off / 64)
    let new := s.apNew fn off op w64 b cmp
    (x.home = .host → t.host.get (64 * x.num + s.apAt fn off % 64 + i) = new.getD i 0) ∧
      (x.home = .dev → t.mem.get (64 * x.num + s.apAt fn off % 64 + i) = new.getD i 0) := by
  obtain ⟨l, ht⟩ := s.apTouched_cache fn off
  unfold State.apAtomic
  simp only [hl, State.setDirty]
  exact State.wordWritten hs (by rw [ht]) (by rw [ht]) _ _ _ _ _ (by rwa [leBytes_length])

/-! ## The statement -/

/-- Settles O49: an access through the aperture goes by the grains it touches, the first failing one naming its fault event; a
checkpoint copies granule by granule (15 R353, R355, R366). -/
theorem apertureAndCheckpoints : Obligations.ApertureAndCheckpoints := by
  unfold Obligations.ApertureAndCheckpoints
  refine ⟨?aperture, ?checkpoints⟩
  case aperture =>
    intro fn off n bytes op w64 b cmp s hfn hn hlen hoff
    subst hlen
    refine ⟨fun h => ?_, fun h => ?_, fun hk hal hx => ?_, fun h hz => ?_, fun h g p h1 h2 hz hp => ?_, fun h hz t ht => ?_,
      fun h g e h1 h2 hz he => ?_, fun hk hal hx hop => ⟨fun hz => ?_, fun p hp => ?_⟩⟩
    · exact execApertureRead_held ((apHeld_iff hfn hn).mpr h)
    · exact execApertureWrite_held ((apWriteHeld_iff hfn hn).mpr h)
    · exact execApertureAtomic_held hfn hx
    · exact ⟨_, s.moved_usedRange _ 2 0 _ _, execApertureRead_ok hfn hn hoff (Bool.eq_false_iff.mpr (mt (apHeld_iff hfn hn).mp h)) hz⟩
    · exact ⟨_, s.moved_usedRange _ 2 0 _ _, execApertureRead_fails hfn hn hoff (Bool.eq_false_iff.mpr (mt (apHeld_iff hfn hn).mp h)) h1 h2 hz hp⟩
    · exact execApertureWrite_ok hfn hn hoff (Bool.eq_false_iff.mpr (mt (apWriteHeld_iff hfn hn).mp h)) hz ht
    · exact execApertureWrite_fails hfn hn hoff (Bool.eq_false_iff.mpr (mt (apWriteHeld_iff hfn hn).mp h)) h1 h2 hz he
    · exact ⟨_, execApertureAtomic_ok hfn (hk ▸ hoff) hal hop hx hz, rfl, fun hs hleaf i hi => State.apAtomic_word hs op w64 b cmp hleaf (hk ▸ hi)⟩
    · exact ⟨_, s.moved_apTouched fn off, execApertureAtomic_fails hfn (hk ▸ hoff) hal hop hx hp⟩
  case checkpoints =>
    intro status w v s
    have hr' : s.ckRefusal = if s.quiet = false then 1 else if s.buddyLinked = false then 3 else if (s.peer s.buddy).recv = false then 2 else 0 := by
      unfold State.ckRefusal
      simp only [Bool.not_eq_true']
    refine ⟨fun h => ⟨?_, ?_⟩, fun hb hv hr => ⟨?_, ?_⟩, fun hb hv hr hh => ⟨?_, ?_⟩, fun hb hv hr hh => ?_, fun hb hv hr hh => ?_,
      fun hb h => ?_, fun hb ht hd hh => ?_, fun hb ht hd hh => ?_, fun hr => ?_, ?_, fun hr hup hs => ?_⟩
    · exact congrArg Host.Outcome.next (State.checkpoint_ignored h 1)
    · exact congrArg Host.Outcome.next (State.checkpoint_ignored h 2)
    · exact congrArg Host.Outcome.next (State.checkpoint_refused hb hv (hr' ▸ hr) 1 |>.trans (by rw [hr']; rfl))
    · exact congrArg Host.Outcome.next (State.checkpoint_refused hb hv (hr' ▸ hr) 2 |>.trans (by rw [hr']; rfl))
    · exact congrArg Host.Outcome.next (State.checkpoint_waits hb hv (hr'.trans hr) hh 1)
    · exact congrArg Host.Outcome.next (State.checkpoint_waits hb hv (hr'.trans hr) hh 2)
    · obtain ⟨hall, hck⟩ := (s.ckStart 1 0 0).ckCopy_full rfl
      exact ⟨_, congrArg Host.Outcome.next (State.checkpoint_copies hb hv (hr'.trans hr) hh 1), hall, hck⟩
    · obtain ⟨hmarked, hck⟩ := (s.ckStart 2 0 0).ckCopy_marked (show (2 : BitVec 2) ≠ 1 by decide)
      exact ⟨_, congrArg Host.Outcome.next (State.checkpoint_copies hb hv (hr'.trans hr) hh 2), hmarked, hck⟩
    · exact execCheckpointEnd_stays status hb h
    · exact execCheckpointEnd_waits status hb ht hd hh
    · refine ⟨_, execCheckpointEnd_copies status hb ht hd hh, fun hc => ?_, fun hc => ?_, ?_⟩
      · obtain ⟨hall, hck⟩ := s.ckCopy_full hc
        exact ⟨hall, congrArg Ckpt.pages hck, congrArg Ckpt.logging hck⟩
      · obtain ⟨hmarked, hck⟩ := s.ckCopy_marked hc
        exact ⟨hmarked, congrArg Ckpt.pages hck⟩
      · exact s.ckCopy_dirty
    · exact (execRegisterWrite_peer ..).trans (congrArg Host.Outcome.next (State.peerWrite_ignored hr w v))
    · exact (execRegisterWrite_peer ..).trans (congrArg Host.Outcome.next (s.peerWrite_recv w v))
    · obtain ⟨hp, hm⟩ := State.receiveGranules (s.peer s.ward).mem (s.peer s.ward).poison (hs.peer s.ward) mappableGranules hs.1
      refine ⟨_, (execRegisterWrite_peer ..).trans (congrArg Host.Outcome.next ((s.peerWrite_full s.ward).trans (State.receive_ward hr hup))), hp, fun a => (hm a).trans ?_⟩
      simp only [mem_mappableGranules]

end Sys2Proof.Machine
end

section
/-! PROOFS. Which grains a command performs, and with which bytes (08 R190, R210; 09 R219). -/

namespace Sys2Proof.Machine

/-! ## The bytes of a grain -/

/-- The write data of a unit. -/
def Seen.writes (v : Seen) : List (Int × List Byte) := match v.res with
  | .val p => p.writes
  | _ => []

/-- The last byte that some units write to a place of a grain, in walk order. -/
def lastByte (l : List Seen) (g i : Nat) : Option Byte :=
  ((l.filter fun v => decide (g ∈ v.grains)).flatMap fun v =>
    v.writes.flatMap fun x => (x.2[64 * g + i - x.1.toNat]?.toList.filter fun _ => decide (x.1.toNat ≤ 64 * g + i))).getLast?

/-- The bytes that some units leave in a grain. -/
def lastBytes (l : List Seen) (g : Nat) : List (Nat × Byte) := (List.range 64).filterMap fun i => (lastByte l g i).map fun b => (i, b)

/-- The byte of a piece at an address. -/
theorem filter_zipIdx (base k : Nat) (l : List Byte) (j : Nat) :
    ((((l.zipIdx j).map fun b => (base + b.2, b.1)).filter fun b => b.1 = k).map (·.2)) =
      l[k - (base + j)]?.toList.filter fun _ => decide (base + j ≤ k) := by
  induction l generalizing j with
  | nil => rfl
  | cons b bs ih =>
    rw [List.zipIdx_cons, List.map_cons]
    rcases Nat.lt_trichotomy k (base + j) with h | h | h
    · rw [List.filter_cons_of_neg (by simpa using by omega), ih]
      simp [show ¬ base + j ≤ k by omega, show ¬ base + (j + 1) ≤ k by omega]
    · subst h
      rw [List.filter_cons_of_pos (by simp), List.map_cons, ih]
      simp [show ¬ base + (j + 1) ≤ base + j by omega]
    · rw [List.filter_cons_of_neg (by simpa using by omega), ih, show k - (base + j) = k - (base + (j + 1)) + 1 by omega]
      simp [show base + j ≤ k by omega, show base + (j + 1) ≤ k by omega]

/-- The last of what meets a condition. -/
theorem find?_reverse_eq_getLast? {α : Type} (p : α → Bool) (l : List α) : l.reverse.find? p = (l.filter p).getLast? := by
  rw [← List.head?_filter, List.filter_reverse, List.head?_reverse]

/-- The bytes of a unit's write data at a place of a grain. -/
theorem filter_write (g i : Nat) (hi : i < 64) (x : Int × List Byte) :
    (((x.2.zipIdx.map fun b => (x.1.toNat + b.2, b.1)).filter fun b => b.1 / 64 = g).filter fun b => b.1 = 64 * g + i).map (·.2) =
      x.2[64 * g + i - x.1.toNat]?.toList.filter fun _ => decide (x.1.toNat ≤ 64 * g + i) := by
  rw [List.filter_filter, show (fun b : Nat × Byte => decide (b.1 = 64 * g + i) && decide (b.1 / 64 = g)) =
    fun b => decide (b.1 = 64 * g + i) from funext fun b => by
      by_cases h : b.1 = 64 * g + i
      · simp [h, show (64 * g + i) / 64 = g by omega]
      · simp [h]]
  exact filter_zipIdx x.1.toNat (64 * g + i) x.2 0

theorem grainBytes_eq {w l : List Seen} {k g : Nat}
    (h : (w.filter fun u => u.idx < k && u.grains.contains g) = l.filter fun v => decide (g ∈ v.grains)) : grainBytes w k g = lastBytes l g := by
  unfold grainBytes lastBytes
  simp only [h]
  refine List.filterMap_congr fun i hi => ?_
  have hi := List.mem_range.mp hi
  rw [find?_reverse_eq_getLast?, lastByte, show (fun b : Nat × Byte => (i, b.2)) = (fun b => (i, b)) ∘ Prod.snd from rfl, ← Option.map_map,
    ← List.getLast?_map]
  congr 2
  rw [List.filter_flatMap, List.map_flatMap]
  refine List.flatMap_congr fun v _ => ?_
  unfold Seen.writes
  cases v.res with
  | val p =>
    dsimp only
    rw [List.filter_flatMap, List.map_flatMap]
    exact List.flatMap_congr fun x _ => filter_write g i hi x
  | need l => rfl
  | err st ad => rfl

/-! ## Where a walk without races stops -/

/-- A unit that was evaluated, and that met no race. -/
def Seen.Clean (v : Seen) : Prop := ∃ p, v.res = .val p ∧ p.raced = []

section
variable {v : Seen}

theorem Seen.Clean.not_failed (h : v.Clean) : v.failed = false := by
  obtain ⟨p, hp, -⟩ := h
  simp [Seen.failed, hp]

theorem Seen.Clean.decided (h : v.Clean) : v.undecided = false := by
  obtain ⟨p, hp, -⟩ := h
  simp [Seen.undecided, hp]

theorem Seen.Clean.racedAt (h : v.Clean) (src : Source) : v.racedAt src = [] := by
  obtain ⟨p, hp, hr⟩ := h
  simp [Seen.racedAt, hp, hr]

end

/-- A command without a failing access of its own, that writes no quantised block, and the units of its walk by their places. -/
def Plain (w : List Seen) (a : Active) : Prop :=
  a.fail = none ∧ a.cmd.wholeBlocks = false ∧ ∀ (i : Nat) (v : Seen), w[i]? = some v → v.idx = i

/-- The grains of a unit that a command performs, or, with `raced`, those that would take a racing byte. -/
def Seen.taken (v : Seen) (src : Source) (raced : Bool) : List Nat :=
  if raced then (v.racedAt src).flatMap fun d => spanGrains d.1 d.2
  else match v.res with
    | .err .. => []
    | _ => v.grains

theorem dueGrains_eq (w : List Seen) (a : Active) (raced : Bool) : dueGrains w a raced =
    (((unitsDue w a).flatMap (fun v => v.taken a.byte raced) ++ if raced then [] else (stopGrains w a).take (stopAt w a).2).eraseDups).filter
      fun g => a.cmd.wholeBlocks || !((stopGrains w a).drop (stopAt w a).2).contains g := rfl

theorem Seen.Clean.taken_false {v : Seen} (h : v.Clean) (src : Source) : v.taken src false = v.grains := by
  obtain ⟨p, hp, -⟩ := h
  simp [Seen.taken, hp]

theorem Seen.Clean.taken_true {v : Seen} (h : v.Clean) (src : Source) : v.taken src true = [] := by
  simp [Seen.taken, h.racedAt]

theorem grainEnd_eq {w : List Seen} {a : Active} {k : Nat} (hs : stopAt w a = (k, 0)) (g : Nat) : grainEnd w a g = k := by simp [grainEnd, hs]

theorem grainReady_of_clean {w : List Seen} {a : Active} (hd : ∀ v ∈ unitsDue w a, v.Clean) (g : Nat) : grainReady w a g = true :=
  List.all_eq_true.mpr fun v hv => by simp [(hd v hv).decided]

/-- A grain that a command performs, its units decided, is delivered with the bytes due. -/
theorem deliverable_required {w : List Seen} {a : Active} {g : Nat} (hd : ∀ v ∈ unitsDue w a, v.Clean) (hr : g ∈ required w a) :
    deliverable w a g = some (dueBytes w a g) := by
  unfold deliverable
  dsimp only
  rw [if_pos (by simp [hr, grainReady_of_clean hd g])]

section
variable {w : List Seen} {a : Active} (h : Plain w a)
include h

theorem Plain.idx_lt {v : Seen} (hv : v ∈ w) : v.idx < w.length := by
  obtain ⟨i, hi, hvi⟩ := List.mem_iff_getElem.mp hv
  rw [h.2.2 i v (by rw [List.getElem?_eq_getElem hi, hvi])]
  exact hi

/-- No unit fails: the walk goes to its end. -/
theorem Plain.stopAt_end (hw : ∀ v ∈ w, v.failed = false) : stopAt w a = (w.length, 0) := by
  have hf : w.find? Seen.failed = none := List.find?_eq_none.mpr fun v hv => by simp [hw v hv]
  simp [stopAt, hf, h.1]

theorem Plain.unitsDue_end (hw : ∀ v ∈ w, v.failed = false) : unitsDue w a = w := by
  rw [unitsDue, h.stopAt_end hw]
  exact List.filter_eq_self.mpr fun v hv => by simpa using h.idx_lt hv

theorem Plain.stopGrains_end (hw : ∀ v ∈ w, v.failed = false) : stopGrains w a = [] := by
  have hf : w.find? (fun u => u.idx = w.length) = none :=
    List.find?_eq_none.mpr fun v hv => by simpa using Nat.ne_of_lt (h.idx_lt hv)
  rw [stopGrains, h.stopAt_end hw, hf]
  rfl

/-- The grains of the units due, but for those of the unit at which the walk stops. -/
theorem Plain.mem_dueGrains {k : Nat} (hs : stopAt w a = (k, 0)) (raced : Bool) (g : Nat) :
    g ∈ dueGrains w a raced ↔ (∃ v ∈ unitsDue w a, g ∈ v.taken a.byte raced) ∧ g ∉ stopGrains w a := by
  rw [dueGrains_eq, hs]
  simp [h.2.1]

/-- Where no unit due races, the command performs what they touch. -/
theorem Plain.mem_required {k : Nat} (hs : stopAt w a = (k, 0)) (hd : ∀ v ∈ unitsDue w a, v.Clean) (g : Nat) :
    g ∈ required w a ↔ (∃ v ∈ unitsDue w a, g ∈ v.grains) ∧ g ∉ stopGrains w a := by
  have hclean : dueGrains w a true = [] := by
    refine List.eq_nil_iff_forall_not_mem.mpr fun k hk => ?_
    obtain ⟨⟨v, hv, hg⟩, -⟩ := (h.mem_dueGrains hs true k).mp hk
    simp [(hd v hv).taken_true] at hg
  have hdue : g ∈ dueGrains w a false ↔ (∃ v ∈ unitsDue w a, g ∈ v.grains) ∧ g ∉ stopGrains w a := by
    rw [h.mem_dueGrains hs false]
    exact and_congr_left fun _ => exists_congr fun v => and_congr_right fun hv => by rw [(hd v hv).taken_false]
  rw [← hdue, required, hclean]
  simp

end

/-! ## Walks without a failure, and up to one -/

section
variable {w : List Seen} {a : Active} (h : Plain w a) (g : Nat)
include h

/-- A command without a failure performs every grain that its units touch. -/
theorem Plain.required_all (hw : ∀ v ∈ w, v.Clean) : g ∈ required w a ↔ ∃ v ∈ w, g ∈ v.grains := by
  have hf : ∀ v ∈ w, v.failed = false := fun v hv => (hw v hv).not_failed
  rw [h.mem_required (h.stopAt_end hf) (by rwa [h.unitsDue_end hf]), h.unitsDue_end hf, h.stopGrains_end hf]
  simp

theorem Plain.grainBytes_all : grainBytes w w.length g = lastBytes w g :=
  grainBytes_eq (List.filter_congr fun v hv => by simp [h.idx_lt hv])

theorem Plain.dueBytes_all (hw : ∀ v ∈ w, v.Clean) : dueBytes w a g = lastBytes w g := by
  have hs := h.stopAt_end fun v hv => (hw v hv).not_failed
  rw [dueBytes, grainEnd_eq hs, h.grainBytes_all g]

/-- A racing byte keeps a grain of device memory unwritten (08 R210). -/
theorem Plain.not_required_of_race {u : Seen} {ad : W64} (hs : 2 ≤ a.cmd.dSpace) (hf : ∀ v ∈ w, v.failed = false) (hu : u ∈ w)
    (hr : u.res = .err 0x0B ad) (hd : ∃ d ∈ u.unit.dest a.byte, g ∈ spanGrains d.1 d.2) : g ∉ required w a := by
  have hrace : g ∈ dueGrains w a true := by
    rw [h.mem_dueGrains (h.stopAt_end hf) true, h.unitsDue_end hf, h.stopGrains_end hf]
    exact ⟨⟨u, hu, by simpa [Seen.taken, Seen.racedAt, hr] using hd⟩, by simp⟩
  rw [required, if_neg (by omega)]
  simp [hrace]

end

theorem failed_of_err {u : Seen} {st : BitVec 8} {ad : W64} (hu : u.res = .err st ad) (hst : st ≠ 0x0B) : u.failed = true := by
  simpa [Seen.failed, hu] using hst

section
variable {before after : List Seen} {u : Seen} {a : Active} (h : Plain (before ++ u :: after) a)
include h

theorem Plain.idx_before {v : Seen} (hv : v ∈ before) : v.idx < before.length := by
  obtain ⟨i, hi, hvi⟩ := List.mem_iff_getElem.mp hv
  rw [h.2.2 i v (by rw [List.getElem?_append_left hi, List.getElem?_eq_getElem hi, hvi])]
  exact hi

theorem Plain.idx_from {v : Seen} (hv : v ∈ u :: after) : before.length ≤ v.idx := by
  obtain ⟨i, hi, hvi⟩ := List.mem_iff_getElem.mp hv
  rw [h.2.2 (before.length + i) v (by rw [List.getElem?_append_right (by omega), Nat.add_sub_cancel_left, List.getElem?_eq_getElem hi, hvi])]
  omega

theorem Plain.filter_before (p : Seen → Bool) :
    ((before ++ u :: after).filter fun v => v.idx < before.length && p v) = before.filter p := by
  have hfrom : (u :: after).filter (fun v => v.idx < before.length && p v) = [] :=
    List.filter_eq_nil_iff.mpr fun v hv => by simp [Nat.not_lt.mpr (h.idx_from hv)]
  rw [List.filter_append, hfrom, List.append_nil]
  exact List.filter_congr fun v hv => by simp [h.idx_before hv]

variable (hb : ∀ v ∈ before, v.Clean) {st : BitVec 8} {ad : W64} (hu : u.res = .err st ad) (hst : st ≠ 0x0B) (g : Nat)
include hb hu hst

/-- The walk stops at its first failing unit. -/
theorem Plain.stopAt_fail : stopAt (before ++ u :: after) a = (before.length, 0) := by
  have hf : (before ++ u :: after).find? Seen.failed = some u := by
    rw [List.find?_append, List.find?_eq_none.mpr fun v hv => by simp [(hb v hv).not_failed], Option.none_or]
    exact List.find?_cons_of_pos (failed_of_err hu hst)
  simp [stopAt, hf, h.1, h.2.2 before.length u (by simp)]

theorem Plain.unitsDue_fail : unitsDue (before ++ u :: after) a = before := by
  rw [unitsDue, h.stopAt_fail hb hu hst]
  simpa using h.filter_before fun _ => true

theorem Plain.stopGrains_fail : stopGrains (before ++ u :: after) a = u.grains := by
  have hf : (before ++ u :: after).find? (fun v => v.idx = before.length) = some u := by
    rw [List.find?_append, List.find?_eq_none.mpr fun v hv => by simpa using Nat.ne_of_lt (h.idx_before hv), Option.none_or]
    exact List.find?_cons_of_pos (by simpa using h.2.2 before.length u (by simp))
  rw [stopGrains, h.stopAt_fail hb hu hst, hf]
  rfl

/-- Up to its first failing unit, a command performs the grains that earlier units touch and that unit does not. -/
theorem Plain.required_before : g ∈ required (before ++ u :: after) a ↔ (∃ v ∈ before, g ∈ v.grains) ∧ g ∉ u.grains := by
  have hd := h.unitsDue_fail hb hu hst
  rw [h.mem_required (h.stopAt_fail hb hu hst) (by rwa [hd]), hd, h.stopGrains_fail hb hu hst]

theorem Plain.dueBytes_before : dueBytes (before ++ u :: after) a g = lastBytes before g := by
  rw [dueBytes, grainEnd_eq (h.stopAt_fail hb hu hst)]
  exact grainBytes_eq ((h.filter_before _).trans (List.filter_congr fun v _ => by simp))

/-- A grain that the failing unit touches is not delivered. -/
theorem Plain.deliverable_failing (hg : g ∈ u.grains) : deliverable (before ++ u :: after) a g = none := by
  have hr : g ∉ required (before ++ u :: after) a := fun hr => ((h.required_before hb hu hst g).mp hr).2 hg
  unfold deliverable
  dsimp only
  rw [if_neg (by simp [hr]), if_neg]
  simp [hg, failed_of_err hu hst, h.2.1]

/-- Whole grains beyond the failing unit are delivered in local storage. -/
theorem Plain.deliverable_beyond (hbg : ∀ v ∈ before, g ∉ v.grains) (hug : g ∉ u.grains) (ha : ∀ v ∈ after, g ∈ v.grains → v.Clean)
    (hg : ∃ v ∈ after, g ∈ v.grains) : deliverable (before ++ u :: after) a g = some (lastBytes (before ++ u :: after) g) := by
  have hr : g ∉ required (before ++ u :: after) a := fun hr => by
    obtain ⟨⟨v, hv, hg⟩, -⟩ := (h.required_before hb hu hst g).mp hr
    exact hbg v hv hg
  have hall : ∀ v ∈ before ++ u :: after, g ∈ v.grains → v.Clean := by
    intro v hv hvg
    rcases List.mem_append.mp hv with hv | hv
    · exact absurd hvg (hbg v hv)
    · rcases List.mem_cons.mp hv with rfl | hv
      · exact absurd hvg hug
      · exact ha v hv hvg
  unfold deliverable
  dsimp only
  rw [if_neg (by simp [hr]), if_pos, h.grainBytes_all g]
  obtain ⟨v, hv, hvg⟩ := hg
  rw [Bool.and_eq_true]
  refine ⟨?_, List.all_eq_true.mpr fun v hv => ?_⟩
  · rw [Bool.not_eq_true', List.isEmpty_eq_false_iff]
    exact List.ne_nil_of_mem (List.mem_filter.mpr ⟨List.mem_append_right _ (List.mem_cons_of_mem _ hv), by simpa using hvg⟩)
  · obtain ⟨hv, hvg⟩ := List.mem_filter.mp hv
    have hc := hall v hv (by simpa using hvg)
    simp [hc.decided, hc.not_failed]

end

end Sys2Proof.Machine
end

section
/-! PROOFS. Merge and Write moves (07 R180; 08 R194, R195, R207 to R210; 12 R298). -/

namespace Sys2Proof.Machine

/-! ## Moves that keep device, host and peer memory with its tags -/

/-- Device, host and peer memory, and the tags, are the same. -/
def State.SameMemory (s t : State) : Prop := t.mem = s.mem ∧ t.host = s.host ∧ t.peers = s.peers ∧ t.tags = s.tags

theorem State.SameMemory.refl (s : State) : s.SameMemory s := ⟨rfl, rfl, rfl, rfl⟩

theorem State.SameMemory.trans {s t u : State} (h : s.SameMemory t) (h' : t.SameMemory u) : s.SameMemory u :=
  ⟨h'.1.trans h.1, h'.2.1.trans h.2.1, h'.2.2.1.trans h.2.2.1, h'.2.2.2.trans h.2.2.2⟩

theorem State.SameMemory.putCore (s : State) (n : Nat) (c : Core) : s.SameMemory (s.putCore n c) := by
  unfold State.putCore
  split
  · exact ⟨rfl, rfl, rfl, rfl⟩
  · exact ⟨rfl, rfl, rfl, rfl⟩

theorem State.SameMemory.setAct (s : State) (n : Nat) (a : Active) : s.SameMemory (s.setAct n a) := .putCore s n _

theorem State.SameMemory.adopt (s : State) (n : Nat) (a : Active) : s.SameMemory (s.adopt n a) :=
  (State.SameMemory.setAct s n a).trans (.putCore _ n _)

theorem State.poisonGrain_eq (s : State) (g : Nat) : ∃ l, s.poisonGrain g = { s with poison := l } := by
  unfold State.poisonGrain
  split
  · exact ⟨s.poison, rfl⟩
  · exact ⟨_, rfl⟩

/-- A command that leaves the engine changes no memory, and no core's data in the combine buffer. -/
def State.Calm (s t : State) : Prop := s.SameMemory t ∧ ∀ k, (t.getCore k).cp.cb = (s.getCore k).cp.cb

theorem State.Calm.refl (s : State) : s.Calm s := ⟨.refl s, fun _ => rfl⟩

theorem State.Calm.trans {s t u : State} (h : s.Calm t) (h' : t.Calm u) : s.Calm u :=
  ⟨h.1.trans h'.1, fun k => (h'.2 k).trans (h.2 k)⟩

theorem State.Calm.putCore {s : State} {n : Nat} {c : Core} (h : c.cp.cb = (s.getCore n).cp.cb) : s.Calm (s.putCore n c) := by
  refine ⟨.putCore s n c, fun k => ?_⟩
  by_cases hk : n = k
  · rw [← hk, State.getCore_putCore]
    exact h
  · rw [State.getCore_putCore_other _ _ _ _ hk]

theorem Core.setPres_cp (c : Core) (b : Nat) (p : Pres) : (c.setPres b p).cp = c.cp := rfl

theorem State.Calm.racePoison (s : State) (n : Nat) (a : Active) (w : List Seen) : s.Calm (s.racePoison n a w) := by
  unfold State.racePoison
  dsimp only
  split
  · refine List.foldlRecOn (motive := s.Calm) _ _ (.refl s) fun t ht d _ => ?_
    exact List.foldlRecOn (motive := s.Calm) _ _ ht fun u hu b _ => hu.trans (.putCore rfl)
  · refine List.foldlRecOn (motive := s.Calm) _ _ (.refl s) fun t ht g _ => ht.trans ?_
    split
    · obtain ⟨l, hl⟩ := t.poisonGrain_eq _
      rw [hl]
      exact ⟨⟨rfl, rfl, rfl, rfl⟩, fun _ => rfl⟩
    · exact .refl t

theorem State.Calm.retire (s : State) (n id : Nat) : s.Calm (s.retire n id) := by
  unfold State.retire
  split
  · exact .refl s
  · dsimp only
    split
    · exact .refl s
    · exact (State.Calm.racePoison s n _ _).trans (.putCore rfl)

/-! ## What is found, walked or settled ahead (08 R194; log 15) -/

/-- A command without what its moves keep of reads, walks and places for later. -/
def Active.bare (a : Active) : Active := { a with past := [], took := [], ahead := [], spare := [], pins := [] }

theorem Active.bare_cmd {a b : Active} (h : b.bare = a.bare) : b.cmd = a.cmd :=
  show b.bare.cmd = a.bare.cmd by rw [h]

/-- One core's commands took something on for later, and nothing else changed. -/
structure State.Forward (n : Nat) (s t : State) : Prop where
  rest : ∃ c p, t = { s with core := c, parked := p }
  core : ∃ l, t.getCore n = { s.getCore n with cp := { (s.getCore n).cp with act := l } }
  other : ∀ k, k ≠ n → t.getCore k = s.getCore k
  acts : ∀ id, ((t.getCore n).actOf id).map Active.bare = ((s.getCore n).actOf id).map Active.bare

theorem State.Forward.refl (n : Nat) (s : State) : State.Forward n s s := ⟨⟨_, _, rfl⟩, ⟨_, rfl⟩, fun _ _ => rfl, fun _ => rfl⟩

theorem State.Forward.trans {n : Nat} {s t u : State} (h : State.Forward n s t) (h' : State.Forward n t u) : State.Forward n s u := by
  obtain ⟨⟨c, p, hr⟩, ⟨l, hc⟩, ho, ha⟩ := h
  obtain ⟨⟨c', p', hr'⟩, ⟨l', hc'⟩, ho', ha'⟩ := h'
  refine ⟨⟨c', p', by rw [hr', hr]⟩, ⟨l', by rw [hc', hc]⟩, fun k hk => (ho' k hk).trans (ho k hk), fun id => (ha' id).trans (ha id)⟩

theorem State.putCore_eq (s : State) (n : Nat) (c : Core) : ∃ d p, s.putCore n c = { s with core := d, parked := p } := by
  unfold State.putCore
  split
  · exact ⟨_, _, rfl⟩
  · exact ⟨_, _, rfl⟩

/-- The command of a number, once another of that number replaces it. -/
theorem Core.actOf_setAct_map (c : Core) (b : Active) (id : Nat) :
    (c.setAct b).actOf id = (c.actOf id).map fun x => if x.cmd.id = b.cmd.id then b else x := by
  have hcomp : ((fun x : Active => decide (x.cmd.id = id)) ∘ fun x => if x.cmd.id = b.cmd.id then b else x) = fun x => decide (x.cmd.id = id) := by
    funext x
    simp only [Function.comp_apply]
    split
    next h => rw [h]
    · rfl
  rw [Core.actOf, Core.setAct, List.find?_map, hcomp]
  rfl

theorem Core.actOf_setAct_same {c : Core} {a b : Active} (ha : c.actOf b.cmd.id = some a) : (c.setAct b).actOf b.cmd.id = some b := by
  rw [Core.actOf_setAct_map, ha, Option.map_some, if_pos (Core.actOf_id ha)]

theorem State.Forward.setAct {s : State} {n id : Nat} {a b : Active} (ha : (s.getCore n).actOf id = some a) (hb : b.bare = a.bare) :
    State.Forward n s (s.setAct n b) := by
  have hid : b.cmd.id = id := by rw [Active.bare_cmd hb, Core.actOf_id ha]
  refine ⟨s.putCore_eq n _, ⟨_, s.getCore_putCore n _⟩, fun k hk => s.getCore_putCore_other n k _ (Ne.symm hk), fun i => ?_⟩
  rw [State.setAct, State.getCore_putCore, Core.actOf_setAct_map, Option.map_map]
  cases hx : (s.getCore n).actOf i with
  | none => rfl
  | some x =>
    simp only [Option.map_some, Function.comp_apply]
    split
    next h =>
      rw [Core.actOf_id hx, hid] at h
      rw [h, ha] at hx
      rw [hb, Option.some.inj hx]
    · rfl

/-- What a move leads to, if it can be made, is ahead of a state. -/
def State.ForwardBy (n : Nat) (s : State) (r : Option State) : Prop := ∀ t, r = some t → State.Forward n s t

theorem State.ForwardBy.of {n : Nat} {s t : State} (h : State.Forward n s t) : s.ForwardBy n (some t) := fun _ e => Option.some.inj e ▸ h

/-- A step of moves made one after another, each for a command that its core still has. -/
theorem State.ForwardBy.step {n : Nat} {s : State} {r : Option State} (h : s.ForwardBy n r) {f : State → Option State}
    (hf : ∀ t u, f t = some u → u = t ∨ ∃ id a b, (t.getCore n).actOf id = some a ∧ b.bare = a.bare ∧ u = t.setAct n b) :
    s.ForwardBy n (r.bind f) := by
  intro u hu
  obtain ⟨t, ht, htu⟩ := Option.bind_eq_some_iff.mp hu
  rcases hf t u htu with rfl | ⟨id, a, b, ha, hb, rfl⟩
  · exact h _ ht
  · exact (h t ht).trans (.setAct ha hb)

theorem State.ForwardBy.foldl {α : Type} {n : Nat} {s : State} {f : Option State → α → Option State} {l : List α} {r : Option State}
    (h : s.ForwardBy n r) (hf : ∀ r, s.ForwardBy n r → ∀ x ∈ l, s.ForwardBy n (f r x)) : s.ForwardBy n (l.foldl f r) :=
  List.foldlRecOn l f h hf

theorem State.ForwardBy.walkAhead (s : State) (n : Nat) (m : Cmd) (h : Home × Nat) : s.ForwardBy n (s.walkAhead n m h) := by
  refine State.ForwardBy.foldl (.of (.refl n s)) fun r hr a _ => State.ForwardBy.foldl hr fun r hr p _ => hr.step fun t u hu => ?_
  split at hu
  next b hb =>
    split at hu
    · simp only [State.walkNow] at hu
      split at hu
      · cases hu
      · refine .inr ⟨_, b, _, hb, ?_, (Option.some.inj hu).symm⟩
        rfl
    · exact .inl (Option.some.inj hu).symm
  · exact .inl (Option.some.inj hu).symm

theorem State.ForwardBy.readAhead (s : State) (n : Nat) (m : Cmd) (h : Home × Nat) : s.ForwardBy n (s.readAhead n m h) := by
  intro u hu
  obtain ⟨t, ht, htu⟩ := Option.bind_eq_some_iff.mp hu
  refine (State.ForwardBy.walkAhead s n m h t ht).trans ?_
  revert u
  intro u hu htu
  refine (State.ForwardBy.foldl (.of (.refl n t)) fun r hr a _ => State.ForwardBy.foldl hr fun r hr p _ => hr.step fun t u hu => ?_) u htu
  split at hu
  · exact .inl (Option.some.inj hu).symm
  next b hb =>
    split at hu
    · exact .inl (Option.some.inj hu).symm
    · obtain ⟨g, -, rfl⟩ := Option.map_eq_some_iff.mp hu
      refine .inr ⟨_, b, _, hb, ?_, rfl⟩
      rfl

theorem State.settle_bare {s : State} {n g : Nat} {old a b : Active} (h : s.settle n old a g = some b) : b.bare = a.bare := by
  unfold State.settle at h
  dsimp only at h
  split at h
  · cases h
  · split at h
    · cases h
    · exact Option.some.inj h ▸ rfl

theorem State.ForwardBy.settleParts (s : State) (n : Nat) (l : List CbPart) :
    s.ForwardBy n (l.foldl (fun r p => r.bind fun t => t.settlePart n p) (some s)) := by
  refine State.ForwardBy.foldl (.of (.refl n s)) fun r hr p _ => hr.step fun t u hu => ?_
  unfold State.settlePart at hu
  split at hu
  · exact .inl (Option.some.inj hu).symm
  next a ha =>
    obtain ⟨b, hb, rfl⟩ := Option.map_eq_some_iff.mp hu
    exact .inr ⟨_, a, b, ha, State.settle_bare hb, rfl⟩

section
variable {n : Nat} {s t : State} (h : State.Forward n s t)
include h

theorem State.Forward.sameMemory : s.SameMemory t := by
  obtain ⟨c, p, rfl⟩ := h.rest
  exact ⟨rfl, rfl, rfl, rfl⟩

theorem State.Forward.cb (k : Nat) : (t.getCore k).cp.cb = (s.getCore k).cp.cb := by
  by_cases hk : k = n
  · obtain ⟨l, hl⟩ := h.core
    rw [hk, hl]
  · rw [h.other k hk]

theorem State.Forward.actOf {id : Nat} {a : Active} (ha : (s.getCore n).actOf id = some a) :
    ∃ b, (t.getCore n).actOf id = some b ∧ b.bare = a.bare := by
  have := h.acts id
  rw [ha, Option.map_some] at this
  obtain ⟨b, hb, hbare⟩ := Option.map_eq_some_iff.mp this
  exact ⟨b, hb, hbare⟩

theorem State.Forward.actOf_none {id : Nat} (ha : (s.getCore n).actOf id = none) : (t.getCore n).actOf id = none := by
  have := h.acts id
  rwa [ha, Option.map_none, Option.map_eq_none_iff] at this

theorem State.Forward.actNow {a : Active} (ha : (s.getCore n).actOf a.cmd.id = some a) :
    (t.getCore n).actOf a.cmd.id = some (t.actNow n a) ∧ (t.actNow n a).bare = a.bare := by
  obtain ⟨b, hb, hbare⟩ := h.actOf ha
  rw [State.actNow, hb, Option.getD_some]
  exact ⟨rfl, hbare⟩

end

/-! ## Walks made at once -/

theorem State.walkMove_cache (s : State) (c : Ctx) (v : Nat) (t : TlbEnt) : ∃ l, (s.walkMove c v t).1 = { s with cache := l } := by
  unfold State.walkMove
  dsimp only
  split
  · exact ⟨s.cache, rfl⟩
  · exact s.touchCache_cache false _

theorem State.keep_tlb (s : State) (t : TlbEnt) : ∃ l, s.keep t = { s with tlb := l } := by
  unfold State.keep
  split
  · exact ⟨s.tlb, rfl⟩
  · exact ⟨_, rfl⟩

/-- Keeping a fresh result changes the cache and what the engine keeps. -/
theorem State.noteGrain_eq (s : State) (c : Ctx) (space win g : Nat) (tr : Option TlbEnt) :
    ∃ l t, s.noteGrain c space win g tr = { s with cache := l, tlb := t } := by
  unfold State.noteGrain
  split
  · exact ⟨s.cache, s.tlb, rfl⟩
  · split
    · unfold State.noteWalk
      split
      · exact ⟨s.cache, s.tlb, rfl⟩
      · have go : ∀ r : State × TlbEnt, (∃ l, r.1 = { s with cache := l }) →
            ∃ l, (r.1.walkMove c (64 * g) r.2).1 = { s with cache := l } := by
          intro r ⟨l, hl⟩
          obtain ⟨k, hk⟩ := r.1.walkMove_cache c (64 * g) r.2
          exact ⟨k, by rw [hk, hl]⟩
        obtain ⟨l, hl⟩ := go _ (go _ (go _ (go (s, c.walkStart (64 * g)) ⟨s.cache, rfl⟩)))
        dsimp only at hl ⊢
        obtain ⟨t, ht⟩ := State.keep_tlb _ _
        exact ⟨l, t, by rw [ht, hl]⟩
    · split
      · unfold State.noteWindow
        split
        · exact ⟨s.cache, s.tlb, rfl⟩
        · obtain ⟨l, hl⟩ := s.walkMove_cache c 0 (c.winStart win)
          obtain ⟨t, ht⟩ := (s.walkMove c 0 (c.winStart win)).1.keep_tlb (s.walkMove c 0 (c.winStart win)).2
          exact ⟨l, t, by rw [show (let r := s.walkMove c 0 (c.winStart win); r.1.keep r.2) = _ from rfl, ht, hl]⟩
      · exact ⟨s.cache, s.tlb, rfl⟩

/-! ## Merge moves (08 R195) -/

/-- The place of a grain that a Merge move writes, under a translation chosen. -/
def State.mergePlace (s : State) (n : Nat) (a : Active) (g tr : Nat) : Grain :=
  s.grainOf (a.cmd.ctx n) .write a.cmd.dSpace a.cmd.dWin g (s.choice n a a.cmd.dSpace a.cmd.dWin g tr)

/-- A grain of the command may be merged now: its bytes are decided, and nothing comes first. -/
def State.MergeReady (s : State) (n id : Nat) (a : Active) (g tr : Nat) : Prop :=
  let m := a.cmd
  let w := s.seen n a
  let x := s.mergePlace n a g tr
  let h := (x.home, x.num)
  g ∈ required w a ∧ 2 * g ∉ a.done ∧ grainReady w a g = true ∧ (∀ q ∈ x.stat, q = 0) ∧
    s.readFirst n a w (lastUnit w g) h = false ∧ s.writeFirst n a w .write g h = false ∧
    s.writeBefore n id h = false ∧ s.readBefore n id h = false ∧ s.pathWaits n a (tookKey m.dSpace m.dWin g) x = false ∧ x.pheld = false ∧
    ∀ p ∈ a.pins, p.1 ≠ g

/-- The data of a grain, as a Merge move puts it into the combine buffer. -/
def State.mergePart (s : State) (n : Nat) (a : Active) (g tr : Nat) : CbPart :=
  let x := s.mergePlace n a g tr
  { cmd := a.cmd.id, va := 64 * g, covered := x.checked && decide (x.home = .dev), leaf := x.leaf, way := x.way,
    bytes := dueBytes (s.seen n a) a g }

/-- An entry holds data of the place of a grain. -/
def CbEnt.isAt (e : CbEnt) (x : Grain) : Bool := decide (e.home = x.home) && decide (e.grain = x.num)

theorem CbEnt.isAt_iff (e : CbEnt) (x : Grain) : e.isAt x = true ↔ e.home = x.home ∧ e.grain = x.num := by simp [CbEnt.isAt]

/-- The combine buffer once a part has been merged. -/
def mergedInto (cb : List CbEnt) (m : Cmd) (x : Grain) (part : CbPart) : List CbEnt :=
  if cb.any (·.isAt x) then cb.map fun e => if e.isAt x then { e with parts := e.parts ++ [part] } else e
  else cb ++ [{ home := x.home, grain := x.num, lone := flagREL m.flags, epoch := m.frel, parts := [part] }]

theorem getD_zero {l : List (BitVec 8)} (h : ∀ q ∈ l, q = 0) (i : Nat) : l.getD i 0 = 0 := by
  rw [List.getD_eq_getElem?_getD]
  cases hi : l[i]? with
  | none => rfl
  | some q => exact h q (List.mem_of_getElem? hi)

theorem firstElem_ok (w : List Seen) (esz g : Nat) {stat : List (BitVec 8)} (h : ∀ q ∈ stat, q = 0) :
    firstElem w esz g (fun i => decide (stat.getD i 0 ≠ 0)) = none :=
  firstElem_none w esz g fun i => by rw [getD_zero h i]; rfl

section
variable {s : State} {n g tr : Nat} {a : Active} (hred : a.cmd.red = false)
include hred

theorem State.placeOf_unpinned (w : List Seen) (t : Option TlbEnt) (h : ∀ p ∈ a.pins, p.1 ≠ g) :
    s.placeOf n a w g t = (s.grainOf (a.cmd.ctx n) .write a.cmd.dSpace a.cmd.dWin g t, true) := by
  have hnone : a.pins.find? (fun p => p.1 = g) = none := List.find?_eq_none.mpr fun p hp => by simpa using h p hp
  unfold State.placeOf
  simp [hnone, hred]

/-- A Merge move of a grain that may be merged. -/
theorem State.mergeMove_ready (hspace : 2 ≤ a.cmd.dSpace) (h : s.MergeReady n a.cmd.id a g tr) : s.mergeMove n a g tr =
    if (s.getCore n).cp.cb.any (fun e => e.isAt (s.mergePlace n a g tr) && !e.joins a.cmd) then s
    else ((s.readAhead n a.cmd ((s.mergePlace n a g tr).home, (s.mergePlace n a g tr).num)).map fun u =>
      let v := u.noteGrain (a.cmd.ctx n) a.cmd.dSpace a.cmd.dWin g (s.choice n a a.cmd.dSpace a.cmd.dWin g tr)
      (v.putCore n { v.getCore n with cp := { (v.getCore n).cp with
          cb := mergedInto (s.getCore n).cp.cb a.cmd (s.mergePlace n a g tr) (s.mergePart n a g tr) } }).setAct n
        { u.actNow n a with done := a.done ++ [2 * g], pins := a.pins }).getD s := by
  obtain ⟨hreq, hdone, hready, hstat, hrf, hwf, hwb, hrb, hpath, hheld, hpins⟩ := h
  have hmap : a.pins.map (fun p => if p.1 = g then (p.1, s.mergePlace n a g tr) else p) = a.pins := by
    refine (List.map_congr_left fun p hp => if_neg (hpins p hp)).trans (List.map_id' _)
  have hfar : decide (a.cmd.dSpace ≤ 1) = false := decide_eq_false (by omega)
  have hreq' : (required (s.seen n a) a).contains g = true := by simpa using hreq
  have hdone' : a.done.contains (2 * g) = false := by simpa using hdone
  unfold State.mergePart
  unfold State.mergePlace at *
  unfold State.mergeMove
  simp only [State.placeOf_unpinned hred _ _ hpins, hfar, hred, hreq', hdone', hready, hrf, hwf, hwb, hrb, hpath, hheld, hmap,
    firstElem_ok _ _ _ hstat, Bool.not_true, Bool.false_or, if_true]
  cases s.readAhead n a.cmd _ with
  | none => rfl
  | some u => rfl

end

/-- The machine once the combine buffer and a command of a core are replaced. -/
def State.putMerged (v : State) (n : Nat) (l : List CbEnt) (b : Active) : State :=
  (v.putCore n { v.getCore n with cp := { (v.getCore n).cp with cb := l } }).setAct n b

theorem State.putMerged_leaves (v : State) (n : Nat) (l : List CbEnt) {a b : Active} (ha : (v.getCore n).actOf b.cmd.id = some a) :
    v.SameMemory (v.putMerged n l b) ∧ ((v.putMerged n l b).getCore n).cp.cb = l ∧ ((v.putMerged n l b).getCore n).actOf b.cmd.id = some b := by
  refine ⟨(State.SameMemory.putCore v n _).trans (.setAct _ n b), ?_, ?_⟩
  · rw [State.putMerged, State.setAct, State.getCore_putCore, State.getCore_putCore]
    rfl
  · rw [State.putMerged, State.setAct, State.getCore_putCore, State.getCore_putCore]
    exact Core.actOf_setAct_same (c := { v.getCore n with cp := { (v.getCore n).cp with cb := l } }) ha

section
variable {s : State} {n g tr : Nat} {a : Active} (hspace : 2 ≤ a.cmd.dSpace) (hred : a.cmd.red = false)
  (h : s.MergeReady n a.cmd.id a g tr)
include hspace hred h

/-- A Merge move that its entry keeps away changes nothing. -/
theorem State.mergeMove_apart {e : CbEnt} (he : e ∈ (s.getCore n).cp.cb) (hat : e.isAt (s.mergePlace n a g tr) = true)
    (hj : e.joins a.cmd = false) : s.mergeMove n a g tr = s := by
  rw [State.mergeMove_ready hred hspace h, if_pos (List.any_eq_true.mpr ⟨e, he, by simp [hat, hj]⟩)]

variable (hjoin : ∀ e ∈ (s.getCore n).cp.cb, e.isAt (s.mergePlace n a g tr) = true → e.joins a.cmd = true)
include hjoin

theorem State.mergeMove_joins : s.mergeMove n a g tr =
    ((s.readAhead n a.cmd ((s.mergePlace n a g tr).home, (s.mergePlace n a g tr).num)).map fun u =>
      (u.noteGrain (a.cmd.ctx n) a.cmd.dSpace a.cmd.dWin g (s.choice n a a.cmd.dSpace a.cmd.dWin g tr)).putMerged n
        (mergedInto (s.getCore n).cp.cb a.cmd (s.mergePlace n a g tr) (s.mergePart n a g tr))
        { u.actNow n a with done := a.done ++ [2 * g], pins := a.pins }).getD s := by
  have hany : ¬((s.getCore n).cp.cb.any (fun e => e.isAt (s.mergePlace n a g tr) && !e.joins a.cmd) = true) := by
    simp only [List.any_eq_true, Bool.and_eq_true, Bool.not_eq_true', not_exists, not_and]
    intro e he hat
    simp [hjoin e he hat]
  rw [State.mergeMove_ready hred hspace h, if_neg hany]
  rfl

/-- A Merge move of a grain that may be merged, and that its entries do not keep away. -/
theorem State.mergeMove_merges (ha : (s.getCore n).actOf a.cmd.id = some a) {l : List CbEnt}
    (hl : mergedInto (s.getCore n).cp.cb a.cmd (s.mergePlace n a g tr) (s.mergePart n a g tr) = l) :
    (s.readAhead n a.cmd ((s.mergePlace n a g tr).home, (s.mergePlace n a g tr).num) = none → s.mergeMove n a g tr = s) ∧
    ∀ u, s.readAhead n a.cmd ((s.mergePlace n a g tr).home, (s.mergePlace n a g tr).num) = some u → ∃ t, s.mergeMove n a g tr = t ∧
      t.mem = s.mem ∧ t.host = s.host ∧ t.peers = s.peers ∧ (t.getCore n).cp.cb = l ∧
      (t.getCore n).actOf a.cmd.id = some { u.actNow n a with done := a.done ++ [2 * g], pins := a.pins } := by
  rw [State.mergeMove_joins hspace hred h hjoin, hl]
  refine ⟨fun hu => by rw [hu]; rfl, fun u hu => ?_⟩
  rw [hu]
  refine ⟨_, rfl, ?_⟩
  have hfw := State.ForwardBy.readAhead s n a.cmd _ u hu
  obtain ⟨hnow, hbare⟩ := hfw.actNow ha
  obtain ⟨k, j, hv⟩ := u.noteGrain_eq (a.cmd.ctx n) a.cmd.dSpace a.cmd.dWin g (s.choice n a a.cmd.dSpace a.cmd.dWin g tr)
  let b : Active := { u.actNow n a with done := a.done ++ [2 * g], pins := a.pins }
  have hcmd : (u.actNow n a).cmd = a.cmd := Active.bare_cmd hbare
  have hb : b.cmd.id = a.cmd.id := congrArg Cmd.id hcmd
  obtain ⟨hmem, hcb, hact⟩ := ({ u with cache := k, tlb := j } : State).putMerged_leaves n l (a := u.actNow n a) (b := b) (hb ▸ hnow)
  obtain ⟨m1, m2, m3, -⟩ := hfw.sameMemory.trans (show u.SameMemory _ from hmem)
  rw [Option.map_some, Option.getD_some, hv]
  exact ⟨m1, m2, m3, hcb, hb ▸ hact⟩

end

/-! ## Write moves (08 R207 to R210) -/

/-- Two entries hold data of one place. -/
def CbEnt.same (e f : CbEnt) : Bool := decide (f.home = e.home) && decide (f.grain = e.grain)

theorem find?_same {l : List CbEnt} {e : CbEnt} (he : e ∈ l) (h : ∀ f ∈ l, f.home = e.home → f.grain = e.grain → f = e) :
    l.find? e.same = some e := by
  induction l with
  | nil => simp at he
  | cons f l ih =>
    by_cases hf : e.same f = true
    · have hfe : f = e := by
        simp only [CbEnt.same, Bool.and_eq_true, decide_eq_true_eq] at hf
        exact h f List.mem_cons_self hf.1 hf.2
      rw [List.find?_cons_of_pos hf, hfe]
    · have hne : f ≠ e := fun e' => hf (by simp [e', CbEnt.same])
      rw [List.find?_cons_of_neg hf]
      exact ih ((List.mem_cons.mp he).resolve_left (Ne.symm hne)) fun f hf => h f (List.mem_cons_of_mem _ hf)

/-- A Write move of an entry that is taken alone. -/
theorem State.writeMove_alone {s : State} {n : Nat} {e : CbEnt} (he : (s.getCore n).cp.cb.find? e.same = some e)
    (ht : s.together n (s.getCore n).cp.cb.length [e] = some [e]) :
    s.writeMove n e = ((s.writeEntry n e).map fun t => e.parts.foldl (fun t p => t.retire n p.cmd) t).getD s := by
  unfold State.writeMove
  rw [ht]
  dsimp only [List.foldl_cons, List.foldl_nil, Option.bind_some]
  erw [he]
  simp only [List.flatMap_cons, List.flatMap_nil, List.append_nil]
  cases s.writeEntry n e with
  | none => rfl
  | some t => rfl

/-- A write of device memory through a leaf, of a context that keeps no dirty log, sets its D bit (12 R298). -/
theorem State.dirty_unlogged (s : State) (n : Nat) {m : Cmd} (leaf : Option Nat) (va : Nat)
    (h : m.dSpace ≠ 2 ∨ (vget m.xlat 6 0).getLsbD 63 = false) : s.dirty n m leaf va = s.setDirty leaf := by
  unfold State.dirty
  dsimp only
  split
  next h2 =>
    have hbit : bit 63 ((m.ctx n).reg 6) = false := h.resolve_left fun e => e h2
    unfold State.logDirty
    simp [hbit]
  · rfl

theorem State.setDirty_leaves (s : State) (leaf : Option Nat) : (s.setDirty leaf).host = s.host ∧ (s.setDirty leaf).tags = s.tags ∧
    (s.setDirty leaf).mem = match leaf with
      | some d => s.mem.set (d + 6) (s.mem.get (d + 6) ||| 0x20)
      | none => s.mem := by
  cases leaf with
  | none => exact ⟨rfl, rfl, rfl⟩
  | some d =>
    obtain ⟨k, hk⟩ := s.touchCache_cache true ((d + 6) / 64)
    have hm : ∃ c, (s.touchCache true ((d + 6) / 64)).markGranule ((d + 6) / 64) = { s with cache := k, ck := c } := by
      rw [hk]
      unfold State.markGranule
      split
      · dsimp only; split <;> exact ⟨_, rfl⟩
      · exact ⟨s.ck, rfl⟩
    obtain ⟨c, hc⟩ := hm
    unfold State.setDirty State.devOr
    simp only [hc, and_self]

/-- The D bits of the leaves of some parts, whose commands a core has, in device memory. -/
def marked (c : Core) (l : List CbPart) (m : Mem) : Mem := l.foldl (fun m p => match c.actOf p.cmd, p.leaf with
  | some _, some d => m.set (d + 6) (m.get (d + 6) ||| 0x20)
  | _, _ => m) m

/-- The D bits are set, and the dirty log of parts written. -/
def State.dirtyParts (s : State) (n : Nat) (l : List CbPart) : State := l.foldl (fun t p => match (t.getCore n).actOf p.cmd with
  | some a => t.dirty n a.cmd p.leaf p.va
  | none => t) s

theorem State.dirtyParts_leaves {s : State} {n : Nat} {l : List CbPart}
    (h : ∀ p ∈ l, ∀ a, (s.getCore n).actOf p.cmd = some a → a.cmd.dSpace ≠ 2 ∨ (vget a.cmd.xlat 6 0).getLsbD 63 = false) :
    s.SameCores (s.dirtyParts n l) ∧ (s.dirtyParts n l).host = s.host ∧ (s.dirtyParts n l).tags = s.tags ∧
      (s.dirtyParts n l).mem = marked (s.getCore n) l s.mem := by
  induction l generalizing s with
  | nil => exact ⟨.refl s, rfl, rfl, rfl⟩
  | cons p l ih =>
    have hp := h p List.mem_cons_self
    have hl := fun q hq => h q (List.mem_cons_of_mem p hq)
    unfold State.dirtyParts marked at ih ⊢
    rw [List.foldl_cons, List.foldl_cons]
    cases ha : (s.getCore n).actOf p.cmd with
    | none => exact ih hl
    | some a =>
      dsimp only
      rw [s.dirty_unlogged n p.leaf p.va (hp a ha)]
      have hsame := State.SameCores.setDirty s p.leaf
      obtain ⟨h1, h2, h3⟩ := s.setDirty_leaves p.leaf
      obtain ⟨i0, i1, i2, i3⟩ := ih (s := s.setDirty p.leaf) (by rw [hsame.getCore]; exact hl)
      refine ⟨hsame.trans i0, i1.trans h1, i2.trans h2, i3.trans ?_⟩
      rw [hsame.getCore, h3]
      cases p.leaf <;> rfl

/-- The tag of a grain just tagged. -/
theorem State.tagOf_setTag (s : State) (g : Nat) (w : BitVec 12) (r : BitVec 20) :
    (s.setTag g w r).tagOf g = { grain := g, writer := w, region := r } := by
  have hfree : ∀ t ∈ s.tags.filter (fun t => t.grain ≠ g), t.grain ≠ g := fun t ht => by simpa using (List.mem_filter.mp ht).2
  unfold State.setTag
  dsimp only
  split
  next h =>
    obtain ⟨hw, hr⟩ : w = 0xFFF ∧ r = 0 := by simpa using h
    have hnone : (s.tags.filter fun t => t.grain ≠ g).find? (fun t => t.grain = g) = none :=
      List.find?_eq_none.mpr fun t ht => by simpa using hfree t ht
    rw [State.tagOf]
    simp only [hnone, Option.getD_none, hw, hr]
  next =>
    have hbefore : ((s.tags.filter fun t => t.grain ≠ g).takeWhile fun t => t.grain < g).find? (fun t => t.grain = g) = none :=
      List.find?_eq_none.mpr fun t ht => by simpa using hfree t ((List.takeWhile_sublist _).subset ht)
    rw [State.tagOf]
    simp only [List.find?_append, hbefore, Option.none_or]
    rw [List.find?_cons_of_pos (by simp), Option.getD_some]

theorem State.tagOf_congr {s t : State} (h : t.tags = s.tags) (g : Nat) : t.tagOf g = s.tagOf g := by rw [State.tagOf, h]; rfl

theorem State.moves_tags (s : State) (t : BitVec 4) (h : Home) (g : Nat) : (s.moves t h g).tags = s.tags := by
  obtain ⟨m, hm⟩ := s.moves_reads t h g
  rw [hm]
  rfl

/-- The region whose tag a write of parts leaves: of the last part, where the race check covers it (07 R180). -/
def Core.tagRegion (c : Core) (l : List CbPart) : Option (BitVec 20) :=
  (l.getLast?.filter (·.covered)).bind fun p => (c.actOf p.cmd).map (·.cmd.region)

/-- The machine once the data of an entry stand at their home, and the entry has left the combine buffer. -/
def State.entryWritten (s : State) (n : Nat) (e : CbEnt) : State :=
  let tag := (s.getCore n).tagRegion e.parts
  let t := ((s.writeGrain e.home e.grain (e.parts.flatMap (·.bytes)) (if tag.isSome then BitVec.ofNat 12 n else 0xFFF)
    (tag.getD 0)).moves (s.getCore n).tenant e.home e.grain).dirtyParts n e.parts
  t.putCore n { t.getCore n with cp := { (t.getCore n).cp with cb := (t.getCore n).cp.cb.filter (!e.same ·) } }

/-- An entry whose parts all succeed. -/
theorem State.writeEntry_ok {s u : State} {n : Nat} {e : CbEnt} (he : (s.getCore n).cp.cb.find? e.same = some e) (hne : e.parts ≠ [])
    (hheld : ∀ p ∈ e.parts, s.partHeld n p = false) (hst : ∀ p ∈ e.parts, s.partStatus n e p = 0)
    (hclaim : (∃ p ∈ e.parts, p.covered = true) → s.claimed n (e.home, e.grain) = false)
    (hu : e.parts.foldl (fun r p => r.bind fun t => t.settlePart n p) (some s) = some u) :
    s.writeEntry n e = some (u.entryWritten n e) := by
  have hbad : e.parts.filter (fun p => s.partStatus n e p ≠ 0) = [] := List.filter_eq_nil_iff.mpr fun p hp => by simp [hst p hp]
  have hany : e.parts.any (fun p => s.partHeld n p) = false := List.any_eq_false.mpr fun p hp => by simp [hheld p hp]
  have hcl : (e.parts.any (·.covered) && s.claimed n (e.home, e.grain)) = false := by
    cases hc : e.parts.any (·.covered) with
    | false => rfl
    | true =>
      obtain ⟨p, hp, hpc⟩ := List.any_eq_true.mp hc
      exact hclaim ⟨p, hp, hpc⟩
  have hempty : e.parts.isEmpty = false := by simpa using hne
  have he' : (s.getCore n).cp.cb.find? (fun f => decide (f.home = e.home) && decide (f.grain = e.grain)) = some e := he
  unfold State.writeEntry
  simp only [hbad, hany, he', hcl, hu, hempty, List.foldl_nil, Option.bind_some, Option.map_some, Option.getD_some, Bool.false_eq_true, if_false]
  rfl

/-- What the write of an entry leaves, apart from the commands that it ends. -/
theorem State.entryWritten_leaves {u : State} {n : Nat} {e : CbEnt}
    (h : ∀ p ∈ e.parts, ∀ a, (u.getCore n).actOf p.cmd = some a → a.cmd.dSpace ≠ 2 ∨ (vget a.cmd.xlat 6 0).getLsbD 63 = false) :
    let t := u.entryWritten n e
    let bs := e.parts.flatMap (·.bytes)
    let tag := (u.getCore n).tagRegion e.parts
    (t.getCore n).cp.cb = (u.getCore n).cp.cb.filter (!e.same ·) ∧
    (e.home = .dev → t.mem = marked (u.getCore n) e.parts (putBytes u.mem e.grain bs) ∧ t.host = u.host ∧
      t.tagOf e.grain = { grain := e.grain, writer := if tag.isSome then BitVec.ofNat 12 n else 0xFFF, region := tag.getD 0 }) ∧
    (e.home = .host → t.mem = marked (u.getCore n) e.parts u.mem ∧ t.host = putBytes u.host e.grain bs) := by
  set tag := (u.getCore n).tagRegion e.parts with htag
  set bs := e.parts.flatMap (·.bytes) with hbs
  set v := u.writeGrain e.home e.grain bs (if tag.isSome then BitVec.ofNat 12 n else 0xFFF) (tag.getD 0) with hv
  set x := v.moves (u.getCore n).tenant e.home e.grain with hx
  have hcore : x.getCore n = u.getCore n := ((State.SameCores.writeGrain u _ _ _ _ _).trans (.moves v _ _ _)).getCore n
  obtain ⟨hsame, hhost, htags, hmem⟩ := State.dirtyParts_leaves (s := x) (n := n) (l := e.parts) (by rw [hcore]; exact h)
  obtain ⟨m1, m2⟩ := State.moves_same v (u.getCore n).tenant e.home e.grain
  have ht : u.entryWritten n e = (x.dirtyParts n e.parts).putCore n { (x.dirtyParts n e.parts).getCore n with cp :=
    { ((x.dirtyParts n e.parts).getCore n).cp with cb := ((x.dirtyParts n e.parts).getCore n).cp.cb.filter (!e.same ·) } } := rfl
  obtain ⟨p1, p2, -, p4⟩ := State.SameMemory.putCore (x.dirtyParts n e.parts) n { (x.dirtyParts n e.parts).getCore n with cp :=
    { ((x.dirtyParts n e.parts).getCore n).cp with cb := ((x.dirtyParts n e.parts).getCore n).cp.cb.filter (!e.same ·) } }
  rw [ht]
  refine ⟨?_, fun hd => ⟨?_, ?_, ?_⟩, fun hd => ⟨?_, ?_⟩⟩
  · rw [State.getCore_putCore, hsame.getCore, hcore]
  · rw [p1, hmem, hcore, m1, hv, hd]
    exact congrArg _ (State.devWrite_mem ..).1
  · rw [p2, hhost, m2, hv, hd]
    exact (State.devWrite_mem ..).2
  · rw [State.tagOf_congr p4, State.tagOf_congr htags, State.tagOf_congr (v.moves_tags ..), hv, hd]
    exact State.tagOf_setTag ..
  · rw [p1, hmem, hcore, m1, hv, hd]
    rfl
  · rw [p2, hhost, m2, hv, hd]
    rfl

theorem State.Calm.retireParts (s : State) (n : Nat) (l : List CbPart) : s.Calm (l.foldl (fun t p => t.retire n p.cmd) s) :=
  List.foldlRecOn (motive := s.Calm) l _ (.refl s) fun t ht p _ => ht.trans (.retire t n p.cmd)

theorem State.SameMemory.failAt {s u : State} {n : Nat} {a : Active} {pos : Nat × Nat} {st : BitVec 8} {ad : Nat}
    (h : s.failAt n a pos st ad = some u) : s.SameMemory u := by
  unfold State.failAt at h
  dsimp only at h
  split at h
  · exact Option.some.inj h ▸ .adopt s n _
  · cases h

/-- Parts that fail leave every memory as it is. -/
theorem State.SameMemory.failPart {s u : State} {n : Nat} {p : CbPart} {st : BitVec 8} (h : s.failPart n p st = some u) : s.SameMemory u := by
  unfold State.failPart at h
  split at h
  · cases h
    exact .refl s
  · exact .failAt h

/-- The one part of an entry fails, and no data remain for its grain: nothing is written. -/
theorem State.writeEntry_fails {s u : State} {n : Nat} {e : CbEnt} {p : CbPart} (hp : e.parts = [p])
    (hheld : s.partHeld n p = false) (hst : s.partStatus n e p ≠ 0) (hu : s.failPart n p (s.partStatus n e p) = some u)
    (hnone : (u.getCore n).cp.cb.find? e.same = none) :
    s.writeEntry n e = some (u.putCore n { u.getCore n with cp := { (u.getCore n).cp with cb := (u.getCore n).cp.cb.filter (!e.same ·) } }) := by
  have hnone' : (u.getCore n).cp.cb.find? (fun f => decide (f.home = e.home) && decide (f.grain = e.grain)) = none := hnone
  have hbad : [p].filter (fun p => s.partStatus n e p ≠ 0) = [p] := List.filter_cons_of_pos (by simpa using hst)
  unfold State.writeEntry
  simp only [hp, hbad, hnone', hu, hheld, List.any_cons, List.any_nil, List.foldl_cons, List.foldl_nil, Option.bind_some, Option.map_none,
    Option.getD_none, Bool.or_false, Bool.false_and, Bool.false_eq_true, if_false, Option.map_some, List.isEmpty_nil, if_true]
  rfl

/-! ## The statement -/

theorem onEngine_runs {n : Nat} {s : State} (hn : n < 2048) (hclock : s.clockStopped n = false) (f : State) : onEngine n s f = .next f := by
  rw [onEngine, onDevice_core hn, hclock]
  rfl

/-- A command that is kept for later has the leaf marks and the region of the command it was. -/
theorem State.Forward.marked {n : Nat} {s t : State} (h : State.Forward n s t) (l : List CbPart) (m : Mem) :
    marked (t.getCore n) l m = marked (s.getCore n) l m := by
  unfold Machine.marked
  refine congrArg (fun f => l.foldl f m) (funext fun m => funext fun p => ?_)
  cases ha : (s.getCore n).actOf p.cmd with
  | none => rw [h.actOf_none ha]
  | some a =>
    obtain ⟨b, hb, -⟩ := h.actOf ha
    rw [hb]
    cases p.leaf <;> rfl

theorem State.Forward.cmd {n id : Nat} {s t : State} (h : State.Forward n s t) :
    ((t.getCore n).actOf id).map (·.cmd) = ((s.getCore n).actOf id).map (·.cmd) := by
  have := congrArg (Option.map fun a : Active => a.cmd) (h.acts id)
  rw [Option.map_map, Option.map_map] at this
  exact this

section
variable {n g tr : Nat} {a : Active} {s : State} (hn : n < 2048) (hclock : s.clockStopped n = false)
include hn hclock

theorem execMerge_eq (ha : (s.getCore n).actOf a.cmd.id = some a) : execMerge n a.cmd.id g tr s = .next (s.mergeMove n a g tr) := by
  refine (onEngine_runs hn hclock _).trans ?_
  rw [ha]

/-- A Merge move of a grain that may be merged, as the machine's step. -/
theorem execMerge_merges (hspace : 2 ≤ a.cmd.dSpace) (hred : a.cmd.red = false) (h : s.MergeReady n a.cmd.id a g tr)
    (hjoin : ∀ e ∈ (s.getCore n).cp.cb, e.isAt (s.mergePlace n a g tr) = true → e.joins a.cmd = true)
    (ha : (s.getCore n).actOf a.cmd.id = some a) {l : List CbEnt}
    (hl : mergedInto (s.getCore n).cp.cb a.cmd (s.mergePlace n a g tr) (s.mergePart n a g tr) = l) :
    (s.readAhead n a.cmd ((s.mergePlace n a g tr).home, (s.mergePlace n a g tr).num) = none → execMerge n a.cmd.id g tr s = .next s) ∧
    ∀ u, s.readAhead n a.cmd ((s.mergePlace n a g tr).home, (s.mergePlace n a g tr).num) = some u →
      ∃ t, execMerge n a.cmd.id g tr s = .next t ∧ t.mem = s.mem ∧ t.host = s.host ∧ t.peers = s.peers ∧ (t.getCore n).cp.cb = l ∧
        (t.getCore n).actOf a.cmd.id = some { u.actNow n a with done := a.done ++ [2 * g], pins := a.pins } := by
  obtain ⟨hstays, hmerges⟩ := State.mergeMove_merges hspace hred h hjoin ha hl
  refine ⟨fun hu => (execMerge_eq hn hclock ha).trans (by rw [hstays hu]), fun u hu => ?_⟩
  obtain ⟨t, ht, hleaves⟩ := hmerges u hu
  exact ⟨t, (execMerge_eq hn hclock ha).trans (by rw [ht]), hleaves⟩

variable {nth : Nat} {e : CbEnt} {rest : List CbEnt} (hdrop : (s.getCore n).cp.cb.drop nth = e :: rest)
  (honly : ∀ f ∈ (s.getCore n).cp.cb, f.home = e.home → f.grain = e.grain → f = e)
  (halone : s.together n (s.getCore n).cp.cb.length [e] = some [e])
include hdrop honly halone

omit hn hclock halone in
theorem find?_entry : (s.getCore n).cp.cb.find? e.same = some e :=
  find?_same (List.mem_of_mem_drop (hdrop ▸ List.mem_cons_self)) honly

/-- A Write move of an entry that is taken alone, and that can be written. -/
theorem execWrite_alone {t : State} (ht : s.writeEntry n e = some t) :
    execWrite n nth s = .next (e.parts.foldl (fun t p => t.retire n p.cmd) t) := by
  refine (onEngine_runs hn hclock _).trans ?_
  rw [hdrop]
  dsimp only
  rw [State.writeMove_alone (find?_entry hdrop honly) halone, ht, Option.map_some, Option.getD_some]

/-- A Write move of an entry whose parts all succeed. -/
theorem execWrite_ok (hne : e.parts ≠ []) (hheld : ∀ p ∈ e.parts, s.partHeld n p = false)
    (hst : ∀ p ∈ e.parts, s.partStatus n e p = 0)
    (hlog : ∀ p ∈ e.parts, ∀ a, (s.getCore n).actOf p.cmd = some a → a.cmd.dSpace ≠ 2 ∨ (vget a.cmd.xlat 6 0).getLsbD 63 = false)
    (hclaim : (∃ p ∈ e.parts, p.covered = true) → s.claimed n (e.home, e.grain) = false) {u : State}
    (hu : e.parts.foldl (fun r p => r.bind fun t => t.settlePart n p) (some s) = some u) :
    ∃ t, execWrite n nth s = .next t ∧ (t.getCore n).cp.cb = (s.getCore n).cp.cb.filter (!e.same ·) ∧
      (e.home = .dev → t.mem = marked (s.getCore n) e.parts (putBytes s.mem e.grain (e.parts.flatMap (·.bytes))) ∧ t.host = s.host) ∧
      (e.home = .host → t.mem = marked (s.getCore n) e.parts s.mem ∧ t.host = putBytes s.host e.grain (e.parts.flatMap (·.bytes))) ∧
      (e.home = .dev → t.tagOf e.grain = Tag.mk e.grain
        (if ((s.getCore n).tagRegion e.parts).isSome then BitVec.ofNat 12 n else 0xFFF) (((s.getCore n).tagRegion e.parts).getD 0)) := by
  have hfw : State.Forward n s u := State.ForwardBy.settleParts s n e.parts u hu
  have hlog' : ∀ p ∈ e.parts, ∀ a, (u.getCore n).actOf p.cmd = some a → a.cmd.dSpace ≠ 2 ∨ (vget a.cmd.xlat 6 0).getLsbD 63 = false := by
    intro p hp b hb
    have hcmd := hfw.cmd (id := p.cmd)
    rw [hb] at hcmd
    obtain ⟨a, ha, hab⟩ := Option.map_eq_some_iff.mp hcmd.symm
    rw [← show a.cmd = b.cmd from hab]
    exact hlog p hp a ha
  have htag : (u.getCore n).tagRegion e.parts = (s.getCore n).tagRegion e.parts := by
    unfold Core.tagRegion
    refine congrArg _ (funext fun p => ?_)
    have hcmd := congrArg (Option.map fun m : Cmd => m.region) (hfw.cmd (id := p.cmd))
    rw [Option.map_map, Option.map_map] at hcmd
    exact hcmd
  obtain ⟨hcb, hdev, hhost⟩ := State.entryWritten_leaves (n := n) (e := e) hlog'
  obtain ⟨m1, m2, -, -⟩ := hfw.sameMemory
  obtain ⟨⟨c1, c2, -, c4⟩, ccb⟩ := State.Calm.retireParts (u.entryWritten n e) n e.parts
  rw [htag] at hdev
  refine ⟨_, execWrite_alone hn hclock hdrop honly halone
    (State.writeEntry_ok (find?_entry hdrop honly) hne hheld hst hclaim hu), ?_, fun hd => ⟨?_, ?_⟩, fun hd => ⟨?_, ?_⟩,
    fun hd => ?_⟩
  · rw [ccb, hcb, hfw.cb]
  · rw [c1, (hdev hd).1, m1, hfw.marked]
  · rw [c2, (hdev hd).2.1, m2]
  · rw [c1, (hhost hd).1, m1, hfw.marked]
  · rw [c2, (hhost hd).2, m2]
  · rw [State.tagOf_congr c4, (hdev hd).2.2]

/-- A Write move of an entry whose one part fails. -/
theorem execWrite_fails {p : CbPart} {u : State} (hp : e.parts = [p]) (hheld : s.partHeld n p = false)
    (hst : s.partStatus n e p ≠ 0) (hu : s.failPart n p (s.partStatus n e p) = some u)
    (hnone : ∀ f ∈ (u.getCore n).cp.cb, ¬(f.home = e.home ∧ f.grain = e.grain)) :
    ∃ t, execWrite n nth s = .next t ∧ s.SameMemory t := by
  have hfind : (u.getCore n).cp.cb.find? e.same = none := List.find?_eq_none.mpr fun f hf => by simpa [CbEnt.same] using hnone f hf
  exact ⟨_, execWrite_alone hn hclock hdrop honly halone (State.writeEntry_fails hp hheld hst hu hfind),
    ((State.SameMemory.failPart hu).trans (.putCore u n _)).trans (State.Calm.retireParts _ n e.parts).1⟩

end

/-- Settles O55: a merge by `State.mergeMove_merges`, a write by `State.writeEntry_ok` and `State.writeEntry_fails`, and the grains
that a command performs by where its walk stops. -/
theorem writesMergeAndBecomeVisible : Obligations.WritesMergeAndBecomeVisible := by
  unfold Obligations.WritesMergeAndBecomeVisible
  refine ⟨?moves, ?grains⟩
  case moves =>
    intro n id g tr nth a e rest s hn hclock
    refine ⟨fun ha hspace hred hfirst => ?_, fun hgoes hne hst hlog hclaim u hu => ?_, fun hgoes p u hp hst hu hnone => ?_⟩
    · obtain rfl : a.cmd.id = id := Core.actOf_id ha
      refine ⟨fun hfree => ?_, fun f hcb hhome hgrain => ⟨fun hlone hrel hep => ?_, fun happart => ?_⟩⟩
      · have hnone : ∀ f ∈ (s.getCore n).cp.cb, ¬f.isAt (s.mergePlace n a g tr) = true := fun f hf hat => hfree f hf ((f.isAt_iff _).mp hat)
        refine execMerge_merges hn hclock hspace hred hfirst (fun f hf hat => absurd hat (hnone f hf)) ha (if_neg ?_)
        simpa using hnone
      · have hat : f.isAt (s.mergePlace n a g tr) = true := (f.isAt_iff _).mpr ⟨hhome, hgrain⟩
        refine execMerge_merges hn hclock hspace hred hfirst (fun e he _ => ?_) ha ?_
        · obtain rfl : e = f := by simpa [show (s.getCore n).cp.cb = [f] from hcb] using he
          simp [CbEnt.joins, hlone, hrel, hep]
        · rw [show (s.getCore n).cp.cb = [f] from hcb, mergedInto, if_pos (by simp [hat]), List.map_cons, if_pos hat]
          rfl
      · have hat : f.isAt (s.mergePlace n a g tr) = true := (f.isAt_iff _).mpr ⟨hhome, hgrain⟩
        have hj : f.joins a.cmd = false := by rcases happart with h | h | h <;> simp [CbEnt.joins, h]
        exact (execMerge_eq hn hclock ha).trans (by rw [State.mergeMove_apart hspace hred hfirst (hcb ▸ List.mem_cons_self) hat hj])
    · obtain ⟨hdrop, honly, halone, hheld⟩ := hgoes
      obtain ⟨t, ht, hcb, hdev, hhost, htag⟩ := execWrite_ok hn hclock hdrop honly halone hne hheld hst hlog hclaim hu
      refine ⟨t, ht, hcb, hdev, hhost, fun hd p hp => ⟨fun hc => ?_, fun hc b hb => ?_⟩⟩
      · have hnone : (s.getCore n).tagRegion e.parts = none := by simp [Core.tagRegion, hp, hc]
        rw [htag hd, hnone]
        rfl
      · have hsome : (s.getCore n).tagRegion e.parts = some b.cmd.region := by
          rw [Core.tagRegion, hp, Option.filter_some_pos hc, Option.bind_some, hb]
          rfl
        rw [htag hd, hsome]
        exact ⟨rfl, rfl⟩
    · obtain ⟨hdrop, honly, halone, hheld⟩ := hgoes
      exact execWrite_fails hn hclock hdrop honly halone hp (hheld p (hp ▸ List.mem_cons_self)) hst hu hnone
  case grains =>
    intro w before after u a g st ad
    refine ⟨fun h hw => ⟨Plain.required_all h g hw, Plain.dueBytes_all h g hw, fun hg => ?_⟩, fun h hw hb hu hst => ?_,
      fun h hs hf hu hr hd => Plain.not_required_of_race h g hs hf hu hr hd⟩
    · have hclean : ∀ v ∈ w, v.Clean := hw
      have hd := Plain.unitsDue_end h fun v hv => (hclean v hv).not_failed
      rw [deliverable_required (by rwa [hd]) ((Plain.required_all h g hw).mpr hg),
        Plain.dueBytes_all h g hw]
      rfl
    · subst hw
      have hd := Plain.unitsDue_fail h hb hu hst
      refine ⟨Plain.required_before h hb hu hst g, Plain.dueBytes_before h hb hu hst g, fun hr => ?_,
        Plain.deliverable_failing h hb hu hst g, Plain.deliverable_beyond h hb hu hst g⟩
      rw [deliverable_required (by rwa [hd]) hr, Plain.dueBytes_before h hb hu hst g]
      rfl

end Sys2Proof.Machine
end

section
/-! PROOFS. Atomic moves and the reply of a CATOM (07 R181; 09 R232, R237, R238; 12 R296). -/

namespace Sys2Proof.Machine

/-! ## Writes of the atomic units -/

theorem State.SameCores.noteGrain (s : State) (c : Ctx) (space win g : Nat) (tr : Option TlbEnt) :
    s.SameCores (s.noteGrain c space win g tr) := by
  obtain ⟨l, t, h⟩ := s.noteGrain_eq c space win g tr
  rw [h]
  exact ⟨rfl, rfl, rfl⟩

theorem State.SameCores.atomTouch (s : State) (x : Grain) : s.SameCores (s.atomTouch x) := by
  unfold State.atomTouch
  split
  · exact .touchCache s true x.num
  · exact .refl s

theorem State.SameCores.atomPut (s : State) (h : Home) (g : Nat) (bs : List (Nat × Byte)) : s.SameCores (s.atomPut h g bs) := by
  have hw := State.SameCores.writeGrain s h g bs 0 0
  cases h with
  | dev =>
    have hm := (State.SameCores.touchCache s true g).trans (.markGranule _ g)
    exact ⟨hm.1, hm.2.1, hm.2.2⟩
  | host => exact hw
  | peer n => exact hw
  | core n => exact hw

theorem State.SameMemory.atomTouch (s : State) (x : Grain) : s.SameMemory (s.atomTouch x) := by
  unfold State.atomTouch
  split
  · obtain ⟨l, hl⟩ := s.touchCache_cache true x.num
    rw [hl]
    exact ⟨rfl, rfl, rfl, rfl⟩
  · exact .refl s

theorem State.SameMemory.noteGrain (s : State) (c : Ctx) (space win g : Nat) (tr : Option TlbEnt) :
    s.SameMemory (s.noteGrain c space win g tr) := by
  obtain ⟨l, t, h⟩ := s.noteGrain_eq c space win g tr
  rw [h]
  exact ⟨rfl, rfl, rfl, rfl⟩

theorem State.SameMemory.moves (s : State) (t : BitVec 4) (h : Home) (g : Nat) : s.SameMemory (s.moves t h g) := by
  obtain ⟨m, hm⟩ := s.moves_reads t h g
  rw [hm, State.afterReads]
  exact ⟨rfl, rfl, rfl, rfl⟩

theorem State.markGranule_tags (s : State) (g : Nat) : (s.markGranule g).tags = s.tags := by
  unfold State.markGranule
  split
  · dsimp only; split <;> rfl
  · rfl

/-- A write of the router atomic unit leaves the tag (07 R181). -/
theorem State.atomPut_dev (s : State) (g : Nat) (bs : List (Nat × Byte)) : (s.atomPut .dev g bs).mem = putBytes s.mem g bs ∧
    (s.atomPut .dev g bs).host = s.host ∧ (s.atomPut .dev g bs).tags = s.tags := by
  obtain ⟨l, hl⟩ := s.touchCache_cache true g
  obtain ⟨h1, h2⟩ := (s.touchCache true g).markGranule_same g
  have h3 := (s.touchCache true g).markGranule_tags g
  rw [hl] at h1 h2 h3
  unfold State.atomPut
  dsimp only
  rw [hl, h1]
  exact ⟨rfl, h2, h3⟩

theorem State.atomPut_host (s : State) (g : Nat) (bs : List (Nat × Byte)) :
    (s.atomPut .host g bs).mem = s.mem ∧ (s.atomPut .host g bs).host = putBytes s.host g bs := ⟨rfl, rfl⟩

/-! ## Replay off (14 R352) -/

theorem State.replayOk_off {s : State} {n : Nat} (h : (s.getCore n).replayMode = 0) (kind value : Nat) : s.replayOk n kind value = true := by
  unfold State.replayOk
  simp [h]

theorem State.record_off {s : State} {n : Nat} (h : (s.getCore n).replayMode = 0) (kind value : Nat) :
    s.record n kind value = s.putCore n ((s.getCore n).replayNext kind) := by
  unfold State.record
  simp [h]

theorem State.SameMemory.record_off {s : State} {n : Nat} (h : (s.getCore n).replayMode = 0) (kind value : Nat) :
    s.SameMemory (s.record n kind value) := by
  rw [State.record_off h]
  exact .putCore s n _

/-! ## CATOM (09 R237) -/

/-- The place of a CATOM's word, and the bytes it finds there. -/
def State.catomPlace (s : State) (n : Nat) (a : Active) (tr : Nat) : Grain :=
  s.grainOf (a.cmd.ctx n) .atomic a.cmd.dSpace a.cmd.dWin (a.cmd.atomAt / 64) (s.choice n a a.cmd.dSpace a.cmd.dWin (a.cmd.atomAt / 64) tr)

def State.catomGot (s : State) (n : Nat) (a : Active) (tr : Nat) : List (BitVec 8 × Byte) :=
  ((s.readGrain (s.catomPlace n a tr)).drop (a.cmd.atomAt % 64)).take (if a.cmd.atomOp.2 then 8 else 4)

/-- The word that a CATOM finds, and the bytes of the new one with their places. -/
def State.catomOld (s : State) (n : Nat) (a : Active) (tr : Nat) : Nat := leNat ((s.catomGot n a tr).map (·.2))

def State.catomBytes (s : State) (n : Nat) (a : Active) (tr : Nat) : List (Nat × Byte) :=
  let k := if a.cmd.atomOp.2 then 8 else 4
  (leBytes k (atomNew a.cmd.atomOp.1 (8 * k) (s.catomOld n a tr) (vget a.cmd.par 1 0).toNat (vget a.cmd.par 2 0).toNat)).zipIdx.map
    fun p => (a.cmd.atomAt % 64 + p.2, p.1)

/-- The machine once a CATOM's grain is found and cached. -/
def State.catomFound (s : State) (n : Nat) (a : Active) (tr : Nat) : State :=
  (s.noteGrain (a.cmd.ctx n) a.cmd.dSpace a.cmd.dWin (a.cmd.atomAt / 64)
    (s.choice n a a.cmd.dSpace a.cmd.dWin (a.cmd.atomAt / 64) tr)).atomTouch (s.catomPlace n a tr)

theorem State.SameMemory.catomFound (s : State) (n : Nat) (a : Active) (tr : Nat) : s.SameMemory (s.catomFound n a tr) :=
  (State.SameMemory.noteGrain s _ _ _ _ _).trans (.atomTouch _ _)

theorem State.SameCores.catomFound (s : State) (n : Nat) (a : Active) (tr : Nat) : s.SameCores (s.catomFound n a tr) :=
  (State.SameCores.noteGrain s _ _ _ _ _).trans (.atomTouch _ _)

section
variable {s : State} {n tr : Nat} {a : Active}

/-- A CATOM waits for a link in key hold on its way, or on that to the dirty log (15 R362). -/
theorem State.catomMove_waits (h : (s.catomPlace n a tr).held = true ∨ a.cmd.dSpace = 2 ∧ s.dirtyHeld (a.cmd.ctx n) a.cmd.atomAt = true) :
    s.catomMove n a (a.cmd.atomAt / 64) tr = s := by
  unfold State.catomPlace at h
  unfold State.catomMove
  refine if_pos ?_
  rcases h with h | ⟨h1, h2⟩
  · simp [h]
  · simp [h1, h2]

variable (hgot : a.got = []) (hheld : (s.catomPlace n a tr).held = false)
  (hlog : ¬(a.cmd.dSpace = 2 ∧ s.dirtyHeld (a.cmd.ctx n) a.cmd.atomAt = true))
  (hatom : s.atomicBefore n a.cmd.id ((s.catomPlace n a tr).home, (s.catomPlace n a tr).num) = false)
  (hpath : s.pathWaits n a (tookKey a.cmd.dSpace a.cmd.dWin (a.cmd.atomAt / 64)) (s.catomPlace n a tr) = false)
include hgot hheld hlog hatom hpath

/-- A CATOM that may be performed. -/
theorem State.catomMove_ready : s.catomMove n a (a.cmd.atomAt / 64) tr =
    ((s.catomGot n a tr).find? fun p => p.1 ≠ 0).elim
      (if ((s.catomPlace n a tr).home = .host && !hostOp a.cmd.atomOp.1) = true then (s.catomFound n a tr).setAct n (a.reply 0x0E 0)
        else if (!s.replayOk n 3 (s.catomOld n a tr)) = true then s
        else ((((((s.catomFound n a tr).atomPut (s.catomPlace n a tr).home (s.catomPlace n a tr).num (s.catomBytes n a tr)).moves a.cmd.tenant
          (s.catomPlace n a tr).home (s.catomPlace n a tr).num).dirty n a.cmd (s.catomPlace n a tr).leaf a.cmd.atomAt).record n 3
            (s.catomOld n a tr)).setAct n (a.reply 0 (s.catomOld n a tr))))
      fun p => (s.catomFound n a tr).setAct n (a.reply p.1 0) := by
  have hlog' : (decide (a.cmd.dSpace = 2) && s.dirtyHeld (a.cmd.ctx n) a.cmd.atomAt) = false :=
    Bool.eq_false_iff.mpr fun e => hlog (by simpa using e)
  unfold State.catomFound State.catomBytes State.catomOld State.catomGot
  unfold State.catomPlace at *
  unfold State.catomMove
  simp only [hgot, hheld, hlog', hatom, hpath, ne_eq, not_true_eq_false, decide_false, List.isEmpty_nil, Bool.not_true, Bool.or_false,
    Bool.false_eq_true, if_false]
  cases List.find? _ _ with
  | none => rfl
  | some p => rfl

/-- A CATOM that finds a failing byte brings its status. -/
theorem State.catomMove_fails {p : BitVec 8 × Byte} (h : (s.catomGot n a tr).find? (fun q => q.1 ≠ 0) = some p) :
    s.catomMove n a (a.cmd.atomAt / 64) tr = (s.catomFound n a tr).setAct n (a.reply p.1 0) := by
  rw [State.catomMove_ready hgot hheld hlog hatom hpath, h]
  rfl

variable (hz : ∀ p ∈ s.catomGot n a tr, p.1 = 0)
include hz

omit hgot hheld hlog hatom hpath in
theorem State.catomGot_ok : (s.catomGot n a tr).find? (fun q => q.1 ≠ 0) = none :=
  List.find?_eq_none.mpr fun p hp => by simpa using hz p hp

/-- An operation that the host's interface lacks brings TRANSFORM (R237). -/
theorem State.catomMove_lacks (hhome : (s.catomPlace n a tr).home = .host) (hop : hostOp a.cmd.atomOp.1 = false) :
    s.catomMove n a (a.cmd.atomAt / 64) tr = (s.catomFound n a tr).setAct n (a.reply 0x0E 0) := by
  rw [State.catomMove_ready hgot hheld hlog hatom hpath, State.catomGot_ok hz, Option.elim_none, if_pos (by simp [hhome, hop])]

/-- A CATOM performed, with no D bit to set, no dirty log, and replay off. -/
theorem State.catomMove_done (hleaf : (s.catomPlace n a tr).leaf = none)
    (hunlogged : a.cmd.dSpace ≠ 2 ∨ (vget a.cmd.xlat 6 0).getLsbD 63 = false) (hreplay : (s.getCore n).replayMode = 0)
    (hop : (s.catomPlace n a tr).home = .host → hostOp a.cmd.atomOp.1 = true) :
    s.catomMove n a (a.cmd.atomAt / 64) tr = (((((s.catomFound n a tr).atomPut (s.catomPlace n a tr).home (s.catomPlace n a tr).num
      (s.catomBytes n a tr)).moves a.cmd.tenant (s.catomPlace n a tr).home (s.catomPlace n a tr).num).record n 3
        (s.catomOld n a tr)).setAct n (a.reply 0 (s.catomOld n a tr))) := by
  have hhost : ¬(decide ((s.catomPlace n a tr).home = .host) && !hostOp a.cmd.atomOp.1) = true := by simpa using hop
  rw [State.catomMove_ready hgot hheld hlog hatom hpath, State.catomGot_ok hz, Option.elim_none, if_neg hhost,
    State.replayOk_off hreplay, if_neg (by decide), hleaf, State.dirty_unlogged _ n none _ hunlogged]
  rfl

end

/-- A command of a core replaced by another with its number. -/
theorem State.setAct_actOf {s : State} {n : Nat} {a b : Active} (ha : (s.getCore n).actOf b.cmd.id = some a) :
    ((s.setAct n b).getCore n).actOf b.cmd.id = some b := by
  rw [State.setAct, State.getCore_putCore]
  exact Core.actOf_setAct_same ha

theorem State.record_actOf (s : State) (n kind value id : Nat) :
    ((s.record n kind value).getCore n).actOf id = (s.getCore n).actOf id := by
  rw [State.record_getCore]
  rfl

/-- What a CATOM that fails leaves. -/
theorem State.catomFails_leaves {s : State} {n tr : Nat} {a : Active} (ha : (s.getCore n).actOf a.cmd.id = some a) (st : BitVec 8) (v : Nat) :
    (((s.catomFound n a tr).setAct n (a.reply st v)).getCore n).actOf a.cmd.id = some (a.reply st v) ∧
      ((s.catomFound n a tr).setAct n (a.reply st v)).mem = s.mem ∧ ((s.catomFound n a tr).setAct n (a.reply st v)).host = s.host := by
  obtain ⟨m1, m2, -, -⟩ := (State.SameMemory.catomFound s n a tr).trans (.setAct _ n (a.reply st v))
  refine ⟨State.setAct_actOf (b := a.reply st v) (a := a) ?_, m1, m2⟩
  rw [(State.SameCores.catomFound s n a tr).getCore]
  exact ha

/-- What a CATOM that is performed leaves. -/
theorem State.catomDone_leaves {s : State} {n tr : Nat} {a : Active} (ha : (s.getCore n).actOf a.cmd.id = some a)
    (hreplay : (s.getCore n).replayMode = 0) (h : Home) (g v : Nat) (bs : List (Nat × Byte)) :
    let t := ((((s.catomFound n a tr).atomPut h g bs).moves a.cmd.tenant h g).record n 3 v).setAct n (a.reply 0 v)
    (t.getCore n).actOf a.cmd.id = some (a.reply 0 v) ∧
      (h = .dev → t.mem = putBytes s.mem g bs ∧ t.host = s.host ∧ t.tags = s.tags) ∧
      (h = .host → t.host = putBytes s.host g bs ∧ t.mem = s.mem) := by
  have hput := (State.SameCores.catomFound s n a tr).trans (.atomPut _ h g bs)
  have hcores := hput.trans (.moves ((s.catomFound n a tr).atomPut h g bs) a.cmd.tenant h g)
  obtain ⟨f1, f2, -, f4⟩ := State.SameMemory.catomFound s n a tr
  obtain ⟨m1, m2, -, m4⟩ := ((State.SameMemory.moves ((s.catomFound n a tr).atomPut h g bs) a.cmd.tenant h g).trans
    (.record_off (n := n) (by rw [hcores.getCore]; exact hreplay) 3 v)).trans (.setAct _ n (a.reply 0 v))
  refine ⟨State.setAct_actOf (b := a.reply 0 v) (a := a) ?_, fun e => ?_, fun e => ?_⟩
  · rw [State.record_actOf, hcores.getCore]
    exact ha
  · subst e
    obtain ⟨p1, p2, p3⟩ := (s.catomFound n a tr).atomPut_dev g bs
    exact ⟨m1.trans (p1.trans (by rw [f1])), m2.trans (p2.trans f2), m4.trans (p3.trans f4)⟩
  · subst e
    exact ⟨m2.trans (by rw [(State.atomPut_host ..).2, f2]), m1.trans f1⟩

/-! ## The reply of a CATOM (09 R238) -/

/-- The entry of aq that a reply makes. -/
def Active.answer (a : Active) (r : GotGrain) : QEnt :=
  let st := (r.got.headD (0, 0)).1
  { val := BitVec.ofNat 64 (leNat (r.got.map (·.2))), status := st, faddr := if st = 0 then 0 else BitVec.ofNat 64 a.cmd.atomAt }

theorem State.seen_catom (s : State) (n : Nat) {a : Active} (h : a.cmd.kind = .catom) : s.seen n a = [] := by
  unfold State.seen
  simp [h]

theorem dueGrains_nil {a : Active} (raced : Bool) : dueGrains [] a raced = [] := by
  cases raced <;> simp [dueGrains, unitsDue, stopGrains]

theorem State.racePoison_nil (s : State) (n : Nat) (a : Active) : s.racePoison n a [] = s := by
  unfold State.racePoison
  rw [dueGrains_nil]
  simp [unitsDue]

/-- A CATOM leaves the engine once its reply is delivered. -/
theorem State.retire_catom {s : State} {n : Nat} {a : Active} (ha : (s.getCore n).actOf a.cmd.id = some a) (hk : a.cmd.kind = .catom)
    (hd : 0 ∈ a.done) : ((s.retire n a.cmd.id).getCore n).actOf a.cmd.id = none ∧ ((s.retire n a.cmd.id).getCore n).q = (s.getCore n).q := by
  have hf : s.finished n a = true := by
    unfold State.finished
    simpa [hk] using hd
  unfold State.retire
  rw [ha]
  simp only [hf, s.seen_catom n hk, State.racePoison_nil, Bool.not_true, Bool.false_eq_true, if_false, State.getCore_putCore, and_true]
  exact List.find?_eq_none.mpr fun b hb => by simpa using (List.mem_filter.mp hb).2

theorem Core.dq_dqAppend (c : Core) (q : DqId) (e : QEnt) : (c.dqAppend q e).dq q = c.dq q ++ [e] := by
  rw [Core.dq, Core.dqAppend]
  exact vget_vset_same _ _ _ _ (by cases q <;> decide)

theorem State.deliverReply_leaves {s : State} {n : Nat} {a : Active} {r : GotGrain} {more : List GotGrain}
    (ha : (s.getCore n).actOf a.cmd.id = some a) (hk : a.cmd.kind = .catom) (hgot : a.got = r :: more) :
    (s.deliverReply n a).mem = s.mem ∧ ((s.deliverReply n a).getCore n).dq .aq = (s.getCore n).dq .aq ++ [a.answer r] ∧
      ((s.deliverReply n a).getCore n).actOf a.cmd.id = none := by
  set v := s.putCore n ((s.getCore n).dqAppend .aq (a.answer r)) with hv
  have hcore : v.getCore n = (s.getCore n).dqAppend .aq (a.answer r) := s.getCore_putCore n _
  have ht : s.deliverReply n a = (v.setAct n { a with done := [0] }).retire n a.cmd.id := by
    unfold State.deliverReply
    rw [hgot]
    rfl
  have hact : ((v.setAct n { a with done := [0] }).getCore n).actOf a.cmd.id = some { a with done := [0] } :=
    State.setAct_actOf (b := { a with done := [0] }) (a := a) (by rw [hcore]; exact ha)
  obtain ⟨hnone, hq⟩ := State.retire_catom (a := { a with done := [0] }) hact hk List.mem_cons_self
  obtain ⟨m1, -, -, -⟩ := ((State.SameMemory.putCore s n ((s.getCore n).dqAppend .aq (a.answer r))).trans
    (.setAct _ n { a with done := [0] })).trans (State.Calm.retire _ n a.cmd.id).1
  rw [ht]
  refine ⟨m1, ?_, hnone⟩
  rw [Core.dq, hq, State.setAct, State.getCore_putCore, hcore]
  exact Core.dq_dqAppend _ _ _

end Sys2Proof.Machine
end

section
/-! PROOFS. Reductions (09 R232), and what O56 says. -/

namespace Sys2Proof.Machine

/-! ## CRED -/

/-- Where a reduction finds a grain, under the translation that the move names for the grain it is made for. -/
def State.redPlace (s : State) (n : Nat) (a : Active) (grain tr g : Nat) : Grain :=
  s.grainOf (a.cmd.ctx n) .reduce a.cmd.dSpace a.cmd.dWin g
    (if g = grain then s.choice n a a.cmd.dSpace a.cmd.dWin grain tr else none)

/-- The contributions to a grain that are due, and the grains that their elements reach. -/
def State.redsDue (s : State) (n : Nat) (a : Active) (grain : Nat) : List (Nat × X) :=
  grainReds (s.seen n a) (grainEnd (s.seen n a) a grain) grain

def State.redSpan (s : State) (n : Nat) (a : Active) (grain : Nat) : List Nat :=
  (grain :: (s.redsDue n a grain).flatMap fun r => spanGrains (r.1 : Nat) a.cmd.args.dSz).eraseDups

/-- Nothing comes before a reduction of a grain. -/
def State.RedFree (s : State) (n id : Nat) (a : Active) (grain tr g : Nat) : Prop :=
  let w := s.seen n a
  let y := s.redPlace n a grain tr g
  let h := (y.home, y.num)
  y.held = false ∧ s.pathWaits n a (tookKey a.cmd.dSpace a.cmd.dWin g) y = false ∧ s.readFirst n a w (lastUnit w g) h = false ∧
    s.writeFirst n a w .reduce g h = false ∧ s.writeBefore n id h = false ∧ s.readBefore n id h = false ∧
    s.atomicBefore n id h = false ∧ ∀ f ∈ (s.getCore n).cp.cb, ¬(f.home = y.home ∧ f.grain = y.num)

/-- The contributions to a grain are due, and no place found for it or theirs is owed. -/
def State.RedDue (s : State) (n : Nat) (a : Active) (grain : Nat) : Prop :=
  grain ∈ required (s.seen n a) a ∧ 2 * grain ∉ a.done ∧ grainReady (s.seen n a) a grain = true ∧
    ∀ p ∈ a.pins, p.1 ∉ s.redSpan n a grain

/-- The place of a grain as the move takes it. -/
def State.credPlace (s : State) (n : Nat) (a : Active) (grain tr g : Nat) : Grain × Bool :=
  s.placeOf n a (s.seen n a) g (if g = grain then s.choice n a a.cmd.dSpace a.cmd.dWin grain tr else none)

/-- A reduction of a grain has to wait. -/
def State.credWaits (s : State) (n : Nat) (a : Active) (grain tr g : Nat) : Bool :=
  let m := a.cmd
  let w := s.seen n a
  let y := (s.credPlace n a grain tr g).1
  let h := (y.home, y.num)
  y.held || s.pathWaits n a (tookKey m.dSpace m.dWin g) y || s.readFirst n a w (lastUnit w g) h || s.writeFirst n a w .reduce g h ||
    s.writeBefore n m.id h || s.readBefore n m.id h || s.atomicBefore n m.id h ||
    (s.getCore n).cp.cb.any fun e => e.home = y.home && e.grain = y.num

/-- The machine once the contributions to a grain are added, its D bit set, and the event counted. -/
def State.credAdded (s u : State) (n : Nat) (a : Active) (grain tr : Nat) : State :=
  let m := a.cmd
  let x := (s.credPlace n a grain tr grain).1
  let v := ((s.redsDue n a grain).foldl (fun s' r => s'.reduceOne m (fun g => (s.credPlace n a grain tr g).1) r) u).moves m.tenant x.home x.num
  ((v.noteGrain (m.ctx n) m.dSpace m.dWin grain (s.choice n a m.dSpace m.dWin grain tr)).dirty n m x.leaf (64 * grain)).record n 5
    (s.tenant m.tenant).creds

section
variable {s : State} {n grain tr : Nat} {a : Active} (hred : a.cmd.red = true) (hdue : s.RedDue n a grain)
include hred hdue

theorem State.credPlace_free {g : Nat} (hg : g ∈ s.redSpan n a grain) :
    s.credPlace n a grain tr g = (s.redPlace n a grain tr g, true) := by
  have hnone : a.pins.find? (fun p => p.1 = g) = none :=
    List.find?_eq_none.mpr fun p hp => by simpa using fun e : p.1 = g => hdue.2.2.2 p hp (e ▸ hg)
  unfold State.credPlace State.placeOf
  simp [hnone, hred, State.redPlace]

theorem State.credWaits_iff {g : Nat} (hg : g ∈ s.redSpan n a grain) :
    s.credWaits n a grain tr g = false ↔ s.RedFree n a.cmd.id a grain tr g := by
  unfold State.credWaits State.RedFree
  rw [State.credPlace_free hred hdue hg]
  simp only [Bool.or_eq_false_iff, List.any_eq_false, Bool.and_eq_true, decide_eq_true_eq, and_assoc]

/-- A reduction waits for every grain that its elements reach (log 71), and for the way to the dirty log. -/
theorem State.credMove_waits (h : (∃ g ∈ s.redSpan n a grain, ¬s.RedFree n a.cmd.id a grain tr g) ∨
    a.cmd.dSpace = 2 ∧ s.dirtyHeld (a.cmd.ctx n) (64 * grain) = true) : s.credMove n a grain tr = s := by
  have hw : (s.redSpan n a grain).any (s.credWaits n a grain tr) = true ∨
      (decide (a.cmd.dSpace = 2) && s.dirtyHeld (a.cmd.ctx n) (64 * grain)) = true := by
    rcases h with ⟨g, hg, hfree⟩ | ⟨h1, h2⟩
    · refine .inl (List.any_eq_true.mpr ⟨g, hg, ?_⟩)
      rw [← State.credWaits_iff hred hdue hg] at hfree
      simpa using hfree
    · exact .inr (by simp [h1, h2])
  unfold State.credMove
  dsimp only
  refine if_pos ?_
  show (!(required (s.seen n a) a).contains grain || a.done.contains (2 * grain) || !grainReady (s.seen n a) a grain ||
    (s.redSpan n a grain).any (s.credWaits n a grain tr) || (decide (a.cmd.dSpace = 2) && s.dirtyHeld (a.cmd.ctx n) (64 * grain)) ||
    !s.replayOk n 5 (s.tenant a.cmd.tenant).creds) = true
  rcases hw with h | h
  · rw [h, Bool.or_true, Bool.true_or, Bool.true_or]
  · rw [h, Bool.or_true, Bool.true_or]

omit hred hdue in
theorem mem_redSpan {r : Nat × X} (hr : r ∈ s.redsDue n a grain) {i : Nat} (hi : i < a.cmd.args.dSz) :
    (r.1 + i) / 64 ∈ s.redSpan n a grain := by
  refine List.mem_eraseDups.mpr (List.mem_cons_of_mem _ (List.mem_flatMap.mpr ⟨r, hr, ?_⟩))
  unfold spanGrains
  rw [if_neg (by simp; omega)]
  refine List.mem_map.mpr ⟨(r.1 + i) / 64 - r.1 / 64, List.mem_range.mpr ?_, ?_⟩
  · simp only [Int.toNat_natCast]; omega
  · simp only [Int.toNat_natCast]; omega

/-- A reduction of a grain that may be made, with replay off. -/
theorem State.credMove_ready (hfree : ∀ g ∈ s.redSpan n a grain, s.RedFree n a.cmd.id a grain tr g)
    (hlog : ¬(a.cmd.dSpace = 2 ∧ s.dirtyHeld (a.cmd.ctx n) (64 * grain) = true))
    (hok : ∀ g ∈ s.redSpan n a grain, ∀ p ∈ s.readGrain (s.redPlace n a grain tr g), p.1 = 0)
    (hreplay : (s.getCore n).replayMode = 0) {u : State} {b : Active}
    (hu : (s.redSpan n a grain).foldl (fun r g => r.bind fun t =>
      t.readAhead n a.cmd ((s.redPlace n a grain tr g).home, (s.redPlace n a grain tr g).num)) (some s) = some u)
    (hb : u.settle n a (u.actNow n a) grain = some b) :
    s.credMove n a grain tr = ((((s.credAdded u n a grain tr).setTenant a.cmd.tenant
      { ((s.credAdded u n a grain tr).tenant a.cmd.tenant) with creds := (s.tenant a.cmd.tenant).creds + 1 }).setAct n
        { b with done := b.done ++ [2 * grain] }).retire n a.cmd.id) := by
  obtain ⟨hreq, hdone, hready, -⟩ := id hdue
  have hplace {g : Nat} (hg : g ∈ s.redSpan n a grain) := State.credPlace_free (tr := tr) hred hdue hg
  have hfails : redFails a.cmd.args.dSz (fun g i => ((s.readGrain (s.credPlace n a grain tr g).1).getD i (0, 0)).1) (s.redsDue n a grain) = none := by
    refine List.findSome?_eq_none_iff.mpr fun r hr => List.findSome?_eq_none_iff.mpr fun i hi => ?_
    have hg := mem_redSpan hr (List.mem_range.mp hi)
    refine if_pos ?_
    dsimp only
    rw [hplace hg, List.getD_eq_getElem?_getD]
    cases hq : (s.readGrain (s.redPlace n a grain tr ((r.1 + i) / 64)))[(r.1 + i) % 64]? with
    | none => rfl
    | some p => exact hok _ hg p (List.mem_of_getElem? hq)
  have hu' : (s.redSpan n a grain).foldl (fun r g => r.bind fun t =>
      t.readAhead n a.cmd ((s.credPlace n a grain tr g).1.home, (s.credPlace n a grain tr g).1.num)) (some s) = some u := by
    rw [← hu]
    exact List.foldl_ext _ _ _ fun r g hg => by rw [hplace hg]
  have hcond : (!(required (s.seen n a) a).contains grain || a.done.contains (2 * grain) || !grainReady (s.seen n a) a grain ||
      (s.redSpan n a grain).any (s.credWaits n a grain tr) || (decide (a.cmd.dSpace = 2) && s.dirtyHeld (a.cmd.ctx n) (64 * grain)) ||
      !s.replayOk n 5 (s.tenant a.cmd.tenant).creds) = false := by
    have hw : (s.redSpan n a grain).any (s.credWaits n a grain tr) = false :=
      List.any_eq_false.mpr fun g hg => by simp [(State.credWaits_iff hred hdue hg).mpr (hfree g hg)]
    have hl : (decide (a.cmd.dSpace = 2) && s.dirtyHeld (a.cmd.ctx n) (64 * grain)) = false :=
      Bool.eq_false_iff.mpr fun e => hlog (by simpa using e)
    rw [hw, hl, State.replayOk_off hreplay, hready]
    simp [hreq, hdone]
  unfold State.credMove
  dsimp only
  refine (if_neg (Bool.eq_false_iff.mp hcond)).trans ?_
  erw [hfails]
  dsimp only
  erw [hu']
  dsimp only
  erw [hb]
  dsimp only
  have hgrain := hplace (g := grain) (List.mem_eraseDups.mpr List.mem_cons_self)
  have hnote : (s.credPlace n a grain tr grain).2 = true := by rw [hgrain]
  erw [if_pos hnote]
  rfl

end

/-! ## What a reduction leaves -/

theorem State.putCore_ten (s : State) (n : Nat) (c : Core) : (s.putCore n c).ten = s.ten := by
  obtain ⟨d, p, h⟩ := s.putCore_eq n c
  rw [h]

theorem State.SameMemory.setTenant (s : State) (t : BitVec 4) (x : Tenant) : s.SameMemory (s.setTenant t x) := ⟨rfl, rfl, rfl, rfl⟩

theorem State.retire_ten (s : State) (n id : Nat) : (s.retire n id).ten = s.ten := by
  have hrace (a : Active) (w : List Seen) : (s.racePoison n a w).ten = s.ten := by
    unfold State.racePoison
    dsimp only
    split
    · refine List.foldlRecOn (motive := fun t : State => t.ten = s.ten) _ _ rfl fun t ht d _ => ?_
      exact List.foldlRecOn (motive := fun t : State => t.ten = s.ten) _ _ ht fun u hu b _ => (u.putCore_ten ..).trans hu
    · refine List.foldlRecOn (motive := fun t : State => t.ten = s.ten) _ _ rfl fun t ht g _ => ?_
      split
      · obtain ⟨l, hl⟩ := t.poisonGrain_eq _
        rw [hl]
        exact ht
      · exact ht
  unfold State.retire
  split
  · rfl
  · dsimp only
    split
    · rfl
    · rw [State.putCore_ten, hrace]

theorem State.ForwardBy.bind {n : Nat} {s : State} {r : Option State} (h : s.ForwardBy n r) {f : State → Option State}
    (hf : ∀ t : State, t.ForwardBy n (f t)) : s.ForwardBy n (r.bind f) := by
  intro u hu
  obtain ⟨t, ht, htu⟩ := Option.bind_eq_some_iff.mp hu
  exact (h t ht).trans (hf t u htu)

/-- Several grains read ahead. -/
theorem State.ForwardBy.readAheads (s : State) (n : Nat) (m : Cmd) (h : Nat → Home × Nat) (l : List Nat) :
    s.ForwardBy n (l.foldl (fun r g => r.bind fun t => t.readAhead n m (h g)) (some s)) :=
  State.ForwardBy.foldl (.of (.refl n s)) fun _ hr g _ => hr.bind fun t => .readAhead t n m (h g)

/-! ### Grains hold 64 bytes -/

theorem State.grainOf_stat_length (s : State) (c : Ctx) (acc : Acc) (space win g : Nat) (tr : Option TlbEnt) :
    (s.grainOf c acc space win g tr).stat.length = 64 := by
  have hfind : (s.findGrain c acc space win g tr).stat.length = 64 := by
    have hfailed (e : BitVec 8) : (Grain.failed e).stat.length = 64 := List.length_replicate
    have hall (e : BitVec 8) : (all64 e).length = 64 := List.length_replicate
    have hlocal (n g : Nat) (w : Bool) : (s.localGrain n g w).stat.length = 64 := by simp [State.localGrain]
    unfold State.findGrain
    dsimp only
    split
    · exact hlocal ..
    split
    · unfold State.opaGrain
      dsimp only
      split
      · exact hfailed _
      split
      · exact hall _
      · exact hlocal ..
    split
    · unfold State.virtGrain
      dsimp only
      split
      · split
        · exact hfailed _
        · exact hall _
      · simp only [List.length_map, List.length_zip, List.length_range]
        split
        · rw [hfailed]; rfl
        · rw [hall]; rfl
    split
    · split
      · exact hfailed _
      · exact hall _
    split
    · exact hfailed _
    · split
      · exact hfailed _
      · simp
  unfold State.grainOf
  dsimp only
  split <;> exact hfind

/-- A grain of device memory, no byte of which fails, reads as that memory. -/
theorem State.readGrain_dev {s t : State} {x : Grain} (hlen : x.stat.length = 64) (hhome : x.home = .dev)
    (hok : ∀ p ∈ s.readGrain x, p.1 = 0) (hmem : t.mem = s.mem) (hpoison : t.poison = s.poison) {i : Nat} (hi : i < 64) :
    (t.readGrain x).getD i (0, 0) = (0, s.mem.get (64 * x.num + i)) := by
  have hread (v : State) : v.readGrain x = x.stat.zipIdx.map fun p => if p.1 ≠ 0 then (p.1, 0)
      else if v.poison.contains x.num then (0x0C, 0) else (0, v.mem.get (64 * x.num + p.2)) := by
    unfold State.readGrain
    simp only [hhome]
  have hstat : x.stat.zipIdx[i]? = some (x.stat[i], i) := by
    rw [List.getElem?_zipIdx, List.getElem?_eq_getElem (by omega)]
    simp
  have hentry := hok _ (List.mem_of_getElem? (i := i) (by rw [hread s, List.getElem?_map, hstat, Option.map_some]))
  have hzero : x.stat[i] = 0 := by
    by_contra hne
    rw [if_pos hne] at hentry
    exact hne hentry
  have hclean : s.poison.contains x.num = false := by
    by_contra hne
    rw [if_neg (not_not_intro hzero), if_pos (by simpa using hne)] at hentry
    exact absurd hentry (by decide)
  rw [List.getD_eq_getElem?_getD, hread t, List.getElem?_map, hstat, hpoison, hclean, hmem, hzero]
  rfl

/-! ### One element -/

/-- Bytes put one by one at places of a grain of device memory. -/
theorem State.foldl_atomPut (s : State) (g : Nat) (f : Nat → Nat) (l : List (Byte × Nat)) :
    let t := l.foldl (fun t p => t.atomPut .dev g [(f p.2, p.1)]) s
    s.SameCores t ∧ t.mem = s.mem.setAll (l.map fun p => (64 * g + f p.2, p.1)) ∧ t.host = s.host := by
  induction l generalizing s with
  | nil => exact ⟨.refl s, rfl, rfl⟩
  | cons p l ih =>
    obtain ⟨h1, h2, h3⟩ := ih (s.atomPut .dev g [(f p.2, p.1)])
    obtain ⟨m1, m2, -⟩ := s.atomPut_dev g [(f p.2, p.1)]
    exact ⟨(State.SameCores.atomPut s .dev g _).trans h1, h2.trans (by rw [m1]; rfl), h3.trans m2⟩

/-- An element that lies in one grain of device memory takes a contribution: exact sum, one rounding (R232). -/
theorem State.reduceOne_leaves {s u : State} {m : Cmd} {gr : Nat → Grain} {y : Grain} {ad : Nat} (v : X)
    (hmem : u.mem = s.mem) (hpoison : u.poison = s.poison) (hin : ad % 64 + m.args.dSz ≤ 64) (hgr : gr (ad / 64) = y)
    (hlen : y.stat.length = 64) (hhome : y.home = .dev) (hok : ∀ p ∈ s.readGrain y, p.1 = 0) :
    let t := u.reduceOne m gr (ad, v)
    let had := leNat ((List.range m.args.dSz).map fun i => s.mem.get (64 * y.num + (ad + i) % 64))
    u.SameCores t ∧ t.mem = s.mem.setAll ((redByte m.args.dEt m.args.dSz had v).zipIdx.map fun p => (64 * y.num + (ad + p.2) % 64, p.1)) ∧
      t.host = u.host := by
  have hplace {i : Nat} (hi : i < m.args.dSz) : gr ((ad + i) / 64) = y := by rw [← hgr]; congr 1; omega
  have hold : ((List.range m.args.dSz).map fun i => ((u.readGrain (gr ((ad + i) / 64))).getD ((ad + i) % 64) (0, 0)).2) =
      (List.range m.args.dSz).map fun i => s.mem.get (64 * y.num + (ad + i) % 64) := by
    refine List.map_congr_left fun i hi => ?_
    rw [hplace (List.mem_range.mp hi), State.readGrain_dev hlen hhome hok hmem hpoison (Nat.mod_lt _ (by decide))]
  have hone : u.reduceOne m gr (ad, v) = (redByte m.args.dEt m.args.dSz
      (leNat ((List.range m.args.dSz).map fun i => s.mem.get (64 * y.num + (ad + i) % 64))) v).zipIdx.foldl
        (fun t p => t.atomPut .dev y.num [((ad + p.2) % 64, p.1)]) u := by
    unfold State.reduceOne
    dsimp only
    rw [hold]
    refine List.foldl_ext _ _ _ fun t p hp => ?_
    have hlt : p.2 < m.args.dSz := by
      have := (List.mem_zipIdx' hp).1
      rwa [redByte, leBytes_length] at this
    rw [hplace hlt, hhome]
  obtain ⟨h1, h2, h3⟩ := u.foldl_atomPut y.num (fun i => (ad + i) % 64) (redByte m.args.dEt m.args.dSz
    (leNat ((List.range m.args.dSz).map fun i => s.mem.get (64 * y.num + (ad + i) % 64))) v).zipIdx
  dsimp only
  rw [hone]
  exact ⟨h1, h2.trans (by rw [hmem]), h3⟩

/-! ### The move -/

/-- The machine after a reduction, its command told that the grain is done. -/
def State.credDone (s u : State) (n : Nat) (a b : Active) (grain tr : Nat) : State :=
  (((s.credAdded u n a grain tr).setTenant a.cmd.tenant
    { ((s.credAdded u n a grain tr).tenant a.cmd.tenant) with creds := (s.tenant a.cmd.tenant).creds + 1 }).setAct n
      { b with done := b.done ++ [2 * grain] }).retire n a.cmd.id

/-- A reduction is counted for replay. -/
theorem State.credDone_creds (s u : State) (n : Nat) (a b : Active) (grain tr : Nat) :
    (vget (s.credDone u n a b grain tr).ten a.cmd.tenant.toNat .reset).creds = (vget s.ten a.cmd.tenant.toNat .reset).creds + 1 := by
  unfold State.credDone
  rw [State.retire_ten, State.setAct, State.putCore_ten]
  exact congrArg Tenant.creds (vget_vset_same _ _ _ _ a.cmd.tenant.isLt)

/-- The grain is done. -/
theorem State.credDone_done {s u : State} {n : Nat} {a b : Active} (hb : b.bare = a.bare) (grain tr : Nat) {y : Active}
    (hy : ((s.credDone u n a b grain tr).getCore n).actOf a.cmd.id = some y) : y.done = a.done ++ [2 * grain] := by
  have hcmd : b.cmd = a.cmd := Active.bare_cmd hb
  have hdone : b.done = a.done := show b.bare.done = a.bare.done by rw [hb]
  have hact := State.retire_actOf hy
  rw [State.setAct, State.getCore_putCore, ← hcmd] at hact
  rw [Core.actOf_setAct (a := { b with done := b.done ++ [2 * grain] }) hact, hdone]

/-- One element within a grain of device memory, with no D bit to set, no dirty log, and replay off. -/
theorem State.credDone_memory {s u : State} {n grain tr ad : Nat} {a b : Active} {v : X} {y : Grain} (hfw : State.Forward n s u)
    (hreds : s.redsDue n a grain = [(ad, v)]) (hplace : (s.credPlace n a grain tr grain).1 = y)
    (hin : ad % 64 + a.cmd.args.dSz ≤ 64) (had : ad / 64 = grain) (hlen : y.stat.length = 64) (hhome : y.home = .dev)
    (hleaf : y.leaf = none) (hunlogged : a.cmd.dSpace ≠ 2 ∨ (vget a.cmd.xlat 6 0).getLsbD 63 = false)
    (hreplay : (s.getCore n).replayMode = 0) (hok : ∀ p ∈ s.readGrain y, p.1 = 0) :
    let t := s.credDone u n a b grain tr
    let old := leNat ((List.range a.cmd.args.dSz).map fun i => s.mem.get (64 * y.num + (ad + i) % 64))
    t.mem = s.mem.setAll ((redByte a.cmd.args.dEt a.cmd.args.dSz old v).zipIdx.map fun p => (64 * y.num + (ad + p.2) % 64, p.1)) ∧
      t.host = s.host := by
  obtain ⟨f1, f2, -, -⟩ := hfw.sameMemory
  have hpoison : u.poison = s.poison := by obtain ⟨c, p, rfl⟩ := hfw.rest; rfl
  have hmode : (u.getCore n).replayMode = 0 := by
    obtain ⟨l, hl⟩ := hfw.core
    rw [hl]
    exact hreplay
  obtain ⟨r0, r1, r2⟩ := State.reduceOne_leaves (m := a.cmd) (gr := fun g => (s.credPlace n a grain tr g).1) v f1 hpoison hin
    (by rw [had]; exact hplace) hlen hhome hok
  set x := u.reduceOne a.cmd (fun g => (s.credPlace n a grain tr g).1) (ad, v) with hx
  let z := (x.moves a.cmd.tenant y.home y.num).noteGrain (a.cmd.ctx n) a.cmd.dSpace a.cmd.dWin grain
    (s.choice n a a.cmd.dSpace a.cmd.dWin grain tr)
  have hadded : s.credAdded u n a grain tr = z.record n 5 (s.tenant a.cmd.tenant).creds := by
    unfold State.credAdded
    rw [hreds]
    dsimp only [List.foldl_cons, List.foldl_nil]
    rw [hplace, hleaf, State.dirty_unlogged _ n none _ hunlogged]
    rfl
  have hcores : u.SameCores z := (r0.trans (.moves x _ _ _)).trans (.noteGrain _ _ _ _ _ _)
  have hsame : x.SameMemory (s.credDone u n a b grain tr) := by
    have hz : x.SameMemory z := (State.SameMemory.moves x a.cmd.tenant y.home y.num).trans (.noteGrain _ _ _ _ _ _)
    have hrecord := State.SameMemory.record_off (s := z) (n := n) (by rw [hcores.getCore]; exact hmode) 5 (s.tenant a.cmd.tenant).creds
    unfold State.credDone
    rw [hadded]
    exact (((hz.trans hrecord).trans (.setTenant _ _ _)).trans (.setAct _ n _)).trans (State.Calm.retire _ n _).1
  obtain ⟨t1, t2, -, -⟩ := hsame
  exact ⟨t1.trans r1, t2.trans (r2.trans f2)⟩

/-! ## The statement -/

section
variable {n tr : Nat} {a : Active} {s : State} (hn : n < 2048) (hclock : s.clockStopped n = false)
  (ha : (s.getCore n).actOf a.cmd.id = some a)
include hn hclock ha

theorem execAtomic_catom (hk : a.cmd.kind = .catom) (grain : Nat) : execAtomic n a.cmd.id grain tr s = .next (s.catomMove n a grain tr) := by
  refine (onEngine_runs hn hclock _).trans ?_
  rw [ha]
  dsimp only
  rw [if_pos hk]

theorem execAtomic_cred (hk : a.cmd.kind ≠ .catom) (hred : a.cmd.red = true) (grain : Nat) :
    execAtomic n a.cmd.id grain tr s = .next (s.credMove n a grain tr) := by
  refine (onEngine_runs hn hclock _).trans ?_
  rw [ha]
  dsimp only
  rw [if_neg hk, if_pos hred]

theorem execDeliver_catom (hk : a.cmd.kind = .catom) (hphase : (s.getCore n).phase = .arrive) (key : Nat) :
    execDeliver n a.cmd.id key s = .next (s.deliverReply n a) := by
  rw [execDeliver, onDevice_core hn]
  simp only [ha, hk, hphase, hclock, decide_true, Bool.true_or, if_true, ne_eq, not_true_eq_false, decide_false, Bool.or_self,
    Bool.false_eq_true, if_false]

end

/-- Settles O56: a CATOM by the outcomes of its move (`State.catomMove_done`, `State.catomMove_lacks`, `State.catomMove_fails`), its reply
by `State.deliverReply_leaves`, a CRED by `State.credMove_waits` and `State.credMove_ready`. -/
theorem atomicsArePerformedAndAnswered : Obligations.AtomicsArePerformedAndAnswered := by
  unfold Obligations.AtomicsArePerformedAndAnswered
  intro n id grain tr key a r more s hn hclock
  refine ⟨fun ha hk hgot hwait => ?_, fun ha hk hgot hheld hlog hatom hpath => ?_, fun ha hk hgot hphase => ?_,
    fun ha hk hred hdue hwait => ?_, fun ha hk hred hdue hfree hlog hok hreplay u b' hu hb => ?_⟩
  all_goals obtain rfl : a.cmd.id = id := Core.actOf_id ha
  · exact (execAtomic_catom hn hclock ha hk _).trans (congrArg Host.Outcome.next (State.catomMove_waits hwait))
  · refine ⟨fun hz hleaf hun hhome => ?_, fun hz hhome hop => ?_, fun p hp => ?_⟩
    · have hop : (s.catomPlace n a tr).home = .host → hostOp a.cmd.atomOp.1 = true := fun e =>
        hhome.elim (fun h => absurd (h.symm.trans e) (by decide)) fun h => h.2
      obtain ⟨hact, hdev, hhost⟩ := State.catomDone_leaves (tr := tr) ha hun.2 (s.catomPlace n a tr).home (s.catomPlace n a tr).num
        (s.catomOld n a tr) (s.catomBytes n a tr)
      have hnew (m : Mem) : putBytes m (s.catomPlace n a tr).num (s.catomBytes n a tr) = _ := congrArg m.setAll (List.map_map ..)
      refine ⟨_, (execAtomic_catom hn hclock ha hk _).trans (congrArg Host.Outcome.next
        (State.catomMove_done hgot hheld hlog hatom hpath hz hleaf hun.1 hun.2 hop)), hact, fun e => ?_, fun e => ?_⟩
      · obtain ⟨h1, h2, h3⟩ := hdev e
        exact ⟨h1.trans (hnew s.mem), h2, h3⟩
      · obtain ⟨h1, h2⟩ := hhost e
        exact ⟨h1.trans (hnew s.host), h2⟩
    · have hop' : hostOp a.cmd.atomOp.1 = false := by
        revert hop
        cases a.cmd.atomOp.1 <;> simp [hostOp]
      exact ⟨_, (execAtomic_catom hn hclock ha hk _).trans (congrArg Host.Outcome.next
        (State.catomMove_lacks hgot hheld hlog hatom hpath hz hhome hop')), State.catomFails_leaves ha 0x0E 0⟩
    · exact ⟨_, (execAtomic_catom hn hclock ha hk _).trans (congrArg Host.Outcome.next
        (State.catomMove_fails hgot hheld hlog hatom hpath hp)), State.catomFails_leaves ha p.1 0⟩
  · exact ⟨_, execDeliver_catom hn hclock ha hk hphase key, State.deliverReply_leaves ha hk hgot⟩
  · exact (execAtomic_cred hn hclock ha hk hred grain).trans (congrArg Host.Outcome.next (State.credMove_waits hred hdue hwait))
  · have hfw : State.Forward n s u := State.ForwardBy.readAheads s n a.cmd _ _ u hu
    obtain ⟨-, hnow⟩ := hfw.actNow ha
    have hmove : execAtomic n a.cmd.id grain tr s = .next (s.credDone u n a b' grain tr) :=
      (execAtomic_cred hn hclock ha hk hred grain).trans
        (congrArg Host.Outcome.next (State.credMove_ready hred hdue hfree hlog hok hreplay hu hb))
    have hin : grain ∈ s.redSpan n a grain := List.mem_eraseDups.mpr List.mem_cons_self
    refine ⟨_, hmove, s.credDone_creds u n a b' grain tr, fun b hb' => State.credDone_done ((State.settle_bare hb).trans hnow) grain tr hb',
      fun ad v hreds hsz had hhome hleaf hun => ?_⟩
    exact State.credDone_memory hfw hreds (congrArg Prod.fst (State.credPlace_free hred hdue hin)) hsz had
      (s.grainOf_stat_length ..) hhome hleaf hun.1 hreplay (hok grain hin)

end Sys2Proof.Machine
end

section
/-! PROOFS. Accesses to memory outside cores do the same whatever the cores hold. -/

namespace Sys2Proof.Machine

/-- The same machine as accesses to memory that do not enter cores see it: another cache, other tenants, other cores, other notes
to the Rilosteg. -/
def State.beside (s : State) (l : Vector (List Nat) 4) (x : Vector Tenant 16) (k : Core) (p : List (Nat × Core))
    (r : List RilNote) : State :=
  { s with cache := l, ten := x, core := k, parked := p, ril := r }

/-! ## Where an access goes (08 R186, 12 R295) -/

section
variable (s : State) (l : Vector (List Nat) 4) (x : Vector Tenant 16) (k : Core) (p : List (Nat × Core)) (r : List RilNote)

theorem State.routeHas_beside (f : Link → Bool) (n : Nat) (a b : Nat × Nat × Nat) :
    (s.beside l x k p r).routeHas f n a b = s.routeHas f n a b := by
  obtain ⟨tx, ty, tz⟩ := b
  induction n generalizing a with
  | zero => rfl
  | succ n ih =>
    obtain ⟨ax, ay, az⟩ := a
    simp only [State.routeHas, ih]
    rfl

theorem State.wayDown_beside (d : Nat) (b : Nat × Nat × Nat) : (s.beside l x k p r).wayDown d b = s.wayDown d b :=
  s.routeHas_beside l x k p r _ _ _ _

theorem State.wayHeld_beside (d : Nat) (b : Nat × Nat × Nat) : (s.beside l x k p r).wayHeld d b = s.wayHeld d b :=
  s.routeHas_beside l x k p r _ _ _ _

theorem State.diesDown_beside : (s.beside l x k p r).diesDown = s.diesDown := by
  funext a b; exact s.wayDown_beside l x k p r a _

theorem State.diesHeld_beside : (s.beside l x k p r).diesHeld = s.diesHeld := by
  funext a b; exact s.wayHeld_beside l x k p r a _

variable {c : Ctx} (hc : c.buf = false)
include hc

theorem State.entryRead_beside (a n : Nat) : (s.beside l x k p r).entryRead c a n = s.entryRead c a n := by
  unfold State.entryRead State.readDev
  simp only [hc, s.diesDown_beside l x k p r]
  rfl

theorem State.walkOne_beside (v : Nat) (t : TlbEnt) : (s.beside l x k p r).walkOne c v t = s.walkOne c v t := by
  unfold State.walkOne
  simp only [s.entryRead_beside l x k p r hc]

theorem State.walked_beside (v : Nat) (t : TlbEnt) : (s.beside l x k p r).walked c v t = s.walked c v t := by
  simp only [State.walked, s.walkOne_beside l x k p r hc]

theorem State.walkPath_beside (v n : Nat) (t : TlbEnt) :
    (s.beside l x k p r).walkPath c v n t = s.walkPath c v n t := by
  induction n generalizing t with
  | zero => rfl
  | succ n ih => simp only [State.walkPath, ih, s.walkOne_beside l x k p r hc]

theorem State.virt_beside (acc : Acc) (v : Nat) (tr : Option TlbEnt) :
    (s.beside l x k p r).virt c acc v tr = s.virt c acc v tr := by
  simp only [State.virt, State.paged, s.walked_beside l x k p r hc]
  rfl

theorem State.winEntry_beside (win : Nat) (tr : Option TlbEnt) :
    (s.beside l x k p r).winEntry c win tr = s.winEntry c win tr := by
  simp only [State.winEntry, s.walkOne_beside l x k p r hc]
  rfl

theorem State.virtGrain_beside (acc : Acc) (g : Nat) (tr : Option TlbEnt) (f : Except (BitVec 8) Place → Grain) :
    (s.beside l x k p r).virtGrain c acc g tr f = s.virtGrain c acc g tr f := by
  simp only [State.virtGrain, s.virt_beside l x k p r hc, State.paged, s.walked_beside l x k p r hc]
  rfl

theorem State.pathOf_beside (space win g : Nat) (tr : Option TlbEnt) :
    (s.beside l x k p r).pathOf c space win g tr = s.pathOf c space win g tr := by
  simp only [State.pathOf, s.walkPath_beside l x k p r hc]
  rfl

theorem State.findGrain_beside (acc : Acc) {space : Nat} (hs : 2 ≤ space) (win g : Nat) (tr : Option TlbEnt) :
    (s.beside l x k p r).findGrain c acc space win g tr = s.findGrain c acc space win g tr := by
  unfold State.findGrain
  rw [if_neg (show space ≠ 0 by omega), if_neg (show space ≠ 0 by omega), if_neg (show space ≠ 1 by omega),
    if_neg (show space ≠ 1 by omega)]
  simp only [s.virtGrain_beside l x k p r hc, s.winEntry_beside l x k p r hc, s.diesDown_beside, s.diesHeld_beside,
    s.wayDown_beside, s.wayHeld_beside]
  rfl

/-- Where an access outside cores goes does not depend on the cores. -/
theorem State.grainOf_beside (acc : Acc) {space : Nat} (hs : 2 ≤ space) (win g : Nat) (tr : Option TlbEnt) :
    (s.beside l x k p r).grainOf c acc space win g tr = s.grainOf c acc space win g tr := by
  simp only [State.grainOf, s.findGrain_beside l x k p r hc acc hs, s.pathOf_beside l x k p r hc, s.diesHeld_beside]

theorem State.writeHeld_beside {space : Nat} (hs : 2 ≤ space) (win a n : Nat) :
    (s.beside l x k p r).writeHeld c space win a n = s.writeHeld c space win a n := by
  simp only [State.writeHeld, s.grainOf_beside l x k p r hc .write hs]

end

/-! ## Writes (07 R180 to R182, 12 R298) -/

/-- A change of a machine that is the same beside other cores, whose cache and tenants may then differ again. -/
def KeepsBeside (f : State → State) : Prop :=
  ∀ s l x k p r, ∃ m y, f (State.beside s l x k p r) = (f s).beside m y k p r

theorem KeepsBeside.comp {f g : State → State} (hf : KeepsBeside f) (hg : KeepsBeside g) :
    KeepsBeside fun s => g (f s) := by
  intro s l x k p r
  obtain ⟨m, y, h⟩ := hf s l x k p r
  obtain ⟨m', y', h'⟩ := hg (f s) m y k p r
  exact ⟨m', y', (congrArg g h).trans h'⟩

theorem KeepsBeside.foldl {α : Type} {f : State → α → State} (hf : ∀ a, KeepsBeside fun s => f s a) (xs : List α) :
    KeepsBeside fun s => xs.foldl f s := by
  induction xs with
  | nil => exact fun s l x k p r => ⟨l, x, rfl⟩
  | cons a xs ih => exact (hf a).comp ih

theorem keepsBeside_touchCache (e : Bool) (g : Nat) : KeepsBeside fun s => s.touchCache e g := by
  intro s l x k p r
  obtain ⟨m, hm⟩ := s.touchCache_cache e g
  obtain ⟨m', hm'⟩ := (s.beside l x k p r).touchCache_cache e g
  exact ⟨m', x, hm'.trans (congrArg (State.beside · m' x k p r) hm).symm⟩

theorem keepsBeside_usedPath (y : Grain) : KeepsBeside fun s => s.usedPath y :=
  .foldl (fun g => keepsBeside_touchCache false g) y.path

theorem keepsBeside_markGranule (g : Nat) : KeepsBeside fun s => s.markGranule g := by
  intro s l x k p r
  refine ⟨l, x, ?_⟩
  cases hlog : s.ck.logging with
  | false => simp [State.markGranule, State.beside, hlog]
  | true =>
    by_cases hd : g / 1024 ∈ s.ck.dirty <;> simp [State.markGranule, State.beside, hlog, hd]

theorem keepsBeside_setTag (g : Nat) (w : BitVec 12) (q : BitVec 20) : KeepsBeside fun s => s.setTag g w q := by
  intro s l x k p r
  refine ⟨l, x, ?_⟩
  simp only [State.setTag, State.beside]
  split <;> rfl

/-- The bytes of a grain of device memory replaced, with what that does to its poisoned mark. -/
def State.putDev (s : State) (g : Nat) (bs : List (Nat × Byte)) : State :=
  { s with mem := putBytes s.mem g bs, poison := if coversGrain bs then s.poison.filter (· ≠ g) else s.poison }

theorem State.devWrite_eq (s : State) (g : Nat) (bs : List (Nat × Byte)) (w : BitVec 12) (q : BitVec 20) :
    s.devWrite g bs w q = (((s.touchCache false g).markGranule g).putDev g bs).setTag g w q := rfl

theorem keepsBeside_writeGrain (h : Home) (g : Nat) (bs : List (Nat × Byte)) (w : BitVec 12) (q : BitVec 20) :
    KeepsBeside fun s => s.writeGrain h g bs w q := by
  cases h with
  | dev =>
    have hput : KeepsBeside fun s => s.putDev g bs := fun s l x k p r => ⟨l, x, rfl⟩
    simpa only [State.writeGrain, State.devWrite_eq] using
      (((keepsBeside_touchCache false g).comp (keepsBeside_markGranule g)).comp hput).comp (keepsBeside_setTag g w q)
  | host => exact fun s l x k p r => ⟨l, x, rfl⟩
  | peer n => exact fun s l x k p r => ⟨l, x, rfl⟩
  | core n => exact fun s l x k p r => ⟨l, x, rfl⟩

theorem keepsBeside_moves (t : BitVec 4) (h : Home) (g : Nat) : KeepsBeside fun s => s.moves t h g := by
  intro s l x k p r
  obtain ⟨m, hm⟩ := s.moves_reads t h g
  obtain ⟨m', hm'⟩ := (s.beside l x k p r).moves_reads t h g
  exact ⟨_, _, hm'.trans (congrArg (State.beside · _ _ k p r) hm).symm⟩

theorem keepsBeside_setDirty (a : Option Nat) : KeepsBeside fun s => s.setDirty a := by
  cases a with
  | none => exact fun s l x k p r => ⟨l, x, rfl⟩
  | some a =>
    have hor : KeepsBeside fun s => { s with mem := s.mem.set (a + 6) (s.mem.get (a + 6) ||| 0x20) } :=
      fun s l x k p r => ⟨l, x, rfl⟩
    exact ((keepsBeside_touchCache true _).comp (keepsBeside_markGranule _)).comp hor

/-- One grain of a write, without a failure. -/
def State.putPart (s : State) (c : Ctx) (y : Grain) (part : List (Nat × Byte)) : State :=
  (((s.usedPath y).writeGrain y.home y.num part 0xFFF 0).moves c.tenant y.home y.num).setDirty y.leaf

theorem keepsBeside_putPart (c : Ctx) (y : Grain) (part : List (Nat × Byte)) : KeepsBeside fun s => s.putPart c y part :=
  (((keepsBeside_usedPath y).comp (keepsBeside_writeGrain y.home y.num part 0xFFF 0)).comp
    (keepsBeside_moves c.tenant y.home y.num)).comp (keepsBeside_setDirty y.leaf)

theorem State.SameCores.putPart (s : State) (c : Ctx) (y : Grain) (part : List (Nat × Byte)) : s.SameCores (s.putPart c y part) :=
  (((State.SameCores.usedPath s y).trans (.writeGrain _ _ _ _ _ _)).trans (.moves _ _ _ _)).trans (.setDirty _ _)

/-- One grain of `placeWrite`. -/
def State.placePart (c : Ctx) (space win a : Nat) (bs : List Byte) (q : Except (BitVec 8) State) (g : Nat) :
    Except (BitVec 8) State :=
  match q with
  | .error x => .error x
  | .ok s =>
    let y := s.grainOf c .write space win g none
    let part := grainPart a bs g
    match (y.stat.zipIdx).find? fun p => p.1 ≠ 0 && part.any (fun q => q.1 = p.2) with
    | some p => .error p.1
    | none => .ok (s.putPart c y part)

theorem State.placeWrite_eq (s : State) (c : Ctx) (space win a : Nat) (bs : List Byte) :
    s.placeWrite c space win a bs = (grainsAt a bs.length).foldl (State.placePart c space win a bs) (.ok s) := rfl

theorem State.placePart_error (c : Ctx) (space win a : Nat) (bs : List Byte) (e : BitVec 8) (gs : List Nat) :
    gs.foldl (State.placePart c space win a bs) (.error e) = .error e := by
  induction gs with
  | nil => rfl
  | cons g gs ih => exact ih

theorem State.placePart_beside {c : Ctx} (hc : c.buf = false) {space : Nat} (hs : 2 ≤ space) (win a : Nat) (bs : List Byte)
    (s : State) (l : Vector (List Nat) 4) (x : Vector Tenant 16) (k : Core) (p : List (Nat × Core)) (r : List RilNote)
    (g : Nat) {v : State} (h : State.placePart c space win a bs (.ok s) g = .ok v) :
    ∃ m y, State.placePart c space win a bs (.ok (s.beside l x k p r)) g = .ok (v.beside m y k p r) := by
  simp only [State.placePart, s.grainOf_beside l x k p r hc .write hs] at h ⊢
  split at h
  · cases h
  · cases h
    obtain ⟨m, y, hk⟩ := keepsBeside_putPart c (s.grainOf c .write space win g none) (grainPart a bs g) s l x k p r
    exact ⟨m, y, congrArg Except.ok hk⟩

/-- A write outside cores does the same beside other cores. -/
theorem State.placeWrite_beside {c : Ctx} (hc : c.buf = false) {space : Nat} (hs : 2 ≤ space) {win a : Nat} {bs : List Byte}
    {s v : State} (l : Vector (List Nat) 4) (x : Vector Tenant 16) (k : Core) (p : List (Nat × Core)) (r : List RilNote)
    (h : s.placeWrite c space win a bs = .ok v) :
    ∃ m y, (s.beside l x k p r).placeWrite c space win a bs = .ok (v.beside m y k p r) := by
  rw [State.placeWrite_eq] at h ⊢
  generalize grainsAt a bs.length = gs at h ⊢
  induction gs generalizing s l x with
  | nil => cases h; exact ⟨l, x, rfl⟩
  | cons g gs ih =>
    rw [List.foldl_cons] at h ⊢
    cases hw : State.placePart c space win a bs (.ok s) g with
    | error e => rw [hw, State.placePart_error] at h; cases h
    | ok u =>
      obtain ⟨m, y, hu⟩ := State.placePart_beside hc hs win a bs s l x k p r g hw
      rw [hw] at h
      rw [hu]
      exact ih m y h

/-- A read of memory outside cores does not depend on what the atomic units cache, nor on what was counted. -/
theorem State.placeRead_afterReads {c : Ctx} (hc : c.buf = false) {space : Nat} (hs : 2 ≤ space) (win a n : Nat) (s : State)
    (l : Vector (List Nat) 4) (m : Fin 16 → Vector Nat 8) :
    (s.afterReads l m).placeRead c space win a n = s.placeRead c space win a n := by
  have hg (g : Nat) : (s.afterReads l m).grainOf c .read space win g none = s.grainOf c .read space win g none :=
    s.grainOf_beside l (Vector.ofFn fun i => { s.ten[i] with moved := m i }) s.core s.parked s.ril hc .read hs win g none
  simp only [State.placeRead, hg]
  rfl

end Sys2Proof.Machine
end

section
/-! PROOFS. The end of a drain, and the IDENT word of its save (14 R343, 20 R368). -/

namespace Sys2Proof.Machine

theorem State.placeWrite_ril {c : Ctx} (hc : c.buf = false) {space : Nat} (hs : 2 ≤ space) {win a : Nat} {bs : List Byte}
    {s v : State} (h : s.placeWrite c space win a bs = .ok v) : v.ril = s.ril := by
  obtain ⟨m, y, hv⟩ := State.placeWrite_beside hc hs s.cache s.ten s.core s.parked s.ril h
  have hv' : s.placeWrite c space win a bs = .ok (v.beside m y s.core s.parked s.ril) := hv
  have hself := Except.ok.inj (h.symm.trans hv')
  exact (congrArg State.ril hself :)

/-- A core's replacement lies beside. -/
theorem State.putCore_beside (s : State) (n : Nat) (c : Core) : ∃ k p, s.putCore n c = s.beside s.cache s.ten k p s.ril := by
  unfold State.putCore
  split
  · exact ⟨_, _, rfl⟩
  · exact ⟨_, _, rfl⟩

@[simp] theorem State.getCore_tell (s : State) (x : RilNote) (n : Nat) : (s.tell x).getCore n = s.getCore n := rfl

@[simp] theorem State.putCore_ril (s : State) (n : Nat) (c : Core) : (s.putCore n c).ril = s.ril := by
  obtain ⟨k, p, h⟩ := s.putCore_beside n c
  rw [h]; rfl

/-! ## The IDENT words of saves whose drains are over (20 R368) -/

/-- The save's IDENT word is written now. -/
def State.identReady (s : State) (n : Nat) (i : IdentW) : Bool :=
  i.blocks.isEmpty && !s.writeHeld (s.saveCtx n i.xlat i.tenant) 2 0 (imgHdr i.img) 8

def State.identPut (n : Nat) (s : State) (i : IdentW) : State :=
  match s.placeWrite (s.saveCtx n i.xlat i.tenant) 2 0 (imgHdr i.img) (leBytes 8 i.word.toNat) with
  | .ok u => u
  | .error _ => s

def State.identsPut (s : State) (n : Nat) : State :=
  ((s.getCore n).t.idents.filter (s.identReady n)).foldl (State.identPut n) s

def Core.keepIdents (c : Core) (l : List IdentW) : Core := { c with t := { c.t with idents := l } }

theorem State.identPut_leaves (n : Nat) (s : State) (i : IdentW) :
    s.SameCores (s.identPut n i) ∧ (s.identPut n i).ril = s.ril := by
  unfold State.identPut
  cases h : s.placeWrite (s.saveCtx n i.xlat i.tenant) 2 0 (imgHdr i.img) (leBytes 8 i.word.toNat) with
  | error e => exact ⟨.refl s, rfl⟩
  | ok u => exact ⟨.placeWrite h, State.placeWrite_ril rfl (Nat.le_refl 2) h⟩

theorem State.identsPut_leaves (s : State) (n : Nat) : s.SameCores (s.identsPut n) ∧ (s.identsPut n).ril = s.ril := by
  unfold State.identsPut
  generalize (s.getCore n).t.idents.filter (s.identReady n) = l
  induction l generalizing s with
  | nil => exact ⟨.refl s, rfl⟩
  | cons i l ih =>
    obtain ⟨hcores, hril⟩ := s.identPut_leaves n i
    obtain ⟨hcores', hril'⟩ := ih (s.identPut n i)
    exact ⟨hcores.trans hcores', hril'.trans hril⟩

theorem State.finishIdents_eq (s : State) (n : Nat) : s.finishIdents n = (s.identsPut n).putCore n
    ((s.getCore n).keepIdents ((s.getCore n).t.idents.filter (!s.identReady n ·))) := by
  have hcore := (s.identsPut_leaves n).1.getCore n
  rw [← hcore]
  show (s.identsPut n).putCore n { ((s.identsPut n).getCore n) with
    t := { ((s.identsPut n).getCore n).t with idents := _ } } = _
  rw [hcore]
  rfl

section
variable (s : State) (n : Nat)

theorem State.finishIdents_core : (s.finishIdents n).getCore n =
    (s.getCore n).keepIdents ((s.getCore n).t.idents.filter (!s.identReady n ·)) := by
  rw [s.finishIdents_eq, State.getCore_putCore]

theorem State.finishIdents_ril : (s.finishIdents n).ril = s.ril := by
  rw [s.finishIdents_eq, State.putCore_ril, (s.identsPut_leaves n).2]

theorem State.finishIdents_memory :
    (s.finishIdents n).mem = (s.identsPut n).mem ∧ (s.finishIdents n).host = (s.identsPut n).host := by
  rw [s.finishIdents_eq]
  exact State.putCore_mem_host ..

variable {s n}

theorem State.identsPut_none (h : (s.getCore n).t.idents.filter (s.identReady n) = []) : s.identsPut n = s := by
  rw [State.identsPut, h]; rfl

end

/-! ## The end of a drain (14 R343) -/

/-- The machine once a drain's write is over, or has failed. -/
def State.drainWrote (s : State) (n : Nat) (d : Drain) (fails : Bool) : State :=
  match if fails then none else s.drainTo n d with
  | some u => u
  | none => (s.putCore n ((s.getCore n).damage d)).tell (.drain n d.block)

/-- The drain itself is over. -/
def State.drainOver (s : State) (n nth : Nat) (d : Drain) : State := s.putCore n ((s.getCore n).drained nth d)

theorem State.drainEnd_held {s : State} {n nth : Nat} {d : Drain} (hd : (s.getCore n).t.drains[nth]? = some d)
    (h : s.drainHeld n d = true) (fails : Bool) : s.drainEnd n nth fails = s := by
  simp [State.drainEnd, hd, h]

theorem State.drainEnd_eq {s : State} {n nth : Nat} {d : Drain} (hd : (s.getCore n).t.drains[nth]? = some d)
    (hfirst : ∀ f ∈ (s.getCore n).t.drains.take nth, f.block ≠ d.block) (h : s.drainHeld n d = false) (fails : Bool) :
    s.drainEnd n nth fails = ((s.drainWrote n d fails).drainOver n nth d).finishIdents n := by
  have hany : ((s.getCore n).t.drains.take nth).any (fun e => e.block = d.block) = false :=
    List.any_eq_false.mpr fun f hf => by simpa using hfirst f hf
  unfold State.drainEnd
  simp only [hd, hany, h, State.drainWrote]
  cases if fails then none else s.drainTo n d <;> rfl

theorem State.drainTo_leaves {s u : State} {n : Nat} {d : Drain} (h : s.drainTo n d = some u) :
    s.SameCores u ∧ u.ril = s.ril := by
  unfold State.drainTo at h
  cases hloc : d.loc with
  | none => simp [hloc] at h
  | some e =>
    simp only [hloc] at h
    split at h
    · cases h
    split at h
    · cases h; exact ⟨.refl s, rfl⟩
    split at h
    next hw =>
      cases h
      refine ⟨.placeWrite hw, State.placeWrite_ril ?_ ?_ hw⟩
      · split <;> rfl
      · unfold locSpace; split <;> omega
    · cases h

/-- What the end of a drain does to the core. -/
theorem State.drainWrote_core (s : State) (n : Nat) (d : Drain) (fails : Bool) :
    (s.drainWrote n d fails).getCore n = s.getCore n ∨ (s.drainWrote n d fails).getCore n = (s.getCore n).damage d := by
  unfold State.drainWrote
  cases h : if fails then none else s.drainTo n d with
  | none => exact .inr (by simp)
  | some u =>
    refine .inl ((State.drainTo_leaves (?_ : s.drainTo n d = some u)).1.getCore n)
    cases fails
    · exact h
    · cases h

theorem State.drainWrote_fails (s : State) (n : Nat) (d : Drain) :
    s.drainWrote n d true = (s.putCore n ((s.getCore n).damage d)).tell (.drain n d.block) := rfl

theorem State.drainWrote_some {s u : State} {n : Nat} {d : Drain} (h : s.drainTo n d = some u) : s.drainWrote n d false = u := by
  simp [State.drainWrote, h]

theorem Core.damage_leaves (c : Core) (d : Drain) : (c.damage d).r = c.r ∧ (c.damage d).t.drains = c.t.drains := by
  unfold Core.damage
  split <;> exact ⟨rfl, rfl⟩

theorem forSave_own {no : Option Nat} {i : IdentW} (h : no = some i.no) (f : IdentW → IdentW) : forSave no f [i] = [f i] := by
  simp [forSave, h]

section
variable {s : State} {n nth : Nat} {d : Drain} {fails : Bool} (hn : n < 2048)
  (hd : (s.getCore n).t.drains[nth]? = some d) (hfirst : ∀ f ∈ (s.getCore n).t.drains.take nth, f.block ≠ d.block)
  (hfree : s.drainHeld n d = false)
include hn hd hfirst hfree

theorem execBlockDrain_eq :
    execBlockDrain n nth fails s = .next (((s.drainWrote n d fails).drainOver n nth d).finishIdents n) := by
  rw [execBlockDrain, State.drainEnd_eq hd hfirst hfree, onDevice_core hn]

end

section
variable (s : State) (n nth : Nat) (d : Drain) (fails : Bool)

theorem State.drainOver_core : (s.drainOver n nth d).getCore n = (s.getCore n).drained nth d := by
  rw [State.drainOver, State.getCore_putCore]

theorem drain_core : (((s.drainWrote n d fails).drainOver n nth d).finishIdents n).getCore n =
    ((((s.drainWrote n d fails).getCore n).drained nth d).keepIdents
      ((((s.drainWrote n d fails).getCore n).drained nth d).t.idents.filter
        (!((s.drainWrote n d fails).drainOver n nth d).identReady n ·))) := by
  rw [State.finishIdents_core, State.drainOver_core]

theorem drain_leaves : let t := ((s.drainWrote n d fails).drainOver n nth d).finishIdents n
    (t.getCore n).t.drains = (s.getCore n).t.drains.eraseIdx nth ∧ (t.getCore n).r = (s.getCore n).r := by
  dsimp only
  rw [drain_core]
  rcases s.drainWrote_core n d fails with h | h
  · rw [h]; exact ⟨rfl, rfl⟩
  · obtain ⟨hr, hdrains⟩ := (s.getCore n).damage_leaves d
    rw [h]; exact ⟨congrArg (List.eraseIdx · nth) hdrains, hr⟩

theorem drain_fails : let t := ((s.drainWrote n d true).drainOver n nth d).finishIdents n
    (d.bytes = none → (t.getCore n).t.damaged = true) ∧ t.ril = s.ril ++ [.drain n d.block] := by
  refine ⟨fun hb => ?_, ?_⟩
  · rw [drain_core, s.drainWrote_fails, State.getCore_tell, State.getCore_putCore, Core.damage, hb]; rfl
  · rw [State.finishIdents_ril, State.drainOver, State.putCore_ril, s.drainWrote_fails]
    exact congrArg (· ++ _) (s.putCore_ril n _)

end

section
variable {s : State} {n nth : Nat} {d : Drain} {fails : Bool}

/-- The core's IDENT words after the end of a drain, before those that are ready are written. -/
theorem drainOver_idents {l : List IdentW} (h : ((s.drainWrote n d fails).getCore n).t.idents = l) :
    (((s.drainWrote n d fails).drainOver n nth d).getCore n).t.idents =
      forSave d.save (fun i => { i with blocks := i.blocks.erase d.block }) l := by
  rw [State.drainOver_core, ← h]; rfl

theorem drain_memory (h : (s.getCore n).t.idents = []) : let t := ((s.drainWrote n d fails).drainOver n nth d).finishIdents n
    t.mem = (s.drainWrote n d fails).mem ∧ t.host = (s.drainWrote n d fails).host := by
  have hw : ((s.drainWrote n d fails).getCore n).t.idents = [] := by
    rcases s.drainWrote_core n d fails with hc | hc
    · rw [hc, h]
    · rw [hc, Core.damage]
      split
      · exact h
      · show forSave _ _ _ = _
        rw [h]; rfl
  have hnone : (((s.drainWrote n d fails).drainOver n nth d).getCore n).t.idents = [] := drainOver_idents hw
  obtain ⟨hmem, hhost⟩ := ((s.drainWrote n d fails).drainOver n nth d).finishIdents_memory n
  rw [State.identsPut_none (by rw [hnone]; rfl)] at hmem hhost
  obtain ⟨hmem', hhost'⟩ := (s.drainWrote n d fails).putCore_mem_host n (((s.drainWrote n d fails).getCore n).drained nth d)
  exact ⟨hmem.trans hmem', hhost.trans hhost'⟩

/-- A drain that has written what the machine u holds, or has failed, leaves the machine beside u. -/
theorem drainWrote_beside {u : State} (hu : if fails then u = s else s.drainTo n d = some u) :
    ∃ k p r, (s.drainWrote n d fails).drainOver n nth d = u.beside u.cache u.ten k p r := by
  cases fails with
  | true =>
    have hu : u = s := hu
    rw [hu]
    obtain ⟨k, p, h⟩ := s.putCore_beside n ((s.getCore n).damage d)
    obtain ⟨k', p', h'⟩ := (s.drainWrote n d true).putCore_beside n (((s.drainWrote n d true).getCore n).drained nth d)
    refine ⟨k', p', s.ril ++ [.drain n d.block], h'.trans ?_⟩
    rw [s.drainWrote_fails, h]
    rfl
  | false =>
    rw [State.drainWrote_some hu]
    obtain ⟨k, p, h⟩ := u.putCore_beside n ((u.getCore n).drained nth d)
    exact ⟨k, p, u.ril, h⟩

/-- The IDENT word that waits for a drain of its save. -/
def IdentW.after (i : IdentW) (d : Drain) (fails : Bool) : IdentW :=
  { i with word := if fails = true ∧ d.bytes ≠ none then i.word ||| 1024 else i.word, blocks := i.blocks.erase d.block }

theorem drainOver_ident {i : IdentW} {u : State} (hi : (s.getCore n).t.idents = [i]) (hsave : d.save = some i.no)
    (hu : if fails then u = s else s.drainTo n d = some u) :
    (((s.drainWrote n d fails).drainOver n nth d).getCore n).t.idents = [i.after d fails] := by
  cases fails with
  | false =>
    have hw : ((s.drainWrote n d false).getCore n).t.idents = [i] := by
      rw [State.drainWrote_some hu, (State.drainTo_leaves hu).1.getCore, hi]
    rw [drainOver_idents hw, forSave_own hsave]; rfl
  | true =>
    cases hb : d.bytes with
    | none =>
      have hw : ((s.drainWrote n d true).getCore n).t.idents = [i] := by
        rw [s.drainWrote_fails, State.getCore_tell, State.getCore_putCore, Core.damage, hb]; exact hi
      rw [drainOver_idents hw, forSave_own hsave, IdentW.after, hb]; rfl
    | some l =>
      have hw : ((s.drainWrote n d true).getCore n).t.idents = [{ i with word := i.word ||| 1024 }] := by
        rw [s.drainWrote_fails, State.getCore_tell, State.getCore_putCore, Core.damage, hb]
        show forSave _ _ _ = _
        rw [hi, forSave_own hsave]
      have hsave' : d.save = some ({ i with word := i.word ||| 1024 } : IdentW).no := hsave
      rw [drainOver_idents hw, forSave_own hsave', IdentW.after, hb]; rfl

/-- The IDENT word is written with the last of its drains, where no link holds it up (20 R368). -/
theorem drain_ident {i : IdentW} {u : State} (hi : (s.getCore n).t.idents = [i]) (hsave : d.save = some i.no)
    (hu : if fails then u = s else s.drainTo n d = some u) :
    let t := ((s.drainWrote n d fails).drainOver n nth d).finishIdents n
    let ctx := s.saveCtx n i.xlat i.tenant
    (i.blocks.erase d.block ≠ [] → t.mem = u.mem ∧ (t.getCore n).t.idents = [i.after d fails]) ∧
    (i.blocks.erase d.block = [] → u.writeHeld ctx 2 0 (imgHdr i.img) 8 = false →
      ∀ v, u.placeWrite ctx 2 0 (imgHdr i.img) (leBytes 8 (i.after d fails).word.toNat) = .ok v →
        t.mem = v.mem ∧ (t.getCore n).t.idents = []) := by
  intro t ctx
  have hidents := drainOver_ident (nth := nth) hi hsave hu
  obtain ⟨k, p, r, hover⟩ := drainWrote_beside (nth := nth) hu
  generalize hs : (s.drainWrote n d fails).drainOver n nth d = o at hidents hover
  have hready : o.identReady n (i.after d fails) = ((i.blocks.erase d.block).isEmpty && !u.writeHeld ctx 2 0 (imgHdr i.img) 8) := by
    rw [hover]
    exact congrArg (fun b => (i.blocks.erase d.block).isEmpty && !b) (u.writeHeld_beside _ _ _ _ _ rfl (Nat.le_refl 2) 0 _ 8)
  have hmem : t.mem = (o.identsPut n).mem := by rw [← hs]; exact (State.finishIdents_memory _ n).1
  have hleft : (t.getCore n).t.idents = [i.after d fails].filter (!o.identReady n ·) := by
    show ((((s.drainWrote n d fails).drainOver n nth d).finishIdents n).getCore n).t.idents = _
    rw [hs, State.finishIdents_core, ← hidents]; rfl
  refine ⟨fun hblocks => ?_, fun hblocks hheld v hv => ?_⟩
  · have hno : o.identReady n (i.after d fails) = false := by simp [hready, hblocks]
    refine ⟨?_, by rw [hleft]; simp [hno]⟩
    rw [hmem, State.identsPut_none (by rw [hidents]; simp [hno]), hover]
    rfl
  · have hyes : o.identReady n (i.after d fails) = true := by simp [hready, hblocks, hheld]
    refine ⟨?_, by rw [hleft]; simp [hyes]⟩
    obtain ⟨m, y, hput⟩ := State.placeWrite_beside (c := ctx) rfl (Nat.le_refl 2) u.cache u.ten k p r hv
    have hone : o.identsPut n = o.identPut n (i.after d fails) := by
      rw [State.identsPut, hidents]; simp [hyes]
    have hput' : o.identPut n (i.after d fails) = v.beside m y k p r := by
      rw [hover, State.identPut]
      have : (u.beside u.cache u.ten k p r).placeWrite ((u.beside u.cache u.ten k p r).saveCtx n (i.after d fails).xlat
          (i.after d fails).tenant) 2 0 (imgHdr (i.after d fails).img) (leBytes 8 (i.after d fails).word.toNat) =
          .ok (v.beside m y k p r) := hput
      rw [this]
    rw [hmem, hone, hput']
    rfl

end

end Sys2Proof.Machine
end

section
/-! PROOFS. States and bytes of blocks, and what a pull makes of them (07 R161, R170, R171; 14 R342). -/

namespace Sys2Proof.Machine

/-! ## States of blocks (07 R171) -/

theorem alGet_alDel {α : Type} (d : α) (l : List (Nat × α)) (n m : Nat) :
    alGet d (alDel l n) m = if m = n then d else alGet d l m := by
  induction l with
  | nil => simp [alDel, alGet]
  | cons p r ih =>
    obtain ⟨k, x⟩ := p
    have hcons : alDel ((k, x) :: r) n = if k = n then alDel r n else (k, x) :: alDel r n := by
      by_cases h : k = n <;> simp [alDel, h]
    rw [hcons]
    by_cases hk : k = n <;> by_cases hm : m = n
    · rw [if_pos hk, ih, if_pos hm, if_pos hm]
    · rw [if_pos hk, ih, if_neg hm, if_neg hm, alGet, if_neg (fun e => hm (e.symm.trans hk))]
    · rw [if_neg hk, alGet, if_neg (fun e => hk (e.trans hm)), ih, if_pos hm, if_pos hm]
    · rw [if_neg hk, alGet, ih, if_neg hm, if_neg hm, alGet]

theorem Core.presOf_setPres (c : Core) (b : Nat) (p : Pres) (h : Nat) :
    (c.setPres b p).presOf h = if h = b then p else c.presOf h := by
  unfold Core.presOf Core.setPres
  by_cases hp : p = .present
  · subst hp
    exact alGet_alDel _ _ _ _
  · simp only [if_neg hp]
    by_cases hb : h = b
    · rw [if_pos hb, hb, alGet_alSet_same]
    · rw [if_neg hb, alGet_alSet_other _ _ _ _ _ (Ne.symm hb)]

/-! ## Bytes stored (07 R161) -/

/-- A core with other registers, its blocks' states left as they are. -/
def Core.Stored (c k : Core) : Prop := ∃ r, k = { c with r := r } ∧ r.pres = c.r.pres

theorem Core.Stored.refl (c : Core) : c.Stored c := ⟨c.r, rfl, rfl⟩

theorem Core.Stored.trans {c k m : Core} (h : c.Stored k) (h' : k.Stored m) : c.Stored m := by
  obtain ⟨r, rfl, hr⟩ := h
  obtain ⟨r', rfl, hr'⟩ := h'
  exact ⟨r', rfl, hr'.trans hr⟩

theorem Core.Stored.of {c : Core} {r : Regs} (h : r.pres = c.r.pres) : c.Stored { c with r := r } := ⟨r, rfl, h⟩

theorem Core.Stored.ite {c k m : Core} {p : Prop} [Decidable p] (hk : c.Stored k) (hm : c.Stored m) :
    c.Stored (if p then k else m) := by
  split
  · exact hk
  · exact hm

theorem Core.Stored.setB (c : Core) (a : Nat) (b : Byte) : c.Stored (c.setB a b) := by
  unfold Core.setB
  exact .ite (.of rfl) <| .ite (.of rfl) <| .ite (.of rfl) <| .ite (.of rfl) <| .ite (.refl c) <| .ite (.of rfl) <|
    .ite (.refl c) <| .ite (.of rfl) <| .ite (.refl c) <| .ite (.of rfl) <| .ite (.refl c) <| .ite (.of rfl) <|
    .ite (.of rfl) <| .ite (.of rfl) (.refl c)

/-- The machine with other registers in its cores. -/
def State.Stored (s t : State) : Prop := t.cur = s.cur ∧ ∀ k, (s.getCore k).Stored (t.getCore k)

theorem State.Stored.refl (s : State) : s.Stored s := ⟨rfl, fun _ => .refl _⟩

theorem State.Stored.trans {s t u : State} (h : s.Stored t) (h' : t.Stored u) : s.Stored u :=
  ⟨h'.1.trans h.1, fun k => (h.2 k).trans (h'.2 k)⟩

theorem State.SameCores.stored {s t : State} (h : s.SameCores t) : s.Stored t :=
  ⟨h.1, fun k => by rw [h.getCore]; exact .refl _⟩

theorem State.Stored.setB (s : State) (n a : Nat) (b : Byte) : s.Stored (s.setB n a b) := by
  refine ⟨s.setB_cur n a b, fun k => ?_⟩
  rw [State.setB_cell]
  by_cases hk : (cell n a).1 = k
  · rw [hk, State.getCore_putCore]; exact .setB _ _ _
  · rw [State.getCore_putCore_other _ _ _ _ hk]; exact .refl _

theorem State.Stored.setBs (s : State) (n a : Nat) (l : List Byte) : s.Stored (s.setBs n a l) := by
  induction l generalizing s a with
  | nil => exact .refl s
  | cons b l ih => exact (State.Stored.setB s n a b).trans (ih _ _)

theorem State.Stored.putBlock (s : State) (n b : Nat) (data : List Byte) : s.Stored (s.putBlock n b data) := by
  unfold State.putBlock
  generalize blockSpan b = l
  induction l generalizing s data with
  | nil => exact .refl s
  | cons p l ih => exact (State.Stored.setBs s n p.1 (data.take p.2)).trans (ih _ _)

/-! ## Blocks of the scratchpad and of the handles (07 R170) -/

/-- A block of the scratchpad or of the handles. -/
def PlainBlock (b : Nat) : Prop := b < 256 ∨ 284 ≤ b ∧ b < 288
def plainBase (b : Nat) : Nat := if b < 256 then 4096 * b else 0x302200 + 128 * (b - 284)
def plainSize (b : Nat) : Nat := if b < 256 then 4096 else 128

section
variable {b : Nat} (hb : PlainBlock b)
include hb

theorem blockSpan_plain : blockSpan b = [(plainBase b, plainSize b)] := by
  unfold blockSpan plainBase plainSize
  rcases hb with h | ⟨h, h'⟩
  · simp [h]
  · rw [if_neg (by omega), if_neg (by omega), if_neg (by omega), if_neg (by omega), if_neg (by omega), if_pos h',
      if_neg (by omega), if_neg (by omega)]

theorem blockLen_plain : blockLen b = plainSize b := by
  rw [blockLen, blockSpan_plain hb]
  exact Nat.zero_add _

theorem State.putBlock_plain (s : State) (n : Nat) {l : List Byte} (hl : l.length = plainSize b) :
    s.putBlock n b l = s.setBs n (plainBase b) l := by
  rw [State.putBlock, blockSpan_plain hb, List.foldl_cons, List.foldl_nil, List.take_of_length_le (Nat.le_of_eq hl)]

theorem State.blockBytes_plain (s : State) (n : Nat) :
    s.blockBytes n b = (List.range (plainSize b)).map fun i => s.getB n (plainBase b + i) := by
  rw [State.blockBytes, blockSpan_plain hb, List.flatMap_singleton]

end

/-! ## Bytes of the handles (07 R161) -/

theorem byteOf_setByte (x : BitVec 256) {i j : Nat} (hj : j < 32) (b : Byte) :
    byteOf (setByte x i b) j = if j = i then b else byteOf x j := by
  refine BitVec.eq_of_getLsbD_eq fun k hk => ?_
  rw [byteOf_getLsbD _ _ hk, setByte_getLsbD _ _ _ (by omega), show (8 * j + k) / 8 = j by omega, show (8 * j + k) % 8 = k by omega]
  split
  · rfl
  · rw [byteOf_getLsbD _ _ hk]

theorem Core.getB_setB_handle (k : Core) {a i : Nat} (ha : 0x302200 ≤ a) (ha' : a < 0x302400) (hi : 0x302200 ≤ i)
    (hi' : i < 0x302400) (b : Byte) : (k.setB a b).getB i = if i = a then b else k.getB i := by
  obtain ⟨n, j, hn, hj, rfl⟩ : ∃ n j, n < 16 ∧ j < 32 ∧ a = 0x302200 + 32 * n + j :=
    ⟨(a - 0x302200) / 32, (a - 0x302200) % 32, by omega, by omega, by omega⟩
  obtain ⟨m, l, hm, hl, rfl⟩ : ∃ m l, m < 16 ∧ l < 32 ∧ i = 0x302200 + 32 * m + l :=
    ⟨(i - 0x302200) / 32, (i - 0x302200) % 32, by omega, by omega, by omega⟩
  rw [k.setB_handle hn hj, Core.getB_handle _ hm hl, Core.getB_handle _ hm hl]
  by_cases hnm : n = m
  · subst hnm
    rw [vget_vset_same _ _ _ _ hn, byteOf_setByte _ hl]
    exact if_congr (by omega) rfl rfl
  · rw [vget_vset_other _ _ _ _ _ hnm, if_neg (by omega)]

theorem State.getB_setB_handle (s : State) (n : Nat) {a i : Nat} (ha : 0x302200 ≤ a) (ha' : a < 0x302400) (hi : 0x302200 ≤ i)
    (hi' : i < 0x302400) (b : Byte) : (s.setB n a b).getB n i = if i = a then b else s.getB n i := by
  have hget (t : State) : t.getB n i = (t.getCore n).getB i := by simp [State.getB, lentAddr_window (show 0x300000 ≤ i by omega)]
  have hset : s.setB n a b = s.putCore n ((s.getCore n).setB a b) := by
    simp [State.setB, lentAddr_window (show 0x300000 ≤ a by omega)]
  rw [hget, hget, hset, State.getCore_putCore, Core.getB_setB_handle _ ha ha' hi hi']

/-- Bytes written to the handles are read back. -/
theorem State.getB_setBs_handle (s : State) (n : Nat) {a i : Nat} {l : List Byte} (ha : 0x302200 ≤ a)
    (ha' : a + l.length ≤ 0x302400) (hi : 0x302200 ≤ i) (hi' : i < 0x302400) :
    (s.setBs n a l).getB n i = if a ≤ i ∧ i < a + l.length then l.getD (i - a) 0 else s.getB n i := by
  induction l generalizing s a with
  | nil => rw [if_neg (by simp)]; rfl
  | cons b l ih =>
    rw [List.length_cons] at ha' ⊢
    rw [State.setBs, ih (s.setB n a b) (by omega) (by omega), s.getB_setB_handle n ha (by omega) hi hi']
    by_cases hia : i = a
    · rw [if_neg (by omega), if_pos hia, if_pos (by omega), hia, Nat.sub_self]; rfl
    · by_cases hin : a + 1 ≤ i ∧ i < a + 1 + l.length
      · rw [if_pos hin, if_pos (by omega), show i - a = i - (a + 1) + 1 by omega]; rfl
      · rw [if_neg hin, if_neg hia, if_neg (by omega)]

/-- A block of the scratchpad or of the handles reads as what was placed there. -/
theorem State.getB_putBlock {s : State} (h : s.Inv) (n : Nat) {b : Nat} (hb : PlainBlock b) {l : List Byte}
    (hl : l.length = plainSize b) {i : Nat} (hi : i < plainSize b) :
    (s.putBlock n b l).getB n (plainBase b + i) = l.getD i 0 := by
  rw [s.putBlock_plain hb n hl]
  rcases hb with hlow | ⟨hlo, hhi⟩
  · have hbase : plainBase b = 4096 * b := if_pos hlow
    have hsize : plainSize b = 4096 := if_pos hlow
    rw [hsize] at hl hi
    rw [hbase]
    refine State.getB_setBs_same h n (by omega) (by omega) fun i hi j hj e => ?_
    have := cell_inj n (by omega) (by omega) e
    omega
  · have hbase : plainBase b = 0x302200 + 128 * (b - 284) := if_neg (by omega)
    have hsize : plainSize b = 128 := if_neg (by omega)
    rw [hsize] at hl hi
    rw [hbase, s.getB_setBs_handle n (by omega) (by omega) (by omega) (by omega), if_pos (by omega), Nat.add_sub_cancel_left]

theorem State.getB_congr {s t : State} (h : ∀ k a, (t.getCore k).getB a = (s.getCore k).getB a) (n a : Nat) :
    t.getB n a = s.getB n a := by
  unfold State.getB
  split <;> exact h _ _

/-! ## Pulls (R342) -/

def State.marked (s : State) (n b : Nat) (p : Pres) : State := s.putCore n ((s.getCore n).setPres b p)

theorem State.marked_getB (s : State) (n b : Nat) (p : Pres) (m a : Nat) : (s.marked n b p).getB m a = s.getB m a := by
  refine State.getB_congr (fun k a => ?_) m a
  by_cases hk : n = k
  · subst hk; rw [State.marked, State.getCore_putCore]; rfl
  · rw [State.marked, State.getCore_putCore_other _ _ _ _ hk]

/-- The machine with a block of a core in a state, no trap register of the core changed. -/
def State.Pulled (s t : State) (n b : Nat) (p : Pres) : Prop :=
  t.cur = s.cur ∧ (t.getCore n).t = (s.getCore n).t ∧ (t.getCore n).presOf b = p

theorem State.Stored.pulled {s t : State} (h : s.Stored t) (n b : Nat) (p : Pres) : s.Pulled (t.marked n b p) n b p := by
  obtain ⟨hcur, hcore⟩ := h
  obtain ⟨r, hr, -⟩ := hcore n
  refine ⟨(State.putCore_cur _ _ _).trans hcur, ?_, ?_⟩
  · rw [State.marked, State.getCore_putCore, hr]; rfl
  · rw [State.marked, State.getCore_putCore, Core.presOf_setPres, if_pos rfl]

theorem joinGrains_length {a n : Nat} {got : List (List (BitVec 8 × Byte))} (h : got.length = (grainsAt a n).length) :
    (joinGrains a n got).length = n := by
  have hflat : (got.flatMap fun l => (List.range 64).map fun i => l.getD i ((0x08 : BitVec 8), (0 : Byte))).length =
      64 * got.length := by
    induction got with
    | nil => rfl
    | cons x xs ih => simp [List.flatMap_cons, Nat.mul_add] at *; omega
  rw [joinGrains, List.length_take, List.length_drop, hflat, h, grainsAt]
  split
  · simp_all
  · rw [List.length_map, List.length_range]; omega

theorem State.placeRead_length {s : State} {c : Ctx} {space win a n : Nat} {l : List Byte}
    (h : s.placeRead c space win a n = .ok l) :
    l.length = n := by
  unfold State.placeRead at h
  simp only at h
  split at h
  · cases h
  · cases h
    rw [List.length_map]
    exact joinGrains_length (List.length_map _)

section
variable (s : State) (n b : Nat)

/-- A pull makes its block present or poisoned. -/
theorem State.pullFrom_pulled {loc : Option W64} {t : State} (h : s.pullFrom n b loc = some t) :
    s.Pulled t n b .present ∨ s.Pulled t n b .poisoned := by
  unfold State.pullFrom at h
  cases loc with
  | none => cases h
  | some e =>
    simp only at h
    split at h
    · cases h
    split at h
    · cases h; exact .inr ((State.Stored.refl s).pulled n b .poisoned)
    split at h
    · cases h; exact .inl ((State.Stored.putBlock s n b _).pulled n b .present)
    split at h
    · cases h
      exact .inl (((State.SameCores.usedRange s _ _ _ _ _).stored.trans (.putBlock _ n b _)).pulled n b .present)
    · cases h

variable {e : W64} (hok : locOk e = true)
include hok

theorem State.pullFrom_poisoned (hp : e.getLsbD 42 = true) : s.pullFrom n b (some e) = some (s.marked n b .poisoned) := by
  simp [State.pullFrom, hok, locPsn, hp, State.marked]

theorem State.pullFrom_zeros (hp : e.getLsbD 42 = false) (hk : locKind e = 0) :
    s.pullFrom n b (some e) = some ((s.putBlock n b (List.replicate (blockLen b) 0)).marked n b .present) := by
  have hmark : locPsn e = false := hp
  simp [State.pullFrom, hok, hmark, hk, State.marked]

theorem State.pullFrom_bytes (hp : e.getLsbD 42 = false) (hk : locKind e ≠ 0) {l : List Byte}
    (hl : s.placeRead (s.coreCtx n) (locKind e + 1) (locWin e) (locAddr e) (blockLen b) = .ok l) :
    s.pullFrom n b (some e) =
      some (((s.usedRange (s.coreCtx n) (locKind e + 1) (locWin e) (locAddr e) (blockLen b)).putBlock n b l).marked n b .present) := by
  have hsp : (if locKind e = 3 then 4 else locSpace e) = locKind e + 1 := by unfold locSpace; split <;> omega
  simp only [State.pullFrom, hok, locPsn, hp, hk, hsp, hl]
  rfl

end

end Sys2Proof.Machine
end

section
/-! PROOFS. Pulls, background pulls, drains and soft errors (07 R171, R179; 14 R341 to R351; 20 R368). -/

namespace Sys2Proof.Machine

/-! ## The moves (R341 to R343) -/

theorem State.usedEntry_same (s : State) (n b : Nat) : s.SameCores (s.usedEntry n b) := by
  obtain ⟨l, m, h⟩ := s.usedEntry_reads n b
  rw [h]
  exact ⟨rfl, rfl, rfl⟩

theorem State.pullBlock_pulled {s t : State} {n b : Nat} (h : s.pullBlock n b = some t) :
    s.Pulled t n b .present ∨ s.Pulled t n b .poisoned := by
  have hcores := s.usedEntry_same n b
  have move {p : Pres} : (s.usedEntry n b).Pulled t n b p → s.Pulled t n b p := fun ⟨hcur, ht, hp⟩ =>
    ⟨hcur.trans hcores.1, by rw [ht, hcores.getCore], hp⟩
  exact (State.pullFrom_pulled _ n b h).imp move move

/-- The selected core's trap registers changed. -/
def State.onTraps (s : State) (f : Traps → Traps) : State := s.onCore fun c => { c with t := f c.t }

theorem State.Pulled.core {s t : State} {b : Nat} {p : Pres} (h : s.Pulled t s.cur b p) (f : Traps → Traps) :
    (t.onTraps f).core.presOf b = p ∧ (t.onTraps f).core.t = f s.core.t := by
  obtain ⟨hcur, ht, hp⟩ := h
  have hcore : t.getCore s.cur = t.core := by rw [← hcur, State.getCore_cur]
  rw [hcore] at ht hp
  rw [State.getCore_cur] at ht
  exact ⟨hp, congrArg f ht⟩

section
variable {s : State} {nth b : Nat}

theorem execPull_waits (hp : s.core.t.pulls[nth]? = some b) (ha : s.core.presOf b = .absent)
    (h : s.draining s.cur b = true ∨ s.pullHeld s.cur b = true) : execPull nth s = .next s := by
  rcases h with h | h <;> simp [execPull, hp, ha, h]

section
variable (hp : s.core.t.pulls[nth]? = some b) (ha : s.core.presOf b = .absent) (hd : s.draining s.cur b = false)
  (hh : s.pullHeld s.cur b = false)
include hp ha hd hh

theorem execPull_some {t : State} (h : s.pullBlock s.cur b = some t) : execPull nth s = .next (t.onTraps (Traps.pulled · b)) := by
  simp [execPull, hp, ha, hd, hh, h]
  rfl

theorem execPull_none (h : s.pullBlock s.cur b = none) : execPull nth s = .next (s.onTraps (Traps.pullLost · b)) := by
  simp [execPull, hp, ha, hd, hh, h]
  rfl

end

/-- One background pull less is asked for. -/
def Traps.bgTaken (t : Traps) : Traps := { t with bg := t.bg.tail }

theorem execTricklePull_some {loc : Option W64} {rest : List (Nat × Option W64)} (hr : s.core.runs = true)
    (hb : s.core.t.bg = (b, loc) :: rest) (ha : s.core.presOf b = .absent) (hd : s.draining s.cur b = false)
    (hh : s.locHeld s.cur b loc = false) :
    execTricklePull s = .next (((s.pullFrom s.cur b loc).getD s).onTraps Traps.bgTaken) := by
  simp [execTricklePull, hr, hb, ha, hd, hh]
  rfl

theorem execTricklePull_idle (hr : s.core.runs = true) (hb : s.core.t.bg = []) (hm : (s.core.csr .presmode).getLsbD 0 = false) :
    execTricklePull s = .next s := by
  unfold execTricklePull
  simp only [hr, hb, hm]
  rfl

end

/-! ## What a pull brings (R342) -/

theorem State.onTraps_getB (s : State) (f : Traps → Traps) (n a : Nat) : (s.onTraps f).getB n a = s.getB n a := by
  refine State.getB_congr (fun k a => ?_) n a
  by_cases hk : k = s.cur
  · subst hk
    rw [State.getCore_cur]
    have hcore : (s.onTraps f).getCore s.cur = (s.onTraps f).core := State.getCore_cur (s.onTraps f)
    rw [hcore]
    rfl
  · have hcore : (s.onTraps f).getCore k = s.getCore k := by simp [State.getCore, State.onTraps, hk]
    rw [hcore]

section
variable {s : State} {b : Nat} {e : W64} (hs : s.Inv) (hb : PlainBlock b) (hok : locOk e = true) (l : Vector (List Nat) 4)
  (m : Fin 16 → Vector Nat 8) (n : Nat)
include hs hb hok

theorem State.pullFrom_zeroed (hp : e.getLsbD 42 = false) (hk : locKind e = 0) :
    ∃ t, (s.afterReads l m).pullFrom n b (some e) = some t ∧ s.Pulled t n b .present ∧
      ∀ i < plainSize b, t.getB n (plainBase b + i) = 0 := by
  refine ⟨_, State.pullFrom_zeros _ n b hok hp hk, (State.Stored.putBlock (s.afterReads l m) n b _).pulled n b .present,
    fun i hi => ?_⟩
  have hinv : (s.afterReads l m).Inv := hs
  have hlen : (List.replicate (blockLen b) (0 : Byte)).length = plainSize b := by rw [List.length_replicate, blockLen_plain hb]
  rw [State.marked_getB, State.getB_putBlock hinv n hb hlen hi]
  simp [blockLen_plain hb, hi]

theorem State.pullFrom_read (hp : e.getLsbD 42 = false) (hk : locKind e ≠ 0) {data : List Byte}
    (hd : s.placeRead (s.coreCtx n) (locKind e + 1) (locWin e) (locAddr e) (plainSize b) = .ok data) :
    ∃ t, (s.afterReads l m).pullFrom n b (some e) = some t ∧ s.Pulled t n b .present ∧
      ∀ i < plainSize b, t.getB n (plainBase b + i) = data.getD i 0 := by
  have hread : (s.afterReads l m).placeRead ((s.afterReads l m).coreCtx n) (locKind e + 1) (locWin e) (locAddr e) (blockLen b) =
      .ok data := by
    rw [blockLen_plain hb]
    exact (s.placeRead_afterReads (c := s.coreCtx n) rfl (by omega) _ _ _ l m).trans hd
  have hcores := State.SameCores.usedRange (s.afterReads l m) ((s.afterReads l m).coreCtx n) (locKind e + 1) (locWin e) (locAddr e)
    (blockLen b)
  refine ⟨_, State.pullFrom_bytes _ n b hok hp hk hread, (hcores.stored.trans (.putBlock _ n b data)).pulled n b .present,
    fun i hi => ?_⟩
  obtain ⟨k, j, hkj⟩ := (s.afterReads l m).usedRange_reads ((s.afterReads l m).coreCtx n) (locKind e + 1) (locWin e) (locAddr e)
    (blockLen b)
  have hinv : ((s.afterReads l m).usedRange ((s.afterReads l m).coreCtx n) (locKind e + 1) (locWin e) (locAddr e)
      (blockLen b)).Inv := by rw [hkj]; exact hs
  rw [State.marked_getB, State.getB_putBlock hinv n hb (State.placeRead_length hd) hi]

end

/-- A pull of a block from a location is made now: on demand, or in the background. -/
def State.asksPull (s : State) (nth b : Nat) (e : W64) (rest : List (Nat × Option W64)) (i : Instr) : Prop :=
  i = .pull nth ∧ s.core.t.pulls[nth]? = some b ∧ (∃ a, s.locEntry s.cur b = some (e, a)) ∧ s.pullHeld s.cur b = false ∨
    i = .tricklePull ∧ s.core.runs = true ∧ s.core.t.bg = (b, some e) :: rest ∧ s.locHeld s.cur b (some e) = false

theorem State.asksPull.exec {s : State} {nth b : Nat} {e : W64} {rest : List (Nat × Option W64)} {i : Instr}
    (h : s.asksPull nth b e rest i) (ha : s.core.presOf b = .absent) (hd : s.draining s.cur b = false) :
    ∃ l m f, ∀ t, (s.afterReads l m).pullFrom s.cur b (some e) = some t → exec i s = .next (t.onTraps f) := by
  rcases h with ⟨rfl, hp, ⟨a, he⟩, hh⟩ | ⟨rfl, hr, hbg, hh⟩
  · obtain ⟨l, m, hread⟩ := s.usedEntry_reads s.cur b
    refine ⟨l, m, (Traps.pulled · b), fun t ht => ?_⟩
    rw [exec_pull, execPull_some hp ha hd hh (t := t)]
    rw [State.pullBlock, hread, he]
    exact ht
  · refine ⟨s.cache, fun i => s.ten[i].moved, Traps.bgTaken, fun t ht => ?_⟩
    rw [s.afterReads_self] at ht
    have ht : s.pullFrom s.cur b (some e) = some t := ht
    rw [exec_tricklePull, execTricklePull_some hr hbg ha hd hh, ht]
    rfl

/-! ## Soft errors (R179, R351) -/

theorem Core.presOf_poisonBlock (c : Core) (b h : Nat) : (c.poisonBlock b).presOf h =
    if h = b then (if c.presOf b = .absent then .absent else .poisoned) else c.presOf h := by
  unfold Core.poisonBlock
  cases hp : c.presOf b with
  | present | outgoing => simp [Core.presOf_setPres]
  | absent | poisoned =>
    by_cases hb : h = b
    · simp [hb, hp]
    · simp [hb]

theorem mem_poisonGrain (s : State) (grain g : Nat) : g ∈ (s.poisonGrain grain).poison ↔ g ∈ s.poison ∨ g = grain := by
  unfold State.poisonGrain
  by_cases h : s.poison.contains grain = true
  · rw [if_pos h]
    refine ⟨.inl, fun hg => hg.elim id fun e => ?_⟩
    subst e
    simpa using h
  · rw [if_neg h]
    have hsplit : g ∈ s.poison ↔ g ∈ s.poison.takeWhile (· < grain) ∨ g ∈ s.poison.dropWhile (· < grain) := by
      rw [← List.mem_append, List.takeWhile_append_dropWhile]
    rw [hsplit, List.mem_append, List.mem_cons]
    tauto

/-! ## A killed job (R335, R345) -/

/-- The selected core, and the job it has, stay. -/
def State.SameJob (s t : State) : Prop := t.cur = s.cur ∧ t.core.job = s.core.job

theorem State.SameJob.refl (s : State) : s.SameJob s := ⟨rfl, rfl⟩

theorem State.SameJob.trans {s t u : State} (h : s.SameJob t) (h' : t.SameJob u) : s.SameJob u :=
  ⟨h'.1.trans h.1, h'.2.trans h.2⟩

theorem State.SameCores.sameJob {s t : State} (h : s.SameCores t) : s.SameJob t := ⟨h.1, congrArg Core.job h.2.1⟩

theorem State.SameJob.setTenant (s : State) (t : BitVec 4) (x : Tenant) : s.SameJob (s.setTenant t x) := ⟨rfl, rfl⟩

theorem State.SameJob.raise (s : State) (t : BitVec 4) (v : Nat) : s.SameJob (s.raise t v) := by
  unfold State.raise
  simp only
  split
  · exact .setTenant s t _
  · exact ⟨rfl, rfl⟩

theorem State.SameJob.setNote (s : State) (t : BitVec 4) (note : W32) : s.SameJob (s.setNote t note) := by
  refine ⟨rfl, ?_⟩
  show (if s.core.runs && s.core.tenant = t then s.core.setCsr .throttle (note.setWidth 64) else s.core).job = _
  split <;> rfl

theorem State.SameJob.noticed (s : State) (t : BitVec 4) (code : Nat) : s.SameJob (s.noticed t code) :=
  (State.SameJob.setNote s t _).trans (.raise _ t 1)

theorem State.SameCores.keep (s : State) (t : TlbEnt) : s.SameCores (s.keep t) := by
  unfold State.keep
  split
  · exact .refl s
  · exact ⟨rfl, rfl, rfl⟩

theorem State.SameCores.foldl {α : Type} {f : State → α → State} (h : ∀ (s : State) x, s.SameCores (f s x)) (xs : List α)
    (s : State) : s.SameCores (xs.foldl f s) := by
  induction xs generalizing s with
  | nil => exact .refl s
  | cons x xs ih => exact (h s x).trans (ih _)

theorem State.SameCores.noteDist (s : State) (c : Ctx) (v n : Nat) : s.SameCores (s.noteDist c v n) := by
  unfold State.noteDist
  split
  · exact .refl s
  · refine State.SameCores.foldl (fun s i => ?_) _ s
    simp only
    split
    · exact .refl s
    · exact .keep s _

theorem State.SameCores.virtWrite {s t : State} {c : Ctx} {v : Nat} {bs : List Byte} (h : s.virtWrite c v bs = .ok t) :
    s.SameCores t := by
  refine foldl_except_keeps State.SameCores.refl State.SameCores.trans (fun e x => rfl) (fun g s t ht => ?_) h
  dsimp only at ht
  split at ht
  · cases ht
  · cases ht
    exact .putPart s c (s.grainOf c .write 2 0 g none) (grainPart v bs g)

theorem State.SameJob.emit (s : State) (t : BitVec 4) (ty code : Nat) (w1 w2 w3 : W64) : s.SameJob (s.emit t ty code w1 w2 w3) := by
  have drop {u : State} (hu : s.SameJob u) : s.SameJob (if ty = 3 then u.noticed t code else u) := by
    split
    · exact hu.trans (.noticed u t code)
    · exact hu
  unfold State.emit
  simp only
  split
  · exact drop (.refl s)
  split
  · exact drop (.setTenant s t _)
  split
  · exact drop (.refl s)
  next s0 h0 =>
    have hs0 := (State.SameCores.virtWrite h0).trans (.noteDist s0 (s.tenantCtx t distEng) (s.tenant t).slotAt 32)
    split
    · exact (hs0.sameJob.trans (.setTenant _ t _)).trans (.noticed _ t code)
    · exact (hs0.sameJob.trans (.setTenant _ t _)).trans (.raise _ t 0)

theorem State.SameJob.flushEvents (s : State) (t : BitVec 4) (n : Nat) : s.SameJob (s.flushEvents t n) := by
  induction n generalizing s with
  | zero => exact .refl s
  | succ n ih =>
    unfold State.flushEvents
    simp only
    split
    · exact .refl s
    split
    · exact .refl s
    · exact ((State.SameJob.setTenant s t _).trans (.emit _ t _ _ _ _ _)).trans (ih _)

theorem State.SameJob.event (s : State) (t : BitVec 4) (ty code : Nat) (w1 w2 w3 : W64) : s.SameJob (s.event t ty code w1 w2 w3) := by
  unfold State.event
  simp only
  split
  · exact .emit s t ty code w1 w2 w3
  · exact (State.SameJob.setTenant s t _).trans (.flushEvents _ t _)

theorem State.SameJob.killEvent (s : State) (n : Nat) (code : BitVec 8) (faddr : W64) : s.SameJob (s.killEvent n code faddr) := by
  unfold State.killEvent
  simp only
  split
  · exact .refl s
  · exact .event s _ _ _ _ _ _

theorem State.jobBoundary_leaves (s : State) (k : Nat) : s.SameCores (s.jobBoundary k) := by
  unfold State.jobBoundary
  simp only
  split
  · exact ⟨rfl, rfl, rfl⟩
  · exact .refl s

/-- A job killed on the selected core ends there; what it had not yet done is discarded. -/
theorem State.killHere_core (s : State) (code : BitVec 8) (faddr : W64) : let k := (s.killHere code faddr).core
    (s.killHere code faddr).cur = s.cur ∧ k.job = s.core.job.map (fun j => { j with phase := .ending true false }) ∧
      k.land = [] ∧ k.cp.cmds = [] := by
  obtain ⟨hcur, hjob⟩ := State.SameJob.killEvent s s.cur code faddr
  have hcores := State.jobBoundary_leaves (((s.killEvent s.cur code faddr).freezeDrains).onCore Core.kill) (clusterOf s.cur)
  obtain ⟨hcur', hcore, -⟩ := hcores
  refine ⟨hcur'.trans hcur, ?_, ?_, ?_⟩
  · rw [State.killHere, hcore, ← hjob]; rfl
  · rw [State.killHere, hcore]; rfl
  · rw [State.killHere, hcore]; rfl

@[simp] theorem State.select_cur (s : State) (n : Nat) : (s.select n).cur = n := by
  unfold State.select
  split
  · exact Eq.symm ‹_›
  · rfl

@[simp] theorem State.select_core (s : State) (n : Nat) : (s.select n).core = s.getCore n := by
  unfold State.select
  split
  next h => rw [h, State.getCore_cur]
  · rfl

/-- The core that was selected stays as it is when another is. -/
theorem State.getCore_select_cur (s : State) (n : Nat) : (s.select n).getCore s.cur = s.core := by
  unfold State.select
  by_cases h : n = s.cur
  · rw [if_pos h, State.getCore_cur]
  · rw [if_neg h]
    simp only [State.getCore, if_neg (Ne.symm h)]
    exact alGet_alSet_same _ _ _ _

theorem State.killAt_core (s : State) (n : Nat) (code : BitVec 8) (faddr : W64) : let k := (s.killAt n code faddr).getCore n
    k.job = (s.getCore n).job.map (fun j => { j with phase := .ending true false }) ∧ k.land = [] ∧ k.cp.cmds = [] := by
  obtain ⟨hcur, hkill⟩ := (s.select n).killHere_core code faddr
  rw [State.select_cur] at hcur
  rw [State.select_core] at hkill
  have hcore : (s.killAt n code faddr).getCore n = ((s.select n).killHere code faddr).core := by
    have hself := ((s.select n).killHere code faddr).getCore_select_cur s.cur
    rwa [hcur] at hself
  rw [hcore]
  exact hkill

section
variable {s : State} {b : Nat}

/-- A pull on demand: served, or lost (R341, R342). -/
theorem execPull_ends {nth : Nat} (hp : s.core.t.pulls[nth]? = some b) (ha : s.core.presOf b = .absent)
    (hd : s.draining s.cur b = false)
    (hh : s.pullHeld s.cur b = false) : ∃ t, execPull nth s = .next t ∧ t.core.t.pulls = s.core.t.pulls.filter (· ≠ b) ∧
      (s.pullBlock s.cur b = none → t.core.r = s.core.r ∧ t.core.t.pullFail = s.core.t.pullFail ++ [b]) ∧
      (s.pullBlock s.cur b ≠ none → t.core.presOf b = .present ∨ t.core.presOf b = .poisoned) := by
  cases h : s.pullBlock s.cur b with
  | none => exact ⟨_, execPull_none hp ha hd hh h, rfl, fun _ => ⟨rfl, rfl⟩, fun hne => absurd rfl hne⟩
  | some u =>
    refine ⟨_, execPull_some hp ha hd hh h, ?_, (nomatch ·), fun _ => ?_⟩
    · rcases State.pullBlock_pulled h with h | h
      · rw [(h.core _).2]; rfl
      · rw [(h.core _).2]; rfl
    · exact (State.pullBlock_pulled h).imp (fun h => (h.core _).1) fun h => (h.core _).1

/-- A pull in the background (R342). -/
theorem execTricklePull_ends {loc : Option W64} {rest : List (Nat × Option W64)} (hr : s.core.runs = true)
    (hb : s.core.t.bg = (b, loc) :: rest) (ha : s.core.presOf b = .absent) (hd : s.draining s.cur b = false)
    (hh : s.locHeld s.cur b loc = false) : ∃ t, execTricklePull s = .next t ∧ t.core.t.bg = rest ∧
      (s.pullFrom s.cur b loc ≠ none → t.core.presOf b = .present ∨ t.core.presOf b = .poisoned) ∧
      (s.pullFrom s.cur b loc = none → t.core.r = s.core.r) := by
  have hrest : s.core.t.bgTaken.bg = rest := congrArg List.tail hb
  refine ⟨_, execTricklePull_some hr hb ha hd hh, ?_⟩
  cases h : s.pullFrom s.cur b loc with
  | none => exact ⟨hrest, fun hne => absurd rfl hne, fun _ => rfl⟩
  | some u =>
    have hpulled := State.pullFrom_pulled s s.cur b h
    refine ⟨?_, fun _ => hpulled.imp (fun h => (h.core _).1) fun h => (h.core _).1, (nomatch ·)⟩
    rcases hpulled with h | h
    · exact (congrArg Traps.bg (h.core Traps.bgTaken).2).trans hrest
    · exact (congrArg Traps.bg (h.core Traps.bgTaken).2).trans hrest

end

section
variable {s : State} {nth b : Nat} {e : W64} {rest : List (Nat × Option W64)} {i : Instr} (hask : s.asksPull nth b e rest i)
  (hs : s.Inv) (hb : PlainBlock b) (hok : locOk e = true) (ha : s.core.presOf b = .absent) (hd : s.draining s.cur b = false)
include hask hs hb hok ha hd

/-- What a pull of a block of the scratchpad or of the handles brings (R342). -/
theorem State.asksPull.brings :
    (e.getLsbD 42 = true → ∃ t, Machine.exec i s = .next t ∧ t.core.presOf b = .poisoned) ∧
    (e.getLsbD 42 = false → locKind e = 0 → ∃ t, Machine.exec i s = .next t ∧ t.core.presOf b = .present ∧
      ∀ i < plainSize b, t.getB s.cur (plainBase b + i) = 0) ∧
    (e.getLsbD 42 = false → locKind e ≠ 0 → ∀ data,
      s.placeRead (s.coreCtx s.cur) (locKind e + 1) (locWin e) (locAddr e) (plainSize b) = .ok data →
      ∃ t, Machine.exec i s = .next t ∧ t.core.presOf b = .present ∧
        ∀ i < plainSize b, t.getB s.cur (plainBase b + i) = data.getD i 0) := by
  obtain ⟨l, m, f, hexec⟩ := hask.exec ha hd
  refine ⟨fun hp => ?_, fun hp hk => ?_, fun hp hk data hdata => ?_⟩
  · have hpull := State.pullFrom_poisoned (s.afterReads l m) s.cur b hok hp
    have hpulled : s.Pulled ((s.afterReads l m).marked s.cur b .poisoned) s.cur b .poisoned :=
      (State.Stored.refl (s.afterReads l m)).pulled s.cur b .poisoned
    exact ⟨_, hexec _ hpull, (hpulled.core f).1⟩
  · obtain ⟨t, hpull, hpulled, hbytes⟩ := State.pullFrom_zeroed hs hb hok l m s.cur hp hk
    exact ⟨_, hexec _ hpull, (hpulled.core f).1, fun i hi => (t.onTraps_getB f _ _).trans (hbytes i hi)⟩
  · obtain ⟨t, hpull, hpulled, hbytes⟩ := State.pullFrom_read hs hb hok l m s.cur hp hk hdata
    exact ⟨_, hexec _ hpull, (hpulled.core f).1, fun i hi => (t.onTraps_getB f _ _).trans (hbytes i hi)⟩

end

theorem locAddr_eq (e : W64) : locAddr e = 64 * (e.toNat % 2 ^ 42) := by
  simp [locAddr, bits]

/-- Where the bytes of a drained block are written (R343). -/
theorem State.drainTo_ok {s u : State} {n : Nat} {d : Drain} {e : W64} (hloc : d.loc = some e) (hok : locOk e = true)
    (hk : locKind e ≠ 0) (hb : PlainBlock d.block) (hp : (s.getCore n).presOf d.block ≠ .poisoned)
    (h : s.placeWrite (if d.bytes = none then s.coreCtx n else s.saveCtx n d.xlat d.tenant) (locKind e + 1) (locWin e) (locAddr e)
      (d.bytes.getD ((List.range (plainSize d.block)).map fun i => s.getB n (plainBase d.block + i))) = .ok u) :
    s.drainTo n d = some u := by
  have hsp : (if locKind e = 3 then 4 else locSpace e) = locKind e + 1 := by unfold locSpace; split <;> omega
  have hctx : (if d.bytes.isNone then s.coreCtx n else s.saveCtx n d.xlat d.tenant) =
      if d.bytes = none then s.coreCtx n else s.saveCtx n d.xlat d.tenant := by cases d.bytes <;> rfl
  simp only [State.drainTo, hloc, hok, hk, hp, hsp, hctx, s.blockBytes_plain hb n, h]
  simp

theorem blockReal_of_lt {b : Nat} (h : b < 295 ∨ 320 ≤ b ∧ b < 404) : blockReal b = true := by
  simpa [blockReal] using h

theorem Core.job_of_runs {c : Core} (h : c.runs = true) : ∃ j, c.job = some j := by
  cases hj : c.job with
  | none => simp [Core.runs, hj] at h
  | some j => exact ⟨j, rfl⟩

section
variable (n : Nat) (s : State) (hn : n < 2048)
include hn

theorem execSoftError_block {b : Nat} (p : BitVec 9) (hp : p.toNat = b) (hb : b < 295 ∨ 320 ≤ b ∧ b < 404) :
    ∃ t, execSoftError n (.block p) s = .next t ∧
      ((t.getCore n).presOf b = if (s.getCore n).presOf b = .absent then .absent else .poisoned) ∧
      (∀ h, h ≠ b → (t.getCore n).presOf h = (s.getCore n).presOf h) ∧ ∀ h, h ≠ n → t.getCore h = s.getCore h := by
  subst hp
  refine ⟨s.putCore n ((s.getCore n).poisonBlock p.toNat), ?_, ?_, fun h hh => ?_, fun h hh => ?_⟩
  · rw [execSoftError, onDevice_core hn]
    exact congrArg Host.Outcome.next (if_pos (blockReal_of_lt hb))
  · rw [State.getCore_putCore, Core.presOf_poisonBlock, if_pos rfl]
  · rw [State.getCore_putCore, Core.presOf_poisonBlock, if_neg hh]
  · rw [State.getCore_putCore_other _ _ _ _ (Ne.symm hh)]

theorem execSoftError_state (hr : (s.getCore n).runs = true) :
    ∃ t, execSoftError n .state s = .next t ∧ t.getCore n = (s.getCore n).noteStop (asyncStop 0x15 0 0) := by
  refine ⟨s.putCore n ((s.getCore n).noteStop (asyncStop 0x15 0 0)), ?_, State.getCore_putCore ..⟩
  rw [execSoftError, onDevice_core hn]
  exact congrArg Host.Outcome.next (if_pos hr)

theorem execSoftError_supervisor (hr : (s.getCore n).runs = true) :
    ∃ t j, execSoftError n .supervisor s = .next t ∧ (t.getCore n).job = some j ∧ j.phase = .ending true false ∧
      (t.getCore n).land = [] ∧ (t.getCore n).cp.cmds = [] := by
  obtain ⟨j, hj⟩ := Core.job_of_runs hr
  obtain ⟨hjob, hland, hcmds⟩ := s.killAt_core n 0x15 0
  rw [hj] at hjob
  refine ⟨s.killAt n 0x15 0, _, ?_, hjob, rfl, hland, hcmds⟩
  rw [execSoftError, onDevice_core hn]
  exact congrArg Host.Outcome.next (if_pos hr)

end

theorem execMemorySoftError_marks (s : State) {grain : Nat} (h : 64 * grain < 2 ^ 39) (h' : 64 * grain % 2 ^ 36 < 0x861000000) :
    ∃ l, execMemorySoftError grain s = .next { s with poison := l } ∧ ∀ g, g ∈ l ↔ g ∈ s.poison ∨ g = grain := by
  have hok : devOk (64 * grain) = true := by simp only [devOk, h, h', decide_true, Bool.and_self]
  obtain ⟨l, hl⟩ := s.poisonGrain_eq grain
  refine ⟨l, ?_, fun g => ?_⟩
  · rw [execMemorySoftError, if_pos hok, hl]
  · rw [← mem_poisonGrain, hl]

/-- Settles O52: a pull by what its location gives, the end of a drain by the machine that its write leaves (the IDENT word's write
then does the same beside the changed core), an error by the block, the job or the grain that it hits. -/
theorem blocksArePulledDrainedAndPoisoned : Obligations.BlocksArePulledDrainedAndPoisoned := by
  intro n nth b grain fails loc rest s hn k idle here back got c plain base size
  refine ⟨fun hp hhere => ?_, fun hr hb hback => ?_, fun hr hb hm => ?_, fun hp ha hnot => ?_, fun d hd hheld => ?_,
    fun d hd hfirst hfree => ?_, fun d i hd hfirst hfree hi hsave => ?_, ?_,
    fun p hp hb => ?_, fun hr => ?_, fun hr => ?_, fun h h' => ?_⟩
  · obtain ⟨⟨ha, hd⟩, hh⟩ := hhere
    exact execPull_ends hp ha hd hh
  · obtain ⟨⟨ha, hd⟩, hh⟩ := hback
    exact execTricklePull_ends hr hb ha hd hh
  · exact execTricklePull_idle hr hb hm
  · refine execPull_waits hp ha ?_
    by_contra hfree
    rw [not_or, Bool.not_eq_true, Bool.not_eq_true] at hfree
    exact hnot ⟨⟨ha, hfree.1⟩, hfree.2⟩
  · rw [exec_blockDrain, execBlockDrain, onDevice_core hn, State.drainEnd_held hd hheld]
  · obtain ⟨hdrains, hr⟩ := drain_leaves s n nth d fails
    refine ⟨_, execBlockDrain_eq hn hd hfirst hfree, hdrains, congrArg Regs.pres hr, ?_, ?_, ?_⟩
    · rintro rfl hb
      exact (drain_fails s n nth d).1 hb
    · rintro rfl
      exact (drain_fails s n nth d).2
    · rintro e u rfl hloc hok hk hb hp hidents hw
      rw [← locAddr_eq] at hw
      have hwrote := State.drainWrote_some (State.drainTo_ok hloc hok hk hb hp hw)
      obtain ⟨hmem, hhost⟩ := drain_memory (nth := nth) (d := d) (fails := false) hidents
      exact ⟨hmem.trans (congrArg State.mem hwrote), hhost.trans (congrArg State.host hwrote)⟩
  · intro hdr ctx damaged word
    exact ⟨_, execBlockDrain_eq hn hd hfirst hfree, fun u hu => drain_ident hi hsave hu⟩
  · intro e hs hb hok hidle asked i hask
    have hbrings := State.asksPull.brings hask hs hb hok hidle.1 hidle.2
    rwa [locAddr_eq] at hbrings
  · exact execSoftError_block n s hn p hp hb
  · exact execSoftError_state n s hn hr
  · exact execSoftError_supervisor n s hn hr
  · exact execMemorySoftError_marks s h h'

end Sys2Proof.Machine
end
